-- ==== Sys2Proof/Word.lean ====
section
/-! DEFINITION. The words of the SXK-440 and how a bit field is read from one and put into one (R3).

Bits are numbered from 0 at the least significant bit; `[high:low]` names a range.  A field's value is the
unsigned integer its bits form (R3), so a field is read as a `Nat`. -/

namespace Sys2Proof

/-- A byte of memory. -/
abbrev Byte := BitVec 8
/-- A 32-bit parcel (R173). -/
abbrev Parcel := BitVec 32
/-- A 64-bit word: an X register, a privileged register, half a page-table entry. -/
abbrev Word64 := BitVec 64
/-- The payload of a token (R42). -/
abbrev Payload := BitVec 512
/-- A configuration frame (R183). -/
abbrev Frame := BitVec 256
/-- A controller register number X0 to X15 (R37). -/
abbrev XReg := Fin 16

/-- The `len` bits of `n` from bit `lo` up (R3). -/
def natBits (n lo len : Nat) : Nat := (n >>> lo) % 2 ^ len

/-- The field of `len` bits of the word `w` from bit `lo` up, as an unsigned integer (R3). -/
def fld {n : Nat} (w : BitVec n) (lo len : Nat) : Nat := natBits w.toNat lo len

/-- Bit `i` of the word `w` (R3). -/
def bit {n : Nat} (w : BitVec n) (i : Nat) : Bool := w.getLsbD i

/-- `w` with the field of `len` bits from bit `lo` up replaced by `v` (R3). -/
def setFld {n : Nat} (w : BitVec n) (lo len v : Nat) : BitVec n :=
  BitVec.ofNat n (w.toNat - natBits w.toNat lo len * 2 ^ lo + (v % 2 ^ len) * 2 ^ lo)

/-- The number a Boolean stands for in a one-bit field. -/
def b2n (b : Bool) : Nat := if b then 1 else 0

/-- The signed value of the low `w` bits of `n`, two's complement (R98). -/
def signedOf (w n : Nat) : Int :=
  let m := n % 2 ^ w
  if w = 0 then 0 else if m < 2 ^ (w - 1) then (m : Int) else (m : Int) - (2 ^ w : Nat)

/-- The `w`-bit two's-complement pattern of an integer, modulo `2^w`. -/
def patternOf (w : Nat) (v : Int) : Nat := (v % (2 ^ w : Nat)).toNat

/-- The bytes of a word, lowest first (R4). -/
def bytesOf {n : Nat} (w : BitVec n) (count : Nat) : List Byte :=
  (List.range count).map fun k => BitVec.ofNat 8 (natBits w.toNat (8 * k) 8)

/-- The integer a list of bytes stands for, lowest byte first (R4). -/
def natOfBytes : List Byte → Nat
  | [] => 0
  | b :: bs => b.toNat + 256 * natOfBytes bs

end Sys2Proof
end

