-- ==== Sys2Proof/Machine/Crypto.lean ====
section
/-! DEFINITION. SHA-512 and Ed25519, which the spec uses by name (R1, R384 to R386): the functions are those of FIPS 180-4
and RFC 8032, whose texts the spec does not repeat (PRESUMED, log entry 27).

The loops force each number before they go on, so that the kernel can evaluate them. -/

namespace Sys2Proof.Machine

/-- A function of a number, which is evaluated first. -/
def forced {α : Type} (n : Nat) (f : Nat → α) : α := match n with | 0 => f 0 | k + 1 => f (k + 1)

/-! ### SHA-512 -/

/-- The round constants of SHA-512. -/
def shaK : List Nat :=
  [0x428A2F98D728AE22, 0x7137449123EF65CD, 0xB5C0FBCFEC4D3B2F, 0xE9B5DBA58189DBBC, 0x3956C25BF348B538,
   0x59F111F1B605D019, 0x923F82A4AF194F9B, 0xAB1C5ED5DA6D8118, 0xD807AA98A3030242, 0x12835B0145706FBE,
   0x243185BE4EE4B28C, 0x550C7DC3D5FFB4E2, 0x72BE5D74F27B896F, 0x80DEB1FE3B1696B1, 0x9BDC06A725C71235,
   0xC19BF174CF692694, 0xE49B69C19EF14AD2, 0xEFBE4786384F25E3, 0x0FC19DC68B8CD5B5, 0x240CA1CC77AC9C65] ++
  [0x2DE92C6F592B0275, 0x4A7484AA6EA6E483, 0x5CB0A9DCBD41FBD4, 0x76F988DA831153B5, 0x983E5152EE66DFAB,
   0xA831C66D2DB43210, 0xB00327C898FB213F, 0xBF597FC7BEEF0EE4, 0xC6E00BF33DA88FC2, 0xD5A79147930AA725,
   0x06CA6351E003826F, 0x142929670A0E6E70, 0x27B70A8546D22FFC, 0x2E1B21385C26C926, 0x4D2C6DFC5AC42AED,
   0x53380D139D95B3DF, 0x650A73548BAF63DE, 0x766A0ABB3C77B2A8, 0x81C2C92E47EDAEE6, 0x92722C851482353B] ++
  [0xA2BFE8A14CF10364, 0xA81A664BBC423001, 0xC24B8B70D0F89791, 0xC76C51A30654BE30, 0xD192E819D6EF5218,
   0xD69906245565A910, 0xF40E35855771202A, 0x106AA07032BBD1B8, 0x19A4C116B8D2D0C8, 0x1E376C085141AB53,
   0x2748774CDF8EEB99, 0x34B0BCB5E19B48A8, 0x391C0CB3C5C95A63, 0x4ED8AA4AE3418ACB, 0x5B9CCA4F7763E373,
   0x682E6FF3D6B2B8A3, 0x748F82EE5DEFB2FC, 0x78A5636F43172F60, 0x84C87814A1F0AB72, 0x8CC702081A6439EC] ++
  [0x90BEFFFA23631E28, 0xA4506CEBDE82BDE9, 0xBEF9A3F7B2C67915, 0xC67178F2E372532B, 0xCA273ECEEA26619C,
   0xD186B8C721C0C207, 0xEADA7DD6CDE0EB1E, 0xF57D4F7FEE6ED178, 0x06F067AA72176FBA, 0x0A637DC5A2C898A6,
   0x113F9804BEF90DAE, 0x1B710B35131C471B, 0x28DB77F523047D84, 0x32CAAB7B40C72493, 0x3C9EBE0A15C9BEBC,
   0x431D67C49C100D4C, 0x4CC5D4BECB3E42B6, 0x597F299CFC657E2A, 0x5FCB6FAB3AD6FAEC, 0x6C44198C4A475817]

/-- The initial hash value of SHA-512. -/
def shaInit : List Nat :=
  [0x6A09E667F3BCC908, 0xBB67AE8584CAA73B, 0x3C6EF372FE94F82B, 0xA54FF53A5F1D36F1,
   0x510E527FADE682D1, 0x9B05688C2B3E6C1F, 0x1F83D9ABFB41BD6B, 0x5BE0CD19137E2179]

/-- A 64-bit word turned right. -/
def ror64 (x k : Nat) : Nat := (x >>> k ||| x <<< (64 - k)) % 2 ^ 64

/-- The next word of the message schedule, from the sixteen before it. -/
def shaNext (w : List Nat) : Nat :=
  let a := w.getD 1 0
  let b := w.getD 14 0
  ((ror64 b 19 ^^^ ror64 b 61 ^^^ b >>> 6) + w.getD 9 0 + (ror64 a 1 ^^^ ror64 a 8 ^^^ a >>> 7) + w.getD 0 0) % 2 ^ 64

/-- The rounds of SHA-512 over the constants that are left, with the window of sixteen schedule words. -/
def shaRounds : List Nat → List Nat → Nat → Nat → Nat → Nat → Nat → Nat → Nat → Nat → List Nat
  | [], _, a, b, c, d, e, f, g, h => [a, b, c, d, e, f, g, h]
  | k :: ks, w, a, b, c, d, e, f, g, h =>
    forced (h + (ror64 e 14 ^^^ ror64 e 18 ^^^ ror64 e 41) + ((e &&& f) ^^^ ((2 ^ 64 - 1 - e) &&& g)) + k + w.getD 0 0) fun t =>
    forced ((t + (ror64 a 28 ^^^ ror64 a 34 ^^^ ror64 a 39) + ((a &&& b) ^^^ (a &&& c) ^^^ (b &&& c))) % 2 ^ 64) fun a' =>
    forced ((d + t) % 2 ^ 64) fun e' =>
    forced (shaNext w) fun n => shaRounds ks (w.tail ++ [n]) a' a b c e' e f g

/-- One block of SHA-512: sixteen words into the hash value. -/
def shaBlock (h w : List Nat) : List Nat :=
  let r := shaRounds shaK w (h.getD 0 0) (h.getD 1 0) (h.getD 2 0) (h.getD 3 0) (h.getD 4 0) (h.getD 5 0) (h.getD 6 0)
    (h.getD 7 0)
  (h.zip r).map fun p => forced ((p.1 + p.2) % 2 ^ 64) id

/-- A number from bytes, the most significant first. -/
def beNat (bs : List Byte) : Nat := bs.foldl (fun a b => forced (a * 256 + b.toNat) id) 0

/-- A number from bytes, the least significant first. -/
def leNat (bs : List Byte) : Nat := beNat bs.reverse

/-- The `n` bytes of a number, the least significant first. -/
def leBytes (n v : Nat) : List Byte := (List.range n).map fun k => BitVec.ofNat 8 (v / 256 ^ k)

/-- Bytes in words of eight, the most significant byte first. -/
def words64 : Nat → List Byte → List Nat
  | 0, _ => []
  | n + 1, bs => forced (beNat (bs.take 8)) fun w => w :: words64 n (bs.drop 8)

/-- The blocks of a padded message, hashed in order. -/
def shaBlocks : Nat → List Byte → List Nat → List Nat
  | 0, _, h => h
  | n + 1, bs, h => shaBlocks n (bs.drop 128) (shaBlock h (words64 16 (bs.take 128)))

/-- A message with its padding: a one bit, zeros, and its length in bits in sixteen bytes. -/
def shaPad (m : List Byte) : List Byte :=
  m ++ [0x80] ++ List.replicate ((239 - m.length % 128) % 128) 0 ++ (leBytes 16 (8 * m.length)).reverse

/-- SHA-512, 64 bytes. -/
def sha512 (m : List Byte) : List Byte :=
  (shaBlocks (m.length / 128 + 1 + (if m.length % 128 < 112 then 0 else 1)) (shaPad m) shaInit).flatMap fun w =>
    (leBytes 8 w).reverse

/-! ### Ed25519 -/

/-- The prime of the field. -/
def edP : Nat := 2 ^ 255 - 19
/-- The order of the base point. -/
def edL : Nat := 2 ^ 252 + 27742317777372353535851937790883648493
/-- The constant d of the curve. -/
def edD : Nat := 37095705934669439343138083508754565189542113879843219016388785533085940283555
/-- A square root of −1. -/
def edI : Nat := 19681161376707505956807079304988542015446066515923890162744021073123829784752

/-- A point of the curve in extended coordinates. -/
structure EdPt where
  x : Nat
  y : Nat
  z : Nat
  t : Nat
  deriving DecidableEq, Repr

/-- The neutral point. -/
def edZero : EdPt := ⟨0, 1, 1, 0⟩
/-- The base point. -/
def edBase : EdPt :=
  ⟨15112221349535400772501151409588531511454012693041857206046113283949847762202,
   46316835694926478169428394003475163141307993866256225615783033603165251855960, 1,
   46827403850823179245072216630277197565144205554125654976674165829533817101731⟩

/-- A product in the field. -/
def edMul (a b : Nat) : Nat := a * b % edP
/-- A difference in the field. -/
def edSub (a b : Nat) : Nat := (a + (edP - b)) % edP

/-- The sum of two points. -/
def edAdd (u v : EdPt) : EdPt :=
  forced (edMul (edSub u.y u.x) (edSub v.y v.x)) fun a =>
  forced (edMul (u.y + u.x) (v.y + v.x)) fun b =>
  forced (edMul (2 * u.t * v.t) edD) fun c =>
  forced (edMul (2 * u.z) v.z) fun d =>
  let e := edSub b a
  let f := edSub d c
  forced (edMul e f) fun x => forced (edMul (d + c) (b + a)) fun y =>
  forced (edMul f (d + c)) fun z => forced (edMul e (b + a)) fun t => ⟨x, y, z, t⟩

/-- A multiple of a point, over the `k` low bits of the scalar. -/
def edTimes : Nat → Nat → EdPt → EdPt → EdPt
  | 0, _, _, acc => acc
  | k + 1, n, ⟨x, y, z, t⟩, ⟨ax, ay, az, at_⟩ =>
    forced (n / 2) fun h => edTimes k h (edAdd ⟨x, y, z, t⟩ ⟨x, y, z, t⟩)
      (if n % 2 = 1 then edAdd ⟨ax, ay, az, at_⟩ ⟨x, y, z, t⟩ else ⟨ax, ay, az, at_⟩)

/-- A power in the field, over the `k` low bits of the exponent. -/
def edPow : Nat → Nat → Nat → Nat → Nat
  | 0, _, _, acc => acc
  | k + 1, n, b, acc =>
    forced (n / 2) fun h => forced (edMul b b) fun b' =>
    forced (if n % 2 = 1 then edMul acc b else acc) fun acc' => edPow k h b' acc'

/-- The inverse in the field. -/
def edInv (a : Nat) : Nat := edPow 255 (edP - 2) a 1

/-- The 32 bytes of a point: y, with the lowest bit of x on top. -/
def edBytes (u : EdPt) : List Byte :=
  forced (edInv u.z) fun i => forced (edMul u.x i) fun x => forced (edMul u.y i) fun y => leBytes 32 (y + x % 2 * 2 ^ 255)

/-- The point of 32 bytes; none where they name no point. -/
def edPoint (bs : List Byte) : Option EdPt :=
  forced (leNat bs) fun n => forced (n % 2 ^ 255) fun y =>
  if edP ≤ y then none
  else
    forced (edMul (edSub (edMul y y) 1) (edInv (edMul edD (edMul y y) + 1))) fun x2 =>
    forced (edPow 255 ((edP + 3) / 8) x2 1) fun r =>
    forced (if edMul r r = x2 then r else edMul r edI) fun x =>
    if edMul x x ≠ x2 ∨ (x = 0 ∧ 2 ^ 255 ≤ n) then none
    else forced (if x % 2 = n / 2 ^ 255 then x else edP - x) fun x' => forced (edMul x' y) fun t => some ⟨x', y, 1, t⟩

/-- Two points are one. -/
def edSame (u v : EdPt) : Bool :=
  edMul u.x v.z == edMul v.x u.z && edMul u.y v.z == edMul v.y u.z

/-- The scalar that binds a signature to its key and its message. -/
def edChallenge (r a m : List Byte) : Nat := leNat (sha512 (r ++ a ++ m)) % edL

/-- An Ed25519 signature of a message verifies under a public key. -/
def edVerify (pub m sig : List Byte) : Bool :=
  forced (leNat (sig.drop 32)) fun s =>
  if sig.length ≠ 64 ∨ pub.length ≠ 32 ∨ edL ≤ s then false
  else match edPoint pub, edPoint (sig.take 32) with
    | some a, some r => edSame (edTimes 253 s edBase edZero)
        (edAdd r (forced (edChallenge (sig.take 32) pub m) fun k => edTimes 253 k a edZero))
    | _, _ => false

/-- The secret scalar of a seed. -/
def edScalar (seed : List Byte) : Nat :=
  let n := leNat ((sha512 seed).take 32) % 2 ^ 254
  2 ^ 254 + n / 8 * 8

/-- The public key of a seed, 32 bytes. -/
def edPublic (seed : List Byte) : List Byte := edBytes (edTimes 255 (edScalar seed) edBase edZero)

/-- The Ed25519 signature of a message under a seed, 64 bytes. -/
def edSign (seed m : List Byte) : List Byte :=
  let r := leNat (sha512 ((sha512 seed).drop 32 ++ m)) % edL
  let rb := edBytes (edTimes 253 r edBase edZero)
  rb ++ leBytes 32 ((r + edChallenge rb (edPublic seed) m * edScalar seed) % edL)

end Sys2Proof.Machine
end

