-- ==== Sys2Proof/Syntax.lean ====
section
/-! DEFINITION. The steps of the SXK-440 as data: one constructor of `Instr` per row of spec/opcode_table.json.

Element instructions carry the operand codes their entry lists and, in their two- and three-parcel rows, the
second parcel (R175 to R178).  Controller commands carry their registers, immediate, literal and second parcel
(R179, R180).  Matrix opcodes carry the matrix token (R181).  The rows that no program word encodes, the part's
own events, carry the place of the event and what the outside world supplies to it. -/

namespace Sys2Proof

/-- The element formats of R93, in the order of their codes 0x0 to 0x7. -/
inductive Fmt where
  | fp32 | bf16 | int32 | int8 | int4 | mxint8 | mxint4 | mxfp4
  deriving DecidableEq, Repr

/-- The rounding modes of R100, in the order of their codes. -/
inductive Rnd where
  | rne | rtz | rdn | rup
  deriving DecidableEq, Repr

/-- The absent modes of R104, in the order of their codes. -/
inductive Abm where
  | abp | abz
  deriving DecidableEq, Repr

/-- The QG codes of R178. -/
inductive Qg where
  | none | qt | qf | qany
  deriving DecidableEq, Repr

/-- A source operand code of R176. -/
inductive Src where
  | inp (k : Fin 6)
  | zero
  | none
  | peek (k : Fin 6)
  | c (k : Fin 8)
  | s (k : Fin 8)
  deriving DecidableEq, Repr

/-- A destination code of R176. -/
inductive Dst where
  | out (k : Fin 4)
  | none
  | s (k : Fin 8)
  deriving DecidableEq, Repr

/-- The second parcel of an element instruction (R177). -/
structure Mods where
  ty    : Fmt
  rnd   : Rnd
  sat   : Bool
  nprop : Bool
  abm   : Abm
  omask : BitVec 4
  qg    : Qg
  imm   : BitVec 16
  deriving DecidableEq, Repr

/-- The second parcel of a memory-node instruction (R257): TYPE, RND and IMM; every other field is 0. -/
structure MemMods where
  ty  : Fmt
  rnd : Rnd
  imm : BitVec 16
  deriving DecidableEq, Repr

/-- The scopes of R180 and R311, in the order of their codes. -/
inductive Scope where
  | cluster | die | device | system
  deriving DecidableEq, Repr

/-- The second parcel of a controller command (R180). -/
structure CtlP2 where
  wsem  : BitVec 8
  wthr  : BitVec 7
  wc    : Bool
  ssem  : BitVec 8
  sinc  : BitVec 4
  scope : Scope
  deriving DecidableEq, Repr

/-- The fields of a matrix token below its OP (R181). -/
structure MxTok where
  mm1  : BitVec 5
  nm1  : BitVec 5
  kg   : BitVec 4
  koff : BitVec 4
  acc  : Bool
  tile : Bool
  dfmt : Bool
  blk  : Bool
  int  : Bool
  aclm : BitVec 8
  bclm : BitVec 8
  deriving DecidableEq, Repr

/-- A buffer that receives tokens (R22, R30); `t` is the physical tile, `u` and `g` choose the second unit. -/
inductive BufId where
  | cuIn (t : Nat) (u : Bool) (k : Fin 6)
  | cuQ (t : Nat) (u : Bool) (k : Fin 4)
  | mx (t : Nat)
  | mu (t : Nat) (u : Bool)
  | ag (t : Nat) (g : Bool)
  | elastic (t : Nat) (track : BitVec 6)
  | elasticCtl (t : Nat) (track : BitVec 6)
  deriving DecidableEq, Repr

/-- What the error-correcting code finds at an access (R438), supplied by the environment. -/
inductive Ecc where
  | ok | corrected | uncorrected
  deriving DecidableEq, Repr

/-- What an access meets besides data: its ECC outcome, and whether it activates its row (R439; log entry 81). -/
structure Obs where
  ecc : Ecc
  act : Bool
  deriving DecidableEq, Repr

/-- Who makes a far-memory access: the memory units of a tile, or an engine context (R442). -/
inductive Requester where
  | node (t : Nat)
  | engine (ctx : Nat)
  deriving DecidableEq, Repr

/-- A place the launch controller or scheduler chooses (R331 leaves the choice open). -/
structure Place where
  die     : Nat
  cluster : Nat
  anchor  : Nat
  deriving DecidableEq, Repr

/-- Who writes a privileged register (R387): the host, whose write at a BAR0 offset reaches the bytes that `be` names (R4),
or a supervisor. -/
inductive WriteBy where
  | host (be : BitVec 8 := 0xFF)
  | supervisor
  deriving DecidableEq, Repr

/-- What a start finds (R383, R384, R455): the failing steps by die, failing stacks, the ports that fail to train, the
tiles and blocks that fail step 8, the fused key hash, the firmware images of each die, and the code that the supervisor
image of a die, and the self-test image for the system context, hold. -/
structure StartObs where
  failStep : List (Nat × Nat)
  hbmFail  : List (Nat × Nat)
  linkFail : List (Nat × Nat)
  fence    : List (Nat × Nat)
  keyHash  : List Byte
  images   : List (Nat × List Byte)
  code     : List (Nat × List Parcel)
  selfCode : List Parcel
  deriving DecidableEq, Repr

/-- A Function Level Reset (R451): that of a virtual function, or that of the physical function, which is a warm start, with
what the start meets. -/
inductive FlrOf where
  | virtual (fn : Nat)
  | physical (o : StartObs)
  deriving DecidableEq, Repr

/-- A PCI Express error (R450). -/
inductive HostErr where
  | correctable | uncorrectable | down
  deriving DecidableEq, Repr

/-- What follows a bad CRC (R444): a replay; after eight failures, half width or the port down. -/
inductive CrcObs where
  | replay
  | narrow (lanes : BitVec 16)
  | down
  deriving DecidableEq, Repr

/-- The result of a targeted self-test (R409). -/
inductive TestObs where
  | transient | lasting | notRun
  deriving DecidableEq, Repr

/-- The steps of the part: one constructor per row of spec/opcode_table.json. -/
inductive Instr where
  /-- NOP (R209). -/
  | nop
  /-- NOP_2P (R209). -/
  | nop2P (m : Mods)
  /-- HALT (R209). -/
  | halt
  /-- HALT_2P (R209). -/
  | halt2P (m : Mods)
  /-- ADD (R210). -/
  | add (d : Dst) (a b : Src)
  /-- ADD_2P (R210). -/
  | add2P (d : Dst) (a b : Src) (m : Mods)
  /-- SUB (R210). -/
  | sub (d : Dst) (a b : Src)
  /-- SUB_2P (R210). -/
  | sub2P (d : Dst) (a b : Src) (m : Mods)
  /-- ADDS (R210). -/
  | adds (d : Dst) (a b : Src)
  /-- ADDS_2P (R210). -/
  | adds2P (d : Dst) (a b : Src) (m : Mods)
  /-- SUBS (R210). -/
  | subs (d : Dst) (a b : Src)
  /-- SUBS_2P (R210). -/
  | subs2P (d : Dst) (a b : Src) (m : Mods)
  /-- NEG (R210). -/
  | neg (d : Dst) (a : Src)
  /-- NEG_2P (R210). -/
  | neg2P (d : Dst) (a : Src) (m : Mods)
  /-- ABS (R210). -/
  | abs (d : Dst) (a : Src)
  /-- ABS_2P (R210). -/
  | abs2P (d : Dst) (a : Src) (m : Mods)
  /-- MIN (R210). -/
  | min (d : Dst) (a b : Src)
  /-- MIN_2P (R210). -/
  | min2P (d : Dst) (a b : Src) (m : Mods)
  /-- MAX (R210). -/
  | max (d : Dst) (a b : Src)
  /-- MAX_2P (R210). -/
  | max2P (d : Dst) (a b : Src) (m : Mods)
  /-- MINU (R210). -/
  | minu (d : Dst) (a b : Src)
  /-- MINU_2P (R210). -/
  | minu2P (d : Dst) (a b : Src) (m : Mods)
  /-- MAXU (R210). -/
  | maxu (d : Dst) (a b : Src)
  /-- MAXU_2P (R210). -/
  | maxu2P (d : Dst) (a b : Src) (m : Mods)
  /-- MUL (R211). -/
  | mul (d : Dst) (a b : Src)
  /-- MUL_2P (R211). -/
  | mul2P (d : Dst) (a b : Src) (m : Mods)
  /-- MULH (R211). -/
  | mulh (d : Dst) (a b : Src)
  /-- MULH_2P (R211). -/
  | mulh2P (d : Dst) (a b : Src) (m : Mods)
  /-- MULHU (R211). -/
  | mulhu (d : Dst) (a b : Src)
  /-- MULHU_2P (R211). -/
  | mulhu2P (d : Dst) (a b : Src) (m : Mods)
  /-- MAD (R211). -/
  | mad (d : Dst) (a b c : Src)
  /-- MAD_2P (R211). -/
  | mad2P (d : Dst) (a b c : Src) (m : Mods)
  /-- DOT4 (R212). -/
  | dot4 (d : Dst) (a b c : Src)
  /-- DOT4_2P (R212). -/
  | dot42P (d : Dst) (a b c : Src) (m : Mods)
  /-- AND (R213). -/
  | and (d : Dst) (a b : Src)
  /-- AND_2P (R213). -/
  | and2P (d : Dst) (a b : Src) (m : Mods)
  /-- OR (R213). -/
  | or (d : Dst) (a b : Src)
  /-- OR_2P (R213). -/
  | or2P (d : Dst) (a b : Src) (m : Mods)
  /-- XOR (R213). -/
  | xor (d : Dst) (a b : Src)
  /-- XOR_2P (R213). -/
  | xor2P (d : Dst) (a b : Src) (m : Mods)
  /-- NOT (R213). -/
  | not (d : Dst) (a : Src)
  /-- NOT_2P (R213). -/
  | not2P (d : Dst) (a : Src) (m : Mods)
  /-- ANDN (R213). -/
  | andn (d : Dst) (a b : Src)
  /-- ANDN_2P (R213). -/
  | andn2P (d : Dst) (a b : Src) (m : Mods)
  /-- SHL (R214). -/
  | shl (d : Dst) (a b : Src)
  /-- SHL_2P (R214). -/
  | shl2P (d : Dst) (a b : Src) (m : Mods)
  /-- SHR (R214). -/
  | shr (d : Dst) (a b : Src)
  /-- SHR_2P (R214). -/
  | shr2P (d : Dst) (a b : Src) (m : Mods)
  /-- SAR (R214). -/
  | sar (d : Dst) (a b : Src)
  /-- SAR_2P (R214). -/
  | sar2P (d : Dst) (a b : Src) (m : Mods)
  /-- ROL (R214). -/
  | rol (d : Dst) (a b : Src)
  /-- ROL_2P (R214). -/
  | rol2P (d : Dst) (a b : Src) (m : Mods)
  /-- CLZ (R214). -/
  | clz (d : Dst) (a : Src)
  /-- CLZ_2P (R214). -/
  | clz2P (d : Dst) (a : Src) (m : Mods)
  /-- POPC (R214). -/
  | popc (d : Dst) (a : Src)
  /-- POPC_2P (R214). -/
  | popc2P (d : Dst) (a : Src) (m : Mods)
  /-- CMP_EQ (R215). -/
  | cmpEq (d : Dst) (a b : Src)
  /-- CMP_EQ_2P (R215). -/
  | cmpEq2P (d : Dst) (a b : Src) (m : Mods)
  /-- CMP_NE (R215). -/
  | cmpNe (d : Dst) (a b : Src)
  /-- CMP_NE_2P (R215). -/
  | cmpNe2P (d : Dst) (a b : Src) (m : Mods)
  /-- CMP_LT (R215). -/
  | cmpLt (d : Dst) (a b : Src)
  /-- CMP_LT_2P (R215). -/
  | cmpLt2P (d : Dst) (a b : Src) (m : Mods)
  /-- CMP_LE (R215). -/
  | cmpLe (d : Dst) (a b : Src)
  /-- CMP_LE_2P (R215). -/
  | cmpLe2P (d : Dst) (a b : Src) (m : Mods)
  /-- CMP_LTU (R215). -/
  | cmpLtu (d : Dst) (a b : Src)
  /-- CMP_LTU_2P (R215). -/
  | cmpLtu2P (d : Dst) (a b : Src) (m : Mods)
  /-- CMP_LEU (R215). -/
  | cmpLeu (d : Dst) (a b : Src)
  /-- CMP_LEU_2P (R215). -/
  | cmpLeu2P (d : Dst) (a b : Src) (m : Mods)
  /-- SEL (R216). -/
  | sel (d : Dst) (a b c : Src)
  /-- SEL_2P (R216). -/
  | sel2P (d : Dst) (a b c : Src) (m : Mods)
  /-- SELA (R216). -/
  | sela (d : Dst) (a b c : Src)
  /-- SELA_2P (R216). -/
  | sela2P (d : Dst) (a b c : Src) (m : Mods)
  /-- FADD (R218). -/
  | fadd (d : Dst) (a b : Src)
  /-- FADD_2P (R218). -/
  | fadd2P (d : Dst) (a b : Src) (m : Mods)
  /-- FSUB (R218). -/
  | fsub (d : Dst) (a b : Src)
  /-- FSUB_2P (R218). -/
  | fsub2P (d : Dst) (a b : Src) (m : Mods)
  /-- FMUL (R218). -/
  | fmul (d : Dst) (a b : Src)
  /-- FMUL_2P (R218). -/
  | fmul2P (d : Dst) (a b : Src) (m : Mods)
  /-- FFMA (R218). -/
  | ffma (d : Dst) (a b c : Src)
  /-- FFMA_2P (R218). -/
  | ffma2P (d : Dst) (a b c : Src) (m : Mods)
  /-- FFMS (R218). -/
  | ffms (d : Dst) (a b c : Src)
  /-- FFMS_2P (R218). -/
  | ffms2P (d : Dst) (a b c : Src) (m : Mods)
  /-- FNMA (R218). -/
  | fnma (d : Dst) (a b c : Src)
  /-- FNMA_2P (R218). -/
  | fnma2P (d : Dst) (a b c : Src) (m : Mods)
  /-- FMIN (R219). -/
  | fmin (d : Dst) (a b : Src)
  /-- FMIN_2P (R219). -/
  | fmin2P (d : Dst) (a b : Src) (m : Mods)
  /-- FMAX (R219). -/
  | fmax (d : Dst) (a b : Src)
  /-- FMAX_2P (R219). -/
  | fmax2P (d : Dst) (a b : Src) (m : Mods)
  /-- FMINP (R219). -/
  | fminp (d : Dst) (a b : Src)
  /-- FMINP_2P (R219). -/
  | fminp2P (d : Dst) (a b : Src) (m : Mods)
  /-- FMAXP (R219). -/
  | fmaxp (d : Dst) (a b : Src)
  /-- FMAXP_2P (R219). -/
  | fmaxp2P (d : Dst) (a b : Src) (m : Mods)
  /-- FNEG (R219). -/
  | fneg (d : Dst) (a : Src)
  /-- FNEG_2P (R219). -/
  | fneg2P (d : Dst) (a : Src) (m : Mods)
  /-- FABS (R219). -/
  | fabs (d : Dst) (a : Src)
  /-- FABS_2P (R219). -/
  | fabs2P (d : Dst) (a : Src) (m : Mods)
  /-- FCPS (R219). -/
  | fcps (d : Dst) (a b : Src)
  /-- FCPS_2P (R219). -/
  | fcps2P (d : Dst) (a b : Src) (m : Mods)
  /-- FCMP_EQ (R220). -/
  | fcmpEq (d : Dst) (a b : Src)
  /-- FCMP_EQ_2P (R220). -/
  | fcmpEq2P (d : Dst) (a b : Src) (m : Mods)
  /-- FCMP_NE (R220). -/
  | fcmpNe (d : Dst) (a b : Src)
  /-- FCMP_NE_2P (R220). -/
  | fcmpNe2P (d : Dst) (a b : Src) (m : Mods)
  /-- FCMP_LT (R220). -/
  | fcmpLt (d : Dst) (a b : Src)
  /-- FCMP_LT_2P (R220). -/
  | fcmpLt2P (d : Dst) (a b : Src) (m : Mods)
  /-- FCMP_LE (R220). -/
  | fcmpLe (d : Dst) (a b : Src)
  /-- FCMP_LE_2P (R220). -/
  | fcmpLe2P (d : Dst) (a b : Src) (m : Mods)
  /-- FCMP_UN (R220). -/
  | fcmpUn (d : Dst) (a b : Src)
  /-- FCMP_UN_2P (R220). -/
  | fcmpUn2P (d : Dst) (a b : Src) (m : Mods)
  /-- FRCP (R221). -/
  | frcp (d : Dst) (a : Src)
  /-- FRCP_2P (R221). -/
  | frcp2P (d : Dst) (a : Src) (m : Mods)
  /-- FRSQ (R221). -/
  | frsq (d : Dst) (a : Src)
  /-- FRSQ_2P (R221). -/
  | frsq2P (d : Dst) (a : Src) (m : Mods)
  /-- FSQRT (R221). -/
  | fsqrt (d : Dst) (a : Src)
  /-- FSQRT_2P (R221). -/
  | fsqrt2P (d : Dst) (a : Src) (m : Mods)
  /-- FLOG2 (R221). -/
  | flog2 (d : Dst) (a : Src)
  /-- FLOG2_2P (R221). -/
  | flog22P (d : Dst) (a : Src) (m : Mods)
  /-- FEXP2 (R221). -/
  | fexp2 (d : Dst) (a : Src)
  /-- FEXP2_2P (R221). -/
  | fexp22P (d : Dst) (a : Src) (m : Mods)
  /-- FTANH (R221). -/
  | ftanh (d : Dst) (a : Src)
  /-- FTANH_2P (R221). -/
  | ftanh2P (d : Dst) (a : Src) (m : Mods)
  /-- FSIGM (R221). -/
  | fsigm (d : Dst) (a : Src)
  /-- FSIGM_2P (R221). -/
  | fsigm2P (d : Dst) (a : Src) (m : Mods)
  /-- CVT (R222). -/
  | cvt (d : Dst) (a b c : Src) (m : Mods)
  /-- QNT (R223). -/
  | qnt (d : Dst) (a b c : Src) (m : Mods)
  /-- DQN (R224). -/
  | dqn (d : Dst) (a b : Src) (m : Mods)
  /-- RNSF (R225). -/
  | rnsf (d : Dst) (a b c : Src)
  /-- RNSF_2P (R225). -/
  | rnsf2P (d : Dst) (a b c : Src) (m : Mods)
  /-- RNSB (R225). -/
  | rnsb (d : Dst) (a : Src)
  /-- RNSB_2P (R225). -/
  | rnsb2P (d : Dst) (a : Src) (m : Mods)
  /-- SCALE (R226). -/
  | scale (d : Dst) (a b : Src)
  /-- SCALE_2P (R226). -/
  | scale2P (d : Dst) (a b : Src) (m : Mods)
  /-- PRES (R227). -/
  | pres (d : Dst) (a : Src)
  /-- PRES_2P (R227). -/
  | pres2P (d : Dst) (a : Src) (m : Mods)
  /-- FILL (R227). -/
  | fill (d : Dst) (a b : Src)
  /-- FILL_2P (R227). -/
  | fill2P (d : Dst) (a b : Src) (m : Mods)
  /-- MKAB (R227). -/
  | mkab (d : Dst) (a b : Src)
  /-- MKAB_2P (R227). -/
  | mkab2P (d : Dst) (a b : Src) (m : Mods)
  /-- CNTP (R227). -/
  | cntp (d : Dst) (a b : Src)
  /-- CNTP_2P (R227). -/
  | cntp2P (d : Dst) (a b : Src) (m : Mods)
  /-- RAND (R228). -/
  | rand (d : Dst)
  /-- RAND_2P (R228). -/
  | rand2P (d : Dst) (m : Mods)
  /-- GUMB (R229). -/
  | gumb (d : Dst) (a b c : Src)
  /-- GUMB_2P (R229). -/
  | gumb2P (d : Dst) (a b c : Src) (m : Mods)
  /-- LDI (R231). -/
  | ldi (d : Dst)
  /-- LDI_2P (R231). -/
  | ldi2P (d : Dst) (m : Mods)
  /-- LDI_3P (R231). -/
  | ldi3P (d : Dst) (m : Mods) (lit : Parcel)
  /-- MOVS (R230). -/
  | movs (d : Dst) (a : Src)
  /-- MOVS_2P (R230). -/
  | movs2P (d : Dst) (a : Src) (m : Mods)
  /-- INCS (R230). -/
  | incs (d : Dst) (a : Src)
  /-- INCS_2P (R230). -/
  | incs2P (d : Dst) (a : Src) (m : Mods)
  /-- MOVE (R238). -/
  | move (d : Dst) (a : Src)
  /-- MOVE_2P (R238). -/
  | move2P (d : Dst) (a : Src) (m : Mods)
  /-- DROP (R238). -/
  | drop (a : Src)
  /-- DROP_2P (R238). -/
  | drop2P (a : Src) (m : Mods)
  /-- MERGE (R239). -/
  | merge (d : Dst) (a b : Src)
  /-- MERGE_2P (R239). -/
  | merge2P (d : Dst) (a b : Src) (m : Mods)
  /-- STEER (R239). -/
  | steer (d : Dst) (a : Src)
  /-- STEER_2P (R239). -/
  | steer2P (d : Dst) (a : Src) (m : Mods)
  /-- GATE (R239). -/
  | gate (d : Dst) (a : Src)
  /-- GATE_2P (R239). -/
  | gate2P (d : Dst) (a : Src) (m : Mods)
  /-- SWZ (R238). -/
  | swz (d : Dst) (a b c : Src)
  /-- SWZ_2P (R238). -/
  | swz2P (d : Dst) (a b c : Src) (m : Mods)
  /-- PACK (R238). -/
  | pack (d : Dst) (a b : Src)
  /-- PACK_2P (R238). -/
  | pack2P (d : Dst) (a b : Src) (m : Mods)
  /-- UNPK (R238). -/
  | unpk (d : Dst) (a b : Src)
  /-- UNPK_2P (R238). -/
  | unpk2P (d : Dst) (a b : Src) (m : Mods)
  /-- BCAST (R238). -/
  | bcast (d : Dst) (a : Src)
  /-- BCAST_2P (R238). -/
  | bcast2P (d : Dst) (a : Src) (m : Mods)
  /-- REPT (R240). -/
  | rept (d : Dst) (a : Src) (m : Mods)
  /-- REPTC (R240). -/
  | reptc (d : Dst) (a b : Src)
  /-- REPTC_2P (R240). -/
  | reptc2P (d : Dst) (a b : Src) (m : Mods)
  /-- ISECT (R242). -/
  | isect (d : Dst) (a b : Src)
  /-- ISECT_2P (R242). -/
  | isect2P (d : Dst) (a b : Src) (m : Mods)
  /-- UNION (R242). -/
  | union (d : Dst) (a b : Src)
  /-- UNION_2P (R242). -/
  | union2P (d : Dst) (a b : Src) (m : Mods)
  /-- TAGC (R241). -/
  | tagc (d : Dst) (a b : Src)
  /-- TAGC_2P (R241). -/
  | tagc2P (d : Dst) (a b : Src) (m : Mods)
  /-- UNTAG (R241). -/
  | untag (d : Dst) (a : Src)
  /-- UNTAG_2P (R241). -/
  | untag2P (d : Dst) (a : Src) (m : Mods)
  /-- REDADD (R244). -/
  | redadd (d : Dst) (a b : Src)
  /-- REDADD_2P (R244). -/
  | redadd2P (d : Dst) (a b : Src) (m : Mods)
  /-- REDMAX (R244). -/
  | redmax (d : Dst) (a b : Src)
  /-- REDMAX_2P (R244). -/
  | redmax2P (d : Dst) (a b : Src) (m : Mods)
  /-- REDMIN (R244). -/
  | redmin (d : Dst) (a b : Src)
  /-- REDMIN_2P (R244). -/
  | redmin2P (d : Dst) (a b : Src) (m : Mods)
  /-- ARGMAX (R246). -/
  | argmax (d : Dst) (a b : Src)
  /-- ARGMAX_2P (R246). -/
  | argmax2P (d : Dst) (a b : Src) (m : Mods)
  /-- ARGMIN (R246). -/
  | argmin (d : Dst) (a b : Src)
  /-- ARGMIN_2P (R246). -/
  | argmin2P (d : Dst) (a b : Src) (m : Mods)
  /-- SCANX (R245). -/
  | scanx (d : Dst) (a b : Src)
  /-- SCANX_2P (R245). -/
  | scanx2P (d : Dst) (a b : Src) (m : Mods)
  /-- DRAIN (R247). -/
  | drain (d : Dst)
  /-- DRAIN_2P (R247). -/
  | drain2P (d : Dst) (m : Mods)
  /-- EOSE (R248). -/
  | eose (d : Dst)
  /-- EOSE_2P (R248). -/
  | eose2P (d : Dst) (m : Mods)
  /-- BARE (R248). -/
  | bare (d : Dst) (a : Src)
  /-- BARE_2P (R248). -/
  | bare2P (d : Dst) (a : Src) (m : Mods)
  /-- ONEOS (R248). -/
  | oneos (d : Dst) (a : Src)
  /-- ONEOS_2P (R248). -/
  | oneos2P (d : Dst) (a : Src) (m : Mods)
  /-- BR (R249). -/
  | br
  /-- BR_2P (R249). -/
  | br2P (m : Mods)
  /-- BRF (R249). -/
  | brf
  /-- BRF_2P (R249). -/
  | brf2P (m : Mods)
  /-- JMP (R249). -/
  | jmp
  /-- JMP_2P (R249). -/
  | jmp2P (m : Mods)
  /-- JTAB (R250). -/
  | jtab (a : Src) (m : Mods)
  /-- LPAD (R250). -/
  | lpad (label : BitVec 10)
  /-- WAITQ (R249). -/
  | waitq (d : Dst)
  /-- WAITQ_2P (R249). -/
  | waitq2P (d : Dst) (m : Mods)
  /-- EMITQ (R249). -/
  | emitq (a : Src)
  /-- EMITQ_2P (R249). -/
  | emitq2P (a : Src) (m : Mods)
  /-- LOOP (R249). -/
  | loop (d : Dst)
  /-- LOOP_2P (R249). -/
  | loop2P (d : Dst) (m : Mods)
  /-- MTOK (R251). -/
  | mtok (d : Dst) (a b : Src) (m : Mods) (lit : Parcel)
  /-- OCLM (R256). -/
  | oclm (d : Dst)
  /-- OCLM_2P (R256). -/
  | oclm2P (d : Dst) (m : Mods)
  /-- OREL (R256). -/
  | orel (d : Dst) (a : Src)
  /-- OREL_2P (R256). -/
  | orel2P (d : Dst) (a : Src) (m : Mods)
  /-- OSTA (R256). -/
  | osta (d : Dst) (a : Src)
  /-- OSTA_2P (R256). -/
  | osta2P (d : Dst) (a : Src) (m : Mods)
  /-- ROTJ (R80). -/
  | rotj (d : Dst) (a : Src)
  /-- ROTJ_2P (R80). -/
  | rotj2P (d : Dst) (a : Src) (m : Mods)
  /-- ROTX (R265). -/
  | rotx (a : Src)
  /-- ROTX_2P (R265). -/
  | rotx2P (a : Src) (m : Mods)
  /-- ROTH (R265). -/
  | roth (a : Src)
  /-- ROTH_2P (R265). -/
  | roth2P (a : Src) (m : Mods)
  /-- ROTR (R265). -/
  | rotr (a : Src)
  /-- ROTR_2P (R265). -/
  | rotr2P (a : Src) (m : Mods)
  /-- ROTP (R266). -/
  | rotp (d : Dst)
  /-- ROTP_2P (R266). -/
  | rotp2P (d : Dst) (m : Mods)
  /-- LD (R259). -/
  | ld (m : MemMods)
  /-- ST (R259). -/
  | st (m : MemMods)
  /-- GATH (R259). -/
  | gath (m : MemMods)
  /-- SCAT (R259). -/
  | scat (m : MemMods)
  /-- ATOM (R260). -/
  | atom (m : MemMods)
  /-- ORD (R261). -/
  | ord (m : MemMods)
  /-- FENCE (R261). -/
  | fence (m : MemMods)
  /-- QLD (R148). -/
  | qld (m : MemMods)
  /-- QST (R146). -/
  | qst (m : MemMods)
  /-- QSTV (R147). -/
  | qstv (m : MemMods)
  /-- BARA (R263). -/
  | bara (m : MemMods)
  /-- BARW (R263). -/
  | barw (m : MemMods)
  /-- PREF (R259). -/
  | pref (m : MemMods)
  /-- PAGE_WALK_COMPLETE (R131). -/
  | pageWalkComplete (k : Nat) (o : Ecc)
  /-- MEMORY_REQUEST_PERFORM (R261). -/
  | memoryRequestPerform (t : Nat) (u : Bool) (r e : Nat) (o : Obs)
  /-- BANK_COOLDOWN_END (R439). -/
  | bankCooldownEnd (stack bank : Nat)
  /-- MU_REPLY_DELIVER (R132). -/
  | muReplyDeliver (t : Nat) (u : Bool)
  /-- ORD_FENCE_COMPLETE (R261). -/
  | ordFenceComplete (t : Nat) (u : Bool)
  /-- BARW_COMPLETE (R263). -/
  | barwComplete (t : Nat) (u : Bool)
  /-- QUORUM_COPY_WRITE (R145). -/
  | quorumCopyWrite (k : Nat)
  /-- QUORUM_REPLY (R148). -/
  | quorumReply (op copy : Nat)
  /-- QUORUM_COPY_TIMEOUT (R440). -/
  | quorumCopyTimeout (op copy : Nat)
  /-- FAR_MEMORY_TIMEOUT (R442). -/
  | farMemoryTimeout (a : Requester) (u : Bool) (r e : Nat)
  /-- PATROL_SCRUB (R438). -/
  | patrolScrub (pa : Nat) (o : Ecc)
  /-- MZERO (R253). -/
  | mzero (t : MxTok)
  /-- MMA_BF16 (R114). -/
  | mmaBf16 (t : MxTok)
  /-- MMA_W4I (R253). -/
  | mmaW4i (t : MxTok)
  /-- MMA_W4F (R253). -/
  | mmaW4f (t : MxTok)
  /-- MMA_I8 (R115). -/
  | mmaI8 (t : MxTok)
  /-- MMA_I4 (R115). -/
  | mmaI4 (t : MxTok)
  /-- MDRAIN (R254). -/
  | mdrain (t : MxTok)
  /-- MDRAIN_MEAN (R254). -/
  | mdrainMean (t : MxTok)
  /-- MCOUNT (R254). -/
  | mcount (t : MxTok)
  /-- MATRIX_RELEASE (R136). -/
  | matrixRelease (t : MxTok)
  /-- MATRIX_ENTRY_COMPLETE (R255). -/
  | matrixEntryComplete (t : Nat)
  /-- MATRIX_DRAIN_TOKEN (R254). -/
  | matrixDrainToken (t : Nat)
  /-- MATRIX_MARK_PASS (R255). -/
  | matrixMarkPass (t : Nat)
  /-- AG_TUPLE_EMIT (R195). -/
  | agTupleEmit (t : Nat) (g : Bool)
  /-- ITER_INDEX_ISSUE (R38). -/
  | iterIndexIssue (c : Nat)
  /-- ITER_EOS_SEND (R38). -/
  | iterEosSend (c : Nat)
  /-- STEAL_REQUEST_HANDLE (R68). -/
  | stealRequestHandle (c : Nat)
  /-- SPLIT_APPLY (R279). -/
  | splitApply (c : Nat)
  /-- BARI_INJECT (R286). -/
  | bariInject (c : Nat)
  /-- TOKEN_ARRIVE (R22). -/
  | tokenArrive (q : BufId)
  /-- SWITCH_HOP (R27). -/
  | switchHop (t : Nat) (i : BitVec 6)
  /-- ELASTIC_BUFFER_PASS (R30). -/
  | elasticBufferPass (q : BufId)
  /-- BUFFER_SLOT_RETURN (R50). -/
  | bufferSlotReturn (q : BufId)
  /-- CONTROL_TOKEN_ARRIVE (R28). -/
  | controlTokenArrive (q : BufId)
  /-- ROT_REQUEST_ENQUEUE (R79). -/
  | rotRequestEnqueue (c : Nat) (l : Fin 8)
  /-- SLOT_ENTRY_MOVE (R76). -/
  | slotEntryMove (c : Nat) (l : Fin 8)
  /-- ROTATION_ARRIVAL (R81). -/
  | rotationArrival (c : Nat) (l : Fin 8)
  /-- DETECTOR_SAMPLE (R56). -/
  | detectorSample (c : Nat)
  /-- EVENT_START (R64). -/
  | eventStart (cl out : Nat)
  /-- CTL_NOP (R273). -/
  | ctlNop (w : CtlP2)
  /-- CTL_NOP_EVENT_WAIT (R273). -/
  | ctlNopEventWait (w : CtlP2)
  /-- CTL_HALT (R273). -/
  | ctlHalt (w : CtlP2)
  /-- END (R273). -/
  | endCmd (w : CtlP2)
  /-- CTL_ADD (R274). -/
  | ctlAdd (d a b : XReg) (w : CtlP2)
  /-- CTL_SUB (R274). -/
  | ctlSub (d a b : XReg) (w : CtlP2)
  /-- CTL_AND (R274). -/
  | ctlAnd (d a b : XReg) (w : CtlP2)
  /-- CTL_OR (R274). -/
  | ctlOr (d a b : XReg) (w : CtlP2)
  /-- CTL_XOR (R274). -/
  | ctlXor (d a b : XReg) (w : CtlP2)
  /-- CTL_SHL (R274). -/
  | ctlShl (d a b : XReg) (w : CtlP2)
  /-- CTL_SHR (R274). -/
  | ctlShr (d a b : XReg) (w : CtlP2)
  /-- CTL_SAR (R274). -/
  | ctlSar (d a b : XReg) (w : CtlP2)
  /-- CTL_MUL (R274). -/
  | ctlMul (d a b : XReg) (w : CtlP2)
  /-- CTL_MIN (R274). -/
  | ctlMin (d a b : XReg) (w : CtlP2)
  /-- CTL_MAX (R274). -/
  | ctlMax (d a b : XReg) (w : CtlP2)
  /-- CTL_ADD_IMM (R274). -/
  | ctlAddImm (d a : XReg) (imm : BitVec 8) (w : CtlP2)
  /-- CTL_SUB_IMM (R274). -/
  | ctlSubImm (d a : XReg) (imm : BitVec 8) (w : CtlP2)
  /-- CTL_AND_IMM (R274). -/
  | ctlAndImm (d a : XReg) (imm : BitVec 8) (w : CtlP2)
  /-- CTL_OR_IMM (R274). -/
  | ctlOrImm (d a : XReg) (imm : BitVec 8) (w : CtlP2)
  /-- CTL_XOR_IMM (R274). -/
  | ctlXorImm (d a : XReg) (imm : BitVec 8) (w : CtlP2)
  /-- CTL_SHL_IMM (R274). -/
  | ctlShlImm (d a : XReg) (imm : BitVec 8) (w : CtlP2)
  /-- CTL_SHR_IMM (R274). -/
  | ctlShrImm (d a : XReg) (imm : BitVec 8) (w : CtlP2)
  /-- CTL_SAR_IMM (R274). -/
  | ctlSarImm (d a : XReg) (imm : BitVec 8) (w : CtlP2)
  /-- CTL_MUL_IMM (R274). -/
  | ctlMulImm (d a : XReg) (imm : BitVec 8) (w : CtlP2)
  /-- CTL_MIN_IMM (R274). -/
  | ctlMinImm (d a : XReg) (imm : BitVec 8) (w : CtlP2)
  /-- CTL_MAX_IMM (R274). -/
  | ctlMaxImm (d a : XReg) (imm : BitVec 8) (w : CtlP2)
  /-- LI (R275). -/
  | li (d : XReg) (w : CtlP2) (lit : Parcel)
  /-- LI_HIGH (R275). -/
  | liHigh (d : XReg) (w : CtlP2) (lit : Parcel)
  /-- BEQ (R276). -/
  | beq (a b : XReg) (w : CtlP2) (lit : Parcel)
  /-- BNE (R276). -/
  | bne (a b : XReg) (w : CtlP2) (lit : Parcel)
  /-- BLT (R276). -/
  | blt (a b : XReg) (w : CtlP2) (lit : Parcel)
  /-- BGE (R276). -/
  | bge (a b : XReg) (w : CtlP2) (lit : Parcel)
  /-- BLTU (R276). -/
  | bltu (a b : XReg) (w : CtlP2) (lit : Parcel)
  /-- BGEU (R276). -/
  | bgeu (a b : XReg) (w : CtlP2) (lit : Parcel)
  /-- B (R276). -/
  | b (w : CtlP2) (lit : Parcel)
  /-- CALL (R276). -/
  | call (d : XReg) (w : CtlP2) (lit : Parcel)
  /-- RET (R276). -/
  | ret (a : XReg) (w : CtlP2)
  /-- CTL_JTAB (R276). -/
  | ctlJtab (a b : XReg) (imm : BitVec 8) (w : CtlP2)
  /-- CTL_LPAD (R276). -/
  | ctlLpad (label : BitVec 10) (w : CtlP2)
  /-- CFG (R277). -/
  | cfg (a : XReg) (w : CtlP2)
  /-- RUN (R277). -/
  | run (a b : XReg) (w : CtlP2)
  /-- STEAL (R278). -/
  | steal (d a : XReg) (w : CtlP2)
  /-- SPLIT (R279). -/
  | split (d a : XReg) (w : CtlP2)
  /-- ITER (R277). -/
  | iter (d : XReg) (w : CtlP2)
  /-- CTL_DRAIN (R58). -/
  | ctlDrain (w : CtlP2)
  /-- FORK (R280). -/
  | fork (d a b : XReg) (imm : BitVec 8) (w : CtlP2)
  /-- RDV (R281). -/
  | rdv (d a : XReg) (w : CtlP2)
  /-- EVTC (R282). -/
  | evtc (a b : XReg) (imm : BitVec 8) (w : CtlP2)
  /-- SEMW (R283). -/
  | semw (d a : XReg) (imm : BitVec 8) (w : CtlP2)
  /-- SEMS (R283). -/
  | sems (a : XReg) (imm : BitVec 8) (w : CtlP2)
  /-- SEMSET (R283). -/
  | semset (a : XReg) (imm : BitVec 8) (w : CtlP2)
  /-- SEMRD (R283). -/
  | semrd (d : XReg) (imm : BitVec 8) (w : CtlP2)
  /-- TLW (R283). -/
  | tlw (a b : XReg) (imm : BitVec 8) (w : CtlP2)
  /-- TLA (R284). -/
  | tla (imm : BitVec 8) (w : CtlP2)
  /-- TLRD (R283). -/
  | tlrd (d b : XReg) (imm : BitVec 8) (w : CtlP2)
  /-- BARI (R286). -/
  | bari (d : XReg) (imm : BitVec 8) (w : CtlP2)
  /-- BARGA (R287). -/
  | barga (d : XReg) (imm : BitVec 8) (w : CtlP2)
  /-- BARGW (R287). -/
  | bargw (a : XReg) (imm : BitVec 8) (w : CtlP2)
  /-- COPY (R290). -/
  | copy (d a : XReg) (imm : BitVec 8) (w : CtlP2)
  /-- COPYG (R292). -/
  | copyg (d a : XReg) (imm : BitVec 8) (w : CtlP2)
  /-- COPYF (R293). -/
  | copyf (d a : XReg) (imm : BitVec 8) (w : CtlP2)
  /-- PROM (R295). -/
  | prom (a : XReg) (imm : BitVec 8) (w : CtlP2)
  /-- COPYQ (R294). -/
  | copyq (d a : XReg) (imm : BitVec 8) (w : CtlP2)
  /-- COLL_ALLRED (R297). -/
  | collAllred (d a : XReg) (imm : BitVec 8) (w : CtlP2)
  /-- COLL_ALLGATH (R297). -/
  | collAllgath (d a : XReg) (imm : BitVec 8) (w : CtlP2)
  /-- COLL_REDSCAT (R297). -/
  | collRedscat (d a : XReg) (imm : BitVec 8) (w : CtlP2)
  /-- COLL_BCAST (R297). -/
  | collBcast (d a : XReg) (imm : BitVec 8) (w : CtlP2)
  /-- COLL_SCAN (R297). -/
  | collScan (d a : XReg) (imm : BitVec 8) (w : CtlP2)
  /-- COLL_MAXIDX (R297). -/
  | collMaxidx (d a : XReg) (imm : BitVec 8) (w : CtlP2)
  /-- QSEND (R299). -/
  | qsend (a b : XReg) (imm : BitVec 8) (w : CtlP2)
  /-- QRECV (R299). -/
  | qrecv (d a b : XReg) (imm : BitVec 8) (w : CtlP2)
  /-- QPEEK (R299). -/
  | qpeek (d : XReg) (imm : BitVec 8) (w : CtlP2)
  /-- ROTSV (R300). -/
  | rotsv (a : XReg) (imm : BitVec 8) (w : CtlP2)
  /-- ROTLD (R301). -/
  | rotld (a b : XReg) (w : CtlP2)
  /-- GRPJ (R302). -/
  | grpj (imm : BitVec 8) (w : CtlP2)
  /-- GRPL (R302). -/
  | grpl (imm : BitVec 8) (w : CtlP2)
  /-- MAPSEL (R303). -/
  | mapsel (a : XReg) (imm : BitVec 8) (w : CtlP2)
  /-- PIPE (R303). -/
  | pipe (d a : XReg) (w : CtlP2)
  /-- TRAP (R304). -/
  | trap (imm : BitVec 8) (w : CtlP2)
  /-- SYSC (R304). -/
  | sysc (d a : XReg) (imm : BitVec 8) (w : CtlP2)
  /-- RETT (R419). -/
  | rett (a b : XReg) (w : CtlP2)
  /-- RDS (R304). -/
  | rds (d : XReg) (imm : BitVec 8) (w : CtlP2)
  /-- WRS (R304). -/
  | wrs (a : XReg) (imm : BitVec 8) (w : CtlP2)
  /-- ENRD (R304). -/
  | enrd (d a : XReg) (w : CtlP2)
  /-- CYC (R304). -/
  | cyc (d : XReg) (w : CtlP2)
  /-- SUSP (R306). -/
  | susp (a : XReg) (w : CtlP2)
  /-- RESM (R306). -/
  | resm (d a : XReg) (w : CtlP2)
  /-- MIGR (R348). -/
  | migr (a b : XReg) (w : CtlP2)
  /-- SAVE (R306). -/
  | save (a b : XReg) (w : CtlP2)
  /-- REST (R306). -/
  | rest (a b : XReg) (w : CtlP2)
  /-- TLBI (R307). -/
  | tlbi (a : XReg) (imm : BitVec 8) (w : CtlP2)
  /-- LTWRITE (R305). -/
  | ltwrite (a : XReg) (w : CtlP2)
  /-- LTFETCH (R305). -/
  | ltfetch (a : XReg) (w : CtlP2)
  /-- CONTEXT_WAKE (R268). -/
  | contextWake (c : Nat)
  /-- SCHEDULER_DISPATCH (R67). -/
  | schedulerDispatch (c : Nat)
  /-- PREEMPT_DECISION (R340). -/
  | preemptDecision (waiter holder : Nat)
  /-- CONTEXT_HALT (R341). -/
  | contextHalt (c : Nat)
  /-- SAVE_STAGED (R341). -/
  | saveStaged (c : Nat)
  /-- SAVE_WRITTEN (R341). -/
  | saveWritten (c : Nat)
  /-- CONTEXT_RESUME (R343). -/
  | contextResume (c : Nat) (p : Place)
  /-- TEAM_SWAP_OUT (R345). -/
  | teamSwapOut (l g : Nat)
  /-- TEAM_SWAP_IN (R346). -/
  | teamSwapIn (l g : Nat)
  /-- MIGRATION_COMPLETE (R349). -/
  | migrationComplete (c : Nat)
  /-- CONTEXT_RECLAIM (R65). -/
  | contextReclaim (c : Nat)
  /-- PIPE_SAMPLE (R337). -/
  | pipeSample (l : Nat)
  /-- STAGE_REASSIGN (R338). -/
  | stageReassign (l st : Nat)
  /-- STAGE_REASSIGN_LOAD (R338). -/
  | stageReassignLoad (l st : Nat)
  /-- LAUNCH (R376). -/
  | launch (fn : Nat) (off : Word64)
  /-- LAUNCH_PLACE (R331). -/
  | launchPlace (fn : Nat) (ps : List Place)
  /-- IMAGE_RECORD_LOAD (R185). -/
  | imageRecordLoad (c : Nat)
  /-- COPY_SECTOR_WRITE (R291). -/
  | copySectorWrite (c op : Nat) (o : Obs)
  /-- COPY_OPERATION_COMPLETE (R288). -/
  | copyOperationComplete (c op : Nat)
  /-- COLLECTIVE_STEP (R447). -/
  | collectiveStep (k i j : Nat)
  /-- COLLECTIVE_STEP_TIMEOUT (R447). -/
  | collectiveStepTimeout (k i j : Nat)
  /-- COLLECTIVE_COMPLETE (R297). -/
  | collectiveComplete (k i : Nat)
  /-- DIE_QUEUE_ENTRY_ARRIVE (R299). -/
  | dieQueueEntryArrive (die q : Nat) (bad : Bool)
  /-- PROMISE_EXPIRY (R295). -/
  | promiseExpiry (c : Nat)
  /-- ENERGY_CHARGE_POST (R372). -/
  | energyChargePost (c nj : Nat)
  /-- TRAP_DELIVERY (R417). -/
  | trapDelivery (die : Nat)
  /-- VFCTL_WRITE (R365). -/
  | vfctlWrite (o : WriteBy) (die inst : Nat) (v : Word64)
  /-- VOLTAGE_STEP_END (R366). -/
  | voltageStepEnd (die v : Nat)
  /-- MONITOR_WINDOW_END (R367). -/
  | monitorWindowEnd (die v full blk : Nat)
  /-- GUARD_GRANT (R368). -/
  | guardGrant (die v : Nat)
  /-- GUARD_RELEASE (R368). -/
  | guardRelease (die v : Nat)
  /-- THERMAL_SAMPLE (R369). -/
  | thermalSample (die tile : Nat) (reading : BitVec 16)
  /-- CURVE_WRITE (R363). -/
  | curveWrite (o : WriteBy) (die num : Nat) (v : Word64)
  /-- RUNGCAP_WRITE (R370). -/
  | rungcapWrite (o : WriteBy) (die inst : Nat) (v : Word64)
  /-- UNDERVOLTAGE (R453). -/
  | undervoltage (die v supply : Nat)
  /-- OVERCURRENT (R453). -/
  | overcurrent (die : Nat)
  /-- OVERCURRENT_CLEAR (R453). -/
  | overcurrentClear (die : Nat)
  /-- POWER_AVERAGE_WINDOW (R453). -/
  | powerAverageWindow (milliwatts : Nat)
  /-- BAR4_ACCESS (R374). -/
  | bar4Access (fn : Nat) (off : Word64) (wr : Bool) (data : List Byte)
  /-- HOSTIRQ (R387). -/
  | hostirq (o : WriteBy) (die : Nat) (v : Word64)
  /-- QSET_WRITE (R144). -/
  | qsetWrite (o : WriteBy) (die inst : Nat) (v : Word64)
  /-- DQT_WRITE (R381). -/
  | dqtWrite (o : WriteBy) (die inst : Nat) (v : Word64)
  /-- PLACE_WRITE (R388). -/
  | placeWrite (o : WriteBy) (die inst : Nat) (v : Word64)
  /-- RHCTL_WRITE (R439). -/
  | rhctlWrite (o : WriteBy) (die inst : Nat) (v : Word64)
  /-- TFENCE_WRITE (R410). -/
  | tfenceWrite (o : WriteBy) (die inst : Nat) (v : Word64)
  /-- ERSTATUS_CLEAR (R405). -/
  | erstatusClear (o : WriteBy) (die inst : Nat) (v : Word64)
  /-- ATTNONCE (R386). -/
  | attnonce (o : WriteBy) (die inst : Nat) (v : Word64)
  /-- ATTEST_REPORT_READY (R386). -/
  | attestReportReady (die : Nat)
  /-- RSTCTL_WARM (R382). -/
  | rstctlWarm (v : Word64) (o : StartObs)
  /-- COLD_START (R383). -/
  | coldStart (o : StartObs)
  /-- FUNCTION_LEVEL_RESET (R451). -/
  | functionLevelReset (r : FlrOf)
  /-- HOST_LINK_ERROR (R450). -/
  | hostLinkError (o : HostErr)
  /-- LINK_CRC_ERROR (R444). -/
  | linkCrcError (die port : Nat) (o : CrcObs)
  /-- LINKCTL_RETRAIN (R445). -/
  | linkctlRetrain (o : WriteBy) (die inst : Nat) (v : Word64)
  /-- LINK_TRAIN_COMPLETE (R445). -/
  | linkTrainComplete (die inst : Nat) (ok : Bool)
  /-- SELF_TEST_START (R409). -/
  | selfTestStart (die k : Nat)
  /-- SELF_TEST_COMPLETE (R409). -/
  | selfTestComplete (die k : Nat) (o : TestObs)
  /-- REGISTER_WRITE (R6). -/
  | registerWrite (o : WriteBy) (die num inst : Nat) (v : Word64)
  /-- SUPPLY_REACHES_VREQ (R453). -/
  | supplyReachesVreq (die v : Nat)
  deriving DecidableEq, Repr

end Sys2Proof
end

