-- ==== Sys2Proof/Machine/ElemView.lean ====
section
/-! DEFINITION. The element instructions seen alike: the operation, its opcode and minor function (R197), the
positions its entry lists (R176), and the view of an instruction of either form as operation, operands and
second parcel.  A one-parcel instruction has the effect of the two-parcel one with the defaults of R160. -/

namespace Sys2Proof

/-- The element operations of R197 (OPC 0x20 apart). -/
inductive EOp where
  | nop | halt | add | sub | adds | subs | neg | abs
  | min | max | minu | maxu | mul | mulh | mulhu | mad
  | dot4 | and | or | xor | not | andn | shl | shr
  | sar | rol | clz | popc | cmpEq | cmpNe | cmpLt | cmpLe
  | cmpLtu | cmpLeu | sel | sela | fadd | fsub | fmul | ffma
  | ffms | fnma | fmin | fmax | fminp | fmaxp | fneg | fabs
  | fcps | fcmpEq | fcmpNe | fcmpLt | fcmpLe | fcmpUn | frcp | frsq
  | fsqrt | flog2 | fexp2 | ftanh | fsigm | cvt | qnt | dqn
  | rnsf | rnsb | scale | pres | fill | mkab | cntp | rand
  | gumb | ldi | movs | incs | move | drop | merge | steer
  | gate | swz | pack | unpk | bcast | rept | reptc | isect
  | union | tagc | untag | redadd | redmax | redmin | argmax | argmin
  | scanx | drain | eose | bare | oneos | br | brf | jmp
  | jtab | lpad | waitq | emitq | loop | mtok | oclm | orel
  | osta | rotj | rotx | roth | rotr | rotp
  deriving DecidableEq, Repr

/-- Which of the positions D, A, B and C an entry lists (R176, R201, R232). -/
inductive EShape where
  | dabc | dab | da | d | a | n | label
  deriving DecidableEq, Repr

/-- An element instruction of any form. -/
structure EView where
  op  : EOp
  d   : Dst
  a   : Src
  b   : Src
  c   : Src
  m   : Mods
  lit : Parcel
  len : Nat
  deriving DecidableEq, Repr

namespace Machine

/-- OPC and FN of an element operation (R197). -/
def eopCode : EOp → Nat × Nat
  | .nop => (0x00, 0)
  | .halt => (0x00, 1)
  | .add => (0x01, 0)
  | .sub => (0x01, 1)
  | .adds => (0x01, 2)
  | .subs => (0x01, 3)
  | .neg => (0x01, 4)
  | .abs => (0x01, 5)
  | .min => (0x01, 6)
  | .max => (0x01, 7)
  | .minu => (0x01, 8)
  | .maxu => (0x01, 9)
  | .mul => (0x02, 0)
  | .mulh => (0x02, 1)
  | .mulhu => (0x02, 2)
  | .mad => (0x02, 3)
  | .dot4 => (0x02, 4)
  | .and => (0x03, 0)
  | .or => (0x03, 1)
  | .xor => (0x03, 2)
  | .not => (0x03, 3)
  | .andn => (0x03, 4)
  | .shl => (0x04, 0)
  | .shr => (0x04, 1)
  | .sar => (0x04, 2)
  | .rol => (0x04, 3)
  | .clz => (0x04, 4)
  | .popc => (0x04, 5)
  | .cmpEq => (0x05, 0)
  | .cmpNe => (0x05, 1)
  | .cmpLt => (0x05, 2)
  | .cmpLe => (0x05, 3)
  | .cmpLtu => (0x05, 4)
  | .cmpLeu => (0x05, 5)
  | .sel => (0x06, 0)
  | .sela => (0x06, 1)
  | .fadd => (0x08, 0)
  | .fsub => (0x08, 1)
  | .fmul => (0x08, 2)
  | .ffma => (0x08, 3)
  | .ffms => (0x08, 4)
  | .fnma => (0x08, 5)
  | .fmin => (0x08, 6)
  | .fmax => (0x08, 7)
  | .fminp => (0x08, 8)
  | .fmaxp => (0x08, 9)
  | .fneg => (0x08, 10)
  | .fabs => (0x08, 11)
  | .fcps => (0x08, 12)
  | .fcmpEq => (0x09, 0)
  | .fcmpNe => (0x09, 1)
  | .fcmpLt => (0x09, 2)
  | .fcmpLe => (0x09, 3)
  | .fcmpUn => (0x09, 4)
  | .frcp => (0x0A, 0)
  | .frsq => (0x0A, 1)
  | .fsqrt => (0x0A, 2)
  | .flog2 => (0x0A, 3)
  | .fexp2 => (0x0A, 4)
  | .ftanh => (0x0A, 5)
  | .fsigm => (0x0A, 6)
  | .cvt => (0x0B, 0)
  | .qnt => (0x0B, 1)
  | .dqn => (0x0B, 2)
  | .rnsf => (0x0B, 3)
  | .rnsb => (0x0B, 4)
  | .scale => (0x0B, 5)
  | .pres => (0x0C, 0)
  | .fill => (0x0C, 1)
  | .mkab => (0x0C, 2)
  | .cntp => (0x0C, 3)
  | .rand => (0x0D, 0)
  | .gumb => (0x0D, 1)
  | .ldi => (0x0E, 0)
  | .movs => (0x0E, 1)
  | .incs => (0x0E, 2)
  | .move => (0x10, 0)
  | .drop => (0x10, 1)
  | .merge => (0x10, 2)
  | .steer => (0x10, 3)
  | .gate => (0x10, 4)
  | .swz => (0x10, 5)
  | .pack => (0x10, 6)
  | .unpk => (0x10, 7)
  | .bcast => (0x10, 8)
  | .rept => (0x11, 0)
  | .reptc => (0x11, 1)
  | .isect => (0x12, 0)
  | .union => (0x12, 1)
  | .tagc => (0x12, 2)
  | .untag => (0x12, 3)
  | .redadd => (0x13, 0)
  | .redmax => (0x13, 1)
  | .redmin => (0x13, 2)
  | .argmax => (0x13, 3)
  | .argmin => (0x13, 4)
  | .scanx => (0x13, 5)
  | .drain => (0x13, 6)
  | .eose => (0x14, 0)
  | .bare => (0x14, 1)
  | .oneos => (0x14, 2)
  | .br => (0x18, 0)
  | .brf => (0x18, 1)
  | .jmp => (0x18, 2)
  | .jtab => (0x18, 3)
  | .lpad => (0x18, 4)
  | .waitq => (0x18, 5)
  | .emitq => (0x18, 6)
  | .loop => (0x18, 7)
  | .mtok => (0x1C, 0)
  | .oclm => (0x1D, 0)
  | .orel => (0x1D, 1)
  | .osta => (0x1D, 2)
  | .rotj => (0x24, 0)
  | .rotx => (0x24, 1)
  | .roth => (0x24, 2)
  | .rotr => (0x24, 3)
  | .rotp => (0x24, 4)

/-- The element operation of an OPC and FN (R197); every other pair is unassigned. -/
def eopOf (opc fn : Nat) : Option EOp :=
  match opc, fn with
  | 0x00, 0 => some .nop
  | 0x00, 1 => some .halt
  | 0x01, 0 => some .add
  | 0x01, 1 => some .sub
  | 0x01, 2 => some .adds
  | 0x01, 3 => some .subs
  | 0x01, 4 => some .neg
  | 0x01, 5 => some .abs
  | 0x01, 6 => some .min
  | 0x01, 7 => some .max
  | 0x01, 8 => some .minu
  | 0x01, 9 => some .maxu
  | 0x02, 0 => some .mul
  | 0x02, 1 => some .mulh
  | 0x02, 2 => some .mulhu
  | 0x02, 3 => some .mad
  | 0x02, 4 => some .dot4
  | 0x03, 0 => some .and
  | 0x03, 1 => some .or
  | 0x03, 2 => some .xor
  | 0x03, 3 => some .not
  | 0x03, 4 => some .andn
  | 0x04, 0 => some .shl
  | 0x04, 1 => some .shr
  | 0x04, 2 => some .sar
  | 0x04, 3 => some .rol
  | 0x04, 4 => some .clz
  | 0x04, 5 => some .popc
  | 0x05, 0 => some .cmpEq
  | 0x05, 1 => some .cmpNe
  | 0x05, 2 => some .cmpLt
  | 0x05, 3 => some .cmpLe
  | 0x05, 4 => some .cmpLtu
  | 0x05, 5 => some .cmpLeu
  | 0x06, 0 => some .sel
  | 0x06, 1 => some .sela
  | 0x08, 0 => some .fadd
  | 0x08, 1 => some .fsub
  | 0x08, 2 => some .fmul
  | 0x08, 3 => some .ffma
  | 0x08, 4 => some .ffms
  | 0x08, 5 => some .fnma
  | 0x08, 6 => some .fmin
  | 0x08, 7 => some .fmax
  | 0x08, 8 => some .fminp
  | 0x08, 9 => some .fmaxp
  | 0x08, 10 => some .fneg
  | 0x08, 11 => some .fabs
  | 0x08, 12 => some .fcps
  | 0x09, 0 => some .fcmpEq
  | 0x09, 1 => some .fcmpNe
  | 0x09, 2 => some .fcmpLt
  | 0x09, 3 => some .fcmpLe
  | 0x09, 4 => some .fcmpUn
  | 0x0A, 0 => some .frcp
  | 0x0A, 1 => some .frsq
  | 0x0A, 2 => some .fsqrt
  | 0x0A, 3 => some .flog2
  | 0x0A, 4 => some .fexp2
  | 0x0A, 5 => some .ftanh
  | 0x0A, 6 => some .fsigm
  | 0x0B, 0 => some .cvt
  | 0x0B, 1 => some .qnt
  | 0x0B, 2 => some .dqn
  | 0x0B, 3 => some .rnsf
  | 0x0B, 4 => some .rnsb
  | 0x0B, 5 => some .scale
  | 0x0C, 0 => some .pres
  | 0x0C, 1 => some .fill
  | 0x0C, 2 => some .mkab
  | 0x0C, 3 => some .cntp
  | 0x0D, 0 => some .rand
  | 0x0D, 1 => some .gumb
  | 0x0E, 0 => some .ldi
  | 0x0E, 1 => some .movs
  | 0x0E, 2 => some .incs
  | 0x10, 0 => some .move
  | 0x10, 1 => some .drop
  | 0x10, 2 => some .merge
  | 0x10, 3 => some .steer
  | 0x10, 4 => some .gate
  | 0x10, 5 => some .swz
  | 0x10, 6 => some .pack
  | 0x10, 7 => some .unpk
  | 0x10, 8 => some .bcast
  | 0x11, 0 => some .rept
  | 0x11, 1 => some .reptc
  | 0x12, 0 => some .isect
  | 0x12, 1 => some .union
  | 0x12, 2 => some .tagc
  | 0x12, 3 => some .untag
  | 0x13, 0 => some .redadd
  | 0x13, 1 => some .redmax
  | 0x13, 2 => some .redmin
  | 0x13, 3 => some .argmax
  | 0x13, 4 => some .argmin
  | 0x13, 5 => some .scanx
  | 0x13, 6 => some .drain
  | 0x14, 0 => some .eose
  | 0x14, 1 => some .bare
  | 0x14, 2 => some .oneos
  | 0x18, 0 => some .br
  | 0x18, 1 => some .brf
  | 0x18, 2 => some .jmp
  | 0x18, 3 => some .jtab
  | 0x18, 4 => some .lpad
  | 0x18, 5 => some .waitq
  | 0x18, 6 => some .emitq
  | 0x18, 7 => some .loop
  | 0x1C, 0 => some .mtok
  | 0x1D, 0 => some .oclm
  | 0x1D, 1 => some .orel
  | 0x1D, 2 => some .osta
  | 0x24, 0 => some .rotj
  | 0x24, 1 => some .rotx
  | 0x24, 2 => some .roth
  | 0x24, 3 => some .rotr
  | 0x24, 4 => some .rotp
  | _, _ => none

/-- The positions an operation's entry lists (R201, R232, and each entry). -/
def eopShape : EOp → EShape
  | .nop | .halt | .br | .brf | .jmp => .n
  | .add | .sub | .adds | .subs | .min | .max | .minu | .maxu | .mul | .mulh
  | .mulhu | .and | .or | .xor | .andn | .shl | .shr | .sar | .rol | .cmpEq
  | .cmpNe | .cmpLt | .cmpLe | .cmpLtu | .cmpLeu | .fadd | .fsub | .fmul | .fmin | .fmax
  | .fminp | .fmaxp | .fcps | .fcmpEq | .fcmpNe | .fcmpLt | .fcmpLe | .fcmpUn | .dqn | .scale
  | .fill | .mkab | .cntp | .merge | .pack | .unpk | .reptc | .isect | .union | .tagc
  | .redadd | .redmax | .redmin | .argmax | .argmin | .scanx | .mtok => .dab
  | .neg | .abs | .not | .clz | .popc | .fneg | .fabs | .frcp | .frsq | .fsqrt
  | .flog2 | .fexp2 | .ftanh | .fsigm | .rnsb | .pres | .movs | .incs | .move | .steer
  | .gate | .bcast | .rept | .untag | .bare | .oneos | .orel | .osta | .rotj => .da
  | .mad | .dot4 | .sel | .sela | .ffma | .ffms | .fnma | .cvt | .qnt | .rnsf
  | .gumb | .swz => .dabc
  | .rand | .ldi | .drain | .eose | .waitq | .loop | .oclm | .rotp => .d
  | .drop | .jtab | .emitq | .rotx | .roth | .rotr => .a
  | .lpad => .label

/-- The lengths in parcels that R197 allows an operation, and that its fields can take (a REPT, JTAB, CVT, QNT or
DQN of one parcel has an IMM or TYPE that its entry refuses). -/
def eopLens : EOp → List Nat
  | .mtok => [3]
  | .lpad => [1]
  | .ldi => [1, 2, 3]
  | .cvt | .qnt | .dqn | .rept | .jtab => [2]
  | _ => [1, 2]

/-- The TYPE a one-parcel form takes (R160). -/
def defaultType (op : EOp) : Fmt :=
  let opc := (eopCode op).1
  if (1 ≤ opc ∧ opc ≤ 6) ∨ opc = 0x0E then .int32 else .fp32

/-- The second parcel that a one-parcel form stands for (R160). -/
def defaultMods (op : EOp) : Mods :=
  { ty := defaultType op, rnd := .rne, sat := false, nprop := false, abm := .abp, omask := 0, qg := .none, imm := 0 }

/-- The view of a one-parcel instruction (R160). -/
def one (op : EOp) (d : Dst) (a b c : Src) : EView :=
  { op := op, d := d, a := a, b := b, c := c, m := defaultMods op, lit := 0, len := 1 }

/-- The view of a two-parcel instruction. -/
def two (op : EOp) (d : Dst) (a b c : Src) (m : Mods) : EView :=
  { op := op, d := d, a := a, b := b, c := c, m := m, lit := 0, len := 2 }

/-- The view of a three-parcel instruction (R161). -/
def three (op : EOp) (d : Dst) (a b c : Src) (m : Mods) (lit : Parcel) : EView :=
  { op := op, d := d, a := a, b := b, c := c, m := m, lit := lit, len := 3 }

/-- The element instruction seen as operation, operands and second parcel; none for the other rows. -/
def elemView : Instr → Option EView
  | .nop => some (one .nop .none .none .none .none)
  | .nop2P m => some (two .nop .none .none .none .none m)
  | .halt => some (one .halt .none .none .none .none)
  | .halt2P m => some (two .halt .none .none .none .none m)
  | .add d a b => some (one .add d a b .none)
  | .add2P d a b m => some (two .add d a b .none m)
  | .sub d a b => some (one .sub d a b .none)
  | .sub2P d a b m => some (two .sub d a b .none m)
  | .adds d a b => some (one .adds d a b .none)
  | .adds2P d a b m => some (two .adds d a b .none m)
  | .subs d a b => some (one .subs d a b .none)
  | .subs2P d a b m => some (two .subs d a b .none m)
  | .neg d a => some (one .neg d a .none .none)
  | .neg2P d a m => some (two .neg d a .none .none m)
  | .abs d a => some (one .abs d a .none .none)
  | .abs2P d a m => some (two .abs d a .none .none m)
  | .min d a b => some (one .min d a b .none)
  | .min2P d a b m => some (two .min d a b .none m)
  | .max d a b => some (one .max d a b .none)
  | .max2P d a b m => some (two .max d a b .none m)
  | .minu d a b => some (one .minu d a b .none)
  | .minu2P d a b m => some (two .minu d a b .none m)
  | .maxu d a b => some (one .maxu d a b .none)
  | .maxu2P d a b m => some (two .maxu d a b .none m)
  | .mul d a b => some (one .mul d a b .none)
  | .mul2P d a b m => some (two .mul d a b .none m)
  | .mulh d a b => some (one .mulh d a b .none)
  | .mulh2P d a b m => some (two .mulh d a b .none m)
  | .mulhu d a b => some (one .mulhu d a b .none)
  | .mulhu2P d a b m => some (two .mulhu d a b .none m)
  | .mad d a b c => some (one .mad d a b c)
  | .mad2P d a b c m => some (two .mad d a b c m)
  | .dot4 d a b c => some (one .dot4 d a b c)
  | .dot42P d a b c m => some (two .dot4 d a b c m)
  | .and d a b => some (one .and d a b .none)
  | .and2P d a b m => some (two .and d a b .none m)
  | .or d a b => some (one .or d a b .none)
  | .or2P d a b m => some (two .or d a b .none m)
  | .xor d a b => some (one .xor d a b .none)
  | .xor2P d a b m => some (two .xor d a b .none m)
  | .not d a => some (one .not d a .none .none)
  | .not2P d a m => some (two .not d a .none .none m)
  | .andn d a b => some (one .andn d a b .none)
  | .andn2P d a b m => some (two .andn d a b .none m)
  | .shl d a b => some (one .shl d a b .none)
  | .shl2P d a b m => some (two .shl d a b .none m)
  | .shr d a b => some (one .shr d a b .none)
  | .shr2P d a b m => some (two .shr d a b .none m)
  | .sar d a b => some (one .sar d a b .none)
  | .sar2P d a b m => some (two .sar d a b .none m)
  | .rol d a b => some (one .rol d a b .none)
  | .rol2P d a b m => some (two .rol d a b .none m)
  | .clz d a => some (one .clz d a .none .none)
  | .clz2P d a m => some (two .clz d a .none .none m)
  | .popc d a => some (one .popc d a .none .none)
  | .popc2P d a m => some (two .popc d a .none .none m)
  | .cmpEq d a b => some (one .cmpEq d a b .none)
  | .cmpEq2P d a b m => some (two .cmpEq d a b .none m)
  | .cmpNe d a b => some (one .cmpNe d a b .none)
  | .cmpNe2P d a b m => some (two .cmpNe d a b .none m)
  | .cmpLt d a b => some (one .cmpLt d a b .none)
  | .cmpLt2P d a b m => some (two .cmpLt d a b .none m)
  | .cmpLe d a b => some (one .cmpLe d a b .none)
  | .cmpLe2P d a b m => some (two .cmpLe d a b .none m)
  | .cmpLtu d a b => some (one .cmpLtu d a b .none)
  | .cmpLtu2P d a b m => some (two .cmpLtu d a b .none m)
  | .cmpLeu d a b => some (one .cmpLeu d a b .none)
  | .cmpLeu2P d a b m => some (two .cmpLeu d a b .none m)
  | .sel d a b c => some (one .sel d a b c)
  | .sel2P d a b c m => some (two .sel d a b c m)
  | .sela d a b c => some (one .sela d a b c)
  | .sela2P d a b c m => some (two .sela d a b c m)
  | .fadd d a b => some (one .fadd d a b .none)
  | .fadd2P d a b m => some (two .fadd d a b .none m)
  | .fsub d a b => some (one .fsub d a b .none)
  | .fsub2P d a b m => some (two .fsub d a b .none m)
  | .fmul d a b => some (one .fmul d a b .none)
  | .fmul2P d a b m => some (two .fmul d a b .none m)
  | .ffma d a b c => some (one .ffma d a b c)
  | .ffma2P d a b c m => some (two .ffma d a b c m)
  | .ffms d a b c => some (one .ffms d a b c)
  | .ffms2P d a b c m => some (two .ffms d a b c m)
  | .fnma d a b c => some (one .fnma d a b c)
  | .fnma2P d a b c m => some (two .fnma d a b c m)
  | .fmin d a b => some (one .fmin d a b .none)
  | .fmin2P d a b m => some (two .fmin d a b .none m)
  | .fmax d a b => some (one .fmax d a b .none)
  | .fmax2P d a b m => some (two .fmax d a b .none m)
  | .fminp d a b => some (one .fminp d a b .none)
  | .fminp2P d a b m => some (two .fminp d a b .none m)
  | .fmaxp d a b => some (one .fmaxp d a b .none)
  | .fmaxp2P d a b m => some (two .fmaxp d a b .none m)
  | .fneg d a => some (one .fneg d a .none .none)
  | .fneg2P d a m => some (two .fneg d a .none .none m)
  | .fabs d a => some (one .fabs d a .none .none)
  | .fabs2P d a m => some (two .fabs d a .none .none m)
  | .fcps d a b => some (one .fcps d a b .none)
  | .fcps2P d a b m => some (two .fcps d a b .none m)
  | .fcmpEq d a b => some (one .fcmpEq d a b .none)
  | .fcmpEq2P d a b m => some (two .fcmpEq d a b .none m)
  | .fcmpNe d a b => some (one .fcmpNe d a b .none)
  | .fcmpNe2P d a b m => some (two .fcmpNe d a b .none m)
  | .fcmpLt d a b => some (one .fcmpLt d a b .none)
  | .fcmpLt2P d a b m => some (two .fcmpLt d a b .none m)
  | .fcmpLe d a b => some (one .fcmpLe d a b .none)
  | .fcmpLe2P d a b m => some (two .fcmpLe d a b .none m)
  | .fcmpUn d a b => some (one .fcmpUn d a b .none)
  | .fcmpUn2P d a b m => some (two .fcmpUn d a b .none m)
  | .frcp d a => some (one .frcp d a .none .none)
  | .frcp2P d a m => some (two .frcp d a .none .none m)
  | .frsq d a => some (one .frsq d a .none .none)
  | .frsq2P d a m => some (two .frsq d a .none .none m)
  | .fsqrt d a => some (one .fsqrt d a .none .none)
  | .fsqrt2P d a m => some (two .fsqrt d a .none .none m)
  | .flog2 d a => some (one .flog2 d a .none .none)
  | .flog22P d a m => some (two .flog2 d a .none .none m)
  | .fexp2 d a => some (one .fexp2 d a .none .none)
  | .fexp22P d a m => some (two .fexp2 d a .none .none m)
  | .ftanh d a => some (one .ftanh d a .none .none)
  | .ftanh2P d a m => some (two .ftanh d a .none .none m)
  | .fsigm d a => some (one .fsigm d a .none .none)
  | .fsigm2P d a m => some (two .fsigm d a .none .none m)
  | .cvt d a b c m => some (two .cvt d a b c m)
  | .qnt d a b c m => some (two .qnt d a b c m)
  | .dqn d a b m => some (two .dqn d a b .none m)
  | .rnsf d a b c => some (one .rnsf d a b c)
  | .rnsf2P d a b c m => some (two .rnsf d a b c m)
  | .rnsb d a => some (one .rnsb d a .none .none)
  | .rnsb2P d a m => some (two .rnsb d a .none .none m)
  | .scale d a b => some (one .scale d a b .none)
  | .scale2P d a b m => some (two .scale d a b .none m)
  | .pres d a => some (one .pres d a .none .none)
  | .pres2P d a m => some (two .pres d a .none .none m)
  | .fill d a b => some (one .fill d a b .none)
  | .fill2P d a b m => some (two .fill d a b .none m)
  | .mkab d a b => some (one .mkab d a b .none)
  | .mkab2P d a b m => some (two .mkab d a b .none m)
  | .cntp d a b => some (one .cntp d a b .none)
  | .cntp2P d a b m => some (two .cntp d a b .none m)
  | .rand d => some (one .rand d .none .none .none)
  | .rand2P d m => some (two .rand d .none .none .none m)
  | .gumb d a b c => some (one .gumb d a b c)
  | .gumb2P d a b c m => some (two .gumb d a b c m)
  | .ldi d => some (one .ldi d .none .none .none)
  | .ldi2P d m => some (two .ldi d .none .none .none m)
  | .ldi3P d m lit => some (three .ldi d .none .none .none m lit)
  | .movs d a => some (one .movs d a .none .none)
  | .movs2P d a m => some (two .movs d a .none .none m)
  | .incs d a => some (one .incs d a .none .none)
  | .incs2P d a m => some (two .incs d a .none .none m)
  | .move d a => some (one .move d a .none .none)
  | .move2P d a m => some (two .move d a .none .none m)
  | .drop a => some (one .drop .none a .none .none)
  | .drop2P a m => some (two .drop .none a .none .none m)
  | .merge d a b => some (one .merge d a b .none)
  | .merge2P d a b m => some (two .merge d a b .none m)
  | .steer d a => some (one .steer d a .none .none)
  | .steer2P d a m => some (two .steer d a .none .none m)
  | .gate d a => some (one .gate d a .none .none)
  | .gate2P d a m => some (two .gate d a .none .none m)
  | .swz d a b c => some (one .swz d a b c)
  | .swz2P d a b c m => some (two .swz d a b c m)
  | .pack d a b => some (one .pack d a b .none)
  | .pack2P d a b m => some (two .pack d a b .none m)
  | .unpk d a b => some (one .unpk d a b .none)
  | .unpk2P d a b m => some (two .unpk d a b .none m)
  | .bcast d a => some (one .bcast d a .none .none)
  | .bcast2P d a m => some (two .bcast d a .none .none m)
  | .rept d a m => some (two .rept d a .none .none m)
  | .reptc d a b => some (one .reptc d a b .none)
  | .reptc2P d a b m => some (two .reptc d a b .none m)
  | .isect d a b => some (one .isect d a b .none)
  | .isect2P d a b m => some (two .isect d a b .none m)
  | .union d a b => some (one .union d a b .none)
  | .union2P d a b m => some (two .union d a b .none m)
  | .tagc d a b => some (one .tagc d a b .none)
  | .tagc2P d a b m => some (two .tagc d a b .none m)
  | .untag d a => some (one .untag d a .none .none)
  | .untag2P d a m => some (two .untag d a .none .none m)
  | .redadd d a b => some (one .redadd d a b .none)
  | .redadd2P d a b m => some (two .redadd d a b .none m)
  | .redmax d a b => some (one .redmax d a b .none)
  | .redmax2P d a b m => some (two .redmax d a b .none m)
  | .redmin d a b => some (one .redmin d a b .none)
  | .redmin2P d a b m => some (two .redmin d a b .none m)
  | .argmax d a b => some (one .argmax d a b .none)
  | .argmax2P d a b m => some (two .argmax d a b .none m)
  | .argmin d a b => some (one .argmin d a b .none)
  | .argmin2P d a b m => some (two .argmin d a b .none m)
  | .scanx d a b => some (one .scanx d a b .none)
  | .scanx2P d a b m => some (two .scanx d a b .none m)
  | .drain d => some (one .drain d .none .none .none)
  | .drain2P d m => some (two .drain d .none .none .none m)
  | .eose d => some (one .eose d .none .none .none)
  | .eose2P d m => some (two .eose d .none .none .none m)
  | .bare d a => some (one .bare d a .none .none)
  | .bare2P d a m => some (two .bare d a .none .none m)
  | .oneos d a => some (one .oneos d a .none .none)
  | .oneos2P d a m => some (two .oneos d a .none .none m)
  | .br => some (one .br .none .none .none .none)
  | .br2P m => some (two .br .none .none .none .none m)
  | .brf => some (one .brf .none .none .none .none)
  | .brf2P m => some (two .brf .none .none .none .none m)
  | .jmp => some (one .jmp .none .none .none .none)
  | .jmp2P m => some (two .jmp .none .none .none .none m)
  | .jtab a m => some (two .jtab .none a .none .none m)
  | .lpad l => some { one .lpad .none .none .none .none with m := { defaultMods .lpad with imm := l.setWidth 16 } }
  | .waitq d => some (one .waitq d .none .none .none)
  | .waitq2P d m => some (two .waitq d .none .none .none m)
  | .emitq a => some (one .emitq .none a .none .none)
  | .emitq2P a m => some (two .emitq .none a .none .none m)
  | .loop d => some (one .loop d .none .none .none)
  | .loop2P d m => some (two .loop d .none .none .none m)
  | .mtok d a b m lit => some (three .mtok d a b .none m lit)
  | .oclm d => some (one .oclm d .none .none .none)
  | .oclm2P d m => some (two .oclm d .none .none .none m)
  | .orel d a => some (one .orel d a .none .none)
  | .orel2P d a m => some (two .orel d a .none .none m)
  | .osta d a => some (one .osta d a .none .none)
  | .osta2P d a m => some (two .osta d a .none .none m)
  | .rotj d a => some (one .rotj d a .none .none)
  | .rotj2P d a m => some (two .rotj d a .none .none m)
  | .rotx a => some (one .rotx .none a .none .none)
  | .rotx2P a m => some (two .rotx .none a .none .none m)
  | .roth a => some (one .roth .none a .none .none)
  | .roth2P a m => some (two .roth .none a .none .none m)
  | .rotr a => some (one .rotr .none a .none .none)
  | .rotr2P a m => some (two .rotr .none a .none .none m)
  | .rotp d => some (one .rotp d .none .none .none)
  | .rotp2P d m => some (two .rotp d .none .none .none m)
  | _ => none

/-- The instruction of a view: the row that holds its operation and length. -/
def instrOf (v : EView) : Instr :=
  match v.op with
  | .nop => if v.len = 1 then .nop else .nop2P v.m
  | .halt => if v.len = 1 then .halt else .halt2P v.m
  | .add => if v.len = 1 then .add v.d v.a v.b else .add2P v.d v.a v.b v.m
  | .sub => if v.len = 1 then .sub v.d v.a v.b else .sub2P v.d v.a v.b v.m
  | .adds => if v.len = 1 then .adds v.d v.a v.b else .adds2P v.d v.a v.b v.m
  | .subs => if v.len = 1 then .subs v.d v.a v.b else .subs2P v.d v.a v.b v.m
  | .neg => if v.len = 1 then .neg v.d v.a else .neg2P v.d v.a v.m
  | .abs => if v.len = 1 then .abs v.d v.a else .abs2P v.d v.a v.m
  | .min => if v.len = 1 then .min v.d v.a v.b else .min2P v.d v.a v.b v.m
  | .max => if v.len = 1 then .max v.d v.a v.b else .max2P v.d v.a v.b v.m
  | .minu => if v.len = 1 then .minu v.d v.a v.b else .minu2P v.d v.a v.b v.m
  | .maxu => if v.len = 1 then .maxu v.d v.a v.b else .maxu2P v.d v.a v.b v.m
  | .mul => if v.len = 1 then .mul v.d v.a v.b else .mul2P v.d v.a v.b v.m
  | .mulh => if v.len = 1 then .mulh v.d v.a v.b else .mulh2P v.d v.a v.b v.m
  | .mulhu => if v.len = 1 then .mulhu v.d v.a v.b else .mulhu2P v.d v.a v.b v.m
  | .mad => if v.len = 1 then .mad v.d v.a v.b v.c else .mad2P v.d v.a v.b v.c v.m
  | .dot4 => if v.len = 1 then .dot4 v.d v.a v.b v.c else .dot42P v.d v.a v.b v.c v.m
  | .and => if v.len = 1 then .and v.d v.a v.b else .and2P v.d v.a v.b v.m
  | .or => if v.len = 1 then .or v.d v.a v.b else .or2P v.d v.a v.b v.m
  | .xor => if v.len = 1 then .xor v.d v.a v.b else .xor2P v.d v.a v.b v.m
  | .not => if v.len = 1 then .not v.d v.a else .not2P v.d v.a v.m
  | .andn => if v.len = 1 then .andn v.d v.a v.b else .andn2P v.d v.a v.b v.m
  | .shl => if v.len = 1 then .shl v.d v.a v.b else .shl2P v.d v.a v.b v.m
  | .shr => if v.len = 1 then .shr v.d v.a v.b else .shr2P v.d v.a v.b v.m
  | .sar => if v.len = 1 then .sar v.d v.a v.b else .sar2P v.d v.a v.b v.m
  | .rol => if v.len = 1 then .rol v.d v.a v.b else .rol2P v.d v.a v.b v.m
  | .clz => if v.len = 1 then .clz v.d v.a else .clz2P v.d v.a v.m
  | .popc => if v.len = 1 then .popc v.d v.a else .popc2P v.d v.a v.m
  | .cmpEq => if v.len = 1 then .cmpEq v.d v.a v.b else .cmpEq2P v.d v.a v.b v.m
  | .cmpNe => if v.len = 1 then .cmpNe v.d v.a v.b else .cmpNe2P v.d v.a v.b v.m
  | .cmpLt => if v.len = 1 then .cmpLt v.d v.a v.b else .cmpLt2P v.d v.a v.b v.m
  | .cmpLe => if v.len = 1 then .cmpLe v.d v.a v.b else .cmpLe2P v.d v.a v.b v.m
  | .cmpLtu => if v.len = 1 then .cmpLtu v.d v.a v.b else .cmpLtu2P v.d v.a v.b v.m
  | .cmpLeu => if v.len = 1 then .cmpLeu v.d v.a v.b else .cmpLeu2P v.d v.a v.b v.m
  | .sel => if v.len = 1 then .sel v.d v.a v.b v.c else .sel2P v.d v.a v.b v.c v.m
  | .sela => if v.len = 1 then .sela v.d v.a v.b v.c else .sela2P v.d v.a v.b v.c v.m
  | .fadd => if v.len = 1 then .fadd v.d v.a v.b else .fadd2P v.d v.a v.b v.m
  | .fsub => if v.len = 1 then .fsub v.d v.a v.b else .fsub2P v.d v.a v.b v.m
  | .fmul => if v.len = 1 then .fmul v.d v.a v.b else .fmul2P v.d v.a v.b v.m
  | .ffma => if v.len = 1 then .ffma v.d v.a v.b v.c else .ffma2P v.d v.a v.b v.c v.m
  | .ffms => if v.len = 1 then .ffms v.d v.a v.b v.c else .ffms2P v.d v.a v.b v.c v.m
  | .fnma => if v.len = 1 then .fnma v.d v.a v.b v.c else .fnma2P v.d v.a v.b v.c v.m
  | .fmin => if v.len = 1 then .fmin v.d v.a v.b else .fmin2P v.d v.a v.b v.m
  | .fmax => if v.len = 1 then .fmax v.d v.a v.b else .fmax2P v.d v.a v.b v.m
  | .fminp => if v.len = 1 then .fminp v.d v.a v.b else .fminp2P v.d v.a v.b v.m
  | .fmaxp => if v.len = 1 then .fmaxp v.d v.a v.b else .fmaxp2P v.d v.a v.b v.m
  | .fneg => if v.len = 1 then .fneg v.d v.a else .fneg2P v.d v.a v.m
  | .fabs => if v.len = 1 then .fabs v.d v.a else .fabs2P v.d v.a v.m
  | .fcps => if v.len = 1 then .fcps v.d v.a v.b else .fcps2P v.d v.a v.b v.m
  | .fcmpEq => if v.len = 1 then .fcmpEq v.d v.a v.b else .fcmpEq2P v.d v.a v.b v.m
  | .fcmpNe => if v.len = 1 then .fcmpNe v.d v.a v.b else .fcmpNe2P v.d v.a v.b v.m
  | .fcmpLt => if v.len = 1 then .fcmpLt v.d v.a v.b else .fcmpLt2P v.d v.a v.b v.m
  | .fcmpLe => if v.len = 1 then .fcmpLe v.d v.a v.b else .fcmpLe2P v.d v.a v.b v.m
  | .fcmpUn => if v.len = 1 then .fcmpUn v.d v.a v.b else .fcmpUn2P v.d v.a v.b v.m
  | .frcp => if v.len = 1 then .frcp v.d v.a else .frcp2P v.d v.a v.m
  | .frsq => if v.len = 1 then .frsq v.d v.a else .frsq2P v.d v.a v.m
  | .fsqrt => if v.len = 1 then .fsqrt v.d v.a else .fsqrt2P v.d v.a v.m
  | .flog2 => if v.len = 1 then .flog2 v.d v.a else .flog22P v.d v.a v.m
  | .fexp2 => if v.len = 1 then .fexp2 v.d v.a else .fexp22P v.d v.a v.m
  | .ftanh => if v.len = 1 then .ftanh v.d v.a else .ftanh2P v.d v.a v.m
  | .fsigm => if v.len = 1 then .fsigm v.d v.a else .fsigm2P v.d v.a v.m
  | .cvt => .cvt v.d v.a v.b v.c v.m
  | .qnt => .qnt v.d v.a v.b v.c v.m
  | .dqn => .dqn v.d v.a v.b v.m
  | .rnsf => if v.len = 1 then .rnsf v.d v.a v.b v.c else .rnsf2P v.d v.a v.b v.c v.m
  | .rnsb => if v.len = 1 then .rnsb v.d v.a else .rnsb2P v.d v.a v.m
  | .scale => if v.len = 1 then .scale v.d v.a v.b else .scale2P v.d v.a v.b v.m
  | .pres => if v.len = 1 then .pres v.d v.a else .pres2P v.d v.a v.m
  | .fill => if v.len = 1 then .fill v.d v.a v.b else .fill2P v.d v.a v.b v.m
  | .mkab => if v.len = 1 then .mkab v.d v.a v.b else .mkab2P v.d v.a v.b v.m
  | .cntp => if v.len = 1 then .cntp v.d v.a v.b else .cntp2P v.d v.a v.b v.m
  | .rand => if v.len = 1 then .rand v.d else .rand2P v.d v.m
  | .gumb => if v.len = 1 then .gumb v.d v.a v.b v.c else .gumb2P v.d v.a v.b v.c v.m
  | .ldi => if v.len = 1 then .ldi v.d else if v.len = 2 then .ldi2P v.d v.m else .ldi3P v.d v.m v.lit
  | .movs => if v.len = 1 then .movs v.d v.a else .movs2P v.d v.a v.m
  | .incs => if v.len = 1 then .incs v.d v.a else .incs2P v.d v.a v.m
  | .move => if v.len = 1 then .move v.d v.a else .move2P v.d v.a v.m
  | .drop => if v.len = 1 then .drop v.a else .drop2P v.a v.m
  | .merge => if v.len = 1 then .merge v.d v.a v.b else .merge2P v.d v.a v.b v.m
  | .steer => if v.len = 1 then .steer v.d v.a else .steer2P v.d v.a v.m
  | .gate => if v.len = 1 then .gate v.d v.a else .gate2P v.d v.a v.m
  | .swz => if v.len = 1 then .swz v.d v.a v.b v.c else .swz2P v.d v.a v.b v.c v.m
  | .pack => if v.len = 1 then .pack v.d v.a v.b else .pack2P v.d v.a v.b v.m
  | .unpk => if v.len = 1 then .unpk v.d v.a v.b else .unpk2P v.d v.a v.b v.m
  | .bcast => if v.len = 1 then .bcast v.d v.a else .bcast2P v.d v.a v.m
  | .rept => .rept v.d v.a v.m
  | .reptc => if v.len = 1 then .reptc v.d v.a v.b else .reptc2P v.d v.a v.b v.m
  | .isect => if v.len = 1 then .isect v.d v.a v.b else .isect2P v.d v.a v.b v.m
  | .union => if v.len = 1 then .union v.d v.a v.b else .union2P v.d v.a v.b v.m
  | .tagc => if v.len = 1 then .tagc v.d v.a v.b else .tagc2P v.d v.a v.b v.m
  | .untag => if v.len = 1 then .untag v.d v.a else .untag2P v.d v.a v.m
  | .redadd => if v.len = 1 then .redadd v.d v.a v.b else .redadd2P v.d v.a v.b v.m
  | .redmax => if v.len = 1 then .redmax v.d v.a v.b else .redmax2P v.d v.a v.b v.m
  | .redmin => if v.len = 1 then .redmin v.d v.a v.b else .redmin2P v.d v.a v.b v.m
  | .argmax => if v.len = 1 then .argmax v.d v.a v.b else .argmax2P v.d v.a v.b v.m
  | .argmin => if v.len = 1 then .argmin v.d v.a v.b else .argmin2P v.d v.a v.b v.m
  | .scanx => if v.len = 1 then .scanx v.d v.a v.b else .scanx2P v.d v.a v.b v.m
  | .drain => if v.len = 1 then .drain v.d else .drain2P v.d v.m
  | .eose => if v.len = 1 then .eose v.d else .eose2P v.d v.m
  | .bare => if v.len = 1 then .bare v.d v.a else .bare2P v.d v.a v.m
  | .oneos => if v.len = 1 then .oneos v.d v.a else .oneos2P v.d v.a v.m
  | .br => if v.len = 1 then .br else .br2P v.m
  | .brf => if v.len = 1 then .brf else .brf2P v.m
  | .jmp => if v.len = 1 then .jmp else .jmp2P v.m
  | .jtab => .jtab v.a v.m
  | .lpad => .lpad (v.m.imm.setWidth 10)
  | .waitq => if v.len = 1 then .waitq v.d else .waitq2P v.d v.m
  | .emitq => if v.len = 1 then .emitq v.a else .emitq2P v.a v.m
  | .loop => if v.len = 1 then .loop v.d else .loop2P v.d v.m
  | .mtok => .mtok v.d v.a v.b v.m v.lit
  | .oclm => if v.len = 1 then .oclm v.d else .oclm2P v.d v.m
  | .orel => if v.len = 1 then .orel v.d v.a else .orel2P v.d v.a v.m
  | .osta => if v.len = 1 then .osta v.d v.a else .osta2P v.d v.a v.m
  | .rotj => if v.len = 1 then .rotj v.d v.a else .rotj2P v.d v.a v.m
  | .rotx => if v.len = 1 then .rotx v.a else .rotx2P v.a v.m
  | .roth => if v.len = 1 then .roth v.a else .roth2P v.a v.m
  | .rotr => if v.len = 1 then .rotr v.a else .rotr2P v.a v.m
  | .rotp => if v.len = 1 then .rotp v.d else .rotp2P v.d v.m

end Machine

end Sys2Proof
end

