-- ==== Sys2Proof/WellFormed.lean ====
section
/-! DEFINITION. Which instructions the encodings of the part admit, check by check.

Element instructions are checked at configuration load (R199, R413) and controller commands when they are decoded
(R267, R416); matrix tokens are checked at the head of their queue (R182).  A check that fails is named.  Checks
that need the unit's WIDTH are apart (`EView.wfWidth`); checks that need the whole store (branch targets) are in
Machine/Load.lean. -/

namespace Sys2Proof

/-- The checks an instruction can fail. -/
inductive WfError where
  /-- A position the entry reads holds 0x07 and the entry does not call it optional (R176). -/
  | missingOperand
  /-- D holds 0x07 where the entry does not make it optional (R176, R208). -/
  | missingDest
  /-- D is of a kind the entry does not accept. -/
  | badDest
  /-- A source operand is of a kind the entry does not accept. -/
  | badOperand
  /-- A second-parcel field that the group does not accept is not its default (R207, R236). -/
  | unusedField
  /-- A reserved or unused bit of IMM is set, or IMM holds an unassigned value. -/
  | badImm
  /-- OMASK is not 0 where R178 requires it. -/
  | badOmask
  /-- RND other than RNE where only RNE is allowed. -/
  | badRnd
  /-- ABZ where only ABP is allowed. -/
  | badAbm
  /-- A TYPE that the entry does not accept, whatever the WIDTH. -/
  | badType
  /-- A TYPE that R200 or R236 does not accept in the unit's WIDTH. -/
  | badWidth
  /-- Two outputs that must differ are equal. -/
  | sameOutput
  /-- The literal of MTOK breaks R182 or R251. -/
  | badLiteral
  /-- A length the opcode map does not give the instruction (R197). -/
  | badLength
  /-- WC = 1 with WTHR = 0 (R180). -/
  | consumeWithoutWait
  /-- A register range that runs past X15 (R267). -/
  | registerRange
  /-- A field of a matrix token that R182 wants 0 or bounds. -/
  | badToken
  deriving DecidableEq, Repr

/-- `b` or the named failure. -/
def need (b : Bool) (e : WfError) : List WfError := if b then [] else [e]

/-- Which second-parcel fields an operation accepts (R207, R236): TYPE, RND, SAT, NPROP, ABM, QG. -/
structure Accepts where
  ty    : Bool
  rnd   : Bool
  sat   : Bool
  nprop : Bool
  abm   : Bool
  qg    : Bool
  deriving DecidableEq, Repr

/-- The fields each group accepts, by the tables of R207 and R236. -/
def EOp.accepts : EOp → Accepts
  | .nop | .halt => ⟨false, false, false, false, false, true⟩
  | .add | .sub | .adds | .subs | .neg | .abs | .min | .max | .minu | .maxu => ⟨true, true, true, false, true, true⟩
  | .mul | .mulh | .mulhu | .mad | .dot4 => ⟨true, false, true, false, true, true⟩
  | .and | .or | .xor | .not | .andn | .shl | .shr | .sar | .rol | .clz | .popc | .sel | .sela =>
      ⟨true, false, false, false, false, true⟩
  | .cmpEq | .cmpNe | .cmpLt | .cmpLe | .cmpLtu | .cmpLeu
  | .fcmpEq | .fcmpNe | .fcmpLt | .fcmpLe | .fcmpUn => ⟨true, false, false, false, true, true⟩
  | .fadd | .fsub | .fmul | .ffma | .ffms | .fnma | .fmin | .fmax | .fminp | .fmaxp | .fneg | .fabs | .fcps
  | .frcp | .frsq | .fsqrt | .flog2 | .fexp2 | .ftanh | .fsigm
  | .cvt | .qnt | .dqn | .scale => ⟨true, true, true, true, true, true⟩
  | .rnsf | .rnsb => ⟨false, true, true, true, true, true⟩
  | .pres | .fill | .mkab | .cntp | .ldi | .movs | .incs => ⟨true, false, false, false, false, true⟩
  | .rand | .gumb => ⟨true, true, true, true, true, true⟩
  | .move | .drop | .swz => ⟨false, false, false, false, false, true⟩
  | .merge | .steer | .gate => ⟨false, false, false, false, false, false⟩
  | .pack | .unpk | .bcast => ⟨true, false, false, false, false, true⟩
  | .rept | .reptc | .isect | .tagc | .untag => ⟨false, false, false, false, false, true⟩
  | .union => ⟨true, false, false, false, false, true⟩
  | .redadd | .scanx => ⟨true, true, true, true, false, true⟩
  | .redmax | .redmin => ⟨true, false, false, true, false, true⟩
  | .argmax | .argmin | .drain => ⟨true, false, false, false, false, true⟩
  | .eose | .bare => ⟨false, false, false, false, false, true⟩
  | .oneos => ⟨false, false, false, false, false, false⟩
  | .br | .brf | .jmp | .jtab | .lpad | .waitq | .emitq | .loop => ⟨false, false, false, false, false, false⟩
  | .mtok | .oclm | .orel | .osta | .rotj | .rotx | .roth | .rotr | .rotp => ⟨false, false, false, false, false, true⟩

/-- A field that the group does not accept holds its default (R207). -/
def wfAccepts (v : EView) : List WfError :=
  let a := v.op.accepts
  let d := Machine.defaultMods v.op
  need ((a.ty || v.m.ty == d.ty) && (a.rnd || v.m.rnd == d.rnd) && (a.sat || v.m.sat == d.sat) &&
    (a.nprop || v.m.nprop == d.nprop) && (a.abm || v.m.abm == d.abm) && (a.qg || v.m.qg == d.qg)) .unusedField

/-- The operations that take a condition and can send a control token (R208). -/
def EOp.hasCmode : EOp → Bool
  | .cmpEq | .cmpNe | .cmpLt | .cmpLe | .cmpLtu | .cmpLeu
  | .fcmpEq | .fcmpNe | .fcmpLt | .fcmpLe | .fcmpUn | .pres => true
  | _ => false

/-- The operations whose OMASK must be 0 (R178). -/
def EOp.omaskZero : EOp → Bool
  | .nop | .halt | .drop | .br | .brf | .jmp | .jtab | .lpad | .waitq | .emitq | .loop | .rotx | .roth | .rotr
  | .steer | .isect | .union => true
  | _ => false

/-- The reductions, with MODE in IMM[1:0] and SREG in IMM[4:2] (R243). -/
def EOp.isReduce : EOp → Bool
  | .redadd | .redmax | .redmin | .argmax | .argmin | .scanx => true
  | _ => false

/-- The operations with a destination position (R176). -/
def EOp.listsD (op : EOp) : Bool :=
  match Machine.eopShape op with
  | .dabc | .dab | .da | .d => true
  | .a | .n | .label => false

/-- D may hold 0x07 (R208, R243, R248, R249). -/
def wfDestOptional (v : EView) : Bool :=
  if v.op.hasCmode then decide (natBits v.m.imm.toNat 2 2 ≠ 0)
  else if v.op.isReduce then decide (natBits v.m.imm.toNat 0 2 = 2)
  else match v.op with
    | .oneos | .waitq => true
    | _ => false

/-- A source code that names an input, consumed or peeked. -/
def Src.isInput : Src → Bool
  | .inp _ | .peek _ => true
  | _ => false

/-- A source code that names a C or S register. -/
def Src.isReg : Src → Bool
  | .c _ | .s _ => true
  | _ => false

/-- A destination that is an S register. -/
def Dst.isS : Dst → Bool
  | .s _ => true
  | _ => false

/-- A destination that is an output. -/
def Dst.isOut : Dst → Bool
  | .out _ => true
  | _ => false

/-- The destination rules: 0x07 only where optional, and the kinds that an entry asks for. -/
def wfDest (v : EView) : List WfError :=
  (if v.op.listsD then need (v.d != .none || wfDestOptional v) .missingDest else need (v.d == .none) .badDest) ++
  (match v.op with
   | .loop | .incs => need v.d.isS .badDest
   | .waitq => need (v.d.isS || v.d == .none) .badDest
   | .qnt => need v.d.isOut .badDest
   | _ => [])

/-- The source rules of the entries: which positions are required, and the kinds they accept. -/
def wfSources (v : EView) : List WfError :=
  let req (s : Src) : List WfError := need (s != .none) .missingOperand
  let no (s : Src) : List WfError := need (s == .none) .badOperand
  let imm := v.m.imm.toNat
  match v.op with
  | .nop | .halt | .br | .brf | .jmp | .lpad | .rand | .ldi | .drain | .eose | .waitq | .loop | .oclm | .rotp =>
      no v.a ++ no v.b ++ no v.c
  | .emitq | .osta | .bare => no v.b ++ no v.c
  | .shl | .shr | .sar | .rol | .scale | .cntp => req v.a ++ no v.c
  | .dot4 => req v.a ++ req v.b
  | .cvt =>
      req v.a ++
      (let wi := if natBits imm 0 4 = 0 ∨ natBits imm 0 4 = 2 then 32 else if natBits imm 0 4 = 1 then 16
                 else if natBits imm 0 4 = 3 then 8 else 4
       let wo := match v.m.ty with | .fp32 | .int32 => 32 | .bf16 => 16 | _ => 8
       if wi < wo then no v.b ++ no v.c
       else if wi = wo then no v.b
       else need (v.b == .none || decide (natBits imm 4 3 + 1 < wi / wo)) .badImm)
  | .qnt => req v.a ++ (if natBits imm 2 1 = 1 then req v.c else no v.c)
  | .dqn =>
      need v.a.isInput .badOperand ++
      (if natBits imm 0 4 = 4 then no v.b else need v.b.isReg .badOperand)
  | .gumb => req v.a ++ req v.b ++ (if v.m.ty = .bf16 then req v.c else no v.c)
  | .incs => need (v.a.isReg || v.a == .zero) .badOperand
  | .swz => req v.a ++ need v.c.isReg .badOperand
  | .oneos => need (match v.a with | .inp _ => true | _ => false) .badOperand
  | .rotj => need v.a.isInput .badOperand
  | .mtok =>
      (let op := natBits v.lit.toNat 27 5
       let usesA := decide (1 ≤ op ∧ op ≤ 5)
       if usesA then req v.a ++ req v.b else no v.a ++ no v.b)
  | .redadd | .redmax | .redmin =>
      req v.a ++ (if natBits imm 0 2 = 0 then req v.b else no v.b)
  | .argmax | .argmin =>
      req v.a ++ req v.b
  | .scanx => req v.a ++ (if natBits imm 0 2 = 0 then req v.b else no v.b)
  | _ =>
      match Machine.eopShape v.op with
      | .dabc => req v.a ++ req v.b ++ req v.c
      | .dab => req v.a ++ req v.b
      | .da | .a => req v.a
      | .d | .n | .label => []

/-- The IMM rules of the entries. -/
def wfImm (v : EView) : List WfError :=
  let imm := v.m.imm.toNat
  let lt (n : Nat) : List WfError := need (decide (imm < n)) .badImm
  if v.op.hasCmode then lt 16
  else if v.op.isReduce then
    lt 32 ++ need (decide (natBits imm 0 2 ≠ 3)) .badImm ++
    need (decide (natBits imm 0 2 = 2 ∨ natBits imm 2 3 = 0)) .badImm ++
    (match v.op with
     | .argmax | .argmin => need (decide (natBits imm 2 1 = 0)) .badImm
     | .scanx => need (decide (natBits imm 0 2 ≠ 1)) .badImm
     | _ => [])
  else match v.op with
    | .adds | .subs => lt 32
    | .shl | .shr | .sar | .rol => if v.b = .none then lt 64 else lt 1
    | .cvt =>
        lt 128 ++
        (let f := natBits imm 0 4
         let wi := if f = 0 ∨ f = 2 then 32 else if f = 1 then 16 else if f = 3 then 8 else 4
         let wo := match v.m.ty with | .fp32 | .int32 => 32 | .bf16 => 16 | _ => 8
         let r := if wi < wo then wo / wi else wi / wo
         need (decide (f < 5)) .badImm ++
         need (match v.m.ty with | .fp32 => f != 0 | .bf16 => f != 1 | .int32 => f != 2 | _ => f != 3) .badImm ++
         need (decide (natBits imm 4 3 < r)) .badImm)
    | .qnt =>
        need (decide (natBits imm 11 5 = 0 ∧ natBits imm 3 5 = 0)) .badImm ++
        need (v.m.ty != .mxint8 || decide (natBits imm 0 2 < 2)) .badImm
    | .dqn =>
        lt 512 ++ need (decide (4 ≤ natBits imm 0 4 ∧ natBits imm 0 4 ≤ 7)) .badImm ++
        need (v.m.ty == .fp32 || decide (natBits imm 8 1 = 0)) .badImm ++
        need (decide (natBits imm 0 4 ≠ 5 ∨ natBits imm 4 2 < 2)) .badImm
    | .rnsb => lt 3
    | .scale => if v.b = .none then [] else lt 1
    | .rand =>
        lt 32 ++
        (match v.d with
         | .s k => need (decide (¬ (natBits imm 4 1 = 1 ∧ k.val / 2 = natBits imm 2 2))) .badDest
         | _ => [])
    | .ldi => if v.len = 3 then lt 1 else []
    | .incs => []
    | .merge | .gate => lt 4
    | .steer =>
        lt 16 ++ (match v.d with | .out k => need (decide (k.val ≠ natBits imm 2 2)) .sameOutput | _ => [])
    | .isect | .union =>
        lt 4 ++ (match v.d with | .out k => need (decide (k.val ≠ natBits imm 0 2)) .sameOutput | _ => [])
    | .pack | .unpk => lt 2
    | .bcast =>
        lt 64 ++ need (decide (natBits imm 0 6 <
          (match v.m.ty with | .fp32 | .int32 => 16 | .bf16 => 32 | _ => 64))) .badImm
    | .rept => need (decide (imm ≠ 0)) .badImm
    | .untag => lt 2
    | .drain =>
        lt 32 ++ need (decide (natBits imm 0 2 < 2)) .badImm ++
        need (decide (natBits imm 0 2 = 0 ∨ natBits imm 2 1 = 0)) .badImm
    | .bare => if v.a = .none then [] else lt 1
    | .oneos => lt 128
    | .br | .brf => lt 256
    | .waitq => lt 256 ++ need (decide (natBits imm 0 6 = 0)) .badImm
    | .jmp | .loop => lt 64
    | .jtab => need (decide (1 ≤ imm ∧ imm ≤ 8)) .badImm
    | .lpad => lt 1024
    | .emitq =>
        lt 512 ++ need (decide (natBits imm 0 6 = 0)) .badImm ++
        need (v.a == .none || decide (natBits imm 8 1 = 0)) .badImm
    | .osta => if v.a = .none then lt 16 else lt 1
    | .rotj | .rotx | .roth | .rotr | .rotp => lt 8
    | _ => lt 1

/-- The RND, ABM and TYPE limits that hold in every WIDTH (R207, R221, R223, R228, R229). -/
def wfFields (v : EView) : List WfError :=
  need (!(v.op.omaskZero) || v.m.omask == 0) .badOmask ++
  (match v.op with
   | .frcp | .frsq | .fsqrt | .flog2 | .fexp2 | .ftanh | .fsigm => need (v.m.rnd == .rne) .badRnd
   | .qnt =>
       need (v.m.rnd == .rne) .badRnd ++
       need (v.m.ty == .mxint8 || v.m.ty == .mxint4 || v.m.ty == .mxfp4) .badType
   | .rand => need (v.m.rnd == .rne) .badRnd ++ need (v.m.abm == .abp) .badAbm
   | .gumb => need (v.m.rnd == .rne) .badRnd ++ need (v.m.abm == .abp) .badAbm
   | .cvt => need (v.m.ty == .fp32 || v.m.ty == .bf16 || v.m.ty == .int32 || v.m.ty == .int8) .badType
   | .dqn => need (v.m.ty == .fp32 || v.m.ty == .bf16) .badType
   | _ => [])

/-- The fields of a matrix token that its OP uses, as R182 gives them. -/
def wfMxFields (op : Nat) (t : MxTok) : List WfError :=
  let m0 := decide (t.mm1 = 0 ∧ t.nm1 = 0)
  let k0 := decide (t.kg = 0 ∧ t.koff = 0)
  let kOk := decide (16 * t.koff.toNat + 16 * (t.kg.toNat + 1) ≤ 256)
  let nOk := decide (t.nm1.toNat < 16)
  let claims0 := decide (t.aclm = 0 ∧ t.bclm = 0)
  need (match op with
    | 0x00 | 0x0A => (t.int || nOk) && k0 && !t.acc && (!t.int || !t.tile) && !t.dfmt && !t.blk && claims0
    | 0x08 | 0x09 => (t.int || nOk) && k0 && !t.acc && (!t.int || !t.tile) && !t.blk && claims0
    | 0x01 | 0x03 => nOk && kOk && !t.dfmt && !t.blk && !t.int
    | 0x02 => nOk && kOk && !t.dfmt && !t.int
    | 0x04 | 0x05 => kOk && !t.tile && !t.dfmt && !t.blk && t.int
    | 0x1F => m0 && k0 && !t.acc && !t.tile && !t.dfmt && !t.blk && !t.int && decide (t.bclm = 0)
    | _ => false) .badToken

/-- The fields of bits [40:0] and up of a matrix token word (R181). -/
def mxTokOf (w : Nat) : MxTok :=
  { mm1 := BitVec.ofNat 5 (natBits w 54 5), nm1 := BitVec.ofNat 5 (natBits w 49 5)
    kg := BitVec.ofNat 4 (natBits w 45 4), koff := BitVec.ofNat 4 (natBits w 41 4)
    acc := decide (natBits w 40 1 = 1), tile := decide (natBits w 39 1 = 1), dfmt := decide (natBits w 38 1 = 1)
    blk := decide (natBits w 37 1 = 1), int := decide (natBits w 36 1 = 1)
    aclm := BitVec.ofNat 8 (natBits w 24 8), bclm := BitVec.ofNat 8 (natBits w 16 8) }

/-- A matrix token word breaks R182: an unassigned OP, a reserved bit, or a field its OP wants otherwise. -/
def wfMxWord (w : Nat) : List WfError :=
  need (decide (natBits w 32 4 = 0 ∧ natBits w 0 16 = 0)) .badToken ++ wfMxFields (natBits w 59 5) (mxTokOf w)

/-- The literal of MTOK: R182 with the claims it may hold, no OP 0x1F, no reserved bit (R251). -/
def wfLiteral (v : EView) : List WfError :=
  match v.op with
  | .mtok =>
      need (decide (natBits v.lit.toNat 27 5 ≠ 0x1F) && (wfMxWord (v.lit.toNat * 2 ^ 32)).isEmpty) .badLiteral
  | _ => []

/-- The checks of an element instruction that need no WIDTH (R413). -/
def EView.wfErrors (v : EView) : List WfError :=
  need (decide (v.len ∈ Machine.eopLens v.op)) .badLength ++
  wfAccepts v ++ wfDest v ++ wfSources v ++ wfImm v ++ wfFields v ++ wfLiteral v

/-- The TYPE values a unit of a WIDTH accepts (R200, R222 to R226, R236); WIDTH is 32, 16 or 8. -/
def EView.wfWidth (width : Nat) (v : EView) : List WfError :=
  let t := v.m.ty
  let raw := if width = 32 then t == .int32 || t == .fp32 else if width = 16 then t == .bf16 else t == .int8
  let int := if width = 32 then t == .int32 else if width = 8 then t == .int8 else false
  let flt := if width = 32 then t == .fp32 else if width = 16 then t == .bf16 else false
  need (match v.op with
    | .add | .sub | .adds | .subs | .neg | .abs | .min | .max | .minu | .maxu
    | .mul | .mulh | .mulhu | .mad | .cmpEq | .cmpNe | .cmpLt | .cmpLe | .cmpLtu | .cmpLeu => int
    | .dot4 => width == 32 && t == .int32
    | .and | .or | .xor | .not | .andn | .shl | .shr | .sar | .rol | .clz | .popc | .sel | .sela
    | .ldi | .movs | .incs | .pres | .fill | .mkab | .cntp | .pack | .unpk | .bcast | .union
    | .redadd | .redmax | .redmin | .scanx | .drain => raw
    | .fadd | .fsub | .fmul | .ffma | .ffms | .fnma | .fmin | .fmax | .fminp | .fmaxp | .fneg | .fabs | .fcps
    | .fcmpEq | .fcmpNe | .fcmpLt | .fcmpLe | .fcmpUn
    | .frcp | .frsq | .fsqrt | .flog2 | .fexp2 | .ftanh | .fsigm | .scale | .gumb | .dqn => flt
    | .qnt => if natBits v.m.imm.toNat 2 1 = 1 then width == 32 else width == 16
    | .rnsf | .rnsb => width == 32
    | .rand => (width == 32 && (t == .fp32 || t == .int32)) || (width == 16 && t == .bf16)
    | .argmax | .argmin => width == 32 && (t == .fp32 || t == .int32)
    | _ => true) .badWidth

/-- The checks of a controller command that its words alone decide (R180, R267, R416). -/
def wfCtlWord (w : CtlP2) : List WfError :=
  need (!(w.wc && w.wthr == 0)) .consumeWithoutWait

/-- `k` registers from `r` up lie within X0 to X15 (R267). -/
def room (r : XReg) (k : Nat) : List WfError := need (decide (r.val + k ≤ 16)) .registerRange

/-- The checks of a memory-node instruction that its INSN alone decides (R257, R413, R424). -/
def wfMem (i : Instr) : List WfError :=
  let plain (m : MemMods) : List WfError := need (m.rnd == .rne) .unusedField
  let zero (m : MemMods) : List WfError := plain m ++ need (m.imm == 0) .badImm
  match i with
  | .ld m | .gath m | .qld m | .qst m | .qstv m | .pref m | .ord m => zero m
  | .bara m | .barw m => zero m ++ need (m.ty == .fp32) .badType
  | .st m | .scat m => plain m ++ need (decide (m.imm.toNat < 3)) .badImm
  | .atom m =>
      need (decide (m.imm.toNat < 6)) .badImm ++ need (decide (m.imm.toNat = 1) || m.rnd == .rne) .unusedField ++
      need (decide (m.imm.toNat ≠ 0) || (m.ty == .int32 || m.ty == .int8)) .badType ++
      need (decide (m.imm.toNat ≠ 1) || (m.ty == .fp32 || m.ty == .bf16)) .badType
  | .fence m => plain m ++ need (decide (m.imm.toNat < 4)) .badImm
  | _ => []

/-- The checks of a controller command (R267 to R307, R416). -/
def wfCtl (i : Instr) : List WfError :=
  match i with
  | .ctlNop w | .ctlNopEventWait w | .ctlHalt w | .endCmd w | .ctlDrain w => wfCtlWord w
  | .ctlAdd _ _ _ w | .ctlSub _ _ _ w | .ctlAnd _ _ _ w | .ctlOr _ _ _ w | .ctlXor _ _ _ w | .ctlShl _ _ _ w
  | .ctlShr _ _ _ w | .ctlSar _ _ _ w | .ctlMul _ _ _ w | .ctlMin _ _ _ w | .ctlMax _ _ _ w
  | .ctlAddImm _ _ _ w | .ctlSubImm _ _ _ w | .ctlAndImm _ _ _ w | .ctlOrImm _ _ _ w | .ctlXorImm _ _ _ w
  | .ctlShlImm _ _ _ w | .ctlShrImm _ _ _ w | .ctlSarImm _ _ _ w | .ctlMulImm _ _ _ w | .ctlMinImm _ _ _ w
  | .ctlMaxImm _ _ _ w | .li _ w _ | .liHigh _ w _ | .beq _ _ w _ | .bne _ _ w _ | .blt _ _ w _ | .bge _ _ w _
  | .bltu _ _ w _ | .bgeu _ _ w _ | .b w _ | .call _ w _ | .ret _ w | .ctlLpad _ w | .cfg _ w | .run _ _ w
  | .rdv _ _ w | .evtc _ _ _ w | .semw _ _ _ w | .sems _ _ w | .semset _ _ w | .semrd _ _ w
  | .barga _ _ w | .bargw _ _ w | .grpj _ w | .grpl _ w | .mapsel _ _ w | .pipe _ _ w | .trap _ w
  | .sysc _ _ _ w | .rett _ _ w | .rds _ _ w | .enrd _ _ w | .cyc _ w | .susp _ w | .resm _ _ w
  | .migr _ _ w | .save _ _ w | .rest _ _ w | .ltwrite _ w | .ltfetch _ w | .rotld _ _ w => wfCtlWord w
  | .ctlJtab _ _ imm w => need (decide (imm ≠ 0)) .badImm ++ wfCtlWord w
  -- The words of WRS to 0x20 and 0x21 are LTWRITE and LTFETCH (R305).
  | .wrs _ imm w => need (decide (imm ≠ 0x20 ∧ imm ≠ 0x21)) .badImm ++ wfCtlWord w
  | .steal d _ w | .split d _ w | .iter d w => room d 2 ++ wfCtlWord w
  | .fork _ _ _ imm w => need (decide (imm.toNat < 2)) .badImm ++ wfCtlWord w
  | .tlw _ b imm w | .tlrd _ b imm w =>
      need (decide (imm = 0 ∨ (imm = 1 ∧ b = 0))) .badImm ++ wfCtlWord w
  | .tla imm w => need (decide (imm ≠ 0)) .badImm ++ wfCtlWord w
  | .bari _ imm w => need (decide (imm.toNat < 2)) .badImm ++ wfCtlWord w
  | .copy d a imm w | .copyg d a imm w | .copyf d a imm w =>
      room d 2 ++ room a 6 ++ need (decide (imm.toNat < 64)) .badImm ++ wfCtlWord w
  | .copyq d a imm w => room d 2 ++ room a 6 ++ need (decide (imm.toNat < 128)) .badImm ++ wfCtlWord w
  | .prom _ imm w => need (decide (imm.toNat < 64)) .badImm ++ wfCtlWord w
  | .collAllred d a _ w | .collAllgath d a _ w | .collRedscat d a _ w | .collBcast d a _ w | .collScan d a _ w
  | .collMaxidx d a _ w => room d 2 ++ room a 4 ++ wfCtlWord w
  | .qsend _ _ imm w | .qrecv _ _ _ imm w => need (decide (imm.toNat < 128)) .badImm ++ wfCtlWord w
  | .qpeek d imm w => room d 2 ++ need (decide (imm.toNat < 128)) .badImm ++ wfCtlWord w
  | .rotsv _ imm w => need (decide (imm.toNat < 8)) .badImm ++ wfCtlWord w
  | .tlbi _ imm w => need (decide (imm.toNat < 8 ∧ natBits imm.toNat 0 2 ≠ 3)) .badImm ++ wfCtlWord w
  | _ => []

/-- The opcode of a matrix row (R182). -/
def mxOp : Instr → Option (Nat × MxTok)
  | .mzero t => some (0x00, t)
  | .mmaBf16 t => some (0x01, t)
  | .mmaW4i t => some (0x02, t)
  | .mmaW4f t => some (0x03, t)
  | .mmaI8 t => some (0x04, t)
  | .mmaI4 t => some (0x05, t)
  | .mdrain t => some (0x08, t)
  | .mdrainMean t => some (0x09, t)
  | .mcount t => some (0x0A, t)
  | .matrixRelease t => some (0x1F, t)
  | _ => none

/-- Every check an instruction fails; a row that no program word encodes fails none. -/
def Instr.wfErrors (i : Instr) : List WfError :=
  (match Machine.elemView i with | some v => v.wfErrors | none => []) ++
  (match mxOp i with | some (op, t) => wfMxFields op t | none => []) ++ wfMem i ++ wfCtl i

/-- The instruction passes every check that its words decide. -/
def Instr.wf (i : Instr) : Bool := i.wfErrors.isEmpty

end Sys2Proof
end

