-- ==== Sys2Proof/Decode.lean ====
section
/-! DEFINITION. The decoders of element instructions, memory-node instructions, matrix tokens and controller
commands (R173 to R182, R196 to R198), total on any parcels and rejecting by name, and after them the encoder.

The decoders check what a code's own words decide about its shape: lengths, opcodes, operand codes, positions and
fields that must hold a fixed value.  The limits of the entries are `Instr.wf` (WellFormed.lean). -/

namespace Sys2Proof

/-- Why parcels are not an instruction. -/
inductive DecodeError where
  /-- There are fewer parcels than the length code asks for. -/
  | tooShort
  /-- LEN 0b11 in element code (R173), or 0b00 or 0b11 in controller code. -/
  | badLen
  /-- An OPC or FN that the opcode map does not hold (R197, R198, R182). -/
  | badOpcode
  /-- A length that the opcode map does not give the instruction (R197). -/
  | badForm
  /-- Operand code 0x0E or 0x0F (R176). -/
  | badSource
  /-- Destination code 0x04 to 0x06 or 0x08 to 0x17 (R176). -/
  | badDest
  /-- A position that the entry does not list does not hold 0x07 (R176). -/
  | badPosition
  /-- TYPE 0x8 to 0xF (R93). -/
  | badType
  /-- ABM 2 or 3 (R104). -/
  | badAbm
  /-- SCOPE 4 to 15 (R180). -/
  | badScope
  /-- A field that the command or token does not use is not 0 (R267, R181, R257). -/
  | badField
  deriving DecidableEq, Repr

namespace Decode

/-- The source operand of a code (R176). -/
def src (n : Nat) : Except DecodeError Src :=
  if h : n < 6 then .ok (.inp ⟨n, h⟩)
  else if n = 6 then .ok .zero
  else if n = 7 then .ok .none
  else if n < 14 then .ok (.peek (Fin.ofNat 6 (n - 8)))
  else if n < 16 then .error .badSource
  else if n < 24 then .ok (.c (Fin.ofNat 8 (n - 16)))
  else .ok (.s (Fin.ofNat 8 (n - 24)))

/-- The destination of a code (R176). -/
def dst (n : Nat) : Except DecodeError Dst :=
  if h : n < 4 then .ok (.out ⟨n, h⟩)
  else if n = 7 then .ok .none
  else if n < 24 then .error .badDest
  else .ok (.s (Fin.ofNat 8 (n - 24)))

/-- The code of a source operand (R176). -/
def srcCode : Src → Nat
  | .inp k => k.val
  | .zero => 6
  | .none => 7
  | .peek k => 8 + k.val
  | .c k => 16 + k.val
  | .s k => 24 + k.val

/-- The code of a destination (R176). -/
def dstCode : Dst → Nat
  | .out k => k.val
  | .none => 7
  | .s k => 24 + k.val

/-- The format of a code (R93). -/
def fmt : Nat → Except DecodeError Fmt
  | 0 => .ok .fp32 | 1 => .ok .bf16 | 2 => .ok .int32 | 3 => .ok .int8
  | 4 => .ok .int4 | 5 => .ok .mxint8 | 6 => .ok .mxint4 | 7 => .ok .mxfp4
  | _ => .error .badType

/-- The code of a format (R93). -/
def fmtCode : Fmt → Nat
  | .fp32 => 0 | .bf16 => 1 | .int32 => 2 | .int8 => 3 | .int4 => 4 | .mxint8 => 5 | .mxint4 => 6 | .mxfp4 => 7

/-- The rounding mode of a code (R100). -/
def rnd : Nat → Rnd
  | 0 => .rne | 1 => .rtz | 2 => .rdn | _ => .rup

/-- The code of a rounding mode (R100). -/
def rndCode : Rnd → Nat
  | .rne => 0 | .rtz => 1 | .rdn => 2 | .rup => 3

/-- The absent mode of a code (R104). -/
def abm : Nat → Except DecodeError Abm
  | 0 => .ok .abp | 1 => .ok .abz | _ => .error .badAbm

/-- The code of an absent mode (R104). -/
def abmCode : Abm → Nat
  | .abp => 0 | .abz => 1

/-- The QG of a code (R178). -/
def qg : Nat → Qg
  | 0 => .none | 1 => .qt | 2 => .qf | _ => .qany

/-- The code of a QG (R178). -/
def qgCode : Qg → Nat
  | .none => 0 | .qt => 1 | .qf => 2 | .qany => 3

/-- The second parcel of an element instruction (R177). -/
def mods (p : Parcel) : Except DecodeError Mods := do
  let ty ← fmt (fld p 28 4)
  let ab ← abm (fld p 22 2)
  pure { ty := ty, rnd := rnd (fld p 26 2), sat := bit p 25, nprop := bit p 24, abm := ab
         omask := BitVec.ofNat 4 (fld p 18 4), qg := qg (fld p 16 2), imm := BitVec.ofNat 16 (fld p 0 16) }

/-- The second parcel of an element instruction as a word (R177). -/
def modsWord (m : Mods) : Parcel :=
  BitVec.ofNat 32 (fmtCode m.ty * 2 ^ 28 + rndCode m.rnd * 2 ^ 26 + b2n m.sat * 2 ^ 25 + b2n m.nprop * 2 ^ 24 +
    abmCode m.abm * 2 ^ 22 + m.omask.toNat * 2 ^ 18 + qgCode m.qg * 2 ^ 16 + m.imm.toNat)

/-- The positions that a shape lists hold any code; the others hold 0x07 (R176). -/
def positionsOk (sh : EShape) (d : Dst) (a b c : Src) : Bool :=
  match sh with
  | .dabc => true
  | .dab => c == .none
  | .da => b == .none && c == .none
  | .d => a == .none && b == .none && c == .none
  | .a => d == .none && b == .none && c == .none
  | .n => d == .none && a == .none && b == .none && c == .none
  | .label => d == .none && a == .none

/-- The view of an element instruction whose first parcel is `p0` and whose operation is known. -/
def elemView (op : EOp) (p0 : Parcel) (rest : List Parcel) : Except DecodeError EView := do
  let len := fld p0 30 2 + 1
  if op = .lpad then
    if fld p0 10 10 ≠ 0xE7 then throw .badPosition
    if len ≠ 1 then throw .badForm
    pure { Machine.one .lpad .none .none .none .none with
      m := { Machine.defaultMods .lpad with imm := BitVec.ofNat 16 (fld p0 0 10) } }
  else
    if len ∉ Machine.eopLens op then throw .badForm
    let d ← dst (fld p0 15 5)
    let a ← src (fld p0 10 5)
    let b ← src (fld p0 5 5)
    let c ← src (fld p0 0 5)
    if positionsOk (Machine.eopShape op) d a b c = false then throw .badPosition
    if len = 1 then pure (Machine.one op d a b c)
    else match rest with
      | [] => throw .tooShort
      | p1 :: more => do
        let m ← mods p1
        if len = 2 then pure (Machine.two op d a b c m)
        else match more with
          | [] => throw .tooShort
          | p2 :: _ => pure (Machine.three op d a b c m p2)

/-- An element instruction of a compute unit's store: the instruction and its length in parcels (R173, R175). -/
def elem (ps : List Parcel) : Except DecodeError (Instr × Nat) :=
  match ps with
  | [] => .error .tooShort
  | p0 :: rest =>
    if fld p0 30 2 = 3 then .error .badLen
    else match Machine.eopOf (fld p0 24 6) (fld p0 20 4) with
      | none => .error .badOpcode
      | some op => do
        let v ← elemView op p0 rest
        pure (Machine.instrOf v, v.len)

/-- The memory-node instruction of an FN (R258). -/
def memOf (fn : Nat) (m : MemMods) : Option Instr :=
  match fn with
  | 0 => some (.ld m) | 1 => some (.st m) | 2 => some (.gath m) | 3 => some (.scat m) | 4 => some (.atom m)
  | 5 => some (.ord m) | 6 => some (.fence m) | 7 => some (.qld m) | 8 => some (.qst m) | 9 => some (.qstv m)
  | 10 => some (.bara m) | 11 => some (.barw m) | 12 => some (.pref m)
  | _ => none

/-- The FN and fields of a memory-node instruction (R258). -/
def memFields : Instr → Option (Nat × MemMods)
  | .ld m => some (0, m) | .st m => some (1, m) | .gath m => some (2, m) | .scat m => some (3, m)
  | .atom m => some (4, m) | .ord m => some (5, m) | .fence m => some (6, m) | .qld m => some (7, m)
  | .qst m => some (8, m) | .qstv m => some (9, m) | .bara m => some (10, m) | .barw m => some (11, m)
  | .pref m => some (12, m)
  | _ => none

/-- A memory-node instruction from INSN0 and INSN1 of a frame (R193, R257). -/
def mem (p0 p1 : Parcel) : Except DecodeError Instr :=
  if fld p0 30 2 ≠ 1 then .error .badLen
  else if fld p0 24 6 ≠ 0x20 then .error .badOpcode
  else if fld p0 0 20 ≠ 0x39CE7 then .error .badPosition
  else if fld p1 16 10 ≠ 0 then .error .badField
  else match fmt (fld p1 28 4) with
    | .error e => .error e
    | .ok ty =>
      match memOf (fld p0 20 4) { ty := ty, rnd := rnd (fld p1 26 2), imm := BitVec.ofNat 16 (fld p1 0 16) } with
      | some i => .ok i
      | none => .error .badOpcode

/-- INSN0 and INSN1 of a memory-node instruction (R257). -/
def memWords (fn : Nat) (m : MemMods) : List Parcel :=
  [BitVec.ofNat 32 (2 ^ 30 + 0x20 * 2 ^ 24 + fn * 2 ^ 20 + 0x39CE7),
   BitVec.ofNat 32 (fmtCode m.ty * 2 ^ 28 + rndCode m.rnd * 2 ^ 26 + m.imm.toNat)]

/-- The matrix instruction of an OP (R182). -/
noncomputable def mxOf (op : Nat) (t : MxTok) : Option Instr :=
  match op with
  | 0x00 => some (.mzero t) | 0x01 => some (.mmaBf16 t) | 0x02 => some (.mmaW4i t) | 0x03 => some (.mmaW4f t)
  | 0x04 => some (.mmaI8 t) | 0x05 => some (.mmaI4 t) | 0x08 => some (.mdrain t) | 0x09 => some (.mdrainMean t)
  | 0x0A => some (.mcount t) | 0x1F => some (.matrixRelease t)
  | _ => none

/-- A matrix token (R181): OP assigned and reserved bits 0.  The rules of R182 are `wfMxFields`. -/
noncomputable def mx (w : Word64) : Except DecodeError Instr :=
  if fld w 32 4 ≠ 0 ∨ fld w 0 16 ≠ 0 then .error .badField
  else match mxOf (fld w 59 5) (mxTokOf w.toNat) with
    | some i => .ok i
    | none => .error .badOpcode

/-- A matrix token as a word (R181). -/
def mxWord (op : Nat) (t : MxTok) : Word64 :=
  BitVec.ofNat 64 (op * 2 ^ 59 + t.mm1.toNat * 2 ^ 54 + t.nm1.toNat * 2 ^ 49 + t.kg.toNat * 2 ^ 45 +
    t.koff.toNat * 2 ^ 41 + b2n t.acc * 2 ^ 40 + b2n t.tile * 2 ^ 39 + b2n t.dfmt * 2 ^ 38 + b2n t.blk * 2 ^ 37 +
    b2n t.int * 2 ^ 36 + t.aclm.toNat * 2 ^ 24 + t.bclm.toNat * 2 ^ 16)

/-- The scope of a code (R180). -/
def scope : Nat → Except DecodeError Scope
  | 0 => .ok .cluster | 1 => .ok .die | 2 => .ok .device | 3 => .ok .system
  | _ => .error .badScope

/-- The code of a scope (R180). -/
def scopeCode : Scope → Nat
  | .cluster => 0 | .die => 1 | .device => 2 | .system => 3

/-- The second parcel of a controller command (R180).  WSEM with WTHR = 0, SSEM with SINC = 0 and SCOPE of a command that neither
waits nor signals do not count as fields that must hold 0: the model's choice (log entry 80). -/
def ctlP2 (p : Parcel) : Except DecodeError CtlP2 := do
  let sc ← scope (fld p 0 4)
  pure { wsem := BitVec.ofNat 8 (fld p 24 8), wthr := BitVec.ofNat 7 (fld p 17 7), wc := bit p 16
         ssem := BitVec.ofNat 8 (fld p 8 8), sinc := BitVec.ofNat 4 (fld p 4 4), scope := sc }

/-- The second parcel of a controller command as a word (R180). -/
def ctlP2Word (w : CtlP2) : Parcel :=
  BitVec.ofNat 32 (w.wsem.toNat * 2 ^ 24 + w.wthr.toNat * 2 ^ 17 + b2n w.wc * 2 ^ 16 + w.ssem.toNat * 2 ^ 8 +
    w.sinc.toNat * 2 ^ 4 + scopeCode w.scope)

/-- The fields of a controller command (R179, R180). -/
structure CtlEnc where
  opc : Nat
  fn  : Nat
  xd  : XReg := 0
  xa  : XReg := 0
  xb  : XReg := 0
  imm : BitVec 8 := 0
  w   : CtlP2
  lit : Option Parcel := none
  deriving DecidableEq, Repr

/-- The fields of a command's encoding (R198); none for the rows that are no controller command. -/
def ctlEnc : Instr → Option CtlEnc
  | .ctlNop w => some { opc := 0x0, fn := 0, w := w }
  | .ctlHalt w => some { opc := 0x0, fn := 1, w := w }
  | .endCmd w => some { opc := 0x0, fn := 2, w := w }
  | .ctlAdd d a b w => some { opc := 0x1, fn := 0, xd := d, xa := a, xb := b, w := w }
  | .ctlAddImm d a imm w => some { opc := 0x2, fn := 0, xd := d, xa := a, imm := imm, w := w }
  | .ctlSub d a b w => some { opc := 0x1, fn := 1, xd := d, xa := a, xb := b, w := w }
  | .ctlSubImm d a imm w => some { opc := 0x2, fn := 1, xd := d, xa := a, imm := imm, w := w }
  | .ctlAnd d a b w => some { opc := 0x1, fn := 2, xd := d, xa := a, xb := b, w := w }
  | .ctlAndImm d a imm w => some { opc := 0x2, fn := 2, xd := d, xa := a, imm := imm, w := w }
  | .ctlOr d a b w => some { opc := 0x1, fn := 3, xd := d, xa := a, xb := b, w := w }
  | .ctlOrImm d a imm w => some { opc := 0x2, fn := 3, xd := d, xa := a, imm := imm, w := w }
  | .ctlXor d a b w => some { opc := 0x1, fn := 4, xd := d, xa := a, xb := b, w := w }
  | .ctlXorImm d a imm w => some { opc := 0x2, fn := 4, xd := d, xa := a, imm := imm, w := w }
  | .ctlShl d a b w => some { opc := 0x1, fn := 5, xd := d, xa := a, xb := b, w := w }
  | .ctlShlImm d a imm w => some { opc := 0x2, fn := 5, xd := d, xa := a, imm := imm, w := w }
  | .ctlShr d a b w => some { opc := 0x1, fn := 6, xd := d, xa := a, xb := b, w := w }
  | .ctlShrImm d a imm w => some { opc := 0x2, fn := 6, xd := d, xa := a, imm := imm, w := w }
  | .ctlSar d a b w => some { opc := 0x1, fn := 7, xd := d, xa := a, xb := b, w := w }
  | .ctlSarImm d a imm w => some { opc := 0x2, fn := 7, xd := d, xa := a, imm := imm, w := w }
  | .ctlMul d a b w => some { opc := 0x1, fn := 8, xd := d, xa := a, xb := b, w := w }
  | .ctlMulImm d a imm w => some { opc := 0x2, fn := 8, xd := d, xa := a, imm := imm, w := w }
  | .ctlMin d a b w => some { opc := 0x1, fn := 9, xd := d, xa := a, xb := b, w := w }
  | .ctlMinImm d a imm w => some { opc := 0x2, fn := 9, xd := d, xa := a, imm := imm, w := w }
  | .ctlMax d a b w => some { opc := 0x1, fn := 10, xd := d, xa := a, xb := b, w := w }
  | .ctlMaxImm d a imm w => some { opc := 0x2, fn := 10, xd := d, xa := a, imm := imm, w := w }
  | .li d w lit => some { opc := 0x3, fn := 0, xd := d, w := w, lit := some lit }
  | .beq a b w lit => some { opc := 0x4, fn := 0, xa := a, xb := b, w := w, lit := some lit }
  | .bne a b w lit => some { opc := 0x4, fn := 1, xa := a, xb := b, w := w, lit := some lit }
  | .blt a b w lit => some { opc := 0x4, fn := 2, xa := a, xb := b, w := w, lit := some lit }
  | .bge a b w lit => some { opc := 0x4, fn := 3, xa := a, xb := b, w := w, lit := some lit }
  | .bltu a b w lit => some { opc := 0x4, fn := 4, xa := a, xb := b, w := w, lit := some lit }
  | .bgeu a b w lit => some { opc := 0x4, fn := 5, xa := a, xb := b, w := w, lit := some lit }
  | .b w lit => some { opc := 0x5, fn := 0, w := w, lit := some lit }
  | .call d w lit => some { opc := 0x5, fn := 1, xd := d, w := w, lit := some lit }
  | .ret a w => some { opc := 0x5, fn := 2, xa := a, w := w }
  | .ctlJtab a b imm w => some { opc := 0x5, fn := 3, xa := a, xb := b, imm := imm, w := w }
  | .cfg a w => some { opc := 0x8, fn := 0, xa := a, w := w }
  | .run a b w => some { opc := 0x8, fn := 1, xa := a, xb := b, w := w }
  | .steal d a w => some { opc := 0x8, fn := 2, xd := d, xa := a, w := w }
  | .split d a w => some { opc := 0x8, fn := 3, xd := d, xa := a, w := w }
  | .iter d w => some { opc := 0x8, fn := 4, xd := d, w := w }
  | .ctlDrain w => some { opc := 0x8, fn := 5, w := w }
  | .fork d a b imm w => some { opc := 0x9, fn := 0, xd := d, xa := a, xb := b, imm := imm, w := w }
  | .rdv d a w => some { opc := 0x9, fn := 1, xd := d, xa := a, w := w }
  | .evtc a b imm w => some { opc := 0x9, fn := 2, xa := a, xb := b, imm := imm, w := w }
  | .semw d a imm w => some { opc := 0xa, fn := 0, xd := d, xa := a, imm := imm, w := w }
  | .sems a imm w => some { opc := 0xa, fn := 1, xa := a, imm := imm, w := w }
  | .semset a imm w => some { opc := 0xa, fn := 2, xa := a, imm := imm, w := w }
  | .semrd d imm w => some { opc := 0xa, fn := 3, xd := d, imm := imm, w := w }
  | .tlw a b imm w => some { opc := 0xb, fn := 0, xa := a, xb := b, imm := imm, w := w }
  | .tla imm w => some { opc := 0xb, fn := 1, imm := imm, w := w }
  | .tlrd d b imm w => some { opc := 0xb, fn := 2, xd := d, xb := b, imm := imm, w := w }
  | .bari d imm w => some { opc := 0xc, fn := 0, xd := d, imm := imm, w := w }
  | .barga d imm w => some { opc := 0xc, fn := 1, xd := d, imm := imm, w := w }
  | .bargw a imm w => some { opc := 0xc, fn := 2, xa := a, imm := imm, w := w }
  | .copy d a imm w => some { opc := 0x10, fn := 0, xd := d, xa := a, imm := imm, w := w }
  | .copyg d a imm w => some { opc := 0x10, fn := 1, xd := d, xa := a, imm := imm, w := w }
  | .copyf d a imm w => some { opc := 0x10, fn := 2, xd := d, xa := a, imm := imm, w := w }
  | .prom a imm w => some { opc := 0x10, fn := 3, xa := a, imm := imm, w := w }
  | .copyq d a imm w => some { opc := 0x10, fn := 4, xd := d, xa := a, imm := imm, w := w }
  | .collAllred d a imm w => some { opc := 0x11, fn := 0, xd := d, xa := a, imm := imm, w := w }
  | .collAllgath d a imm w => some { opc := 0x11, fn := 1, xd := d, xa := a, imm := imm, w := w }
  | .collRedscat d a imm w => some { opc := 0x11, fn := 2, xd := d, xa := a, imm := imm, w := w }
  | .collBcast d a imm w => some { opc := 0x11, fn := 3, xd := d, xa := a, imm := imm, w := w }
  | .collScan d a imm w => some { opc := 0x11, fn := 4, xd := d, xa := a, imm := imm, w := w }
  | .collMaxidx d a imm w => some { opc := 0x11, fn := 5, xd := d, xa := a, imm := imm, w := w }
  | .qsend a b imm w => some { opc := 0x12, fn := 0, xa := a, xb := b, imm := imm, w := w }
  | .qrecv d a b imm w => some { opc := 0x12, fn := 1, xd := d, xa := a, xb := b, imm := imm, w := w }
  | .qpeek d imm w => some { opc := 0x12, fn := 2, xd := d, imm := imm, w := w }
  | .rotsv a imm w => some { opc := 0x13, fn := 0, xa := a, imm := imm, w := w }
  | .rotld a b w => some { opc := 0x13, fn := 1, xa := a, xb := b, w := w }
  | .grpj imm w => some { opc := 0x14, fn := 0, imm := imm, w := w }
  | .grpl imm w => some { opc := 0x14, fn := 1, imm := imm, w := w }
  | .mapsel a imm w => some { opc := 0x15, fn := 0, xa := a, imm := imm, w := w }
  | .pipe d a w => some { opc := 0x15, fn := 1, xd := d, xa := a, w := w }
  | .trap imm w => some { opc := 0x18, fn := 0, imm := imm, w := w }
  | .sysc d a imm w => some { opc := 0x18, fn := 1, xd := d, xa := a, imm := imm, w := w }
  | .rett a b w => some { opc := 0x18, fn := 2, xa := a, xb := b, w := w }
  | .rds d imm w => some { opc := 0x18, fn := 3, xd := d, imm := imm, w := w }
  | .wrs a imm w => some { opc := 0x18, fn := 4, xa := a, imm := imm, w := w }
  | .enrd d a w => some { opc := 0x18, fn := 5, xd := d, xa := a, w := w }
  | .cyc d w => some { opc := 0x18, fn := 6, xd := d, w := w }
  | .susp a w => some { opc := 0x1c, fn := 0, xa := a, w := w }
  | .resm d a w => some { opc := 0x1c, fn := 1, xd := d, xa := a, w := w }
  | .migr a b w => some { opc := 0x1c, fn := 2, xa := a, xb := b, w := w }
  | .save a b w => some { opc := 0x1c, fn := 3, xa := a, xb := b, w := w }
  | .rest a b w => some { opc := 0x1c, fn := 4, xa := a, xb := b, w := w }
  | .tlbi a imm w => some { opc := 0x1c, fn := 5, xa := a, imm := imm, w := w }
  | .ctlNopEventWait w => some { opc := 0, fn := 0, imm := 1, w := w }
  | .liHigh d w lit => some { opc := 3, fn := 0, xd := d, imm := 1, w := w, lit := some lit }
  | .ctlLpad l w => some { opc := 5, fn := 4, xb := ⟨natBits l.toNat 8 2, by have := Nat.mod_lt (l.toNat >>> 8) (y := 2 ^ 2) (by decide); unfold natBits; omega⟩, imm := l.setWidth 8, w := w }
  | .ltwrite a w => some { opc := 0x18, fn := 4, xa := a, imm := 0x20, w := w }
  | .ltfetch a w => some { opc := 0x18, fn := 4, xa := a, imm := 0x21, w := w }
  | _ => none

/-- The command that an OPC, FN and length name (R198), with IMM8 telling apart NOP #1, LI #1 and the register
writes LTWRITE and LTFETCH (R273, R275, R305). -/
noncomputable def ctlOf (e : CtlEnc) : Option Instr :=
  match e.opc, e.fn, e.lit with
  | 0x00, 0, none => some (if e.imm = 1 then .ctlNopEventWait e.w else .ctlNop e.w)
  | 0x03, 0, some l => some (if e.imm = 1 then .liHigh e.xd e.w l else .li e.xd e.w l)
  | 0x05, 4, none => some (.ctlLpad (BitVec.ofNat 10 (256 * e.xb.val + e.imm.toNat)) e.w)
  | 0x18, 4, none => some (if e.imm = 0x20 then .ltwrite e.xa e.w else if e.imm = 0x21 then .ltfetch e.xa e.w else .wrs e.xa e.imm e.w)
  | 0x00, 1, none => some (.ctlHalt e.w)
  | 0x00, 2, none => some (.endCmd e.w)
  | 0x01, 0, none => some (.ctlAdd e.xd e.xa e.xb e.w)
  | 0x02, 0, none => some (.ctlAddImm e.xd e.xa e.imm e.w)
  | 0x01, 1, none => some (.ctlSub e.xd e.xa e.xb e.w)
  | 0x02, 1, none => some (.ctlSubImm e.xd e.xa e.imm e.w)
  | 0x01, 2, none => some (.ctlAnd e.xd e.xa e.xb e.w)
  | 0x02, 2, none => some (.ctlAndImm e.xd e.xa e.imm e.w)
  | 0x01, 3, none => some (.ctlOr e.xd e.xa e.xb e.w)
  | 0x02, 3, none => some (.ctlOrImm e.xd e.xa e.imm e.w)
  | 0x01, 4, none => some (.ctlXor e.xd e.xa e.xb e.w)
  | 0x02, 4, none => some (.ctlXorImm e.xd e.xa e.imm e.w)
  | 0x01, 5, none => some (.ctlShl e.xd e.xa e.xb e.w)
  | 0x02, 5, none => some (.ctlShlImm e.xd e.xa e.imm e.w)
  | 0x01, 6, none => some (.ctlShr e.xd e.xa e.xb e.w)
  | 0x02, 6, none => some (.ctlShrImm e.xd e.xa e.imm e.w)
  | 0x01, 7, none => some (.ctlSar e.xd e.xa e.xb e.w)
  | 0x02, 7, none => some (.ctlSarImm e.xd e.xa e.imm e.w)
  | 0x01, 8, none => some (.ctlMul e.xd e.xa e.xb e.w)
  | 0x02, 8, none => some (.ctlMulImm e.xd e.xa e.imm e.w)
  | 0x01, 9, none => some (.ctlMin e.xd e.xa e.xb e.w)
  | 0x02, 9, none => some (.ctlMinImm e.xd e.xa e.imm e.w)
  | 0x01, 10, none => some (.ctlMax e.xd e.xa e.xb e.w)
  | 0x02, 10, none => some (.ctlMaxImm e.xd e.xa e.imm e.w)
  | 0x04, 0, some l => some (.beq e.xa e.xb e.w l)
  | 0x04, 1, some l => some (.bne e.xa e.xb e.w l)
  | 0x04, 2, some l => some (.blt e.xa e.xb e.w l)
  | 0x04, 3, some l => some (.bge e.xa e.xb e.w l)
  | 0x04, 4, some l => some (.bltu e.xa e.xb e.w l)
  | 0x04, 5, some l => some (.bgeu e.xa e.xb e.w l)
  | 0x05, 0, some l => some (.b e.w l)
  | 0x05, 1, some l => some (.call e.xd e.w l)
  | 0x05, 2, none => some (.ret e.xa e.w)
  | 0x05, 3, none => some (.ctlJtab e.xa e.xb e.imm e.w)
  | 0x08, 0, none => some (.cfg e.xa e.w)
  | 0x08, 1, none => some (.run e.xa e.xb e.w)
  | 0x08, 2, none => some (.steal e.xd e.xa e.w)
  | 0x08, 3, none => some (.split e.xd e.xa e.w)
  | 0x08, 4, none => some (.iter e.xd e.w)
  | 0x08, 5, none => some (.ctlDrain e.w)
  | 0x09, 0, none => some (.fork e.xd e.xa e.xb e.imm e.w)
  | 0x09, 1, none => some (.rdv e.xd e.xa e.w)
  | 0x09, 2, none => some (.evtc e.xa e.xb e.imm e.w)
  | 0x0a, 0, none => some (.semw e.xd e.xa e.imm e.w)
  | 0x0a, 1, none => some (.sems e.xa e.imm e.w)
  | 0x0a, 2, none => some (.semset e.xa e.imm e.w)
  | 0x0a, 3, none => some (.semrd e.xd e.imm e.w)
  | 0x0b, 0, none => some (.tlw e.xa e.xb e.imm e.w)
  | 0x0b, 1, none => some (.tla e.imm e.w)
  | 0x0b, 2, none => some (.tlrd e.xd e.xb e.imm e.w)
  | 0x0c, 0, none => some (.bari e.xd e.imm e.w)
  | 0x0c, 1, none => some (.barga e.xd e.imm e.w)
  | 0x0c, 2, none => some (.bargw e.xa e.imm e.w)
  | 0x10, 0, none => some (.copy e.xd e.xa e.imm e.w)
  | 0x10, 1, none => some (.copyg e.xd e.xa e.imm e.w)
  | 0x10, 2, none => some (.copyf e.xd e.xa e.imm e.w)
  | 0x10, 3, none => some (.prom e.xa e.imm e.w)
  | 0x10, 4, none => some (.copyq e.xd e.xa e.imm e.w)
  | 0x11, 0, none => some (.collAllred e.xd e.xa e.imm e.w)
  | 0x11, 1, none => some (.collAllgath e.xd e.xa e.imm e.w)
  | 0x11, 2, none => some (.collRedscat e.xd e.xa e.imm e.w)
  | 0x11, 3, none => some (.collBcast e.xd e.xa e.imm e.w)
  | 0x11, 4, none => some (.collScan e.xd e.xa e.imm e.w)
  | 0x11, 5, none => some (.collMaxidx e.xd e.xa e.imm e.w)
  | 0x12, 0, none => some (.qsend e.xa e.xb e.imm e.w)
  | 0x12, 1, none => some (.qrecv e.xd e.xa e.xb e.imm e.w)
  | 0x12, 2, none => some (.qpeek e.xd e.imm e.w)
  | 0x13, 0, none => some (.rotsv e.xa e.imm e.w)
  | 0x13, 1, none => some (.rotld e.xa e.xb e.w)
  | 0x14, 0, none => some (.grpj e.imm e.w)
  | 0x14, 1, none => some (.grpl e.imm e.w)
  | 0x15, 0, none => some (.mapsel e.xa e.imm e.w)
  | 0x15, 1, none => some (.pipe e.xd e.xa e.w)
  | 0x18, 0, none => some (.trap e.imm e.w)
  | 0x18, 1, none => some (.sysc e.xd e.xa e.imm e.w)
  | 0x18, 2, none => some (.rett e.xa e.xb e.w)
  | 0x18, 3, none => some (.rds e.xd e.imm e.w)
  | 0x18, 5, none => some (.enrd e.xd e.xa e.w)
  | 0x18, 6, none => some (.cyc e.xd e.w)
  | 0x1c, 0, none => some (.susp e.xa e.w)
  | 0x1c, 1, none => some (.resm e.xd e.xa e.w)
  | 0x1c, 2, none => some (.migr e.xa e.xb e.w)
  | 0x1c, 3, none => some (.save e.xa e.xb e.w)
  | 0x1c, 4, none => some (.rest e.xa e.xb e.w)
  | 0x1c, 5, none => some (.tlbi e.xa e.imm e.w)
  | _, _, _ => none

/-- The parcels of a command's fields (R179, R180). -/
def ctlWords (e : CtlEnc) : List Parcel :=
  [BitVec.ofNat 32 ((if e.lit.isSome then 2 else 1) * 2 ^ 30 + e.opc * 2 ^ 24 + e.fn * 2 ^ 20 + e.xd.val * 2 ^ 16 +
    e.xa.val * 2 ^ 12 + e.xb.val * 2 ^ 8 + e.imm.toNat), ctlP2Word e.w] ++ e.lit.toList

/-- The fields of a command's parcels, before the opcode map is asked (R179, R180). -/
def ctlRaw (p0 p1 : Parcel) (rest : List Parcel) : Except DecodeError CtlEnc := do
  let w ← ctlP2 p1
  let e : CtlEnc :=
    { opc := fld p0 24 6, fn := fld p0 20 4, xd := Fin.ofNat 16 (fld p0 16 4), xa := Fin.ofNat 16 (fld p0 12 4)
      xb := Fin.ofNat 16 (fld p0 8 4), imm := BitVec.ofNat 8 (fld p0 0 8), w := w, lit := none }
  if fld p0 30 2 = 1 then pure e
  else if fld p0 30 2 = 2 then
    match rest with
    | [] => throw .tooShort
    | p2 :: _ => pure { e with lit := some p2 }
  else throw .badLen

/-- A controller command: the command and its length in parcels.  A field that the command does not use is 0 (R267):
the command's own encoding has the fields that were read. -/
noncomputable def ctl (ps : List Parcel) : Except DecodeError (Instr × Nat) :=
  match ps with
  | p0 :: p1 :: rest => do
    let e ← ctlRaw p0 p1 rest
    match ctlOf e with
    | none => throw .badOpcode
    | some i => if ctlEnc i = some e then pure (i, if e.lit.isSome then 3 else 2) else throw .badField
  | _ => .error .tooShort

/-- The parcels of an element instruction (R175, R177). -/
def elemWords (v : EView) : List Parcel :=
  let opc := Machine.eopCode v.op
  let low := if v.op = .lpad then 0x39C00 + v.m.imm.toNat % 1024
    else dstCode v.d * 2 ^ 15 + srcCode v.a * 2 ^ 10 + srcCode v.b * 2 ^ 5 + srcCode v.c
  BitVec.ofNat 32 ((v.len - 1) * 2 ^ 30 + opc.1 * 2 ^ 24 + opc.2 * 2 ^ 20 + low) ::
    (if v.len = 1 then [] else if v.len = 2 then [modsWord v.m] else [modsWord v.m, v.lit])

end Decode

/-- The parcels of an instruction: of an element instruction, INSN0 and INSN1 of a memory-node instruction, the low
and high half of a matrix token, or a controller command.  A row that no program word encodes has none. -/
def encode (i : Instr) : List Parcel :=
  match Machine.elemView i with
  | some v => Decode.elemWords v
  | none =>
    match Decode.memFields i with
    | some (fn, m) => Decode.memWords fn m
    | none =>
      match mxOp i with
      | some (op, t) =>
        let w := Decode.mxWord op t
        [w.setWidth 32, BitVec.ofNat 32 (fld w 32 32)]
      | none =>
        match Decode.ctlEnc i with
        | some e => Decode.ctlWords e
        | none => []

/-- The parcels of an instruction whose table bits are `w`: the bits above `nbits` are 0, up to three parcels. -/
def tableParcels (nbits w : Nat) : List Parcel :=
  (List.range 3).map fun k => BitVec.ofNat 32 (natBits (w % 2 ^ nbits) (32 * k) 32)

/-- The instruction that the decoder of a compute unit's store reads from a word of the opcode table. -/
def decodeTableWord (nbits w : Nat) : Option Instr :=
  match Decode.elem (tableParcels nbits w) with
  | .ok (i, _) => some i
  | .error _ => none

end Sys2Proof
end

