-- ==== Sys2Proof/Config.lean ====
section
/-! DEFINITION. What the spec leaves to one part or one run: opaque constants, of which no proof can learn a value.

Each is applied to the operands the value depends on, or to the counter `State.freeCtr` that the step reads and
advances (log entry 2). -/

namespace Sys2Proof.Config

/-- The free values: the n-th value that the spec leaves open in a run (log entry 2). -/
opaque freeWord : Nat → Word64

/-- The count by which a die's CYCLE stands behind the package's count, at most 2 (R32). -/
opaque cycleSkew : Nat → Fin 3

/-- A special function's result where the model's enclosure is not narrow enough to round (R103): operation, the
pattern of the operand.  Not met at the precision the model uses; log entry 9. -/
opaque sfuUndecided : Nat → Nat → Nat

/-- The value that an accumulator entry holding the absent code has after a group of products, and the mean that it drains
as, by its format and count: no case of R114 or R254 names them (R95; log entry 30). -/
opaque absentAcc : List (Nat × Nat) → BitVec 32
opaque absentMean : Bool → Nat → Nat

/-- The private half of a die's identity key, as the seed that its fused secret gives (R385). -/
opaque identitySeed : Nat → BitVec 256

/-- The size of a function's BAR4, as the power of two by which it is above 1 GiB: the host chooses it (R373). -/
opaque bar4Bits : Nat → Nat

/-- The rise of a die's fused voltage curve from entry k − 1 to entry k, and its first entry at k = 0 (R363). -/
opaque curveFuse : Nat → Nat → Nat

/-- The promised duration of an engine operation, in CYCLE counts (R288 gives no formula): the free-value counter. -/
opaque promiseSpan : Nat → Nat

/-- A collective's members on another package, by group and destination number, and the elements that they contribute, by
collective, rank and element (R380). -/
opaque peerMembers : Nat → Nat → Nat
opaque peerElem : Nat → Nat → Nat → Word64

/-- What the body of a saved image holds after its number, as bytes: the body's layout is internal (R342). -/
opaque imageBody : Nat → List Byte

/-- The bytes of the group table that a launch writes at GTBASE: its layout is not given (R59, R387, R456). -/
opaque groupTable : Nat → List Byte

/-- The bank of an HBM4E address within its stack, which is not architectural (R126). -/
opaque bankOf : Nat → Nat

/-- The first address of the row that holds an HBM4E address (R126, R439). -/
opaque rowStart : Nat → Nat

end Sys2Proof.Config
end

