-- ==== Sys2Proof/Machine/Flags.lean ====
section
/-! DEFINITION. Number formats, exact arithmetic, rounding and the flags that results set (R93 to R113).

An element is its raw pattern, a `Nat` below `2^w`.  Every operation computes the exact value as a dyadic or a
quotient and rounds once (R100).  A result is its pattern with the flags that it sets (R101). -/

namespace Sys2Proof.Machine

/-- The five sticky flags in the places of the flag word (R102). -/
abbrev FlagWord := BitVec 5

/-- INV (R101). -/
def flagInv : FlagWord := 0b10000#5
/-- DZ (R101). -/
def flagDz : FlagWord := 0b01000#5
/-- OVF (R101). -/
def flagOvf : FlagWord := 0b00100#5
/-- UNF (R101). -/
def flagUnf : FlagWord := 0b00010#5
/-- INX (R101). -/
def flagInx : FlagWord := 0b00001#5

/-- The flag `f` where `b` holds. -/
def flagIf (b : Bool) (f : FlagWord) : FlagWord := if b then f else 0

/-- A result element: its pattern and the flags it sets. -/
abbrev Res := Nat × FlagWord

/-- The element width of a format in bits (R93). -/
def fmtWidth : Fmt → Nat
  | .fp32 | .int32 => 32
  | .bf16 => 16
  | .int8 | .mxint8 => 8
  | .int4 | .mxint4 | .mxfp4 => 4

/-- The absent code of a format (R93). -/
def absentOf : Fmt → Nat
  | .fp32 => 0xFF800001
  | .bf16 => 0xFF81
  | .int32 => 0x80000000
  | .int8 | .mxint8 => 0x80
  | .int4 | .mxint4 | .mxfp4 => 0x8

/-- The pattern is the absent code of its format (R93). -/
def isAbsent (f : Fmt) (n : Nat) : Bool := n == absentOf f

/-- The floating-point formats (R95). -/
def isFloat : Fmt → Bool
  | .fp32 | .bf16 => true
  | _ => false

/-- The bits of M in a floating-point format (R95). -/
def manBits : Fmt → Nat
  | .bf16 => 7
  | _ => 23

/-- What a floating-point pattern stands for (R95): the sign is true for negative, a number is `m * 2^e`. -/
inductive FVal where
  | absent
  | nan (signalling : Bool)
  | inf (neg : Bool)
  | num (neg : Bool) (m : Nat) (e : Int)
  deriving DecidableEq, Repr

/-- The classes of R95, tested in its order. -/
def fclass (f : Fmt) (n : Nat) : FVal :=
  let mb := manBits f
  let man := n % 2 ^ mb
  let ex := natBits n mb 8
  let neg := decide (natBits n (mb + 8) 1 = 1)
  if n = absentOf f then .absent
  else if ex = 255 then
    if man = 0 then .inf neg else .nan (decide (natBits n (mb - 1) 1 = 0))
  else if ex = 0 then .num neg man (-126 - (mb : Int))
  else .num neg (man + 2 ^ mb) ((ex : Int) - 127 - (mb : Int))

/-- The default quiet NaN (R96). -/
def qnan : Fmt → Nat
  | .bf16 => 0x7FC0
  | _ => 0x7FC00000

/-- Zero with a sign. -/
def fzero (f : Fmt) (neg : Bool) : Nat := b2n neg * 2 ^ (manBits f + 8)

/-- Infinity with a sign. -/
def finf (f : Fmt) (neg : Bool) : Nat := fzero f neg + 255 * 2 ^ manBits f

/-- The largest finite magnitude with a sign (R109). -/
def fmax (f : Fmt) (neg : Bool) : Nat := finf f neg - 1

/-- The pattern with its quiet bit set (R97). -/
def quieted (f : Fmt) (n : Nat) : Nat :=
  let q := 2 ^ (manBits f - 1)
  if natBits n (manBits f - 1) 1 = 1 then n else n + q

/-- The pattern is a NaN. -/
def isNan (f : Fmt) (n : Nat) : Bool := match fclass f n with | .nan _ => true | _ => false

/-- The pattern is a signalling NaN. -/
def isSnan (f : Fmt) (n : Nat) : Bool := match fclass f n with | .nan s => s | _ => false

/-- The NaN that NaN operands give (R97): the default one, or the first operand that is a NaN, quieted. -/
def nanRes (f : Fmt) (nprop : Bool) (ops : List Nat) : Nat :=
  if nprop then match ops.find? (isNan f) with | some n => quieted f n | none => qnan f
  else qnan f

/-- `x * 2^k` of a numerator and denominator, for any integer `k`. -/
def scaleUp (x : Nat) (k : Int) : Nat := x * 2 ^ k.toNat

/-- `floor(log2 (num / den * 2^e))` for `num` and `den` above 0. -/
def ratLog (num den : Nat) (e : Int) : Int :=
  let k : Int := (Nat.log2 num : Int) - (Nat.log2 den : Int)
  if scaleUp num (-k) < scaleUp den k then e + k - 1 else e + k

/-- `num / den * 2^k` as integer part, and how the rest stands to one half: 0 exact, 1 below, 2 half, 3 above. -/
def ratSplit (num den : Nat) (k : Int) : Nat × Nat :=
  let a := scaleUp num k
  let b := scaleUp den (-k)
  let q := a / b
  let r := a % b
  (q, if r = 0 then 0 else if 2 * r < b then 1 else if 2 * r = b then 2 else 3)

/-- The integer part rounded by a mode (R100): `neg` is the sign of the value. -/
def roundUp (r : Rnd) (neg : Bool) (q rest : Nat) : Nat :=
  match r with
  | .rne => if rest = 3 ∨ (rest = 2 ∧ q % 2 = 1) then q + 1 else q
  | .rtz => q
  | .rdn => if neg ∧ rest ≠ 0 then q + 1 else q
  | .rup => if ¬neg ∧ rest ≠ 0 then q + 1 else q

/-- The result of an overflow (R100): infinity, or the largest finite number of that direction. -/
def overflowed (f : Fmt) (r : Rnd) (neg : Bool) : Nat :=
  match r with
  | .rne => finf f neg
  | .rtz => fmax f neg
  | .rdn => if neg then finf f neg else fmax f neg
  | .rup => if neg then fmax f neg else finf f neg

/-- A rounding before its flags are formed: the pattern, and whether the value overflows, is tiny, is inexact. -/
structure Rounded where
  pat     : Nat
  ovf     : Bool
  tiny    : Bool
  inexact : Bool
  deriving DecidableEq, Repr

/-- The positive value `num / den * 2^e`, with a sign, rounded once to the format (R100).  `sticky` says that the
exact value lies above that value by less than any rounding position. -/
def roundCore (f : Fmt) (r : Rnd) (neg : Bool) (num den : Nat) (e : Int) (sticky : Bool) : Rounded :=
  let mb : Int := manBits f
  let l := ratLog num den e
  let split (qe : Int) : Nat × Nat :=
    let p := ratSplit num den (e - qe)
    if sticky then (p.1, if p.2 = 0 then 1 else if p.2 = 2 then 3 else p.2) else p
  let qe := if l - mb < -126 - mb then -126 - mb else l - mb
  let p := split qe
  let pat := roundUp r neg p.1 p.2 + (qe + mb + 126).toNat * 2 ^ manBits f
  let unbounded := split (l - mb)
  let tiny := decide (l < -126) &&
    !(decide (l = -127) && decide (roundUp r neg unbounded.1 unbounded.2 = 2 ^ (manBits f + 1)))
  if pat ≥ 255 * 2 ^ manBits f then ⟨overflowed f r neg, true, false, true⟩
  else ⟨fzero f neg + pat, false, tiny, decide (p.2 ≠ 0)⟩

/-- The flags of a rounding (R101). -/
def Rounded.flags (x : Rounded) : FlagWord :=
  flagIf x.ovf flagOvf ||| flagIf x.inexact flagInx ||| flagIf (x.tiny && x.inexact) flagUnf

/-- The value rounded, with its flags (R100, R101). -/
def roundRat (f : Fmt) (r : Rnd) (neg : Bool) (num den : Nat) (e : Int) (sticky : Bool := false) : Res :=
  if num = 0 then (fzero f neg, 0)
  else
    let x := roundCore f r neg num den e sticky
    (x.pat, x.flags)

/-- SAT = 1 turns an infinity into the largest finite number (R109). -/
def satF (f : Fmt) (sat : Bool) (x : Res) : Res :=
  if sat ∧ x.1 = finf f false then (fmax f false, x.2)
  else if sat ∧ x.1 = finf f true then (fmax f true, x.2)
  else x

/-- The sign of an exact zero sum of operands of opposite signs (R100). -/
def zeroSign (r : Rnd) : Bool := match r with | .rdn => true | _ => false

/-- The exact sum of numbers `± m * 2^e` as an integer multiple of `2^e0`, `e0` the least exponent. -/
def exactSum (ts : List (Bool × Nat × Int)) (e0 : Int) : Int :=
  ts.foldl (fun s t =>
    let v : Int := scaleUp t.2.1 (t.2.2 - e0)
    if t.1 then s - v else s + v) 0

/-- The least exponent of a list of numbers, at most `e`. -/
def leastExp (ts : List (Bool × Nat × Int)) (e : Int) : Int :=
  ts.foldl (fun m t => if t.2.2 < m then t.2.2 else m) e

/-- The exact sum of numbers rounded once (R100, R244). -/
def roundSum (f : Fmt) (r : Rnd) (ts : List (Bool × Nat × Int)) : Res :=
  if ts.all (fun t => t.2.1 == 0) then
    (fzero f (if ts.all (·.1) then true else if ts.any (·.1) then zeroSign r else false), 0)
  else
    let e0 := leastExp ts (ts.head?.map (·.2.2) |>.getD 0)
    let s := exactSum ts e0
    if s = 0 then (fzero f (zeroSign r), 0)
    else roundRat f r (decide (s < 0)) s.natAbs 1 e0

/-- A term of a sum: a product or an addend. -/
inductive Term where
  | inf (neg : Bool)
  | num (neg : Bool) (m : Nat) (e : Int)
  | invalid
  deriving DecidableEq, Repr

/-- An operand as a term; a NaN is invalid, and an absent code never reaches here. -/
def termOf : FVal → Term
  | .inf n => .inf n
  | .num n m e => .num n m e
  | _ => .invalid

/-- The exact product of two operands: zero times infinity is invalid (R96). -/
def termMul : FVal → FVal → Term
  | .num n m e, .num n' m' e' => .num (n != n') (m * m') (e + e')
  | .inf n, .inf n' => .inf (n != n')
  | .inf n, .num n' m' _ => if m' = 0 then .invalid else .inf (n != n')
  | .num n m _, .inf n' => if m = 0 then .invalid else .inf (n != n')
  | _, _ => .invalid

/-- A term with its sign inverted. -/
def termNeg : Term → Term
  | .inf n => .inf (!n)
  | .num n m e => .num (!n) m e
  | .invalid => .invalid

/-- The infinity signs among terms. -/
def termInfs (ts : List Term) : List Bool := ts.filterMap fun t => match t with | .inf n => some n | _ => none

/-- The numbers among terms. -/
def termNums (ts : List Term) : List (Bool × Nat × Int) :=
  ts.filterMap fun t => match t with | .num n m e => some (n, m, e) | _ => none

/-- The sum of terms, rounded once; an invalid operation gives the default NaN and INV (R96, R100, R218). -/
def sumTerms (f : Fmt) (r : Rnd) (ts : List Term) : Res :=
  let infs := termInfs ts
  if ts.contains .invalid || (infs.contains true && infs.contains false) then (qnan f, flagInv)
  else match infs with
    | n :: _ => (finf f n, 0)
    | [] => roundSum f r (termNums ts)

/-- An absent operand reads as +0 under ABZ (R104). -/
def abzF (f : Fmt) (n : Nat) : Nat := if isAbsent f n then 0 else n

/-- The arithmetic of R218 over the operands that the instruction reads: absent, NaN, invalid, then the value. -/
def fArith (f : Fmt) (m : Mods) (ops : List Nat) (terms : List FVal → List Term) : Res :=
  if m.abm = .abp ∧ ops.any (isAbsent f) then (absentOf f, 0)
  else
    let xs := ops.map (abzF f)
    if xs.any (isNan f) then (nanRes f m.nprop xs, flagIf (xs.any (isSnan f)) flagInv)
    else satF f m.sat (sumTerms f m.rnd (terms (xs.map (fclass f))))

/-- `a < b` on two numbers or infinities. -/
def fvLt : FVal → FVal → Bool
  | .inf n, .inf n' => n && !n'
  | .inf n, .num _ _ _ => n
  | .num _ _ _, .inf n' => !n'
  | .num n m e, .num n' m' e' =>
    let e0 := if e < e' then e else e'
    decide (exactSum [(n, m, e)] e0 < exactSum [(n', m', e')] e0)
  | _, _ => false

/-- `a = b` on two numbers or infinities; −0 equals +0. -/
def fvEq (a b : FVal) : Bool :=
  match a, b with
  | .num _ _ _, .num _ _ _ => !(fvLt a b) && !(fvLt b a)
  | .inf n, .inf n' => n == n'
  | _, _ => false

/-- The pattern has its sign bit set. -/
def fsign (f : Fmt) (n : Nat) : Bool := decide (natBits n (manBits f + 8) 1 = 1)

/-- `a` stands below `b` with −0 below +0 (R108). -/
def fLess (f : Fmt) (a b : Nat) : Bool :=
  fvLt (fclass f a) (fclass f b) || (fvEq (fclass f a) (fclass f b) && fsign f a && !(fsign f b))

/-- FMIN (`mx` false) and FMAX of two present patterns (R108). -/
def fMinMax (f : Fmt) (mx : Bool) (a b : Nat) : Res :=
  let inv := flagIf (isSnan f a || isSnan f b) flagInv
  match isNan f a, isNan f b with
  | true, true => (qnan f, inv)
  | true, false => (b, inv)
  | false, true => (a, inv)
  | false, false => (if fLess f a b != mx then a else b, 0)

/-- FMINP and FMAXP of two present patterns (R108). -/
def fMinMaxP (f : Fmt) (mx nprop : Bool) (a b : Nat) : Res :=
  if isNan f a || isNan f b then (nanRes f nprop [a, b], flagIf (isSnan f a || isSnan f b) flagInv)
  else (if fLess f a b != mx then a else b, 0)

/-- The integer read as signed (R98). -/
def sint (w n : Nat) : Int := signedOf w n

/-- An exact integer delivered as R98 says: clamped with SAT, wrapped without, never the absent code; OVF. -/
def fitInt (w : Nat) (sat : Bool) (v : Int) : Res :=
  let top : Int := 2 ^ (w - 1) - 1
  if -top ≤ v ∧ v ≤ top then (patternOf w v, 0)
  else if sat then (patternOf w (if v < 0 then -top else top), flagOvf)
  else
    let p := patternOf w v
    (if p = 2 ^ (w - 1) then p + 1 else p, flagOvf)

/-- The signed quotient `v / 2^n` rounded to an integer by a mode (R210), and whether it was exact. -/
def divPow2 (r : Rnd) (v : Int) (n : Nat) : Int × Bool :=
  let neg := decide (v < 0)
  let p := ratSplit v.natAbs (2 ^ n) 0
  let q := roundUp r neg p.1 p.2
  (if neg then -(q : Int) else (q : Int), decide (p.2 = 0))

/-- A number `± m * 2^e` rounded to an integer by a mode, and whether it was exact. -/
def toInt (r : Rnd) (neg : Bool) (m : Nat) (e : Int) : Int × Bool :=
  let p := ratSplit m 1 e
  let q := roundUp r neg p.1 p.2
  (if neg then -(q : Int) else (q : Int), decide (p.2 = 0))

/-- An integer rounded to a float format (R110). -/
def ofInt (f : Fmt) (r : Rnd) (v : Int) : Res :=
  if v = 0 then (0, 0) else roundRat f r (decide (v < 0)) v.natAbs 1 0

/-- One conversion of R110, with SAT and flags; the last two rows (to INT4) are the store path's (R129). -/
def convert (src dst : Fmt) (r : Rnd) (sat : Bool) (n : Nat) : Res :=
  if isAbsent src n then (absentOf dst, 0)
  else if isFloat src then
    if isFloat dst then
      match fclass src n with
      | .nan s =>
        ((if src = .fp32 then quieted .bf16 (n / 65536) else quieted .fp32 (n * 65536)), flagIf s flagInv)
      | .inf neg => satF dst sat (finf dst neg, 0)
      | .num neg m e => satF dst sat (roundRat dst r neg m 1 e)
      | .absent => (absentOf dst, 0)
    else
      let w := fmtWidth dst
      let top : Int := 2 ^ (w - 1) - 1
      match fclass src n with
      | .nan _ => (0, flagInv)
      | .inf neg => (patternOf w (if neg then -top else top), flagInv)
      | .num neg m e =>
        let v := toInt r neg m e
        if -top ≤ v.1 ∧ v.1 ≤ top then (patternOf w v.1, flagIf (!v.2) flagInx)
        else (patternOf w (if neg then -top else top), flagInv)
      | .absent => (absentOf dst, 0)
  else if isFloat dst then ofInt dst r (sint (fmtWidth src) n)
  else fitInt (fmtWidth dst) sat (sint (fmtWidth src) n)

/-- A conversion on a path that sets no flag and uses RNE and SAT = 0 (R129, R290). -/
def convertPlain (src dst : Fmt) (n : Nat) : Nat := if src = dst then n else (convert src dst .rne false n).1

/-! ### Block formats (R111 to R113) -/

/-- The value of a block element before scaling as a sign, a magnitude and a power of two (R111). -/
def blockElem (f : Fmt) (n : Nat) : Bool × Nat × Int :=
  match f with
  | .mxint8 => let v := sint 8 n; (decide (v < 0), v.natAbs, -6)
  | .mxint4 => let v := sint 4 n; (decide (v < 0), v.natAbs, -2)
  | .mxfp4 =>
    let s := decide (natBits n 3 1 = 1)
    let ex := natBits n 1 2
    let man := natBits n 0 1
    if ex = 0 then (s, man, -1) else (s, 2 + man, (ex : Int) - 2)
  | _ => let v := sint 4 n; (decide (v < 0), v.natAbs, 0)

/-- One element dequantised (R113): plain INT4 takes no scale. -/
def dequant (f dst : Fmt) (scale n : Nat) : Res :=
  if isAbsent f n then (absentOf dst, 0)
  else if f = .int4 then ofInt dst .rne (sint 4 n)
  else if scale = 255 then (qnan dst, flagInv)
  else
    let v := blockElem f n
    if v.2.1 = 0 then (0, 0) else roundRat dst .rne v.1 v.2.1 1 (v.2.2 + (scale : Int) - 127)

/-- E2M1 magnitudes in halves, by code (R111). -/
def e2m1Half (c : Nat) : Nat :=
  match c with | 0 => 0 | 1 => 1 | 2 => 2 | 3 => 3 | 4 => 4 | 5 => 6 | 6 => 8 | _ => 12

/-- The E2M1 code nearest a positive value, ties to the even code, values above 6 to 6 (R112).  The spacing of the
codes is that of E2M1: steps of one half below 2, of one below 4, of two above. -/
def e2m1Round (num den : Nat) (e : Int) : Nat × Bool :=
  let l := if num = 0 then 0 else ratLog num den e
  let step : Int := if l < 1 then -1 else l - 1
  let p := ratSplit num den (e - step)
  let q := roundUp .rne false p.1 p.2
  let half := q * 2 ^ (step + 1).toNat
  let c := if half ≤ 4 then half else if half ≤ 6 then 5 else if half ≤ 8 then 6 else 7
  (c, decide (p.2 = 0 ∧ half ≤ 12))

/-- A present element of a block quantised under the scale exponent `x` (R112), and whether it is reproduced. -/
def quantElem (f : Fmt) (x : Int) (neg : Bool) (m : Nat) (e : Int) : Nat × Bool :=
  if m = 0 then (0, true)
  else match f with
    | .mxfp4 =>
      let c := e2m1Round m 1 (e - x)
      (if c.1 = 0 then 0 else c.1 + b2n neg * 8, c.2)
    | _ =>
      let w := fmtWidth f
      let sh : Int := if f = .mxint8 then 6 else 2
      let top : Int := 2 ^ (w - 1) - 1
      let v := toInt .rne neg m (e + sh - x)
      let c := if v.1 < -top then -top else if v.1 > top then top else v.1
      (patternOf w c, v.2 && decide (c = v.1))

/-- The greatest `floor(log2 |x|)` among present non-zero numbers; none when there is none (R112). -/
def blockLog (xs : List FVal) : Option Int :=
  xs.foldl (fun acc v => match v with
    | .num _ m e =>
      if m = 0 then acc
      else
        let l := e + (Nat.log2 m : Int)
        match acc with | some a => some (if l > a then l else a) | none => some l
    | _ => acc) none

/-- A block quantised (R112): the element patterns, the scale code and the flags. -/
def quantBlock (src dst : Fmt) (xs : List Nat) : List Nat × Nat × FlagWord :=
  let vs := xs.map (fclass src)
  let bad := vs.any fun v => match v with | .nan _ => true | .inf _ => true | _ => false
  if bad then (vs.map fun v => if v = .absent then absentOf dst else 0, 255, flagInv)
  else
    let c : Nat := match blockLog vs with
      | none => 0
      | some l => if l + 127 < 0 then 0 else if l + 127 > 254 then 254 else (l + 127).toNat
    let q := vs.map fun v => match v with
      | .num neg m e => quantElem dst ((c : Int) - 127) neg m e
      | _ => (absentOf dst, true)
    (q.map (·.1), c, flagIf (q.any fun p => !p.2) flagInx)

/-! ### Special functions (R103)

The functions other than FRCP, FRSQ and FSQRT are enclosed between two rationals; outside their exact cases their
values are irrational, so a result is always inexact, and it is known once both ends round to one pattern. -/

/-- Bits of fixed-point precision of the enclosures. -/
def sfuBits : Nat := 320

/-- The largest `r` with `r * r ≤ n`, for `n < 4^k`. -/
def isqrt : Nat → Nat → Nat → Nat
  | 0, _, r => r
  | k + 1, n, r => if (r + 2 ^ k) * (r + 2 ^ k) ≤ n then isqrt k n (r + 2 ^ k) else isqrt k n r

/-- The ceiling of a quotient. -/
def cdiv (a b : Nat) : Nat := (a + b - 1) / b

/-- Partial sum of `z + z^3/3 + z^5/5 + …`, from below (`up` false) or above, in fixed point. -/
def atanhSum (up : Bool) (z2 : Nat) : Nat → Nat → Nat → Nat → Nat
  | 0, _, _, acc => acc
  | k + 1, pw, n, acc =>
    let term := if up then cdiv pw n else pw / n
    let nxt := if up then cdiv (pw * z2) (2 ^ sfuBits) else pw * z2 / 2 ^ sfuBits
    atanhSum up z2 k nxt (n + 2) (acc + term)

/-- `atanh z` for `z = num/den`, at most 1/3, between two fixed-point numbers. -/
def atanhIv (num den : Nat) : Nat × Nat :=
  let lo := num * 2 ^ sfuBits / den
  let hi := cdiv (num * 2 ^ sfuBits) den
  (atanhSum false (lo * lo / 2 ^ sfuBits) 110 lo 1 0,
   atanhSum true (cdiv (hi * hi) (2 ^ sfuBits)) 110 hi 1 0 + 1)

/-- Partial sum of `1 + r + r^2/2 + …`, from below or above, in fixed point. -/
def expSum (up : Bool) (r : Nat) : Nat → Nat → Nat → Nat → Nat
  | 0, _, _, acc => acc
  | k + 1, n, t, acc =>
    let nxt := if up then cdiv (t * r) (n * 2 ^ sfuBits) else t * r / (n * 2 ^ sfuBits)
    expSum up r k (n + 1) nxt (acc + t)

/-- `e^r` for `r` in fixed point between `rlo` and `rhi`, below 1. -/
def expIv (rlo rhi : Nat) : Nat × Nat :=
  (expSum false rlo 90 1 (2 ^ sfuBits) 0, expSum true rhi 90 1 (2 ^ sfuBits) 0 + 1)

/-- An enclosure squared `k` times. -/
def squareIv : Nat → Nat × Nat → Nat × Nat
  | 0, p => p
  | k + 1, p => squareIv k (p.1 * p.1 / 2 ^ sfuBits, cdiv (p.2 * p.2) (2 ^ sfuBits))

/-- `e^y` for `y = m * 2^e` from 0 to below 256, in fixed point. -/
def expBig (m : Nat) (e : Int) : Nat × Nat :=
  let k : Int := e + sfuBits - 8
  let lo := scaleUp m k / scaleUp 1 (-k)
  let hi := cdiv (scaleUp m k) (scaleUp 1 (-k))
  squareIv 8 (expIv lo hi)

/-- `log2 (m * 2^e)` between two signed fixed-point numbers. -/
def log2Iv (m : Nat) (e : Int) : Int × Int :=
  let l := Nat.log2 m
  let y := atanhIv (m - 2 ^ l) (m + 2 ^ l)
  let two := atanhIv 1 3
  let base : Int := (e + (l : Int)) * 2 ^ sfuBits
  (base + (y.1 * 2 ^ sfuBits / two.2 : Nat), base + (cdiv (y.2 * 2 ^ sfuBits) two.1 : Nat))

/-- The value between two positive rationals, never exact, rounded to nearest-even; `none` if they differ. -/
def roundIv (f : Fmt) (neg : Bool) (lo hi : Nat × Nat) (e : Int) : Option Res :=
  let a : Rounded := if lo.1 = 0 then ⟨fzero f neg, false, true, true⟩ else
    { roundCore f .rne neg lo.1 lo.2 e false with inexact := true }
  let b := { roundCore f .rne neg hi.1 hi.2 e false with inexact := true }
  if a = b then some (b.pat, b.flags) else none

/-- A rounded enclosure, or the free value where it does not decide (log entry 9). -/
def ivOr (op : Nat) (n : Nat) (x : Option Res) : Res :=
  match x with | some r => r | none => (Config.sfuUndecided op n, flagInx)

/-- 1/x of a finite non-zero number. -/
def recip (f : Fmt) (neg : Bool) (m : Nat) (e : Int) : Res := roundRat f .rne neg 1 m (-e)

/-- √x of a positive number. -/
def sqrtF (f : Fmt) (m : Nat) (e : Int) : Res :=
  let odd := e % 2 ≠ 0
  let m1 := if odd then 2 * m else m
  let e1 := if odd then e - 1 else e
  let n := m1 * 2 ^ 64
  let s := isqrt 64 n 0
  roundRat f .rne false s 1 (e1 / 2 - 32) (decide (s * s ≠ n))

/-- 1/√x of a positive number. -/
def rsqrtF (f : Fmt) (m : Nat) (e : Int) : Res :=
  let odd := e % 2 ≠ 0
  let m1 := if odd then 2 * m else m
  let e1 := if odd then e - 1 else e
  let s := isqrt 80 (2 ^ 128 / m1) 0
  roundRat f .rne false s 1 (-(e1 / 2) - 64) (decide (s * s * m1 ≠ 2 ^ 128))

/-- 2^x of a finite number that is not zero. -/
def exp2F (f : Fmt) (n : Nat) (neg : Bool) (m : Nat) (e : Int) : Res :=
  let l := e + (Nat.log2 m : Int)
  if l ≥ 8 then
    if neg then (0, flagUnf ||| flagInx) else (finf f false, flagOvf ||| flagInx)
  else if e ≥ 0 ∨ (m % 2 ^ (-e).toNat = 0) then
    let k : Int := if e ≥ 0 then scaleUp m e else (m / 2 ^ (-e).toNat : Nat)
    roundRat f .rne false 1 1 (if neg then -k else k)
  else
    let d := 2 ^ (-e).toNat
    let whole : Int := if neg then -((m / d : Nat) : Int) - 1 else (m / d : Nat)
    let part := if neg then d - m % d else m % d
    let two := atanhIv 1 3
    let r := expIv (2 * two.1 * part / d) (cdiv (2 * two.2 * part) d)
    ivOr 4 n (roundIv f false (r.1, 2 ^ sfuBits) (r.2, 2 ^ sfuBits) whole)

/-- tanh x of a finite number that is not zero. -/
def tanhF (f : Fmt) (n : Nat) (neg : Bool) (m : Nat) (e : Int) : Res :=
  let l := e + (Nat.log2 m : Int)
  if l ≥ 6 then ivOr 5 n (roundIv f neg (2 ^ 64 - 1, 2 ^ 64) (1, 1) 0)
  else if l < -100 then ivOr 5 n (roundIv f neg (m * 2 ^ 160 - 1, 2 ^ 160) (m, 1) e)
  else
    let y := expBig m (e + 1)
    let one := 2 ^ sfuBits
    ivOr 5 n (roundIv f neg (y.1 - one, y.1 + one) (y.2 - one, y.2 + one) 0)

/-- 1/(1 + e^−x) of a finite number that is not zero. -/
def sigmF (f : Fmt) (n : Nat) (neg : Bool) (m : Nat) (e : Int) : Res :=
  let l := e + (Nat.log2 m : Int)
  let one := 2 ^ sfuBits
  if l ≥ 8 then
    if neg then ivOr 6 n (roundIv f false (0, 1) (1, 2 ^ 300) 0)
    else ivOr 6 n (roundIv f false (2 ^ 300 - 1, 2 ^ 300) (1, 1) 0)
  else
    let y := expBig m e
    if neg then ivOr 6 n (roundIv f false (one, one + y.2) (one, one + y.1) 0)
    else ivOr 6 n (roundIv f false (y.1, one + y.1) (y.2, one + y.2) 0)

/-- log2 x of a positive number. -/
def log2F (f : Fmt) (n : Nat) (m : Nat) (e : Int) : Res :=
  let l := Nat.log2 m
  if m = 2 ^ l then ofInt f .rne (e + (l : Int))
  else
    let p := log2Iv m e
    let d := 2 ^ sfuBits
    if p.1 ≥ 0 then ivOr 3 n (roundIv f false (p.1.toNat, d) (p.2.toNat, d) 0)
    else ivOr 3 n (roundIv f true (p.2.natAbs, d) (p.1.natAbs, d) 0)

/-- The special function `op` (0 FRCP to 6 FSIGM) of a pattern that is neither absent nor a NaN (R103). -/
def sfuVal (f : Fmt) (op n : Nat) : Res :=
  match fclass f n with
  | .num neg m e =>
    if m = 0 then
      match op with
      | 0 | 1 => (finf f neg, flagDz)
      | 2 | 5 => (n, 0)
      | 3 => (finf f true, flagDz)
      | 4 => (roundRat f .rne false 1 1 0)
      | _ => (roundRat f .rne false 1 2 0)
    else
      match op with
      | 0 => recip f neg m e
      | 1 => if neg then (qnan f, flagInv) else rsqrtF f m e
      | 2 => if neg then (qnan f, flagInv) else sqrtF f m e
      | 3 => if neg then (qnan f, flagInv) else log2F f n m e
      | 4 => exp2F f n neg m e
      | 5 => tanhF f n neg m e
      | _ => sigmF f n neg m e
  | .inf neg =>
    match op with
    | 0 => (fzero f neg, 0)
    | 1 => if neg then (qnan f, flagInv) else (0, 0)
    | 2 | 3 => if neg then (qnan f, flagInv) else (finf f false, 0)
    | 4 => if neg then (0, 0) else (finf f false, 0)
    | 5 => (roundRat f .rne neg 1 1 0)
    | _ => if neg then (0, 0) else (roundRat f .rne false 1 1 0)
  | _ => (n, 0)

/-- A special-function element (R221). -/
def sfuElem (f : Fmt) (m : Mods) (op n : Nat) : Res :=
  if m.abm = .abp ∧ isAbsent f n then (absentOf f, 0)
  else
    let x := abzF f n
    if isNan f x then (nanRes f m.nprop [x], flagIf (isSnan f x) flagInv)
    else satF f m.sat (sfuVal f op x)

/-- The six arithmetic operations of R218 by FN. -/
def fpTerms (fn : Nat) (xs : List FVal) : List Term :=
  match fn, xs with
  | 0, [a, b] => [termOf a, termOf b]
  | 1, [a, b] => [termOf a, termNeg (termOf b)]
  | 2, [a, b] => [termMul a b]
  | 3, [a, b, c] => [termMul a b, termOf c]
  | 4, [a, b, c] => [termMul a b, termNeg (termOf c)]
  | 5, [a, b, c] => [termNeg (termMul a b), termOf c]
  | _, _ => [.invalid]

/-- Default modifiers for the steps that R118 and R260 compute inside. -/
def plainMods (ty : Fmt) (r : Rnd) (sat nprop : Bool) : Mods :=
  { ty := ty, rnd := r, sat := sat, nprop := nprop, abm := .abp, omask := 0, qg := .none, imm := 0 }

/-- The Gumbel step of R118 on a logit (FP32 or BF16) and an FP32 uniform. -/
def gumbElem (ty : Fmt) (sat nprop : Bool) (logit u : Nat) : Res :=
  if isAbsent ty logit || isAbsent .fp32 u then (absentOf ty, 0)
  else
    let m := plainMods .fp32 .rne false nprop
    let lg : Res := if ty = .bf16 then convert .bf16 .fp32 .rne false logit else (logit, 0)
    let t1 := sfuElem .fp32 m 3 u
    let t2 := fArith .fp32 m [t1.1, 0xBF317218] (fpTerms 2)
    let t3 := sfuElem .fp32 m 3 t2.1
    let g := fArith .fp32 m [t3.1, 0x3F317218] (fpTerms 2)
    let r := fArith .fp32 m [lg.1, g.1] (fpTerms 1)
    let fl := lg.2 ||| t1.2 ||| t2.2 ||| t3.2 ||| g.2 ||| r.2
    if ty = .bf16 then
      let c := convert .fp32 .bf16 .rne false r.1
      satF .bf16 sat (c.1, fl ||| c.2)
    else satF .fp32 sat (r.1, fl)

/-- The mixing of R117. -/
def randMix (seed counter i : Nat) : Nat :=
  let w := 2 ^ 64
  let z0 := (seed ^^^ (counter * 0xA24BAED4963EE407 % w)) ^^^ ((i + 1) * 0x9FB21C651E98DF25 % w)
  let z1 := (z0 ^^^ (z0 >>> 31)) * 0xD6E8FEB86659FD93 % w
  let z2 := (z1 ^^^ (z1 >>> 29)) * 0xB5C31A9F4E276D0B % w
  z2 ^^^ (z2 >>> 32)

/-- A random element (R117). -/
def randElem (ty : Fmt) (seed counter i : Nat) : Nat :=
  let z := randMix seed counter i
  match ty with
  | .fp32 => (roundRat .fp32 .rne false (2 * (z >>> 41) + 1) 1 (-24)).1
  | .bf16 => (roundRat .bf16 .rne false (2 * (z >>> 57) + 1) 1 (-8)).1
  | _ => if z >>> 32 = 0x80000000 then 0 else z >>> 32

end Sys2Proof.Machine
end

