-- ==== Sys2Proof/Machine/State.lean ====
section
/-! DEFINITION. The state of the SXK-440 as plain data: every piece of state that the spec names, and the model's own
fields (the schedule, the free-value counter, the injected error), which NOTES.md lists.

Parts of the package that hold nothing are not listed: a table's absent key reads as the default value of its type,
which is the reset value (INVENTORY.md, State). -/

namespace Sys2Proof.Machine

/-- The KIND of a token (R42); `bad` is an unassigned code 4 to 7. -/
inductive Kind where
  | data | eos | barrier | hold
  | bad (n : Fin 4)
  deriving DecidableEq, Repr

/-- A data token: payload and sideband (R42). -/
structure Token where
  payload : Payload := 0
  kind    : Kind := .data
  slot    : BitVec 6 := 0
  coord   : BitVec 32 := 0
  residue : BitVec 8 := 0
  route   : BitVec 12 := 0
  poison  : Bool := false
  deriving DecidableEq, Repr

/-- A channel-buffer entry: the token and the consumers that have still to take it (R48). -/
structure Entry where
  tok  : Token
  pend : BitVec 4 := 1
  deriving DecidableEq, Repr

/-- A compute unit (R21, R45, R187, R188). -/
structure Cu where
  /-- The 48 parcels of the store (R174). -/
  store     : List Parcel := List.replicate 48 0xFFFFFFFF
  cRegs     : Vector (BitVec 32) 8 := Vector.replicate 8 0
  sRegs     : Vector (BitVec 32) 8 := Vector.replicate 8 0
  /-- Frame INDEX 63 (R188). -/
  cfg       : Frame := 0
  /-- The sticky flags (R102). -/
  flags     : FlagWord := 0
  /-- The sequencer's position (R45). -/
  pos       : Nat := 0
  /-- HALT has stopped the sequencer (R209). -/
  halted    : Bool := false
  /-- Emissions of the REPT or REPTC in progress (R240); 0 when none. -/
  reptDone  : Nat := 0
  /-- The coordinate last consumed on each input in the segment (R242). -/
  lastCoord : Vector (Option (BitVec 32)) 6 := Vector.replicate 6 none
  /-- The channel buffers of I0 to I5 (R22, R48). -/
  ins       : Vector (List Entry) 6 := Vector.replicate 6 []
  /-- The control buffers of Q0 to Q3 (R22). -/
  qs        : Vector (List Bool) 4 := Vector.replicate 4 []
  /-- A JTAB of this unit is held by its trap (R250, R419). -/
  jtabHeld  : Bool := false
  /-- The ROTJ or ROTP of this unit waits for a loop (R80, R266). -/
  rotj      : Option (Fin 8) := none
  deriving DecidableEq, Repr

/-- An accumulator entry (R114 to R116, R402). -/
structure AccEntry where
  value  : BitVec 32 := 0
  count  : Nat := 0
  r255   : Nat := 0
  r256   : Nat := 0
  r257   : Nat := 0
  /-- K-steps consumed since the last fold (R116). -/
  ksteps : Nat := 0
  poison : Bool := false
  deriving DecidableEq, Repr

/-- The state of an operand slot (R134). -/
inductive SlotSt where
  | free | claimed | filling | filled | inUse
  deriving DecidableEq, Repr

/-- An operand slot (R133, R134). -/
structure Slot where
  st      : SlotSt := .free
  gen     : BitVec 4 := 0
  /-- Sectors of the fill written (R134, R138). -/
  written : Nat := 0
  deriving DecidableEq, Repr

/-- An entry of the matrix-node queue: a matrix token or a stream mark (R252, R255). -/
inductive MxEntry where
  | tok (w : Word64) (poison : Bool)
  | mark (t : Token)
  deriving DecidableEq, Repr

/-- The matrix node (R21, R252 to R256). -/
structure Mx where
  queue   : List MxEntry := []
  /-- The accumulator file, 1024 entries. -/
  acc     : Tbl AccEntry := []
  slots   : Vector Slot 16 := Vector.replicate 16 {}
  /-- Entries that have fired and not completed, oldest first (R252). -/
  running : List Word64 := []
  /-- Drain tokens and marks that wait to leave (R22, R254). -/
  out     : List Token := []
  deriving DecidableEq, Repr

/-- Where an element lies (R120, R123 to R126). -/
inductive Spot where
  /-- Out of extent, or an absent index: reads absent, is not written (R121, R259). -/
  | nowhere
  /-- The scratchpad of a tile, by bit address. -/
  | spad (pt bits : Nat)
  /-- A virtual bit address of a translated space, before the walk. -/
  | virt (bits : Nat)
  /-- A physical bit address, with the page's FMT, scale plane and TRACK bit. -/
  | phys (bits : Nat) (fmt : Fmt) (scale : Nat) (track : Bool)
  /-- An operand slot's byte, by bit address (R124). -/
  | slot (pt slot bits : Nat)
  deriving DecidableEq, Repr

/-- One element access of a request (R259). -/
structure Elem where
  spot   : Spot
  /-- The virtual bit address, in a translated space. -/
  va     : Option Nat := none
  /-- The element is read at a clamped place and not written (R121). -/
  drop   : Bool := false
  done   : Bool := false
  /-- The reply element in the token's TYPE. -/
  value  : Nat := 0
  poison : Bool := false
  deriving DecidableEq, Repr

/-- How far a request of a memory unit has come (R131, R132, R261). -/
inductive ReqSt where
  /-- Translation is to be tried. -/
  | fresh
  /-- Parked on a page walk or a pending translation fault of the page at this address. -/
  | parked (va : Nat)
  /-- Every element may be performed. -/
  | ready
  /-- A quorum operation runs for it. -/
  | quorum (op : Nat)
  /-- Performed; its reply and completion wait for their turn. -/
  | done
  /-- Found faulty after it was accepted: it is never performed (R414, R437). -/
  | failed
  deriving DecidableEq, Repr

/-- A TLB entry, of a page of any size (R131): the root of its address space, the page's virtual address and size in
bits, and the leaf. -/
structure TlbEnt where
  root : Nat
  va   : Nat
  size : Nat
  w0   : Word64
  w1   : Word64
  deriving DecidableEq, Repr

/-- A request between acceptance and reply (R132, R258). -/
structure MuReq where
  fn     : Nat
  ty     : Fmt
  rnd    : Rnd
  imm    : Nat
  cmpl   : Bool
  /-- The layout entry as read at acceptance (R122). -/
  lt     : List Word64
  /-- Elements it names (R259). -/
  count  : Nat
  coords : List Nat
  /-- The operand tokens, in order (R258). -/
  data   : List Token
  elems  : List Elem
  st     : ReqSt
  /-- An ordering request or fence: it waits for the partner's requests accepted before this number (R261). -/
  covers : Nat := 0
  /-- The acceptance number. -/
  num    : Nat
  /-- Kept in the holding buffer of REPL = HOLD until a mark comes (R424). -/
  hold   : Bool := false
  /-- Steps of the context that had ended when it was accepted (R314). -/
  step   : Nat := 0
  /-- A store that a rollback performs again: its completion stands recorded (R422). -/
  again  : Bool := false
  /-- QSET of the page, for a quorum request (R143, R144). -/
  qset   : Nat := 0
  /-- The tag written and the copies overwritten, for a quorum store's completion (R146). -/
  qtag   : Word64 := 0
  qover  : Nat := 0
  /-- The CYCLE in which it last missed (R429), and whether it is parked until the next TLBI (R430). -/
  missed : Option Nat := none
  onTlbi : Bool := false
  /-- An ordering request: the CYCLE in which its trigger arrived (R310). -/
  came   : Option Nat := none
  /-- The TLB entries that it has used (R307). -/
  used   : List TlbEnt := []
  /-- A PEER request: the destinations that could be reached when it was accepted, each with its PORTS (R379). -/
  routes : List (Nat × Nat) := []
  /-- A BARA: the tokens and the tuple that it was made of, which stay its unit's when it is refused (R414). -/
  toks   : List Token := []
  tuple  : Option Token := none
  deriving DecidableEq, Repr

/-- What a memory unit holds for its turn of delivery (R258). -/
inductive MuItem where
  | req (r : MuReq)
  | mark (t : Token)
  /-- A recorded token that enters the region again at the output with this code (R422). -/
  | again (code : Nat) (t : Token)
  deriving DecidableEq, Repr

/-- A memory unit (R193, R257 to R263). -/
structure Mu where
  cfg       : Frame := 0
  /-- The request buffer, 4 tokens (R22). -/
  buf       : List Token := []
  /-- For each token at the request input, the CYCLE of its arrival and the partner's next acceptance number then (R261,
  R310). -/
  seen      : List (Nat × Nat) := []
  /-- Tuples passed straight from an address generator (R193). -/
  tuples    : List Token := []
  /-- Requests and marks in request order, 16 requests at most (R132). -/
  items     : List MuItem := []
  /-- Requests completed since CFG (R261). -/
  completed : Nat := 0
  /-- The next acceptance number. -/
  next      : Nat := 0
  /-- A race was found at this request: it and every later one are never performed (R437). -/
  stopAt    : Option Nat := none
  /-- Marks to come again that are recorded, and the acceptance number below which requests come again that had left the unit
  (R422). -/
  skip      : Nat := 0
  heldTo    : Nat := 0
  /-- Requests held at a rollback, as they stood: what had been performed of one is not performed again (R423). -/
  kept      : List MuReq := []
  deriving DecidableEq, Repr

/-- An address generator (R194, R195). -/
structure Ag where
  frames : Vector Frame 5 := Vector.replicate 5 0
  start  : List Token := []
  /-- The level counters of the start token at the head, when tuples of it have been emitted. -/
  levels : List Nat := []
  deriving DecidableEq, Repr

/-- A switch box: 64 data entries, 24 control entries, 8 pattern words (R190 to R192). -/
structure Sw where
  data     : Tbl Parcel := []
  ctl      : Tbl Parcel := []
  patterns : Tbl Parcel := []
  deriving DecidableEq, Repr

/-- A tile (R21). -/
structure Tile where
  cu0 : Cu := {}
  cu1 : Cu := {}
  mx  : Mx := {}
  mu0 : Mu := {}
  mu1 : Mu := {}
  ag0 : Ag := {}
  ag1 : Ag := {}
  sw  : Sw := {}
  deriving DecidableEq, Repr

/-- The states of a context (R65). -/
inductive CtxSt where
  | free | loading | ready | running | waiting | draining | suspended | migrating | faulted | retired
  deriving DecidableEq, Repr

/-- A request in the queue of a rotating loop (R78, R79). -/
inductive RotReq where
  | join (tok : Token) (pt : Nat) (u : Bool)
  | leave (p : Nat) (close : Bool)
  | hold (p : Nat)
  | release (p : Nat)
  /-- ROTP of a unit reads the loop; it takes no place in the queue (R266). -/
  | probe (pt : Nat) (u : Bool)
  deriving DecidableEq, Repr

/-- A request on its way to the queue of a loop: the count of the loop's clock at which it reaches it, and the unit that
fired it (R79). -/
structure RotIn where
  due : Nat
  pt  : Nat
  u   : Bool
  req : RotReq
  deriving DecidableEq, Repr

/-- A save or load of a loop in progress (R87, R91). -/
inductive RotBusy where
  | none
  /-- Phases are being taken out: those below `p` have been; `phase0` is the CYCLE value of the save; `ctx` issued it; the
  record's place is a layout entry and a coordinate. -/
  | saving (ctx lt c0 p phase0 : Nat)
  /-- A loaded record: an arrival of phase 0 has passed since it was read, and the state tokens by new phase. -/
  | loading (armed : Bool) (states : Tbl Token)
  deriving DecidableEq, Repr

/-- A rotating loop's state (R75, R76, R91, R92). -/
structure LoopSt where
  valid   : Word64 := 0
  hold    : Word64 := 0
  fault   : Word64 := 0
  closed  : Bool := false
  /-- The count at which the request that set CLOSED reached the queue: ROTP of that count does not yet see it (R266). -/
  closedAt : Option Nat := none
  queue   : List RotReq := []
  /-- Requests that have been fired and have not reached the queue (R79). -/
  inbound : List RotIn := []
  /-- The count c of R74. -/
  count   : Nat := 0
  /-- The position of each phase: its state token, with the KIND it carries (R92). -/
  states  : Tbl Token := []
  /-- The slot-indexed entries by phase (R76). -/
  entries : Tbl Token := []
  staging : List Token := []
  load    : List Token := []
  /-- The loop has been started by RUN and rotates (R73). -/
  running : Bool := false
  /-- Stopped by R85 until the next RUN. -/
  stopped : Bool := false
  /-- Parked by ROTSV (R87). -/
  parked  : Bool := false
  busy    : RotBusy := .none
  /-- ROTSV waits for its arrival of phase 0 (R87): the issuer, and the layout entry and coordinate of the record. -/
  save    : Option (Nat × Nat × Nat) := none
  deriving DecidableEq, Repr

/-- A signal field: semaphore, increment and scope (R180, R268). -/
structure Signal where
  sem   : Nat
  inc   : Nat
  scope : Scope
  /-- The command's first two parcels, for the trap of an overflow (R416, R418). -/
  info  : Word64 := 0
  deriving DecidableEq, Repr

/-- A page walk in flight (R131): the 64 KiB page it is for, who waits for it, and whether it was asked for by a
user-mode write. -/
structure Walk where
  die     : Nat
  cluster : Nat
  root    : Nat
  va      : Nat
  ctx     : Nat
  write   : Bool
  agent   : Nat
  /-- TINFO's TILE, UNIT and POS of the first access (R428). -/
  tile    : Nat
  unit    : Nat
  pos     : Nat
  deriving DecidableEq, Repr

/-- What a command that holds its sequencer waits for (R268 step 5, R270). -/
inductive Hold where
  | none
  /-- DRAIN (R58): `since` is the CYCLE of its issue. -/
  | drain (since : Nat)
  /-- END or HALT of a region controller (R273). -/
  | ending (halt : Bool) (since : Nat)
  /-- CFG or MAPSEL: the last frame is to be loaded (R270). -/
  | load
  /-- MAPSEL: the steps of R338. -/
  | mapsel (stage : Nat)
  /-- SPLIT at the next boundary (R279). -/
  | split (xd : XReg) (point : Nat)
  /-- BARI: the mark is to be injected, and with WAIT to reach every sink; then it goes to this register (R269, R286). -/
  | bari (mark : Nat) (wait : Bool) (xd : XReg)
  | rotsv (loop : Nat)
  | susp (target : Nat)
  /-- RESM waits for the target's tiles; 0 goes to this register when it is READY (R306). -/
  | resm (target : Nat) (xd : XReg)
  /-- TLBI waits for the walks in flight at its issue that could refill an entry, for the requests that used one, by
  tile, unit and number, and for quorum operations of engines (R307). -/
  | tlbi (walks : List Walk) (reqs : List (Nat × Bool × Nat)) (ops : List Nat)
  /-- QSEND: its entry is on its way to the queue (R299). -/
  | qsend
  /-- BARGA has arrived and its migration is under way (R349). -/
  | migrating
  /-- SYSC: XB of RETT goes to this register (R304). -/
  | sysc (xd : XReg)
  deriving DecidableEq, Repr

/-- What a WAITING context waits for at step 2 or step 3 of R268. -/
inductive WaitCond where
  | none
  /-- A semaphore of the context's cluster holds at least `thr`, which is then subtracted if `sub` (R268, R283). -/
  | sem (k thr : Nat) (sub : Bool) (scope : Scope)
  /-- A context's timeline (R283). -/
  | timeline (ctx n : Nat) (scope : Scope)
  /-- A group barrier's PHASE differs from `phase` (R285). -/
  | phase (launch group : Nat) (phase : Bool) (scope : Scope)
  /-- The context is expected in the current phase (R62). -/
  | expected (launch group : Nat)
  /-- A held arrival has been applied: the word just before it (R62). -/
  | replied (w : Word64)
  /-- Every program of a fork has ended (R281). -/
  | joined (number : Nat) (scope : Scope)
  /-- An engine operation has completed (R295). -/
  | oper (eng num : Nat) (scope : Scope)
  /-- A die queue holds an entry (R299). -/
  | entry (die q : Nat) (scope : Scope)
  /-- The reply to a steal request (R278). -/
  | reply
  /-- A start (R273). -/
  | start
  /-- The previous step has ended; with `quiet`, the region is quiescent too (R41). -/
  | idle (quiet : Bool)
  /-- The previous step of another region, whose stage a MAPSEL maps, has ended, and that region is quiescent (R41, R303). -/
  | idleAt (region : Nat)
  deriving DecidableEq, Repr

/-- A fork of a context: its number and its programs, each ended or not, and by HALT or not (R280, R281). -/
structure ForkRec where
  number : Nat
  /-- (context id, ended, halted), in the order of the fork table. -/
  progs  : List (Nat × Bool × Bool)
  joined : Bool := false
  deriving DecidableEq, Repr

/-- An operation of a copy-engine context (R288 to R295, R433). -/
structure EngOp where
  num     : Nat
  /-- FN of the copy group: 0 COPY, 1 COPYG, 2 COPYF, 4 COPYQ; 16 + FN of the collective group. -/
  fn      : Nat
  ver     : Bool := false
  /-- The six descriptor registers as captured (R289). -/
  desc    : List Word64
  issuer  : Nat
  /-- The context that began the issuer's chain of forks, at the issue (R457). -/
  chain   : Nat := 0
  /-- Source, destination and index layout entries as read at acceptance (R122). -/
  src     : List Word64
  dst     : List Word64
  idx     : List Word64
  signal  : Signal
  /-- Sectors of the destination, in ascending order, that have been written; for COPYQ, cells moved. -/
  written : Nat := 0
  /-- Every sector has been written. -/
  whole   : Bool := false
  promise : Nat
  /-- CYCLE at which it began to wait for a bank in cooldown, which moves its promise later (R439). -/
  since   : Option Nat := none
  done    : Bool := false
  /-- Failed by R415. -/
  failed  : Bool := false
  /-- Stopped on a translation fault of the page at this address (R433); the CYCLE of the miss, and whether it waits for the
  next TLBI (R429, R430). -/
  parked  : Option Nat := none
  missed  : Option Nat := none
  onTlbi  : Bool := false
  /-- The destinations that could be reached when it was accepted, each with its PORTS, where a side is PEER (R379). -/
  routes  : List (Nat × Nat) := []
  /-- The quorum operation of the cell in work (COPYQ). -/
  qop     : Option Nat := none
  /-- Region contexts whose ENG it raises (R288). -/
  raised  : List Nat := []
  deriving DecidableEq, Repr

/-- The replay mark's record of a unit (R421). -/
structure UnitSnap where
  sRegs    : Vector (BitVec 32) 8
  pos      : Nat
  flags    : FlagWord
  reptDone : Nat
  deriving DecidableEq, Repr

/-- What R421 records for a mark of a region: snapshots by unit key (2 * tile + unit), accumulators by tile, and the
stream buffers by region input, oldest token first; an input that the mark has not passed has no buffer. -/
structure Replay where
  units    : Tbl UnitSnap := []
  acc      : Tbl (Tbl AccEntry) := []
  streams  : Tbl (List Token) := []
  overflow : Bool := false
  /-- Something that a rollback cannot undo has been done since the mark (R422). -/
  broken   : Bool := false
  deriving DecidableEq, Repr

/-- The effect of a release that its covered accesses hold back (R314). -/
inductive RelEff where
  | inc (sem inc : Nat) (info : Word64)
  | advance (n : Nat)
  deriving DecidableEq, Repr

/-- A release that waits for its covered accesses: those of the steps before `step`. -/
structure Release where
  step  : Nat
  scope : Scope
  eff   : RelEff
  deriving DecidableEq, Repr

/-- A trap in a die's queue (R417). -/
structure TrapEnt where
  cause : Nat
  ctx   : Nat
  info  : Word64
  /-- What XFVA reads while it is served (R431). -/
  xfva  : Word64 := 0
  /-- The compute unit that a JTAB trap holds: the tile's place in its region, by row, and the unit (R419). -/
  unit  : Option (Nat × Bool) := none
  /-- The CYCLE in which it was raised (R417). -/
  cyc   : Nat := 0
  deriving DecidableEq, Repr

/-- The class of an error record: UC, DEF or CE (R405). -/
inductive ErrClass where
  | uc | defd | ce
  deriving DecidableEq, Repr

/-- Where an error record is kept (R404). -/
inductive ErrLoc where
  | cluster (k : Nat)
  | stack (k : Nat)
  | global
  | d2d (p : Nat)
  | brumar (q : Nat)
  | cxl (c : Nat)
  | host
  deriving DecidableEq, Repr

/-- An error found in a CYCLE, whose record is placed at the end of that CYCLE (R405, R406). -/
structure ErrFound where
  die  : Nat
  loc  : ErrLoc
  cls  : ErrClass
  src  : Nat
  type : Nat
  addr : Nat
  syn  : Nat
  ctx  : Nat
  deriving DecidableEq, Repr

/-- A context (R37, R34, R35).  A region context, an engine context, a collective context or a supervisor. -/
structure Ctx where
  st        : CtxSt := .free
  /-- The launch's number in `State.launches`, and the record within it. -/
  launch    : Option Nat := none
  record    : Nat := 0
  prio      : Nat := 0
  width     : Nat := 0
  height    : Nat := 0
  /-- The physical place of a region (R332). -/
  place     : Place := ⟨0, 0, 0⟩
  xregs     : Vector Word64 16 := Vector.replicate 16 0
  /-- Parcel offset of the next command from the start of its block (R276). -/
  pc        : Nat := 0
  /-- The controller code as parcels, from its block's start (R37). -/
  code      : List Parcel := []
  /-- The wait field of the command at `pc` has been satisfied (R268 step 2). -/
  waitDone  : Bool := false
  /-- The command's own condition has been satisfied (R268 step 3), with the value it found. -/
  ownDone   : Bool := false
  ownVal    : Nat := 0
  waitFor   : WaitCond := .none
  hold      : Hold := .none
  /-- Length and signal of the command that holds the sequencer. -/
  holdLen   : Nat := 2
  holdSig   : Signal := ⟨0, 0, .cluster, 0⟩
  /-- A steal request has been sent, and its reply: start and limit (R68). -/
  stealSent : Bool := false
  stealGot  : Option (Nat × Nat) := none
  timeline  : Nat := 0
  next      : Nat := 0
  limit     : Nat := 0
  /-- A step runs (R69): RUN has started it and it has not ended. -/
  stepOn    : Bool := false
  /-- Indices and EOS still to be sent for the step. -/
  eosSent   : Bool := false
  /-- RUN's signal, sent at the step end (R270). -/
  runSignal : Option Signal := none
  /-- The sinks that have received their EOS in this step, by buffer key (R39). -/
  sinksDone : List Nat := []
  /-- The sinks of the configuration, by buffer key (R40). -/
  sinks     : List Nat := []
  /-- EOS of steps that have ended, still to come again after a rollback, by sink (R422). -/
  stale     : Tbl Nat := []
  /-- Steps that have ended (R314). -/
  stepNo    : Nat := 0
  /-- Releases held back (R314). -/
  rel       : List Release := []
  layout    : Tbl (List Word64) := []
  lts       : Vector Word64 8 := Vector.replicate 8 0
  flsel     : Word64 := 0
  members   : Vector (Option Nat) 4 := Vector.replicate 4 none
  mark      : Nat := 0
  forkNo    : Nat := 0
  forks     : List ForkRec := []
  /-- Who forked this engine context, and under which number (R280), and the context that began its chain of forks (R457). -/
  forker    : Nat := 0
  underFork : Nat := 0
  chain     : Nat := 0
  homeCl    : Nat := 0
  /-- A number written to HOMECL since then that names no cluster (R6, R272). -/
  homeReg   : Option Nat := none
  /-- Counted starts (R273). -/
  starts    : Nat := 0
  /-- Steal requests in the order in which they are handled, each with the CYCLE of its arrival; the context's own id
  stands for its SPLIT (R69, R279). -/
  steals    : List (Nat × Nat) := []
  /-- Thieves whose requests came while no step ran: the empty range is theirs, once the release that it is may be sent (R69). -/
  owed      : List Nat := []
  /-- Marks to inject at the next boundary (R286), and marks injected, with the sinks each has reached. -/
  barPend   : List Nat := []
  barOut    : List (Nat × List Nat) := []
  halted    : Bool := false
  /-- Energy in µJ and the residue in nJ (R371, R373). -/
  energy    : Nat := 0
  residue   : Nat := 0
  /-- Change bits of TOK, RET, MEM, CTL and ENG, and the last sample all zero (R55, R56). -/
  changed   : Vector Bool 5 := Vector.replicate 5 false
  wasZero   : Bool := false
  /-- The standing report (R56). -/
  quiet     : Bool := false
  loops     : Tbl LoopSt := []
  /-- Marks on their way through the region, by number, and the replay mark (R421). -/
  marks     : Tbl Replay := []
  replay    : Option (Nat × Replay) := none
  /-- A posted migration's target anchor (R348). -/
  migr      : Option Nat := none
  /-- UNFIN of the saved image: a DRAIN, a wait satisfied, a CFG to reissue (R66, R342). -/
  unfin     : Nat := 0
  readyAt   : Nat := 0
  dispatched : Nat := 0
  /-- The configuration image last loaded, as a byte offset of section 3 (R422). -/
  image     : Option Nat := none
  /-- The load in progress: the image's offset, the next record, and whether it is the context's first (R65). -/
  loading   : Option (Nat × Nat × Bool) := none
  /-- The frames of the load so far: (tx, ty, unit, index) as one number, with the frame (R185). -/
  frames    : Tbl Frame := []
  /-- A pre-emption, swap-out or SUSP has been decided at this CYCLE and its save has not left the tiles (R341). -/
  preempt   : Option Nat := none
  /-- Its image has left the tiles, and the numbers of its tiles are places in the region (R341). -/
  off       : Bool := false
  /-- Where its image has been written; none while it stands staged (R341). -/
  savedAt   : Option Nat := none
  /-- Its logical tiles, by row (R332). -/
  logicals  : List Nat := []
  /-- Who may resume it: 0 the scheduler, 1 the supervisor (SUSP, REST), 2 its team's swap-in (R306, R343, R344). -/
  suspBy    : Nat := 0
  /-- The state at the halt (R342). -/
  haltSt    : CtxSt := .free
  haltCyc   : Nat := 0
  /-- A rollback waits for its reload to end (R422). -/
  rollback  : Bool := false
  /-- A reassignment of the stage stops the counter and holds the controller (R338). -/
  reassign  : Bool := false
  /-- A trap holds the sequencer: its cause (R412). -/
  trapped   : Option Nat := none
  /-- The trap followed a command that had completed: a semaphore overflow (R416). -/
  trapAfter : Bool := false
  /-- RETT has told its PROM to wait with no deadline (R419). -/
  noDeadline : Bool := false
  /-- The RETTs that wait for the context's resume, with their traps (R417). -/
  pendRett  : List (TrapEnt × Word64) := []
  /-- Units of the region that have found a fault (R414). -/
  fcode     : Nat := 0
  /-- Operations of an engine context and how many it has accepted (R288). -/
  ops       : List EngOp := []
  accepted  : Nat := 0
  /-- Operations accepted before the engine context was first forked in its launch, from which numbers and timeline count
  (R272). -/
  opBase    : Nat := 0
  deriving DecidableEq, Repr

/-- Who acts in this step. -/
inductive Agent where
  | cu (pt : Nat) (u : Bool)
  | mu (pt : Nat) (u : Bool)
  | mx (pt : Nat)
  | ctl (ctx : Nat)
  | event
  deriving DecidableEq, Repr

/-- What moves next: the schedule's entries (log entry 1). -/
inductive Turn where
  | cu (pt : Nat) (u : Bool)
  | mu (pt : Nat) (u : Bool)
  | mx (pt : Nat)
  | ctl (ctx : Nat)
  /-- A row of the opcode table that no program word encodes. -/
  | op (i : Instr)
  /-- CYCLE counts `n` on (R32). -/
  | tick (n : Nat)
  /-- Replacement: the `k`-th sector held by the L1s, or the `k`-th TLB of the units or clusters, leaves (R131,
  R317). -/
  | evictL1 (k : Nat)
  /-- The LLC slice that holds a sector writes it back, if it is dirty, and drops it (R141). -/
  | evictLlc (sector : Nat)
  | evictTlb (k : Nat)
  deriving DecidableEq, Repr

/-- A token on its way: at the switch input `code` of a tile (R27). -/
structure Flight where
  pt   : Nat
  code : Nat
  tok  : Token
  deriving DecidableEq, Repr

/-- A control token on its way (R28). -/
structure CtlFlight where
  buf : BufId
  val : Bool
  deriving DecidableEq, Repr

/-- Where a supervisor stood when a trap interrupted it (R417). -/
structure SeqPos where
  pc       : Nat
  st       : CtxSt
  waitDone : Bool
  ownDone  : Bool
  ownVal   : Nat
  waitFor  : WaitCond
  hold     : Hold
  holdLen  : Nat
  holdSig  : Signal
  deriving DecidableEq, Repr

/-- A die queue: entries of 256 bytes, oldest first, at most 64 (R299).  The poison marks travel with an entry, byte by
byte. -/
structure DieQueue where
  entries : List (List Byte × List Bool) := []
  /-- Entries on their way, with their senders (R299, R448). -/
  inbound : List (List Byte × List Bool × Nat) := []
  deriving DecidableEq, Repr

/-- The event crossbar of a cluster (R64, R282). -/
structure Crossbar where
  inputs   : Tbl Word64 := []
  counters : Tbl Word64 := []
  terms    : Tbl (Word64 × BitVec 8) := []
  outputs  : Tbl Word64 := []
  counts   : Tbl Nat := []
  reached  : List Nat := []
  /-- Pulse inputs that have pulsed and not been evaluated. -/
  pulses   : List Nat := []
  /-- The OR of each output at its last evaluation (R64). -/
  level    : List Nat := []
  /-- Start outputs that rose and have not been delivered. -/
  rising   : List Nat := []
  /-- Elements written in the present CYCLE, which act from the next: number, word and IMM8 (R282). -/
  writes   : List (Nat × Word64 × BitVec 8) := []
  deriving DecidableEq, Repr

/-- A pending translation fault (R429): the accesses of the cluster to its page park on it. -/
structure XlFault where
  walk    : Walk
  /-- RETT with XB = 0: walk again when the next TLBI of the die completes (R430). -/
  onTlbi  : Bool := false
  deriving DecidableEq, Repr

/-- A recorded access: its agent, the agent's count, whether it is an ATOM, and the bytes of the granule that it touches,
bit by byte (R318, R436). -/
structure RaceAcc where
  agent : Nat
  count : Nat
  atom  : Bool
  bytes : Nat
  deriving DecidableEq, Repr

/-- A sector record of the race detector (R436). -/
structure RaceRec where
  track : Bool
  addr  : Nat
  write : Option RaceAcc
  reads : List RaceAcc
  deriving DecidableEq, Repr

/-- The race detector of a cluster (R435, R436): tracked agents, their frontiers, the release objects' vectors and the
sector records. -/
structure RaceDet where
  agents  : List Nat := []
  front   : Tbl (Tbl Nat) := []
  /-- Release objects: (kind, number) with their vectors. -/
  objects : List ((Nat × Nat) × Tbl Nat) := []
  records : List RaceRec := []
  deriving DecidableEq, Repr

/-- A cluster (R18). -/
structure Cluster where
  sems  : Tbl Nat := []
  xbar  : Crossbar := {}
  /-- The operations that have reached each semaphore in the CYCLE `semAt`: the place of the last in the order of R271. -/
  semAt  : Nat := 0
  semOps : Tbl Nat := []
  /-- Increments that reach their semaphores in the next CYCLE: semaphore, increment, context and trap information. -/
  late   : List (Nat × Nat × Nat × Word64) := []
  /-- The context that the scheduler dispatched last in each class (R67). -/
  ran    : Tbl Nat := []
  /-- L1s fused (R140). -/
  fused : Bool := false
  race  : RaceDet := {}
  /-- The first race found in a CYCLE in which RACEINFO held another: the CYCLE, and what RACEINFO and RACEADDR take if a
  write of that CYCLE clears VALID (R7, R437). -/
  raceNext : Option (Nat × Word64 × Word64) := none
  deriving DecidableEq, Repr

/-- A fabric die (R13 to R17). -/
structure Die where
  /-- Traps in the queue, at most 256, and those that hold their contexts outside it (R417). -/
  traps    : List TrapEnt := []
  waiting  : List TrapEnt := []
  /-- The trap the supervisor handles (R417). -/
  serving  : Option TrapEnt := none
  /-- Traps that have been delivered and still hold their contexts, whose handlers ended with another RETT. -/
  held     : List TrapEnt := []
  queues   : Tbl DieQueue := []
  /-- Where the supervisor stood before the trap it serves (R417). -/
  resume   : Option SeqPos := none
  /-- The die has started and serves (R455). -/
  up       : Bool := false
  /-- It places launches (R455). -/
  places   : Bool := false
  /-- No tile of it is placed: its self-test image was refused (R455). -/
  noTiles  : Bool := false
  /-- Stacks out of service (R455). -/
  stackOff : List Nat := []
  /-- A CYCLE, and how many guard steps the die granted in it (R368). -/
  grants   : Nat × Nat := (0, 0)
  deriving DecidableEq, Repr

/-- An L1 copy of a 48-byte sector (R140, R317): the L1 by physical tile, the sector's number, its bytes and mark. -/
structure L1Sector where
  pt     : Nat
  sector : Nat
  bytes  : List Byte
  poison : Bool
  deriving DecidableEq, Repr

/-- The phase of a quorum operation (R146 to R148). -/
inductive QPhase where
  /-- Waiting for replies to tag or data reads. -/
  | reading
  /-- Waiting for acknowledgements of writes. -/
  | writing
  deriving DecidableEq, Repr

/-- A quorum operation in flight. -/
structure QOp where
  id      : Nat
  /-- 7 QLD, 8 QST, 9 QSTV. -/
  fn      : Nat
  qset    : Word64
  /-- The cell's offset within a stack (R144). -/
  off     : Nat
  ctx     : Nat
  die     : Nat
  /-- The memory unit's request it runs for: tile, unit, acceptance number; none for COPYQ. -/
  who     : Option (Nat × Bool × Nat) := none
  payload : List Byte
  flags   : Nat
  version : Nat
  phase   : QPhase
  /-- Replies in their order: copy, tag, payload (R148). -/
  replies : List (Nat × Word64 × List Byte) := []
  /-- Acknowledgements on their way, and those received: copy and whether it overwrote. -/
  sent    : List (Nat × Bool) := []
  acks    : List (Nat × Bool) := []
  /-- Copies that have failed (R440), and of these the ones that held poison before the choice. -/
  lost    : List Nat := []
  spoiled : List Nat := []
  /-- The tag the operation chose, with its payload, and the copies whose write must be acknowledged. -/
  tag     : Word64 := 0
  best    : List Byte := []
  chosen  : Bool := false
  owing   : List Nat := []
  /-- The TLB entry that named the cell (R307). -/
  used    : List TlbEnt := []
  /-- Copies of the majority that overwrote (R146). -/
  overN   : Nat := 0
  finished : Bool := false
  /-- It has failed (R440, R146): FCODE. -/
  failed  : Nat := 0
  deriving DecidableEq, Repr

/-- A write on its way to a copy (R145): its operation, or none for a repair, and the die that sent it. -/
structure QWrite where
  op    : Option Nat
  die   : Nat := 0
  copy  : Nat
  stack : Nat
  off   : Nat
  tag   : Word64
  bytes : List Byte
  deriving DecidableEq, Repr


/-- One member's part in a collective (R296, R297): its operation `num` of the collective context `cctx`. -/
structure CollEntry where
  ctx    : Nat
  cctx   : Nat
  num    : Nat
  done   : Bool := false
  deriving DecidableEq, Repr

/-- A collective of a group (R297).  A step is a transfer from one member to another, by rank over all packages (R380, R447);
what it carried is held until the receiver completes. -/
structure Coll where
  launch  : Nat
  group   : Nat
  /-- ALLRED 0 to MAXIDX 5. -/
  op      : Nat
  opr     : Nat
  count   : Nat
  root    : Nat
  members : List Nat
  entries : List CollEntry := []
  acked   : List ((Nat × Nat) × List (Nat × Bool)) := []
  retries : List ((Nat × Nat) × Nat) := []
  /-- Steps whose present try has been sent and not acknowledged: the CYCLE of the try, and the sources read for it (R447). -/
  sent    : List ((Nat × Nat) × Nat × List (Nat × Bool)) := []
  /-- The members on other packages, each by its package's destination number, with ranks below and above those here, as the
  first acceptance fixed them (R380). -/
  far     : List Nat × List Nat := ([], [])
  failed  : Bool := false
  deriving DecidableEq, Repr

/-- A group of a launch (R59 to R62, R287, R344, R345). -/
structure Group where
  use     : Nat := 0
  members : List Nat := []
  /-- The group barrier word (R264). -/
  word    : Word64 := 0
  /-- The CYCLE in which a member joined while EXPECTED was 0: every member of that CYCLE is expected (R62). -/
  opened  : Option Nat := none
  /-- Members expected in the current phase, and those of them that have arrived. -/
  expect  : List Nat := []
  arrived : List Nat := []
  /-- Semaphores owned as a team, on this cluster (R344). -/
  sems    : List Nat := []
  cluster : Nat := 0
  /-- The team's members while it is being swapped out: a change of membership takes effect after the swap (R62). -/
  swap    : Option (List Nat) := none
  /-- The team is swapped out: its saved semaphore image (R345). -/
  out     : Bool := false
  image   : Tbl Nat := []
  deriving DecidableEq, Repr

/-- A rung of a stage (R334). -/
structure Rung where
  cfgoff : Nat
  w      : Nat
  h      : Nat
  unroll : Nat
  deriving DecidableEq, Repr

/-- A pipeline stage (R334, R337, R338). -/
structure Stage where
  pipeline : Nat
  cur      : Nat
  region   : Nat
  fullsem  : Nat
  emptysem : Nat
  cap      : Nat
  rungs    : List Rung
  /-- Consecutive samples at or above the high mark, and at or below the low mark. -/
  high     : Nat := 0
  low      : Nat := 0
  wide     : Bool := false
  narrow   : Bool := false
  /-- The rung that a reassignment in progress loads; its mark has been injected.  `soft`: a MAPSEL asked for it. -/
  target   : Option Nat := none
  soft     : Bool := false
  mark     : Nat := 0
  /-- CYCLE of the last reassignment. -/
  last     : Option Nat := none
  deriving DecidableEq, Repr

/-- A launch that has been placed (R331, R376). -/
structure Launch where
  fn      : Nat := 0
  feature : Word64 := 0
  /-- Sections 3 and 4 of the image as read at placement. -/
  cfg     : List Byte := []
  code    : List Byte := []
  /-- The context of each region record. -/
  regions : List Nat := []
  groups  : Tbl Group := []
  stages  : List Stage := []
  /-- Contexts that have not been reclaimed. -/
  live    : List Nat := []
  /-- Engine contexts that have been forked in the launch (R272). -/
  forked  : List Nat := []
  deriving DecidableEq, Repr

/-- How an access of the host to a BAR completes (R373, R374). -/
inductive Completion where
  /-- Unsupported Request. -/
  | unsupported
  /-- Completer Abort. -/
  | abort
  /-- A write has been performed, or a read returns these bytes. -/
  | done (data : List Byte)
  deriving DecidableEq, Repr

/-- The launch port page of a function: LSTAT, the offset of a PENDING launch and the MSI-X table (R375). -/
structure Port where
  count   : Nat := 0
  drop    : Bool := false
  refused : Bool := false
  /-- 0 IDLE, 1 PENDING, 2 PLACED. -/
  st      : Nat := 0
  off     : Word64 := 0
  inReset : Bool := false
  /-- CYCLE at which the launch controller last found no room for the pending launch (R331, R376). -/
  tried   : Option Nat := none
  /-- The bytes of the MSI-X table at 0x1000 that are not 0 (R375). -/
  table   : Tbl Byte := []
  deriving DecidableEq, Repr

/-- A saved image: the context, its tiles by relative place, the bytes of its scratchpads and operand slots, and the
tokens and credits of its buffers, by relative tile (R342). -/
structure Saved where
  id       : Nat
  ctx      : Ctx
  tiles    : List Tile
  spad     : List (List Host.Cell)
  opnd     : List (List Host.Cell)
  spadPois : List (List Nat)
  opndPois : List (List Nat)
  flights  : List Flight
  arriving : List (BufId × Token)
  ctlArr   : List CtlFlight
  elastic  : List (BufId × List Token)
  elasticC : List (BufId × List Bool)
  used     : List (BufId × Nat)
  returns  : List (BufId × Nat)
  feature  : Word64
  deriving DecidableEq, Repr

/-- A voltage-frequency region (R363 to R368, R453). -/
structure Vf where
  fcode   : Nat := 16
  /-- The present voltage, from CURVE[0] until the first step. -/
  vcode   : Option Nat := none
  /-- 0 STEADY, 1 UP, 2 DOWN. -/
  st      : Nat := 0
  guard   : Bool := false
  pend    : Option Nat := none
  /-- A voltage step is in progress, up or down. -/
  step    : Option Bool := none
  /-- The thermal ceiling (R369, R453), and those of an overcurrent and the budget (R453). -/
  thermal : Option Nat := none
  current : Bool := false
  budget  : Option Nat := none
  /-- A burst waits for the guard: the CYCLE of its request (R368). -/
  want    : Option Nat := none
  /-- The region's cycles up to `since`, in fortieths, the CYCLE in which its FCODE last changed (R363). -/
  acc     : Nat := 0
  since   : Nat := 0
  /-- The region's cycle of its last burst (R368). -/
  lastBurst : Nat := 0
  /-- The clock is stretched (R453). -/
  stretch : Bool := false
  /-- The CYCLE of the monitor's last request, and STATE, FCODE, PEND and the step before it (R365). -/
  before  : Option (Nat × Nat × Nat × Option Nat × Option Bool) := none
  /-- The region's cycle at the end of the monitor's last window; of the cycles since, in fortieths, those with 12 tokens or
more in an elastic buffer that it receives, and those with a full one that it feeds (R367). -/
  window  : Nat := 0
  full    : Nat := 0
  blocked : Nat := 0
  deriving DecidableEq, Repr

/-- Armed thresholds of a tile's sensor (R369). -/
structure Sensor where
  mig  : Bool := true
  thr  : Bool := true
  trip : Bool := true
  deriving DecidableEq, Repr

/-- A targeted self-test that waits or runs (R409): the instance of the record, if it was kept, and the block. -/
structure SelfTest where
  die     : Nat
  bank    : Option Nat
  /-- The ERCTL instance of the record's location. -/
  loc     : Nat
  src     : Nat
  addr    : Nat
  started : Bool := false
  deriving DecidableEq, Repr

/-- A bank in cooldown, or with requests that waited for its end (R439): the CYCLE at which the cooldown began, whether it
has ended, and the requests in the order in which they came: the unit or engine, the request and its element. -/
structure Cool where
  stack : Nat
  bank  : Nat
  since : Nat
  ended : Bool := false
  queue : List (Nat × Nat × Nat) := []
  deriving DecidableEq, Repr

/-- The state of the package. -/
structure State where
  /-- CYCLE (R32). -/
  cycle     : Nat := 0
  tiles     : Tbl Tile := []
  ctxs      : Tbl Ctx := []
  mem       : List Host.Cell := []
  spad      : List Host.Cell := []
  opnd      : List Host.Cell := []
  /-- Granules that hold the poison mark (R402): by sector, scratchpad line and slot sector. -/
  memPoison  : List Nat := []
  spadPoison : List Nat := []
  opndPoison : List Nat := []
  flights   : List Flight := []
  /-- Tokens at the input of a buffer, in order. -/
  arriving  : List (BufId × Token) := []
  ctlArriving : List CtlFlight := []
  elastic   : List (BufId × List Token) := []
  elasticCtl : List (BufId × List Bool) := []
  /-- Credits spent, by buffer (R50). -/
  used      : List (BufId × Nat) := []
  /-- Buffer-slot returns in flight, by buffer (R50). -/
  returns   : List (BufId × Nat) := []
  clusters  : Tbl Cluster := []
  dies      : Tbl Die := []
  /-- The privileged registers, by key (`regKey`); an absent key reads as the register's reset value. -/
  regs      : Tbl Word64 := []
  /-- The W1C bits that hardware has set in the present CYCLE, by place (R7). -/
  hwSet     : Tbl Nat := []
  /-- The errors found in the present CYCLE, in the order in which they were found (R406). -/
  found     : List ErrFound := []
  /-- MSI-X vectors raised, by function and vector (R377). -/
  msix      : List (Nat × Nat) := []
  l1        : List L1Sector := []
  /-- The sectors that the LLC slices hold, each with its dirty bit (R141).  Their bytes are those of `mem`, since every
  access passes through the slice. -/
  llc       : Tbl Bool := []
  /-- TLB entries of memory units (by unit key) and of clusters (R131). -/
  muTlb     : Tbl (List TlbEnt) := []
  clTlb     : Tbl (List TlbEnt) := []
  walks     : List Walk := []
  /-- Placed launches, by number (R331), and LSTAT by function (R375). -/
  launches  : Tbl Launch := []
  ports     : Tbl Port := []
  nextLaunch : Nat := 0
  colls     : Tbl Coll := []
  nextColl  : Nat := 0
  /-- Images staged in a die's LLC slice, by context, and images written to memory, by the number that their bodies hold
  there (R341, R342). -/
  staged    : Tbl Saved := []
  written   : Tbl Saved := []
  nextImage : Nat := 0
  /-- Retirement records: a reclaimed region context, and its halted mark (R273). -/
  retired   : Tbl Bool := []
  vfs       : Tbl Vf := []
  sensors   : Tbl Sensor := []
  /-- Thermal trips: tiles on which nothing is placed (R453). -/
  noPlace   : List Nat := []
  /-- Package power has been above the budget, and not below it since (R453). -/
  overBudget : Bool := false
  tests     : List SelfTest := []
  /-- Fence bits that self-test set, by physical tile, and from bit 13 up those of them that a write has asked to clear
  (R410). -/
  testFence : Tbl Nat := []
  /-- Ports that train: (die, LINKCTL instance) (R445). -/
  training  : List (Nat × Nat) := []
  /-- Attestation reports that are not ready, by die: the nonce words (R386). -/
  attest    : Tbl (List Word64) := []
  hostUp    : Bool := true
  shutdown  : Bool := false
  /-- RSTCTL's RETMEM and RETLINK (R382). -/
  retMem    : Bool := false
  retLink   : Bool := false
  /-- Banks in cooldown (R439). -/
  cooldown  : List Cool := []
  /-- The activation counts of rows, by the address of a row's first sector (R439). -/
  rowActs   : Tbl Nat := []
  /-- How the host's last access to an aperture completed (R373, R374). -/
  completion : Option Completion := none
  /-- Flits that a port has replayed since its lanes were last tested, by die and LINKCTL instance: 32 · die + instance (R444). -/
  replays   : Tbl Nat := []
  /-- The last CYCLE values at which a detector sample, a pipeline sample and a sensor sample were taken. -/
  sampled   : Tbl Nat := []
  /-- Pending translation faults; those that walk again when the next TLBI of a die completes are marked (R429, R430). -/
  xlPend    : List XlFault := []
  qops      : List QOp := []
  nextQop   : Nat := 0
  qwrites   : List QWrite := []
  /-- An injected error for the next firing (the model's own input): of its datapath, found once (1) or twice (2), or of the
  matrix node's storage, corrected (3) or not (4) (R399, R438). -/
  upset     : Nat := 0
  cur       : Agent := .event
  sched     : List Turn := []
  rr        : Nat := 0
  freeCtr   : Nat := 0
  deriving DecidableEq, Repr

/-- Why a step stops for good. -/
inductive Fault where
  /-- `step` and `exec`: an instruction of a unit is given to another kind of agent.  No run does it; safe. -/
  | wrongAgent
  deriving DecidableEq, Repr

/-- Why a step has no meaning in the model. -/
inductive Refusal where
  /-- `exec`: the instruction is not modelled; safe. -/
  | notModelled (mnemonic : String)
  deriving DecidableEq, Repr

/-- The machine after reset: every context FREE, every memory empty, every register at its reset value (R383,
R387). -/
def State.reset : State := {}


end Sys2Proof.Machine
end

