-- ==== Sys2Proof/Machine/Ops.lean ====
section
/-! DEFINITION. The named operations over the state: tiles, contexts and memory bytes, tokens and credits, error
records, taking a trap and faulting a context.  Families of instructions are written over these. -/

namespace Sys2Proof.Machine

/-- What a step answers. -/
abbrev Out := Host.Outcome State Fault Refusal

/-! ### Tiles and units -/

/-- Physical tile number of a tile of a cluster of a die (R16, R18). -/
def ptOf (die cluster tile : Nat) : Nat := (die * 6 + cluster) * 96 + tile

/-- Die, cluster and tile of a physical tile. -/
def ptDie (pt : Nat) : Nat := pt / 96 / 6
/-- Cluster number within the die. -/
def ptCluster (pt : Nat) : Nat := pt / 96 % 6
/-- Cluster number within the package, the key of `State.clusters`. -/
def ptCl (pt : Nat) : Nat := pt / 96
/-- Tile number within the cluster: n = 8y + x (R18). -/
def ptTile (pt : Nat) : Nat := pt % 96
/-- Column of a tile in its cluster. -/
def ptX (pt : Nat) : Nat := pt % 96 % 8
/-- Row of a tile in its cluster. -/
def ptY (pt : Nat) : Nat := pt % 96 / 8
/-- Voltage-frequency region of a tile in its cluster (R29). -/
def ptVf (pt : Nat) : Nat := 2 * (ptY pt / 4) + ptX pt / 4

/-- A tile's state. -/
def State.tile (s : State) (pt : Nat) : Tile := tgetD s.tiles pt {}

/-- The state with a tile replaced. -/
def State.setTile (s : State) (pt : Nat) (t : Tile) : State := { s with tiles := tset s.tiles pt t }

/-- A compute unit: `u` is true for CU1. -/
def State.cu (s : State) (pt : Nat) (u : Bool) : Cu := if u then (s.tile pt).cu1 else (s.tile pt).cu0

/-- The state with a compute unit replaced. -/
def State.setCu (s : State) (pt : Nat) (u : Bool) (c : Cu) : State :=
  if u then s.setTile pt { s.tile pt with cu1 := c } else s.setTile pt { s.tile pt with cu0 := c }

/-- A memory unit: `u` is true for MU1. -/
def State.mu (s : State) (pt : Nat) (u : Bool) : Mu := if u then (s.tile pt).mu1 else (s.tile pt).mu0

/-- The state with a memory unit replaced. -/
def State.setMu (s : State) (pt : Nat) (u : Bool) (m : Mu) : State :=
  if u then s.setTile pt { s.tile pt with mu1 := m } else s.setTile pt { s.tile pt with mu0 := m }

/-- An address generator: `g` is true for AG1. -/
def State.ag (s : State) (pt : Nat) (g : Bool) : Ag := if g then (s.tile pt).ag1 else (s.tile pt).ag0

/-- The state with an address generator replaced. -/
def State.setAg (s : State) (pt : Nat) (g : Bool) (a : Ag) : State :=
  if g then s.setTile pt { s.tile pt with ag1 := a } else s.setTile pt { s.tile pt with ag0 := a }

/-- The matrix node of a tile. -/
def State.mx (s : State) (pt : Nat) : Mx := (s.tile pt).mx

/-- The state with a matrix node replaced. -/
def State.setMx (s : State) (pt : Nat) (m : Mx) : State := s.setTile pt { s.tile pt with mx := m }

/-- CYCLE as a die reads it: the package's count, behind by at most 2 (R32, R33; log entry 4). -/
def State.dieCycle (s : State) (die : Nat) : Nat := s.cycle - (Config.cycleSkew die).val

/-! ### Contexts -/

/-- A context. -/
def State.ctx (s : State) (c : Nat) : Ctx := tgetD s.ctxs c {}

/-- The state with a context replaced. -/
def State.setCtx (s : State) (c : Nat) (x : Ctx) : State := { s with ctxs := tset s.ctxs c x }

/-- A context changed by a function. -/
def State.modCtx (s : State) (c : Nat) (f : Ctx → Ctx) : State := s.setCtx c (f (s.ctx c))

/-- DIE, CLUSTER and LOCAL of a context id (R34). -/
def idDie (c : Nat) : Nat := c / 8192 % 8
/-- CLUSTER of a context id (R34). -/
def idCluster (c : Nat) : Nat := c / 1024 % 8
/-- LOCAL of a context id (R34). -/
def idLocal (c : Nat) : Nat := c % 1024
/-- A context id from its fields (R34). -/
def idOf (die cluster loc : Nat) : Nat := die * 8192 + cluster * 1024 + loc

/-- The id names a region context (R35). -/
def isRegionId (c : Nat) : Bool := decide (c < 65536 ∧ idCluster c < 6 ∧ idLocal c < 96)
/-- The id names a copy-engine context (R35). -/
def isCopyId (c : Nat) : Bool := decide (c < 65536 ∧ idCluster c < 6 ∧ 128 ≤ idLocal c ∧ idLocal c < 192)
/-- The id names a collective-engine context (R35). -/
def isCollId (c : Nat) : Bool := decide (c < 65536 ∧ idCluster c = 7 ∧ idLocal c < 32)
/-- The id names a die supervisor (R35). -/
def isSupId (c : Nat) : Bool := decide (c < 65536 ∧ idCluster c = 7 ∧ idLocal c = 1023)
/-- The supervisor of a die (R17). -/
def supId (die : Nat) : Nat := idOf die 7 1023

/-- The tile of a region at relative position (tx, ty) (R20, R183). -/
def Ctx.pt (x : Ctx) (tx ty : Nat) : Nat :=
  ptOf x.place.die x.place.cluster (x.place.anchor + 8 * ty + tx)

/-- The tiles of a region, by row. -/
def Ctx.tiles (x : Ctx) : List Nat :=
  (List.range x.height).flatMap fun ty => (List.range x.width).map fun tx => x.pt tx ty

/-- The region holds a tile. -/
def Ctx.holds (x : Ctx) (pt : Nat) : Bool :=
  let ax := x.place.anchor % 8
  let ay := x.place.anchor / 8
  decide (ptDie pt = x.place.die ∧ ptCluster pt = x.place.cluster ∧ ax ≤ ptX pt ∧ ptX pt < ax + x.width ∧
    ay ≤ ptY pt ∧ ptY pt < ay + x.height)

/-- A context holds its tiles (R65): all but FREE, and one whose image has been staged (R341). -/
def Ctx.onTiles (x : Ctx) : Bool := x.st != .free && !x.off

/-- The region context that holds a tile. -/
def State.owner (s : State) (pt : Nat) : Option Nat :=
  (s.ctxs.find? fun p => isRegionId p.1 && p.2.onTiles && p.2.holds pt).map (·.1)

/-- A context state in which the region's graph fires (R47, R65). -/
def CtxSt.fires : CtxSt → Bool
  | .ready | .running | .waiting | .draining => true
  | _ => false

/-- The tile's region fires. -/
def State.active (s : State) (pt : Nat) : Bool :=
  match s.owner pt with
  | some c => (s.ctx c).st.fires
  | none => false

/-- The counters of the Solstice detector (R55). -/
inductive Ctr where
  | tok | ret | mem | ctl | eng
  deriving DecidableEq, Repr

/-- The place of a counter's change bit. -/
def Ctr.idx : Ctr → Fin 5
  | .tok => 0 | .ret => 1 | .mem => 2 | .ctl => 3 | .eng => 4

/-- A change of a counter sets its change bit and ends a standing report (R55, R56). -/
def Ctx.touch (x : Ctx) (k : Ctr) : Ctx := { x with changed := x.changed.set k.idx true, quiet := false }

/-- A counter of the region that holds a tile changes. -/
def State.touch (s : State) (pt : Nat) (k : Ctr) : State :=
  match s.owner pt with
  | some c => s.modCtx c (·.touch k)
  | none => s

/-! ### Memory bytes

One list per kind of storage, addresses rising and no byte 0, since an unlisted byte reads 0 (R383 step 5, log 3). -/

/-- The byte at an address; an unlisted byte is 0. -/
def memGet : List Host.Cell → Nat → Byte
  | [], _ => 0
  | (j, b) :: t, a => if j = a then b else memGet t a

/-- The memory with a byte written. -/
def memSet : List Host.Cell → Nat → Byte → List Host.Cell
  | [], a, b => if b = 0 then [] else [(a, b)]
  | (j, c) :: t, a, b =>
    if a < j then (if b = 0 then (j, c) :: t else (a, b) :: (j, c) :: t)
    else if j = a then (if b = 0 then t else (a, b) :: t)
    else (j, c) :: memSet t a b

/-- Addresses rise from `lo` and no byte is 0. -/
def memOrdered : Nat → List Host.Cell → Bool
  | _, [] => true
  | lo, (j, b) :: t => decide (lo ≤ j) && b != 0 && memOrdered (j + 1) t

/-- The canonical form of a memory. -/
def Memory.wf (m : List Host.Cell) : Bool := memOrdered 0 m

/-- `n` bytes from an address. -/
def memBytes (m : List Host.Cell) (a n : Nat) : List Byte := (List.range n).map fun k => memGet m (a + k)

/-- Bytes written from an address up. -/
def memPut : List Host.Cell → Nat → List Byte → List Host.Cell
  | m, _, [] => m
  | m, a, b :: bs => memPut (memSet m a b) (a + 1) bs

/-- The little-endian number of `n` bytes at an address (R4). -/
def memNat (m : List Host.Cell) (a n : Nat) : Nat := natOfBytes (memBytes m a n)

/-- The bytes of a number, lowest first (R4). -/
def natBytes (v n : Nat) : List Byte := (List.range n).map fun k => BitVec.ofNat 8 (natBits v (8 * k) 8)

/-- `w` bits at a bit address. -/
def memBits (m : List Host.Cell) (bits w : Nat) : Nat :=
  natBits (memNat m (bits / 8) ((bits % 8 + w + 7) / 8)) (bits % 8) w

/-- `w` bits written at a bit address. -/
def memPutBits (m : List Host.Cell) (bits w v : Nat) : List Host.Cell :=
  let n := (bits % 8 + w + 7) / 8
  let old := memNat m (bits / 8) n
  let new := old - natBits old (bits % 8) w * 2 ^ (bits % 8) + (v % 2 ^ w) * 2 ^ (bits % 8)
  memPut m (bits / 8) (natBytes new n)

/-- Key of a scratchpad byte. -/
def spadKey (pt off : Nat) : Nat := pt * 524288 + off

/-- Key of an operand-memory byte. -/
def opndKey (pt slot off : Nat) : Nat := pt * 262144 + slot * 16384 + off

/-- Marks of granules, a list with no repeats: `k` added. -/
def markAdd (l : List Nat) (k : Nat) : List Nat := if l.contains k then l else l ++ [k]

/-- Marks of granules: `k` removed. -/
def markDel (l : List Nat) (k : Nat) : List Nat := l.filter (· != k)

/-! ### Tokens -/

/-- RESIDUE: the payload mod 255 (R396). -/
def residueOf (p : Payload) : BitVec 8 := BitVec.ofNat 8 (p.toNat % 255)

/-- A DATA token with its residue computed (R203, R396). -/
def dataToken (p : Payload) (slot : BitVec 6) (coord : BitVec 32) (poison : Bool) : Token :=
  { payload := p, slot := slot, coord := coord, residue := residueOf p, poison := poison }

/-- An EOS token (R44). -/
def eosToken : Token := { kind := .eos }

/-- A barrier token (R44). -/
def barrierToken (mark : Nat) : Token :=
  let p : Payload := BitVec.ofNat 512 (mark % 2 ^ 32)
  { payload := p, kind := .barrier, residue := residueOf p }

/-- Element `i` of width `w` of a payload (R94). -/
def elemAt (p : Payload) (w i : Nat) : Nat := natBits p.toNat (w * i) w

/-- A payload of elements of width `w`, element 0 lowest (R94). -/
def payloadOf (w : Nat) (es : List Nat) : Payload :=
  BitVec.ofNat 512 (es.foldr (fun e acc => e % 2 ^ w + acc * 2 ^ w) 0)

/-- The elements of width `w` of a payload. -/
def elemsOf (w : Nat) (p : Payload) : List Nat := (List.range (512 / w)).map (elemAt p w)

/-- A payload of bytes. -/
def payloadOfBytes (bs : List Byte) : Payload := BitVec.ofNat 512 (natOfBytes bs)

/-! ### Buffers and credits (R22, R48 to R51) -/

/-- The depth of a buffer (R22, R30). -/
def bufDepth : BufId → Nat
  | .elastic _ _ | .elasticCtl _ _ => 16
  | _ => 4

/-- The tile of a buffer. -/
def bufPt : BufId → Nat
  | .cuIn t _ _ | .cuQ t _ _ | .mx t | .mu t _ | .ag t _ | .elastic t _ | .elasticCtl t _ => t

/-- A buffer of the control network (R28). -/
def bufIsCtl : BufId → Bool
  | .cuQ _ _ _ | .elasticCtl _ _ => true
  | _ => false

/-- The number at a buffer, 0 where none is listed. -/
def bufCount (l : List (BufId × Nat)) (b : BufId) : Nat :=
  match l.find? fun p => p.1 = b with | some p => p.2 | none => 0

/-- The number at a buffer set; a 0 is not listed. -/
def bufPut (l : List (BufId × Nat)) (b : BufId) (n : Nat) : List (BufId × Nat) :=
  let rest := l.filter fun p => p.1 ≠ b
  if n = 0 then rest else rest ++ [(b, n)]

/-- The producer holds a credit for the buffer (R50). -/
def State.credit (s : State) (b : BufId) : Bool := decide (bufCount s.used b < bufDepth b)

/-- A credit is spent (R50). -/
def State.spend (s : State) (b : BufId) : State := { s with used := bufPut s.used b (bufCount s.used b + 1) }

/-- A freed entry's return sets out (R50, R55). -/
def State.free (s : State) (b : BufId) : State :=
  State.touch { s with returns := bufPut s.returns b (bufCount s.returns b + 1) } (bufPt b) .ret

/-- The tokens of an elastic buffer. -/
def State.elasticOf (s : State) (b : BufId) : List Token :=
  match s.elastic.find? fun p => p.1 = b with | some p => p.2 | none => []

/-- The elastic buffer's tokens set. -/
def State.setElastic (s : State) (b : BufId) (ts : List Token) : State :=
  let rest := s.elastic.filter fun p => p.1 ≠ b
  { s with elastic := if ts = [] then rest else rest ++ [(b, ts)] }

/-- The tokens of a control elastic buffer. -/
def State.elasticCtlOf (s : State) (b : BufId) : List Bool :=
  match s.elasticCtl.find? fun p => p.1 = b with | some p => p.2 | none => []

/-- The control elastic buffer's tokens set. -/
def State.setElasticCtl (s : State) (b : BufId) (ts : List Bool) : State :=
  let rest := s.elasticCtl.filter fun p => p.1 ≠ b
  { s with elasticCtl := if ts = [] then rest else rest ++ [(b, ts)] }

/-! ### Switches (R26, R27, R190 to R192) -/

/-- The valid data entries of a tile that take an input (R192). -/
def Sw.dataOf (w : Sw) (code : Nat) : List Parcel :=
  (w.data.filter fun p => bit p.2 0 && decide (fld p.2 26 6 = code)).map (·.2)

/-- The valid control entries of a tile that take an input. -/
def Sw.ctlOf (w : Sw) (code : Nat) : List Parcel :=
  (w.ctl.filter fun p => bit p.2 0 && decide (fld p.2 26 6 = code)).map (·.2)

/-- The tile that an outgoing track of a side leads to; north is towards y = 0 (log entry 10). -/
def neighbour (pt side : Nat) : Option Nat :=
  match side with
  | 0 => if ptY pt = 0 then none else some (pt - 8)
  | 1 => if ptX pt = 7 then none else some (pt + 1)
  | 2 => if ptY pt = 11 then none else some (pt + 8)
  | _ => if ptX pt = 0 then none else some (pt - 1)

/-- The input code at which an outgoing track arrives in the next tile (R191). -/
def arrivalCode (dest : Nat) : Nat := (dest / 8 + 2) % 4 * 8 + dest % 8

/-- The input buffer of a data consumer code (R191). -/
def destBuf (pt dest : Nat) : Option BufId :=
  if dest < 0x20 then none
  else if dest < 0x26 then some (.cuIn pt false (Fin.ofNat 6 (dest - 0x20)))
  else if dest < 0x2C then some (.cuIn pt true (Fin.ofNat 6 (dest - 0x26)))
  else match dest with
    | 0x2C => some (.mx pt)
    | 0x2D => some (.mu pt false)
    | 0x2E => some (.mu pt true)
    | 0x2F => some (.ag pt false)
    | 0x30 => some (.ag pt true)
    | _ => none

/-- The track at an input of a tile is received through an elastic buffer (R30, R190). -/
def State.isElastic (s : State) (pt code : Nat) : Bool :=
  ((s.tile pt).sw.dataOf code).any fun p => bit p 4

/-- The buffers that a token at a switch input reaches: the end of every branch, or the elastic buffer in which a
branch pauses (R50).  `fuel` bounds the hops. -/
def State.reach (s : State) : Nat → Nat → Nat → List BufId
  | 0, _, _ => []
  | fuel + 1, pt, code =>
    ((s.tile pt).sw.dataOf code).flatMap fun p =>
      let d := fld p 20 6
      match destBuf pt d with
      | some b => [b]
      | none =>
        match neighbour pt (d / 8) with
        | none => []
        | some pt' =>
          let code' := arrivalCode d
          if s.isElastic pt' code' then [.elastic pt' (BitVec.ofNat 6 code')] else s.reach fuel pt' code'

/-- The hops that a path can have at most: every track of a cluster once. -/
def maxHops : Nat := 3072

/-- The buffers that an output's tokens reach. -/
def State.outBufs (s : State) (pt code : Nat) : List BufId := s.reach maxHops pt code

/-- Every output has a credit for each of its buffers (R27, R45). -/
def State.canEmit (s : State) (pt : Nat) (codes : List Nat) : Bool :=
  (codes.flatMap (s.outBufs pt)).all s.credit

/-- A token leaves on an output: its credits are spent and it stands at the tile's switch (R22, R50). -/
def State.emit (s : State) (pt code : Nat) (t : Token) : State :=
  let s1 := (s.outBufs pt code).foldl State.spend s
  State.touch { s1 with flights := s1.flights ++ [Flight.mk pt code t] } pt .tok

/-- A token leaves on several outputs. -/
def State.emitAll (s : State) (pt : Nat) (codes : List Nat) (t : Token) : State :=
  codes.foldl (fun s c => s.emit pt c t) s

/-- The producer code of output Ok of a compute unit (R191). -/
def outCode (u : Bool) (k : Nat) : Nat := (if u then 0x24 else 0x20) + k

/-- The control buffers that a control token at an input reaches (R28, R191); a border is crossed through the
control elastic buffer of its track (R30). -/
def State.reachCtl (s : State) : Nat → Nat → Nat → List BufId
  | 0, _, _ => []
  | fuel + 1, pt, code =>
    ((s.tile pt).sw.ctlOf code).flatMap fun p =>
      let d := fld p 20 6
      if d < 0x20 then
        match neighbour pt (d / 8) with
        | none => []
        | some pt' =>
          let code' := arrivalCode d
          if ptVf pt' ≠ ptVf pt then [.elasticCtl pt' (BitVec.ofNat 6 code')] else s.reachCtl fuel pt' code'
      else if d < 0x24 then [.cuQ pt false (Fin.ofNat 4 (d - 0x20))]
      else if d < 0x28 then [.cuQ pt true (Fin.ofNat 4 (d - 0x24))]
      else []

/-- The buffers of control output Zk of a compute unit. -/
def State.ctlBufs (s : State) (pt : Nat) (u : Bool) (k : Nat) : List BufId := s.reachCtl maxHops pt (outCode u k)

/-- Zk has a credit (R208). -/
def State.canCtl (s : State) (pt : Nat) (u : Bool) (k : Nat) : Bool := (s.ctlBufs pt u k).all s.credit

/-- A control token leaves towards buffers (R28). -/
def State.sendCtl (s : State) (pt : Nat) (bs : List BufId) (v : Bool) : State :=
  let s1 := bs.foldl State.spend s
  State.touch { s1 with ctlArriving := s1.ctlArriving ++ bs.map fun b => CtlFlight.mk b v } pt .ctl

/-- `ctl(Zk, b)`: a control token is sent (R208, R249). -/
def State.emitCtl (s : State) (pt : Nat) (u : Bool) (k : Nat) (v : Bool) : State :=
  s.sendCtl pt (s.ctlBufs pt u k) v

/-! ### Privileged registers (R387) -/

/-- The key of a register's instance on a die. -/
def regKey (die num inst : Nat) : Nat := (die * 256 + num) * 4096 + inst

/-- Entry `j` of a die's fused curve: it does not fall in j and is at most 48 (R363; log entry 7). -/
def fusedCurve (die j : Nat) : Nat := Nat.min 48 ((List.range (j + 1)).foldl (fun a k => a + Config.curveFuse die k) 0)

/-- The reset value of a register's instance (R364, R369, R370, R387, R388, R407, R437, R439). -/
def regReset (die num inst : Nat) : Word64 :=
  match num with
  | 0x48 => BitVec.ofNat 64 (2 ^ 24 + 132 * 2 ^ 16 + 16 * 2 ^ 8)
  | 0x4A => BitVec.ofNat 64 ((List.range 8).foldl (fun a k => a + fusedCurve die k * 2 ^ (8 * k)) 0)
  | 0x4B => BitVec.ofNat 64 ((List.range 8).foldl (fun a k => a + fusedCurve die (8 + k) * 2 ^ (8 * k)) 0)
  | 0x4C => 65536
  | 0x4E => BitVec.ofNat 64 (440 * 2 ^ 32 + 400 * 2 ^ 16 + 380)
  | 0x4F => 8000
  | 0x50 => 3
  | 0x5A => BitVec.ofNat 64 (natOfBytes (((edPublic (bytesOf (Config.identitySeed die) 32)).drop (8 * (inst % 4))).take 8))
  | 0x64 => BitVec.ofNat 64 (2 ^ 63 + 256)
  | 0x6A => BitVec.ofNat 64 (350 * 2 ^ 16 + 4096)
  | 0x56 => if 1024 ≤ inst ∧ inst < 1600 then BitVec.ofNat 64 ((inst - 1024) % 96) else 0
  | _ => 0

/-- A register's value. -/
def State.reg (s : State) (die num inst : Nat) : Word64 :=
  (tget s.regs (regKey die num inst)).getD (regReset die num inst)

/-- The state with a register's value set. -/
def State.setReg (s : State) (die num inst : Nat) (v : Word64) : State :=
  { s with regs := tset s.regs (regKey die num inst) v }

/-! ### Bits that hardware has set in this CYCLE (R7) -/

/-- Hardware sets W1C bits of a place: a write of this CYCLE does not clear them (R7). -/
def State.stamp (s : State) (key bits : Nat) : State := { s with hwSet := tset s.hwSet key (tgetD s.hwSet key 0 ||| bits) }

/-- The W1C bits of a place that hardware has set in this CYCLE. -/
def State.stamped (s : State) (key : Nat) : Nat := tgetD s.hwSet key 0

/-- The place of a compute unit's flag word. -/
def flagKey (pt : Nat) (u : Bool) : Nat := 2 ^ 24 + 2 * pt + b2n u

/-- The place of a function's LSTAT. -/
def lstatKey (fn : Nat) : Nat := 2 ^ 25 + fn

/-! ### Dies and traps (R417, R418) -/

/-- A die's state. -/
def State.die (s : State) (d : Nat) : Die := tgetD s.dies d {}

/-- The state with a die's state replaced. -/
def State.setDie (s : State) (d : Nat) (x : Die) : State := { s with dies := tset s.dies d x }

/-- A cluster's state, by package-wide cluster number. -/
def State.cl (s : State) (k : Nat) : Cluster := tgetD s.clusters k {}

/-- The state with a cluster's state replaced. -/
def State.setCl (s : State) (k : Nat) (x : Cluster) : State := { s with clusters := tset s.clusters k x }

/-- Trap causes (R389). -/
def causeUser : Nat := 0
/-- SYSC (R389). -/
def causeSysc : Nat := 1
/-- UNASSIGNED (R389). -/
def causeUnassigned : Nat := 2
/-- PRIV (R389). -/
def causePriv : Nat := 3
/-- BOUND (R389). -/
def causeBound : Nat := 4
/-- LPAD (R389). -/
def causeLpad : Nat := 5
/-- PROMISE (R389). -/
def causePromise : Nat := 6
/-- THERMAL (R389). -/
def causeThermal : Nat := 7
/-- FAULT (R389). -/
def causeFault : Nat := 8
/-- ERROR (R389). -/
def causeError : Nat := 9

/-- Trap `x` was raised in the CYCLE of `t` and stands behind it, by cause and then by context id; ERROR traps keep the order
in which their records were placed (R408, R417). -/
def TrapEnt.yields (x t : TrapEnt) : Bool :=
  x.cyc == t.cyc && (decide (t.cause < x.cause) || t.cause == x.cause && t.cause != causeError && decide (t.ctx < x.ctx))

/-- A queue with a trap entered: before the first that yields to it, else at the end (R417). -/
def enterTrap (t : TrapEnt) : List TrapEnt → List TrapEnt
  | [] => [t]
  | x :: l => if x.yields t then t :: x :: l else x :: enterTrap t l

/-- A trap is dropped where it finds the queue full (R417). -/
def TrapEnt.drops (t : TrapEnt) : Bool := decide (t.cause = causeThermal ∨ t.cause = causeError)

/-- A die's queue of 256 with a trap entered; those that find it full wait outside it, or are dropped (R417). -/
def Die.enter (d : Die) (t : TrapEnt) : Die :=
  if d.traps.length < 256 then { d with traps := enterTrap t d.traps }
  else
    let all := enterTrap t (d.traps ++ d.waiting)
    { d with traps := all.take 256, waiting := (all.drop 256).filter fun x => !x.drops }

/-- A trap enters its die's queue in the CYCLE that raises it (R417). -/
def State.raise (s : State) (die : Nat) (t : TrapEnt) : State :=
  s.setDie die ((s.die die).enter { t with cyc := s.cycle })

/-- Fault codes (R418, R427). -/
def fcFrame : Nat := 0x01
/-- ENCODING (R418). -/
def fcEncoding : Nat := 0x02
/-- SLOTCLM (R418). -/
def fcSlotclm : Nat := 0x03
/-- SLOTIDX (R418). -/
def fcSlotidx : Nat := 0x04
/-- COORD (R418). -/
def fcCoord : Nat := 0x05
/-- ADDRESS (R418). -/
def fcAddress : Nat := 0x06
/-- BARRIER (R418). -/
def fcBarrier : Nat := 0x07
/-- POISON (R418). -/
def fcPoison : Nat := 0x08
/-- CHECK (R418). -/
def fcCheck : Nat := 0x09
/-- ROTREQ (R418). -/
def fcRotreq : Nat := 0x0A
/-- COLL (R418). -/
def fcColl : Nat := 0x0B
/-- USER (R418). -/
def fcUser : Nat := 0x0C
/-- XLATE (R427). -/
def fcXlate : Nat := 0x10
/-- PERM (R427). -/
def fcPerm : Nat := 0x11
/-- RACE (R427). -/
def fcRace : Nat := 0x12
/-- QUORUM (R427). -/
def fcQuorum : Nat := 0x13
/-- FARMEM (R427). -/
def fcFarmem : Nat := 0x14
/-- QVERSION (R427). -/
def fcQversion : Nat := 0x15

/-- The FAULT layout of TINFO (R418). -/
def faultInfo (members : Vector (Option Nat) 4) (fcode tile unit pos : Nat) : Word64 :=
  let g := (List.finRange 4).foldl (fun a j => match members[j] with
    | some n => a + 2 ^ (60 + j.val) + (n % 256) * 2 ^ (28 + 8 * j.val)
    | none => a) 0
  BitVec.ofNat 64 (g + (fcode % 256) * 2 ^ 20 + (tile % 128) * 2 ^ 13 + (unit % 8) * 2 ^ 10 + pos % 1024)

/-- TINFO of BOUND and LPAD from a compute unit: the layout with the index x in [63:28] (R418). -/
def boundInfo (x : Int) (tile unit pos : Nat) : Word64 :=
  BitVec.ofNat 64 (patternOf 36 x * 2 ^ 28 + (tile % 128) * 2 ^ 13 + (unit % 8) * 2 ^ 10 + pos % 1024)

/-- A context goes to FAULTED and a trap of cause FAULT is raised on its die (R412, R414, R65); a supervisor goes on
(R416). -/
def State.faultCtx (s : State) (c fcode tile unit pos : Nat) : State :=
  let x := s.ctx c
  if isSupId c then s else
  match x.st with
  | .free | .retired | .faulted => s
  | _ =>
    (s.setCtx c { x with st := .faulted, fcode := fcode, preempt := none }).raise
      (if isRegionId c then x.place.die else idDie c)
      { cause := causeFault, ctx := c, info := faultInfo x.members fcode tile unit pos }

/-- The UNIT code of a compute unit (R21). -/
def cuUnit (u : Bool) : Nat := if u then 1 else 0
/-- The UNIT code of a memory unit (R21). -/
def muUnit (u : Bool) : Nat := if u then 4 else 3

/-- A unit of a tile finds a fault: the tile's context goes to FAULTED (R414). -/
def State.unitFault (s : State) (pt unit fcode pos : Nat) : State :=
  match s.owner pt with
  | some c => s.faultCtx c fcode (ptTile pt) unit pos
  | none => s

/-! ### Error records (R404 to R408) -/

/-- Rank of a class: UC above DEF above CE (R406). -/
def ErrClass.rank : ErrClass → Nat
  | .uc => 2 | .defd => 1 | .ce => 0

/-- The bits of a class in ERSTATUS (R405). -/
def ErrClass.bits : ErrClass → Nat
  | .uc => 2 ^ 62 | .defd => 2 ^ 61 | .ce => 2 ^ 60

/-- The bank instances of a location on its die (R405). -/
def ErrLoc.banks : ErrLoc → Nat × Nat
  | .cluster k => (8 * k, 8)
  | .stack k => (48 + 4 * k, 4)
  | .global => (56, 8)
  | .d2d p => (64 + 2 * p, 2)
  | .brumar q => (70 + 2 * q, 2)
  | .cxl c => (102 + 2 * c, 2)
  | .host => (56, 8)

/-- The ERCTL instance of a location (R407). -/
def ErrLoc.ctl : ErrLoc → Nat
  | .cluster k => k
  | .stack k => 6 + k
  | .global => 8
  | .d2d p => 9 + p
  | .brumar q => 12 + q
  | .cxl c => 28 + c
  | .host => 32

/-- The rank of the record in a bank whose ERSTATUS is `w`. -/
def bankRank (w : Word64) : Nat := if bit w 62 then 2 else if bit w 61 then 1 else 0

/-- The bank that a new record of a rank takes: the first free one; else the lowest-ranked, if that rank is lower;
else none, with the bank whose OVF is set (R406). -/
def State.pickBank (s : State) (die base n rank : Nat) : Nat × Bool :=
  let insts := (List.range n).map (base + ·)
  match insts.find? fun i => !(bit (s.reg die 0x60 i) 63) with
  | some i => (i, true)
  | none =>
    let low := insts.foldl (fun b i =>
      if bankRank (s.reg die 0x60 i) < bankRank (s.reg die 0x60 b) then i else b) base
    (low, decide (bankRank (s.reg die 0x60 low) < rank))

/-- An error interrupt of a die: with IE a trap of cause ERROR, with HOST also MSI-X vector 1 of function 0, lost while the
host link is down (R407, R408, R450). -/
def State.errIrq (s : State) (die ctlInst inst ctx : Nat) : State :=
  let w := s.reg die 0x64 ctlInst
  let s1 := if bit w 63 then s.raise die { cause := causeError, ctx := ctx, info := BitVec.ofNat 64 inst } else s
  if bit w 62 ∧ bit w 63 ∧ s1.hostUp then { s1 with msix := s1.msix ++ [(0, 1)] } else s1

/-- Two records name one block for a self-test: a unit or storage of a tile, whatever its port and element, or the same
address or lane (R405, R409). -/
def sameBlock (src a src' a' : Nat) : Bool :=
  src == src' && (if src ≤ 11 then a % 128 == a' % 128 else a == a')

/-- A record calls for a targeted self-test of its block, unless one is pending (R409). -/
def State.askTest (s : State) (die : Nat) (bank : Option Nat) (loc src addr : Nat) : State :=
  if s.tests.any fun t => t.die == die && t.loc == loc && sameBlock t.src t.addr src addr then s
  else { s with tests := s.tests ++ [SelfTest.mk die bank loc src addr false] }

/-- An error is counted in COUNT of every bank of its location, whether or not its record is kept (R405). -/
def State.errCount (s : State) (die : Nat) (loc : ErrLoc) : State :=
  (List.range loc.banks.2).foldl (fun s k =>
    let w := s.reg die 0x63 (loc.banks.1 + k)
    s.setReg die 0x63 (loc.banks.1 + k) (setFld w 32 16 (Nat.min 0xFFFF (fld w 32 16 + 1)))) s

/-- The record that a bank held is gone: a pending test has none to write its result into (R409). -/
def State.recordGone (s : State) (die i : Nat) : State :=
  { s with tests := s.tests.map fun t => if t.die = die ∧ t.bank = some i then { t with bank := none } else t }

/-- A record placed by R406, or the overflow of the bank that keeps its place (R405, R406). -/
def State.errPlace (s : State) (die : Nat) (loc : ErrLoc) (cls : ErrClass) (src type addr syn ctx : Nat) : State :=
  let pick := s.pickBank die loc.banks.1 loc.banks.2 cls.rank
  let i := pick.1
  let old := s.reg die 0x60 i
  if pick.2 then
    let ovf := if bit old 59 then 2 ^ 59 else 0
    (((s.setReg die 0x60 i (BitVec.ofNat 64 (2 ^ 63 + cls.bits + ovf + (src % 256) * 2 ^ 48 + (type % 256) * 2 ^ 40))
      ).setReg die 0x61 i (BitVec.ofNat 64 addr)).setReg die 0x62 i (BitVec.ofNat 64 syn)).setReg die 0x63 i
        (setFld (s.reg die 0x63 i) 0 16 (ctx % 65536))
  else s.setReg die 0x60 i (setFld old 59 1 1)

/-- What a record's class does at its location: a CE is counted in CECNT, and interrupts at the threshold; a UC or a DEF
interrupts with the bank `i` (R407). -/
def State.errSignal (s : State) (die : Nat) (loc : ErrLoc) (cls : ErrClass) (i ctx : Nat) : State :=
  match cls with
  | .ce =>
    let w := s.reg die 0x64 loc.ctl
    let n := fld w 32 16 + 1
    let thr := fld w 0 16
    if thr ≠ 0 ∧ n = thr then
      (s.setReg die 0x64 loc.ctl (setFld w 32 16 0)).errIrq die loc.ctl loc.ctl ctx
    else s.setReg die 0x64 loc.ctl (setFld w 32 16 n)
  | _ => s.errIrq die loc.ctl i ctx

/-- An error is found: its record is placed at the end of the CYCLE (R406). -/
def State.errRecord (s : State) (die : Nat) (loc : ErrLoc) (cls : ErrClass) (src type addr syn ctx : Nat) : State :=
  { s with found := s.found ++ [⟨die, loc, cls, src, type, addr, syn, ctx⟩] }

/-- An error record: placed, tested for, counted, and its interrupt raised (R405 to R409). -/
def State.errPut (s : State) (e : ErrFound) : State :=
  let pick := s.pickBank e.die e.loc.banks.1 e.loc.banks.2 e.cls.rank
  ((((if pick.2 then s.recordGone e.die pick.1 else s).askTest e.die (if pick.2 then some pick.1 else none) e.loc.ctl e.src e.addr).errPlace e.die e.loc e.cls e.src e.type
    e.addr e.syn e.ctx).errCount e.die e.loc).errSignal e.die e.loc e.cls pick.1 e.ctx

/-- Of two errors of one CYCLE, `a` may be placed first: highest rank, then lowest SRC (R406). -/
def ErrFound.first (a b : ErrFound) : Bool :=
  decide (b.cls.rank < a.cls.rank) || (a.cls.rank == b.cls.rank && decide (a.src ≤ b.src))

/-- A list of errors in the order of R406 with one more placed; equals keep the order in which they were found. -/
def ErrFound.placeIn (e : ErrFound) : List ErrFound → List ErrFound
  | [] => [e]
  | x :: l => if e.first x then e :: x :: l else x :: e.placeIn l

/-- The errors of the present CYCLE in the order in which their records are placed (R406). -/
def State.foundOrder (s : State) : List ErrFound := s.found.foldr ErrFound.placeIn []

/-- The CYCLE ends: the records of the errors found in it are placed one after another (R406, R408). -/
def State.placeErrs (s : State) : State := s.foundOrder.foldl State.errPut { s with found := [] }

/-- ERADDR of a tile's unit: tile in [6:0], port in [11:8], element index in [17:12] (R405); an error of a whole token or
line has element index 0 (log entry 65). -/
def unitAddr (pt port : Nat) (elem : Nat := 0) : Nat := ptTile pt + port * 256 + elem % 64 * 4096

/-- A record at a tile, charged to the context that holds it. -/
def State.tileRecord (s : State) (pt : Nat) (cls : ErrClass) (src type port syn : Nat) (elem : Nat := 0) : State :=
  s.errRecord (ptDie pt) (.cluster (ptCluster pt)) cls src type (unitAddr pt port elem) syn ((s.owner pt).getD 0)

/-- A consumption of poison at a unit's input port: a UC record, and the context FAULTED with FCODE POISON (R403, R405,
R414). -/
def State.consumePoison (s : State) (pt unit pos : Nat) (port : Nat := 0) : State :=
  (s.tileRecord pt .uc unit 0x05 port 0).unitFault pt unit fcPoison pos

/-! ### Values that the spec leaves open -/

/-- A free value of `w` bits, a new one each time (log entry 2). -/
def State.fresh (s : State) (w : Nat) : Nat × State :=
  ((Config.freeWord s.freeCtr).toNat % 2 ^ w, { s with freeCtr := s.freeCtr + 1 })

/-- A record whose ERSYN holds a syndrome, which is a free value (R438). -/
def State.eccRecord (s : State) (die : Nat) (loc : ErrLoc) (cls : ErrClass) (src type addr ctx : Nat) : State :=
  let y := s.fresh 64
  y.2.errRecord die loc cls src type addr y.1 ctx

/-- The datapath errors of a unit: a record of TYPE 0x02 whose ERSYN holds the predicted residue, free where none is given,
and a free observed one; the element that it names is free too (R398, R399, R405). -/
def State.checkRecord (s : State) (pt : Nat) (cls : ErrClass) (src port : Nat) (predicted : Option Nat) : State :=
  let y := s.fresh 22
  y.2.tileRecord pt cls src 0x02 port (predicted.getD (natBits y.1 0 8) % 256 + natBits y.1 8 8 * 256) (natBits y.1 16 6)

/-- The check of a compute unit's firing, with the residue that it predicts (R398, R399): no error, one that the second try does
not show, or one that it shows again, and then the result is poisoned. -/
def State.checked (s : State) (pt unit : Nat) (predicted : Option Nat) : State × Bool :=
  match s.upset with
  | 1 => ({ s with upset := 0 }.checkRecord pt .ce unit 0 predicted, false)
  | 2 => ({ s with upset := 0 }.checkRecord pt .defd unit 0 predicted, true)
  | _ => (s, false)

/-- The check of a unit that does not try again: an error poisons its result (R399). -/
def State.checkedOnce (s : State) (pt unit : Nat) (predicted : Option Nat) : State × Bool :=
  match s.upset with
  | 1 | 2 => ({ s with upset := 0 }.checkRecord pt .defd unit 0 predicted, true)
  | _ => (s, false)

/-! ### Voltage-frequency regions (R29, R363) -/

/-- The number of a voltage-frequency region of a die: cluster·6 + region (R387). -/
def vfNo (pt : Nat) : Nat := ptCluster pt * 6 + ptVf pt

/-- The key of a voltage-frequency region of the package. -/
def vfKey (die v : Nat) : Nat := die * 36 + v

/-- A voltage-frequency region. -/
def State.vf (s : State) (die v : Nat) : Vf := tgetD s.vfs (vfKey die v) {}

/-- The cycles of a region's clock up to a CYCLE, in fortieths: FCODE of them in each nanosecond (R363). -/
def Vf.ticks (x : Vf) (now : Nat) : Nat := x.acc + (now - x.since) * x.fcode

/-- The cycles of a region's clock up to a CYCLE. -/
def Vf.clock (x : Vf) (now : Nat) : Nat := x.ticks now / 40

/-- A region that comes after another one keeps its count of cycles. -/
def Vf.after (x old : Vf) (now : Nat) : Vf :=
  if x.fcode = old.fcode then x else { x with acc := old.ticks now, since := now }

/-- The state with a voltage-frequency region replaced. -/
def State.setVf (s : State) (die v : Nat) (x : Vf) : State :=
  { s with vfs := tset s.vfs (vfKey die v) (x.after (s.vf die v) s.cycle) }

end Sys2Proof.Machine
end

