-- ==== Sys2Proof/Machine/Sync.lean ====
section
/-! DEFINITION. Synchronisation: semaphores, releases and acquires, the event crossbar, the race detector's vectors,
replay snapshots, and the end of a step (R39, R64, R271, R272, R311 to R315, R421, R435). -/

namespace Sys2Proof.Machine

/-! ### Where a context is (R272, R332) -/

/-- The package-wide number of the cluster whose semaphores a context names (R272). -/
def State.homeCl (s : State) (c : Nat) : Nat :=
  if isRegionId c then (s.ctx c).place.die * 6 + (s.ctx c).place.cluster
  else if isCopyId c then idDie c * 6 + idCluster c
  else idDie c * 6 + (s.ctx c).homeCl

/-- The die on which a context's traps are raised (R389): that of its place, or of its id. -/
def State.ctxDie (s : State) (c : Nat) : Nat := if isRegionId c then (s.ctx c).place.die else idDie c

/-- The launch of a context. -/
def State.launchOf (s : State) (c : Nat) : Option (Nat × Launch) :=
  match (s.ctx c).launch with
  | some l => (tget s.launches l).map fun x => (l, x)
  | none => none

/-- A group of a launch. -/
def Launch.group (l : Launch) (g : Nat) : Group := tgetD l.groups g {}

/-- The groups a context belongs to (R60). -/
def Ctx.groups (x : Ctx) : List Nat := x.members.toList.filterMap id

/-- A group of a launch, by their numbers. -/
def State.group (s : State) (l g : Nat) : Group := (tgetD s.launches l {}).group g

/-- A group of a launch replaced. -/
def State.setGroup (s : State) (l g : Nat) (x : Group) : State :=
  match tget s.launches l with
  | some la => { s with launches := tset s.launches l { la with groups := tset la.groups g x } }
  | none => s

/-! ### The race detector (R435, R436) -/

/-- An agent's vector entry. -/
def vecAt (v : Tbl Nat) (a : Nat) : Nat := tgetD v a 0

/-- Elementwise maximum of two vectors. -/
def vecMax (v w : Tbl Nat) : Tbl Nat := w.foldl (fun v p => tset v p.1 (Nat.max (vecAt v p.1) p.2)) v

/-- A context belongs to a race-detection scope (R435). -/
def State.isAgent (s : State) (c : Nat) : Bool :=
  s.launches.any fun l => l.2.groups.any fun p => bit (BitVec.ofNat 4 p.2.use) 3 && p.2.members.contains c

/-- The detector restarts (R436). -/
def State.raceRestart (s : State) (cl : Nat) : State :=
  let x := s.cl cl
  let r := x.race
  let w := s.reg (cl / 6) 0x67 (cl % 6)
  let n := fld w 0 16
  (s.setCl cl { x with race := { r with front := r.agents.map (fun a => (a, [(a, 1)])), objects := [], records := [] } }
    ).setReg (cl / 6) 0x67 (cl % 6) (setFld (setFld w 60 1 1) 0 16 (if n = 0xFFFF then n else n + 1))
    |>.stamp (regKey (cl / 6) 0x67 (cl % 6)) (2 ^ 60)

/-- A context that joins a race-detection scope, or comes to a cluster with it, becomes a tracked agent of the cluster, up to 64 of
them; those that have left the scope or the cluster are tracked no more (R62, R435). -/
def State.track (s : State) (cl c : Nat) : State :=
  let x := s.cl cl
  let r := x.race
  if r.agents.contains c ∨ !s.isAgent c then s
  else
    let now := r.agents.filter fun a => s.isAgent a && s.homeCl a == cl
    if now.length < 64 then
      let f := tgetD r.front c []
      s.setCl cl { x with race := { r with
        agents := now ++ [c], front := tset r.front c (if vecAt f c = 0 then tset f c 1 else f) } }
    else (s.setReg (cl / 6) 0x67 (cl % 6) (setFld (s.reg (cl / 6) 0x67 (cl % 6)) 61 1 1)).stamp
      (regKey (cl / 6) 0x67 (cl % 6)) (2 ^ 61)

/-- The vector of a release object; none is all zeros. -/
def RaceDet.obj (r : RaceDet) (o : Nat × Nat) : Tbl Nat :=
  match r.objects.find? fun p => p.1 = o with | some p => p.2 | none => []

/-- A release by a context: the object's vector takes the context's; the count of a tracked agent rises (R435).  A context
that is no agent of the cluster passes on the order that it has acquired (R314). -/
def RaceDet.release (r : RaceDet) (c : Nat) (o : Nat × Nat) : RaceDet :=
  let f := tgetD r.front c []
  if f = [] then r
  else { r with
    objects := r.objects.filter (fun p => p.1 ≠ o) ++ [(o, vecMax (r.obj o) f)]
    front := if r.agents.contains c then tset r.front c (tset f c (vecAt f c + 1)) else r.front }

/-- An acquire by a context that observed an object (R435). -/
def RaceDet.acquire (r : RaceDet) (c : Nat) (o : Nat × Nat) : RaceDet :=
  if r.obj o = [] then r else { r with front := tset r.front c (vecMax (tgetD r.front c []) (r.obj o)) }

/-- A change of every cluster's detector that tracks agents: order passes through contexts of other clusters. -/
def State.raceAll (s : State) (f : RaceDet → RaceDet) : State :=
  { s with clusters := s.clusters.map fun p =>
      if p.2.race.agents = [] then p else (p.1, { p.2 with race := f p.2.race }) }

/-- A release updates the object's vector and the agent's count (R435). -/
def State.raceRelease (s : State) (c : Nat) (o : Nat × Nat) : State :=
  let cl := s.homeCl c
  let s1 := s.raceAll fun r => r.release c o
  if vecAt (tgetD (s1.cl cl).race.front c []) c ≥ 0xFFFF then s1.raceRestart cl else s1

/-- An acquire that observed an object raises the context's vector (R435). -/
def State.raceAcquire (s : State) (c : Nat) (o : Nat × Nat) : State :=
  s.raceAll fun r => r.acquire c o

/-- Release objects by kind (R435). -/
def objSem (cl sem : Nat) : Nat × Nat := (0, cl * 256 + sem)
/-- A group barrier as a release object. -/
def objGroup (l g : Nat) : Nat × Nat := (1, l * 256 + g)
/-- A barrier word in a scratchpad as a release object. -/
def objWord (key : Nat) : Nat × Nat := (2, key)
/-- A timeline as a release object. -/
def objTimeline (c : Nat) : Nat × Nat := (3, c)
/-- A victim's reply to a thief as a release object. -/
def objReply (thief : Nat) : Nat × Nat := (6, thief)
/-- A die queue's entries as a release object. -/
def objQueue (die q : Nat) : Nat × Nat := (4, die * 16 + q)

/-! ### Acquires (R311, R315) -/

/-- A physical address of this package's HBM4E (R126). -/
def paHbm (pa : Nat) : Bool := decide (pa < 2 ^ 40)
/-- A physical address of far memory (R126). -/
def paFar (pa : Nat) : Bool := decide (2 ^ 44 ≤ pa ∧ pa < 2 ^ 44 + 2 ^ 43)

/-- The L1s that serve a region context (R311): those of its tiles, or its cluster's when they are fused. -/
def State.servingL1 (s : State) (c : Nat) : List Nat :=
  let x := s.ctx c
  let cl := x.place.die * 6 + x.place.cluster
  if isRegionId c then (if (s.cl cl).fused then (List.range 96).map (cl * 96 + ·) else x.tiles) else []

/-- The lines that an acquire at a scope drops leave the L1s that serve a context (R311, R315, R320). -/
def State.dropL1 (s : State) (c : Nat) (sc : Scope) : State :=
  let drop (e : L1Sector) : Bool := match sc with
    | .cluster => false
    | .die => paHbm (e.sector * 48)
    | _ => true
  let ls := s.servingL1 c
  { s with l1 := s.l1.filter fun e => !(ls.contains e.pt && drop e) }

/-- An acquire by a context that observed an object. -/
def State.acquire (s : State) (c : Nat) (sc : Scope) (o : Nat × Nat) : State := (s.raceAcquire c o).dropL1 c sc

/-! ### The event crossbar (R64, R282) -/

/-- A product term is true, given the pulses of this instant (R282). -/
def Crossbar.term (x : Crossbar) (pulses : List Nat) (t : Nat) : Bool :=
  match tget x.terms t with
  | none => false
  | some (w, inv) =>
    let used := (List.range 8).filter fun j => bit w (8 * j + 7)
    !used.isEmpty && used.all fun j =>
      let sel := fld w (8 * j) 7
      let v := if sel < 32 then x.reached.contains sel else pulses.contains (sel - 32)
      v != bit inv j

/-- The start outputs whose OR is true. -/
def Crossbar.highs (x : Crossbar) (pulses : List Nat) : List Nat :=
  (x.outputs.filter fun p => bit p.2 16 && (List.range 16).any fun t => bit p.2 t && x.term pulses t).map (·.1)

/-- The outputs whose OR rises in a CYCLE join those to be delivered; the level is kept (R64). -/
def Crossbar.eval (x : Crossbar) (pulses : List Nat) : Crossbar :=
  let h := x.highs pulses
  { x with level := h, rising := x.rising ++ h.filter (fun o => !x.level.contains o) }

/-- A counter counts a pulse (R64); a count without RELOAD stays at its greatest value. -/
def Crossbar.count (x : Crossbar) (k : Nat) (w : Word64) : Crossbar :=
  let n := Nat.min (tgetD x.counts k 0 + 1) 0xFFFF
  if n ≥ fld w 6 16 then
    { x with reached := markAdd x.reached k, counts := tset x.counts k (if bit w 22 then 0 else n) }
  else { x with counts := tset x.counts k n }

/-- A source pulses: every counter of an input that selects it counts, and the inputs' pulses last to the end of the
CYCLE, when the outputs are evaluated (R64). -/
def State.xpulse (s : State) (cl src sel : Nat) : State :=
  let y := s.cl cl
  let x := y.xbar
  let ins := (x.inputs.filter fun p => decide (fld p.2 0 3 = src ∧ fld p.2 3 8 = sel)).map (·.1)
  if ins = [] then s
  else
    let x1 := x.counters.foldl (fun x p => if ins.contains (fld p.2 0 6) then x.count p.1 p.2 else x) x
    s.setCl cl { y with xbar := { x1 with pulses := x1.pulses ++ ins } }

/-- An element of the crossbar written, its reserved bits at 0: a counter keeps its count unless CLEAR is 1 (R8, R282). -/
def Crossbar.write (x : Crossbar) (n : Nat) (v : Word64) (inv : BitVec 8) : Crossbar :=
  let low (k : Nat) : Word64 := v &&& BitVec.ofNat 64 (2 ^ k - 1)
  if n < 64 then { x with inputs := tset x.inputs n (low 11) }
  else if n < 96 then
    let k := n - 64
    if bit v 23 then
      { x with counters := tset x.counters k (low 24), counts := tset x.counts k 0, reached := markDel x.reached k }
    else { x with counters := tset x.counters k (low 24) }
  else if n < 112 then { x with terms := tset x.terms (n - 96) (v, inv) }
  else { x with outputs := tset x.outputs (n - 112) (low 25) }

/-- A CYCLE ends: the outputs are evaluated over its pulses, and the elements written in it act from the next (R64, R282). -/
def Crossbar.endCycle (x : Crossbar) : Crossbar :=
  x.writes.foldl (fun x w => x.write w.1 w.2.1 w.2.2) { x.eval x.pulses with pulses := [], writes := [] }

/-- `n` CYCLEs end, the first with the pulses that have come, the others with none: every level has fallen by the second,
unless it holds without a pulse (R64). -/
def Crossbar.pass (x : Crossbar) (n : Nat) : Crossbar :=
  if n ≤ 1 then x.endCycle else x.endCycle.endCycle

/-! ### Semaphores (R271, R345) -/

/-- The count of a semaphore. -/
def State.sem (s : State) (cl k : Nat) : Nat := tgetD (s.cl cl).sems k 0

/-- The count of a semaphore set. -/
def State.setSem (s : State) (cl k n : Nat) : State :=
  let x := s.cl cl
  s.setCl cl { x with sems := tset x.sems k n }

/-- The number is in use by another team while its owner is swapped out: a team that owns it, is on the cluster, and has the
context as a member (R345). -/
def State.ownsIn (s : State) (c cl k : Nat) : Bool :=
  match s.launchOf c with
  | none => false
  | some (_, la) => la.groups.any fun g =>
      !g.2.out && decide (g.2.cluster = cl) && g.2.sems.contains k && g.2.members.contains c

/-- The swapped-out team at whose semaphore an operation of a context is directed (R345): one of its own launch that owns the
number, of any launch for a context of none.  The number itself is free, so an operation of another launch, or of a team
that owns it meanwhile, is on the semaphore (log entry 70). -/
def State.teamOut (s : State) (c cl k : Nat) : Option (Nat × Nat × Group) :=
  if s.ownsIn c cl k then none
  else s.launches.findSome? fun l =>
    if (s.ctx c).launch.isSome ∧ (s.ctx c).launch ≠ some l.1 then none
    else l.2.groups.findSome? fun g =>
      if g.2.out && decide (g.2.cluster = cl) && g.2.sems.contains k then some (l.1, g.1, g.2) else none

/-- A trap of a controller command that had completed: the context is held at its next command; a supervisor goes on, and
nothing is queued (R416). -/
def State.trapAfter (s : State) (c cause : Nat) (info : Word64) : State :=
  if isSupId c then s
  else (s.modCtx c fun x => { x with trapped := some cause, trapAfter := true }).raise (s.ctxDie c)
    { cause := cause, ctx := c, info := info }

/-- The place of an operation in the order of R271: SEMSET writes by context id, increments, consuming waits by context
id, other waits. -/
def semPlace (rank c : Nat) : Nat := rank * 65536 + c

/-- The operations that reach a semaphore in this CYCLE so far stand before a place of R271's order. -/
def State.semTurn (s : State) (cl k place : Nat) : Bool :=
  let x := s.cl cl
  decide (x.semAt ≠ s.cycle ∨ tgetD x.semOps k 0 ≤ place)

/-- An operation reaches a semaphore in this CYCLE. -/
def State.semNote (s : State) (cl k place : Nat) : State :=
  let x := s.cl cl
  s.setCl cl { x with semAt := s.cycle, semOps := tset (if x.semAt = s.cycle then x.semOps else []) k place }

/-- An increment is applied to a semaphore, or to the saved image of a team that owns it; past 0xFFFF the count stays
there and the overflow traps `c` (R271, R345, R416). -/
def State.semAdd (s : State) (c cl k inc : Nat) (info : Word64) : State :=
  match s.teamOut c cl k with
  | some (l, g, x) =>
    let n := tgetD x.image k 0 + inc
    let s1 := s.setGroup l g { x with image := tset x.image k (Nat.min n 0xFFFF) }
    if n > 0xFFFF then s1.trapAfter c causeUnassigned info else s1
  | none =>
    let n := s.sem cl k + inc
    let s1 := ((s.setSem cl k (Nat.min n 0xFFFF)).xpulse cl 3 k).semNote cl k (semPlace 2 0)
    if n > 0xFFFF then s1.trapAfter c causeUnassigned info else s1

/-- An increment reaches a semaphore: in this CYCLE, or in the next when a wait has already been tested in this one
(R271).  An increment of 0 changes nothing. -/
def State.semInc (s : State) (c cl k inc : Nat) (info : Word64) : State :=
  if inc = 0 then s
  else if s.semTurn cl k (semPlace 2 0) then s.semAdd c cl k inc info
  else
    let x := s.cl cl
    s.setCl cl { x with late := x.late ++ [(k, inc, c, info)] }

/-- The regions whose monitor counts, of those at one end of elastic buffers with so many tokens or more: the receiving one, or
the sending one (R30, R364, R367). -/
def State.pressed (s : State) (n : Nat) (input : Bool) : List (Nat × Nat) :=
  let ends : List (BufId × Nat) := s.elastic.map (fun p => (p.1, p.2.length)) ++ s.elasticCtl.map (fun p => (p.1, p.2.length))
  let tile (b : BufId) : Option Nat := match b with
    | .elastic pt t => if input then some pt else neighbour pt (t.toNat / 8)
    | .elasticCtl pt t => if input then some pt else neighbour pt (t.toNat / 8)
    | _ => none
  ((((ends.filter fun p => decide (n ≤ p.2)).filterMap fun p => tile p.1).map fun pt => (ptDie pt, vfNo pt)).dedup).filter fun r =>
    bit (s.reg r.1 0x48 r.2) 24

/-- The monitors count the cycles that pass (R367). -/
def State.monitor (s : State) (n : Nat) : State :=
  let s1 := (s.pressed 12 true).foldl (fun t r => t.setVf r.1 r.2 { t.vf r.1 r.2 with
    full := (t.vf r.1 r.2).full + n * (t.vf r.1 r.2).fcode }) s
  (s1.pressed 16 false).foldl (fun t r => t.setVf r.1 r.2 { t.vf r.1 r.2 with
    blocked := (t.vf r.1 r.2).blocked + n * (t.vf r.1 r.2).fcode }) s1

/-- CYCLE counts on by `n`: the records of the CYCLE that ends are placed, the crossbars see its pulses, and increments that
came after a wait reach their semaphores (R7, R32, R64, R271, R406). -/
def State.tick (s : State) (n : Nat) : State :=
  let s0 := s.placeErrs
  let s1 : State := { (s0.monitor n) with cycle := s0.cycle + n, hwSet := [], clusters := s0.clusters.map fun p =>
    (p.1, { p.2 with xbar := p.2.xbar.pass n, late := [], semOps := [] }) }
  s.clusters.foldl (fun t p => p.2.late.foldl (fun t i => t.semAdd i.2.2.1 p.1 i.1 i.2.1 i.2.2.2) t) s1

/-! ### Releases (R313, R314) -/

/-- A request has been performed (R261). -/
def MuReq.performed (r : MuReq) : Bool :=
  match r.st with
  | .done => true
  | _ => false

/-- The requests that a memory unit holds. -/
def Mu.reqs (m : Mu) : List MuReq := m.items.filterMap fun i => match i with | .req r => some r | _ => none

/-- The scopes nest (R311). -/
def scopeRank : Scope → Nat
  | .cluster => 0 | .die => 1 | .device => 2 | .system => 3

/-- A release at a scope waits for a request of the context: a read at every scope, a write by the space that it goes to
(R311); an ordering request has no access of its own. -/
def MuReq.heldAt (r : MuReq) (sc : Scope) : Bool :=
  let track : Bool := match r.st with
    | .fresh | .parked _ => true
    | _ => r.elems.any fun e => match e.spot with | .phys _ _ _ t => t | _ => false
  if r.fn = 5 ∨ r.fn = 6 then false
  else if r.fn = 1 ∨ r.fn = 3 ∨ r.fn = 8 ∨ r.fn = 9 then
    match fld (r.lt.getD 1 0) 0 3 with
    | 0 | 1 | 2 => true
    | 3 => track || decide (1 ≤ scopeRank sc)
    | 6 => decide (2 ≤ scopeRank sc)
    | 7 => decide (1 ≤ scopeRank sc)
    | _ => decide (3 ≤ scopeRank sc)
  else true

/-- Every access of the context's steps before step number `n` that a release at a scope covers has been performed or
bound (R311, R314). -/
def State.covered (s : State) (c n : Nat) (sc : Scope) : Bool :=
  !isRegionId c || (s.ctx c).off ||
  (s.ctx c).tiles.all fun pt => [false, true].all fun u =>
    (s.mu pt u).reqs.all fun r => decide (n ≤ r.step) || r.performed || !r.heldAt sc

/-- A release's effect: an increment of a semaphore of the context's cluster, or an advance of its timeline. -/
def State.applyRel (s : State) (c : Nat) (e : RelEff) : State :=
  match e with
  | .inc k n info =>
    let cl := s.homeCl c
    (s.raceRelease c (objSem cl k)).semInc c cl k n info
  | .advance n => (s.raceRelease c (objTimeline c)).modCtx c fun x => { x with timeline := (x.timeline + n) % 2 ^ 64 }

/-- A release by a context: it takes effect now, or is held back until its covered accesses are performed (R314). -/
def State.release (s : State) (c : Nat) (sc : Scope) (e : RelEff) : State :=
  let x := s.ctx c
  if s.covered c x.stepNo sc then s.applyRel c e
  else s.setCtx c { x with rel := x.rel ++ [⟨x.stepNo, sc, e⟩] }

/-- The held-back releases of a context that can take effect do, in their order; those of a suspended context wait for
its restore, and those of a FAULTED one for its rollback (R314, R324, R420). -/
def State.releases (s : State) (c : Nat) : State :=
  let x := s.ctx c
  if x.st = .suspended ∨ x.st = .faulted then s
  else
    let ready (r : Release) : Bool := s.covered c r.step r.scope
    (x.rel.filter ready).foldl (fun t r => t.applyRel c r.eff) (s.setCtx c { x with rel := x.rel.filter fun r => !ready r })

/-- A signal field of a command that has completed is sent (R268 step 6). -/
def State.signal (s : State) (c : Nat) (g : Signal) : State :=
  if g.inc = 0 then s else s.release c g.scope (.inc g.sem g.inc g.info)

/-! ### The end of a command (R268, R270) -/

/-- An X register written. -/
def Ctx.setX (x : Ctx) (k : XReg) (v : Word64) : Ctx := { x with xregs := x.xregs.set k v }

/-- An X register. -/
def Ctx.getX (x : Ctx) (k : XReg) : Word64 := x.xregs[k]

/-- The next register: XD + 1. -/
def xnext (k : XReg) (n : Nat) : XReg := Fin.ofNat 16 (k.val + n)

/-- The sequencer moves past a command of `len` parcels. -/
def Ctx.past (x : Ctx) (len : Nat) : Ctx :=
  { x with pc := x.pc + len, waitDone := false, ownDone := false, ownVal := 0, waitFor := .none, hold := .none
           stealSent := false, stealGot := none, noDeadline := false }

/-- A command that held its sequencer completes: the sequencer moves on and the signal is sent. -/
def State.complete (s : State) (c : Nat) : State :=
  let x := s.ctx c
  (s.setCtx c (x.past x.holdLen)).signal c x.holdSig

/-- BARI completes: its mark goes to XD (R269, R286). -/
def State.completeBari (s : State) (c : Nat) (d : XReg) (m : Nat) : State :=
  (s.modCtx c fun x => x.setX d (BitVec.ofNat 64 m)).complete c

/-! ### Replay snapshots (R421) -/

/-- The key of a unit (R21). -/
def unitKey (pt unit : Nat) : Nat := pt * 8 + unit

/-- Something that a rollback cannot undo has happened in a region's name, at none of its units (R422). -/
def Ctx.breakAll (x : Ctx) : Ctx :=
  { x with marks := x.marks.map fun p => (p.1, { p.2 with broken := true })
           replay := x.replay.map fun p => (p.1, { p.2 with broken := true }) }

/-- Something that a rollback cannot undo has happened at a unit: it breaks every mark that has passed the unit (R422). -/
def Ctx.breakReplay (x : Ctx) (key : Nat) : Ctx :=
  { x with
    marks := x.marks.map fun p => if (tget p.2.units key).isSome then (p.1, { p.2 with broken := true }) else p
    replay := x.replay.map fun p => (p.1, { p.2 with broken := true }) }

/-- A snapshot of a compute unit is recorded as the barrier token of a mark leaves it (R421). -/
def State.snapMark (s : State) (pt : Nat) (u : Bool) (t : Token) : State :=
  if t.kind == .barrier then
    match s.owner pt with
    | none => s
    | some c =>
      let x := s.ctx c
      let m := elemAt t.payload 32 0
      match tget x.marks m with
      | none => s
      | some r =>
        let cu := s.cu pt u
        let sn : UnitSnap := ⟨cu.sRegs, cu.pos, cu.flags, cu.reptDone⟩
        s.setCtx c { x with marks := tset x.marks m { r with units := tset r.units (unitKey pt (cuUnit u)) sn } }
  else s

/-- A token enters the region at one of its inputs: every mark that has passed the input records it, 4096 at most; a
mark that comes to the input starts its buffer there (R421). -/
def Ctx.recordIn (x : Ctx) (key : Nat) (t : Token) : Ctx :=
  let add (r : Replay) : Replay :=
    match tget r.streams key with
    | none => r
    | some l => if l.length < 4096 then { r with streams := tset r.streams key (l ++ [t]) } else { r with overflow := true }
  let x1 := { x with marks := x.marks.map (fun p => (p.1, add p.2)), replay := x.replay.map fun p => (p.1, add p.2) }
  if t.kind == .barrier then
    let m := elemAt t.payload 32 0
    match tget x1.marks m with
    | some r => { x1 with marks := tset x1.marks m { r with streams := tset r.streams key [] } }
    | none => x1
  else x1

/-! ### Sinks and the end of a step (R39, R40, R54, R286) -/

/-- The consumer code of an input of a compute unit (R191). -/
def cuCode (u : Bool) (k : Nat) : Nat := (if u then 0x26 else 0x20) + k

/-- The key of a unit input: its tile and consumer code. -/
def sinkKey (pt code : Nat) : Nat := pt * 64 + code

/-- The pending-consumer mask of an input port; 0 reads as 0b0001 (R188). -/
def Cu.mask (c : Cu) (k : Nat) : BitVec 4 :=
  let m := fld c.cfg (64 + 4 * k) 4
  if m = 0 then 1 else BitVec.ofNat 4 m

/-- The head of a buffer for a consumer's bit: the first entry in which the bit is pending (R48). -/
def headFor (es : List Entry) (b : Fin 4) : Option Token :=
  (es.find? fun e => e.pend.getLsbD b.val).map (·.tok)

/-- The step of a context ends: its timeline advances and RUN's signal is sent (R39, R270). -/
def State.stepEnd (s : State) (c : Nat) : State :=
  let x := s.ctx c
  let s1 := s.setCtx c { x with
    timeline := (x.timeline + 1) % 2 ^ 64, stepOn := false, stepNo := x.stepNo + 1, sinksDone := [], runSignal := none }
  let s2 := match x.runSignal with | some g => s1.signal c g | none => s1
  s2.xpulse (s.homeCl c) 2 (idLocal c)

/-- Every loop of the region that rotates has stopped (R85). -/
def Ctx.loopsStopped (x : Ctx) : Bool := x.loops.all fun l => !l.2.running || l.2.stopped

/-- The step ends when every sink has its EOS and every loop has stopped (R39, R85); no step of a FAULTED context ends
(R420). -/
def State.stepCheck (s : State) (c : Nat) : State :=
  let x := s.ctx c
  if x.st != .faulted && x.stepOn && !x.sinks.isEmpty && (x.sinks.all fun k => x.sinksDone.contains k) && x.loopsStopped then s.stepEnd c
  else s

/-- A mark has reached every sink: it becomes the replay mark (R54, R286, R421). -/
def Ctx.markDone (x : Ctx) (m : Nat) : Ctx :=
  { x with
    barOut := x.barOut.filter fun p => p.1 ≠ m
    replay := match tget x.marks m with | some r => some (m, r) | none => x.replay
    marks := x.marks.filter fun p => decide (m < p.1) }

/-- A mark reaches a sink. -/
def Ctx.markHit (x : Ctx) (m key : Nat) : Ctx :=
  match x.barOut.find? fun p => p.1 = m with
  | none => x
  | some p =>
    let ks := markAdd p.2 key
    let x1 := { x with barOut := x.barOut.map fun q => if q.1 = m then (m, ks) else q }
    if x.sinks.all fun k => ks.contains k then x1.markDone m else x1

/-- Where unit (pt, u) finds its input Ik: its own port, or the other unit's port that it taps (R49), with the bit
that stands for it. -/
def State.portOf (s : State) (pt : Nat) (u : Bool) (k : Fin 6) : Bool × Fin 4 :=
  if (s.cu pt (!u)).mask k.val |>.getLsbD 1 then (!u, 1) else (u, 0)

/-- The consumer as which a port of a unit is a sink: MU0, whose request input it is, else the owner; none where only
other taps read it (R40, R49). -/
def Cu.sinkBit (c : Cu) (k : Nat) : Option (Fin 4) :=
  if (c.mask k).getLsbD 3 then some 3 else if (c.mask k).getLsbD 0 then some 0 else none

/-- The head of a unit input, as its sink sees it: through the tap, where the input stands on the other unit's port (R39,
R49). -/
def State.sinkHead (s : State) (pt code : Nat) : Option Token :=
  if code < 0x2C then
    let u := decide (0x26 ≤ code)
    let k : Fin 6 := Fin.ofNat 6 (code - (if u then 0x26 else 0x20))
    let p := s.portOf pt u k
    let c := s.cu pt p.1
    if p.1 ≠ u then headFor c.ins[k] p.2
    else match c.sinkBit k.val with
      | some b => headFor c.ins[k] b
      | none => c.ins[k].head?.map (·.tok)
  else if code = 0x2D then (s.mu pt false).buf.head?
  else if code = 0x2E then (s.mu pt true).buf.head?
  else none

/-- A new head stands at a unit input: a sink that holds an EOS has received it, and one that holds a barrier has been
reached by its mark (R39, R54); in a FAULTED context nothing comes of it (R420). -/
def State.headCheck (s : State) (pt code : Nat) : State :=
  match s.owner pt with
  | none => s
  | some c =>
    let x := s.ctx c
    let key := sinkKey pt code
    if x.st != .faulted && x.sinks.contains key then
      match s.sinkHead pt code with
      | some t =>
        if t.kind == .eos then
          if tgetD x.stale key 0 ≠ 0 then s.setCtx c { x with stale := tset x.stale key (tgetD x.stale key 0 - 1) }
          else if x.stepOn then (s.setCtx c { x with sinksDone := markAdd x.sinksDone key }).stepCheck c else s
        else if t.kind == .barrier then
          let m := elemAt t.payload 32 0
          let x1 := x.markHit m key
          let s1 := s.setCtx c x1
          match x.hold with
          | .bari n true d => if n = m ∧ !(x1.barOut.any fun p => p.1 == m) then s1.completeBari c d m else s1
          | _ => s1
        else s
      | none => s
    else s

end Sys2Proof.Machine
end

