-- ==== Sys2Proof/Machine/Ports.lean ====
section
/-! DEFINITION. The buffers of compute units as their consumers see them (R48, R49). -/

namespace Sys2Proof.Machine

/-- A token that is a stream mark. -/
def Token.isMark (t : Token) : Bool := t.kind == .eos || t.kind == .barrier

/-- The stall of a unit: the turn passes and nothing changes. -/
def stall (s : State) : Out := .next s

/-! ### Buffers of compute units -/

/-- The buffer after a consumer has taken its head, and whether an entry was freed (R48). -/
def takeFor (b : Fin 4) : List Entry → List Entry × Bool
  | [] => ([], false)
  | e :: t =>
    if e.pend.getLsbD b.val then
      let p := e.pend &&& ~~~(BitVec.ofNat 4 (2 ^ b.val))
      if p = 0 then (t, true) else ({ e with pend := p } :: t, false)
    else
      let r := takeFor b t
      (e :: r.1, r.2)

/-- The token at the head of input Ik of a compute unit.  R49 says that a tapping unit never peeks: a peek code for a tapped port
reads the port's head and consumes nothing, which is the model's choice (log entry 79). -/
def State.head (s : State) (pt : Nat) (u : Bool) (k : Fin 6) : Option Token :=
  let p := s.portOf pt u k
  headFor (s.cu pt p.1).ins[k] p.2

/-- The consumer of a bit takes the head of a port: an entry whose last bit clears is freed (R48). -/
def State.takePort (s : State) (pt : Nat) (u : Bool) (k : Fin 6) (b : Fin 4) : State :=
  let c := s.cu pt u
  let r := takeFor b c.ins[k]
  let s1 := (s.setCu pt u { c with ins := c.ins.set k r.1 }).touch pt .tok
  let s2 := if r.2 then s1.free (.cuIn pt u k) else s1
  let own : Bool := match c.sinkBit k.val with | some x => x == b | none => r.2
  let s3 := if own then s2.headCheck pt (cuCode u k.val) else s2
  if b = 1 then s3.headCheck pt (cuCode (!u) k.val) else s3

/-- The coordinate of a token consumed on an input is remembered, and a mark ends the segment (R242). -/
def Cu.noteCoord (c : Cu) (k : Fin 6) (t : Option Token) : Cu :=
  { c with lastCoord := c.lastCoord.set k (match t with
      | some t => if t.isMark then none else some t.coord
      | none => c.lastCoord[k]) }

/-- Unit (pt, u) consumes the head of its input Ik. -/
def State.take (s : State) (pt : Nat) (u : Bool) (k : Fin 6) : State :=
  let p := s.portOf pt u k
  let s1 := s.setCu pt u ((s.cu pt u).noteCoord k (s.head pt u k))
  s1.takePort pt p.1 k p.2

/-- The control token at the head of Qk. -/
def State.ctlHead (s : State) (pt : Nat) (u : Bool) (k : Fin 4) : Option Bool := (s.cu pt u).qs[k].head?

/-- The control token at the head of Qk is consumed (R45). -/
def State.ctlTake (s : State) (pt : Nat) (u : Bool) (k : Fin 4) : State :=
  let c := s.cu pt u
  ((s.setCu pt u { c with qs := c.qs.set k c.qs[k].tail }).touch pt .ctl).free (.cuQ pt u k)

end Sys2Proof.Machine
end

