-- ==== Sys2Proof/Machine/Operands.lean ====
section
/-! DEFINITION. Operands of element instructions, and the firing of one (R45, R52 to R54, R178, R201 to R204, R232 to
R235).

`fireElem` is the one shared firing: heads, marks, gate, credits, then the operation's own `Fire`, then its effects
together.  An operation that has stream-mark rules of its own is written over the same pieces in Streams.lean. -/

namespace Sys2Proof.Machine

/-- The mark that every head holds, if they all hold one, with the POISON of any of them (R43, R52, R54).  Barriers with
different mark numbers pass as the first (log entry 13). -/
def commonMark (hs : List Token) : Option Token :=
  match hs with
  | [] => none
  | t :: _ =>
    if (hs.all fun h => h.kind == .eos) || (hs.all fun h => h.kind == .barrier) then
      some { t with poison := hs.any (·.poison) }
    else none

end Sys2Proof.Machine

namespace Sys2Proof

open Machine

/-- The input that a source code names, and whether it is consumed. -/
def srcInput : Src → Option (Fin 6 × Bool)
  | .inp k => some (k, true)
  | .peek k => some (k, false)
  | _ => none

/-- The inputs an instruction reads, in the order A, B, C. -/
def EView.inputs (v : EView) : List (Fin 6 × Bool) := [v.a, v.b, v.c].filterMap srcInput

/-- The ports it consumes, each once (R176). -/
def EView.consumed (v : EView) : List (Fin 6) := ((v.inputs.filter (·.2)).map (·.1)).dedup

/-- The output ports that a firing sends its result on: D and the bits of OMASK, each once (R178). -/
def EView.outs (v : EView) : List Nat :=
  (List.range 4).filter fun k => (v.d == .out (Fin.ofNat 4 k)) || v.m.omask.getLsbD k

/-- CMODE and ZP of a condition (R208). -/
def EView.cmode (v : EView) : Nat := natBits v.m.imm.toNat 2 2
/-- The control output ZP of a condition (R208). -/
def EView.zp (v : EView) : Fin 4 := Fin.ofNat 4 (natBits v.m.imm.toNat 0 2)

/-- The mark that makes this an EOS or barrier firing: every head it reads holds it, and it consumes an input (R52,
R54, R233). -/
def EView.markOf (v : EView) (hs : List Token) : Option Token :=
  if v.consumed = [] then none else commonMark hs

/-- Some heads hold a mark and others do not, or they differ (R53): the instruction does not fire.  Without a
consumed input the marks are read as they stand (R233). -/
def EView.mixed (v : EView) (hs : List Token) : Bool := hs.any Token.isMark && v.consumed != []

end Sys2Proof

namespace Sys2Proof.Machine

/-- What an operand code gives a firing (R201). -/
inductive OpVal where
  | tok (t : Token)
  | reg (r : BitVec 32)
  | zero
  | none
  deriving DecidableEq, Repr

/-- Element `i` of width `w` of an operand (R201): a register's low `w` bits, for every `i`. -/
def OpVal.elem (w : Nat) (o : OpVal) (i : Nat) : Nat :=
  match o with
  | .tok t => elemAt t.payload w i
  | .reg r => r.toNat % 2 ^ w
  | .zero | .none => 0

/-- The operand as a scalar: a raw 32-bit value (R232). -/
def OpVal.scalar (o : OpVal) : Nat :=
  match o with
  | .tok t => elemAt t.payload 32 0
  | .reg r => r.toNat
  | .zero | .none => 0

/-- The operand as a payload: a register is broadcast in its elements of width `w`. -/
def OpVal.payload (w : Nat) (o : OpVal) : Payload :=
  match o with
  | .tok t => t.payload
  | .reg r => payloadOf w (List.replicate (512 / w) r.toNat)
  | .zero | .none => 0

/-- The operand is given. -/
def OpVal.given : OpVal → Bool
  | .none => false
  | _ => true

/-- The operands and registers that a firing reads. -/
structure Opnds where
  a : OpVal
  b : OpVal
  c : OpVal
  cRegs : Vector (BitVec 32) 8
  sRegs : Vector (BitVec 32) 8
  deriving DecidableEq, Repr

/-- What a DATA firing does, before its destinations are named. -/
structure Fire where
  /-- The result token's payload, if there is a result. -/
  out   : Option Payload := none
  /-- A token passed through, which keeps its sideband (R234). -/
  pass  : Option Token := none
  /-- What an S-register destination receives, where it is not element 0 of the result (R202). -/
  whole : Option (BitVec 32) := none
  /-- Other S registers written. -/
  sregs : List (Fin 8 × BitVec 32) := []
  flags : FlagWord := 0
  /-- A control token: output and value (R208). -/
  ctl   : Option (Fin 4 × Bool) := none
  /-- The next position, when the instruction sets it. -/
  jump  : Option Nat := none
  /-- The position stays where it is (R80, R240). -/
  stay  : Bool := false
  /-- The operand slot that is claimed (R133). -/
  claim : Option (Fin 16) := none
  /-- A rollback of the region cannot undo this firing (R422). -/
  breaks : Bool := false
  /-- A request placed on a rotating loop (R78). -/
  req   : Option (Nat × RotReq) := none
  deriving DecidableEq, Repr

/-- WIDTH of a compute unit in bits (R188). -/
def Cu.width (c : Cu) : Nat := match fld c.cfg 30 2 with | 0 => 32 | 1 => 16 | _ => 8
/-- QGPORT (R188). -/
def Cu.qgport (c : Cu) : Fin 4 := Fin.ofNat 4 (fld c.cfg 28 2)
/-- MEMBER (R188). -/
def Cu.member (c : Cu) : Bool := bit c.cfg 27

/-- The reset value of S register `k` (R188). -/
def Cu.srst (c : Cu) (k : Fin 8) : BitVec 32 :=
  let r := fld c.cfg (96 + 4 * k.val) 4
  if r < 8 then 0 else c.cRegs[Fin.ofNat 8 (r - 8)]

/-- The parcel at a store index. -/
def Cu.parcel (c : Cu) (i : Nat) : Parcel := c.store.getD i 0xFFFFFFFF

/-- The position, wrapped to 0 at 48 and at a fill parcel (R174). -/
def Cu.wrap (c : Cu) (i : Nat) : Nat := if i ≥ 48 ∨ fld (c.parcel i) 30 2 = 3 then 0 else i

/-- The first parcels of the instructions of a store, from an index on (R174). -/
def Cu.startsFrom (c : Cu) : Nat → Nat → List Nat
  | 0, _ => []
  | fuel + 1, i =>
    let n := fld (c.parcel i) 30 2
    if i ≥ 48 ∨ n = 3 then [] else i :: c.startsFrom fuel (i + n + 1)

/-- An instruction of the store starts at a parcel (R174). -/
def Cu.startsAt (c : Cu) (i : Nat) : Bool := (c.startsFrom 48 0).contains i

/-- The unit may fire: its region fires, and nothing holds the unit (R45, R47, R73, R209, R419). -/
def State.cuReady (s : State) (pt : Nat) (u : Bool) : Bool :=
  let c := s.cu pt u
  s.active pt && !c.halted && !c.jtabHeld && c.rotj.isNone && !c.member

/-- The value of a source code for unit (pt, u). -/
def State.opVal (s : State) (pt : Nat) (u : Bool) (x : Src) : OpVal :=
  match x with
  | .inp k | .peek k => match s.head pt u k with | some t => .tok t | none => .none
  | .zero => .zero
  | .none => .none
  | .c k => .reg (s.cu pt u).cRegs[k]
  | .s k => .reg (s.cu pt u).sRegs[k]

/-- The operands of an instruction. -/
def State.opnds (s : State) (pt : Nat) (u : Bool) (v : EView) : Opnds :=
  { a := s.opVal pt u v.a, b := s.opVal pt u v.b, c := s.opVal pt u v.c
    cRegs := (s.cu pt u).cRegs, sRegs := (s.cu pt u).sRegs }

/-- The heads of the inputs that an instruction reads; none when one is empty (R45). -/
def State.heads (s : State) (pt : Nat) (u : Bool) (v : EView) : Option (List Token) :=
  v.inputs.foldr (fun k acc => match acc, s.head pt u k.1 with | some l, some t => some (t :: l) | _, _ => none) (some [])

/-- The state with the consumed heads taken. -/
def State.takeAll (s : State) (pt : Nat) (u : Bool) (ks : List (Fin 6)) : State :=
  ks.foldl (fun s k => s.take pt u k) s

/-- The sequencer moves to a position (R45). -/
def State.goto (s : State) (pt : Nat) (u : Bool) (i : Nat) : State :=
  let c := s.cu pt u
  s.setCu pt u { c with pos := c.wrap i }

/-- The sequencer moves past an instruction of `len` parcels. -/
def State.advance (s : State) (pt : Nat) (u : Bool) (len : Nat) : State := s.goto pt u ((s.cu pt u).pos + len)

/-- An S register written. -/
def State.setS (s : State) (pt : Nat) (u : Bool) (k : Fin 8) (x : BitVec 32) : State :=
  let c := s.cu pt u
  s.setCu pt u { c with sRegs := c.sRegs.set k x }

/-- Sticky flags set (R7, R101). -/
def State.flag (s : State) (pt : Nat) (u : Bool) (f : FlagWord) : State :=
  let c := s.cu pt u
  let s1 := s.setCu pt u { c with flags := c.flags ||| f }
  if f = 0 then s1 else s1.stamp (flagKey pt u) f.toNat

/-- The result of a gate (R235): the instruction fires, waits, or skips. -/
inductive Gate where
  | fire | wait | skip
  deriving DecidableEq, Repr

/-- What QG does with the control token at QGPORT (R235). -/
def gate (q : Qg) (head : Option Bool) : Gate :=
  match q, head with
  | .none, _ => .fire
  | _, none => .wait
  | .qany, some _ => .fire
  | .qt, some b => if b then .fire else .skip
  | .qf, some b => if b then .skip else .fire

/-- The control token of a gate is consumed. -/
def State.takeGate (s : State) (pt : Nat) (u : Bool) (q : Qg) : State :=
  match q with
  | .none => s
  | _ => s.ctlTake pt u (s.cu pt u).qgport

/-- The sideband of a result: SLOT and COORD of the first input operand, POISON the OR of all (R203). -/
def resultToken (p : Payload) (hs : List Token) : Token :=
  dataToken p ((hs.head?.map (·.slot)).getD 0) ((hs.head?.map (·.coord)).getD 0) (hs.any (·.poison))

/-- The token that a firing emits: its result with R203's sideband, or the token it passes (R234). -/
def Fire.token (f : Fire) (hs : List Token) : Option Token :=
  match f.pass with
  | some t => some { t with poison := hs.any (·.poison) }
  | none => f.out.map fun p => resultToken p hs

/-- What an S-register destination of width `w` receives (R202). -/
def Fire.sreg (f : Fire) (w : Nat) : BitVec 32 :=
  match f.whole with
  | some x => x
  | none =>
    match f.pass, f.out with
    | some t, _ => BitVec.ofNat 32 (elemAt t.payload w 0)
    | none, some p => BitVec.ofNat 32 (elemAt p w 0)
    | none, none => 0

/-- Every S register that a firing writes: its destination and the others. -/
def Fire.writes (f : Fire) (v : EView) : List (Fin 8 × BitVec 32) :=
  (match v.d with | .s k => [(k, f.sreg (fmtWidth v.m.ty))] | _ => []) ++ f.sregs

/-- A slot claimed: its next generation (R133, R134). -/
def Slot.claim (x : Slot) : Slot := { x with st := .claimed, gen := x.gen + 1, written := 0 }

/-- The claim number of a slot (R133). -/
def claimNo (k : Nat) (x : Slot) : Nat := 16 * k + x.gen.toNat

/-- The compute units of a region. -/
def Ctx.units (x : Ctx) : List (Nat × Bool) := x.tiles.flatMap fun pt => [(pt, false), (pt, true)]

/-- The entry unit of a loop of a region (R70, R188). -/
def State.loopEntry (s : State) (c l : Nat) : Option (Nat × Bool) :=
  (s.ctx c).units.find? fun p =>
    let g := (s.cu p.1 p.2).cfg
    bit g 27 && bit g 26 && decide (fld g 23 3 = l)

/-- The slot count S of a loop; 1 where the region has no such loop. -/
def State.loopSlots (s : State) (c l : Nat) : Nat :=
  match s.loopEntry c l with
  | some p => Nat.max 1 (fld (s.cu p.1 p.2).cfg 7 7)
  | none => 1

/-- The switch-box hops between two tiles of a region. -/
def hopsBetween (a b : Nat) : Nat :=
  (ptX a - ptX b) + (ptX b - ptX a) + (ptY a - ptY b) + (ptY b - ptY a)

/-- The tile that a request from `pt` to the entry tile `e` reaches by its first `k` hops: along the row first, then along the
column (log entry 13). -/
def hopTile (pt e k : Nat) : Nat :=
  let dx := (ptX pt - ptX e) + (ptX e - ptX pt)
  let x := if ptX pt ≤ ptX e then ptX pt + Nat.min k dx else ptX pt - Nat.min k dx
  let y := if ptY pt ≤ ptY e then ptY pt + (k - dx) else ptY pt - (k - dx)
  ptCl pt * 96 + y * 8 + x

/-- The hops of a request up to the border into the loop's voltage-frequency region: all but those between tiles of it at the
end of its way. -/
def hopsBefore (pt e : Nat) : Nat :=
  let h := hopsBetween pt e
  match (List.range (h + 1)).reverse.find? fun k => ptVf (hopTile pt e k) ≠ ptVf e with
  | some k => k + 1
  | none => 0

/-- The count of the loop's clock at which a request that a unit fires now reaches the queue (R79; log entry 13).  From another
voltage-frequency region, the firing cycle and the hops up to the border are cycles of the unit's clock, counted in whole cycles
of the loop's, and the elastic buffer adds 4. -/
def State.requestDue (s : State) (c l pt : Nat) : Nat :=
  let e := match s.loopEntry c l with | some e => e.1 | none => pt
  let n := (tgetD (s.ctx c).loops l {}).count
  if ptVf pt = ptVf e then n + 1 + hopsBetween pt e
  else
    let hb := hopsBefore pt e
    let f (p : Nat) : Nat := (s.vf (ptDie p) (vfNo p)).fcode
    n + ((1 + hb) * f e + f pt - 1) / f pt + 4 + (hopsBetween pt e - hb)

/-- The effects of a firing beyond its unit: a claimed slot, a request towards a loop, what a rollback cannot undo. -/
def State.firedRegion (s : State) (pt : Nat) (u : Bool) (v : EView) (f : Fire) : State :=
  let s1 := match f.claim with
    | some k => let m := s.mx pt; s.setMx pt { m with slots := m.slots.set k m.slots[k].claim }
    | none => s
  match s1.owner pt with
  | none => s1
  | some c =>
    let s2 := if f.breaks then s1.modCtx c (·.breakReplay (unitKey pt (cuUnit u))) else s1
    match f.req with
    | none => s2
    | some (l, r) =>
      let x := s2.ctx c
      let lp := tgetD x.loops l {}
      let s3 := s2.setCtx c { x with loops := tset x.loops l { lp with inbound := lp.inbound ++ [⟨s.requestDue c l pt, pt, u, r⟩] } }
      match r with
      | .join _ _ _ | .probe _ _ =>
        let s4 := ((v.outs.map (outCode u)).flatMap (s3.outBufs pt)).foldl State.spend s3
        s4.setCu pt u { s4.cu pt u with rotj := some (Fin.ofNat 8 l) }
      | _ => s3

/-- The effects of a DATA firing on its unit: registers, flags, emission, control token, position. -/
def State.fired (s : State) (pt : Nat) (u : Bool) (v : EView) (f : Fire) (t : Option Token) : State :=
  let s1 := (f.writes v).foldl (fun s w => s.setS pt u w.1 w.2) s
  let s2 := s1.flag pt u f.flags
  let s3 := match t with
    | some tok => s2.emitAll pt (v.outs.map (outCode u)) tok
    | none => s2
  let s4 := match f.ctl with
    | some z => s3.emitCtl pt u z.1.val z.2
    | none => s3
  let s5 := s4.firedRegion pt u v f
  match f.jump with
  | some i => s5.goto pt u i
  | none => if f.stay then s5 else s5.advance pt u v.len

/-- The input port of a source; 0 for one that is no input. -/
def srcPort : Src → Nat
  | .inp k | .peek k => k.val
  | _ => 0

/-- The lowest input port of a firing whose head carries poison (R405). -/
def State.poisonPort (s : State) (pt : Nat) (u : Bool) (v : EView) : Nat :=
  (((v.inputs.map (·.1)).filter fun k => (s.head pt u k).any (·.poison)).map (·.val)).foldl Nat.min 5

/-- Elements of width `w` whose sum of two carries out of the element, or whose difference borrows. -/
def drops (w : Nat) (sub : Bool) (a b : Payload) : Nat :=
  ((List.range (512 / w)).filter fun i =>
    if sub then decide (elemAt a w i < elemAt b w i) else decide (2 ^ w ≤ elemAt a w i + elemAt b w i)).length

/-- The residue that a firing predicts (R398): of a sum or difference from its operands' residues and the carries or borrows
that it drops; of a token that passes its own; of another result by the mirror, the residue that it ought to have. -/
def Fire.predicted (f : Fire) (v : EView) (o : Opnds) : Option Nat :=
  let w := fmtWidth v.m.ty
  let a := o.a.payload w
  let b := o.b.payload w
  let ra := (residueOf a).toNat
  let rb := (residueOf b).toNat
  match v.op with
  | .add | .adds => some ((ra + rb + (255 - drops w false a b % 255)) % 255)
  | .sub | .subs => some ((ra + (255 - rb) + drops w true a b) % 255)
  | _ =>
    match f.pass, f.out with
    | some t, _ => some t.residue.toNat
    | none, some p => some (residueOf p).toNat
    | none, none => none

/-- The tile's unit code and the region's FAULT for a firing that would act on poison (R403). -/
def Fire.consumesPoison (f : Fire) (v : EView) : Bool := !(f.writes v).isEmpty || f.ctl.isSome

/-- A DATA firing: what poison and an injected error do to it, then its effects (R399, R402, R403). -/
def State.fireData (s : State) (pt : Nat) (u : Bool) (v : EView) (hs : List Token) (f : Fire) : State :=
  let k := s.checked pt (cuUnit u) (f.predicted v (s.opnds pt u v))
  if (hs.any (·.poison) || k.2) && f.consumesPoison v then
    k.1.consumePoison pt (cuUnit u) (s.cu pt u).pos (s.poisonPort pt u v)
  else
    let t := (f.token hs).map fun t => if k.2 then { t with poison := true } else t
    ((k.1.takeAll pt u v.consumed).takeGate pt u v.m.qg).fired pt u v f t

/-- A firing on stream marks (R52, R54): the mark is consumed from every consumed input and sent on every output. -/
def State.fireMark (s : State) (pt : Nat) (u : Bool) (v : EView) (t : Token) : State :=
  let s1 := ((s.takeAll pt u v.consumed).emitAll pt (v.outs.map (outCode u)) t).advance pt u v.len
  s1.snapMark pt u t

/-- Every output of the instruction has its credits. -/
def State.outsReady (s : State) (pt : Nat) (u : Bool) (v : EView) : Bool := s.canEmit pt (v.outs.map (outCode u))

/-- The firing of an element instruction whose DATA firing is `f` (R45, R204, R235).  `ready` is a condition of the
instruction's own.  A skip waits for no head (log entry 13). -/
def fireElem (v : EView) (f : Opnds → Fire) (s : State) (ready : Bool := true) : Out :=
  match s.cur with
  | .cu pt u =>
    if s.cuReady pt u then
      let heads := s.heads pt u v
      match heads.bind v.markOf with
      | some t => if s.outsReady pt u v then .next (s.fireMark pt u v t) else stall s
      | none =>
        match gate v.m.qg (s.ctlHead pt u (s.cu pt u).qgport) with
        | .wait => stall s
        | .skip => .next ((s.takeGate pt u v.m.qg).advance pt u v.len)
        | .fire =>
          match heads with
          | none => stall s
          | some hs =>
            let r := f (s.opnds pt u v)
            if !v.mixed hs && ready && s.outsReady pt u v &&
                (match r.ctl with | some z => s.canCtl pt u z.1.val | none => true) then
              .next (s.fireData pt u v hs r)
            else stall s
    else stall s
  | _ => .fault .wrongAgent

end Sys2Proof.Machine
end

