-- ==== Sys2Proof/Machine/Arith.lean ====
section
/-! DEFINITION. Element instructions: arithmetic, conversion and absent handling (08: R209 to R231). -/

namespace Sys2Proof.Machine

/-- A result of `n` elements of width `w`, with the flags of all of them (R101). -/
def elemwise (w n : Nat) (f : Nat → Res) : Fire :=
  let rs := (List.range n).map f
  { out := some (payloadOf w (rs.map (·.1))), flags := rs.foldl (fun a r => a ||| r.2) 0 }

/-- An element-wise result in the instruction's TYPE. -/
def elemwiseTy (v : EView) (f : Nat → Res) : Fire := elemwise (fmtWidth v.m.ty) (512 / fmtWidth v.m.ty) f

/-- Element `i` of A, B and C in TYPE (R201). -/
def Opnds.ea (o : Opnds) (v : EView) (i : Nat) : Nat := o.a.elem (fmtWidth v.m.ty) i
/-- Element `i` of B in TYPE. -/
def Opnds.eb (o : Opnds) (v : EView) (i : Nat) : Nat := o.b.elem (fmtWidth v.m.ty) i
/-- Element `i` of C in TYPE. -/
def Opnds.ec (o : Opnds) (v : EView) (i : Nat) : Nat := o.c.elem (fmtWidth v.m.ty) i

/-- An instruction that emits and writes nothing. -/
def fireNothing (_ : EView) (_ : Opnds) : Fire := {}

/-- An absent integer reads as 0 under ABZ (R104). -/
def abzI (ty : Fmt) (n : Nat) : Int := if isAbsent ty n then 0 else sint (fmtWidth ty) n

/-! ### Integer add (R210) -/

/-- The exact value of an integer-add operation on signed operands, as a numerator over `2^n` (R210). -/
def iaddExact (op : EOp) (x y : Int) : Int :=
  match op with
  | .add | .adds => x + y
  | .sub | .subs => x - y
  | .neg => -x
  | .abs => if x < 0 then -x else x
  | .min => if x < y then x else y
  | .max => if x < y then y else x
  | _ => 0

/-- One element of the integer-add group (R210). -/
def iaddElem (op : EOp) (m : Mods) (x y : Nat) : Res :=
  match op with
  | .minu => (if x < y then x else y, 0)
  | .maxu => (if x < y then y else x, 0)
  | _ =>
    if m.abm = .abp ∧ (isAbsent m.ty x || isAbsent m.ty y) then (absentOf m.ty, 0)
    else
      let n := match op with | .adds | .subs => natBits m.imm.toNat 0 5 | _ => 0
      let q := divPow2 m.rnd (iaddExact op (abzI m.ty x) (abzI m.ty y)) n
      let r := fitInt (fmtWidth m.ty) m.sat q.1
      (r.1, r.2 ||| flagIf (!q.2) flagInx)

/-- The integer-add group (R210). -/
def fireIadd (v : EView) (o : Opnds) : Fire :=
  elemwiseTy v fun i => iaddElem v.op v.m (o.ea v i) (o.eb v i)

/-! ### Integer multiply (R211, R212) -/

/-- One element of MUL, MULH, MULHU and MAD (R211). -/
def imulElem (op : EOp) (m : Mods) (x y z : Nat) : Res :=
  let w := fmtWidth m.ty
  match op with
  | .mulhu => (x * y / 2 ^ w, 0)
  | _ =>
    if m.abm = .abp ∧ (isAbsent m.ty x || isAbsent m.ty y || (op == .mad && isAbsent m.ty z)) then (absentOf m.ty, 0)
    else
      let p := abzI m.ty x * abzI m.ty y
      match op with
      | .mulh => (patternOf w (p / (2 ^ w : Nat)), 0)
      | .mad => fitInt w m.sat (p + abzI m.ty z)
      | _ => fitInt w m.sat p

/-- MUL, MULH, MULHU, MAD (R211). -/
def fireImul (v : EView) (o : Opnds) : Fire :=
  elemwiseTy v fun i => imulElem v.op v.m (o.ea v i) (o.eb v i) (o.ec v i)

/-- The four products of an element of DOT4: their sum and number (R212). -/
def dot4Products (abz : Bool) (o : Opnds) (i : Nat) : Int × Nat :=
  (List.range 4).foldl (fun acc k =>
    let x := o.a.elem 8 (4 * i + k)
    let y := o.b.elem 8 (4 * i + k)
    if abz || !(isAbsent .int8 x || isAbsent .int8 y) then (acc.1 + abzI .int8 x * abzI .int8 y, acc.2 + 1)
    else acc) (0, 0)

/-- DOT4 (R212). -/
def fireDot4 (v : EView) (o : Opnds) : Fire :=
  elemwise 32 16 fun i =>
    let p := dot4Products (v.m.abm == .abz) o i
    if o.c.given then
      let z := o.c.elem 32 i
      if isAbsent .int32 z ∧ v.m.abm = .abp then (absentOf .int32, 0)
      else fitInt 32 v.m.sat (abzI .int32 z + p.1)
    else if p.2 = 0 then (absentOf .int32, 0)
    else (patternOf 32 p.1, 0)

/-! ### Logic, shift and count (R213, R214) -/

/-- One element of the logic group on raw bits of width `w` (R213). -/
def logicElem (op : EOp) (w x y : Nat) : Nat :=
  match op with
  | .and => x &&& y
  | .or => x ||| y
  | .xor => x ^^^ y
  | .not => 2 ^ w - 1 - x
  | _ => x - (x &&& y)

/-- The logic group (R213). -/
def fireLogic (v : EView) (o : Opnds) : Fire :=
  elemwiseTy v fun i => (logicElem v.op (fmtWidth v.m.ty) (o.ea v i) (o.eb v i), 0)

/-- The one bits among the low `w` bits. -/
def popCount (w x : Nat) : Nat := ((List.range w).filter fun i => x.testBit i).length

/-- One element of the shift and count group (R214). -/
def shiftElem (op : EOp) (w x n : Nat) : Nat :=
  match op with
  | .shl => if n ≥ w then 0 else x * 2 ^ n % 2 ^ w
  | .shr => if n ≥ w then 0 else x / 2 ^ n
  | .sar => patternOf w (sint w x / (2 ^ (if n ≥ w then w else n) : Nat))
  | .rol => (x * 2 ^ (n % w) + x / 2 ^ (w - n % w)) % 2 ^ w
  | .clz => if x = 0 then w else w - 1 - Nat.log2 x
  | _ => popCount w x

/-- The shift amount of element `i`: B, or IMM[5:0] where B is 0x07 (R214). -/
def shiftAmount (v : EView) (o : Opnds) (i : Nat) : Nat :=
  if v.b = .none then natBits v.m.imm.toNat 0 6 else o.eb v i

/-- The shift and count group (R214). -/
def fireShift (v : EView) (o : Opnds) : Fire :=
  elemwiseTy v fun i => (shiftElem v.op (fmtWidth v.m.ty) (o.ea v i) (shiftAmount v o i), 0)

/-! ### Conditions (R208, R215, R220, R227) -/

/-- The mask and the control token of a condition (R208). -/
def condFire (v : EView) (flags : FlagWord) (truth : Nat → Bool) : Fire :=
  let w := fmtWidth v.m.ty
  let ts := (List.range (512 / w)).map truth
  let token : Option (Fin 4 × Bool) := match v.cmode with
    | 0 => none
    | 1 => some (v.zp, ts.headD false)
    | 2 => some (v.zp, ts.all id)
    | _ => some (v.zp, ts.any id)
  { out := some (payloadOf w (ts.map fun b => if b then 2 ^ w - 1 else 0)), flags := flags, ctl := token }

/-- One element of CMP.cc (R215). -/
def icmpElem (op : EOp) (m : Mods) (x y : Nat) : Bool :=
  match op with
  | .cmpLtu => decide (x < y)
  | .cmpLeu => decide (x ≤ y)
  | _ =>
    if m.abm = .abp ∧ (isAbsent m.ty x || isAbsent m.ty y) then false
    else
      let a := abzI m.ty x
      let b := abzI m.ty y
      match op with
      | .cmpEq => decide (a = b)
      | .cmpNe => decide (a ≠ b)
      | .cmpLt => decide (a < b)
      | _ => decide (a ≤ b)

/-- CMP.cc (R215). -/
def fireIcmp (v : EView) (o : Opnds) : Fire :=
  condFire v 0 fun i => icmpElem v.op v.m (o.ea v i) (o.eb v i)

/-- One element of FCMP.cc (R220). -/
def fcmpElem (op : EOp) (m : Mods) (x y : Nat) : Bool :=
  if m.abm = .abp ∧ (isAbsent m.ty x || isAbsent m.ty y) then false
  else
    let x := abzF m.ty x
    let y := abzF m.ty y
    if isNan m.ty x || isNan m.ty y then op == .fcmpNe || op == .fcmpUn
    else
      let a := fclass m.ty x
      let b := fclass m.ty y
      match op with
      | .fcmpEq => fvEq a b
      | .fcmpNe => !(fvEq a b)
      | .fcmpLt => fvLt a b
      | .fcmpLe => fvLt a b || fvEq a b
      | _ => false

/-- INV of one element of FCMP.cc (R220). -/
def fcmpInv (op : EOp) (m : Mods) (x y : Nat) : Bool :=
  if m.abm = .abp ∧ (isAbsent m.ty x || isAbsent m.ty y) then false
  else
    let x := abzF m.ty x
    let y := abzF m.ty y
    isSnan m.ty x || isSnan m.ty y || ((op == .fcmpLt || op == .fcmpLe) && (isNan m.ty x || isNan m.ty y))

/-- FCMP.cc (R220). -/
def fireFcmp (v : EView) (o : Opnds) : Fire :=
  let inv := (List.range (512 / fmtWidth v.m.ty)).any fun i => fcmpInv v.op v.m (o.ea v i) (o.eb v i)
  condFire v (flagIf inv flagInv) fun i => fcmpElem v.op v.m (o.ea v i) (o.eb v i)

/-- PRES (R227). -/
def firePres (v : EView) (o : Opnds) : Fire := condFire v 0 fun i => !(isAbsent v.m.ty (o.ea v i))

/-! ### Select (R216) -/

/-- SEL and SELA (R216). -/
def fireSelect (v : EView) (o : Opnds) : Fire :=
  elemwiseTy v fun i =>
    let x := o.ea v i
    let t := if v.op = .sel then decide (x ≠ 0) else !(isAbsent v.m.ty x)
    (if t then o.eb v i else o.ec v i, 0)

/-! ### Floating point (R217 to R219, R221) -/

/-- FN of the arithmetic operations of R217. -/
def fpFn (op : EOp) : Nat := (eopCode op).2

/-- The operands that an arithmetic operation reads (R217). -/
def fpOps (op : EOp) (x y z : Nat) : List Nat :=
  match op with
  | .fadd | .fsub | .fmul => [x, y]
  | _ => [x, y, z]

/-- FADD, FSUB, FMUL, FFMA, FFMS, FNMA (R218). -/
def fireFarith (v : EView) (o : Opnds) : Fire :=
  elemwiseTy v fun i => fArith v.m.ty v.m (fpOps v.op (o.ea v i) (o.eb v i) (o.ec v i)) (fpTerms (fpFn v.op))

/-- One element of FMIN, FMAX, FMINP, FMAXP (R108, R219). -/
def fminmaxElem (op : EOp) (m : Mods) (x y : Nat) : Res :=
  if m.abm = .abp ∧ (isAbsent m.ty x || isAbsent m.ty y) then (absentOf m.ty, 0)
  else
    let a := abzF m.ty x
    let b := abzF m.ty y
    match op with
    | .fmin => fMinMax m.ty false a b
    | .fmax => fMinMax m.ty true a b
    | .fminp => fMinMaxP m.ty false m.nprop a b
    | _ => fMinMaxP m.ty true m.nprop a b

/-- FMIN, FMAX, FMINP, FMAXP (R219). -/
def fireFminmax (v : EView) (o : Opnds) : Fire :=
  elemwiseTy v fun i => fminmaxElem v.op v.m (o.ea v i) (o.eb v i)

/-- One element of FNEG, FABS, FCPS (R219); of FCPS a NaN in B is a NaN operand too, and A's NaN comes first (R101, R218;
log entry 30). -/
def fsignElem (op : EOp) (m : Mods) (x y : Nat) : Res :=
  if m.abm = .abp ∧ (isAbsent m.ty x || (op == .fcps && isAbsent m.ty y)) then (absentOf m.ty, 0)
  else
    let a := abzF m.ty x
    let b := abzF m.ty y
    let mag := a % 2 ^ (manBits m.ty + 8)
    let neg := match op with
      | .fneg => !(fsign m.ty a)
      | .fabs => false
      | _ => fsign m.ty b
    let r := fzero m.ty neg + mag
    let inv := flagIf (isSnan m.ty a || (op == .fcps && isSnan m.ty b)) flagInv
    if isNan m.ty a then (quieted m.ty r, inv)
    else if op == .fcps && isNan m.ty b then (quieted m.ty b, inv)
    else (r, 0)

/-- FNEG, FABS, FCPS (R219). -/
def fireFsign (v : EView) (o : Opnds) : Fire :=
  elemwiseTy v fun i => fsignElem v.op v.m (o.ea v i) (o.eb v i)

/-- The special functions (R221). -/
def fireSfu (v : EView) (o : Opnds) : Fire :=
  elemwiseTy v fun i => sfuElem v.m.ty v.m (eopCode v.op).2 (o.ea v i)

/-! ### Conversion (R222 to R226) -/

/-- The format of an IFMT code (R222, R224). -/
def ifmtOf (n : Nat) : Fmt :=
  match n with
  | 0 => .fp32 | 1 => .bf16 | 2 => .int32 | 3 => .int8 | 4 => .int4 | 5 => .mxint8 | 6 => .mxint4 | _ => .mxfp4

/-- The payload with the bits of one of `r` equal parts replaced (R222). -/
def putPart (base : Payload) (r q : Nat) (bits : Nat) : Payload := setFld base (512 / r * q) (512 / r) bits

/-- CVT (R222). -/
def fireCvt (v : EView) (o : Opnds) : Fire :=
  let src := ifmtOf (natBits v.m.imm.toNat 0 4)
  let pos := natBits v.m.imm.toNat 4 3
  let wi := fmtWidth src
  let wo := fmtWidth v.m.ty
  let conv (n : Nat) : Res := convert src v.m.ty v.m.rnd v.m.sat n
  if wo ≤ wi then
    let r := wi / wo
    let part (x : OpVal) : List Res := (List.range (512 / wi)).map fun i => conv (x.elem wi i)
    let bits (rs : List Res) : Nat := (payloadOf wo (rs.map (·.1))).toNat
    let ra := part o.a
    let base := putPart (o.c.payload wo) r pos (bits ra)
    let rb := if o.b.given then part o.b else []
    { out := some (if o.b.given then putPart base r (pos + 1) (bits rb) else base)
      flags := (ra ++ rb).foldl (fun a x => a ||| x.2) 0 }
  else
    let n := 512 / wo
    elemwise wo n fun j => conv (o.a.elem wi (pos * n + j))

/-- QNT (R223). -/
def fireQnt (v : EView) (o : Opnds) : Fire :=
  let imm := v.m.imm.toNat
  let fp32 := decide (natBits imm 2 1 = 1)
  let src : Fmt := if fp32 then .fp32 else .bf16
  let w := fmtWidth src
  let xs := if fp32 then (List.range 16).map (o.a.elem w) ++ (List.range 16).map (o.c.elem w)
    else (List.range 32).map (o.a.elem w)
  let q := quantBlock src v.m.ty xs
  let we := fmtWidth v.m.ty
  let pos := natBits imm 0 2
  let sr : Fin 8 := Fin.ofNat 8 (natBits imm 8 3)
  { out := some (setFld (o.b.payload we) (32 * we * pos) (32 * we) (payloadOf we q.1).toNat)
    sregs := [(sr, setFld o.sRegs[sr] (8 * pos) 8 q.2.1)]
    flags := q.2.2 }

/-- DQN (R224). -/
def fireDqn (v : EView) (o : Opnds) : Fire :=
  let imm := v.m.imm.toNat
  let src := ifmtOf (natBits imm 0 4)
  let we := fmtWidth src
  let scale := natBits o.b.scalar (8 * natBits imm 6 2) 8
  let first := 32 * natBits imm 4 2 + 16 * natBits imm 8 1
  elemwiseTy v fun j => dequant src v.m.ty scale (o.a.elem we (first + j))

/-- The fold of R116 without accumulation: the signed value of three residues. -/
def rnsFold (a b c : Nat) : Int :=
  let x := (a * 8421376 + b * 16711425 + c * 8421120) % 16776960
  if x ≥ 8388480 then (x : Int) - 16776960 else (x : Int)

/-- RNSF (R225). -/
def fireRnsf (v : EView) (o : Opnds) : Fire :=
  elemwise 32 16 fun i =>
    let x := o.a.elem 32 i
    let y := o.b.elem 32 i
    let z := o.c.elem 32 i
    if v.m.abm = .abp ∧ (isAbsent .int32 x || isAbsent .int32 y || isAbsent .int32 z) then (absentOf .int32, 0)
    else (patternOf 32 (rnsFold (patternMod (abzI .int32 x) 255) (patternMod (abzI .int32 y) 256)
      (patternMod (abzI .int32 z) 257)), 0)
where
  /-- The least non-negative residue. -/
  patternMod (x : Int) (m : Nat) : Nat := (x % (m : Int)).toNat

/-- RNSB (R225). -/
def fireRnsb (v : EView) (o : Opnds) : Fire :=
  let m : Nat := match natBits v.m.imm.toNat 0 2 with | 0 => 255 | 1 => 256 | _ => 257
  elemwise 32 16 fun i =>
    let x := o.a.elem 32 i
    if v.m.abm = .abp ∧ isAbsent .int32 x then (absentOf .int32, 0)
    else ((abzI .int32 x % (m : Int)).toNat, 0)

/-- The exponent of SCALE for element `i`; none where it reads as absent (R226).  Beyond ±600 it changes nothing. -/
def scaleExp (v : EView) (o : Opnds) (i : Nat) : Option Int :=
  let w := fmtWidth v.m.ty
  let clamp (n : Int) : Int := if n < -600 then -600 else if n > 600 then 600 else n
  if v.b = .none then some (clamp (sint 16 v.m.imm.toNat))
  else if o.eb v i = 2 ^ (w - 1) then none
  else some (clamp (sint w (o.eb v i)))

/-- One element of SCALE (R226); SAT turns an infinite operand's result into the largest finite number (R109). -/
def scaleElem (m : Mods) (x : Nat) (n : Option Int) : Res :=
  if m.abm = .abp ∧ (isAbsent m.ty x || n.isNone) then (absentOf m.ty, 0)
  else
    let a := abzF m.ty x
    match fclass m.ty a with
    | .nan s => (nanRes m.ty m.nprop [a], flagIf s flagInv)
    | .num neg k e => if k = 0 then (a, 0) else satF m.ty m.sat (roundRat m.ty m.rnd neg k 1 (e + n.getD 0))
    | _ => satF m.ty m.sat (a, 0)

/-- SCALE (R226). -/
def fireScale (v : EView) (o : Opnds) : Fire :=
  elemwiseTy v fun i => scaleElem v.m (o.ea v i) (scaleExp v o i)

/-! ### Absent handling, random numbers, state (R227 to R231) -/

/-- FILL and MKAB (R227). -/
def fireFill (v : EView) (o : Opnds) : Fire :=
  elemwiseTy v fun i =>
    let x := o.ea v i
    let y := o.eb v i
    if v.op = .fill then (if isAbsent v.m.ty x then y else x, 0)
    else (if y ≠ 0 then absentOf v.m.ty else x, 0)

/-- CNTP (R227). -/
def fireCntp (v : EView) (o : Opnds) : Fire :=
  let n := ((List.range (512 / fmtWidth v.m.ty)).filter fun i => !(isAbsent v.m.ty (o.ea v i))).length
  let total := (n + o.b.scalar) % 2 ^ 32
  { out := some (BitVec.ofNat 512 total), whole := some (BitVec.ofNat 32 total) }

/-- A 64-bit value of a pair of registers, the upper one first. -/
def pair64 (hi lo : BitVec 32) : Nat := hi.toNat * 2 ^ 32 + lo.toNat

/-- RAND (R228). -/
def fireRand (v : EView) (o : Opnds) : Fire :=
  let imm := v.m.imm.toNat
  let sp := natBits imm 0 2
  let cp := natBits imm 2 2
  let lo : Fin 8 := Fin.ofNat 8 (2 * cp)
  let hi : Fin 8 := Fin.ofNat 8 (2 * cp + 1)
  let seed := pair64 o.cRegs[Fin.ofNat 8 (2 * sp + 1)] o.cRegs[Fin.ofNat 8 (2 * sp)]
  let counter := pair64 o.sRegs[hi] o.sRegs[lo]
  let next := (counter + 1) % 2 ^ 64
  let r := elemwiseTy v fun i => (randElem v.m.ty seed counter i, 0)
  { r with sregs := if natBits imm 4 1 = 1 then [(lo, BitVec.ofNat 32 next), (hi, BitVec.ofNat 32 (next / 2 ^ 32))] else [] }

/-- GUMB (R229). -/
def fireGumb (v : EView) (o : Opnds) : Fire :=
  elemwiseTy v fun i =>
    let u := if v.m.ty = .bf16 ∧ i ≥ 16 then o.c.elem 32 (i - 16) else o.b.elem 32 i
    gumbElem v.m.ty v.m.sat v.m.nprop (o.ea v i) u

/-- A 32-bit value delivered whole to an S register and broadcast in its low bits on outputs (R231). -/
def wholeFire (v : EView) (x : BitVec 32) : Fire :=
  { out := some ((OpVal.reg x).payload (fmtWidth v.m.ty)), whole := some x }

/-- LDI (R230, R231). -/
def fireLdi (v : EView) (_ : Opnds) : Fire :=
  wholeFire v (if v.len = 3 then v.lit else v.m.imm.signExtend 32)

/-- MOVS (R230, R231). -/
def fireMovs (v : EView) (o : Opnds) : Fire :=
  match o.a with
  | .tok t => { out := some t.payload }
  | x => wholeFire v (BitVec.ofNat 32 x.scalar)

/-- INCS (R230, R231). -/
def fireIncs (v : EView) (o : Opnds) : Fire :=
  wholeFire v (BitVec.ofNat 32 o.a.scalar + v.m.imm.signExtend 32)

/-! ### The instructions -/

/-- HALT stops the sequencer when it fires (R209). -/
def haltUnit (v : EView) (s : State) : Out :=
  match s.cur with
  | .cu pt u =>
    if s.cuReady pt u then
      match gate v.m.qg (s.ctlHead pt u (s.cu pt u).qgport) with
      | .wait => stall s
      | .skip => .next ((s.takeGate pt u v.m.qg).advance pt u v.len)
      | .fire =>
        let s1 := s.takeGate pt u v.m.qg
        .next (s1.setCu pt u { s1.cu pt u with halted := true })
    else stall s
  | _ => .fault .wrongAgent

/-- NOP (R209). -/
def execNop (s : State) : Out :=
  fireElem (one .nop .none .none .none .none) (fireNothing (one .nop .none .none .none .none)) s

/-- NOP_2P (R209). -/
def execNop2P (m : Mods) (s : State) : Out :=
  fireElem (two .nop .none .none .none .none m) (fireNothing (two .nop .none .none .none .none m)) s

/-- HALT (R209). -/
def execHalt (s : State) : Out :=
  haltUnit (one .halt .none .none .none .none) s

/-- HALT_2P (R209). -/
def execHalt2P (m : Mods) (s : State) : Out :=
  haltUnit (two .halt .none .none .none .none m) s

/-- ADD (R210). -/
def execAdd (d : Dst) (a b : Src) (s : State) : Out :=
  fireElem (one .add d a b .none) (fireIadd (one .add d a b .none)) s

/-- ADD_2P (R210). -/
def execAdd2P (d : Dst) (a b : Src) (m : Mods) (s : State) : Out :=
  fireElem (two .add d a b .none m) (fireIadd (two .add d a b .none m)) s

/-- SUB (R210). -/
def execSub (d : Dst) (a b : Src) (s : State) : Out :=
  fireElem (one .sub d a b .none) (fireIadd (one .sub d a b .none)) s

/-- SUB_2P (R210). -/
def execSub2P (d : Dst) (a b : Src) (m : Mods) (s : State) : Out :=
  fireElem (two .sub d a b .none m) (fireIadd (two .sub d a b .none m)) s

/-- ADDS (R210). -/
def execAdds (d : Dst) (a b : Src) (s : State) : Out :=
  fireElem (one .adds d a b .none) (fireIadd (one .adds d a b .none)) s

/-- ADDS_2P (R210). -/
def execAdds2P (d : Dst) (a b : Src) (m : Mods) (s : State) : Out :=
  fireElem (two .adds d a b .none m) (fireIadd (two .adds d a b .none m)) s

/-- SUBS (R210). -/
def execSubs (d : Dst) (a b : Src) (s : State) : Out :=
  fireElem (one .subs d a b .none) (fireIadd (one .subs d a b .none)) s

/-- SUBS_2P (R210). -/
def execSubs2P (d : Dst) (a b : Src) (m : Mods) (s : State) : Out :=
  fireElem (two .subs d a b .none m) (fireIadd (two .subs d a b .none m)) s

/-- NEG (R210). -/
def execNeg (d : Dst) (a : Src) (s : State) : Out :=
  fireElem (one .neg d a .none .none) (fireIadd (one .neg d a .none .none)) s

/-- NEG_2P (R210). -/
def execNeg2P (d : Dst) (a : Src) (m : Mods) (s : State) : Out :=
  fireElem (two .neg d a .none .none m) (fireIadd (two .neg d a .none .none m)) s

/-- ABS (R210). -/
def execAbs (d : Dst) (a : Src) (s : State) : Out :=
  fireElem (one .abs d a .none .none) (fireIadd (one .abs d a .none .none)) s

/-- ABS_2P (R210). -/
def execAbs2P (d : Dst) (a : Src) (m : Mods) (s : State) : Out :=
  fireElem (two .abs d a .none .none m) (fireIadd (two .abs d a .none .none m)) s

/-- MIN (R210). -/
def execMin (d : Dst) (a b : Src) (s : State) : Out :=
  fireElem (one .min d a b .none) (fireIadd (one .min d a b .none)) s

/-- MIN_2P (R210). -/
def execMin2P (d : Dst) (a b : Src) (m : Mods) (s : State) : Out :=
  fireElem (two .min d a b .none m) (fireIadd (two .min d a b .none m)) s

/-- MAX (R210). -/
def execMax (d : Dst) (a b : Src) (s : State) : Out :=
  fireElem (one .max d a b .none) (fireIadd (one .max d a b .none)) s

/-- MAX_2P (R210). -/
def execMax2P (d : Dst) (a b : Src) (m : Mods) (s : State) : Out :=
  fireElem (two .max d a b .none m) (fireIadd (two .max d a b .none m)) s

/-- MINU (R210). -/
def execMinu (d : Dst) (a b : Src) (s : State) : Out :=
  fireElem (one .minu d a b .none) (fireIadd (one .minu d a b .none)) s

/-- MINU_2P (R210). -/
def execMinu2P (d : Dst) (a b : Src) (m : Mods) (s : State) : Out :=
  fireElem (two .minu d a b .none m) (fireIadd (two .minu d a b .none m)) s

/-- MAXU (R210). -/
def execMaxu (d : Dst) (a b : Src) (s : State) : Out :=
  fireElem (one .maxu d a b .none) (fireIadd (one .maxu d a b .none)) s

/-- MAXU_2P (R210). -/
def execMaxu2P (d : Dst) (a b : Src) (m : Mods) (s : State) : Out :=
  fireElem (two .maxu d a b .none m) (fireIadd (two .maxu d a b .none m)) s

/-- MUL (R211). -/
def execMul (d : Dst) (a b : Src) (s : State) : Out :=
  fireElem (one .mul d a b .none) (fireImul (one .mul d a b .none)) s

/-- MUL_2P (R211). -/
def execMul2P (d : Dst) (a b : Src) (m : Mods) (s : State) : Out :=
  fireElem (two .mul d a b .none m) (fireImul (two .mul d a b .none m)) s

/-- MULH (R211). -/
def execMulh (d : Dst) (a b : Src) (s : State) : Out :=
  fireElem (one .mulh d a b .none) (fireImul (one .mulh d a b .none)) s

/-- MULH_2P (R211). -/
def execMulh2P (d : Dst) (a b : Src) (m : Mods) (s : State) : Out :=
  fireElem (two .mulh d a b .none m) (fireImul (two .mulh d a b .none m)) s

/-- MULHU (R211). -/
def execMulhu (d : Dst) (a b : Src) (s : State) : Out :=
  fireElem (one .mulhu d a b .none) (fireImul (one .mulhu d a b .none)) s

/-- MULHU_2P (R211). -/
def execMulhu2P (d : Dst) (a b : Src) (m : Mods) (s : State) : Out :=
  fireElem (two .mulhu d a b .none m) (fireImul (two .mulhu d a b .none m)) s

/-- MAD (R211). -/
def execMad (d : Dst) (a b c : Src) (s : State) : Out :=
  fireElem (one .mad d a b c) (fireImul (one .mad d a b c)) s

/-- MAD_2P (R211). -/
def execMad2P (d : Dst) (a b c : Src) (m : Mods) (s : State) : Out :=
  fireElem (two .mad d a b c m) (fireImul (two .mad d a b c m)) s

/-- DOT4 (R212). -/
def execDot4 (d : Dst) (a b c : Src) (s : State) : Out :=
  fireElem (one .dot4 d a b c) (fireDot4 (one .dot4 d a b c)) s

/-- DOT4_2P (R212). -/
def execDot42P (d : Dst) (a b c : Src) (m : Mods) (s : State) : Out :=
  fireElem (two .dot4 d a b c m) (fireDot4 (two .dot4 d a b c m)) s

/-- AND (R213). -/
def execAnd (d : Dst) (a b : Src) (s : State) : Out :=
  fireElem (one .and d a b .none) (fireLogic (one .and d a b .none)) s

/-- AND_2P (R213). -/
def execAnd2P (d : Dst) (a b : Src) (m : Mods) (s : State) : Out :=
  fireElem (two .and d a b .none m) (fireLogic (two .and d a b .none m)) s

/-- OR (R213). -/
def execOr (d : Dst) (a b : Src) (s : State) : Out :=
  fireElem (one .or d a b .none) (fireLogic (one .or d a b .none)) s

/-- OR_2P (R213). -/
def execOr2P (d : Dst) (a b : Src) (m : Mods) (s : State) : Out :=
  fireElem (two .or d a b .none m) (fireLogic (two .or d a b .none m)) s

/-- XOR (R213). -/
def execXor (d : Dst) (a b : Src) (s : State) : Out :=
  fireElem (one .xor d a b .none) (fireLogic (one .xor d a b .none)) s

/-- XOR_2P (R213). -/
def execXor2P (d : Dst) (a b : Src) (m : Mods) (s : State) : Out :=
  fireElem (two .xor d a b .none m) (fireLogic (two .xor d a b .none m)) s

/-- NOT (R213). -/
def execNot (d : Dst) (a : Src) (s : State) : Out :=
  fireElem (one .not d a .none .none) (fireLogic (one .not d a .none .none)) s

/-- NOT_2P (R213). -/
def execNot2P (d : Dst) (a : Src) (m : Mods) (s : State) : Out :=
  fireElem (two .not d a .none .none m) (fireLogic (two .not d a .none .none m)) s

/-- ANDN (R213). -/
def execAndn (d : Dst) (a b : Src) (s : State) : Out :=
  fireElem (one .andn d a b .none) (fireLogic (one .andn d a b .none)) s

/-- ANDN_2P (R213). -/
def execAndn2P (d : Dst) (a b : Src) (m : Mods) (s : State) : Out :=
  fireElem (two .andn d a b .none m) (fireLogic (two .andn d a b .none m)) s

/-- SHL (R214). -/
def execShl (d : Dst) (a b : Src) (s : State) : Out :=
  fireElem (one .shl d a b .none) (fireShift (one .shl d a b .none)) s

/-- SHL_2P (R214). -/
def execShl2P (d : Dst) (a b : Src) (m : Mods) (s : State) : Out :=
  fireElem (two .shl d a b .none m) (fireShift (two .shl d a b .none m)) s

/-- SHR (R214). -/
def execShr (d : Dst) (a b : Src) (s : State) : Out :=
  fireElem (one .shr d a b .none) (fireShift (one .shr d a b .none)) s

/-- SHR_2P (R214). -/
def execShr2P (d : Dst) (a b : Src) (m : Mods) (s : State) : Out :=
  fireElem (two .shr d a b .none m) (fireShift (two .shr d a b .none m)) s

/-- SAR (R214). -/
def execSar (d : Dst) (a b : Src) (s : State) : Out :=
  fireElem (one .sar d a b .none) (fireShift (one .sar d a b .none)) s

/-- SAR_2P (R214). -/
def execSar2P (d : Dst) (a b : Src) (m : Mods) (s : State) : Out :=
  fireElem (two .sar d a b .none m) (fireShift (two .sar d a b .none m)) s

/-- ROL (R214). -/
def execRol (d : Dst) (a b : Src) (s : State) : Out :=
  fireElem (one .rol d a b .none) (fireShift (one .rol d a b .none)) s

/-- ROL_2P (R214). -/
def execRol2P (d : Dst) (a b : Src) (m : Mods) (s : State) : Out :=
  fireElem (two .rol d a b .none m) (fireShift (two .rol d a b .none m)) s

/-- CLZ (R214). -/
def execClz (d : Dst) (a : Src) (s : State) : Out :=
  fireElem (one .clz d a .none .none) (fireShift (one .clz d a .none .none)) s

/-- CLZ_2P (R214). -/
def execClz2P (d : Dst) (a : Src) (m : Mods) (s : State) : Out :=
  fireElem (two .clz d a .none .none m) (fireShift (two .clz d a .none .none m)) s

/-- POPC (R214). -/
def execPopc (d : Dst) (a : Src) (s : State) : Out :=
  fireElem (one .popc d a .none .none) (fireShift (one .popc d a .none .none)) s

/-- POPC_2P (R214). -/
def execPopc2P (d : Dst) (a : Src) (m : Mods) (s : State) : Out :=
  fireElem (two .popc d a .none .none m) (fireShift (two .popc d a .none .none m)) s

/-- CMP_EQ (R215). -/
def execCmpEq (d : Dst) (a b : Src) (s : State) : Out :=
  fireElem (one .cmpEq d a b .none) (fireIcmp (one .cmpEq d a b .none)) s

/-- CMP_EQ_2P (R215). -/
def execCmpEq2P (d : Dst) (a b : Src) (m : Mods) (s : State) : Out :=
  fireElem (two .cmpEq d a b .none m) (fireIcmp (two .cmpEq d a b .none m)) s

/-- CMP_NE (R215). -/
def execCmpNe (d : Dst) (a b : Src) (s : State) : Out :=
  fireElem (one .cmpNe d a b .none) (fireIcmp (one .cmpNe d a b .none)) s

/-- CMP_NE_2P (R215). -/
def execCmpNe2P (d : Dst) (a b : Src) (m : Mods) (s : State) : Out :=
  fireElem (two .cmpNe d a b .none m) (fireIcmp (two .cmpNe d a b .none m)) s

/-- CMP_LT (R215). -/
def execCmpLt (d : Dst) (a b : Src) (s : State) : Out :=
  fireElem (one .cmpLt d a b .none) (fireIcmp (one .cmpLt d a b .none)) s

/-- CMP_LT_2P (R215). -/
def execCmpLt2P (d : Dst) (a b : Src) (m : Mods) (s : State) : Out :=
  fireElem (two .cmpLt d a b .none m) (fireIcmp (two .cmpLt d a b .none m)) s

/-- CMP_LE (R215). -/
def execCmpLe (d : Dst) (a b : Src) (s : State) : Out :=
  fireElem (one .cmpLe d a b .none) (fireIcmp (one .cmpLe d a b .none)) s

/-- CMP_LE_2P (R215). -/
def execCmpLe2P (d : Dst) (a b : Src) (m : Mods) (s : State) : Out :=
  fireElem (two .cmpLe d a b .none m) (fireIcmp (two .cmpLe d a b .none m)) s

/-- CMP_LTU (R215). -/
def execCmpLtu (d : Dst) (a b : Src) (s : State) : Out :=
  fireElem (one .cmpLtu d a b .none) (fireIcmp (one .cmpLtu d a b .none)) s

/-- CMP_LTU_2P (R215). -/
def execCmpLtu2P (d : Dst) (a b : Src) (m : Mods) (s : State) : Out :=
  fireElem (two .cmpLtu d a b .none m) (fireIcmp (two .cmpLtu d a b .none m)) s

/-- CMP_LEU (R215). -/
def execCmpLeu (d : Dst) (a b : Src) (s : State) : Out :=
  fireElem (one .cmpLeu d a b .none) (fireIcmp (one .cmpLeu d a b .none)) s

/-- CMP_LEU_2P (R215). -/
def execCmpLeu2P (d : Dst) (a b : Src) (m : Mods) (s : State) : Out :=
  fireElem (two .cmpLeu d a b .none m) (fireIcmp (two .cmpLeu d a b .none m)) s

/-- SEL (R216). -/
def execSel (d : Dst) (a b c : Src) (s : State) : Out :=
  fireElem (one .sel d a b c) (fireSelect (one .sel d a b c)) s

/-- SEL_2P (R216). -/
def execSel2P (d : Dst) (a b c : Src) (m : Mods) (s : State) : Out :=
  fireElem (two .sel d a b c m) (fireSelect (two .sel d a b c m)) s

/-- SELA (R216). -/
def execSela (d : Dst) (a b c : Src) (s : State) : Out :=
  fireElem (one .sela d a b c) (fireSelect (one .sela d a b c)) s

/-- SELA_2P (R216). -/
def execSela2P (d : Dst) (a b c : Src) (m : Mods) (s : State) : Out :=
  fireElem (two .sela d a b c m) (fireSelect (two .sela d a b c m)) s

/-- FADD (R218). -/
def execFadd (d : Dst) (a b : Src) (s : State) : Out :=
  fireElem (one .fadd d a b .none) (fireFarith (one .fadd d a b .none)) s

/-- FADD_2P (R218). -/
def execFadd2P (d : Dst) (a b : Src) (m : Mods) (s : State) : Out :=
  fireElem (two .fadd d a b .none m) (fireFarith (two .fadd d a b .none m)) s

/-- FSUB (R218). -/
def execFsub (d : Dst) (a b : Src) (s : State) : Out :=
  fireElem (one .fsub d a b .none) (fireFarith (one .fsub d a b .none)) s

/-- FSUB_2P (R218). -/
def execFsub2P (d : Dst) (a b : Src) (m : Mods) (s : State) : Out :=
  fireElem (two .fsub d a b .none m) (fireFarith (two .fsub d a b .none m)) s

/-- FMUL (R218). -/
def execFmul (d : Dst) (a b : Src) (s : State) : Out :=
  fireElem (one .fmul d a b .none) (fireFarith (one .fmul d a b .none)) s

/-- FMUL_2P (R218). -/
def execFmul2P (d : Dst) (a b : Src) (m : Mods) (s : State) : Out :=
  fireElem (two .fmul d a b .none m) (fireFarith (two .fmul d a b .none m)) s

/-- FFMA (R218). -/
def execFfma (d : Dst) (a b c : Src) (s : State) : Out :=
  fireElem (one .ffma d a b c) (fireFarith (one .ffma d a b c)) s

/-- FFMA_2P (R218). -/
def execFfma2P (d : Dst) (a b c : Src) (m : Mods) (s : State) : Out :=
  fireElem (two .ffma d a b c m) (fireFarith (two .ffma d a b c m)) s

/-- FFMS (R218). -/
def execFfms (d : Dst) (a b c : Src) (s : State) : Out :=
  fireElem (one .ffms d a b c) (fireFarith (one .ffms d a b c)) s

/-- FFMS_2P (R218). -/
def execFfms2P (d : Dst) (a b c : Src) (m : Mods) (s : State) : Out :=
  fireElem (two .ffms d a b c m) (fireFarith (two .ffms d a b c m)) s

/-- FNMA (R218). -/
def execFnma (d : Dst) (a b c : Src) (s : State) : Out :=
  fireElem (one .fnma d a b c) (fireFarith (one .fnma d a b c)) s

/-- FNMA_2P (R218). -/
def execFnma2P (d : Dst) (a b c : Src) (m : Mods) (s : State) : Out :=
  fireElem (two .fnma d a b c m) (fireFarith (two .fnma d a b c m)) s

/-- FMIN (R219). -/
def execFmin (d : Dst) (a b : Src) (s : State) : Out :=
  fireElem (one .fmin d a b .none) (fireFminmax (one .fmin d a b .none)) s

/-- FMIN_2P (R219). -/
def execFmin2P (d : Dst) (a b : Src) (m : Mods) (s : State) : Out :=
  fireElem (two .fmin d a b .none m) (fireFminmax (two .fmin d a b .none m)) s

/-- FMAX (R219). -/
def execFmax (d : Dst) (a b : Src) (s : State) : Out :=
  fireElem (one .fmax d a b .none) (fireFminmax (one .fmax d a b .none)) s

/-- FMAX_2P (R219). -/
def execFmax2P (d : Dst) (a b : Src) (m : Mods) (s : State) : Out :=
  fireElem (two .fmax d a b .none m) (fireFminmax (two .fmax d a b .none m)) s

/-- FMINP (R219). -/
def execFminp (d : Dst) (a b : Src) (s : State) : Out :=
  fireElem (one .fminp d a b .none) (fireFminmax (one .fminp d a b .none)) s

/-- FMINP_2P (R219). -/
def execFminp2P (d : Dst) (a b : Src) (m : Mods) (s : State) : Out :=
  fireElem (two .fminp d a b .none m) (fireFminmax (two .fminp d a b .none m)) s

/-- FMAXP (R219). -/
def execFmaxp (d : Dst) (a b : Src) (s : State) : Out :=
  fireElem (one .fmaxp d a b .none) (fireFminmax (one .fmaxp d a b .none)) s

/-- FMAXP_2P (R219). -/
def execFmaxp2P (d : Dst) (a b : Src) (m : Mods) (s : State) : Out :=
  fireElem (two .fmaxp d a b .none m) (fireFminmax (two .fmaxp d a b .none m)) s

/-- FNEG (R219). -/
def execFneg (d : Dst) (a : Src) (s : State) : Out :=
  fireElem (one .fneg d a .none .none) (fireFsign (one .fneg d a .none .none)) s

/-- FNEG_2P (R219). -/
def execFneg2P (d : Dst) (a : Src) (m : Mods) (s : State) : Out :=
  fireElem (two .fneg d a .none .none m) (fireFsign (two .fneg d a .none .none m)) s

/-- FABS (R219). -/
def execFabs (d : Dst) (a : Src) (s : State) : Out :=
  fireElem (one .fabs d a .none .none) (fireFsign (one .fabs d a .none .none)) s

/-- FABS_2P (R219). -/
def execFabs2P (d : Dst) (a : Src) (m : Mods) (s : State) : Out :=
  fireElem (two .fabs d a .none .none m) (fireFsign (two .fabs d a .none .none m)) s

/-- FCPS (R219). -/
def execFcps (d : Dst) (a b : Src) (s : State) : Out :=
  fireElem (one .fcps d a b .none) (fireFsign (one .fcps d a b .none)) s

/-- FCPS_2P (R219). -/
def execFcps2P (d : Dst) (a b : Src) (m : Mods) (s : State) : Out :=
  fireElem (two .fcps d a b .none m) (fireFsign (two .fcps d a b .none m)) s

/-- FCMP_EQ (R220). -/
def execFcmpEq (d : Dst) (a b : Src) (s : State) : Out :=
  fireElem (one .fcmpEq d a b .none) (fireFcmp (one .fcmpEq d a b .none)) s

/-- FCMP_EQ_2P (R220). -/
def execFcmpEq2P (d : Dst) (a b : Src) (m : Mods) (s : State) : Out :=
  fireElem (two .fcmpEq d a b .none m) (fireFcmp (two .fcmpEq d a b .none m)) s

/-- FCMP_NE (R220). -/
def execFcmpNe (d : Dst) (a b : Src) (s : State) : Out :=
  fireElem (one .fcmpNe d a b .none) (fireFcmp (one .fcmpNe d a b .none)) s

/-- FCMP_NE_2P (R220). -/
def execFcmpNe2P (d : Dst) (a b : Src) (m : Mods) (s : State) : Out :=
  fireElem (two .fcmpNe d a b .none m) (fireFcmp (two .fcmpNe d a b .none m)) s

/-- FCMP_LT (R220). -/
def execFcmpLt (d : Dst) (a b : Src) (s : State) : Out :=
  fireElem (one .fcmpLt d a b .none) (fireFcmp (one .fcmpLt d a b .none)) s

/-- FCMP_LT_2P (R220). -/
def execFcmpLt2P (d : Dst) (a b : Src) (m : Mods) (s : State) : Out :=
  fireElem (two .fcmpLt d a b .none m) (fireFcmp (two .fcmpLt d a b .none m)) s

/-- FCMP_LE (R220). -/
def execFcmpLe (d : Dst) (a b : Src) (s : State) : Out :=
  fireElem (one .fcmpLe d a b .none) (fireFcmp (one .fcmpLe d a b .none)) s

/-- FCMP_LE_2P (R220). -/
def execFcmpLe2P (d : Dst) (a b : Src) (m : Mods) (s : State) : Out :=
  fireElem (two .fcmpLe d a b .none m) (fireFcmp (two .fcmpLe d a b .none m)) s

/-- FCMP_UN (R220). -/
def execFcmpUn (d : Dst) (a b : Src) (s : State) : Out :=
  fireElem (one .fcmpUn d a b .none) (fireFcmp (one .fcmpUn d a b .none)) s

/-- FCMP_UN_2P (R220). -/
def execFcmpUn2P (d : Dst) (a b : Src) (m : Mods) (s : State) : Out :=
  fireElem (two .fcmpUn d a b .none m) (fireFcmp (two .fcmpUn d a b .none m)) s

/-- FRCP (R221). -/
def execFrcp (d : Dst) (a : Src) (s : State) : Out :=
  fireElem (one .frcp d a .none .none) (fireSfu (one .frcp d a .none .none)) s

/-- FRCP_2P (R221). -/
def execFrcp2P (d : Dst) (a : Src) (m : Mods) (s : State) : Out :=
  fireElem (two .frcp d a .none .none m) (fireSfu (two .frcp d a .none .none m)) s

/-- FRSQ (R221). -/
def execFrsq (d : Dst) (a : Src) (s : State) : Out :=
  fireElem (one .frsq d a .none .none) (fireSfu (one .frsq d a .none .none)) s

/-- FRSQ_2P (R221). -/
def execFrsq2P (d : Dst) (a : Src) (m : Mods) (s : State) : Out :=
  fireElem (two .frsq d a .none .none m) (fireSfu (two .frsq d a .none .none m)) s

/-- FSQRT (R221). -/
def execFsqrt (d : Dst) (a : Src) (s : State) : Out :=
  fireElem (one .fsqrt d a .none .none) (fireSfu (one .fsqrt d a .none .none)) s

/-- FSQRT_2P (R221). -/
def execFsqrt2P (d : Dst) (a : Src) (m : Mods) (s : State) : Out :=
  fireElem (two .fsqrt d a .none .none m) (fireSfu (two .fsqrt d a .none .none m)) s

/-- FLOG2 (R221). -/
def execFlog2 (d : Dst) (a : Src) (s : State) : Out :=
  fireElem (one .flog2 d a .none .none) (fireSfu (one .flog2 d a .none .none)) s

/-- FLOG2_2P (R221). -/
def execFlog22P (d : Dst) (a : Src) (m : Mods) (s : State) : Out :=
  fireElem (two .flog2 d a .none .none m) (fireSfu (two .flog2 d a .none .none m)) s

/-- FEXP2 (R221). -/
def execFexp2 (d : Dst) (a : Src) (s : State) : Out :=
  fireElem (one .fexp2 d a .none .none) (fireSfu (one .fexp2 d a .none .none)) s

/-- FEXP2_2P (R221). -/
def execFexp22P (d : Dst) (a : Src) (m : Mods) (s : State) : Out :=
  fireElem (two .fexp2 d a .none .none m) (fireSfu (two .fexp2 d a .none .none m)) s

/-- FTANH (R221). -/
def execFtanh (d : Dst) (a : Src) (s : State) : Out :=
  fireElem (one .ftanh d a .none .none) (fireSfu (one .ftanh d a .none .none)) s

/-- FTANH_2P (R221). -/
def execFtanh2P (d : Dst) (a : Src) (m : Mods) (s : State) : Out :=
  fireElem (two .ftanh d a .none .none m) (fireSfu (two .ftanh d a .none .none m)) s

/-- FSIGM (R221). -/
def execFsigm (d : Dst) (a : Src) (s : State) : Out :=
  fireElem (one .fsigm d a .none .none) (fireSfu (one .fsigm d a .none .none)) s

/-- FSIGM_2P (R221). -/
def execFsigm2P (d : Dst) (a : Src) (m : Mods) (s : State) : Out :=
  fireElem (two .fsigm d a .none .none m) (fireSfu (two .fsigm d a .none .none m)) s

/-- CVT (R222). -/
def execCvt (d : Dst) (a b c : Src) (m : Mods) (s : State) : Out :=
  fireElem (two .cvt d a b c m) (fireCvt (two .cvt d a b c m)) s

/-- QNT (R223). -/
def execQnt (d : Dst) (a b c : Src) (m : Mods) (s : State) : Out :=
  fireElem (two .qnt d a b c m) (fireQnt (two .qnt d a b c m)) s

/-- DQN (R224). -/
def execDqn (d : Dst) (a b : Src) (m : Mods) (s : State) : Out :=
  fireElem (two .dqn d a b .none m) (fireDqn (two .dqn d a b .none m)) s

/-- RNSF (R225). -/
def execRnsf (d : Dst) (a b c : Src) (s : State) : Out :=
  fireElem (one .rnsf d a b c) (fireRnsf (one .rnsf d a b c)) s

/-- RNSF_2P (R225). -/
def execRnsf2P (d : Dst) (a b c : Src) (m : Mods) (s : State) : Out :=
  fireElem (two .rnsf d a b c m) (fireRnsf (two .rnsf d a b c m)) s

/-- RNSB (R225). -/
def execRnsb (d : Dst) (a : Src) (s : State) : Out :=
  fireElem (one .rnsb d a .none .none) (fireRnsb (one .rnsb d a .none .none)) s

/-- RNSB_2P (R225). -/
def execRnsb2P (d : Dst) (a : Src) (m : Mods) (s : State) : Out :=
  fireElem (two .rnsb d a .none .none m) (fireRnsb (two .rnsb d a .none .none m)) s

/-- SCALE (R226). -/
def execScale (d : Dst) (a b : Src) (s : State) : Out :=
  fireElem (one .scale d a b .none) (fireScale (one .scale d a b .none)) s

/-- SCALE_2P (R226). -/
def execScale2P (d : Dst) (a b : Src) (m : Mods) (s : State) : Out :=
  fireElem (two .scale d a b .none m) (fireScale (two .scale d a b .none m)) s

/-- PRES (R227). -/
def execPres (d : Dst) (a : Src) (s : State) : Out :=
  fireElem (one .pres d a .none .none) (firePres (one .pres d a .none .none)) s

/-- PRES_2P (R227). -/
def execPres2P (d : Dst) (a : Src) (m : Mods) (s : State) : Out :=
  fireElem (two .pres d a .none .none m) (firePres (two .pres d a .none .none m)) s

/-- FILL (R227). -/
def execFill (d : Dst) (a b : Src) (s : State) : Out :=
  fireElem (one .fill d a b .none) (fireFill (one .fill d a b .none)) s

/-- FILL_2P (R227). -/
def execFill2P (d : Dst) (a b : Src) (m : Mods) (s : State) : Out :=
  fireElem (two .fill d a b .none m) (fireFill (two .fill d a b .none m)) s

/-- MKAB (R227). -/
def execMkab (d : Dst) (a b : Src) (s : State) : Out :=
  fireElem (one .mkab d a b .none) (fireFill (one .mkab d a b .none)) s

/-- MKAB_2P (R227). -/
def execMkab2P (d : Dst) (a b : Src) (m : Mods) (s : State) : Out :=
  fireElem (two .mkab d a b .none m) (fireFill (two .mkab d a b .none m)) s

/-- CNTP (R227). -/
def execCntp (d : Dst) (a b : Src) (s : State) : Out :=
  fireElem (one .cntp d a b .none) (fireCntp (one .cntp d a b .none)) s

/-- CNTP_2P (R227). -/
def execCntp2P (d : Dst) (a b : Src) (m : Mods) (s : State) : Out :=
  fireElem (two .cntp d a b .none m) (fireCntp (two .cntp d a b .none m)) s

/-- RAND (R228). -/
def execRand (d : Dst) (s : State) : Out :=
  fireElem (one .rand d .none .none .none) (fireRand (one .rand d .none .none .none)) s

/-- RAND_2P (R228). -/
def execRand2P (d : Dst) (m : Mods) (s : State) : Out :=
  fireElem (two .rand d .none .none .none m) (fireRand (two .rand d .none .none .none m)) s

/-- GUMB (R229). -/
def execGumb (d : Dst) (a b c : Src) (s : State) : Out :=
  fireElem (one .gumb d a b c) (fireGumb (one .gumb d a b c)) s

/-- GUMB_2P (R229). -/
def execGumb2P (d : Dst) (a b c : Src) (m : Mods) (s : State) : Out :=
  fireElem (two .gumb d a b c m) (fireGumb (two .gumb d a b c m)) s

/-- LDI (R231). -/
def execLdi (d : Dst) (s : State) : Out :=
  fireElem (one .ldi d .none .none .none) (fireLdi (one .ldi d .none .none .none)) s

/-- LDI_2P (R231). -/
def execLdi2P (d : Dst) (m : Mods) (s : State) : Out :=
  fireElem (two .ldi d .none .none .none m) (fireLdi (two .ldi d .none .none .none m)) s

/-- LDI_3P (R231). -/
def execLdi3P (d : Dst) (m : Mods) (lit : Parcel) (s : State) : Out :=
  fireElem (three .ldi d .none .none .none m lit) (fireLdi (three .ldi d .none .none .none m lit)) s

/-- MOVS (R230). -/
def execMovs (d : Dst) (a : Src) (s : State) : Out :=
  fireElem (one .movs d a .none .none) (fireMovs (one .movs d a .none .none)) s

/-- MOVS_2P (R230). -/
def execMovs2P (d : Dst) (a : Src) (m : Mods) (s : State) : Out :=
  fireElem (two .movs d a .none .none m) (fireMovs (two .movs d a .none .none m)) s

/-- INCS (R230). -/
def execIncs (d : Dst) (a : Src) (s : State) : Out :=
  fireElem (one .incs d a .none .none) (fireIncs (one .incs d a .none .none)) s

/-- INCS_2P (R230). -/
def execIncs2P (d : Dst) (a : Src) (m : Mods) (s : State) : Out :=
  fireElem (two .incs d a .none .none m) (fireIncs (two .incs d a .none .none m)) s

end Sys2Proof.Machine
end

