-- ==== Sys2Proof/Machine/Fabric.lean ====
section
/-! DEFINITION. Tokens on their way: switch hops, arrivals in channel buffers, elastic buffers, control tokens and
buffer-slot returns (R22, R26 to R31, R48 to R51, R76, R190 to R192, R396, R397, R400, R401). -/

namespace Sys2Proof.Machine

/-- The sub-words of a payload, drawn as a pattern word names them (R26, R192). -/
def permute (p : Payload) (w : Parcel) : Payload :=
  payloadOf 64 ((List.range 8).map fun j => elemAt p 64 (fld w (3 * j) 3))

/-- A token as it leaves through a switch entry: ROUTE rewritten, and the sub-words of a DATA token drawn by PAT (R26,
R190; a mark keeps its payload, R44). -/
def Sw.through (w : Sw) (e : Parcel) (t : Token) : Token :=
  let t1 := { t with route := BitVec.ofNat 12 (fld e 5 12) }
  let pat := fld e 17 3
  if pat = 0 ∨ t.isMark then t1
  else
    let p := permute t.payload (tgetD w.patterns pat 0)
    { t1 with payload := p, residue := residueOf p }

/-- The switch entry that drives an input of a tile: an incoming track, or a unit input (R23, R400). -/
def State.driver (s : State) (pt code : Nat) (track : Bool) : Option Parcel :=
  let of (t d : Nat) := ((s.tile t).sw.data.find? fun p => bit p.2 0 && decide (fld p.2 20 6 = d)).map (·.2)
  if track then
    match neighbour pt (code / 8) with
    | some t => of t (arrivalCode code)
    | none => none
  else of pt code

/-- The KIND is unassigned (R43). -/
def Kind.isBad : Kind → Bool
  | .bad _ => true
  | _ => false

/-- What R401 finds on a token that an input takes: a corrupted KIND. -/
def checkKind (t : Token) : Option (Nat × Nat) := if t.kind.isBad then some (0x04, 0) else none

/-- What R400 and R401 find on a token that an entry drives to an input: nothing, or the record TYPE with ERSYN. -/
def checkToken (e : Option Parcel) (t : Token) : Option (Nat × Nat) :=
  if t.kind.isBad then some (0x04, 0)
  else match e with
    | none => none
    | some w =>
      if fld w 5 12 = t.route.toNat then none
      else some (0x03, t.residue.toNat + (residueOf t.payload).toNat * 256 + fld w 5 12 * 2 ^ 16 + t.route.toNat * 2 ^ 28)

/-- The payload does not have the residue that the token carries (R397). -/
def Token.mismatch (t : Token) : Bool := t.residue != residueOf t.payload

/-- The SRC code and port of a buffer's records (R405). -/
def bufSrc : BufId → Nat × Nat
  | .cuIn _ u k => (cuUnit u, k.val)
  | .cuQ _ u k => (cuUnit u, k.val)
  | .mx _ => (2, 0)
  | .mu _ u => (muUnit u, 0)
  | .ag _ g => (if g then 6 else 5, 0)
  | .elastic _ _ | .elasticCtl _ _ => (7, 0)

/-- An input residue error at an input: a DEF record (R397). -/
def State.residueError (s : State) (pt src port : Nat) (t : Token) : State :=
  s.tileRecord pt .defd src 0x01 port (t.residue.toNat + (residueOf t.payload).toNat * 256)

/-- A route error or a corrupted KIND: a UC record, and the region's context is FAULTED; the token stays where it is
(R65, R401, R414).  A region that is FAULTED already finds nothing more. -/
def State.checkFault (s : State) (pt src port type syn : Nat) : State :=
  let st := (s.owner pt).elim CtxSt.free fun c => (s.ctx c).st
  if st ≠ .free ∧ st ≠ .faulted ∧ st ≠ .retired then (s.tileRecord pt .uc src type port syn).unitFault pt src fcCheck 0 else s

/-- A token leaves a switch towards a consumer: into a buffer of the tile, or along a track. -/
def State.land (s : State) (pt dest : Nat) (t : Token) : State :=
  match destBuf pt dest with
  | some b => { s with arriving := s.arriving ++ [(b, t)] }
  | none =>
    match neighbour pt (dest / 8) with
    | none => s
    | some pt' =>
      let code := arrivalCode dest
      if s.isElastic pt' code then { s with arriving := s.arriving ++ [(.elastic pt' (BitVec.ofNat 6 code), t)] }
      else { s with flights := s.flights ++ [⟨pt', code, t⟩] }

/-- The first token at an input of a tile's switch, and the others. -/
def takeFlight (pt code : Nat) : List Flight → Option (Token × List Flight)
  | [] => none
  | f :: r =>
    if f.pt = pt ∧ f.code = code then some (f.tok, r)
    else (takeFlight pt code r).map fun x => (x.1, f :: x.2)

/-- The first token at a buffer's input, and the others. -/
def takeArriving (b : BufId) : List (BufId × Token) → Option (Token × List (BufId × Token))
  | [] => none
  | p :: r => if p.1 = b then some (p.2, r) else (takeArriving b r).map fun x => (x.1, p :: x.2)

/-- The first control token at a buffer's input, and the others. -/
def takeCtl (b : BufId) : List CtlFlight → Option (Bool × List CtlFlight)
  | [] => none
  | p :: r => if p.buf = b then some (p.val, r) else (takeCtl b r).map fun x => (x.1, p :: x.2)

/-- SWITCH_HOP: the first token at an input of a switch box leaves on every track of its output mask (R26, R27). -/
def execSwitchHop (t : Nat) (i : BitVec 6) (s : State) : Out :=
  match takeFlight t i.toNat s.flights with
  | none => stall s
  | some (tok, rest) =>
    let track := decide (i.toNat < 0x20)
    match if track then checkToken (s.driver t i.toNat true) tok else checkKind tok with
    | some (ty, syn) => .next (s.checkFault t 7 (i.toNat % 16) ty syn)
    | none =>
      let s1 := if tok.mismatch then s.residueError t 7 (i.toNat % 16) tok else s
      let tok1 := if tok.mismatch then { tok with poison := true } else tok
      let w := (s.tile t).sw
      let es := w.dataOf i.toNat
      let s2 := es.foldl (fun s e => s.land t (fld e 20 6) (w.through e tok1)) { s1 with flights := rest }
      .next (if es.length = 1 then s2 else s2.touch t .tok)

/-- A compute unit's port that MX or MU0 taps (R49): the unit and port whose mask sets the bit. -/
def State.tapped (s : State) (pt : Nat) (b : Fin 4) : Option (Bool × Fin 6) :=
  ([false, true].flatMap fun u => (List.finRange 6).map fun k => (u, k)).find? fun p =>
    ((s.cu pt p.1).mask p.2.val).getLsbD b.val

/-- The matrix-node queue accepts a token (R49, R255, R397): a DATA token as a matrix token. -/
def mxEntry (t : Token) : MxEntry :=
  if t.isMark then .mark t else .tok (BitVec.ofNat 64 (elemAt t.payload 64 0)) (t.poison || t.mismatch)

/-- The node takes tokens from the port it taps while its queue has room (R49). -/
def State.mxPull (s : State) (pt : Nat) : State :=
  match s.tapped pt 2 with
  | none => s
  | some (u, k) =>
    (List.range 4).foldl (fun s _ =>
      if (s.mx pt).queue.length < 4 then
        match headFor (s.cu pt u).ins[k] 2 with
        | some t => (s.setMx pt { s.mx pt with queue := (s.mx pt).queue ++ [mxEntry t] }).takePort pt u k 2
        | none => s
      else s) s

/-- The loop whose slot-indexed port an input is: the context and the loop's number (R76). -/
def State.slotPort (s : State) (pt : Nat) (u : Bool) (k : Nat) : Option (Nat × Nat) :=
  let c := s.cu pt u
  if c.member ∧ bit c.cfg 26 ∧ fld c.cfg 1 3 = k then (s.owner pt).map fun o => (o, fld c.cfg 23 3) else none

/-- The loop whose slot-indexed port a buffer is; its tokens keep their residue until an arrival uses them (R399). -/
def State.slotOf (s : State) (b : BufId) : Option (Nat × Nat) :=
  match b with
  | .cuIn pt u k => s.slotPort pt u k.val
  | _ => none

/-- A loop of a context. -/
def State.loopOf (s : State) (c l : Nat) : LoopSt := tgetD (s.ctx c).loops l {}

/-- A loop of a context replaced. -/
def State.setLoop (s : State) (c l : Nat) (x : LoopSt) : State := s.modCtx c fun y => { y with loops := tset y.loops l x }

/-- A saved or parked loop accepts no new token at its slot-indexed port (R87). -/
def LoopSt.shut (x : LoopSt) : Bool :=
  x.parked || (match x.busy with | .saving _ _ _ _ _ => true | _ => false)

/-- A token has arrived at a memory unit's request input: what the partner has accepted by then is noted (R261). -/
def State.muSeen (s : State) (pt : Nat) (u : Bool) : State :=
  let m := s.mu pt u
  s.setMu pt u { m with seen := m.seen ++ [(s.cycle, (s.mu pt (!u)).next)] }

/-- A unit input that had no head in the state `s0` looks at the one that it may have now (R39, R48). -/
def State.newHead (s s0 : State) (pt code : Nat) : State :=
  if (s0.sinkHead pt code).isNone then s.headCheck pt code else s

/-- A token enters its buffer; none when there is no room for it. -/
def State.enter (s : State) (b : BufId) (t : Token) : Option State :=
  match b with
  | .cuIn pt u k =>
    match s.slotPort pt u k.val with
    | some (c, l) =>
      let lp := s.loopOf c l
      if lp.staging.length < 4 ∧ !lp.shut then some (s.setLoop c l { lp with staging := lp.staging ++ [t] }) else none
    | none =>
      let c := s.cu pt u
      let es := c.ins[k]
      let m := c.mask k.val
      if es.length < 4 then
        let s1 := s.setCu pt u { c with ins := c.ins.set k (es ++ [⟨t, m⟩]) }
        let s2 := (s1.newHead s pt (cuCode u k.val)).newHead s pt (cuCode (!u) k.val)
        let s3 := if m.getLsbD 3 then s2.muSeen pt false else s2
        some (if m.getLsbD 2 then s3.mxPull pt else s3)
      else none
  | .mx pt =>
    let m := s.mx pt
    if m.queue.length < 4 then some (s.setMx pt { m with queue := m.queue ++ [mxEntry t] }) else none
  | .mu pt u =>
    let m := s.mu pt u
    if m.buf.length < 4 then
      let s1 := (s.setMu pt u { m with buf := m.buf ++ [t] }).muSeen pt u
      some (if m.buf.isEmpty then s1.headCheck pt (if u then 0x2E else 0x2D) else s1)
    else none
  | .ag pt g =>
    let a := s.ag pt g
    if a.start.length < 4 then some (s.setAg pt g { a with start := a.start ++ [t] }) else none
  | .elastic _ _ =>
    if (s.elasticOf b).length < 16 then some (s.setElastic b (s.elasticOf b ++ [t])) else none
  | .cuQ _ _ _ | .elasticCtl _ _ => none

/-- The consumer code of a buffer (R191); a track for an elastic buffer. -/
def bufCode : BufId → Nat
  | .cuIn _ u k => cuCode u k.val
  | .cuQ _ u k => (if u then 0x24 else 0x20) + k.val
  | .mx _ => 0x2C
  | .mu _ u => if u then 0x2E else 0x2D
  | .ag _ g => if g then 0x30 else 0x2F
  | .elastic _ t | .elasticCtl _ t => t.toNat

/-- A buffer at which a residue mismatch is deferred as poison when the token enters: data inputs of compute units, and
elastic buffers (R397).  The other inputs keep the token as it came, and its use decides. -/
def bufDefers : BufId → Bool
  | .cuIn _ _ _ | .elastic _ _ => true
  | _ => false

/-- TOKEN_ARRIVE: a token enters a channel buffer, where its KIND, ROUTE and residue are checked (R22, R397, R400,
R401). -/
def execTokenArrive (q : BufId) (s : State) : Out :=
  match takeArriving q s.arriving with
  | none => stall s
  | some (tok, rest) =>
    let pt := bufPt q
    let src := bufSrc q
    let track := match q with | .elastic _ _ => true | _ => false
    match checkToken (s.driver pt (bufCode q) track) tok with
    | some (ty, syn) => .next (s.checkFault pt src.1 src.2 ty syn)
    | none =>
      let bad := tok.mismatch && bufDefers q && (s.slotOf q).isNone
      let tok1 := if bad then { tok with poison := true } else tok
      match { s with arriving := rest }.enter q tok1 with
      | none => stall s
      | some s1 => .next (if bad then s1.residueError pt src.1 src.2 tok else s1)

/-- ELASTIC_BUFFER_PASS: the head of an elastic buffer leaves it, with the credits of the buffers beyond (R30, R31,
R50). -/
def execElasticBufferPass (q : BufId) (s : State) : Out :=
  match q with
  | .elastic pt t =>
    match s.elasticOf q with
    | [] => stall s
    | tok :: rest =>
      if s.canEmit pt [t.toNat] then .next (((s.setElastic q rest).emit pt t.toNat tok).free q) else stall s
  | .elasticCtl pt t =>
    match s.elasticCtlOf q with
    | [] => stall s
    | v :: rest =>
      let bs := s.reachCtl maxHops pt t.toNat
      if bs.all s.credit then .next (((s.setElasticCtl q rest).sendCtl pt bs v).free q) else stall s
  | _ => stall s

/-- BUFFER_SLOT_RETURN: a return arrives and its producer's counter gains one (R50, R51). -/
def execBufferSlotReturn (q : BufId) (s : State) : Out :=
  if bufCount s.returns q = 0 then stall s
  else
    .next (State.touch { s with returns := bufPut s.returns q (bufCount s.returns q - 1)
                                used := bufPut s.used q (bufCount s.used q - 1) } (bufPt q) .ret)

/-- CONTROL_TOKEN_ARRIVE: a control token enters a control buffer (R22, R28, R30). -/
def execControlTokenArrive (q : BufId) (s : State) : Out :=
  match takeCtl q s.ctlArriving with
  | none => stall s
  | some (v, rest) =>
    let s0 := { s with ctlArriving := rest }
    match q with
    | .cuQ pt u k =>
      let c := s.cu pt u
      if c.qs[k].length < 4 then .next (s0.setCu pt u { c with qs := c.qs.set k (c.qs[k] ++ [v]) }) else stall s
    | .elasticCtl _ _ =>
      if (s.elasticCtlOf q).length < 16 then .next (s0.setElasticCtl q (s.elasticCtlOf q ++ [v])) else stall s
    | _ => stall s

end Sys2Proof.Machine
end

