-- ==== Sys2Proof/Machine/Command.lean ====
section
/-! DEFINITION. The course of a controller command: decode checks, wait field, own condition, issue, completion and
signal (R267 to R270, R412, R416), and the waits (R65, R271, R283). -/

namespace Sys2Proof.Machine

/-- The first two parcels of the command at the sequencer's place (R418). -/
def Ctx.info (x : Ctx) : Word64 :=
  BitVec.ofNat 64 ((x.code.getD x.pc 0xFFFFFFFF).toNat + (x.code.getD (x.pc + 1) 0xFFFFFFFF).toNat * 2 ^ 32)

/-- The length by which a skipped command is passed over (R419). -/
def Ctx.skipLen (x : Ctx) : Nat := if fld (x.code.getD x.pc 0xFFFFFFFF) 30 2 = 2 then 3 else 2

/-- A controller command traps: its context is held with no effect, and the trap is raised (R412, R416, R417).  A
supervisor's command has no effect and the supervisor goes on. -/
def State.trapCmd (s : State) (c cause : Nat) : State :=
  let x := s.ctx c
  if isSupId c then s.setCtx c (x.past x.skipLen)
  else (s.setCtx c { x with trapped := some cause, trapAfter := false }).raise (s.ctxDie c)
    { cause := cause, ctx := c, info := x.info }

/-- The sequencer of a context may issue a command: a fault, a pre-emption or a swap-out outranks it (R66). -/
def Ctx.runs (x : Ctx) : Bool := x.st == .running && x.trapped.isNone && !x.reassign && x.preempt.isNone

/-- The timeline of a context (R284). -/
def State.timeline (s : State) (c : Nat) : Nat := (s.ctx c).timeline

/-- An engine operation has completed: it is counted and no longer outstanding (R288, R295). -/
def State.operDone (s : State) (eng num : Nat) : Bool :=
  let x := s.ctx eng
  decide (num ≤ x.accepted) && !(x.ops.any fun o => o.num == num && !o.done)

/-- The programs of a fork have ended: the mask of those that halted (R281). -/
def ForkRec.mask (f : ForkRec) : Option Nat :=
  if f.progs.all fun p => p.2.1 then
    some ((List.range f.progs.length).foldl (fun a i => a + (if (f.progs.getD i (0, true, false)).2.2 then 2 ^ i else 0)) 0)
  else none

/-- A die queue. -/
def State.dieQueue (s : State) (die q : Nat) : DieQueue := tgetD (s.die die).queues q {}

/-- A WAITING context whose consuming wait on a semaphore would be satisfied by its count as it stands (R271). -/
def State.semWaits (s : State) (c cl sm : Nat) : Bool :=
  let x := s.ctx c
  match x.waitFor with
  | .sem k thr true _ =>
    x.st == .waiting && x.trapped.isNone && decide (k = sm ∧ s.homeCl c = cl ∧ thr ≤ s.sem cl sm) && (s.teamOut c cl sm).isNone
  | _ => false

/-- No other context's wait on the semaphore comes first in the order of R271: consuming waits by context id, then the
others. -/
def State.semFirst (s : State) (c cl sm : Nat) (sub : Bool) : Bool :=
  s.ctxs.all fun p => p.1 == c || (sub && decide (c < p.1)) || !s.semWaits p.1 cl sm

/-- A wait may be tested in this CYCLE: a semaphore's in the order of R271, after the waits that come first. -/
def State.condTurn (s : State) (c : Nat) (k : WaitCond) : Bool :=
  match k with
  | .sem sm _ sub _ =>
    s.semTurn (s.homeCl c) sm (if sub then semPlace 3 c else semPlace 4 0) && s.semFirst c (s.homeCl c) sm sub
  | _ => true

/-- A wait is tested: the state after it is satisfied, with the value it found; none while it is not (R268, R271,
R283).  A satisfied wait acquires (R313). -/
def State.condMet (s : State) (c : Nat) (k : WaitCond) : Option (State × Nat) :=
  match k with
  | .none => some (s, 0)
  | .sem sm thr sub sc =>
    let cl := s.homeCl c
    let n := s.sem cl sm
    if (s.teamOut c cl sm).isSome ∨ n < thr then none
    else
      let s1 := (if sub then s.setSem cl sm (n - thr) else s).semNote cl sm (if sub then semPlace 3 c else semPlace 4 0)
      some (s1.acquire c sc (objSem cl sm), n)
  | .timeline t n sc => if n ≤ s.timeline t then some (s.acquire c sc (objTimeline t), 0) else none
  | .phase l g p sc =>
    if bit (s.group l g).word 48 = p then none
    else some (s.acquire c sc (objGroup l g), 0)
  | .expected l g =>
    if (s.group l g).expect.contains c then some (s, 0) else none
  | .joined n sc =>
    match (s.ctx c).forks.find? fun f => f.number == n with
    | some f => f.mask.map fun m => (f.progs.foldl (fun s p => s.acquire c sc (objTimeline p.1)) s, m)
    | none => none
  | .oper e n sc => if s.operDone e n then some (s.acquire c sc (objTimeline e), 0) else none
  | .entry d q sc => if (s.dieQueue d q).entries = [] then none else some (s.acquire c sc (objQueue d q), 0)
  | .replied w => some (s, 2 ^ 64 + w.toNat)
  | .reply => if (s.ctx c).stealGot.isSome then some (s.acquire c .device (objReply c), 0) else none
  | .start =>
    let x := s.ctx c
    if x.starts = 0 then none else some (s.setCtx c { x with starts := x.starts - 1 }, 0)
  | .idle q =>
    let x := s.ctx c
    if !x.stepOn ∧ (!q ∨ x.quiet) then some (s, 0) else none
  | .idleAt r => if !(s.ctx r).stepOn ∧ (s.ctx r).quiet then some (s, 0) else none

/-- A context waits at step 2 or step 3 (R65, R268). -/
def State.waits (s : State) (c : Nat) (k : WaitCond) : State := s.modCtx c fun x => { x with st := .waiting, waitFor := k }

/-- The signal field of a command (R180, R268). -/
def signalOf (x : Ctx) (w : CtlP2) : Signal := ⟨w.ssem.toNat, w.sinc.toNat, w.scope, x.info⟩

/-- A command completes at issue: the sequencer moves past it and its signal is sent (R270). -/
def State.finish (s : State) (c : Nat) (w : CtlP2) (len : Nat) : State :=
  let x := s.ctx c
  (s.setCtx c (x.past len)).signal c (signalOf x w)

/-- A command holds its sequencer until it completes (R270). -/
def State.holdCmd (s : State) (c : Nat) (w : CtlP2) (len : Nat) (h : Hold) : State :=
  s.modCtx c fun x => { x with hold := h, holdLen := len, holdSig := signalOf x w }

/-- A branch: the sequencer moves to a parcel offset, and the command's signal is sent (R276). -/
def State.branch (s : State) (c : Nat) (w : CtlP2) (target : Nat) : State :=
  let x := s.ctx c
  (s.setCtx c { x.past 0 with pc := target }).signal c (signalOf x w)

/-- A command's own parts. -/
structure Cmd where
  /-- A trap at decode: the cause (R267, R277, R416). -/
  pre   : State → Nat → Option Nat := fun _ _ => none
  /-- A trap for its operands (R416), of a command without an own condition, or one whose condition its operands name. -/
  check : State → Nat → Option Nat := fun _ _ => none
  /-- The releases of its issue may take effect: what they cover has been performed (R313, R314). -/
  ready : State → Nat → Bool := fun _ _ => true
  /-- What is done when step 3 begins, before its condition is tested. -/
  begin : State → Nat → State := fun s _ => s
  /-- Its own condition (R268 step 3). -/
  cond  : State → Nat → WaitCond := fun _ _ => .none
  /-- A trap at step 4, after its own condition (R268, R416). -/
  late  : State → Nat → Option Nat := fun _ _ => none
  /-- Its issue, given the value that its own condition found. -/
  act   : State → Nat → Nat → Out

/-- TLBI may complete: the walks that it waits for have ended, the requests have been performed or have failed, and the
quorum operations are over (R307). -/
def State.tlbiDone (s : State) (walks : List Walk) (reqs : List (Nat × Bool × Nat)) (ops : List Nat) : Bool :=
  !(walks.any s.walks.contains) &&
  (reqs.all fun q => (s.mu q.1 q.2.1).reqs.all fun r => r.num != q.2.2 || r.performed || r.st == .failed) &&
  s.qops.all fun q => !ops.contains q.id || q.finished || q.failed != 0

/-- What is parked on a die until its next TLBI waits for a walk from now on (R430). -/
def State.unhold (s : State) (die : Nat) : State :=
  let req (r : MuReq) : MuReq := { r with onTlbi := false }
  let item (i : MuItem) : MuItem := match i with | .req r => .req (req r) | _ => i
  let mu (m : Mu) : Mu := { m with items := m.items.map item }
  { s with
    tiles := s.tiles.map fun p => if ptDie p.1 = die then (p.1, { p.2 with mu0 := mu p.2.mu0, mu1 := mu p.2.mu1 }) else p
    ctxs := s.ctxs.map fun p => if idDie p.1 = die
      then (p.1, { p.2 with ops := p.2.ops.map fun (o : EngOp) => { o with onTlbi := false } }) else p }

/-- The accesses that wait for a TLBI of a die's supervisor walk again (R430). -/
def State.retryFaults (s : State) (die : Nat) : State :=
  let mine (f : XlFault) : Bool := f.onTlbi && decide (f.walk.die = die)
  let go := (s.xlPend.filter mine).map (·.walk)
  { s.unhold die with
    xlPend := s.xlPend.filter fun f => !mine f
    walks := s.walks ++ (go.filter fun w => !s.walks.contains w).dedup }

/-- A stage of a context's launch. -/
def State.stageOf (s : State) (c k : Nat) : Option Stage :=
  match s.launchOf c with
  | some (_, la) => la.stages[k]?
  | none => none

/-- A context in this state that is to halt has still to do so (R65). -/
def CtxSt.halting : CtxSt → Bool
  | .loading | .ready | .running | .waiting | .draining | .migrating => true
  | _ => false

/-- A context that holds its sequencer looks whether its command has completed. -/
def State.poll (s : State) (c : Nat) (h : Hold) : Out :=
  match h with
  | .susp t => if (s.ctx t).st.halting then stall s else .next (s.complete c)
  | .resm t d => if (s.ctx t).st = .suspended then stall s else .next ((s.modCtx c fun x => x.setX d 0).complete c)
  | .tlbi ws rs os => if s.tlbiDone ws rs os then .next ((s.retryFaults (idDie c)).complete c) else stall s
  | .mapsel k => if (s.stageOf c k).any (fun st => st.target.isSome) then stall s else .next (s.complete c)
  | .qsend => if s.dies.any (fun d => d.2.queues.any fun q => q.2.inbound.any fun e => e.2.2 == c) then stall s
      else .next (s.complete c)
  | _ => stall s

/-- Step 4: the command traps, or it issues (R268). -/
def Cmd.issue (d : Cmd) (s : State) (c v : Nat) : Out :=
  match d.late s c with
  | some cause => .next (s.trapCmd c cause)
  | none => d.act s c v

/-- Step 3: the command's own condition, which holds back its issue (R268). -/
def Cmd.own (d : Cmd) (s : State) (c : Nat) : Out :=
  match d.check s c with
  | some cause => .next (s.trapCmd c cause)
  | none =>
    if !d.ready s c then stall s
    else
      let s1 := d.begin s c
      let k := d.cond s1 c
      if !s1.condTurn c k then stall s1
      else match s1.condMet c k with
        | none => .next (s1.waits c k)
        | some (s2, v) => d.issue s2 c v

/-- Every command passes through the steps of R268 in order; that its fields are in their limits is checked when it is
decoded (`fetchCtl`). -/
def runCmd (w : CtlP2) (d : Cmd) (s : State) : Out :=
  match s.cur with
  | .ctl c =>
    let x := s.ctx c
    if !x.runs then stall s
    else if x.hold ≠ .none then s.poll c x.hold
    else match d.pre s c with
      | some cause => .next (s.trapCmd c cause)
      | none =>
        let k : WaitCond := if x.waitDone ∨ w.wthr = 0 then .none else .sem w.wsem.toNat w.wthr.toNat w.wc w.scope
        if !s.condTurn c k then stall s
        else match s.condMet c k with
          | none => .next (s.waits c k)
          | some (s1, _) =>
            let s2 := s1.modCtx c fun x => { x with waitDone := true }
            if x.ownDone then d.issue s2 c x.ownVal else d.own s2 c
  | _ => .fault .wrongAgent

/-- A command that completes at issue with an effect on the state. -/
def atIssue (w : CtlP2) (len : Nat) (f : State → Nat → State) : Cmd :=
  { act := fun s c _ => .next ((f s c).finish c w len) }

/-- Only a region controller may issue the command (R277). -/
def regionOnly (_ : State) (c : Nat) : Option Nat := if isRegionId c then none else some causeUnassigned

/-- A trap unless a condition holds. -/
def trapUnless (b : Bool) (cause : Nat := causeUnassigned) : Option Nat := if b then none else some cause

/-- A context's wait has been satisfied with a value: it does not wait again (R66). -/
def Ctx.satisfied (x : Ctx) (v : Nat) : Ctx :=
  let y := if x.waitDone then { x with ownDone := true, ownVal := v } else { x with waitDone := true }
  { y with waitFor := .none }

/-- A region context whose wait is satisfied: READY; one whose held arrival has been applied is MIGRATING when a migration is
posted, which outranks the condition (R65, R66, R349). -/
def Ctx.woken (x : Ctx) (v cycle : Nat) : Ctx :=
  match x.waitFor, x.migr with
  | .replied _, some _ => { x.satisfied v with st := .migrating }
  | _, _ => { x.satisfied v with st := .ready, readyAt := cycle }

/-- CONTEXT_WAKE: the condition of a WAITING context has become true; it is READY and does not wait again (R65, R66,
R268).  An engine context or a supervisor goes on at once.  A pre-emption outranks it: what became true is recorded, for
the saved image (R66). -/
def execContextWake (c : Nat) (s : State) : Out :=
  let x := s.ctx c
  if x.st ≠ .waiting ∨ x.trapped.isSome ∨ x.waitFor = .none ∨ !s.condTurn c x.waitFor then stall s
  else match s.condMet c x.waitFor with
    | none => stall s
    | some (s1, v) =>
      .next (s1.modCtx c fun x =>
        if x.preempt.isSome then x.satisfied v
        else if isRegionId c then x.woken v s.cycle
        else { x.satisfied v with st := .running })

end Sys2Proof.Machine
end

