-- ==== Sys2Proof/Machine/Groups.lean ====
section
/-! DEFINITION. Groups: membership, the group barrier word, and retirement (R59 to R62, R263, R264, R273, R281, R287,
R302, R415, R419). -/

namespace Sys2Proof.Machine

/-- ARRIVED of a barrier word (R264). -/
def barArrived (w : Word64) : Nat := fld w 0 24
/-- EXPECTED of a barrier word (R264). -/
def barExpected (w : Word64) : Nat := fld w 24 24

/-- One arrival at a barrier word: none is the barrier fault (R263). -/
def barArrive (w : Word64) : Option Word64 :=
  if fld w 49 15 ≠ 0 ∨ barExpected w = 0 ∨ barArrived w ≥ barExpected w then none
  else if barArrived w + 1 = barExpected w then some (setFld (setFld w 0 24 0) 48 1 (1 - fld w 48 1))
  else some (setFld w 0 24 (barArrived w + 1))

/-- A member arrives in the current phase: the word before and the group after; none is the barrier fault (R62, R287).
The last arrival begins the next phase, in which every member is expected. -/
def Group.arrive (g : Group) (c : Nat) : Option (Word64 × Group) :=
  if g.arrived.contains c then none
  else match barArrive g.word with
    | none => none
    | some w =>
      if fld w 48 1 = fld g.word 48 1 then some (g.word, { g with word := w, arrived := g.arrived ++ [c] })
      else some (g.word, { g with
        word := setFld w 24 24 g.members.length, arrived := [], expect := g.members, opened := none })

/-- A context is in the current phase no more: if it comes back, it is a joining member (R62). -/
def Group.forget (g : Group) (c : Nat) : Group :=
  { g with expect := g.expect.filter (· != c), arrived := g.arrived.filter (· != c) }

/-- A context leaves a group: a member that has not arrived in the current phase counts as arrived (R61, R62). -/
def Group.leave (g : Group) (c : Nat) : Group :=
  if g.members.contains c then
    let g1 := { g with members := g.members.filter (· != c) }
    if g.expect.contains c && !g.arrived.contains c then
      match g1.arrive c with | some (_, g2) => g2.forget c | none => g1.forget c
    else g1.forget c
  else g

/-- A context joins a group in a CYCLE: it is expected from the next phase on, or at once when no member is expected, or none
was when another joined in the same CYCLE (R61, R62). -/
def Group.join (g : Group) (c cycle : Nat) : Group :=
  if g.members.contains c then g
  else
    let g1 := { g with members := g.members ++ [c] }
    if barExpected g.word = 0 then
      { g1 with word := setFld g.word 24 24 g1.members.length, expect := g1.members, arrived := [], opened := some cycle }
    else if g.opened = some cycle then { g1 with word := setFld g.word 24 24 g1.members.length, expect := g1.members }
    else g1

/-- The phase has begun: the arrivals that members held back for it are applied, each with the word before it as its
reply (R62, R263). -/
def State.heldArrivals (s : State) (l g : Nat) : State :=
  (s.group l g).members.foldl (fun s m =>
    if (s.ctx m).waitFor = .expected l g ∧ (s.group l g).expect.contains m then
      match (s.group l g).arrive m with
      | some (w, g1) => ((s.raceRelease m (objGroup l g)).setGroup l g g1).modCtx m fun x => { x with waitFor := .replied w }
      | none => s
    else s) s

/-- A context leaves a group of its launch (R61, R302). -/
def State.leaveGroup (s : State) (c g : Nat) : State :=
  match s.launchOf c with
  | none => s
  | some (l, la) =>
    ((s.setGroup l g ((la.group g).leave c)).modCtx c fun x =>
      { x with members := x.members.map fun m => if m = some g then none else m }).heldArrivals l g

/-- A collective fails: it faults every member, also one whose own part is done (R297, R415, R447). -/
def State.collFail (s : State) (k fcode : Nat) : State :=
  match tget s.colls k with
  | none => s
  | some co =>
    if co.failed then s
    else
      let s1 := { s with colls := tset s.colls k { co with failed := true } }
      let cctx := (co.entries.head?.map (·.cctx)).getD 0
      co.members.foldl (fun s m =>
        let e := (co.entries.find? fun e => e.ctx == m)
        s.faultCtx m fcode 0x7F 0 ((e.map (·.cctx)).getD cctx % 1024)) s1

/-- The collectives that a context is a member of and that have not completed fail (R419). -/
def State.failColls (s : State) (c fcode : Nat) : State :=
  s.colls.foldl (fun s p =>
    if p.2.members.contains c ∧ !p.2.failed ∧ !(p.2.entries.length == p.2.members.length && p.2.entries.all (·.done))
    then s.collFail p.1 fcode else s) s

/-- The group table entries of a context at placement: its groups in ascending number, four at most (R60). -/
def Launch.entries (la : Launch) (c : Nat) : Vector (Option Nat) 4 :=
  let gs := (la.groups.filter fun g => g.2.members.contains c).map (·.1)
  Vector.ofFn fun k : Fin 4 => gs[k.val]?

/-- The launch port of a function. -/
def State.port (s : State) (fn : Nat) : Port := tgetD s.ports fn {}

/-- LSTAT (R375). -/
def Port.lstat (p : Port) : Word64 :=
  BitVec.ofNat 64 (p.count % 2 ^ 32 * 2 ^ 32 + b2n p.drop * 2 ^ 7 + b2n p.refused * 2 ^ 6 + p.st % 4)

/-- A function's port changes; a change of LSTAT is signalled to the host by vector 0 (R375, R377). -/
def State.lstat (s : State) (fn : Nat) (f : Port → Port) : State :=
  let p := s.port fn
  { s with ports := tset s.ports fn (f p), msix := if s.hostUp ∧ (f p).lstat ≠ p.lstat then s.msix ++ [(fn, 0)] else s.msix }

/-- A context leaves every group (R61, R65). -/
def State.leaveAll (s : State) (c : Nat) : State := (s.ctx c).groups.foldl (fun s g => s.leaveGroup c g) s

/-- A context of a launch has retired; with the last, the port is IDLE and its count rises (R376). -/
def State.launchRetired (s : State) (c : Nat) : State :=
  match s.launchOf c with
  | none => s
  | some (l, la) =>
    let la1 := { la with live := la.live.filter (· != c) }
    let s1 := { s with launches := tset s.launches l la1 }
    if la.live ≠ [] ∧ la1.live = [] then
      s1.lstat la.fn fun p => { p with st := 0, count := (p.count + 1) % 2 ^ 32 }
    else s1

/-- A region context retires: it leaves every group (R65, R376, R419). -/
def State.retire (s : State) (c fcode : Nat) : State :=
  let s1 := (s.modCtx c fun x => { x with st := .retired, hold := .none, trapped := none, readyAt := s.cycle })
  let s2 := s1.failColls c fcode
  let s3 := s2.modCtx c fun x => { x with st := .retired }
  (s3.leaveAll c).launchRetired c

/-- The forked program of an engine context ends, by END or HALT (R273, R281). -/
def State.endProgram (s : State) (c : Nat) (halt : Bool) : State :=
  let x := s.ctx c
  let s1 := (s.raceRelease c (objTimeline c)).setCtx c { x with st := .free, halted := halt, hold := .none, waitFor := .none }
  s1.modCtx x.forker fun f => { f with forks := f.forks.map fun r =>
    if r.number = x.underFork then
      { r with progs := r.progs.map fun p => if p.1 = c then (c, true, halt) else p }
    else r }

/-- GRPJ: the issuer joins a group, and its race-detection scope (R61, R62, R302, R435). -/
def execGrpj (imm : BitVec 8) (w : CtlP2) (s : State) : Out :=
  let g := imm.toNat
  runCmd w {
    check := fun s c =>
      let x := s.ctx c
      match s.launchOf c with
      | none => some causeUnassigned
      | some (_, la) =>
        if (la.group g).members.contains c then none
        else trapUnless ((x.members.toList.any fun m => m == none) && decide ((la.group g).members.length < 4096))
    act := fun s c _ =>
      let s1 := match s.launchOf c with
        | none => s
        | some (l, la) =>
          if (la.group g).members.contains c then s
          else
            let k := (s.ctx c).members.toList.findIdx fun m => m == none
            ((s.setGroup l g ((la.group g).join c s.cycle)).modCtx c fun x =>
              { x with members := x.members.set (Fin.ofNat 4 k) (some g) }).track (s.homeCl c) c
      .next (s1.finish c w 2) } s

/-- GRPL: the issuer leaves a group (R61, R62, R302). -/
def execGrpl (imm : BitVec 8) (w : CtlP2) (s : State) : Out :=
  runCmd w (atIssue w 2 fun s c => s.leaveGroup c imm.toNat) s

/-- The group of a barrier command: member, and with the barrier use (R287). -/
def State.barrierCheck (s : State) (c g : Nat) : Option Nat :=
  match s.launchOf c with
  | none => some causeUnassigned
  | some (_, la) =>
    trapUnless ((la.group g).members.contains c && bit (BitVec.ofNat 4 (la.group g).use) 0)

/-- The launch number of a context. -/
def State.launchNo (s : State) (c : Nat) : Nat := ((s.ctx c).launch).getD 0

/-- A release at a scope by the command that a context issues may take effect now: what it covers has been performed; a
wider release before it may still be held back (R314). -/
def State.mayRelease (s : State) (c : Nat) (sc : Scope) : Bool := s.covered c (s.ctx c).stepNo sc

/-- BARGA has its reply: it completes, and a posted migration begins (R287, R349). -/
def State.bargaDone (s : State) (c : Nat) (d : XReg) (w : CtlP2) (w0 : Word64) : State :=
  let s1 := (s.modCtx c fun x => x.setX d w0).finish c w 2
  if (s.ctx c).migr.isSome then s1.modCtx c fun x => { x with st := .migrating } else s1

/-- BARGA: one arrival at the group's barrier word, a release; that of a member not yet expected is held until the next
phase begins; a posted migration is honoured here (R62, R287, R314, R349). -/
def execBarga (d : XReg) (imm : BitVec 8) (w : CtlP2) (s : State) : Out :=
  let g := imm.toNat
  runCmd w {
    check := fun s c => s.barrierCheck c g
    ready := fun s c => s.mayRelease c w.scope
    cond := fun s c => .expected (s.launchNo c) g
    act := fun s c v =>
      let l := s.launchNo c
      if 2 ^ 64 ≤ v then .next (s.bargaDone c d w (BitVec.ofNat 64 (v - 2 ^ 64)))
      else match (s.group l g).arrive c with
        | none => .next (s.faultCtx c fcBarrier 0x7E 0 ((s.ctx c).pc % 1024))
        | some (w0, g1) =>
          let s1 := (s.raceRelease c (objGroup l g)).setGroup l g g1
          .next ((s1.bargaDone c d w w0).heldArrivals l g) } s

/-- BARGW: waits for the phase to differ from XA[0], an acquire (R285, R287). -/
def execBargw (a : XReg) (imm : BitVec 8) (w : CtlP2) (s : State) : Out :=
  let g := imm.toNat
  runCmd w {
    check := fun s c => s.barrierCheck c g
    cond := fun s c => .phase (s.launchNo c) g (bit ((s.ctx c).getX a) 0) w.scope
    act := fun s c _ => .next (s.finish c w 2) } s

end Sys2Proof.Machine
end

