-- ==== Sys2Proof/Machine/Space.lean ====
section
/-! DEFINITION. Layout entries, the places they give, translation, and one element access (R119 to R131, R139, R140,
R317, R332, R402, R435 to R439, R457). -/

namespace Sys2Proof.Machine

/-! ### Layout entries (R119) -/

/-- Word `k` of an entry. -/
def ltWord (lt : List Word64) (k : Nat) : Word64 := lt.getD k 0
/-- BASE. -/
def ltBase (lt : List Word64) : Nat := fld (ltWord lt 0) 0 57
/-- SPACE. -/
def ltSpace (lt : List Word64) : Nat := fld (ltWord lt 1) 0 3
/-- RANK. -/
def ltRank (lt : List Word64) : Nat := fld (ltWord lt 1) 8 3
/-- ACCESS. -/
def ltAccess (lt : List Word64) : Nat := fld (ltWord lt 1) 24 2
/-- OOB. -/
def ltOob (lt : List Word64) : Nat := fld (ltWord lt 1) 26 2
/-- The format of a code of R93. -/
def fmtOf (n : Nat) : Option Fmt := (Decode.fmt n).toOption
/-- ELEMENT. -/
def ltElem (lt : List Word64) : Option Fmt := fmtOf (fld (ltWord lt 1) 28 4)
/-- EXTENT[k]. -/
def ltExtent (lt : List Word64) (k : Nat) : Nat := fld (ltWord lt (2 + k)) 32 32
/-- STRIDE[k]. -/
def ltStride (lt : List Word64) (k : Nat) : Int := signedOf 32 (fld (ltWord lt (2 + k)) 0 32)

/-- A word of a layout entry with its reserved fields at 0 (R6, R8, R119). -/
def ltMasked (k : Nat) (w : Word64) : Word64 :=
  w &&& (match k with | 0 => 0x01FFFFFFFFFFFFFF | 1 => 0x0FF00000FF000707 | 7 => 0 | _ => 0xFFFFFFFFFFFFFFFF)

/-- A layout entry with its reserved fields at 0. -/
def ltClean (ws : List Word64) : List Word64 := (List.range 8).map fun k => ltMasked k (ws.getD k 0)

/-- The entry holds no unassigned code (R119). -/
def ltCodes (lt : List Word64) : Bool :=
  decide (1 ≤ ltRank lt ∧ ltRank lt ≤ 5 ∧ ltOob lt ≠ 3 ∧ ltAccess lt ≠ 0) && (decide (ltSpace lt ≥ 3) || (ltElem lt).isSome)

/-- A translated space (R123). -/
def ltVirtual (lt : List Word64) : Bool := decide (ltSpace lt ≥ 3)

/-- Layout entry `n` of a context's view; an entry that was never written is 0. -/
def Ctx.lt (x : Ctx) (n : Nat) : List Word64 := tgetD x.layout n []

/-! ### Places (R120, R121, R124, R139, R332, R457) -/

/-- Where an agent stands: the tile whose scratchpad LOCALSP names, and the cluster of CLUSTERSP. -/
structure Stand where
  loc : Option Nat
  cl  : Nat
  deriving DecidableEq, Repr

/-- The physical tile of a logical tile of a cluster (R332, R388). -/
def State.ptile (s : State) (cl t : Nat) : Nat :=
  cl * 96 + fld (s.reg (cl / 6) 0x56 (1024 + 96 * (cl % 6) + t)) 0 7 % 96

/-- A scratchpad byte offset through the bank permutation of an entry: the place in the permuted bank and row (R139). -/
def swizzle (lt : List Word64) (off : Nat) : Nat :=
  let q := off / 64
  let mix := (q >>> (fld (ltWord lt 1) 56 4 + 4)) &&& fld (ltWord lt 1) 52 4
  (q / 16 * 16 + ((q % 16) ^^^ mix)) * 64 + off % 64

/-- A coordinate tuple lies in extent (R120). -/
def ltInside (lt : List Word64) (e : List Int) : Bool :=
  (List.range (ltRank lt)).all fun k => decide (0 ≤ e.getD k 0 ∧ e.getD k 0 < ltExtent lt k)

/-- A coordinate tuple clamped (R121); none where an extent is 0. -/
def ltClamp (lt : List Word64) (e : List Int) : Option (List Int) :=
  if (List.range (ltRank lt)).any fun k => decide (ltExtent lt k = 0) then none
  else some ((List.range (ltRank lt)).map fun k =>
    let v := e.getD k 0
    if v < 0 then 0 else if v < ltExtent lt k then v else (ltExtent lt k : Int) - 1)

/-- The bit address of an element of width `w` (R120). -/
def ltBit (lt : List Word64) (w : Nat) (e : List Int) : Int :=
  (ltBase lt * 8 : Nat) + ((List.range (ltRank lt)).map fun k => e.getD k 0 * ltStride lt k).sum * (w : Int)

/-- The place of an element that is in extent; none is an address fault (R120, R124). -/
def State.place (s : State) (a : Stand) (lt : List Word64) (w : Nat) (e : List Int) : Option Spot :=
  let b := ltBit lt w e
  if b < 0 ∨ b % (w : Int) ≠ 0 then none
  else
    let n := b.toNat
    let spad (pt m : Nat) : Spot := .spad pt (swizzle lt (m / 8) * 8 + m % 8)
    match ltSpace lt with
    | 0 => if n < 524288 * 8 then a.loc.map fun pt => spad pt n else none
    | 1 => if n < 50331648 * 8 then some (spad (s.ptile a.cl (n / 4194304)) (n % 4194304)) else none
    | 2 => if n < 16384 * 8 then some (.slot 0 0 n) else none
    | _ => if n < 2 ^ 60 then some (.virt n) else none

/-- The virtual bit address of a place. -/
def Spot.va : Spot → Option Nat
  | .virt b => some b
  | _ => none

/-- One element of a request by R121: in extent, absent, clamped, dropped; none is an address fault or OOB TRAP.  An
absent index gives no coordinates. -/
def State.elemFor (s : State) (a : Stand) (lt : List Word64) (w : Nat) (reads : Bool) (e : Option (List Int)) :
    Option Elem :=
  match e with
  | none => some { spot := .nowhere, done := true }
  | some cs =>
    if ltInside lt cs then (s.place a lt w cs).map fun p => { spot := p, va := p.va }
    else match ltOob lt with
      | 0 => some { spot := .nowhere, done := true }
      | 1 =>
        match (if reads then ltClamp lt cs else none) with
        | some ds => (s.place a lt w ds).map fun p => { spot := p, va := p.va, drop := true }
        | none => some { spot := .nowhere, done := true }
      | _ => none

/-- A list of answers, or none when one is none. -/
def allSome {α : Type} : List (Option α) → Option (List α)
  | [] => some []
  | none :: _ => none
  | some x :: t => (allSome t).map (x :: ·)

/-! ### Translation (R126 to R131) -/

/-- The physical address is assigned (R126). -/
def paAssigned (pa : Nat) : Bool :=
  paHbm pa || paFar pa || decide (2 ^ 50 ≤ pa ∧ pa < 2 ^ 50 + 2 ^ 48) || decide (2 ^ 51 ≤ pa ∧ pa < 2 ^ 52)

/-- ADDR of a page-table word (R127). -/
def pteAddr (w : Word64) : Nat := fld w 9 43 * 512

/-- Lowest virtual-address bit that a level indexes (R130). -/
def levelShift (l : Nat) : Nat := match l with | 0 => 16 | 1 => 21 | 2 => 30 | 3 => 39 | _ => 48

/-- The walk from a table of a level down: the leaf's size in bits and its two words; none is a translation fault
(R130).  A root is used as it stands, aligned or not (log entry 32). -/
def State.walkFrom (s : State) (va : Nat) : Nat → Nat → Option (Nat × Word64 × Word64)
  | l, t =>
    if !paAssigned t then none
    else
      let n := if l = 0 then natBits va 16 5 else natBits va (levelShift l) 9
      let e := t + 16 * n
      let w0 : Word64 := BitVec.ofNat 64 (memNat s.mem e 8)
      let w1 : Word64 := BitVec.ofNat 64 (memNat s.mem (e + 8) 8)
      let a := pteAddr w0
      if !bit w0 0 then none
      else if bit w0 1 then
        if l ≥ 3 ∨ a % 2 ^ levelShift l ≠ 0 ∨ !paAssigned a then none else some (levelShift l, w0, w1)
      else match l with
        | 0 => none
        | l' + 1 => if a % (if l' = 0 then 512 else 8192) ≠ 0 then none else s.walkFrom va l' a

/-- The walk of a virtual address from a root (R130). -/
def State.walkVa (s : State) (root va : Nat) : Option TlbEnt :=
  (s.walkFrom va 4 root).map fun r => ⟨root, va / 2 ^ r.1 * 2 ^ r.1, r.1, r.2.1, r.2.2⟩

/-- The addresses of the table entries that a walk reads, from a table of a level down (R130). -/
def State.walkReads (s : State) (va : Nat) : Nat → Nat → List Nat
  | l, table =>
    let pa := table + natBits va (levelShift l) (if l = 0 then 5 else 9) * 16
    let w0 : Word64 := BitVec.ofNat 64 (memNat s.mem pa 8)
    pa :: (match l with
      | 0 => []
      | l' + 1 => if bit w0 0 && !bit w0 1 then s.walkReads va l' (pteAddr w0) else [])

/-- The entry maps a virtual address of an address space. -/
def TlbEnt.maps (t : TlbEnt) (root va : Nat) : Bool := decide (t.root = root ∧ va / 2 ^ t.size * 2 ^ t.size = t.va)

/-- The 64 KiB page of a virtual address. -/
def vaPage (va : Nat) : Nat := va / 65536

/-- Two virtual addresses of an address space lie in one page, of the size that its tables give; where they map nothing,
in one page of 64 KiB (R130, R131). -/
def State.samePage (s : State) (root a b : Nat) : Bool :=
  vaPage a == vaPage b || (match s.walkVa root a with | some t => t.maps root b | none => false)

/-- The physical address of a virtual one. -/
def TlbEnt.pa (t : TlbEnt) (va : Nat) : Nat := pteAddr t.w0 + va % 2 ^ t.size

/-- FMT of the page (R127). -/
def TlbEnt.fmt (t : TlbEnt) : Option Fmt := fmtOf (fld t.w1 60 4)
/-- QSET of the page. -/
def TlbEnt.qset (t : TlbEnt) : Nat := fld t.w1 52 5
/-- TRACK of the page. -/
def TlbEnt.track (t : TlbEnt) : Bool := bit t.w1 5

/-- The page may be accessed through the entry (R125). -/
def TlbEnt.allows (t : TlbEnt) (lt : List Word64) (reads writes user : Bool) : Bool :=
  decide (fld t.w1 57 3 + 3 = ltSpace lt) &&
  (!reads || (bit t.w0 2 && decide (ltAccess lt ≠ 2))) && (!writes || (bit t.w0 3 && decide (ltAccess lt ≠ 1))) &&
  (!user || bit t.w0 4)

/-- The place of a virtual bit address in its page; the scale plane's byte for a block format (R128). -/
def TlbEnt.spot (t : TlbEnt) (f : Fmt) (b : Nat) : Spot :=
  let inPage := b % 2 ^ (t.size + 3)
  let scale := match f with
    | .mxint8 | .mxint4 | .mxfp4 => fld t.w1 6 46 * 64 + inPage / fmtWidth f / 32
    | _ => 0
  .phys (pteAddr t.w0 * 8 + inPage) f scale t.track

/-- Two entries map a common address of an address space. -/
def TlbEnt.overlaps (t e : TlbEnt) : Bool := t.maps e.root e.va || e.maps t.root t.va

/-- A TLB with an entry added, which replaces those of the same addresses (R131, R430); the oldest leaves when it is full. -/
def tlbAdd (cap : Nat) (e : TlbEnt) (l : List TlbEnt) : List TlbEnt :=
  if l.contains e then l
  else
    let rest := l.filter fun t => !t.overlaps e
    (if rest.length ≥ cap then rest.tail else rest) ++ [e]

/-- The TLB entry for a virtual address: of the memory unit, else of its cluster (R131). -/
def State.tlbFind (s : State) (mu : Option Nat) (cl root va : Nat) : Option TlbEnt :=
  match (match mu with | some k => (tgetD s.muTlb k []).find? fun t => t.maps root va | none => none) with
  | some t => some t
  | none => (tgetD s.clTlb cl []).find? fun t => t.maps root va

/-- The memory unit's TLB takes an entry that it used (R131). -/
def State.tlbFill (s : State) (mu : Option Nat) (t : TlbEnt) : State :=
  match mu with
  | some k => { s with muTlb := tset s.muTlb k (tlbAdd 64 t (tgetD s.muTlb k [])) }
  | none => s

/-- The root of a context's address space: the one the supervisor has assigned to its launch's function (R130, R387). -/
def State.root (s : State) (c : Nat) : Nat :=
  match s.launchOf c with
  | some (_, l) => (s.reg (s.ctxDie c) 0x58 l.fn).toNat
  | none => (s.reg (s.ctxDie c) 0x58 0).toNat

/-- The format pair is allowed (R129): page format, token type, store or load. -/
def pairOk (page ty : Fmt) (store : Bool) : Bool :=
  page == ty || match page, ty with
    | .mxint8, t | .mxint4, t | .mxfp4, t => t == .bf16 || (t == .fp32 && !store)
    | _, .fp32 | _, .bf16 | _, .int32 | _, .int8 => true
    | _, _ => false

/-- A block format. -/
def isBlock : Fmt → Bool
  | .mxint8 | .mxint4 | .mxfp4 => true
  | _ => false

/-- What translating the elements of a request gives. -/
inductive Res3 where
  | miss (va : Nat)
  | perm (va : Nat)
  | bad
  | ok (es : List Elem)
  deriving DecidableEq, Repr

/-- Every element that has a virtual place gets its physical one: every page present, allowed, and of format `f`. -/
def resolveElems (look : Nat → Option TlbEnt) (lt : List Word64) (f : Fmt) (reads writes user : Bool) :
    List Elem → List Elem → Res3
  | [], acc => .ok acc.reverse
  | e :: t, acc =>
    match e.spot with
    | .virt b =>
      match look (b / 8) with
      | none => .miss (b / 8)
      | some p =>
        if !p.allows lt reads (writes && !e.drop) user then .perm (b / 8)
        else if p.fmt ≠ some f then .bad
        else resolveElems look lt f reads writes user t ({ e with spot := p.spot f b } :: acc)
    | _ => resolveElems look lt f reads writes user t (e :: acc)

/-! ### Values in memory (R129, R139, R140, R317, R402) -/

/-- Who performs an access: the context, its cluster, and the tile of a memory unit. -/
structure Who where
  ctx : Nat
  cl  : Nat
  mu  : Option Nat
  deriving DecidableEq, Repr

/-- The L1 that serves an access to a physical address (R140, R317); the address alone decides, whatever MTYPE its page has
(log entry 32). -/
def State.l1For (s : State) (w : Who) (pa : Nat) (track : Bool) : Option Nat :=
  let fused := (s.cl w.cl).fused
  let home := w.cl * 96 + pa / 192 % 96
  if !(paHbm pa || paFar pa) then none
  else match w.mu with
    | some pt => if fused then some home else if track then none else some pt
    | none => if fused && track then some home else none

/-- The copy of a sector in an L1. -/
def State.l1Find (s : State) (pt sector : Nat) : Option L1Sector := s.l1.find? fun e => e.pt == pt && e.sector == sector

/-- The sectors of an LLC slice (R1, R17). -/
def llcSectors : Nat := 768 * 2 ^ 20 / 48

/-- The die whose LLC slice caches an HBM4E sector (R13). -/
def llcDie (sector : Nat) : Nat := 48 * sector / 2 ^ 36 / 2

/-- A sector of HBM4E stands in its LLC slice after an access, dirty once it has been written; a full slice replaces
another (R13, R141). -/
def State.llcFill (s : State) (sector : Nat) (write : Bool) : State :=
  if !paHbm (48 * sector) then s
  else match tget s.llc sector with
    | some d => { s with llc := tset s.llc sector (d || write) }
    | none =>
      let mine := s.llc.filter fun p => decide (llcDie p.1 = llcDie sector)
      let old := if mine.length ≥ llcSectors then (match mine with | p :: _ => tdel s.llc p.1 | [] => s.llc) else s.llc
      { s with llc := tset old sector write }

/-- The lines that a tile's L1 can hold (R1, R140). -/
def l1Lines : Nat := 256 * 1024 / 192

/-- The lines in the L1 of a tile, oldest first (R140). -/
def State.l1LinesOf (s : State) (pt : Nat) : List Nat := ((s.l1.filter fun e => e.pt == pt).map fun e => e.sector / 4).dedup

/-- A line of a full L1 is replaced (R317; log entry 25): one that a free value names. -/
def State.l1Room (s : State) (pt sector : Nat) : State :=
  let ls := s.l1LinesOf pt
  if ls.contains (sector / 4) ∨ ls.length < l1Lines then s
  else
    let k := ls.getD ((Config.freeWord s.freeCtr).toNat % ls.length) 0
    { s with l1 := s.l1.filter (fun e => !(e.pt == pt && e.sector / 4 == k)), freeCtr := s.freeCtr + 1 }

/-- A sector comes into an L1 from its LLC slice or port, if it is not there. -/
def State.l1Load (s : State) (pt sector : Nat) : State :=
  match s.l1Find pt sector with
  | some _ => s
  | none =>
    let s1 := (s.l1Room pt sector).llcFill sector false
    { s1 with l1 := s1.l1 ++ [⟨pt, sector, memBytes s.mem (48 * sector) 48, s.memPoison.contains sector⟩] }

/-- Bits of a byte list. -/
def bytesBits (bs : List Byte) (b w : Nat) : Nat := natBits (natOfBytes bs) b w

/-- A byte list with bits replaced. -/
def bytesPut (bs : List Byte) (b w v : Nat) : List Byte :=
  let n := natOfBytes bs
  natBytes (n - natBits n b w * 2 ^ b + v % 2 ^ w * 2 ^ b) bs.length

/-- Raw bits at a place, with its poison mark; a memory unit's read of cached memory goes through its L1. -/
def State.rawLoad (s : State) (w : Who) (width : Nat) (p : Spot) (llc : Bool) : Nat × Bool × State :=
  match p with
  | .spad pt b =>
    let k := spadKey pt 0 * 8 + b
    (memBits s.spad k width, s.spadPoison.contains (k / 512), s)
  | .slot pt n b =>
    let k := opndKey pt n 0 * 8 + b
    (memBits s.opnd k width, s.opndPoison.contains (k / 512), s)
  | .phys b _ _ track =>
    let sector := b / 384
    match (if llc || w.mu.isNone then none else s.l1For w (b / 8) track) with
    | none => (memBits s.mem b width, s.memPoison.contains sector, s.llcFill sector false)
    | some pt =>
      let s1 := s.l1Load pt sector
      match s1.l1Find pt sector with
      | some e => (bytesBits e.bytes (b % 384) width, e.poison, s1)
      | none => (memBits s.mem b width, s.memPoison.contains sector, s)
  | .nowhere | .virt _ => (0, false, s)

/-- The copies that a write of this agent updates: the L1 that serves it (R317, R402). -/
def State.l1Write (s : State) (w : Who) (b width v : Nat) (track poison : Bool) : State :=
  match s.l1For w (b / 8) track with
  | none => s
  | some pt => { s with l1 := s.l1.map fun e =>
      if e.pt = pt ∧ e.sector = b / 384 then
        { e with bytes := bytesPut e.bytes (b % 384) width v, poison := e.poison || poison }
      else e }

/-- Raw bits stored at a place; poisoned data marks the granule (R402). -/
def State.rawStore (s : State) (w : Who) (width v : Nat) (poison : Bool) (p : Spot) : State :=
  match p with
  | .spad pt b =>
    let k := spadKey pt 0 * 8 + b
    { s with spad := memPutBits s.spad k width v
             spadPoison := if poison then markAdd s.spadPoison (k / 512) else s.spadPoison }
  | .slot pt n b =>
    let k := opndKey pt n 0 * 8 + b
    { s with opnd := memPutBits s.opnd k width v
             opndPoison := if poison then markAdd s.opndPoison (k / 512) else s.opndPoison }
  | .phys b _ _ track =>
    ({ s with mem := memPutBits s.mem b width v
              memPoison := if poison then markAdd s.memPoison (b / 384) else s.memPoison }.llcFill (b / 384) true).l1Write w
      b width v track poison
  | .nowhere | .virt _ => s

/-- The sectors of places that a read without an L1 takes through their LLC slices (R141). -/
def State.llcRead (s : State) (ps : List Spot) : State :=
  ps.foldl (fun s p => match p with | .phys b _ _ _ => s.llcFill (b / 384) false | _ => s) s

/-- The format of the place: the page's, or the entry's ELEMENT. -/
def Spot.fmt (p : Spot) (el : Fmt) : Fmt :=
  match p with
  | .phys _ f _ _ => f
  | _ => el

/-- A value of a place's format as a token's TYPE (R113, R129). -/
def decodeElem (f ty : Fmt) (scale v : Nat) : Nat :=
  if f = ty then v else if isBlock f then (dequant f ty scale v).1 else convertPlain f ty v

/-- The scale plane's byte that a place's element shares, in a block format (R128). -/
def Spot.scaleAt (p : Spot) (f : Fmt) : Option Nat :=
  match p with
  | .phys _ _ a _ => if isBlock f then some a else none
  | _ => none

/-- A scale byte is read in memory, through its LLC slice and no L1 (R128, R141; log entry 32): the byte, the mark of its
sector, and the state. -/
def State.scaleRead (s : State) (a : Nat) : Nat × Bool × State :=
  ((memGet s.mem a).toNat, s.memPoison.contains (a / 48), s.llcFill (a / 48) false)

/-- A scale byte is written; poisoned data marks its sector (R128, R141, R402). -/
def State.scalePut (s : State) (a : Nat) (v : Byte) (poison : Bool) : State :=
  { s with mem := memSet s.mem a v
           memPoison := if poison then markAdd s.memPoison (a / 48) else s.memPoison }.llcFill (a / 48) true

/-- A load of one element in TYPE, with its poison (R129, R402): a block's element that is decoded takes its scale with it. -/
def State.load (s : State) (w : Who) (el ty : Fmt) (p : Spot) (llc : Bool) : Nat × Bool × State :=
  let f := p.fmt el
  let r := s.rawLoad w (fmtWidth f) p llc
  match (if f = ty then none else p.scaleAt f) with
  | none => (decodeElem f ty 0 r.1, r.2.1, r.2.2)
  | some a =>
    let x := r.2.2.scaleRead a
    (decodeElem f ty x.1 r.1, r.2.1 || x.2.1, x.2.2)

/-- A store of one element given in TYPE, outside the block formats (R129). -/
def State.store (s : State) (w : Who) (el ty : Fmt) (v : Nat) (poison : Bool) (p : Spot) : State :=
  let f := p.fmt el
  s.rawStore w (fmtWidth f) (if f = ty then v else convertPlain ty f v) poison p

/-! ### Errors on access (R438, R439, R442) -/

/-- The stack of an HBM4E address (R126). -/
def paStack (pa : Nat) : Nat := pa / 2 ^ 36
/-- The CXL port of a far address (R378). -/
def paPort (pa : Nat) : Nat := pa / 4096 % 4

/-- The L1 that holds the sector that a memory unit's read finds there. -/
def State.l1Hit (s : State) (w : Who) (b : Nat) (track : Bool) : Option Nat :=
  match s.l1For w (b / 8) track with
  | some t => if (s.l1Find t (b / 384)).isSome then some t else none
  | none => none

/-- An error found on an access to HBM4E memory, where the access finds the sector: in an L1, whose line is dropped and
fetched again; in the LLC slice, whose clean sector is fetched again; else in the stack (R438). -/
def State.eccPhys (s : State) (w : Who) (b : Nat) (track cached : Bool) (o : Ecc) : State :=
  let pa := b / 8
  let bad := decide (o = .uncorrected)
  match (if cached then s.l1Hit w b track else none) with
  | some t =>
    let s1 := s.eccRecord (ptDie t) (.cluster (ptCluster t)) .ce 9 0x10 (unitAddr t 0) w.ctx
    if bad then { s1 with l1 := s1.l1.filter fun e => !(e.pt == t && e.sector / 4 == b / 384 / 4) } else s1
  | none =>
    if !paHbm pa then s
    else
      let die := paStack pa / 2
      let lost (s : State) : State := { s with memPoison := markAdd s.memPoison (b / 384) }
      match tget s.llc (b / 384) with
      | some dirty =>
        let s1 := s.eccRecord die .global (if bad && dirty then .defd else .ce) 16 0x11 pa w.ctx
        if bad && dirty then lost s1 else s1
      | none =>
        let s1 := s.eccRecord die (.stack (paStack pa % 2)) (if bad then .defd else .ce) 17 0x12 pa w.ctx
        if bad then lost s1 else s1

/-- An error found on an access to a place: a record, and poison where it cannot be corrected (R438, R442); `cached` is a
read that an L1 may serve, and `elem` the element of the request. -/
def State.eccAt (s : State) (w : Who) (p : Spot) (cached : Bool) (o : Ecc) (elem : Nat := 0) : State :=
  match o with
  | .ok => s
  | o =>
    let cls : ErrClass := if o = .corrected then .ce else .defd
    match p with
    | .spad pt b =>
      let k := (spadKey pt 0 * 8 + b) / 512
      let s1 := s.eccRecord (ptDie pt) (.cluster (ptCluster pt)) cls 8 0x10 (unitAddr pt 0 elem) w.ctx
      if o = .uncorrected then { s1 with spadPoison := markAdd s1.spadPoison k } else s1
    | .slot pt n b =>
      let k := (opndKey pt n 0 * 8 + b) / 512
      let s1 := s.eccRecord (ptDie pt) (.cluster (ptCluster pt)) cls 10 0x10 (unitAddr pt 0 elem) w.ctx
      if o = .uncorrected then { s1 with opndPoison := markAdd s1.opndPoison k } else s1
    | .phys b _ _ track =>
      let pa := b / 8
      if paFar pa ∧ o = .uncorrected ∧ !(cached ∧ (s.l1Hit w b track).isSome) then
        let s1 := s.errRecord 0 (.cxl (paPort pa)) .defd 25 0x18 pa 0 w.ctx
        { s1 with memPoison := markAdd s1.memPoison (b / 384) }
      else s.eccPhys w b track cached o
    | .nowhere | .virt _ => s

/-- The HBM4E address that an access takes to its stack: no L1 and no LLC slice holds the sector (R140, R141). -/
def State.stackPa (s : State) (w : Who) (p : Spot) (cached : Bool) : Option Nat :=
  match p with
  | .phys b _ _ track =>
    if paHbm (b / 8) && (tget s.llc (b / 384)).isNone && !(cached && (s.l1Hit w b track).isSome) then some (b / 8) else none
  | _ => none

/-- The cooldown of a bank starts, or starts again for those that wait (R439). -/
def State.cool (s : State) (stack bank : Nat) : State :=
  let old := s.cooldown.find? fun c => c.stack == stack && c.bank == bank
  let rest := s.cooldown.filter fun c => !(c.stack == stack && c.bank == bank)
  { s with cooldown := rest ++ [{ stack := stack, bank := bank, since := s.cycle, queue := (old.map (·.queue)).getD [] }] }

/-- An access to a stack activates a row, whose count rises; at MTH the alert: its record, the count at 0, and the bank's
cooldown (R439). -/
def State.rowAct (s : State) (w : Who) (pa : Option Nat) (act : Bool) : State :=
  match pa with
  | none => s
  | some pa =>
    if !act then s
    else
      let die := paStack pa / 2
      let st := paStack pa % 2
      let row := Config.rowStart pa
      let r := s.reg die 0x6A st
      let k := tgetD s.rowActs row 0 + 1
      if k < fld r 0 16 then { s with rowActs := tset s.rowActs row k }
      else
        let n := fld r 32 16
        let s1 := { s with rowActs := tdel s.rowActs row }.setReg die 0x6A st (setFld r 32 16 (if n = 0xFFFF then n else n + 1))
        (s1.errRecord die (.stack st) .ce 17 0x15 row 0 w.ctx).cool (paStack pa) (Config.bankOf pa)

/-- The cooldown record of the bank that an address lies in. -/
def State.coolOf (s : State) (pa : Nat) : Option Cool :=
  s.cooldown.find? fun c => c.stack == paStack pa && c.bank == Config.bankOf pa

/-- A request may go to a bank: it is not in cooldown, and no other request has waited there longer (R439). -/
def State.bankTurn (s : State) (alive : Nat × Nat × Nat → Bool) (id : Nat × Nat × Nat) (pa : Option Nat) : Bool :=
  match pa.bind s.coolOf with
  | none => true
  | some c => c.ended && (match c.queue.filter alive with | q :: _ => q == id | [] => true)

/-- A request has its place among those that wait for a bank (R439). -/
def State.bankHas (s : State) (id : Nat × Nat × Nat) (pa : Option Nat) : Bool :=
  (pa.bind s.coolOf).any fun c => c.queue.contains id

/-- A request takes its place among those that wait for a bank (R439). -/
def State.bankWait (s : State) (id : Nat × Nat × Nat) (pa : Option Nat) : State :=
  match pa with
  | none => s
  | some a => { s with cooldown := s.cooldown.map fun c =>
      if c.stack = paStack a ∧ c.bank = Config.bankOf a ∧ !c.queue.contains id then { c with queue := c.queue ++ [id] } else c }

/-- A request that waited for a bank has gone there: the bank is forgotten when none waits any more (R439). -/
def State.bankGone (s : State) (id : Nat × Nat × Nat) : State :=
  if s.cooldown = [] then s
  else { s with cooldown := (s.cooldown.map fun c => { c with queue := c.queue.filter (· != id) }).filter fun c =>
    !(c.ended && c.queue.isEmpty) }

/-! ### Races at a granule (R436, R437) -/

/-- What an access is to the detector: a write, and one of ATOM, BARA and BARW. -/
structure Kind2 where
  write : Bool
  atom  : Bool
  deriving DecidableEq, Repr

/-- The granules of `size` bytes that `n` bytes from an address touch, each with the mask of its bytes touched. -/
def granulePieces (size lo n : Nat) : List (Nat × Nat) :=
  (List.range ((lo + n - 1) / size + 1 - lo / size)).map fun i =>
    let g := lo / size + i
    let a := Nat.max lo (g * size) - g * size
    let z := Nat.min (lo + n) ((g + 1) * size) - g * size
    (g, 2 ^ z - 2 ^ a)

/-- The granules of a tracked access of `w` bits, TRACK sectors or scratchpad lines, with the bytes it touches in each
(R318, R436). -/
def Spot.granules (p : Spot) (w : Nat) : List ((Bool × Nat) × Nat) :=
  match p with
  | .spad pt b => (granulePieces 64 (pt % 96 * 524288 + b / 8) ((b % 8 + w + 7) / 8)).map fun g => ((false, g.1), g.2)
  | .phys b _ _ true => (granulePieces 48 (b / 8) ((b % 8 + w + 7) / 8)).map fun g => ((true, g.1), g.2)
  | _ => []

/-- The sector record of a granule; none has no access. -/
def RaceDet.record (r : RaceDet) (g : Bool × Nat) : RaceRec :=
  (r.records.find? fun x => x.track == g.1 && x.addr == g.2).getD ⟨g.1, g.2, none, []⟩

/-- The recorded access of another agent that races with an access of `a` to some bytes (R318, R437): its agent and
whether it writes. -/
def RaceDet.racing (r : RaceDet) (a : Nat) (k : Kind2) (bytes : Nat) (x : RaceRec) : Option (Nat × Bool) :=
  let f := tgetD r.front a []
  let races (y : RaceAcc) : Bool :=
    y.agent != a && decide (vecAt f y.agent < y.count) && y.bytes &&& bytes != 0 && !(y.atom && k.atom)
  match x.write.filter races with
  | some y => some (y.agent, true)
  | none => if k.write then (x.reads.find? races).map fun y => (y.agent, false) else none

/-- The record after an access (R436): the last write, and up to two reads; a read of BARW is kept apart from a plain one, so
that it makes no race with ATOM (R318; log entry 68). -/
def RaceDet.noted (r : RaceDet) (a : Nat) (k : Kind2) (bytes : Nat) (x : RaceRec) : RaceRec :=
  let n := vecAt (tgetD r.front a []) a
  let same (y : RaceAcc) : Bool := y.agent == a && y.count == n
  if k.write then
    let more := match x.write with | some y => if same y && y.atom == k.atom then y.bytes else 0 | none => 0
    { x with write := some ⟨a, n, k.atom, bytes ||| more⟩ }
  else
    let mine (y : RaceAcc) : Bool := same y && y.atom == k.atom
    let more := match x.reads.find? mine with | some y => y.bytes | none => 0
    let rest := x.reads.filter fun y => y.agent != a || (same y && y.atom != k.atom)
    { x with reads := (if rest.length ≥ 2 then rest.tail else rest) ++ [⟨a, n, k.atom, bytes ||| more⟩] }

/-- The detector of a cluster is on (R437). -/
def State.raceOn (s : State) (cl : Nat) : Bool := bit (s.reg (cl / 6) 0x67 (cl % 6)) 63

/-- The logical tile that stands at a tile of a cluster (R332, R388). -/
def State.ltile (s : State) (cl p : Nat) : Nat := ((List.range 96).find? fun t => s.ptile cl t == cl * 96 + p).getD p

/-- The address that RACEADDR holds for a granule (R437): of a TRACK sector its physical address, of a scratchpad line its
CLUSTERSP byte offset, through the entry `lt` by which the access found it. -/
def State.granuleAddr (s : State) (cl : Nat) (lt : List Word64) (g : Bool × Nat) : Nat :=
  if g.1 then 2 ^ 63 + 48 * g.2
  else s.ltile cl (64 * g.2 / 524288) * 524288 + swizzle lt (64 * g.2 % 524288)

/-- A race is noted in RACEINFO and RACEADDR, if they are free; else it is kept to the end of the CYCLE, in which a write may
free them (R7, R437). -/
def State.raceInfo (s : State) (cl a : Nat) (k : Kind2) (y : Nat × Bool) (addr : Nat) : State :=
  let info : Word64 := BitVec.ofNat 64 (2 ^ 63 + b2n k.write * 2 ^ 62 + b2n y.2 * 2 ^ 61 + y.1 * 2 ^ 16 + a)
  if bit (s.reg (cl / 6) 0x68 (cl % 6)) 63 then
    let x := s.cl cl
    if x.raceNext.any fun r => r.1 == s.cycle then s
    else s.setCl cl { x with raceNext := some (s.cycle, info, BitVec.ofNat 64 addr) }
  else
    ((s.setReg (cl / 6) 0x68 (cl % 6) info).setReg (cl / 6) 0x69 (cl % 6) (BitVec.ofNat 64 addr)).stamp
      (regKey (cl / 6) 0x68 (cl % 6)) (2 ^ 63)

/-- RACEINFO's VALID has been cleared: a race that was found in the same CYCLE stands there now (R7, R437). -/
def State.raceAgain (s : State) (cl : Nat) : State :=
  match (s.cl cl).raceNext with
  | some (t, info, addr) =>
    if t = s.cycle ∧ !bit (s.reg (cl / 6) 0x68 (cl % 6)) 63 then
      (s.setReg (cl / 6) 0x68 (cl % 6) info).setReg (cl / 6) 0x69 (cl % 6) addr
    else s
  | none => s

/-- An access of an agent to bytes of a granule is checked and recorded: the state, and whether it must not be
performed (R436, R437). -/
def State.raceGranule (s : State) (a cl : Nat) (k : Kind2) (lt : List Word64) (g : Bool × Nat) (bytes : Nat) : State × Bool :=
  let r := (s.cl cl).race
  let x := r.record g
  let note (s : State) : State :=
    let y := s.cl cl
    let rest := y.race.records.filter fun z => !(z.track == g.1 && z.addr == g.2)
    if rest.length ≥ 32768 then s.raceRestart cl
    else s.setCl cl { y with race := { y.race with records := rest ++ [r.noted a k bytes x] } }
  match r.racing a k bytes x with
  | none => (note s, false)
  | some y =>
    let addr := s.granuleAddr cl lt g
    let s2 := s.raceInfo cl a k y addr
    if bit (s.reg (cl / 6) 0x67 (cl % 6)) 62 then
      (note (s2.errRecord (cl / 6) (.cluster (cl % 6)) .ce 8 0x14 (addr % 2 ^ 52) 0 a), false)
    else (s2, true)

/-- A tracked access of `w` bits through an entry is checked and recorded (R436, R437): the state, and whether the access must
not be performed. -/
def State.raceAccess (s : State) (a cl : Nat) (k : Kind2) (lt : List Word64) (p : Spot) (w : Nat) : State × Bool :=
  if !s.raceOn cl ∨ p.granules w = [] then (s, false)
  else
    if !(s.cl cl).race.agents.contains a ∨ !s.isAgent a then (s, false)
    else (p.granules w).foldl (fun r g => if r.2 then r else r.1.raceGranule a cl k lt g.1 g.2) (s, false)

/-- The issue of an engine command is a release to the engine context, which acquires it at acceptance (R435). -/
def State.raceHand (s : State) (a e : Nat) : State :=
  let o : Nat × Nat := (5, e)
  (s.raceRelease a o).raceAcquire e o

/-! ### Whose view and whose scratchpad (R305, R457) -/

/-- The context at the head of a context's chain of forks, as it was when the context was forked; a region or a supervisor
begins its own (R305, R457). -/
def State.chainHead (s : State) (c : Nat) : Nat := if isCopyId c || isCollId c then (s.ctx c).chain else c

/-- A layout entry of a context's view (R122, R305). -/
def State.viewLt (s : State) (c n : Nat) : List Word64 := (s.ctx (s.chainHead c)).lt n

/-- The tile whose scratchpad LOCALSP names for a chain of forks that a context began: the anchor tile of a region; none
without one (R457). -/
def State.anchorAt (s : State) (h : Nat) : Option Nat :=
  if isRegionId h ∧ (s.ctx h).launch.isSome then some ((s.ctx h).pt 0 0) else none

/-- The tile of LOCALSP for a context's own accesses (R457). -/
def State.anchorOf (s : State) (c : Nat) : Option Nat := s.anchorAt (s.chainHead c)

/-- The format of a side of an operation as the tables give it: ELEMENT, or FMT of the page of BASE. -/
def State.issueFmt (s : State) (c : Nat) (lt : List Word64) : Option Fmt :=
  if ltVirtual lt then (s.walkVa (s.root c) (ltBase lt)).bind (·.fmt) else ltElem lt

/-- The race detector's answer for accesses of one kind and width through an entry (R437): the state, and whether one of them
must not be performed. -/
def State.raceSpots (s : State) (a cl : Nat) (write : Bool) (lt : List Word64) (w : Nat) (ps : List Spot) : State × Bool :=
  ps.foldl (fun r p => if r.2 then r else r.1.raceAccess a cl ⟨write, false⟩ lt p w) (s, false)

/-- The sectors of memory that a read of `n` bytes takes through their LLC slices (R141). -/
def State.readThrough (s : State) (pa n : Nat) : State :=
  if n = 0 then s
  else (List.range ((pa + n - 1) / 48 + 1 - pa / 48)).foldl (fun s i => s.llcFill (pa / 48 + i) false) s

/-- The bytes at these physical addresses are read, or written, through the slices (R141). -/
def State.llcPass (s : State) (ps : List Nat) (wr : Bool) : State :=
  (ps.map (· / 48)).dedup.foldl (fun (s : State) g => s.llcFill g wr) s

end Sys2Proof.Machine
end

