-- ==== Sys2Proof/Machine/Request.lean ====
section
/-! DEFINITION. Requests of memory units: their tokens, places and translation, parking, and how they complete (R49,
R125, R129, R131, R132, R193, R257 to R263, R379, R424, R428, R429, R444 to R446, R450). -/

namespace Sys2Proof.Machine

/-! ### The frame of a memory unit (R193) -/

/-- LT. -/
def Mu.ltNo (m : Mu) : Nat := fld m.cfg 88 8
/-- AGSEL. -/
def Mu.agsel (m : Mu) : Nat := fld m.cfg 86 2
/-- EDGEIN. -/
def Mu.edgein (m : Mu) : Bool := bit m.cfg 85
/-- CMPL. -/
def Mu.cmpl (m : Mu) : Bool := bit m.cfg 84
/-- COUNT. -/
def Mu.count (m : Mu) : Nat := fld m.cfg 76 8
/-- QFLAGS. -/
def Mu.qflags (m : Mu) : Nat := fld m.cfg 124 4

/-- What kind of instruction a memory unit runs (R258), in the order of FN. -/
inductive MuFn where
  | ld | st | gath | scat | atom | ord | fence | qld | qst | qstv | bara | barw | pref
  deriving DecidableEq, Repr

/-- The instruction of a request, by FN (R258). -/
def muFn (n : Nat) : MuFn :=
  match n with
  | 0 => .ld | 1 => .st | 2 => .gath | 3 => .scat | 4 => .atom | 5 => .ord | 6 => .fence | 7 => .qld | 8 => .qst
  | 9 => .qstv | 10 => .bara | 11 => .barw | _ => .pref

/-- The kind of a request. -/
def MuReq.kind (r : MuReq) : MuFn := muFn r.fn

/-- Operand tokens after the coordinate (R258); CAS takes two. -/
def muOperands (f : MuFn) (imm : Nat) : Nat :=
  match f with
  | .st | .gath | .qst | .qstv | .barw => 1
  | .scat => 2
  | .atom => if imm % 8 = 5 then 2 else 1
  | _ => 0

/-- A request that orders the partner: its tokens are triggers and it has no place (R261). -/
def MuFn.orders (f : MuFn) : Bool := f == .ord || f == .fence

/-- A quorum request (R262). -/
def MuFn.quorum (f : MuFn) : Bool := f == .qld || f == .qst || f == .qstv

/-- A barrier request (R263). -/
def MuFn.barrier (f : MuFn) : Bool := f == .bara || f == .barw

/-- The request reads its places. -/
def MuFn.reads (f : MuFn) : Bool :=
  match f with
  | .st | .scat | .qst | .qstv => false
  | _ => true

/-- The request writes its places. -/
def MuFn.writes (f : MuFn) : Bool :=
  match f with
  | .st | .scat | .qst | .qstv | .atom | .bara => true
  | _ => false

/-- The instruction has a reply output (R258). -/
def MuFn.replies (f : MuFn) : Bool :=
  match f with
  | .ld | .gath | .atom | .qld | .bara | .barw => true
  | _ => false

/-- The spaces that an instruction may name (R124, R129, R260, R262, R263). -/
def MuFn.mayUse (f : MuFn) (space : Nat) : Bool :=
  match f with
  | .atom => space == 0 || space == 1 || space == 3
  | .qld | .qst | .qstv => space == 7
  | .bara | .barw => space == 0 || space == 1
  | .ord | .fence => true
  | _ => space != 2 && space != 7

/-! ### Tokens at the request input (R22, R49) -/

/-- The tokens of a port that a consumer's bit still has to take, oldest first (R48). -/
def headsFor (es : List Entry) (b : Fin 4) : List Token := (es.filter fun e => e.pend.getLsbD b.val).map (·.tok)

/-- The compute unit's port that stands as MU0's request input (R49). -/
def State.muTap (s : State) (pt : Nat) (u : Bool) : Option (Bool × Fin 6) :=
  if u then none
  else ([false, true].flatMap fun v => (List.finRange 6).map fun k => (v, k)).find? fun p =>
    ((s.cu pt p.1).mask p.2.val).getLsbD 3

/-- The tokens at a memory unit's request input. -/
def State.muToks (s : State) (pt : Nat) (u : Bool) : List Token :=
  match s.muTap pt u with
  | some (v, k) => headsFor (s.cu pt v).ins[k] 3
  | none => (s.mu pt u).buf

/-- One token of the request input is consumed. -/
def State.muTake (s : State) (pt : Nat) (u : Bool) : State :=
  let m := { s.mu pt u with seen := (s.mu pt u).seen.tail }
  match s.muTap pt u with
  | some (v, k) => (s.setMu pt u m).takePort pt v k 3
  | none =>
    (((s.setMu pt u { m with buf := m.buf.tail }).touch pt .tok).free (.mu pt u)).headCheck pt (if u then 0x2E else 0x2D)

/-- Several tokens of the request input are consumed. -/
def State.muTakes (s : State) (pt : Nat) (u : Bool) (n : Nat) : State :=
  (List.range n).foldl (fun s _ => s.muTake pt u) s

/-- A tuple that its generator passed straight to the unit is consumed (R193). -/
def State.tupleTake (s : State) (pt : Nat) (u : Bool) : State :=
  let m := s.mu pt u
  (s.setMu pt u { m with tuples := m.tuples.tail }).touch pt .tok

/-! ### Requests held -/

/-- A request of a memory unit, by acceptance number. -/
def State.muReq (s : State) (pt : Nat) (u : Bool) (n : Nat) : Option MuReq := (s.mu pt u).reqs.find? fun r => r.num == n

/-- A memory unit's requests changed. -/
def Mu.mapReqs (m : Mu) (f : MuReq → MuReq) : Mu :=
  { m with items := m.items.map fun i => match i with | .req r => .req (f r) | _ => i }

/-- One request replaced. -/
def State.setReq (s : State) (pt : Nat) (u : Bool) (r : MuReq) : State :=
  s.setMu pt u ((s.mu pt u).mapReqs fun x => if x.num = r.num then r else x)

/-- The request holds up what follows it: it has not been performed. -/
def MuReq.open (r : MuReq) : Bool := !r.performed

/-! ### Places (R119 to R121, R124, R259 to R263) -/

/-- The coordinates of each element; none is an absent index (R259). -/
def MuReq.targets (r : MuReq) : List (Option (List Int)) :=
  let cs : List Int := (List.range (ltRank r.lt)).map fun k => (r.coords.getD k 0 : Int)
  let at0 (d : Int) : Option (List Int) := some (match cs with | [] => [] | c :: t => (c + d) :: t)
  match r.kind with
  | .ord | .fence => []
  | .qld | .qst | .qstv | .bara | .barw => [some cs]
  | .gath | .scat =>
    let ix : Payload := match r.data with | t :: _ => t.payload | [] => 0
    (List.range r.count).map fun j =>
      let x := elemAt ix 32 j
      if isAbsent .int32 x then none else at0 (signedOf 32 x)
  | _ => (List.range r.count).map fun j => at0 (j : Int)

/-- The request breaks OOB TRAP, or names a barrier word or quorum cell out of extent (R121, R263); it does not depend
on the element width. -/
def MuReq.trapsOob (r : MuReq) : Bool :=
  (ltOob r.lt == 2 || r.kind.barrier || r.kind.quorum) && r.targets.any fun e =>
    match e with | some cs => !ltInside r.lt cs | none => false

/-- Where a memory unit stands. -/
def muStand (pt : Nat) : Stand := ⟨some pt, ptCl pt⟩

/-- Who a memory unit's access is by. -/
def State.muWho (s : State) (pt : Nat) : Who := ⟨(s.owner pt).getD 0, ptCl pt, some pt⟩

/-- A PREF passes over what would be a fault (R259). -/
def prefElems (es : List (Option Elem)) : List Elem := es.map fun e => e.getD { spot := .nowhere, done := true }

/-- The elements of a request, of width `w`; none is an address fault. -/
def State.elemsAt (s : State) (pt : Nat) (r : MuReq) (w : Nat) : Option (List Elem) :=
  let es := r.targets.map fun e => s.elemFor (muStand pt) r.lt w r.kind.reads e
  if r.kind = .pref then some (prefElems es) else allSome es

/-- The request in a space without translation (R120, R124, R129, R260, R263). -/
def State.resolveLocal (s : State) (pt : Nat) (r : MuReq) : Res3 :=
  match ltElem r.lt with
  | none => .bad
  | some el =>
    let w := if r.kind.barrier then 64 else fmtWidth el
    let pair := r.kind.barrier || (if r.kind = .atom ∨ isBlock el then el == r.ty else pairOk el r.ty r.kind.writes)
    if !pair then .bad else match s.elemsAt pt r w with | some es => .ok es | none => .bad

/-- The first bit of the block of `w`-bit elements that a place lies in (R128). -/
def Spot.blockBit (p : Spot) (w : Nat) : Nat := match p with | .phys b _ _ _ => b / (32 * w) * (32 * w) | _ => 0

/-- The place of a block's first element. -/
def Spot.blockSpot (p : Spot) : Spot :=
  match p with
  | .phys _ f a t => .phys (p.blockBit (fmtWidth f)) f a t
  | q => q

/-- Where a request that stores a block finds the block's element `j`. -/
def blockIndex (es : List Elem) (base w j : Nat) : Option Nat :=
  es.findIdx? fun e => match e.spot with | .phys b _ _ _ => b == base + j * w | _ => false

/-- A store in a block format covers whole aligned blocks: none, or each element of one, in any order (R129).  A request names
32 elements at most, since its tokens are BF16. -/
def wholeBlocks (w : Nat) (es : List Elem) : Bool :=
  match es.filter fun e => e.spot != .nowhere with
  | [] => true
  | e :: t => (e :: t).length == 32 && (List.range 32).all fun j => (blockIndex es (e.spot.blockBit w) w j).isSome

/-- A virtual bit address is the start of a cell of its page (R143, R262).  A cell that begins less than 48 bytes before the
page's end counts as one of it and runs past the end: the model's choice (log entry 32). -/
def cellAt (look : Nat → Option TlbEnt) (b : Nat) : Bool :=
  match look (b / 8) with
  | some t => b % 2 ^ (t.size + 3) % 384 == 0
  | none => false

/-- A quorum request names the first element of a cell (R262). -/
def cellStart (look : Nat → Option TlbEnt) (es : List Elem) : Bool :=
  match es with
  | [e] => (match e.va with | some b => cellAt look b | none => false)
  | _ => false

/-- The request in a translated space, as a TLB sees it (R120, R125, R129). -/
def State.resolveVirt (s : State) (pt : Nat) (r : MuReq) (look : Nat → Option TlbEnt) : Res3 :=
  match look (ltBase r.lt) with
  | none => .miss (ltBase r.lt)
  | some base =>
    match base.fmt with
    | none => .bad
    | some f =>
      let same := r.kind.quorum || r.kind = .atom
      if (if same then f != r.ty || (r.kind.quorum && isBlock f) else !pairOk f r.ty r.kind.writes) then .bad
      else match s.elemsAt pt r (fmtWidth f) with
        | none => .bad
        | some es =>
          match resolveElems look r.lt f r.kind.reads r.kind.writes true es [] with
          | .ok rs =>
            if r.kind.writes && isBlock f && f != r.ty && !wholeBlocks (fmtWidth f) rs then .bad
            else if r.kind.quorum && !cellStart look rs then .bad
            else .ok rs
          | x => x

/-- What a request finds when it looks for its places (R119 to R131, R259 to R263). -/
def State.resolve (s : State) (pt : Nat) (u : Bool) (c : Nat) (r : MuReq) : Res3 :=
  if r.kind.orders then .ok []
  else if !ltCodes r.lt || !r.kind.mayUse (ltSpace r.lt) || r.trapsOob then .bad
  else if ltVirtual r.lt then
    s.resolveVirt pt r fun va => s.tlbFind (some (unitKey pt (muUnit u))) (ptCl pt) (s.root c) va
  else s.resolveLocal pt r

/-! ### Translation faults and walks (R131, R428, R429) -/

/-- A walk serves the page of a virtual address for a cluster (R131). -/
def State.serves (s : State) (w : Walk) (cl root va : Nat) : Bool :=
  decide (w.die * 6 + w.cluster = cl ∧ w.root = root) && s.samePage root w.va va

/-- A fault of the page is pending, and a miss joins it (R429). -/
def State.pendingFault (s : State) (cl root va : Nat) : Bool := s.xlPend.any fun f => !f.onTlbi && s.serves f.walk cl root va

/-- A walk of the page is in flight. -/
def State.walking (s : State) (cl root va : Nat) : Bool := s.walks.any fun w => s.serves w cl root va

/-- What is parked on a page waits: for a walk or for the service of its fault, or it is one that waits for a TLBI (R131, R429,
R430). -/
def State.awaited (s : State) (cl root va : Nat) (onTlbi : Bool) : Bool :=
  onTlbi || s.walking cl root va || s.pendingFault cl root va

/-- A miss joins a pending fault, shares a walk, or requests one (R131, R429). -/
def State.askWalk (s : State) (w : Walk) : State :=
  let cl := w.die * 6 + w.cluster
  if s.pendingFault cl w.root w.va || s.walking cl w.root w.va then s else { s with walks := s.walks ++ [w] }

/-- XFVA (R431). -/
def xfvaOf (w : Walk) : Word64 := BitVec.ofNat 64 (b2n w.write * 2 ^ 63 + w.agent % 4 * 2 ^ 61 + w.va % 2 ^ 57)

/-- A translation fault: the trap, and the page's accesses park on it (R428, R429). -/
def State.xlTrap (s : State) (w : Walk) (fcode : Nat) : State :=
  let f : XlFault := { walk := w }
  State.raise { s with xlPend := s.xlPend ++ [f] } (s.ctxDie w.ctx)
    { cause := causeFault, ctx := w.ctx, info := faultInfo (s.ctx w.ctx).members fcode w.tile w.unit w.pos, xfva := xfvaOf w }

/-- A permission failure, unless the access joins a fault of its page that is pending (R125, R428, R429). -/
def State.permFault (s : State) (w : Walk) : State :=
  if s.pendingFault (w.die * 6 + w.cluster) w.root w.va then s else s.xlTrap w fcPerm

/-- The walk that a memory unit asks for. -/
def State.muWalk (s : State) (pt : Nat) (u : Bool) (c : Nat) (r : MuReq) (va : Nat) : Walk :=
  { die := ptDie pt, cluster := ptCluster pt, root := s.root c, va := va, ctx := c, write := r.kind.writes, agent := 0
    tile := ptTile pt, unit := muUnit u, pos := 0 }

/-- The TLB entries that a request uses: that of the entry's BASE, and those of its elements (R120, R131, R307). -/
def State.entriesFor (s : State) (pt : Nat) (u : Bool) (c : Nat) (lt : List Word64) (es : List Elem) : List TlbEnt :=
  if ltVirtual lt then
    ((ltBase lt :: es.filterMap fun e => e.va.map (· / 8)).filterMap fun va =>
      s.tlbFind (some (unitKey pt (muUnit u))) (ptCl pt) (s.root c) va).dedup
  else []

/-- The TLB of the memory unit takes the entries that a request used, those of its cluster's TLB too: the latter is the model's
choice (R131; log entry 32). -/
def State.fillFor (s : State) (pt : Nat) (u : Bool) (c : Nat) (lt : List Word64) (es : List Elem) : State :=
  let k := unitKey pt (muUnit u)
  (ltBase lt :: es.filterMap fun e => e.va.map (· / 8)).foldl (fun s va =>
    match s.tlbFind (some k) (ptCl pt) (s.root c) va with
    | some t => s.tlbFill (some k) t
    | none => s) s

/-- The request as it stands when it passes over its faults: nothing is left of it to perform. -/
def MuReq.skipped (r : MuReq) : MuReq :=
  { r with elems := List.replicate r.count { spot := .nowhere, done := true }, st := .done }

/-- A request whose places are known. -/
def MuReq.placed (r : MuReq) (es : List Elem) : MuReq :=
  { r with elems := es, st := if es.all (·.done) ∧ !r.kind.orders then .done else .ready }

/-- QSET of the page that a quorum request names (R127, R262). -/
def State.qsetOf (s : State) (pt : Nat) (u : Bool) (c : Nat) (es : List Elem) : Nat :=
  match (es.findSome? (·.va)).bind fun b => s.tlbFind (some (unitKey pt (muUnit u))) (ptCl pt) (s.root c) (b / 8) with
  | some t => t.qset
  | none => 0

/-- What had been performed of a request before a rollback stays performed (R423). -/
def keepDone (kept : Option MuReq) (es : List Elem) : List Elem :=
  match kept with
  | some k => es.zipIdx.map fun p => match k.elems[p.2]? with
    | some d => if d.done then { p.1 with done := true, value := d.value, poison := d.poison } else p.1
    | none => p.1
  | none => es

/-- A request in a memory unit tries to find its places: it becomes ready, parks, or is found faulty (R131, R414, R429).  What
a rollback has kept of it stands (R423). -/
def State.tryReq (s : State) (pt : Nat) (u : Bool) (n : Nat) : State :=
  match s.muReq pt u n, s.owner pt with
  | some r, some c =>
    let parked (va : Nat) : MuReq := { r with st := .parked va, missed := some s.cycle, onTlbi := false }
    match s.resolve pt u c r with
    | .ok es =>
      let es1 := keepDone ((s.mu pt u).kept.find? fun k => k.num == n) es
      let r1 := { r.placed es1 with qset := s.qsetOf pt u c es, used := s.entriesFor pt u c r.lt es, onTlbi := false }
      (s.setReq pt u r1).fillFor pt u c r.lt es
    | .miss va => (s.setReq pt u (parked va)).askWalk (s.muWalk pt u c r va)
    | .perm va =>
      if r.kind = .pref then s.setReq pt u r.skipped
      else (s.setReq pt u (parked va)).permFault (s.muWalk pt u c r va)
    | .bad =>
      if r.kind = .pref then s.setReq pt u r.skipped
      else (s.setReq pt u { r with st := .failed }).unitFault pt (muUnit u) fcAddress 0
  | _, _ => s

/-- The requests of a cluster's address space that are parked and satisfy a test with the address: tile, unit, number. -/
def State.parkedIf (s : State) (cl root : Nat) (p : MuReq → Nat → Bool) : List (Nat × Bool × Nat) :=
  (List.range 96).flatMap fun t =>
    let pt := cl * 96 + t
    match s.owner pt with
    | none => []
    | some c =>
      if s.root c ≠ root then []
      else [false, true].flatMap fun u => (s.mu pt u).reqs.filterMap fun r =>
        match r.st with
        | .parked v => if p r v then some (pt, u, r.num) else none
        | _ => none

/-- The requests of a cluster that are parked on a page, but not until a TLBI: tile, unit, number. -/
def State.parkedOn (s : State) (cl root va : Nat) : List (Nat × Bool × Nat) :=
  s.parkedIf cl root fun r v => !r.onTlbi && s.samePage root va v

/-- The cluster whose TLB an engine operation uses: that of a copy context, or of a collective's issuer. -/
def State.engCl (s : State) (e : Nat) (o : EngOp) : Nat := s.homeCl (if isCollId e then o.issuer else e)

/-- Everything parked in an address space of a cluster for which no walk runs and no fault is pending tries again:
requests, and engine operations that stopped (R131, R430, R433). -/
def State.retryParked (s : State) (cl root : Nat) : State :=
  let free (onTlbi : Bool) (v : Nat) : Bool := !s.awaited cl root v onTlbi
  let s1 := (s.parkedIf cl root fun r v => free r.onTlbi v).foldl (fun s p => s.tryReq p.1 p.2.1 p.2.2) s
  let wakes (e : Nat) (o : EngOp) : Bool := decide (s1.engCl e o = cl ∧ s1.root o.issuer = root) && o.parked.any (free o.onTlbi)
  { s1 with ctxs := s1.ctxs.map fun p =>
      (p.1, { p.2 with ops := p.2.ops.map fun (o : EngOp) => if wakes p.1 o then { o with parked := none } else o }) }

/-- The TLB of every memory unit in which a miss waits for the page takes its entry (R131). -/
def State.fillWaiting (s : State) (cl : Nat) (t : TlbEnt) : State :=
  (s.parkedIf cl t.root fun _ v => t.maps t.root v).foldl (fun s p => s.tlbFill (some (unitKey p.1 (muUnit p.2.1))) t) s

/-- PREF requests parked on a page end (R259). -/
def State.dropPrefs (s : State) (cl root va : Nat) : State :=
  (s.parkedOn cl root va).foldl (fun s p =>
    match s.muReq p.1 p.2.1 p.2.2 with
    | some r => if r.kind = .pref then s.setReq p.1 p.2.1 r.skipped else s
    | none => s) s

/-! ### Links (R126, R379, R442, R444 to R446, R450) -/

/-- UP of LINKCTL (R445). -/
def State.linkUp (s : State) (die inst : Nat) : Bool := bit (s.reg die 0x6C inst) 63

/-- The die is isolated: both of its ring ports are down (R446). -/
def State.isolated (s : State) (die : Nat) : Bool := !s.linkUp die 0 && !s.linkUp die 1

/-- The Brumar ports of a list of PORTS bits that are live (R379). -/
def State.livePorts (s : State) (ports : Nat) : List Nat :=
  (List.range 16).filter fun j => natBits ports j 1 == 1 && s.linkUp 0 (3 + j)

/-- The destinations that can be reached from a die, each with its PORTS: V is set, it is not SELFDEST, and a port of it is
live (R379). -/
def State.routesOf (s : State) (die : Nat) : List (Nat × Nat) :=
  ((List.range 256).filter fun d => bit (s.reg die 0x53 d) 16 && fld (s.reg die 0x55 0) 0 8 != d).filterMap fun d =>
    let p := fld (s.reg die 0x53 d) 0 16
    if (s.livePorts p).isEmpty then none else some (d, p)

/-- The port that carries a line of a peer, by the routes that a request took at its acceptance: one that has gone down since
is passed over (R379, R446). -/
def State.brumarPort (s : State) (routes : List (Nat × Nat)) (dest line : Nat) : Option Nat :=
  match routes.find? fun r => r.1 == dest with
  | some r => let ps := s.livePorts r.2; ps[line % ps.length]?
  | none => none

/-- A stack serves: its die has started, and it is not out of service (R455; log entry 49). -/
def State.stackOn (s : State) (stack die : Nat) : Bool :=
  (stack / 2 == die || (s.die (stack / 2)).up) && !(s.die (stack / 2)).stackOff.contains (stack % 2)

/-- Why an access from a die cannot reach a physical address: the fault code (R379, R442, R446, R450, R455). -/
def State.unreachable (s : State) (die pa : Nat) (routes : List (Nat × Nat)) : Option Nat :=
  if paHbm pa then
    let d := paStack pa / 2
    if (d ≠ die ∧ (s.isolated d || s.isolated die)) ∨ !s.stackOn (paStack pa) die then some 0x20 else none
  else if paFar pa then
    if !s.linkUp die 2 then some 0x20
    else if !s.linkUp 0 (19 + paPort pa) then some fcFarmem else none
  else if 2 ^ 51 ≤ pa then if !s.hostUp ∨ !s.linkUp die 2 then some 0x21 else none
  else if !s.linkUp die 2 then some 0x20
  else if (s.brumarPort routes (natBits pa 40 8) (natBits pa 0 40 / 192)).isNone then some 0x20 else none

/-- A far-memory port that is out of service writes a UC record for an access that it serialises (R442). -/
def State.farRecord (s : State) (pa ctx : Nat) : State := s.errRecord 0 (.cxl (paPort pa)) .uc 25 0x18 pa 0 ctx

/-! ### Performing and completing -/

/-- Whole granules written by a request without poison have their marks cleared (R402): the granules of which every bit
was stored. -/
def clearMarks (marks : List Nat) (size : Nat) (runs : List (Nat × Nat)) : List Nat :=
  marks.filter fun g =>
    let covered := runs.foldl (fun a r =>
      let lo := Nat.max r.1 (g * size)
      let hi := Nat.min (r.1 + r.2) ((g + 1) * size)
      if lo < hi then a + (hi - lo) else a) 0
    decide (covered < size)

/-- The bit ranges that elements cover in one kind of storage, each range once. -/
def rangesOf (f : Spot → Option (Nat × Nat)) (es : List Elem) : List (Nat × Nat) :=
  (es.filterMap fun e => if e.drop then none else f e.spot).dedup

/-- An L1's copy of a sector of which a store without poison covers every bit loses its mark (R317, R402). -/
def State.l1Clean (s : State) (w : Who) (es : List Elem) (e : L1Sector) : L1Sector :=
  let runs := rangesOf (fun p => match p with
    | .phys b f _ track => if s.l1For w (b / 8) track = some e.pt then some (b, fmtWidth f) else none
    | _ => none) es
  if e.poison && (clearMarks [e.sector] 384 runs).isEmpty then { e with poison := false } else e

/-- The marks that a store without poison clears, in memory and in the L1 that serves it (R402). -/
def State.cleared (s : State) (w : Who) (el : Fmt) (es : List Elem) : State :=
  { s with
    l1 := s.l1.map (s.l1Clean w es)
    memPoison := clearMarks s.memPoison 384 (rangesOf (fun p => match p with
      | .phys b f _ _ => some (b, fmtWidth f) | _ => none) es)
    spadPoison := clearMarks s.spadPoison 512 (rangesOf (fun p => match p with
      | .spad pt b => some (spadKey pt 0 * 8 + b, fmtWidth el) | _ => none) es)
    opndPoison := clearMarks s.opndPoison 512 (rangesOf (fun p => match p with
      | .slot pt n b => some (opndKey pt n 0 * 8 + b, fmtWidth el) | _ => none) es) }

/-- The data of a store: the operand token. -/
def MuReq.store (r : MuReq) : Token :=
  match r.kind, r.data with
  | .scat, _ :: t :: _ => t
  | _, t :: _ => t
  | _, [] => {}

/-- A request whose elements have all been performed is done: its marks are cleared, and releases that it held back may
take effect (R261, R314, R402). -/
def State.reqCheck (s : State) (pt : Nat) (u : Bool) (n : Nat) : State :=
  match s.muReq pt u n with
  | none => s
  | some r =>
    if r.elems.all (·.done) then
      let s1 := s.setReq pt u { r with st := .done }
      let plain := (r.kind = .st || r.kind = .scat) && !r.store.poison
      let s2 := if plain then s1.cleared (s1.muWho pt) ((ltElem r.lt).getD .int8) r.elems else s1
      match s2.owner pt with
      | some c => s2.releases c
      | none => s2
    else s

/-- A request for a bank that has not been performed: of a memory unit by unit key, acceptance number and element, or of an
engine context by 2 ^ 20 above its number, or of a quorum operation by 2 ^ 21 above its (R439). -/
def State.bankAlive (s : State) (id : Nat × Nat × Nat) : Bool :=
  if id.1 < 2 ^ 20 then
    match s.muReq (id.1 / 8) (id.1 % 8 == 4) id.2.1 with
    | some r => r.st == .ready && (match r.elems[id.2.2]? with | some e => !e.done | none => false)
    | none => false
  else if id.1 < 2 ^ 21 then (s.ctx (id.1 - 2 ^ 20)).ops.any fun o => o.num == id.2.1 && !o.done && !o.failed && o.parked.isNone
  else s.qops.any fun q => q.id == id.1 - 2 ^ 21

end Sys2Proof.Machine
end

