-- ==== Sys2Proof/Machine/Quorum.lean ====
section
/-! DEFINITION. Quorum cells: the copies, the two-phase store, the read with write-back, repairs and failed copies
(R143 to R151, R262, R440). -/

namespace Sys2Proof.Machine

/-! ### Sets, tags and cells (R143, R144) -/

/-- COUNT of a quorum set. -/
def qCount (q : Word64) : Nat := fld q 20 3
/-- The copies that receive requests: those of LIVE below COUNT, where the entry is in use. -/
def qLive (q : Word64) : List Nat := if bit q 31 then (List.range (qCount q)).filter fun j => bit q (26 + j) else []
/-- The stack of a copy. -/
def qStack (q : Word64) (j : Nat) : Nat := fld q (4 * j) 4
/-- The majority of a set, whatever LIVE holds. -/
def qMajority (q : Word64) : Nat := qCount q / 2 + 1

/-- What tags compare by: the pair (VERSION, WRITER). -/
def tagKey (t : Word64) : Nat := fld t 4 60
/-- VERSION of a tag. -/
def tagVersion (t : Word64) : Nat := fld t 20 44
/-- A tag from its fields. -/
def tagOf (version writer flags : Nat) : Word64 := BitVec.ofNat 64 (version * 2 ^ 20 + writer % 65536 * 16 + flags % 16)

/-- The physical address of a copy of a cell. -/
def cellPa (stack off : Nat) : Nat := stack * 2 ^ 36 + off

/-- The sectors that a cell touches. -/
def cellSectors (pa : Nat) : List Nat := [pa / 48, (pa + 47) / 48].dedup

/-- A copy's cell holds poison. -/
def State.cellPoison (s : State) (pa : Nat) : Bool := (cellSectors pa).any s.memPoison.contains

/-- A copy's tag. -/
def State.cellTag (s : State) (pa : Nat) : Word64 := BitVec.ofNat 64 (memNat s.mem (pa + 40) 8)

/-- A copy's payload. -/
def State.cellPayload (s : State) (pa : Nat) : List Byte := memBytes s.mem pa 40

/-- A copy's cell written whole, in its stack, since no cache holds it: its mark is cleared (R123, R402, R440). -/
def State.cellPut (s : State) (pa : Nat) (payload : List Byte) (tag : Word64) : State :=
  { s with mem := memPut s.mem pa (payload ++ bytesOf tag 8)
           memPoison := s.memPoison.filter fun g => !(cellSectors pa).contains g }

/-- 40 bytes of a payload. -/
def cellBytes (p : Payload) : List Byte := natBytes (natBits p.toNat 0 320) 40

/-! ### Operations -/

/-- Live copies that have not failed for the operation (R440). -/
def QOp.avail (q : QOp) : List Nat := (qLive q.qset).filter fun j => !q.lost.contains j

/-- The first majority of replies from copies that have not failed. -/
def QOp.first (q : QOp) : List (Nat × Word64 × List Byte) :=
  (q.replies.filter fun r => !q.lost.contains r.1).take (qMajority q.qset)

/-- The reply with the highest tag. -/
def highest : List (Nat × Word64 × List Byte) → Option (Nat × Word64 × List Byte)
  | [] => none
  | r :: t =>
    match highest t with
    | none => some r
    | some b => if tagKey r.2.1 < tagKey b.2.1 then some b else some r

/-- A write of the operation's value to a copy. -/
def QOp.writeTo (q : QOp) (op : Option Nat) (j : Nat) : QWrite :=
  { op := op, die := q.die, copy := j, stack := qStack q.qset j, off := q.off, tag := q.tag, bytes := q.best }

/-- QLD with its first majority of replies: the value with the highest tag, written back to each older copy of the
majority and to each that held poison; it completes when they have acknowledged (R148, R440). -/
def QOp.loadStep (q : QOp) : QOp × List QWrite :=
  match (if q.first.length < qMajority q.qset then none else highest q.first) with
  | none => (q, [])
  | some b =>
    let need := ((q.first.filter fun r => decide (tagKey r.2.1 < tagKey b.2.1)).map (·.1)) ++ q.spoiled
    let new := need.filter fun j => !q.owing.contains j
    let q1 := { q with chosen := true, tag := b.2.1, best := b.2.2, owing := q.owing ++ new }
    ({ q1 with finished := need.all fun j => q.acks.any fun a => a.1 == j }, new.map (q1.writeTo (some q.id)))

/-- The writes to every live copy begin (R146, R147). -/
def QOp.beginWrite (q : QOp) (version : Nat) : QOp × List QWrite :=
  let q1 := { q with phase := .writing, chosen := true, tag := tagOf version q.ctx q.flags, best := q.payload
                     owing := qLive q.qset }
  (q1, (qLive q.qset).map (q1.writeTo (some q.id)))

/-- QST with its first majority of tags: the next version, unless there is none (R146). -/
def QOp.versionStep (q : QOp) : QOp × List QWrite :=
  if q.first.length < qMajority q.qset then (q, [])
  else
    let v := q.first.foldl (fun a r => Nat.max a (tagVersion r.2.1)) 0
    if v = 2 ^ 44 - 1 then ({ q with failed := fcQversion }, []) else q.beginWrite (v + 1)

/-- A store completes on the first majority of acknowledgements (R146). -/
def QOp.ackStep (q : QOp) : QOp :=
  let got := q.acks.filter fun a => !q.lost.contains a.1
  if got.length < qMajority q.qset then q
  else { q with finished := true, overN := ((got.take (qMajority q.qset)).filter (·.2)).length }

/-- What an operation does with what it has (R146 to R148, R440). -/
def QOp.go (q : QOp) : QOp × List QWrite :=
  if q.finished ∨ q.failed ≠ 0 then (q, [])
  else if q.avail.length < qMajority q.qset then ({ q with failed := fcQuorum }, [])
  else match q.phase with
    | .writing => (q.ackStep, [])
    | .reading => if q.fn = 7 then q.loadStep else q.versionStep

/-- The operation is over. -/
def QOp.ended (q : QOp) : Bool := q.finished || q.failed != 0

/-- A quorum operation. -/
def State.qop (s : State) (id : Nat) : Option QOp := s.qops.find? fun q => q.id == id

/-- The memory unit's request that an operation runs for completes, or its node faults (R146, R148, R440). -/
def State.qNotify (s : State) (q : QOp) : State :=
  match q.who with
  | none => s
  | some (pt, u, n) =>
    match s.muReq pt u n with
    | none => s
    | some r =>
      if q.failed ≠ 0 then (s.setReq pt u { r with st := .failed }).unitFault pt (muUnit u) q.failed 0
      else if q.finished then
        let v := natOfBytes q.best + q.tag.toNat * 2 ^ 320
        let s1 := s.setReq pt u { r with
          st := .done, qtag := q.tag, qover := q.overN, elems := r.elems.map fun e => { e with done := true, value := v } }
        match s1.owner pt with
        | some c => s1.releases c
        | none => s1
      else s

/-- An operation changed: it goes as far as it can, its writes set out, and its end is told. -/
def State.qGo (s : State) (q : QOp) : State :=
  let r := q.go
  let s1 := { s with qops := s.qops.map (fun x => if x.id = q.id then r.1 else x), qwrites := s.qwrites ++ r.2 }
  if !q.ended && r.1.ended then s1.qNotify r.1 else s1

/-- An operation is issued by a context: QLD (7), QST (8) or QSTV (9) on a cell (R144, R146 to R148); its number is
`s.nextQop`. -/
def State.qStart (s : State) (fn die ctx set off : Nat) (payload : List Byte) (flags version : Nat)
    (who : Option (Nat × Bool × Nat)) (used : List TlbEnt := []) : State :=
  let q : QOp := { id := s.nextQop, used := used, fn := fn, qset := s.reg die 0x51 set, off := off, ctx := ctx, die := die, who := who
                   payload := payload, flags := flags, version := version, phase := .reading }
  let r := if fn = 9 ∧ qMajority q.qset ≤ q.avail.length then q.beginWrite version else (q, [])
  State.qGo { s with qops := s.qops ++ [r.1], qwrites := s.qwrites ++ r.2, nextQop := s.nextQop + 1 } r.1

/-- Operations that are over, of which nothing is on its way and no engine waits, are forgotten. -/
def State.qSweep (s : State) : State :=
  { s with qops := s.qops.filter fun q =>
      !q.ended || s.qwrites.any (fun w => w.op == some q.id) || !q.sent.isEmpty ||
      (q.fn != 9 && (qLive q.qset).any fun j => !q.lost.contains j && !(q.replies.any fun r => r.1 == j)) ||
      s.ctxs.any fun p => p.2.ops.any fun o => o.qop == some q.id }

/-- A stack can be reached from a die (R446, R455). -/
def State.stackUp (s : State) (die stack : Nat) : Bool :=
  s.stackOn stack die && (stack / 2 == die || !(s.isolated die || s.isolated (stack / 2)))

/-- Who an access to a copy is by, for its records. -/
def copyWho (q : Option QOp) (stack : Nat) : Who := ⟨q.elim 0 (·.ctx), stack / 2 * 6, none⟩

/-- An access to a copy reaches its bank (R439): a bank in cooldown holds it up. -/
def State.copyTurn (s : State) (op : Option Nat) (copy pa : Nat) : Bool :=
  match op with
  | some id => s.bankTurn s.bankAlive (2 ^ 21 + id, copy, 0) (some pa)
  | none => (s.coolOf pa).isNone

/-- An access to a copy waits for its bank. -/
def State.copyWait (s : State) (op : Option Nat) (copy pa : Nat) : State :=
  match op with
  | some id => s.bankWait (2 ^ 21 + id, copy, 0) (some pa)
  | none => s

/-- What an access to a copy meets in the stack: an error of its ECC, and the activation of its row, which every access to a
copy is taken to be (R438, R439; log entry 81). -/
def State.copyMeets (s : State) (q : Option QOp) (op : Option Nat) (copy stack pa : Nat) : State :=
  let w := copyWho q stack
  let p : Spot := .phys (8 * pa) .int8 0 false
  let s1 : State := { s with upset := 0 }
  let s2 := match s.upset with
    | 3 => s1.eccAt w p false .corrected
    | 4 => s1.eccAt w p false .uncorrected
    | _ => s
  let s3 := s2.rowAct w (some pa) true
  match op with | some id => s3.bankGone (2 ^ 21 + id, copy, 0) | none => s3

/-- A record of a quorum copy (R440). -/
def State.copyRecord (s : State) (q : QOp) (j type : Nat) : State :=
  let st := qStack q.qset j
  s.errRecord (st / 2) (.stack (st % 2)) .ce 17 type (cellPa st q.off) 0 q.ctx

/-- QUORUM_COPY_WRITE: a copy receives a write; it updates if its own tag is lower, or if it holds poison, and
acknowledges (R145, R149, R440). -/
def execQuorumCopyWrite (k : Nat) (s : State) : Out :=
  match s.qwrites[k]? with
  | none => stall s
  | some w =>
    let pa := cellPa w.stack w.off
    if !s.stackUp w.die w.stack then stall s
    else if !s.copyTurn w.op w.copy pa then .next (s.copyWait w.op w.copy pa)
    else
      let s := s.copyMeets (w.op.bind s.qop) w.op w.copy w.stack pa
      let wins := s.cellPoison pa || decide (tagKey (s.cellTag pa) < tagKey w.tag)
      let s1 := if wins then s.cellPut pa w.bytes w.tag else s
      let s2 := { s1 with
        qwrites := ldel s1.qwrites k
        qops := s1.qops.map fun (q : QOp) => if w.op = some q.id then { q with sent := q.sent ++ [(w.copy, wins)] } else q }
      .next s2.qSweep

/-- QUORUM_REPLY: a copy's reply or acknowledgement reaches the issuer (R146, R148, R149, R440). -/
def execQuorumReply (op copy : Nat) (s : State) : Out :=
  match s.qop op with
  | none => stall s
  | some q =>
    let st := qStack q.qset copy
    let pa := cellPa st q.off
    let unread : Bool := q.fn ≠ 9 && !(q.replies.any fun r => r.1 == copy) && !q.lost.contains copy
    if !(qLive q.qset).contains copy ∨ !s.stackUp q.die st then stall s
    else if unread && !s.copyTurn (some op) copy pa then .next (s.copyWait (some op) copy pa)
    else
      if unread then
        let s := s.copyMeets (some q) (some op) copy st pa
        if s.cellPoison pa then
          let q1 := { q with lost := q.lost ++ [copy], spoiled := if q.chosen then q.spoiled else q.spoiled ++ [copy] }
          let s1 := (s.copyRecord q copy 0x17)
          let s2 := if q.chosen then { s1 with qwrites := s1.qwrites ++ [q.writeTo none copy] } else s1
          .next (s2.qGo q1).qSweep
        else
          let tag := s.cellTag pa
          let q1 := { q with replies := q.replies ++ [(copy, tag, s.cellPayload pa)] }
          let s1 := if q.chosen && decide (tagKey tag < tagKey q.tag)
            then { s with qwrites := s.qwrites ++ [q.writeTo none copy] } else s
          .next (s1.qGo q1).qSweep
      else
        match q.sent.find? fun a => a.1 == copy with
        | none => stall s
        | some a =>
          .next (s.qGo { q with sent := q.sent.filter (fun b => b.1 != copy), acks := q.acks ++ [a] }).qSweep

/-- QUORUM_COPY_TIMEOUT: a copy has not answered within 20 µs and fails for the operation (R440). -/
def execQuorumCopyTimeout (op copy : Nat) (s : State) : Out :=
  match s.qop op with
  | none => stall s
  | some q =>
    let unread := q.fn ≠ 9 ∧ q.phase = .reading ∧ !(q.replies.any fun r => r.1 == copy) ∧ !q.lost.contains copy
    let unacked := q.owing.contains copy ∧ !(q.acks.any fun a => a.1 == copy) ∧
      (!q.lost.contains copy ∨ q.spoiled.contains copy)
    if q.ended ∨ !(qLive q.qset).contains copy ∨ ¬(unread ∨ unacked) then stall s
    else
      let q1 := { q with lost := markAdd q.lost copy, spoiled := markDel q.spoiled copy }
      .next ((s.copyRecord q copy 0x16).qGo q1).qSweep

end Sys2Proof.Machine
end

