-- ==== Sys2Proof/Machine/Memory.lean ====
section
/-! DEFINITION. The memory units' instructions and events: acceptance, performance of one element, replies and
completions, ordering requests, barrier words, walks, scrubbing and cooldown (R131, R132, R257 to R263, R402, R403,
R414, R421, R422, R424, R428, R436 to R439, R442). -/

namespace Sys2Proof.Machine

/-! ### Acceptance (R132, R258, R403, R414, R424) -/

/-- The operand's poison is consumed (R397, R403): all but the data of a store. -/
def MuFn.eats (f : MuFn) : Bool :=
  match f with
  | .st | .scat => false
  | _ => true

/-- What a request unit holds, in its order (R258). -/
structure MuUnit where
  /-- Edge, trigger, coordinate or index tokens and operands whose poison is consumed. -/
  strict : List Token
  coord  : Option Token
  data   : List Token
  deriving DecidableEq, Repr

/-- Tokens that a request needs from the request input (R258). -/
def Mu.need (m : Mu) (f : MuFn) (imm : Nat) : Nat :=
  b2n m.edgein + (if f.orders then 1 else b2n (m.agsel == 0)) + muOperands f imm

/-- The coordinate comes as a tuple of an address generator. -/
def Mu.byAg (m : Mu) (f : MuFn) : Bool := !f.orders && m.agsel != 0

/-- The request unit formed of the tokens at the request input, and a tuple (R258). -/
def Mu.unit (m : Mu) (f : MuFn) (toks : List Token) (tuple : Option Token) : MuUnit :=
  let n := b2n m.edgein
  let edges := toks.take n
  let rest := toks.drop n
  if f.orders then { strict := edges ++ rest, coord := none, data := [] }
  else
    let coord := if m.agsel = 0 then rest.head? else tuple
    let data := if m.agsel = 0 then rest.tail else rest
    let index := match f with | .gath | .scat => data.take 1 | _ => []
    { strict := edges ++ coord.toList ++ (if f.eats then data else index), coord := coord, data := data }

/-- A store's operand with a wrong residue is used as it stands, and carries poison (R397). -/
def deferData (f : MuFn) (ts : List Token) : List Token :=
  if f.eats then ts else ts.map fun t => if t.mismatch then { t with poison := true } else t

/-- Elements that a request names: COUNT, or as many as a payload holds (R193, R258). -/
def Mu.elements (m : Mu) (f : MuFn) (ty : Fmt) : Nat :=
  match f with
  | .ord | .fence => 0
  | .qld | .qst | .qstv | .bara | .barw => 1
  | _ => if m.count = 0 then 512 / fmtWidth ty else m.count

/-- The snapshot of a memory unit as a mark passes it: the acceptance number that its next request takes (R421, R422,
R423). -/
def State.muSnap (s : State) (pt : Nat) (u : Bool) (t : Token) : State :=
  if t.kind == .barrier then
    match s.owner pt with
    | none => s
    | some c =>
      let x := s.ctx c
      let m := elemAt t.payload 32 0
      match tget x.marks m with
      | none => s
      | some r =>
        let sn : UnitSnap := ⟨Vector.replicate 8 0, (s.mu pt u).next, 0, 0⟩
        s.setCtx c { x with marks := tset x.marks m { r with units := tset r.units (unitKey pt (muUnit u)) sn } }
  else s

/-- A mark that stands on every stream feeding the node takes its turn among the requests; it releases the requests
held back (R258, R424). -/
def State.muMark (s : State) (pt : Nat) (u : Bool) (useIn useAg : Bool) (t : Token) : State :=
  let s1 := if useIn then s.muTake pt u else s
  let s2 := if useAg then s1.tupleTake pt u else s1
  let m := (s2.mu pt u).mapReqs fun r => { r with hold := false }
  let m1 := if m.skip = 0 then { m with items := m.items ++ [.mark t] } else { m with skip := m.skip - 1 }
  ((s2.setMu pt u m1).touch pt .mem).muSnap pt u t

/-- REPL of a store (R424). -/
def replOf (f : MuFn) (imm : Nat) : Nat := match f with | .st | .scat => imm % 4 | _ => 0

/-- There is room for another request (R132, R424). -/
def Mu.room (m : Mu) (hold : Bool) : Bool :=
  if hold then decide ((m.reqs.filter (·.hold)).length < 256)
  else decide ((m.reqs.filter fun r => !r.hold).length < 16)

/-- The firing cannot be undone by a rollback (R422). -/
def MuFn.breaks (f : MuFn) : Bool :=
  match f with
  | .atom | .qst | .qstv | .bara => true
  | _ => false

/-- A change to the context that holds a tile. -/
def State.modOwner (s : State) (pt : Nat) (f : Ctx → Ctx) : State :=
  match s.owner pt with
  | some c => s.modCtx c f
  | none => s

/-- A request accepted in the CYCLE in which a trigger arrives at the partner counts as accepted before it, whether the trigger
still waits or its ordering request stands already (R310). -/
def State.sameCycle (s : State) (pt : Nat) (u : Bool) (next : Nat) : State :=
  let m := (s.mu pt u).mapReqs fun r => if r.came = some s.cycle then { r with covers := next } else r
  s.setMu pt u { m with seen := m.seen.map fun x => if x.1 = s.cycle then (x.1, next) else x }

/-- The performance of a store whose REPL is IDEM comes again after a rollback (R423, R424). -/
def idem (f : MuFn) (imm : Nat) : Bool := replOf f imm == 1

/-- The token of a request unit that is an ordering request's trigger: its CYCLE of arrival, and the partner's requests accepted
before (R261). -/
def State.trigger (s : State) (pt : Nat) (u : Bool) : Nat × Nat :=
  let m := s.mu pt u
  (m.seen[b2n m.edgein]?).getD (s.cycle, (s.mu pt (!u)).next)

/-- The request that a whole request unit makes (R258). -/
def State.muRequest (s : State) (pt : Nat) (u : Bool) (c : Nat) (f : MuFn) (fn : Nat) (w : MemMods) (x : MuUnit)
    (toks : List Token) (tuple : Option Token) : MuReq :=
  let m := s.mu pt u
  let lt := (s.ctx c).lt m.ltNo
  { fn := fn, ty := w.ty, rnd := w.rnd, imm := w.imm.toNat, cmpl := m.cmpl, lt := lt
    count := m.elements f w.ty
    coords := match x.coord with | some t => elemsOf 32 t.payload | none => []
    data := deferData f x.data, elems := [], st := .fresh, num := m.next, hold := replOf f w.imm.toNat == 2
    covers := (s.trigger pt u).2, came := if f.orders then some (s.trigger pt u).1 else none
    step := (s.ctx c).stepNo, again := decide (m.next < m.heldTo)
    routes := if ltSpace lt = 4 then s.routesOf (ptDie pt) else []
    toks := if f = .bara then toks else [], tuple := if f = .bara ∧ m.byAg f then tuple else none }

/-- A whole request unit is present: it is refused with a fault, or it is accepted and looks for its places.  After a rollback,
one that had left the unit is passed over, since its reply comes from the buffers, unless it is IDEM (R422, R423). -/
def State.muAccept (s : State) (pt : Nat) (u : Bool) (f : MuFn) (fn : Nat) (w : MemMods) (n : Nat) (x : MuUnit)
    (toks : List Token) (tuple : Option Token) : Out :=
  let m := s.mu pt u
  let unit := muUnit u
  match s.owner pt with
  | none => stall s
  | some c =>
    if !m.room (replOf f w.imm.toNat == 2) then stall s
    else if x.strict.any fun t => t.poison || t.mismatch then .next (s.consumePoison pt unit 0)
    else
      let r := s.muRequest pt u c f fn w x toks tuple
      if f ≠ .pref ∧ s.resolve pt u c r = .bad then .next (s.unitFault pt unit fcAddress 0)
      else
        let s1 := match (if f.eats then none else x.data.find? Token.mismatch) with
          | some t => s.residueError pt unit 0 t
          | none => s
        let s2 := s1.muTakes pt u n
        let s3 := if m.byAg f then s2.tupleTake pt u else s2
        let m3 := s3.mu pt u
        if r.again && !idem f w.imm.toNat then .next (s3.setMu pt u { m3 with next := m3.next + 1 })
        else
          let m4 := { m3 with items := m3.items ++ [.req r], next := m3.next + 1 }
          let s4 := ((s3.setMu pt u m4).sameCycle pt (!u) m4.next).touch pt .mem
          let s5 := if f.breaks then s4.modOwner pt (·.breakReplay (unitKey pt unit)) else s4
          .next (s5.tryReq pt u r.num)

/-- A memory unit's instruction takes the next request unit, or passes the mark that stands on all its streams (R258).  A mark
whose residue is wrong is consumed poison (R397; log entry 75). -/
def fireMem (fn : Nat) (w : MemMods) (s : State) : Out :=
  match s.cur with
  | .mu pt u =>
    let m := s.mu pt u
    let f := muFn fn
    if !s.active pt ∨ m.stopAt.isSome then stall s
    else
      let n := m.need f w.imm.toNat
      let toks := (s.muToks pt u).take n
      let useIn := decide (0 < n)
      let useAg := m.byAg f
      let tup := m.tuples.head?
      let hs := toks.head?.toList ++ (if useAg then tup.toList else [])
      if (useIn && toks.isEmpty) || (useAg && tup.isNone) then stall s
      else match commonMark hs with
        | some t => .next (if hs.any Token.mismatch then s.consumePoison pt (muUnit u) 0 else s.muMark pt u useIn useAg t)
        | none =>
          if toks.length < n ∨ toks.any Token.isMark ∨ (useAg && tup.any Token.isMark) then stall s
          else s.muAccept pt u f fn w n (m.unit f toks tup) toks tup
  | _ => .fault .wrongAgent

/-- LD (R259). -/
def execLd (m : MemMods) (s : State) : Out := fireMem 0 m s
/-- ST (R259, R424). -/
def execSt (m : MemMods) (s : State) : Out := fireMem 1 m s
/-- GATH (R259). -/
def execGath (m : MemMods) (s : State) : Out := fireMem 2 m s
/-- SCAT (R259, R424). -/
def execScat (m : MemMods) (s : State) : Out := fireMem 3 m s
/-- ATOM (R260). -/
def execAtom (m : MemMods) (s : State) : Out := fireMem 4 m s
/-- ORD (R261). -/
def execOrd (m : MemMods) (s : State) : Out := fireMem 5 m s
/-- FENCE (R261, R320). -/
def execFence (m : MemMods) (s : State) : Out := fireMem 6 m s
/-- QLD (R148, R262). -/
def execQld (m : MemMods) (s : State) : Out := fireMem 7 m s
/-- QST (R146, R262). -/
def execQst (m : MemMods) (s : State) : Out := fireMem 8 m s
/-- QSTV (R147, R262). -/
def execQstv (m : MemMods) (s : State) : Out := fireMem 9 m s
/-- BARA (R263). -/
def execBara (m : MemMods) (s : State) : Out := fireMem 10 m s
/-- BARW (R263). -/
def execBarw (m : MemMods) (s : State) : Out := fireMem 11 m s
/-- PREF (R259). -/
def execPref (m : MemMods) (s : State) : Out := fireMem 12 m s

/-! ### Order within a node (R132) -/

/-- The bits an element covers: kind of storage, first bit, count. -/
def MuReq.bits (r : MuReq) (e : Elem) : Option (Nat × Nat × Nat) :=
  let el := (ltElem r.lt).getD .int8
  match e.spot with
  | .spad pt b => some (0, spadKey pt 0 * 8 + b, if r.kind.barrier then 64 else fmtWidth el)
  | .slot pt n b => some (1, opndKey pt n 0 * 8 + b, fmtWidth el)
  | .phys b f _ _ => some (2, b, if r.kind.quorum then 384 else fmtWidth f)
  | .nowhere | .virt _ => none

/-- Two bit ranges touch a common byte. -/
def touches (a b : Nat × Nat × Nat) : Bool :=
  decide (a.1 = b.1 ∧ a.2.1 / 8 ≤ (b.2.1 + b.2.2 - 1) / 8 ∧ b.2.1 / 8 ≤ (a.2.1 + a.2.2 - 1) / 8)

/-- Element `e` of a request touches a byte of element `d` of another. -/
def MuReq.meets (q : MuReq) (d : Elem) (r : MuReq) (e : Elem) : Bool :=
  match q.bits d, r.bits e with
  | some a, some b => touches a b
  | _, _ => false

/-- The places that a parked request will have, where the tables map them already (R130, R132). -/
def State.foreseen (s : State) (pt root : Nat) (q : MuReq) : List Elem :=
  let look (va : Nat) := s.walkVa root va
  match (look (ltBase q.lt)).bind (·.fmt) with
  | none => []
  | some f =>
    ((s.elemsAt pt q (fmtWidth f)).getD []).filterMap fun e => match e.spot with
      | .virt b => (look (b / 8)).map fun t => { e with spot := t.spot f b }
      | _ => none

/-- A request that is parked holds up an access of a later one: to its page, or to bytes that it will touch (R132). -/
def State.parkedBefore (s : State) (pt root : Nat) (q r : MuReq) (e : Elem) : Bool :=
  match e.va with
  | none => false
  | some b =>
    (match q.st with | .parked v => s.samePage root v (b / 8) | _ => false) ||
      (s.foreseen pt root q).any fun d => q.meets d r e

/-- An earlier request must be performed first (R132, R263). -/
def State.before (s : State) (pt root : Nat) (q r : MuReq) (e : Elem) : Bool :=
  if q.num ≥ r.num then false
  else if q.kind = .barw ∧ q.open then true
  else match q.st with
    | .done | .failed => false
    | .fresh | .parked _ => s.parkedBefore pt root q r e
    | .ready | .quorum _ => q.elems.any fun d => !d.done && q.meets d r e

/-- The race detector of a cluster stops races precisely (R437). -/
def State.raceStops (s : State) (cl : Nat) : Bool := s.raceOn cl && !bit (s.reg (cl / 6) 0x67 (cl % 6)) 62

/-- An earlier request that may still find a race must be performed first, so that none after a race is (R437; log entry 68). -/
def State.raceBefore (s : State) (pt root : Nat) (q r : MuReq) : Bool :=
  decide (q.num < r.num) && s.raceStops (ptCl pt) &&
  (match q.st with
   | .done | .failed => []
   | .fresh | .parked _ => s.foreseen pt root q
   | .ready | .quorum _ => q.elems.filter fun d => !d.done).any fun d => !(d.spot.granules 1).isEmpty

/-- The element waits for an earlier request, or an earlier element of its own request (R132, R259, R437). -/
def State.elemWaits (s : State) (pt : Nat) (u : Bool) (r : MuReq) (i : Nat) (e : Elem) : Bool :=
  let root := s.root ((s.owner pt).getD 0)
  (s.mu pt u).reqs.any (fun q => s.before pt root q r e || s.raceBefore pt root q r) ||
  (r.elems.take i).any fun d => !d.done && (r.meets d r e || (s.raceStops (ptCl pt) && !(d.spot.granules 1).isEmpty))

/-! ### Performing an element -/

/-- Element `i` of a request performed: its value. -/
def MuReq.did (r : MuReq) (i v : Nat) (poison : Bool) : MuReq :=
  match r.elems[i]? with
  | some e => { r with elems := lset r.elems i { e with done := true, value := v, poison := poison } }
  | none => r

/-- The new value of ATOM (R260): the sub-operation, old, operand and compare patterns. -/
def atomNew (ty : Fmt) (rnd : Rnd) (sub old x cmp : Nat) : Nat :=
  let mm := plainMods ty rnd false false
  if sub < 4 ∧ isAbsent ty x then old
  else if sub < 4 ∧ isAbsent ty old then x
  else match sub with
    | 0 => (fitInt (fmtWidth ty) false (sint (fmtWidth ty) old + sint (fmtWidth ty) x)).1
    | 1 => (fArith ty mm [old, x] (fpTerms 0)).1
    | 2 | 3 =>
      if isFloat ty then (fMinMax ty (sub == 3) old x).1
      else if decide (sint (fmtWidth ty) old < sint (fmtWidth ty) x) == (sub == 3) then x else old
    | 4 => x
    | _ => if old = cmp then x else old

/-- A read of element `i` (R261). -/
def State.doLoad (s : State) (pt : Nat) (u : Bool) (r : MuReq) (i : Nat) (p : Spot) : State :=
  let x := s.load (s.muWho pt) ((ltElem r.lt).getD .int8) r.ty p false
  x.2.2.setReq pt u (r.did i x.1 x.2.1)

/-- A whole block written in its format: 32 elements and their scale (R112, R129). -/
def State.putBlock (s : State) (w : Who) (f : Fmt) (b scale : Nat) (track : Bool) (xs : List Nat) (poison : Bool) : State :=
  let q := quantBlock .bf16 f xs
  let n := fmtWidth f
  ((List.range 32).foldl (fun s j => s.rawStore w n (q.1.getD j 0) poison (.phys (b + j * n) f scale track)) s).scalePut scale
    (BitVec.ofNat 8 q.2.1) poison

/-- The elements of a request that a store of element `i` performs: those of its block in a block format, else itself
(R129). -/
def MuReq.blockElems (r : MuReq) (i : Nat) (p : Spot) (f : Fmt) : List Nat :=
  if isBlock f && f != r.ty then
    (List.range 32).filterMap fun j => blockIndex r.elems (p.blockBit (fmtWidth f)) (fmtWidth f) j
  else [i]

/-- A write of element `i`; a block-format place takes the 32 elements of its block at once (R129, R261). -/
def State.doStore (s : State) (pt : Nat) (u : Bool) (r : MuReq) (i : Nat) (p : Spot) : State :=
  let w := fmtWidth r.ty
  let d := r.store
  let who := s.muWho pt
  match p with
  | .phys b f scale track =>
    if isBlock f && f != r.ty then
      let is := r.blockElems i p f
      let s1 := s.putBlock who f (p.blockBit (fmtWidth f)) scale track (is.map (elemAt d.payload w)) d.poison
      s1.setReq pt u (is.foldl (fun q j => q.did j 0 false) r)
    else (s.store who f r.ty (elemAt d.payload w i) d.poison p).setReq pt u (r.did i 0 false)
  | _ =>
    (s.store who ((ltElem r.lt).getD .int8) r.ty (elemAt d.payload w i) d.poison p).setReq pt u (r.did i 0 false)

/-- One indivisible read-modify-write of element `i` (R260). -/
def State.doAtom (s : State) (pt : Nat) (u : Bool) (r : MuReq) (i : Nat) (e : Elem) : State :=
  let el := (ltElem r.lt).getD .int8
  let w := fmtWidth r.ty
  let x := s.load (s.muWho pt) el r.ty e.spot true
  let sub := r.imm % 8
  let arg (k : Nat) : Nat := elemAt (r.data.getD k {}).payload w i
  let new := if sub = 5 then atomNew r.ty r.rnd sub x.1 (arg 1) (arg 0) else atomNew r.ty r.rnd sub x.1 (arg 0) 0
  let s1 := if e.drop then x.2.2 else x.2.2.store (s.muWho pt) el r.ty new false e.spot
  s1.setReq pt u (r.did i x.1 x.2.1)

/-- A refused request's tokens and tuple stand again at the head of the unit's streams: none of them was consumed (R414). -/
def State.muReturn (s : State) (pt : Nat) (u : Bool) (r : MuReq) : State :=
  let m := s.mu pt u
  let m1 := { m with tuples := r.tuple.toList ++ m.tuples, seen := r.toks.map (fun _ => (s.cycle, 0)) ++ m.seen }
  match s.muTap pt u with
  | some (v, k) =>
    let s1 := s.setMu pt u m1
    let cu := s1.cu pt v
    (s1.setCu pt v { cu with ins := cu.ins.set k (r.toks.map (fun t => ⟨t, 8⟩) ++ cu.ins[k]) }).touch pt .tok
  | none =>
    (r.toks.foldl (fun s _ => s.spend (.mu pt u)) (s.setMu pt u { m1 with buf := r.toks ++ m1.buf })).touch pt .tok

/-- An arrival at a barrier word, a release; or the barrier fault (R263, R313, R314, R414). -/
def State.doBara (s : State) (pt : Nat) (u : Bool) (r : MuReq) (c : Nat) (p : Spot) : State :=
  match p with
  | .spad q b =>
    let k := spadKey q 0 * 8 + b
    let w : Word64 := BitVec.ofNat 64 (memBits s.spad k 64)
    match barArrive w with
    | none => ((s.setReq pt u { r with st := .failed }).muReturn pt u r).unitFault pt (muUnit u) fcBarrier 0
    | some w1 =>
      let s1 := s.raceRelease c (objWord k)
      { s1 with spad := memPutBits s1.spad k 64 w1.toNat }.setReq pt u (r.did 0 w.toNat (s.spadPoison.contains (k / 512)))
  | _ => s

/-- A prefetch of the line that holds a place: its sectors come into the L1 that serves it, and where none does, into the LLC
slice alone (R140, R141, R259, R317). -/
def State.doPref (s : State) (pt : Nat) (u : Bool) (r : MuReq) (i : Nat) (p : Spot) : State :=
  let s1 := match p with
    | .phys b _ _ track =>
      match s.l1For (s.muWho pt) (b / 8) track with
      | some t => (List.range 4).foldl (fun (s : State) j => s.l1Load t (b / 8 / 192 * 4 + j)) s
      | none => s.readThrough (b / 8 / 192 * 192) 192
    | _ => s
  s1.setReq pt u (r.did i 0 false)

/-- A quorum request begins its operation (R146 to R148, R262). -/
def State.doQuorum (s : State) (pt : Nat) (u : Bool) (r : MuReq) (c : Nat) (p : Spot) : State :=
  match p with
  | .phys b _ _ _ =>
    let d : Payload := (r.data.headD {}).payload
    let version := tagVersion (BitVec.ofNat 64 (natBits d.toNat 320 64))
    let s1 := s.setReq pt u { r with st := .quorum s.nextQop }
    s1.qStart r.fn (ptDie pt) c r.qset (b / 8 % 2 ^ 36) (cellBytes d) (s.mu pt u).qflags version (some (pt, u, r.num))
  | _ => s

/-- What an element access of a request is to the race detector (R436). -/
def MuReq.race (r : MuReq) : Kind2 := ⟨r.kind.writes, r.kind = .atom || r.kind.barrier⟩

/-- The bits that the access of an element takes at once: all of a block that it encodes, else the element's. -/
def MuReq.span (r : MuReq) (e : Elem) (block : Bool) : Nat :=
  match r.bits e with
  | some b => if block then 32 * b.2.2 else b.2.2
  | none => 0

/-- The element's access by kind. -/
def State.doElem (s : State) (pt : Nat) (u : Bool) (r : MuReq) (i : Nat) (c : Nat) (e : Elem) : State :=
  match r.kind with
  | .ld | .gath => s.doLoad pt u r i e.spot
  | .st | .scat => (s.doStore pt u r i e.spot).modOwner pt fun x =>
      if replOf r.kind r.imm = 0 then x.breakReplay (unitKey pt (muUnit u)) else x
  | .atom => s.doAtom pt u r i e
  | .bara => s.doBara pt u r c e.spot
  | .pref => s.doPref pt u r i e.spot
  | .qld | .qst | .qstv => s.doQuorum pt u r c e.spot
  | .barw | .ord | .fence => s

/-- The fault of an access that cannot reach its place: the node faults, and far memory writes a record (R414, R442,
R446, R450). -/
def State.linkFault (s : State) (pt : Nat) (u : Bool) (r : MuReq) (pa fcode c : Nat) : State :=
  let s1 := if fcode = fcFarmem then s.farRecord pa c else s
  (s1.setReq pt u { r with st := .failed }).unitFault pt (muUnit u) fcode 0

/-- The physical byte address of a place in package, far, peer or host memory. -/
def Spot.pa? : Spot → Option Nat
  | .phys b _ _ _ => some (b / 8)
  | _ => none

/-- The fault code that keeps a place from being reached. -/
def State.spotFault (s : State) (die : Nat) (p : Spot) (routes : List (Nat × Nat)) : Option (Nat × Nat) :=
  match p.pa? with
  | some pa => (s.unreachable die pa routes).map fun f => (pa, f)
  | none => none

/-- MEMORY_REQUEST_PERFORM: one element access of a request reaches its bank, slice or port and is performed or bound
(R132, R259 to R263, R436 to R439); one of a PREF raises no fault and writes no record of its own (R259). -/
def execMemoryRequestPerform (t : Nat) (u : Bool) (r e : Nat) (o : Obs) (s : State) : Out :=
  match s.muReq t u r, s.owner t with
  | some q, some c =>
    match q.elems[e]? with
    | none => stall s
    | some x =>
      let stopped : Bool := match (s.mu t u).stopAt with | some n => decide (n ≤ r) | none => false
      let block := q.kind.writes && (match x.spot with | .phys _ f _ _ => isBlock f && f != q.ty | _ => false)
      let who := s.muWho t
      let cached := q.kind.reads && q.kind ≠ .atom
      let id := (unitKey t (muUnit u), r, e)
      let pa := if q.kind.quorum then none else s.stackPa who x.spot cached
      let late := q.kind = .bara && (s.mu t u).reqs.any fun y => decide (y.num < r) && y.open
      if q.st ≠ .ready ∨ x.done ∨ q.hold ∨ stopped ∨ q.kind = .barw ∨ late ∨ s.elemWaits t u q e x then stall s
      else if q.kind = .pref ∧ (s.spotFault (ptDie t) x.spot q.routes).isSome then
        .next ((s.setReq t u (q.did e 0 false)).reqCheck t u r)
      else match (if q.kind.quorum then none else s.spotFault (ptDie t) x.spot q.routes) with
        | some (at', f) => .next (s.linkFault t u q at' f c)
        | none =>
          if !s.bankTurn s.bankAlive id pa then
            if s.bankHas id pa then stall s else .next (s.bankWait id pa)
          else if q.kind = .pref then
            .next (((s.doPref t u q e x.spot).rowAct who pa o.act).bankGone id |>.reqCheck t u r)
          else
            let ra := s.raceAccess c (ptCl t) q.race q.lt (if block then x.spot.blockSpot else x.spot) (q.span x block)
            if ra.2 then
              .next ((ra.1.setMu t u { ra.1.mu t u with stopAt := some r }).unitFault t (muUnit u) fcRace 0)
            else if q.kind.quorum then .next ((ra.1.doElem t u q e c x).reqCheck t u r)
            else
              let s1 := (ra.1.eccAt who x.spot cached o.ecc e).doElem t u q e c x
              .next (((s1.rowAct who pa o.act).bankGone id).reqCheck t u r)
  | _, _ => stall s

/-! ### Replies and completions (R132, R258, R261) -/

/-- The reply payload of a request that has been performed (R148, R259, R260, R263). -/
def MuReq.reply (r : MuReq) : Payload :=
  let w := fmtWidth r.ty
  match r.kind with
  | .qld | .bara | .barw => BitVec.ofNat 512 ((r.elems.headD { spot := .nowhere }).value)
  | _ =>
    let vs := r.elems.map fun e => match e.spot with | .nowhere => absentOf r.ty | _ => e.value
    payloadOf w (vs ++ List.replicate (512 / w - vs.length) (absentOf r.ty))

/-- The completion payload: the requests completed since CFG; for a quorum store, the tag and the copies overwritten
(R146, R261). -/
def MuReq.completion (r : MuReq) (n : Nat) : Payload :=
  match r.kind with
  | .qst | .qstv => BitVec.ofNat 512 (r.qtag.toNat + r.qover % 8 * 2 ^ 64)
  | _ => BitVec.ofNat 512 (n % 2 ^ 64)

/-- The switch inputs of a memory unit's reply and completion outputs (R191). -/
def muReply (u : Bool) : Nat := if u then 0x2B else 0x29
/-- The completion output. -/
def muCompl (u : Bool) : Nat := if u then 0x2C else 0x2A

/-- The stream-buffer key of a memory unit's output (R421). -/
def muStream (pt code : Nat) : Nat := 2 ^ 20 + pt * 64 + code

/-- A token leaves a memory unit on an output that an entry carries on. -/
def State.muSend (s : State) (pt code : Nat) (t : Token) : State :=
  if ((s.tile pt).sw.dataOf code).isEmpty then s else s.emit pt code t

/-- A token leaves a memory unit on an output, and enters the region there (R421). -/
def State.muEmit (s : State) (pt code : Nat) (t : Token) : State :=
  (s.modOwner pt (·.recordIn (muStream pt code) t)).muSend pt code t

/-- The outputs that a unit uses: its reply output, if its instruction replies, and its completion output: with CMPL, and
for a mark always (R258). -/
def muOuts (u replies cmpl : Bool) : List Nat := (if replies then [muReply u] else []) ++ (if cmpl then [muCompl u] else [])

/-- The instruction that a memory unit's frame holds replies (R193, R258). -/
def Mu.replies (m : Mu) : Bool := (muFn (fld m.cfg 20 6 % 16)).replies

/-- The oldest item leaves the unit. -/
def State.muPop (s : State) (pt : Nat) (u : Bool) (done : Nat) : State :=
  let m := s.mu pt u
  (s.setMu pt u { m with items := m.items.tail, completed := m.completed + done }).touch pt .mem

/-- MU_REPLY_DELIVER: a memory unit emits its next reply, completion or mark, in request order (R132, R258). -/
def execMuReplyDeliver (t : Nat) (u : Bool) (s : State) : Out :=
  let m := s.mu t u
  if !s.active t then stall s
  else match m.items with
  | [] => stall s
  | .mark k :: _ =>
    let outs := muOuts u m.replies true
    if s.canEmit t outs then .next (outs.foldl (fun s o => s.muEmit t o k) (s.muPop t u 0)) else stall s
  | .again code k :: _ => if s.canEmit t [code] then .next ((s.muPop t u 0).muSend t code k) else stall s
  | .req r :: _ =>
    let cmpl := r.cmpl && !r.again
    let outs := muOuts u r.kind.replies cmpl
    if r.open ∨ !s.canEmit t outs then stall s
    else
      let n := m.completed + 1
      let first := if r.kind.replies then r.reply else r.completion n
      let k := if outs = [] then (s, false) else s.checkedOnce t (muUnit u) (some (residueOf first).toNat)
      let s1 := k.1.muPop t u (if r.again then 0 else 1)
      let s2 := if r.kind.replies
        then s1.muEmit t (muReply u) (dataToken r.reply 0 0 (k.2 || r.elems.any (·.poison))) else s1
      .next (if cmpl then s2.muEmit t (muCompl u) (dataToken (r.completion n) 0 0 (k.2 && !r.kind.replies)) else s2)

/-! ### Ordering requests and barrier words -/

/-- The first request of a kind that a unit has not performed. -/
def State.firstOpen (s : State) (pt : Nat) (u : Bool) (p : MuFn → Bool) : Option MuReq :=
  (s.mu pt u).reqs.find? fun r => p r.kind && r.open

/-- The scope of a code (R180). -/
def scopeOf (n : Nat) : Scope :=
  match n with
  | 0 => .cluster | 1 => .die | 2 => .device | _ => .system

/-- ORD_FENCE_COMPLETE: the partner's accesses that an ordering request covers have been performed; a fence drops lines
of the L1s first (R261, R310, R320). -/
def execOrdFenceComplete (t : Nat) (u : Bool) (s : State) : Out :=
  match s.firstOpen t u MuFn.orders, s.owner t with
  | some r, some c =>
    if r.st ≠ .ready ∨ (s.mu t (!u)).reqs.any (fun q => decide (q.num < r.covers) && q.open) then stall s
    else
      let s1 := if r.kind = .fence then s.dropL1 c (scopeOf (r.imm % 16)) else s
      .next ((s1.setReq t u { r with st := .done }).releases c)
  | _, _ => stall s

/-- BARW_COMPLETE: a read of the word finds its PHASE changed; an acquire (R263, R315). -/
def execBarwComplete (t : Nat) (u : Bool) (s : State) : Out :=
  match s.firstOpen t u (fun f => f == .barw), s.owner t with
  | some r, some c =>
    match r.elems with
    | [e] =>
      match e.spot with
      | .spad q b =>
        let k := spadKey q 0 * 8 + b
        let w := memBits s.spad k 64
        let stopped : Bool := match (s.mu t u).stopAt with | some n => decide (n ≤ r.num) | none => false
        let waits := s.elemWaits t u r 0 e
        if r.st ≠ .ready ∨ stopped ∨ waits ∨ natBits w 48 1 = elemAt (r.data.headD {}).payload 1 0 then stall s
        else
          let ra := s.raceAccess c (ptCl t) r.race r.lt e.spot 64
          if ra.2 then
            .next ((ra.1.setMu t u { ra.1.mu t u with stopAt := some r.num }).unitFault t (muUnit u) fcRace 0)
          else
            let s1 := ra.1.setReq t u (r.did 0 w (s.spadPoison.contains (k / 512)))
            .next ((s1.acquire c .cluster (objWord k)).reqCheck t u r.num)
      | _ => stall s
    | _ => stall s
  | _, _ => stall s

/-! ### Banks and far memory (R438, R439, R442) -/

/-- BOFF of a stack (R439). -/
def State.boff (s : State) (stack : Nat) : Nat := fld (s.reg (stack / 2) 0x6A (stack % 2)) 16 16

/-- A cooldown that has lasted BOFF ns. -/
def State.coolOver (s : State) (stack bank : Nat) (c : Cool) : Bool :=
  decide (c.stack = stack ∧ c.bank = bank ∧ c.since + s.boff stack ≤ s.cycle) && !c.ended

/-- BANK_COOLDOWN_END: a bank's cooldown of BOFF ns ends, and the requests that waited proceed in their order (R439). -/
def execBankCooldownEnd (stack bank : Nat) (s : State) : Out :=
  if s.cooldown.any (s.coolOver stack bank) then
    .next { s with cooldown := (s.cooldown.map fun c => if s.coolOver stack bank c
      then { c with ended := true, queue := c.queue.filter s.bankAlive } else c).filter fun c => !(c.ended && c.queue.isEmpty) }
  else stall s

/-- PATROL_SCRUB: the scrub of a stack visits a sector and records what it finds (R438). -/
def execPatrolScrub (pa : Nat) (o : Ecc) (s : State) : Out :=
  if !paHbm pa then stall s
  else
    let found (cls : ErrClass) : State := s.eccRecord (paStack pa / 2) (.stack (paStack pa % 2)) cls 17 0x13 pa 0
    match o with
    | .ok => stall s
    | .corrected => .next (found .ce)
    | .uncorrected => .next { found .defd with memPoison := markAdd s.memPoison (pa / 48) }

end Sys2Proof.Machine
end

