-- ==== Sys2Proof/Machine/Semaphores.lean ====
section
/-! DEFINITION. Semaphores, timelines and the event crossbar as commands (R64, R271 to R273, R282 to R284). -/

namespace Sys2Proof.Machine

/-- SEMW: waits for the count to reach XA[15:0], and with SUB subtracts it; an acquire (R283). -/
def execSemw (d a : XReg) (imm : BitVec 8) (w : CtlP2) (s : State) : Out :=
  let va (s : State) (c : Nat) : Word64 := (s.ctx c).getX a
  runCmd w {
    check := fun s c => trapUnless (decide (fld (va s c) 0 16 ≠ 0 ∧ fld (va s c) 17 47 = 0))
    cond := fun s c => .sem imm.toNat (fld (va s c) 0 16) (bit (va s c) 16) w.scope
    act := fun s c n => .next ((s.modCtx c fun x => x.setX d (BitVec.ofNat 64 n)).finish c w 2) } s

/-- SEMS: adds XA[15:0], a release even when that is 0 (R283). -/
def execSems (a : XReg) (imm : BitVec 8) (w : CtlP2) (s : State) : Out :=
  runCmd w {
    check := fun s c => trapUnless (decide (fld ((s.ctx c).getX a) 16 48 = 0))
    act := fun s c _ =>
      let x := s.ctx c
      let n := fld (x.getX a) 0 16
      .next (((s.setCtx c (x.past 2)).release c w.scope (.inc imm.toNat n x.info)).signal c (signalOf x w)) } s

/-- The count of a semaphore written: in the saved image of a team that is swapped out (R283, R345). -/
def State.semSet (s : State) (c cl k n : Nat) : State :=
  match s.teamOut c cl k with
  | some (l, g, x) => s.setGroup l g { x with image := tset x.image k n }
  | none => s.setSem cl k n

/-- The count of a semaphore read: in the saved image of a team that is swapped out (R283, R345). -/
def State.semRead (s : State) (c cl k : Nat) : Nat :=
  match s.teamOut c cl k with
  | some (_, _, x) => tgetD x.image k 0
  | none => s.sem cl k

/-- SEMSET: the count is XA[15:0]; neither release nor acquire; it comes before the other operations on the semaphore in
its CYCLE (R271, R283). -/
def execSemset (a : XReg) (imm : BitVec 8) (w : CtlP2) (s : State) : Out :=
  runCmd w { atIssue w 2 (fun s c =>
      (s.semSet c (s.homeCl c) imm.toNat (fld ((s.ctx c).getX a) 0 16)).semNote (s.homeCl c) imm.toNat (semPlace 1 c)) with
    ready := fun s c => s.semTurn (s.homeCl c) imm.toNat (semPlace 1 c) } s

/-- SEMRD: reads the count; not an acquire (R283). -/
def execSemrd (d : XReg) (imm : BitVec 8) (w : CtlP2) (s : State) : Out :=
  runCmd w (atIssue w 2 fun s c =>
    s.modCtx c fun x => x.setX d (BitVec.ofNat 64 (s.semRead c (s.homeCl c) imm.toNat))) s

/-- The context whose timeline a command names: its own with SELF, else XB[15:0] (R283). -/
def State.tlNamed (s : State) (c : Nat) (b : XReg) (imm : BitVec 8) : Nat :=
  if imm = 1 then c else fld ((s.ctx c).getX b) 0 16

/-- The launch of a context has placed a region on a cluster: at its placement, or since (R282). -/
def State.launchOn (s : State) (c cl : Nat) : Bool :=
  match s.launchOf c with
  | none => false
  | some (_, la) => la.regions.any fun r => decide (idDie r * 6 + idCluster r = cl ∨ s.homeCl r = cl)

/-- The named timeline is the issuer's own, or that of a region context of its launch, or of an engine context where its
launch has placed a region (R283). -/
def State.tlKnown (s : State) (c : Nat) (b : XReg) (imm : BitVec 8) : Option Nat :=
  let t := s.tlNamed c b imm
  trapUnless (imm == 1 ||
    (isRegionId t && (s.ctx t).launch.isSome && (s.ctx t).launch == (s.ctx c).launch) ||
    (isCopyId t && s.launchOn c (idDie t * 6 + idCluster t)) ||
    (isCollId t && (List.range 6).any fun k => s.launchOn c (idDie t * 6 + k)))

/-- TLW: waits until the named timeline has reached XA; an acquire (R283). -/
def execTlw (a b : XReg) (imm : BitVec 8) (w : CtlP2) (s : State) : Out :=
  runCmd w {
    check := fun s c => s.tlKnown c b imm
    cond := fun s c => .timeline (s.tlNamed c b imm) ((s.ctx c).getX a).toNat w.scope
    act := fun s c _ => .next (s.finish c w 2) } s

/-- TLA: the context's own timeline advances by n; a release (R283, R284). -/
def execTla (imm : BitVec 8) (w : CtlP2) (s : State) : Out :=
  runCmd w {
    act := fun s c _ =>
      let x := s.ctx c
      .next (((s.setCtx c (x.past 2)).release c w.scope (.advance imm.toNat)).signal c (signalOf x w)) } s

/-- TLRD: reads the named timeline; not an acquire (R283). -/
def execTlrd (d b : XReg) (imm : BitVec 8) (w : CtlP2) (s : State) : Out :=
  runCmd w { atIssue w 2 (fun s c => s.modCtx c fun x =>
      x.setX d (BitVec.ofNat 64 (s.timeline (s.tlNamed c b imm)))) with check := fun s c => s.tlKnown c b imm } s

/-! ### The event crossbar (R282) -/

/-- A pulse input's word holds assigned codes. -/
def inputOk (v : Word64) : Bool :=
  let sel := fld v 3 8
  match fld v 0 3 with
  | 0 | 3 => true
  | 1 => decide (sel < 64)
  | 2 => decide (sel < 96)
  | 4 => decide (sel < 32)
  | _ => false

/-- A product term's word holds assigned codes. -/
def termOk (v : Word64) : Bool := (List.range 8).all fun j => decide (fld v (8 * j) 7 < 96)

/-- A start output's word holds assigned codes. -/
def outputOk (v : Word64) : Bool := decide (fld v 18 7 < (if bit v 17 then 96 else 64))

/-- An element's number and the codes of its word are assigned (R282); reserved bits are ignored (R8). -/
def evtOk (n : Nat) (v : Word64) : Bool :=
  if n < 64 then inputOk v
  else if n < 96 then decide (fld v 6 16 ≠ 0)
  else if n < 112 then termOk v
  else decide (n < 176) && outputOk v

/-- EVTC: writes an element of the cluster's event crossbar, which acts from the next CYCLE (R282). -/
def execEvtc (a b : XReg) (imm : BitVec 8) (w : CtlP2) (s : State) : Out :=
  runCmd w {
    check := fun s c =>
      let x := s.ctx c
      trapUnless (evtOk (x.getX a).toNat (x.getX b) && (isSupId c || s.launchOn c (s.homeCl c)))
    act := fun s c _ =>
      let x := s.ctx c
      let cl := s.homeCl c
      let y := s.cl cl
      let e := ((x.getX a).toNat, x.getX b, imm)
      let s1 := s.setCl cl { y with xbar := { y.xbar with writes := y.xbar.writes ++ [e] } }
      .next (s1.finish c w 2) } s

/-- The target of a start output (R282). -/
def startTarget (cl : Nat) (v : Word64) : Nat :=
  idOf (cl / 6) (cl % 6) (if bit v 17 then fld v 18 7 else 128 + fld v 18 7)

/-- EVENT_START: a start that a rising output causes reaches its target, which counts it up to 255 (R64, R273, R282). -/
def execEventStart (cl out : Nat) (s : State) : Out :=
  let y := s.cl cl
  if !y.xbar.rising.contains out then stall s
  else
    let t := startTarget cl (tgetD y.xbar.outputs out 0)
    let s1 := s.setCl cl { y with xbar := { y.xbar with rising := y.xbar.rising.erase out } }
    .next (s1.modCtx t fun x => { x with starts := if x.starts < 255 then x.starts + 1 else x.starts })

end Sys2Proof.Machine
end

