-- ==== Sys2Proof/Machine/Engine.lean ====
section
/-! DEFINITION. Engine programs, copy-engine operations and promises (R57, R63, R280, R281, R288 to R295, R402, R415,
R433, R435, R439, R457). -/

namespace Sys2Proof.Machine

/-! ### FORK and RDV (R63, R280, R281) -/

/-- Bytes of section 4 of a context's launch; of a supervisor, its own code. -/
def State.codeBytes (s : State) (c : Nat) : List Byte :=
  if isSupId c then (s.ctx c).code.flatMap fun p => bytesOf p 4
  else match s.launchOf c with
    | some (_, l) => l.code
    | none => []

/-- Parcels of bytes, four at a time; bytes past the last whole parcel are left out. -/
def parcelsOf : Nat → List Byte → List Parcel
  | 0, _ => []
  | n + 1, bs => BitVec.ofNat 32 (natOfBytes (bs.take 4)) :: parcelsOf n (bs.drop 4)

/-- The parcels of a code section from a byte offset on. -/
def codeFrom (bs : List Byte) (off : Nat) : List Parcel := parcelsOf ((bs.length - off) / 4) (bs.drop off)

/-- The contexts that a FORK names, in ascending bit order (R280). -/
def State.forkTargets (s : State) (c : Nat) (imm : BitVec 8) (mask : Word64) : List Nat :=
  if imm = 0 then
    let cl := s.homeCl c
    ((List.range 64).filter fun j => bit mask j).map fun j => idOf (cl / 6) (cl % 6) (128 + j)
  else ((List.range 32).filter fun j => bit mask j).map fun j => idOf (s.ctxDie c) 7 j

/-- A named context accepts its program; its timeline is kept, but 0 when it is first forked in a launch (R272, R280). -/
def State.startProgram (s : State) (c e number off : Nat) (arg : Nat) : State :=
  let f := s.ctx c
  let x := s.ctx e
  let again := match s.launchOf c with | some (_, la) => la.forked.contains e | none => true
  let s1 := match s.launchOf c with
    | some (l, la) => { s with launches := tset s.launches l { la with forked := markAdd la.forked e } }
    | none => s
  s1.setCtx e { x with
    st := .running, pc := 0, code := codeFrom (s.codeBytes c) off
    xregs := ((Vector.replicate 16 (0 : Word64)).set 0 (BitVec.ofNat 64 c)).set 1 (BitVec.ofNat 64 arg)
    waitDone := false, ownDone := false, ownVal := 0, waitFor := .none, hold := .none, halted := false, trapped := none
    members := if again then x.members else match s.launchOf c with | some (_, la) => la.entries e | none => x.members
    forker := c, underFork := number, chain := s.chainHead c, homeCl := s.homeCl c % 6, homeReg := none, launch := f.launch, forks := []
    timeline := if again then x.timeline else 0, opBase := if again then x.opBase else x.accepted }

/-- FORK: every named context accepts its program (R280). -/
def execFork (d a b : XReg) (imm : BitVec 8) (w : CtlP2) (s : State) : Out :=
  runCmd w {
    ready := fun s c => s.mayRelease c w.scope
    check := fun s c =>
      let x := s.ctx c
      let m := x.getX a
      let n := (s.forkTargets c imm m).length
      let tbl := (x.getX b).toNat
      let bs := s.codeBytes c
      let offs := (List.range n).map fun i => natOfBytes ((bs.drop (tbl + 8 * i)).take 4)
      trapUnless (m != 0 && (imm == 0 || decide (fld m 32 32 = 0)) && decide (tbl + 8 * n ≤ bs.length) &&
        offs.all fun o => decide (o % 4 = 0 ∧ o < bs.length))
    act := fun s c _ =>
      let x := s.ctx c
      let ts := s.forkTargets c imm (x.getX a)
      if ts.any fun e => (s.ctx e).st != .free then stall s
      else
        let bs := s.codeBytes c
        let tbl := (x.getX b).toNat
        let n := x.forkNo + 1
        let s1 := ts.zipIdx.foldl (fun s p =>
          let q := bs.drop (tbl + 8 * p.2)
          (s.raceHand c p.1).startProgram c p.1 n (natOfBytes (q.take 4)) (natOfBytes ((q.drop 4).take 4))) s
        let f : ForkRec := { number := n, progs := ts.map fun e => (e, false, false) }
        let s2 := s1.modCtx c fun x => Ctx.setX { x with forkNo := n, forks := x.forks ++ [f] } d (BitVec.ofNat 64 n)
        .next (s2.finish c w 2) } s

/-- RDV: waits until every program of a fork has ended; an acquire of what they completed (R63, R281). -/
def execRdv (d a : XReg) (w : CtlP2) (s : State) : Out :=
  let number (s : State) (c : Nat) : Nat := ((s.ctx c).getX a).toNat
  runCmd w {
    check := fun s c => trapUnless ((s.ctx c).forks.any fun f => f.number == number s c && !f.joined)
    cond := fun s c => .joined (number s c) w.scope
    act := fun s c m =>
      let n := number s c
      let join (f : ForkRec) : ForkRec := if f.number = n then { f with joined := true } else f
      let s1 := s.modCtx c fun x => Ctx.setX { x with forks := x.forks.map join } d (BitVec.ofNat 64 m)
      .next (s1.finish c w 2) } s

/-! ### Copy descriptors (R289) -/

/-- SRCLT. -/
def dSrcLt (d : List Word64) : Nat := fld (ltWord d 0) 0 8
/-- DSTLT. -/
def dDstLt (d : List Word64) : Nat := fld (ltWord d 0) 8 8
/-- OTILE. -/
def dOtile (d : List Word64) : Nat := fld (ltWord d 0) 21 7
/-- CLAIM. -/
def dClaim (d : List Word64) : Nat := fld (ltWord d 0) 28 8
/-- CLAIMV. -/
def dClaimv (d : List Word64) : Bool := bit (ltWord d 0) 36
/-- RANK of the box. -/
def dRank (d : List Word64) : Nat := fld (ltWord d 0) 37 3
/-- IDXLT. -/
def dIdxLt (d : List Word64) : Nat := fld (ltWord d 0) 40 8

/-- The extent of a dimension minus 1. -/
def dShape (d : List Word64) (k : Nat) : Nat := if k < 4 then fld (ltWord d 1) (16 * k) 16 else fld (ltWord d 0) 48 16

/-- The extents of the box. -/
def dExtents (d : List Word64) : List Nat := (List.range (dRank d)).map fun k => dShape d k + 1

/-- An origin coordinate, in the two words from `i` (R289). -/
def dOrigin (d : List Word64) (i k : Nat) : Nat :=
  match k with
  | 0 => fld (ltWord d i) 0 32
  | 1 => fld (ltWord d i) 32 32
  | 2 => fld (ltWord d (i + 1)) 0 21
  | 3 => fld (ltWord d (i + 1)) 21 21
  | _ => fld (ltWord d (i + 1)) 42 21

/-- Extents and origins at or above RANK are 0, RANK is 1 to 5, and bit 63 of the packed origins is 0 (R289).  The reserved bits
[20:16] are ignored (R8). -/
def dCodes (d : List Word64) (origins : List Nat) : Bool :=
  let r := dRank d
  let above := (List.range 5).filter fun k => decide (r ≤ k)
  decide (1 ≤ r ∧ r ≤ 5 ∧ dOtile d < 96) &&
  above.all (fun k => decide (dShape d k = 0)) &&
  origins.all fun i => !bit (ltWord d (i + 1)) 63 && above.all fun k => decide (dOrigin d i k = 0)

/-- The positions of a box, dimension 0 fastest (R290). -/
def boxPositions : List Nat → List (List Nat)
  | [] => [[]]
  | n :: rest => (boxPositions rest).flatMap fun t => (List.range n).map fun i => i :: t

/-- Coordinates of a position in an entry of a rank: origin and position; beyond the box, the origin alone (R290). -/
def dCoords (d : List Word64) (i rank : Nat) (e : List Nat) : List Int :=
  (List.range rank).map fun k => (dOrigin d i k + e.getD k 0 : Nat)

/-! ### What an operation meets -/

/-- An answer, or why there is none: a page to walk, a permission failure, a failure with its code. -/
inductive Met (α : Type) where
  | ok (a : α)
  | miss (va : Nat) (write : Bool)
  | perm (va : Nat) (write : Bool)
  | fail (fcode : Nat)
  /-- A link that cannot be crossed: the address behind it, and the code. -/
  | cut (pa fcode : Nat)
  deriving DecidableEq, Repr

/-- The next answer, if there is a first. -/
def Met.bind {α β : Type} (x : Met α) (f : α → Met β) : Met β :=
  match x with
  | .ok a => f a
  | .miss v w => .miss v w
  | .perm v w => .perm v w
  | .fail c => .fail c
  | .cut pa c => .cut pa c

/-- An answer, or an address fault. -/
def Met.ofOption {α : Type} (x : Option α) : Met α :=
  match x with
  | some a => .ok a
  | none => .fail fcAddress

/-- Answers in order, or the first that is missing. -/
def metAll {α β : Type} (f : α → Met β) : List α → Met (List β)
  | [] => .ok []
  | a :: t => (f a).bind fun b => (metAll f t).bind fun bs => .ok (b :: bs)

/-- Where an engine's operation stands: LOCALSP by the chain of forks that issued it (R457). -/
def State.engStand (s : State) (eng : Nat) (o : EngOp) : Stand := ⟨s.anchorAt o.chain, s.homeCl eng⟩

/-- Who performs an engine's accesses. -/
def State.engWho (s : State) (eng : Nat) : Who := ⟨eng, s.homeCl eng, none⟩

/-- A cluster's TLB as an operation's issuer sees it. -/
def State.engLook (s : State) (eng issuer va : Nat) : Option TlbEnt := s.tlbFind none (s.homeCl eng) (s.root issuer) va

/-- The element format of one side of an operation: ELEMENT, or FMT of the page of BASE (R120). -/
def State.sideFmt (s : State) (eng : Nat) (o : EngOp) (lt : List Word64) (write : Bool) : Met Fmt :=
  if !ltCodes lt then .fail fcAddress
  else if ltVirtual lt then
    match s.engLook eng o.issuer (ltBase lt) with
    | none => .miss (ltBase lt) write
    | some t => Met.ofOption t.fmt
  else Met.ofOption (ltElem lt)

/-- The slot that a fill names, in place of the slot 0 of an OPND place (R124, R291). -/
def State.slotSpot (s : State) (eng : Nat) (o : EngOp) (p : Spot) : Spot :=
  match p with
  | .slot _ _ b => .slot (s.ptile (s.homeCl eng) (dOtile o.desc)) (dClaim o.desc / 16) b
  | q => q

/-- A virtual place translated for an operation (R125, R433). -/
def State.engSpot (s : State) (eng : Nat) (o : EngOp) (lt : List Word64) (f : Fmt) (write : Bool) (p : Spot) : Met Spot :=
  match p with
  | .virt b =>
    match s.engLook eng o.issuer (b / 8) with
    | none => .miss (b / 8) write
    | some t =>
      if !t.allows lt (!write) write (!isSupId o.issuer) then .perm (b / 8) write
      else if t.fmt ≠ some f then .fail fcAddress
      else .ok (t.spot f b)
  | q => .ok q

/-- One position of an operation: the destination's place, and the source's, where it has one. -/
structure Move where
  dst : Spot
  src : Option Spot
  /-- The block of the destination whose scale moves with this element (R290). -/
  blk : Option Nat := none
  deriving DecidableEq, Repr

/-- The order of a place in its kind of storage, in bits. -/
def Spot.key : Spot → Nat
  | .nowhere => 0
  | .spad pt b => spadKey pt 0 * 8 + b
  | .slot _ _ b => b
  | .virt b => b
  | .phys b _ _ _ => b

/-- The sector that a place lies in: 64 bytes in scratchpads and slots, else 48 (R402). -/
def Spot.sector (p : Spot) : Nat :=
  match p with
  | .spad _ _ | .slot _ _ _ => p.key / 512
  | _ => p.key / 384

/-- The sectors of a list of moves, ascending. -/
def sectorsOf (ms : List Move) : List Nat := (ms.map fun m => m.dst.sector).dedup.insertionSort (· ≤ ·)

/-! ### COPY, COPYG and COPYF -/

/-- The formats of an operation are allowed (R129, R290, R293): source none for COPYF. -/
def copyFmts (o : EngOp) (fs : Option Fmt) (fd : Fmt) : Bool :=
  let d := o.desc
  let aligned := (dShape d 0 + 1) % 32 == 0 && dOrigin d 2 0 % 32 == 0 && dOrigin d 4 0 % 32 == 0
  match fs with
  | none => decide ((ltWord d 2).toNat < 2 ^ fmtWidth fd)
  | some f => if isBlock f || isBlock fd then f == fd && aligned else true

/-- The place of an index of COPYG's list, with its format; none is out of extent (R121, R292, R446, R450). -/
def State.indexSpot (s : State) (eng : Nat) (o : EngOp) (j : Nat) : Met (Fmt × Option Spot) :=
  (s.sideFmt eng o o.idx false).bind fun f =>
    if ltSpace o.idx = 2 ∨ ltSpace o.idx = 7 ∨ !pairOk f .int32 false ∨ isBlock f then .fail fcAddress
    else
      let cs : List Int := (List.range (ltRank o.idx)).map fun k => if k = 0 then (j : Int) else 0
      (Met.ofOption (s.elemFor (s.engStand eng o) o.idx (fmtWidth f) true (some cs))).bind fun e =>
        match e.spot with
        | .nowhere => .ok (f, none)
        | p => (s.engSpot eng o o.idx f false p).bind fun q =>
          match s.spotFault (s.homeCl eng / 6) q o.routes with
          | some (pa, code) => .cut pa code
          | none => .ok (f, some q)

/-- A row of COPYG's source, from the index list (R292): none is an absent row. -/
def State.indexAt (s : State) (eng : Nat) (o : EngOp) (j : Nat) : Met (Option Int) :=
  (s.indexSpot eng o j).bind fun p =>
    match p.2 with
    | none => .ok none
    | some q =>
      let v := (s.load (s.engWho eng) p.1 .int32 q true).1
      let x := (dOrigin o.desc 2 1 : Int) + signedOf 32 v
      .ok (if isAbsent .int32 v ∨ x < 0 then none else some x)

/-- The source coordinates of a position; none is an absent element (R290, R292). -/
def copySource (o : EngOp) (rows : List (Option Int)) (e : List Nat) : Option (List Int) :=
  let cs := dCoords o.desc 2 (ltRank o.src) e
  if o.fn = 1 then
    match rows.getD (e.getD 1 0) none with
    | none => none
    | some x => some (match cs with | c :: _ :: t => c :: x :: t | l => l)
  else some cs

/-- The moves of an operation, in the order of the box, those that are dropped left out (R120, R121, R290 to R293). -/
def State.copyMoves (s : State) (eng : Nat) (o : EngOp) (fs : Option Fmt) (fd : Fmt) (rows : List (Option Int)) :
    Option (List Move) :=
  let st := s.engStand eng o
  let blk := isBlock fd
  (allSome ((boxPositions (dExtents o.desc)).map fun e =>
    match s.elemFor st o.dst (fmtWidth fd) false (some (dCoords o.desc 4 (ltRank o.dst) e)) with
    | none => none
    | some de =>
      let src : Option (Option Spot) := match fs with
        | none => some none
        | some f => (s.elemFor st o.src (fmtWidth f) true (copySource o rows e)).map fun x => some x.spot
      src.map fun sp =>
        let b := if blk && fs.isSome && e.getD 0 0 % 32 == 0 then some (de.spot.key / fmtWidth fd / 32) else none
        ({ dst := s.slotSpot eng o de.spot, src := sp, blk := b } : Move))).map
    fun ms => ms.filter fun m => m.dst != .nowhere

/-- The plan of an operation: formats and moves (R120, R129, R290 to R293). -/
def State.copyPlan (s : State) (eng : Nat) (o : EngOp) : Met (Option Fmt × Fmt × List Move) :=
  (if o.fn = 2 then (.ok none : Met (Option Fmt))
   else if ltSpace o.src = 2 ∨ ltSpace o.src = 7 then .fail fcAddress
   else (s.sideFmt eng o o.src false).bind fun f => .ok (some f)).bind fun fs =>
  (if ltSpace o.dst = 7 then (.fail fcAddress : Met Fmt) else s.sideFmt eng o o.dst true).bind fun fd =>
    if !copyFmts o fs fd then .fail fcAddress
    else
      (if o.fn = 1 then metAll (s.indexAt eng o) (List.range (dShape o.desc 1 + 1)) else .ok []).bind fun rows =>
        (Met.ofOption (s.copyMoves eng o fs fd rows)).bind fun ms => .ok (fs, fd, ms)

/-- The value that a move writes, in the destination's format, with its poison (R110, R290, R293). -/
def State.moveValue (s : State) (eng : Nat) (o : EngOp) (fs : Option Fmt) (fd : Fmt) (src : Option Spot) : Nat × Bool :=
  match fs, src with
  | some f, some p =>
    if p = .nowhere then (absentOf fd, false)
    else
      let r := s.rawLoad (s.engWho eng) (fmtWidth f) p true
      (convertPlain f fd r.1, r.2.1)
  | _, _ => ((ltWord o.desc 2).toNat % 2 ^ fmtWidth fd, false)

/-- The scale byte of the block of a source place, with the mark of its sector; an absent block has scale 0 (R128, R141,
R290). -/
def State.scaleOf (s : State) (p : Option Spot) : Byte × Bool × State :=
  match p with
  | some (.phys _ _ a _) => let r := s.scaleRead a; (BitVec.ofNat 8 r.1, r.2)
  | _ => (0, false, s)

/-- A move performed, its places known: the element, and with a block's first element the block's scale (R290, R402). -/
def State.doMove (s : State) (eng : Nat) (o : EngOp) (fs : Option Fmt) (fd : Fmt) (bad : Bool) (m : Move) : State :=
  let v := s.moveValue eng o fs fd m.src
  let s1 := (s.llcRead m.src.toList).rawStore (s.engWho eng) (fmtWidth fd) v.1 (v.2 || bad) m.dst
  match m.blk, m.dst with
  | some _, .phys _ _ a _ => let r := s1.scaleOf m.src; r.2.2.scalePut a r.1 (r.2.1 || bad)
  | _, _ => s1

/-- The scales of a fill that lie in a sector of the slot (R138, R290, R402). -/
def State.fillScales (s : State) (pt slot k : Nat) (ms : List Move) : State :=
  ms.foldl (fun s m => match m.blk with
    | some b =>
      if (8192 + b) / 64 ≠ k then s
      else
        let r := s.scaleOf m.src
        { r.2.2 with opnd := memSet s.opnd (opndKey pt slot (8192 + b)) r.1
                     opndPoison := if r.2.1 then markAdd s.opndPoison (opndKey pt slot (8192 + b) / 64) else s.opndPoison }
    | none => s) s

/-- A slot changed. -/
def State.modSlot (s : State) (pt k : Nat) (f : Slot → Slot) : State :=
  let m := s.mx pt
  s.setMx pt { m with slots := m.slots.set (Fin.ofNat 16 k) (f m.slots[Fin.ofNat 16 k]) }

/-! ### Operations in an engine context -/

/-- An operation replaced. -/
def State.setOp (s : State) (eng : Nat) (o : EngOp) : State :=
  s.modCtx eng fun x => { x with ops := x.ops.map fun y => if y.num = o.num then o else y }

/-- An operation of an engine context. -/
def State.opOf (s : State) (eng num : Nat) : Option EngOp := (s.ctx eng).ops.find? fun o => o.num == num

/-- An operation fails: the context that issued it goes to FAULTED (R415). -/
def State.opFail (s : State) (eng : Nat) (o : EngOp) (fcode : Nat) : State :=
  (s.setOp eng { o with failed := true, qop := none }).faultCtx o.issuer fcode 0x7F 0 (idLocal eng)

/-- The walk that an operation asks for (R428, R433). -/
def State.engWalk (s : State) (eng : Nat) (o : EngOp) (va : Nat) (write : Bool) : Walk :=
  let cl := s.homeCl eng
  { die := cl / 6, cluster := cl % 6, root := s.root o.issuer, va := va, ctx := o.issuer, write := write, agent := 1
    tile := 0x7F, unit := 0, pos := idLocal eng }

/-- An operation stops on a page (R433). -/
def State.opPark (s : State) (eng : Nat) (o : EngOp) (va : Nat) : State :=
  s.setOp eng { o with parked := some va, missed := some s.cycle, onTlbi := false }

/-- An operation that a link has cut off fails; far memory writes a record (R415, R442, R446, R450). -/
def State.opCut (s : State) (eng : Nat) (o : EngOp) (pa fcode : Nat) : State :=
  (if fcode = fcFarmem then s.farRecord pa o.issuer else s).opFail eng o fcode

/-- What an operation does when it did not get what it needed. -/
def State.opMet (s : State) {α : Type} (eng : Nat) (o : EngOp) (x : Met α) (f : α → State) : State :=
  match x with
  | .ok a => f a
  | .miss va w => (s.opPark eng o va).askWalk (s.engWalk eng o va w)
  | .perm va w => (s.opPark eng o va).permFault (s.engWalk eng o va w)
  | .fail code => s.opFail eng o code
  | .cut pa code => s.opCut eng o pa code

/-- A place as the tables translate it for an operation. -/
def State.physOf (s : State) (o : EngOp) (f : Fmt) (p : Spot) : Spot :=
  match p with
  | .virt b => (match s.walkVa (s.root o.issuer) (b / 8) with | some t => t.spot f b | none => p)
  | q => q

/-- The kind of storage of a place, as a number. -/
def Spot.store : Spot → Nat
  | .nowhere | .spad _ _ => 0
  | .slot pt k _ => 16 + pt * 16 + k
  | .virt _ => 3
  | .phys _ _ _ _ => 4

/-- The positions of the elements that an operation writes: those of its box, and of the records or cells of COPYQ (R290,
R294). -/
def EngOp.writes (o : EngOp) (w : Nat) : List (List Nat) :=
  if o.fn = 4 then
    let step := if ltSpace o.src == 7 then 512 else 384
    (List.range (dShape o.desc 0 + 1)).flatMap fun i => (List.range (step / w)).map fun j => [step * i / w + j]
  else boxPositions (dExtents o.desc)

/-- The bits that an operation writes: kind of storage, place and width (R288). -/
def State.writtenBits (s : State) (eng : Nat) (o : EngOp) : List (Nat × Nat × Nat) :=
  match s.issueFmt o.issuer o.dst with
  | none => []
  | some f => (o.writes (fmtWidth f)).filterMap fun e =>
    match s.elemFor (s.engStand eng o) o.dst (fmtWidth f) false (some (dCoords o.desc 4 (ltRank o.dst) e)) with
    | some x =>
      let p := s.physOf o f (s.slotSpot eng o x.spot)
      if p = .nowhere then none else some (p.store, p.key, fmtWidth f)
    | none => none

/-- An earlier operation of the context that has not completed writes bytes that this one writes (R288). -/
def State.opWaits (s : State) (eng : Nat) (o : EngOp) : Bool :=
  ((s.ctx eng).ops.filter fun p => decide (p.num < o.num) && !p.done && !p.failed).any fun p =>
    (s.writtenBits eng o).any fun w => (s.writtenBits eng p).any fun v => touches w v

/-- A bank in cooldown holds an operation up: its promise moves later by the wait (R439). -/
def State.opCools (s : State) (eng : Nat) (o : EngOp) : State :=
  match o.since with
  | some _ => s
  | none => s.setOp eng { o with since := some s.cycle }

/-- The wait for a bank ends. -/
def EngOp.warm (o : EngOp) (now : Nat) : EngOp :=
  match o.since with
  | some t => { o with since := none, promise := o.promise + (now - t) }
  | none => o

/-- The current promise of an operation (R295, R439). -/
def EngOp.promised (o : EngOp) (now : Nat) : Nat := (o.warm now).promise

/-- The race detector's answer for the moves of a sector: the state, and whether one must not be performed (R437). -/
def State.raceMoves (s : State) (eng : Nat) (o : EngOp) (fs : Option Fmt) (fd : Fmt) (ms : List Move) : State × Bool :=
  let cl := s.homeCl eng
  ms.foldl (fun r m =>
    if r.2 then r
    else
      let a := r.1.raceSpots eng cl false o.src (fmtWidth (fs.getD fd)) m.src.toList
      if a.2 then a else a.1.raceSpots eng cl true o.dst (fmtWidth fd) [m.dst]) (s, false)

/-- COPYG reads its index list: through the LLC slices, and under the race detector's eye (R141, R437). -/
def State.raceIndex (s : State) (eng : Nat) (o : EngOp) : State × Bool :=
  if o.fn ≠ 1 then (s, false)
  else match metAll (s.indexSpot eng o) (List.range (dShape o.desc 1 + 1)) with
    | .ok ps =>
      let qs := ps.filterMap (·.2)
      (s.llcRead qs).raceSpots eng (s.homeCl eng) false o.idx 32 qs
    | _ => (s, false)

/-- Every bit of a sector written without poison clears its mark (R402). -/
def State.clearMoves (s : State) (eng : Nat) (fd : Fmt) (ms : List Move) : State :=
  s.cleared (s.engWho eng) fd (ms.map fun m => { spot := m.dst })

/-- The link that a move cannot cross: its fault code (R446). -/
def State.moveFault (s : State) (eng : Nat) (o : EngOp) (ms : List Move) : Option (Nat × Nat) :=
  ms.findSome? fun m =>
    match s.spotFault (s.homeCl eng / 6) m.dst o.routes, m.src with
    | some f, _ => some f
    | none, some p => s.spotFault (s.homeCl eng / 6) p o.routes
    | none, none => none

/-- An error that an engine's access meets: of its source's residue, which poisons what it moves (R397), or of the storage that
it reads (R438); the model's input of errors stands for both. -/
def State.engUpset (s : State) (eng src : Nat) (ctx : Nat) (p : Spot) : State × Bool :=
  let s1 : State := { s with upset := 0 }
  match s.upset with
  | 0 => (s, false)
  | 1 | 2 =>
    let y := s1.fresh 16
    (y.2.errRecord (s.homeCl eng / 6) (.cluster (s.homeCl eng % 6)) .defd src 0x01 0 y.1 ctx, true)
  | 3 => (s1.eccAt (s.engWho eng) p false .corrected, false)
  | _ => (s1.eccAt (s.engWho eng) p false .uncorrected, false)

/-! ### Banks (R439) -/

/-- An operation among those that wait for a bank. -/
def bankId (eng : Nat) (o : EngOp) : Nat × Nat × Nat := (2 ^ 20 + eng, o.num, 0)

/-- The HBM4E addresses among places that an engine's access takes to their stacks. -/
def State.engPas (s : State) (eng : Nat) (ps : List Spot) : List Nat := ps.filterMap fun p => s.stackPa (s.engWho eng) p false

/-- No bank of the places holds the operation up (R439). -/
def State.banksTurn (s : State) (eng : Nat) (o : EngOp) (ps : List Spot) : Bool :=
  (s.engPas eng ps).all fun pa => s.bankTurn s.bankAlive (bankId eng o) (some pa)

/-- The operation waits at the banks of the places, and its promise moves later by the wait (R439). -/
def State.banksWait (s : State) (eng : Nat) (o : EngOp) (ps : List Spot) : State :=
  (s.engPas eng ps).foldl (fun s pa => s.bankWait (bankId eng o) (some pa)) (s.opCools eng o)

/-- The access has gone to its banks; it activates the row of the first (R439). -/
def State.banksGone (s : State) (eng : Nat) (o : EngOp) (pas : List Nat) (act : Bool) : State :=
  (s.rowAct (s.engWho eng) pas.head? act).bankGone (bankId eng o)

/-- The places of moves. -/
def moveSpotsOf (ms : List Move) : List Spot := ms.flatMap fun m => m.dst :: m.src.toList

/-- The moves of one sector are performed (R291, R402, R435 to R439). -/
def State.doSector (s : State) (eng : Nat) (o : EngOp) (fs : Option Fmt) (fd : Fmt) (ms : List Move) (ob : Obs) : State :=
  match s.moveFault eng o ms with
  | some (pa, f) => s.opCut eng o pa f
  | none =>
    let ri := s.raceIndex eng o
    let ra := if ri.2 then ri else ri.1.raceMoves eng o fs fd ms
    if ra.2 then ra.1.opFail eng o fcRace
    else
      let who := s.engWho eng
      let first := match ms with
        | m :: _ => (match m.src with | some p => (if p = .nowhere then m.dst else p) | none => m.dst)
        | [] => .nowhere
      let k := (ra.1.eccAt who first false ob.ecc).engUpset eng 12 o.issuer first
      let s1 := k.1
      let bad := k.2 || ms.any fun m => (s1.moveValue eng o fs fd m.src).2
      let s2 := ms.foldl (fun s m => s.doMove eng o fs fd k.2 m) s1
      (if bad then s2 else s2.clearMoves eng fd ms).banksGone eng o (s1.engPas eng (moveSpotsOf ms)) ob.act

/-- A sector of a fill: zeros where the box does not reach, then its elements and scales; the slot goes through its
states (R134, R138, R291). -/
def State.fillSector (s : State) (eng : Nat) (o : EngOp) (fs : Option Fmt) (fd : Fmt) (ms all : List Move) (ob : Obs) : State :=
  let pt := s.ptile (s.homeCl eng) (dOtile o.desc)
  let k := dClaim o.desc / 16
  let j := o.written
  let blank := { s with opnd := memPut s.opnd (opndKey pt k (64 * j)) (List.replicate 64 0)
                        opndPoison := markDel s.opndPoison (opndKey pt k (64 * j) / 64) }
  let s1 := blank.doSector eng o fs fd ms ob
  let failed := match s1.opOf eng o.num with | some p => p.failed | none => true
  if failed then s1
  else
    let s2 := s1.fillScales pt k j all
    let s3 := s2.modSlot pt k fun x => { x with st := if j = 255 then .filled else .filling, written := j + 1 }
    s3.setOp eng { o.warm s.cycle with written := j + 1, whole := decide (j = 255) }

/-- The slot that a fill names is CLAIMED under its claim, or is being filled by it (R134). -/
def State.claimOk (s : State) (eng : Nat) (o : EngOp) : Bool :=
  let x := (s.mx (s.ptile (s.homeCl eng) (dOtile o.desc))).slots[Fin.ofNat 16 (dClaim o.desc / 16)]
  x.gen.toNat == dClaim o.desc % 16 && (if o.written = 0 then x.st == .claimed else x.st == .filling)

/-- The moves of a sector with their virtual places translated (R125, R433). -/
def State.moveSpots (s : State) (eng : Nat) (o : EngOp) (fs : Option Fmt) (fd : Fmt) (ms : List Move) : Met (List Move) :=
  metAll (fun m => (s.engSpot eng o o.dst fd true m.dst).bind fun d =>
    match m.src with
    | none => .ok { m with dst := d }
    | some p => (s.engSpot eng o o.src (fs.getD fd) false p).bind fun q => .ok { m with dst := d, src := some q }) ms

/-- The next sector of a COPY, COPYG or COPYF (R291, R433). -/
def State.copySector (s : State) (eng : Nat) (o : EngOp) (ob : Obs) : Out :=
  if s.opWaits eng o then stall s
  else if dClaimv o.desc ∧ !s.claimOk eng o then .next (s.opFail eng o fcSlotclm)
  else
    let plan := s.copyPlan eng o
    match plan with
    | .ok (fs, fd, all) =>
      let ks := if dClaimv o.desc then List.range 256 else sectorsOf all
      match ks[o.written]? with
      | none => .next (s.setOp eng { o with whole := true })
      | some k =>
        let ms := all.filter fun m => m.dst.sector == k
        let scaled := if dClaimv o.desc then all.filter fun m => m.blk.any fun b => (8192 + b) / 64 == k else []
        match s.moveSpots eng o fs fd ms, s.moveSpots eng o fs fd scaled with
        | .ok ms1, .ok sc1 =>
          if !s.banksTurn eng o (moveSpotsOf ms1) then .next (s.banksWait eng o (moveSpotsOf ms1))
          else if dClaimv o.desc then .next (s.fillSector eng o fs fd ms1 sc1 ob)
          else
            let s1 := s.doSector eng o fs fd ms1 ob
            let failed := match s1.opOf eng o.num with | some p => p.failed | none => true
            .next (if failed then s1
              else s1.setOp eng { o.warm s.cycle with written := o.written + 1, whole := decide (o.written + 1 = ks.length) })
        | .ok _, y => .next (s.opMet eng o y fun _ => s)
        | x, _ => .next (s.opMet eng o x fun _ => s)
    | x => .next (s.opMet eng o x fun _ => s)

/-! ### COPYQ (R294) -/

/-- The quorum entry is the source. -/
def EngOp.fromQuorum (o : EngOp) : Bool := ltSpace o.src == 7

/-- The place of element `j` past cell `i`'s first on a side, checked by R120; `step` is the bits from cell to cell. -/
def State.cellSpot (s : State) (eng : Nat) (o : EngOp) (lt : List Word64) (f : Fmt) (at' step i j : Nat) (write : Bool) :
    Met Elem :=
  let cs : List Int := (List.range (ltRank lt)).map fun k =>
    ((dOrigin o.desc at' k + (if k = 0 then step * i / fmtWidth f + j else 0) : Nat) : Int)
  if !ltInside lt cs then .fail fcAddress
  else (Met.ofOption (s.elemFor (s.engStand eng o) lt (fmtWidth f) true (some cs))).bind fun e =>
    (s.engSpot eng o lt f write e.spot).bind fun p => .ok { e with spot := p }

/-- The cell and the record of position `i`: the quorum side's place and page set, and the places of the record's elements
on the other side, each by itself (R125, R139, R262, R294). -/
def State.copyqAt (s : State) (eng : Nat) (o : EngOp) (i : Nat) : Met (Elem × Nat × List Spot × Fmt) :=
  let q := o.fromQuorum
  let qlt := if q then o.src else o.dst
  let olt := if q then o.dst else o.src
  if !(ltSpace olt == 0 || ltSpace olt == 1 || ltSpace olt == 3) then .fail fcAddress
  else (s.sideFmt eng o qlt (!q)).bind fun fq => (s.sideFmt eng o olt q).bind fun fo =>
    if fq ≠ fo ∨ isBlock fq then .fail fcAddress
    else
      (s.cellSpot eng o qlt fq (if q then 2 else 4) 384 i 0 (!q)).bind fun a =>
      (metAll (fun j => (s.cellSpot eng o olt fo (if q then 4 else 2) 512 i j q).bind fun e => .ok e.spot)
        (List.range (512 / fmtWidth fo))).bind fun b =>
        let look := s.engLook eng o.issuer
        match a.va with
        | none => .fail fcAddress
        | some v =>
          if !cellAt look v then .fail fcAddress
          else .ok (a, (match look (v / 8) with | some t => t.qset | none => 0), b, fo)

/-- Bytes of a record whose elements lie at these places, and whether one of them is poisoned. -/
def State.recordAt (s : State) (eng w : Nat) (ps : List Spot) : List Byte × Bool :=
  let rs := ps.map fun p => s.rawLoad (s.engWho eng) w p true
  (natBytes (rs.foldr (fun r n => r.1 + n * 2 ^ w) 0) 64, rs.any (·.2.1))

/-- A record of 64 bytes stored at the places of its elements. -/
def State.recordPut (s : State) (eng : Nat) (f : Fmt) (v : Nat) (ps : List Spot) : State :=
  let w := fmtWidth f
  (ps.zipIdx.foldl (fun s p => s.rawStore (s.engWho eng) w (natBits v (w * p.2) w) false p.1) s).cleared (s.engWho eng) f
    (ps.map fun p => { spot := p })

/-- What stops the access to a record: a link, or a race; else the state after what the access meets (R437, R438,
R446). -/
def State.recordMeets (s : State) (eng : Nat) (o : EngOp) (f : Fmt) (write : Bool) (ps : List Spot) (ob : Obs) : State × Bool :=
  match s.moveFault eng o (ps.map fun p => { dst := p, src := none }) with
  | some (pa, code) => (s.opCut eng o pa code, true)
  | none =>
    let r := s.raceSpots eng (s.homeCl eng) write (if write then o.dst else o.src) (fmtWidth f) ps
    if r.2 then (r.1.opFail eng o fcRace, true)
    else ((r.1.eccAt (s.engWho eng) (ps.headD .nowhere) false ob.ecc).banksGone eng o (s.engPas eng ps) ob.act, false)

/-- The quorum operation of a cell begins; one that writes reads its record first, and a rollback of the region in whose name it
writes cannot undo it (R294, R403, R422). -/
def State.copyqBegin (s : State) (eng : Nat) (o : EngOp) (cell : Elem) (set : Nat) (recd : List Spot) (f : Fmt) (ob : Obs) :
    State :=
  let begin (s : State) (fn : Nat) (bs : List Byte) : State :=
    let tag : Word64 := BitVec.ofNat 64 (natOfBytes ((bs.drop 40).take 8))
    ((if fn = 7 then s else s.modCtx o.chain Ctx.breakAll).setOp eng { o with qop := some s.nextQop }).qStart fn (s.homeCl eng / 6) eng set (cell.spot.key / 8 % 2 ^ 36)
      (bs.take 40) (fld tag 0 4) (tagVersion tag) none
      ((cell.va.bind fun b => s.tlbFind none (s.homeCl eng) (s.root o.issuer) (b / 8)).toList)
  if o.fromQuorum then begin s 7 []
  else
    let m := s.recordMeets eng o f false recd ob
    if m.2 then m.1
    else
      let k := m.1.engUpset eng 12 o.issuer (recd.headD .nowhere)
      let rd := k.1.recordAt eng (fmtWidth f) recd
      if rd.2 || k.2 then
        (k.1.errRecord (s.homeCl eng / 6) (.cluster (s.homeCl eng % 6)) .uc 12 0x05 0 0 o.issuer).opFail eng o fcPoison
      else begin (k.1.llcRead recd) (if o.ver then 9 else 8) rd.1

/-- The next cell of a COPYQ: its quorum operation begins, or has ended (R288, R294, R403, R415); the writer that a tag
names is the engine context (R146; log entry 32). -/
def State.copyqCell (s : State) (eng : Nat) (o : EngOp) (ob : Obs) : Out :=
  let n := dShape o.desc 0 + 1
  if o.written ≥ n then .next (s.setOp eng { o with whole := true })
  else match s.copyqAt eng o o.written with
    | .ok (cell, set, recd, f) =>
      match o.qop with
      | none =>
        if s.opWaits eng o then stall s
        else if !o.fromQuorum && !s.banksTurn eng o recd then .next (s.banksWait eng o recd)
        else .next (s.copyqBegin eng (o.warm s.cycle) cell set recd f ob)
      | some id =>
        match s.qop id with
        | none => stall s
        | some q =>
          if q.failed ≠ 0 then .next (s.opFail eng o q.failed).qSweep
          else if !q.finished then stall s
          else
            let o1 := { o.warm s.cycle with qop := none, written := o.written + 1, whole := decide (o.written + 1 = n) }
            if o.fromQuorum && !s.banksTurn eng o recd then .next (s.banksWait eng o recd)
            else if o.fromQuorum then
              let m := s.recordMeets eng o f true recd ob
              .next (if m.2 then m.1
                else (m.1.recordPut eng f (natOfBytes q.best + q.tag.toNat * 2 ^ 320) recd).setOp eng o1).qSweep
            else .next (s.setOp eng o1).qSweep
    | x => .next (s.opMet eng o x fun _ => s)

/-- A region whose scratchpads the operation reads or writes is suspended and off its tiles: the operation waits for it to
come back (R324, R343). -/
def State.opAway (s : State) (o : EngOp) : Bool :=
  (o.chain :: o.raised).any fun c => (s.ctx c).off

/-- COPY_SECTOR_WRITE: an engine writes the next sector of an operation, or moves the next cell of a COPYQ; what stops
it, fails it or parks it (R290 to R294, R415, R433). -/
def execCopySectorWrite (c op : Nat) (o : Obs) (s : State) : Out :=
  match s.opOf c op with
  | none => stall s
  | some p =>
    if p.done ∨ p.failed ∨ p.whole ∨ p.parked.isSome ∨ p.fn ≥ 16 ∨ s.opAway p then stall s
    else if p.fn = 4 then s.copyqCell c p o else s.copySector c p o

/-! ### Completion and promises (R288, R295) -/

/-- The timeline of an engine context (R272, R284): the greatest n at or below which every operation has completed, of
those since its first fork in the launch. -/
def Ctx.engTimeline (x : Ctx) : Nat :=
  (x.ops.filter fun o => !o.done && decide (x.opBase < o.num)).foldl (fun a o => Nat.min a (o.num - 1 - x.opBase))
    (x.accepted - x.opBase)

/-- COPY_OPERATION_COMPLETE: an operation completes: its timeline, its signal, ENG and the crossbar's pulse (R57, R64,
R284, R288, R313). -/
def execCopyOperationComplete (c op : Nat) (s : State) : Out :=
  match s.opOf c op with
  | none => stall s
  | some p =>
    if p.done ∨ p.failed ∨ !p.whole then stall s
    else
      let s1 := s.raceRelease c (objTimeline c)
      let s2 := s1.modCtx c fun x =>
        let y := { x with ops := x.ops.filter fun o => o.num != op }
        { y with timeline := y.engTimeline }
      let s3 := p.raised.foldl (fun s r => s.modCtx r (·.touch .eng)) s2
      let g := p.signal
      let s4 := if g.inc = 0 then s3
        else (s3.raceRelease c (objSem (s.homeCl p.issuer) g.sem)).semInc p.issuer (s.homeCl p.issuer) g.sem g.inc g.info
      .next (s4.xpulse (s.homeCl c) 1 (idLocal c - 128))

/-! ### The commands (R288 to R295, R416) -/

/-- The six registers of a descriptor. -/
def Ctx.desc (x : Ctx) (a : XReg) (n : Nat) : List Word64 := (List.range n).map fun k => x.getX (xnext a k)

/-- The copy-engine context that a command names (R288). -/
def State.copyEngine (s : State) (c : Nat) (imm : BitVec 8) : Nat :=
  let cl := s.homeCl c
  idOf (cl / 6) (cl % 6) (128 + imm.toNat % 64)

/-- The routes that an operation takes with it, when an entry that it names is of PEER (R379). -/
def State.routesIf (s : State) (die : Nat) (lts : List (List Word64)) : List (Nat × Nat) :=
  if lts.any fun lt => ltSpace lt == 4 then s.routesOf die else []

/-- An operation as a command describes it. -/
def State.copyOp (s : State) (c : Nat) (a : XReg) (fn : Nat) (w : CtlP2) (imm : BitVec 8) : EngOp :=
  let x := s.ctx c
  let d := x.desc a 6
  { num := 0, fn := fn, ver := fn == 4 && imm.getLsbD 6, desc := d, issuer := c, chain := s.chainHead c
    src := s.viewLt c (dSrcLt d), dst := s.viewLt c (dDstLt d), idx := s.viewLt c (dIdxLt d), signal := signalOf x w, promise := 0
    routes := s.routesIf (s.homeCl c / 6) [s.viewLt c (dSrcLt d), s.viewLt c (dDstLt d), s.viewLt c (dIdxLt d)] }

/-- The rules of a descriptor that a command checks at issue (R289 to R294, R416). -/
def copyCheck (o : EngOp) : Bool :=
  let d := o.desc
  let plainIdx := o.fn == 1 || dIdxLt d == 0
  let opnd := ltSpace o.dst == 2
  let ranks := decide (dRank d ≤ ltRank o.dst) && (o.fn == 2 || decide (dRank d ≤ ltRank o.src))
  let origins := if o.fn = 2 then [4] else [2, 4]
  let el (lt : List Word64) : Option Fmt := if ltVirtual lt then none else ltElem lt
  let block := (el o.dst).any isBlock || (o.fn != 2 && (el o.src).any isBlock)
  let aligned := (dShape d 0 + 1) % 32 == 0 && dOrigin d 2 0 % 32 == 0 && dOrigin d 4 0 % 32 == 0
  let equal := match el o.src, el o.dst with | some f, some g => f == g | _, _ => true
  let fill := o.fn != 2 || (dSrcLt d == 0 && ltWord d 3 == 0 &&
    (match el o.dst with | some f => decide ((ltWord d 2).toNat < 2 ^ fmtWidth f) | none => true))
  dCodes d origins && plainIdx && ranks && fill && (opnd == dClaimv d) &&
  (if o.fn = 4 then dRank d == 1 && ((ltSpace o.src == 7) != (ltSpace o.dst == 7))
   else (o.fn == 2 || !block || (aligned && equal))) &&
  (o.fn != 1 || decide (2 ≤ dRank d))

/-- The regions whose tiles the destination touches, in scratchpads or a slot (R57, R288). -/
def State.raisedBy (s : State) (eng : Nat) (o : EngOp) : List Nat :=
  if ltVirtual o.dst then []
  else
    let tiles := match ltElem o.dst with
      | none => []
      | some f =>
        (o.writes (fmtWidth f)).filterMap fun e =>
          match s.elemFor (s.engStand eng o) o.dst (fmtWidth f) false (some (dCoords o.desc 4 (ltRank o.dst) e)) with
          | some x => (match s.slotSpot eng o x.spot with | .spad pt _ => some pt | .slot pt _ _ => some pt | _ => none)
          | none => none
    (tiles.dedup.filterMap s.owner).dedup

/-- Operations that a context holds and that have not completed (R288). -/
def Ctx.openOps (x : Ctx) : Nat := (x.ops.filter fun o => !o.done).length

/-- An engine context accepts an operation: its number and promise go to XD and XD + 1, ENG is raised, and what the
issuer released is handed over (R57, R288, R313). -/
def State.engAccept (s : State) (c eng : Nat) (d : XReg) (o : EngOp) : State :=
  let n := (s.ctx eng).accepted + 1
  let promise := s.dieCycle (idDie eng) + Config.promiseSpan s.freeCtr
  let op := { o with num := n, promise := promise, raised := s.raisedBy eng o }
  let s1 := { s with freeCtr := s.freeCtr + 1 }.raceHand c eng
  let s2 := op.raised.foldl (fun s r => s.modCtx r (·.touch .eng)) s1
  let s3 := s2.modCtx eng fun x => { x with ops := x.ops ++ [op], accepted := n }
  s3.modCtx c fun x => (x.setX d (BitVec.ofNat 64 (n - (s.ctx eng).opBase))).setX (xnext d 1) (BitVec.ofNat 64 promise)

/-- A command bound for a copy-engine context: it waits until the context has room, and then goes on (R268, R270,
R288). -/
def copyCommand (fn : Nat) (d a : XReg) (imm : BitVec 8) (w : CtlP2) (s : State) : Out :=
  runCmd w {
    ready := fun s c => s.mayRelease c w.scope
    check := fun s c => trapUnless (copyCheck (s.copyOp c a fn w imm))
    act := fun s c _ =>
      let e := s.copyEngine c imm
      if (s.ctx e).openOps ≥ 16 then stall s
      else .next ((s.engAccept c e d (s.copyOp c a fn w imm)).modCtx c (·.past 2)) } s

/-- COPY (R290). -/
def execCopy (d a : XReg) (imm : BitVec 8) (w : CtlP2) (s : State) : Out := copyCommand 0 d a imm w s
/-- COPYG (R292). -/
def execCopyg (d a : XReg) (imm : BitVec 8) (w : CtlP2) (s : State) : Out := copyCommand 1 d a imm w s
/-- COPYF (R293). -/
def execCopyf (d a : XReg) (imm : BitVec 8) (w : CtlP2) (s : State) : Out := copyCommand 2 d a imm w s
/-- COPYQ (R294). -/
def execCopyq (d a : XReg) (imm : BitVec 8) (w : CtlP2) (s : State) : Out := copyCommand 4 d a imm w s

/-- PROM: waits for an operation's completion; a promise that passes is found by PROMISE_EXPIRY (R295). -/
def execProm (a : XReg) (imm : BitVec 8) (w : CtlP2) (s : State) : Out :=
  let num (s : State) (c : Nat) : Nat := ((s.ctx c).getX a).toNat
  runCmd w {
    check := fun s c =>
      let y := s.ctx (s.copyEngine c imm)
      trapUnless (decide (1 ≤ num s c ∧ num s c + y.opBase ≤ y.accepted))
    cond := fun s c => .oper (s.copyEngine c imm) (num s c + (s.ctx (s.copyEngine c imm)).opBase) w.scope
    act := fun s c _ => .next (s.finish c w 2) } s

/-- PROMISE_EXPIRY: the promise that a PROM waits for passes without completion (R295, R418). -/
def execPromiseExpiry (c : Nat) (s : State) : Out :=
  let x := s.ctx c
  match x.waitFor with
  | .oper e n _ =>
    if x.st ≠ .waiting ∨ x.trapped.isSome ∨ x.noDeadline then stall s
    else match s.opOf e n with
      | none => stall s
      | some o =>
        if o.done ∨ s.dieCycle (idDie e) < o.promised s.cycle then stall s
        else if isSupId c then .next (s.modCtx c fun y => { y.past y.skipLen with st := .running })
        else .next ((s.modCtx c fun y => { y with trapped := some causePromise, trapAfter := false }).raise (s.ctxDie c)
          { cause := causePromise, ctx := c, info := BitVec.ofNat 64 ((n - (s.ctx e).opBase) % 2 ^ 32 + e * 2 ^ 32) })
  | _ => stall s

end Sys2Proof.Machine
end

