-- ==== Sys2Proof/Machine/Streams.lean ====
section
/-! DEFINITION. Element instructions: tokens, repeat, coordinates, reductions, stream marks, control flow, the matrix
token, operand slots and rotation requests (09: R232 to R251, R256, R265, R266). -/

namespace Sys2Proof.Machine

/-! ### Token movement (R238, R239) -/

/-- The operand passed on unchanged (R234); a register or zero is a new token. -/
def passFire (o : OpVal) : Fire :=
  match o with
  | .tok t => { pass := some t }
  | x => { out := some (x.payload 32) }

/-- MOVE (R238). -/
def fireMove (_ : EView) (o : Opnds) : Fire := passFire o.a

/-- A result whose sideband is that of A (R238). -/
def likeA (o : Opnds) (p : Payload) : Fire :=
  match o.a with
  | .tok t => { pass := some { t with payload := p, kind := .data, residue := residueOf p } }
  | _ => { pass := some (dataToken p 0 0 false) }

/-- SWZ (R238). -/
def fireSwz (_ : EView) (o : Opnds) : Fire :=
  let a := (o.a.payload 32)
  let b := (o.b.payload 32)
  likeA o (payloadOf 64 ((List.range 8).map fun j =>
    let n := natBits o.c.scalar (4 * j) 4
    if n < 8 then elemAt a 64 n else elemAt b 64 (n - 8)))

/-- PACK (R238). -/
def firePack (v : EView) (o : Opnds) : Fire :=
  let w := fmtWidth v.m.ty
  let n := 512 / w
  let h := natBits v.m.imm.toNat 0 1 * (n / 2)
  likeA o (payloadOf w ((List.range n).map fun i =>
    if i % 2 = 0 then o.a.elem w (h + i / 2) else o.b.elem w (h + i / 2)))

/-- UNPK (R238). -/
def fireUnpk (v : EView) (o : Opnds) : Fire :=
  let w := fmtWidth v.m.ty
  let n := 512 / w
  let pos := natBits v.m.imm.toNat 0 1
  likeA o (payloadOf w ((List.range n).map fun i =>
    if i < n / 2 then o.a.elem w (2 * i + pos) else o.b.elem w (2 * (i - n / 2) + pos)))

/-- BCAST (R238). -/
def fireBcast (v : EView) (o : Opnds) : Fire :=
  let w := fmtWidth v.m.ty
  likeA o (payloadOf w (List.replicate (512 / w) (o.a.elem w (natBits v.m.imm.toNat 0 6))))

/-- The heads of A and B of a stream-steering instruction, where the codes name inputs. -/
def State.srcHead (s : State) (pt : Nat) (u : Bool) (x : Src) : Option Token :=
  match x with
  | .inp k | .peek k => s.head pt u k
  | .none => none
  | y => some (dataToken ((s.opVal pt u y).payload 32) 0 0 false)

/-- A source that is a consumed input is taken. -/
def State.takeSrc (s : State) (pt : Nat) (u : Bool) (x : Src) : State :=
  match x with
  | .inp k => s.take pt u k
  | _ => s

/-- The S-register destination of a token that is passed on. -/
def State.passS (s : State) (pt : Nat) (u : Bool) (v : EView) (t : Token) : State :=
  match v.d with
  | .s k => s.setS pt u k (BitVec.ofNat 32 (elemAt t.payload (fmtWidth v.m.ty) 0))
  | _ => s

/-- A unit that reads its own stream-mark rules acts, or stalls where it does not. -/
def onUnit (s : State) (f : Nat → Bool → Out) : Out :=
  match s.cur with
  | .cu pt u => if s.cuReady pt u then f pt u else stall s
  | _ => .fault .wrongAgent

/-- A DATA token passed on `outs`, consuming `x` and, where given, the control token at `q` (R234). -/
def State.passOn (s : State) (pt : Nat) (u : Bool) (v : EView) (x : Src) (q : Fin 4) (outs : List Nat) (t : Token) :
    State :=
  let k := s.checked pt (cuUnit u) (some t.residue.toNat)
  let t := { t with poison := t.poison || k.2 }
  if t.poison && v.d.isS then k.1.consumePoison pt (cuUnit u) (s.cu pt u).pos (srcPort x)
  else ((((k.1.takeSrc pt u x).ctlTake pt u q).passS pt u v t).emitAll pt (outs.map (outCode u)) t).advance pt u v.len

/-- MERGE (R238, R239). -/
def doMerge (v : EView) (s : State) : Out :=
  onUnit s fun pt u =>
    let q : Fin 4 := Fin.ofNat 4 (natBits v.m.imm.toNat 0 2)
    let ha := s.srcHead pt u v.a
    let hb := s.srcHead pt u v.b
    let mark := match ha, hb with | some a, some b => commonMark [a, b] | _, _ => none
    if s.outsReady pt u v then
      match mark with
      | some t => .next (s.fireMark pt u v t)
      | none =>
        match s.ctlHead pt u q with
        | none => stall s
        | some b =>
          match (if b then ha else hb) with
          | none => stall s
          | some t => if t.isMark then stall s else .next (s.passOn pt u v (if b then v.a else v.b) q v.outs t)
    else stall s

/-- STEER (R238, R239): FPORT is the second output. -/
def doSteer (v : EView) (s : State) : Out :=
  onUnit s fun pt u =>
    let q : Fin 4 := Fin.ofNat 4 (natBits v.m.imm.toNat 0 2)
    let fp := natBits v.m.imm.toNat 2 2
    let both := (v.outs ++ [fp]).dedup
    if s.canEmit pt (both.map (outCode u)) then
      match s.srcHead pt u v.a with
      | none => stall s
      | some t =>
        if t.isMark then
          .next (((s.takeSrc pt u v.a).emitAll pt (both.map (outCode u)) t).advance pt u v.len |>.snapMark pt u t)
        else
          match s.ctlHead pt u q with
          | none => stall s
          | some true => .next (s.passOn pt u v v.a q v.outs t)
          | some false => .next (s.passOn pt u { v with d := .none } v.a q [fp] t)
    else stall s

/-- GATE (R238, R239). -/
def doGate (v : EView) (s : State) : Out :=
  onUnit s fun pt u =>
    let q : Fin 4 := Fin.ofNat 4 (natBits v.m.imm.toNat 0 2)
    if s.outsReady pt u v then
      match s.srcHead pt u v.a with
      | none => stall s
      | some t =>
        if t.isMark then
          .next (((s.takeSrc pt u v.a).emitAll pt (v.outs.map (outCode u)) t).advance pt u v.len |>.snapMark pt u t)
        else
          match s.ctlHead pt u q with
          | none => stall s
          | some true => .next (s.passOn pt u v v.a q v.outs t)
          | some false => .next (((s.takeSrc pt u v.a).ctlTake pt u q).advance pt u v.len)
    else stall s

/-! ### Repeat (R240) -/

/-- The count of REPT and REPTC: an absent or negative scalar gives 0. -/
def reptCount (v : EView) (o : Opnds) : Nat :=
  if v.op = .rept then v.m.imm.toNat
  else if o.b.scalar ≥ 2 ^ 31 then 0 else o.b.scalar

/-- One of the n firings of REPT and REPTC that sends the token, the last of which consumes the heads (R240). -/
def State.reptOnce (s : State) (pt : Nat) (u : Bool) (v : EView) (n : Nat) (t : Token) : State :=
  let c := s.cu pt u
  let s0 := if c.reptDone = 0 then s.takeGate pt u v.m.qg else s
  let s1 := (s0.passS pt u v t).emitAll pt (v.outs.map (outCode u)) t
  if c.reptDone + 1 ≥ n then
    let s2 := s1.takeAll pt u v.consumed
    (s2.setCu pt u { s2.cu pt u with reptDone := 0 }).advance pt u v.len
  else s1.setCu pt u { s1.cu pt u with reptDone := c.reptDone + 1 }

/-- One of the n firings of REPT and REPTC on DATA heads: a poisoned count, or a poisoned token for an S register, is consumed
poison (R240, R399, R403). -/
def State.reptFire (s : State) (pt : Nat) (u : Bool) (v : EView) (hs : List Token) : Out :=
  let c := s.cu pt u
  let o := s.opnds pt u v
  let n := reptCount v o
  let s0 := if c.reptDone = 0 then s.takeGate pt u v.m.qg else s
  if v.op = .reptc && (match o.b with | .tok t => t.poison | _ => false) then
    .next (s.consumePoison pt (cuUnit u) c.pos (srcPort v.b))
  else if n = 0 then .next ((s0.takeAll pt u v.consumed).advance pt u v.len)
  else if s.outsReady pt u v then
    match (passFire o.a).token hs with
    | none => stall s
    | some t =>
      let k := s.checked pt (cuUnit u) (some t.residue.toNat)
      if (t.poison || k.2) && v.d.isS then .next (k.1.consumePoison pt (cuUnit u) c.pos (s.poisonPort pt u v))
      else .next (k.1.reptOnce pt u v n { t with poison := t.poison || k.2 })
  else stall s

/-- REPT and REPTC (R240): one emission per firing; marks and the gate are tested at the first. -/
def doRept (v : EView) (s : State) : Out :=
  onUnit s fun pt u =>
    let c := s.cu pt u
    let heads := s.heads pt u v
    match (if c.reptDone = 0 then heads.bind v.markOf else none) with
    | some t => if s.outsReady pt u v then .next (s.fireMark pt u v t) else stall s
    | none =>
      match (if c.reptDone = 0 then gate v.m.qg (s.ctlHead pt u c.qgport) else .fire) with
      | .wait => stall s
      | .skip => .next ((s.takeGate pt u v.m.qg).advance pt u v.len)
      | .fire =>
        match heads with
        | none => stall s
        | some hs => if v.mixed hs then stall s else s.reptFire pt u v hs

/-! ### Coordinate streams (R241, R242) -/

/-- TAGC and UNTAG (R241). -/
def fireTag (v : EView) (o : Opnds) : Fire :=
  let t := match o.a with | .tok t => t | x => dataToken (x.payload 32) 0 0 false
  match v.op with
  | .tagc => { pass := some { t with coord := BitVec.ofNat 32 o.b.scalar } }
  | _ =>
    if natBits v.m.imm.toNat 0 1 = 0 then { pass := some { t with coord := 0 } }
    else { out := some (t.coord.setWidth 512) }

/-- A token whose every element is absent (R242), with the POISON of the heads that the firing read (R43). -/
def absentToken (ty : Fmt) (coord : BitVec 32) (poison : Bool) : Token :=
  dataToken (payloadOf (fmtWidth ty) (List.replicate (512 / fmtWidth ty) (absentOf ty))) 0 coord poison

/-- What the heads make ISECT or UNION do (R242): whether A and B are consumed, and what leaves on D and O[OB].  Barriers with
different mark numbers pass each on its own output: the model's choice (log entry 13). -/
structure Joined where
  useA : Bool
  useB : Bool
  outD : Option Token
  outB : Option Token
  deriving DecidableEq, Repr

/-- The table of R242. -/
def joinHeads (union : Bool) (ty : Fmt) (a b : Token) : Option Joined :=
  let p := a.poison || b.poison
  let onlyA : Joined := ⟨true, false, if union then some a else none, if union then some (absentToken ty a.coord p) else none⟩
  let onlyB : Joined := ⟨false, true, if union then some (absentToken ty b.coord p) else none, if union then some b else none⟩
  if a.isMark ∧ b.isMark then
    if a.kind = b.kind then some ⟨true, true, some { a with poison := p }, some { b with poison := p }⟩ else none
  else if a.isMark then some onlyB
  else if b.isMark then some onlyA
  else if a.coord = b.coord then some ⟨true, true, some a, some b⟩
  else if a.coord.toNat < b.coord.toNat then some onlyA
  else some onlyB

/-- The coordinate of a DATA head does not rise above that of the last token consumed on its input in the segment
(R242). -/
def Cu.falls (c : Cu) (x : Src) (t : Token) : Bool :=
  !t.isMark && (match x with
    | .inp k | .peek k => (match c.lastCoord[k] with | some l => decide (t.coord.toNat ≤ l.toNat) | none => false)
    | _ => false)

/-- The effects of an ISECT or UNION firing (R202, R241, R242, R403): an S-register destination receives element 0 of a
DATA token. -/
def State.joinFired (s : State) (pt : Nat) (u : Bool) (v : EView) (ob : Nat) (j : Joined) : State :=
  let mark := j.outD.any Token.isMark
  let k := if mark then (s, false) else s.checked pt (cuUnit u) (j.outD.map fun t => t.residue.toNat)
  let j := if k.2 then { j with outD := j.outD.map (fun t => { t with poison := true })
                                outB := j.outB.map fun t => { t with poison := true } } else j
  if v.d.isS && !mark && j.outD.any (·.poison) then
    k.1.consumePoison pt (cuUnit u) (s.cu pt u).pos (s.poisonPort pt u v)
  else
    let s1 := if j.useA then k.1.takeSrc pt u v.a else k.1
    let s2 := if j.useB && !(j.useA && v.a == v.b) then s1.takeSrc pt u v.b else s1
    let s3 := match j.outD with
      | some t => (if t.isMark then s2 else s2.passS pt u v t).emitAll pt (v.outs.map (outCode u)) t
      | none => s2
    let s4 := match j.outB with
      | some t => s3.emit pt (outCode u ob) t
      | none => s3
    let s5 := s4.advance pt u v.len
    match j.outD with
    | some t => s5.snapMark pt u t
    | none => s5

/-- ISECT and UNION (R235, R241, R242); a coordinate that does not rise is a fault (R414). -/
def doJoin (v : EView) (s : State) : Out :=
  onUnit s fun pt u =>
    let c := s.cu pt u
    let ob := natBits v.m.imm.toNat 0 2
    let both := (v.outs ++ [ob]).dedup
    let a? := s.srcHead pt u v.a
    let b? := s.srcHead pt u v.b
    let marks : Bool := match a?, b? with | some a, some b => (commonMark [a, b]).isSome | _, _ => false
    match (if marks then Gate.fire else gate v.m.qg (s.ctlHead pt u c.qgport)) with
    | .wait => stall s
    | .skip => .next ((s.takeGate pt u v.m.qg).advance pt u v.len)
    | .fire =>
      match a?, b? with
      | some a, some b =>
        if !s.canEmit pt (both.map (outCode u)) then stall s
        else if c.falls v.a a || c.falls v.b b then .next (s.unitFault pt (cuUnit u) fcCoord c.pos)
        else
          match joinHeads (v.op == .union) v.m.ty a b with
          | none => stall s
          | some j => .next ((if marks then s else s.takeGate pt u v.m.qg).joinFired pt u v ob j)
      | _, _ => stall s

/-! ### Reductions (R243 to R247) -/

/-- MODE of a reduction (R243). -/
def vMode (v : EView) : Nat := natBits v.m.imm.toNat 0 2
/-- SREG of a reduction (R243). -/
def vSreg (v : EView) : Fin 8 := Fin.ofNat 8 (natBits v.m.imm.toNat 2 3)

/-- The REDADD combination of R244 over raw patterns. -/
def redAdd (m : Mods) (xs : List Nat) : Res :=
  let vs := xs.filter fun x => !(isAbsent m.ty x)
  if vs = [] then (absentOf m.ty, 0)
  else if isFloat m.ty then
    let inv := flagIf (vs.any (isSnan m.ty)) flagInv
    if vs.any (isNan m.ty) then (nanRes m.ty m.nprop vs, inv)
    else satF m.ty m.sat (sumTerms m.ty m.rnd (vs.map fun x => termOf (fclass m.ty x)))
  else fitInt (fmtWidth m.ty) m.sat (vs.foldl (fun a x => a + sint (fmtWidth m.ty) x) 0)

/-- The REDMAX and REDMIN combination of R244. -/
def redMax (mx : Bool) (m : Mods) (xs : List Nat) : Res :=
  let vs := xs.filter fun x => !(isAbsent m.ty x)
  match vs with
  | [] => (absentOf m.ty, 0)
  | x :: rest =>
    if isFloat m.ty then
      let inv := flagIf (vs.any (isSnan m.ty)) flagInv
      if vs.all (isNan m.ty) then (qnan m.ty, inv)
      else (rest.foldl (fun a y => (fMinMax m.ty mx a y).1) x, inv)
    else
      let w := fmtWidth m.ty
      (rest.foldl (fun a y => if decide (sint w a < sint w y) == mx then y else a) x, 0)

/-- The combination of a reduction (R244). -/
def redComb (op : EOp) (m : Mods) (xs : List Nat) : Res :=
  match op with
  | .redmax => redMax true m xs
  | .redmin => redMax false m xs
  | _ => redAdd m xs

/-- A result in element 0 with absent in the others (R244). -/
def horizPayload (ty : Fmt) (x : Nat) : Payload :=
  payloadOf (fmtWidth ty) (x :: List.replicate (512 / fmtWidth ty - 1) (absentOf ty))

/-- An S register set by R202: the low `w` bits, upper bits clear. -/
def lowS (ty : Fmt) (x : Nat) : BitVec 32 := BitVec.ofNat 32 (x % 2 ^ fmtWidth ty)

/-- REDADD, REDMAX, REDMIN (R244). -/
def fireReduce (v : EView) (o : Opnds) : Fire :=
  let w := fmtWidth v.m.ty
  match (vMode v) with
  | 0 => elemwiseTy v fun i => redComb v.op v.m [o.ea v i, o.eb v i]
  | 1 =>
    let r := redComb v.op v.m (elemsOf w (o.a.payload w))
    { out := some (horizPayload v.m.ty r.1), flags := r.2 }
  | _ =>
    let r := redComb v.op v.m (o.sRegs[(vSreg v)].toNat % 2 ^ w :: elemsOf w (o.a.payload w))
    { out := some (horizPayload v.m.ty r.1), flags := r.2, sregs := [((vSreg v), lowS v.m.ty r.1)] }

/-- SCANX (R245). -/
def fireScan (v : EView) (o : Opnds) : Fire :=
  let w := fmtWidth v.m.ty
  let xs := elemsOf w (o.a.payload w)
  let k := if (vMode v) = 2 then o.sRegs[(vSreg v)].toNat % 2 ^ w else o.b.scalar % 2 ^ w
  let r := elemwiseTy v fun i => redAdd v.m (k :: xs.take i)
  if (vMode v) = 2 then
    let t := redAdd v.m (k :: xs)
    { r with flags := r.flags ||| t.2, sregs := [((vSreg v), lowS v.m.ty t.1)] }
  else r

/-- A pair's value is neither absent nor a NaN (R246). -/
def pairValid (ty : Fmt) (x : Nat) : Bool := !(isAbsent ty x) && !(isFloat ty && isNan ty x)

/-- `a` stands strictly below `b` in the order of R246. -/
def pairLess (ty : Fmt) (a b : Nat) : Bool := if isFloat ty then fLess ty a b else decide (sint 32 a < sint 32 b)

/-- The winner of two pairs (R246); a pair with no valid value is (absent, 0xFFFFFFFF). -/
def pairWin (mx : Bool) (ty : Fmt) (p q : Nat × Nat) : Nat × Nat :=
  match pairValid ty p.1, pairValid ty q.1 with
  | false, false => (absentOf ty, 0xFFFFFFFF)
  | true, false => p
  | false, true => q
  | true, true =>
    if (if mx then pairLess ty q.1 p.1 else pairLess ty p.1 q.1) then p
    else if (if mx then pairLess ty p.1 q.1 else pairLess ty q.1 p.1) then q
    else if p.2 ≤ q.2 then p else q

/-- The winner over candidates (R246). -/
def pairBest (mx : Bool) (ty : Fmt) (ps : List (Nat × Nat)) : Nat × Nat :=
  ps.foldl (pairWin mx ty) (absentOf ty, 0xFFFFFFFF)

/-- A pair token (R246). -/
def pairPayload (ps : List (Nat × Nat)) : Payload := payloadOf 32 (ps.flatMap fun p => [p.1, p.2])

/-- A pair token with one pair and seven of (absent, 0xFFFFFFFF). -/
def onePair (ty : Fmt) (p : Nat × Nat) : Payload := pairPayload (p :: List.replicate 7 (absentOf ty, 0xFFFFFFFF))

/-- ARGMAX and ARGMIN (R246). -/
def fireArg (v : EView) (o : Opnds) : Fire :=
  let mx := v.op == .argmax
  let ty := v.m.ty
  let pairOf (x : OpVal) (p : Nat) : Nat × Nat := (x.elem 32 (2 * p), x.elem 32 (2 * p + 1))
  let cands := (List.range 16).map fun i => (o.a.elem 32 i, (o.b.scalar + i) % 2 ^ 32)
  match (vMode v) with
  | 0 => { out := some (pairPayload ((List.range 8).map fun p => pairBest mx ty [pairOf o.a p, pairOf o.b p])) }
  | 1 => { out := some (onePair ty (pairBest mx ty cands)) }
  | _ =>
    let k := (vSreg v)
    let k1 : Fin 8 := Fin.ofNat 8 (k.val + 1)
    let r := pairBest mx ty ((o.sRegs[k].toNat, o.sRegs[k1].toNat) :: cands)
    { out := some (onePair ty r), sregs := [(k, BitVec.ofNat 32 r.1), (k1, BitVec.ofNat 32 r.2)] }

/-- DRAIN (R247): the registers take their SRST values. -/
def fireDrain (s : State) (v : EView) (o : Opnds) : Fire :=
  match s.cur with
  | .cu pt u =>
    let c := s.cu pt u
    let k := (vSreg v)
    let k1 : Fin 8 := Fin.ofNat 8 (k.val + 1)
    if (vMode v) = 1 then
      { out := some (onePair v.m.ty (o.sRegs[k].toNat, o.sRegs[k1].toNat)), sregs := [(k, c.srst k), (k1, c.srst k1)] }
    else { out := some (horizPayload v.m.ty (o.sRegs[k].toNat % 2 ^ fmtWidth v.m.ty)), sregs := [(k, c.srst k)] }
  | _ => {}

/-! ### Stream marks (R248) -/

/-- EOSE and BARE emit a mark; a mark writes no S register (R204). -/
def noS (v : EView) : EView := if v.d.isS then { v with d := .none } else v

/-- EOSE (R248). -/
def fireEose (_ : EView) (_ : Opnds) : Fire := { pass := some eosToken }

/-- BARE (R248): the mark is the scalar of A, or IMM. -/
def fireBare (v : EView) (o : Opnds) : Fire :=
  { pass := some (barrierToken (if o.a.given then o.a.scalar else v.m.imm.toNat)) }

/-- ONEOS (R248). -/
def doOneos (v : EView) (s : State) : Out :=
  onUnit s fun pt u =>
    let imm := v.m.imm.toNat
    match s.srcHead pt u v.a with
    | none => stall s
    | some t =>
      let hit := if natBits imm 6 1 = 0 then t.kind == .eos else t.kind == .barrier
      if hit then
        if s.outsReady pt u v then
          .next (((s.takeSrc pt u v.a).emitAll pt (v.outs.map (outCode u)) t).goto pt u (natBits imm 0 6) |>.snapMark pt u t)
        else stall s
      else if s.outsReady pt u v then .next (s.advance pt u v.len) else stall s

/-! ### Control flow (R249, R250) -/

/-- TARGET of a control-flow instruction (R249). -/
def vTarget (v : EView) : Nat := natBits v.m.imm.toNat 0 6
/-- PORT of a control-flow instruction (R249). -/
def vPort (v : EView) : Fin 4 := Fin.ofNat 4 (natBits v.m.imm.toNat 6 2)

/-- BR and BRF (R249): the branch is taken on a token of the value `want`. -/
def doBranch (want : Bool) (v : EView) (s : State) : Out :=
  onUnit s fun pt u =>
    match s.ctlHead pt u (vPort v) with
    | none => stall s
    | some b =>
      let s1 := s.ctlTake pt u (vPort v)
      .next (if b = want then s1.goto pt u (vTarget v) else s1.advance pt u v.len)

/-- JMP (R249). -/
def doJmp (v : EView) (s : State) : Out := onUnit s fun pt u => .next (s.goto pt u (vTarget v))

/-- WAITQ (R249, R399, R403). -/
def doWaitq (v : EView) (s : State) : Out :=
  onUnit s fun pt u =>
    match s.ctlHead pt u (vPort v) with
    | none => stall s
    | some b =>
      match v.d with
      | .s d =>
        let k := s.checked pt (cuUnit u) none
        .next (if k.2 then k.1.consumePoison pt (cuUnit u) (s.cu pt u).pos
          else (((k.1.ctlTake pt u (vPort v)).setS pt u d (if b then 1 else 0)).advance pt u v.len))
      | _ => .next ((s.ctlTake pt u (vPort v)).advance pt u v.len)

/-- EMITQ (R249). -/
def fireEmitq (v : EView) (o : Opnds) : Fire :=
  { ctl := some ((vPort v), if o.a.given then decide (o.a.scalar ≠ 0) else v.m.imm.getLsbD 8) }

/-- LOOP (R249, R399, R403): with a destination that is no S register there is nothing to count, and it passes on. -/
def doLoop (v : EView) (s : State) : Out :=
  onUnit s fun pt u =>
    match v.d with
    | .s k =>
      let x := (s.cu pt u).sRegs[k]
      if x = 0 then .next (s.advance pt u v.len)
      else
        let y := s.checked pt (cuUnit u) none
        .next (if y.2 then y.1.consumePoison pt (cuUnit u) (s.cu pt u).pos
          else (y.1.setS pt u k (x - 1)).goto pt u (vTarget v))
    | _ => .next (s.advance pt u v.len)

/-- The parcel is an element LPAD that carries a label (R196). -/
def isElemLpad (p : Parcel) (label : Nat) : Bool := decide (fld p 10 22 = 0x610E7) && decide (fld p 0 10 = label)

/-- The unit is held at its JTAB and a trap is raised (R250, R412, R419). -/
def State.jtabTrap (s : State) (pt : Nat) (u : Bool) (cause : Nat) (x : Int) : State :=
  let c := s.cu pt u
  let ctx := (s.owner pt).getD 0
  (s.setCu pt u { c with jtabHeld := true }).raise (s.ctxDie ctx)
    { cause := cause, ctx := ctx, info := boundInfo x (ptTile pt) (cuUnit u) c.pos
      unit := some ((s.ctx ctx).tiles.idxOf pt, u) }

/-- JTAB (R250). -/
def doJtab (v : EView) (s : State) : Out :=
  onUnit s fun pt u =>
    match s.heads pt u v with
    | none => stall s
    | some hs =>
      match v.markOf hs with
      | some t => .next (s.fireMark pt u v t)
      | none =>
        let c := s.cu pt u
        let x := sint 32 (s.opVal pt u v.a).scalar
        let limit := natBits v.m.imm.toNat 0 4
        let k := s.checked pt (cuUnit u) none
        if hs.any (·.poison) || k.2 then .next (k.1.consumePoison pt (cuUnit u) c.pos (s.poisonPort pt u v))
        else if x < 0 ∨ x ≥ (limit : Int) then .next (k.1.jtabTrap pt u causeBound x)
        else
          let s := k.1
          let e := fld c.cfg (128 + 16 * x.toNat) 16
          let target := natBits e 10 6
          if c.startsAt target = false ∨ isElemLpad (c.parcel target) (natBits e 0 10) = false then
            .next (s.jtabTrap pt u causeLpad x)
          else .next ((s.takeAll pt u v.consumed).goto pt u target)

/-! ### The matrix token and operand slots (R251, R256) -/

/-- MTOK (R251). -/
def fireMtok (v : EView) (o : Opnds) : Fire :=
  { out := some (BitVec.ofNat 512 (v.lit.toNat * 2 ^ 32 + o.a.scalar % 256 * 2 ^ 24 + o.b.scalar % 256 * 2 ^ 16)) }

/-- The lowest FREE slot of a matrix node (R133). -/
def Mx.freeSlot (m : Mx) : Option (Fin 16) := (List.finRange 16).find? fun k => m.slots[k].st == .free

/-- OCLM (R256, R133): it fires only when a slot is FREE. -/
def doOclm (v : EView) (s : State) : Out :=
  match s.cur with
  | .cu pt _ =>
    let m := s.mx pt
    match m.freeSlot with
    | none => fireElem v (fun _ => {}) s (ready := false)
    | some k =>
      let n := claimNo k.val m.slots[k].claim
      fireElem v (fun _ => { out := some (BitVec.ofNat 512 n), whole := some (BitVec.ofNat 32 n), claim := some k
                             breaks := true }) s
  | _ => .fault .wrongAgent

/-- OREL (R256). -/
def fireOrel (_ : EView) (o : Opnds) : Fire :=
  { out := some (BitVec.ofNat 512 (0x1F * 2 ^ 59 + o.a.scalar % 256 * 2 ^ 24)), breaks := true }

/-- The code of a slot state (R137). -/
def slotCode : SlotSt → Nat
  | .free => 0 | .claimed => 1 | .filling => 2 | .filled => 3 | .inUse => 4

/-- OSTA (R256, R137). -/
def fireOsta (s : State) (v : EView) (o : Opnds) : Fire :=
  match s.cur with
  | .cu pt _ =>
    let k : Fin 16 := Fin.ofNat 16 (if o.a.given then o.a.scalar % 16 else natBits v.m.imm.toNat 0 4)
    let x := (s.mx pt).slots[k]
    { out := some (BitVec.ofNat 512 (slotCode x.st + claimNo k.val x * 256)) }
  | _ => {}

/-! ### Rotation requests (R78 to R80, R265, R266) -/

/-- LOOP of a rotation instruction (R265). -/
def vLoopNo (v : EView) : Nat := natBits v.m.imm.toNat 0 3

/-- The rotating loop's state. -/
def State.loopSt (s : State) (c l : Nat) : LoopSt := tgetD (s.ctx c).loops l {}

/-- A request that takes a place in the queue. -/
def RotReq.queues : RotReq → Bool
  | .probe _ _ => false
  | _ => true

/-- The request queue of the loop has room (R79). -/
def LoopSt.room (x : LoopSt) : Bool := decide (x.queue.length + (x.inbound.filter fun r => r.req.queues).length < 4)

/-- A firing that places a request on a loop; it waits while the queue is full (R79).  ROTJ's destination is written at
its placement and ROTP's at its read, not here (R80, R266). -/
def doRotReq (v : EView) (req : Nat → Bool → Opnds → RotReq) (s : State) (queued : Bool := true) : Out :=
  match s.cur with
  | .cu pt u =>
    let room := match s.owner pt with | some c => (s.loopSt c (vLoopNo v)).room | none => true
    fireElem (noS v) (fun o =>
      let r := req pt u o
      { req := some ((vLoopNo v), r), stay := (match r with | .join _ _ _ | .probe _ _ => true | _ => false) }) s
      (ready := room || !queued)
  | _ => .fault .wrongAgent

/-- The state token of a join (R80). -/
def joinReq (pt : Nat) (u : Bool) (o : Opnds) : RotReq :=
  .join (match o.a with | .tok t => t | x => dataToken (x.payload 32) 0 0 false) pt u

/-- The leave request of ROTX (R78). -/
def leaveReq (_ : Nat) (_ : Bool) (o : Opnds) : RotReq :=
  .leave (natBits o.a.scalar 0 6) (decide (natBits o.a.scalar 6 1 = 1))

/-- The hold request of ROTH (R78). -/
def holdReq (_ : Nat) (_ : Bool) (o : Opnds) : RotReq := .hold (natBits o.a.scalar 0 6)

/-- The release request of ROTR (R78). -/
def releaseReq (_ : Nat) (_ : Bool) (o : Opnds) : RotReq := .release (natBits o.a.scalar 0 6)

/-- The read of ROTP (R266). -/
def probeReq (pt : Nat) (u : Bool) (_ : Opnds) : RotReq := .probe pt u

/-! ### The instructions -/

/-- MOVE (R238). -/
def execMove (d : Dst) (a : Src) (s : State) : Out :=
  fireElem (one .move d a .none .none) (fireMove (one .move d a .none .none)) s

/-- MOVE_2P (R238). -/
def execMove2P (d : Dst) (a : Src) (m : Mods) (s : State) : Out :=
  fireElem (two .move d a .none .none m) (fireMove (two .move d a .none .none m)) s

/-- DROP (R238). -/
def execDrop (a : Src) (s : State) : Out :=
  fireElem (one .drop .none a .none .none) (fireNothing (one .drop .none a .none .none)) s

/-- DROP_2P (R238). -/
def execDrop2P (a : Src) (m : Mods) (s : State) : Out :=
  fireElem (two .drop .none a .none .none m) (fireNothing (two .drop .none a .none .none m)) s

/-- MERGE (R239). -/
def execMerge (d : Dst) (a b : Src) (s : State) : Out :=
  doMerge (one .merge d a b .none) s

/-- MERGE_2P (R239). -/
def execMerge2P (d : Dst) (a b : Src) (m : Mods) (s : State) : Out :=
  doMerge (two .merge d a b .none m) s

/-- STEER (R239). -/
def execSteer (d : Dst) (a : Src) (s : State) : Out :=
  doSteer (one .steer d a .none .none) s

/-- STEER_2P (R239). -/
def execSteer2P (d : Dst) (a : Src) (m : Mods) (s : State) : Out :=
  doSteer (two .steer d a .none .none m) s

/-- GATE (R239). -/
def execGate (d : Dst) (a : Src) (s : State) : Out :=
  doGate (one .gate d a .none .none) s

/-- GATE_2P (R239). -/
def execGate2P (d : Dst) (a : Src) (m : Mods) (s : State) : Out :=
  doGate (two .gate d a .none .none m) s

/-- SWZ (R238). -/
def execSwz (d : Dst) (a b c : Src) (s : State) : Out :=
  fireElem (one .swz d a b c) (fireSwz (one .swz d a b c)) s

/-- SWZ_2P (R238). -/
def execSwz2P (d : Dst) (a b c : Src) (m : Mods) (s : State) : Out :=
  fireElem (two .swz d a b c m) (fireSwz (two .swz d a b c m)) s

/-- PACK (R238). -/
def execPack (d : Dst) (a b : Src) (s : State) : Out :=
  fireElem (one .pack d a b .none) (firePack (one .pack d a b .none)) s

/-- PACK_2P (R238). -/
def execPack2P (d : Dst) (a b : Src) (m : Mods) (s : State) : Out :=
  fireElem (two .pack d a b .none m) (firePack (two .pack d a b .none m)) s

/-- UNPK (R238). -/
def execUnpk (d : Dst) (a b : Src) (s : State) : Out :=
  fireElem (one .unpk d a b .none) (fireUnpk (one .unpk d a b .none)) s

/-- UNPK_2P (R238). -/
def execUnpk2P (d : Dst) (a b : Src) (m : Mods) (s : State) : Out :=
  fireElem (two .unpk d a b .none m) (fireUnpk (two .unpk d a b .none m)) s

/-- BCAST (R238). -/
def execBcast (d : Dst) (a : Src) (s : State) : Out :=
  fireElem (one .bcast d a .none .none) (fireBcast (one .bcast d a .none .none)) s

/-- BCAST_2P (R238). -/
def execBcast2P (d : Dst) (a : Src) (m : Mods) (s : State) : Out :=
  fireElem (two .bcast d a .none .none m) (fireBcast (two .bcast d a .none .none m)) s

/-- REPT (R240). -/
def execRept (d : Dst) (a : Src) (m : Mods) (s : State) : Out :=
  doRept (two .rept d a .none .none m) s

/-- REPTC (R240). -/
def execReptc (d : Dst) (a b : Src) (s : State) : Out :=
  doRept (one .reptc d a b .none) s

/-- REPTC_2P (R240). -/
def execReptc2P (d : Dst) (a b : Src) (m : Mods) (s : State) : Out :=
  doRept (two .reptc d a b .none m) s

/-- ISECT (R242). -/
def execIsect (d : Dst) (a b : Src) (s : State) : Out :=
  doJoin (one .isect d a b .none) s

/-- ISECT_2P (R242). -/
def execIsect2P (d : Dst) (a b : Src) (m : Mods) (s : State) : Out :=
  doJoin (two .isect d a b .none m) s

/-- UNION (R242). -/
def execUnion (d : Dst) (a b : Src) (s : State) : Out :=
  doJoin (one .union d a b .none) s

/-- UNION_2P (R242). -/
def execUnion2P (d : Dst) (a b : Src) (m : Mods) (s : State) : Out :=
  doJoin (two .union d a b .none m) s

/-- TAGC (R241). -/
def execTagc (d : Dst) (a b : Src) (s : State) : Out :=
  fireElem (one .tagc d a b .none) (fireTag (one .tagc d a b .none)) s

/-- TAGC_2P (R241). -/
def execTagc2P (d : Dst) (a b : Src) (m : Mods) (s : State) : Out :=
  fireElem (two .tagc d a b .none m) (fireTag (two .tagc d a b .none m)) s

/-- UNTAG (R241). -/
def execUntag (d : Dst) (a : Src) (s : State) : Out :=
  fireElem (one .untag d a .none .none) (fireTag (one .untag d a .none .none)) s

/-- UNTAG_2P (R241). -/
def execUntag2P (d : Dst) (a : Src) (m : Mods) (s : State) : Out :=
  fireElem (two .untag d a .none .none m) (fireTag (two .untag d a .none .none m)) s

/-- REDADD (R244). -/
def execRedadd (d : Dst) (a b : Src) (s : State) : Out :=
  fireElem (one .redadd d a b .none) (fireReduce (one .redadd d a b .none)) s

/-- REDADD_2P (R244). -/
def execRedadd2P (d : Dst) (a b : Src) (m : Mods) (s : State) : Out :=
  fireElem (two .redadd d a b .none m) (fireReduce (two .redadd d a b .none m)) s

/-- REDMAX (R244). -/
def execRedmax (d : Dst) (a b : Src) (s : State) : Out :=
  fireElem (one .redmax d a b .none) (fireReduce (one .redmax d a b .none)) s

/-- REDMAX_2P (R244). -/
def execRedmax2P (d : Dst) (a b : Src) (m : Mods) (s : State) : Out :=
  fireElem (two .redmax d a b .none m) (fireReduce (two .redmax d a b .none m)) s

/-- REDMIN (R244). -/
def execRedmin (d : Dst) (a b : Src) (s : State) : Out :=
  fireElem (one .redmin d a b .none) (fireReduce (one .redmin d a b .none)) s

/-- REDMIN_2P (R244). -/
def execRedmin2P (d : Dst) (a b : Src) (m : Mods) (s : State) : Out :=
  fireElem (two .redmin d a b .none m) (fireReduce (two .redmin d a b .none m)) s

/-- ARGMAX (R246). -/
def execArgmax (d : Dst) (a b : Src) (s : State) : Out :=
  fireElem (one .argmax d a b .none) (fireArg (one .argmax d a b .none)) s

/-- ARGMAX_2P (R246). -/
def execArgmax2P (d : Dst) (a b : Src) (m : Mods) (s : State) : Out :=
  fireElem (two .argmax d a b .none m) (fireArg (two .argmax d a b .none m)) s

/-- ARGMIN (R246). -/
def execArgmin (d : Dst) (a b : Src) (s : State) : Out :=
  fireElem (one .argmin d a b .none) (fireArg (one .argmin d a b .none)) s

/-- ARGMIN_2P (R246). -/
def execArgmin2P (d : Dst) (a b : Src) (m : Mods) (s : State) : Out :=
  fireElem (two .argmin d a b .none m) (fireArg (two .argmin d a b .none m)) s

/-- SCANX (R245). -/
def execScanx (d : Dst) (a b : Src) (s : State) : Out :=
  fireElem (one .scanx d a b .none) (fireScan (one .scanx d a b .none)) s

/-- SCANX_2P (R245). -/
def execScanx2P (d : Dst) (a b : Src) (m : Mods) (s : State) : Out :=
  fireElem (two .scanx d a b .none m) (fireScan (two .scanx d a b .none m)) s

/-- DRAIN (R247). -/
def execDrain (d : Dst) (s : State) : Out :=
  fireElem (one .drain d .none .none .none) (fireDrain s (one .drain d .none .none .none)) s

/-- DRAIN_2P (R247). -/
def execDrain2P (d : Dst) (m : Mods) (s : State) : Out :=
  fireElem (two .drain d .none .none .none m) (fireDrain s (two .drain d .none .none .none m)) s

/-- EOSE (R248). -/
def execEose (d : Dst) (s : State) : Out :=
  fireElem (noS (one .eose d .none .none .none)) (fireEose (one .eose d .none .none .none)) s

/-- EOSE_2P (R248). -/
def execEose2P (d : Dst) (m : Mods) (s : State) : Out :=
  fireElem (noS (two .eose d .none .none .none m)) (fireEose (two .eose d .none .none .none m)) s

/-- BARE (R248). -/
def execBare (d : Dst) (a : Src) (s : State) : Out :=
  fireElem (noS (one .bare d a .none .none)) (fireBare (one .bare d a .none .none)) s

/-- BARE_2P (R248). -/
def execBare2P (d : Dst) (a : Src) (m : Mods) (s : State) : Out :=
  fireElem (noS (two .bare d a .none .none m)) (fireBare (two .bare d a .none .none m)) s

/-- ONEOS (R248). -/
def execOneos (d : Dst) (a : Src) (s : State) : Out :=
  doOneos (one .oneos d a .none .none) s

/-- ONEOS_2P (R248). -/
def execOneos2P (d : Dst) (a : Src) (m : Mods) (s : State) : Out :=
  doOneos (two .oneos d a .none .none m) s

/-- BR (R249). -/
def execBr (s : State) : Out :=
  doBranch true (one .br .none .none .none .none) s

/-- BR_2P (R249). -/
def execBr2P (m : Mods) (s : State) : Out :=
  doBranch true (two .br .none .none .none .none m) s

/-- BRF (R249). -/
def execBrf (s : State) : Out :=
  doBranch false (one .brf .none .none .none .none) s

/-- BRF_2P (R249). -/
def execBrf2P (m : Mods) (s : State) : Out :=
  doBranch false (two .brf .none .none .none .none m) s

/-- JMP (R249). -/
def execJmp (s : State) : Out :=
  doJmp (one .jmp .none .none .none .none) s

/-- JMP_2P (R249). -/
def execJmp2P (m : Mods) (s : State) : Out :=
  doJmp (two .jmp .none .none .none .none m) s

/-- JTAB (R250). -/
def execJtab (a : Src) (m : Mods) (s : State) : Out :=
  doJtab (two .jtab .none a .none .none m) s

/-- LPAD (R250): it acts as NOP. -/
def execLpad (_label : BitVec 10) (s : State) : Out :=
  fireElem (one .lpad .none .none .none .none) (fireNothing (one .lpad .none .none .none .none)) s

/-- WAITQ (R249). -/
def execWaitq (d : Dst) (s : State) : Out :=
  doWaitq (one .waitq d .none .none .none) s

/-- WAITQ_2P (R249). -/
def execWaitq2P (d : Dst) (m : Mods) (s : State) : Out :=
  doWaitq (two .waitq d .none .none .none m) s

/-- EMITQ (R249). -/
def execEmitq (a : Src) (s : State) : Out :=
  fireElem (one .emitq .none a .none .none) (fireEmitq (one .emitq .none a .none .none)) s

/-- EMITQ_2P (R249). -/
def execEmitq2P (a : Src) (m : Mods) (s : State) : Out :=
  fireElem (two .emitq .none a .none .none m) (fireEmitq (two .emitq .none a .none .none m)) s

/-- LOOP (R249). -/
def execLoop (d : Dst) (s : State) : Out :=
  doLoop (one .loop d .none .none .none) s

/-- LOOP_2P (R249). -/
def execLoop2P (d : Dst) (m : Mods) (s : State) : Out :=
  doLoop (two .loop d .none .none .none m) s

/-- MTOK (R251). -/
def execMtok (d : Dst) (a b : Src) (m : Mods) (lit : Parcel) (s : State) : Out :=
  fireElem (three .mtok d a b .none m lit) (fireMtok (three .mtok d a b .none m lit)) s

/-- OCLM (R256). -/
def execOclm (d : Dst) (s : State) : Out :=
  doOclm (one .oclm d .none .none .none) s

/-- OCLM_2P (R256). -/
def execOclm2P (d : Dst) (m : Mods) (s : State) : Out :=
  doOclm (two .oclm d .none .none .none m) s

/-- OREL (R256). -/
def execOrel (d : Dst) (a : Src) (s : State) : Out :=
  fireElem (one .orel d a .none .none) (fireOrel (one .orel d a .none .none)) s

/-- OREL_2P (R256). -/
def execOrel2P (d : Dst) (a : Src) (m : Mods) (s : State) : Out :=
  fireElem (two .orel d a .none .none m) (fireOrel (two .orel d a .none .none m)) s

/-- OSTA (R256). -/
def execOsta (d : Dst) (a : Src) (s : State) : Out :=
  fireElem (one .osta d a .none .none) (fireOsta s (one .osta d a .none .none)) s

/-- OSTA_2P (R256). -/
def execOsta2P (d : Dst) (a : Src) (m : Mods) (s : State) : Out :=
  fireElem (two .osta d a .none .none m) (fireOsta s (two .osta d a .none .none m)) s

/-- ROTJ (R80). -/
def execRotj (d : Dst) (a : Src) (s : State) : Out :=
  doRotReq (one .rotj d a .none .none) joinReq s

/-- ROTJ_2P (R80). -/
def execRotj2P (d : Dst) (a : Src) (m : Mods) (s : State) : Out :=
  doRotReq (two .rotj d a .none .none m) joinReq s

/-- ROTX (R265). -/
def execRotx (a : Src) (s : State) : Out :=
  doRotReq (one .rotx .none a .none .none) leaveReq s

/-- ROTX_2P (R265). -/
def execRotx2P (a : Src) (m : Mods) (s : State) : Out :=
  doRotReq (two .rotx .none a .none .none m) leaveReq s

/-- ROTH (R265). -/
def execRoth (a : Src) (s : State) : Out :=
  doRotReq (one .roth .none a .none .none) holdReq s

/-- ROTH_2P (R265). -/
def execRoth2P (a : Src) (m : Mods) (s : State) : Out :=
  doRotReq (two .roth .none a .none .none m) holdReq s

/-- ROTR (R265). -/
def execRotr (a : Src) (s : State) : Out :=
  doRotReq (one .rotr .none a .none .none) releaseReq s

/-- ROTR_2P (R265). -/
def execRotr2P (a : Src) (m : Mods) (s : State) : Out :=
  doRotReq (two .rotr .none a .none .none m) releaseReq s

/-- ROTP (R266). -/
def execRotp (d : Dst) (s : State) : Out :=
  doRotReq (one .rotp d .none .none .none) probeReq s (queued := false)

/-- ROTP_2P (R266). -/
def execRotp2P (d : Dst) (m : Mods) (s : State) : Out :=
  doRotReq (two .rotp d .none .none .none m) probeReq s (queued := false)

end Sys2Proof.Machine
end

