-- ==== Sys2Proof/Machine/Collective.lean ====
section
/-! DEFINITION. Collectives: their commands, their steps, retries and completion (R60, R296 to R298, R380, R402, R403,
R415, R416, R433, R446, R447). -/

namespace Sys2Proof.Machine

/-! ### The descriptor (R296) -/

/-- COUNT. -/
def cCount (d : List Word64) : Nat := fld (ltWord d 0) 32 32
/-- RETRY. -/
def cRetry (d : List Word64) : Nat := fld (ltWord d 0) 28 4
/-- OPR. -/
def cOpr (d : List Word64) : Nat := fld (ltWord d 0) 24 4
/-- CCTX. -/
def cCctx (d : List Word64) : Nat := fld (ltWord d 0) 16 5
/-- DSTLT. -/
def cDstLt (d : List Word64) : Nat := fld (ltWord d 0) 8 8
/-- SRCLT. -/
def cSrcLt (d : List Word64) : Nat := fld (ltWord d 0) 0 8
/-- ROOT. -/
def cRoot (d : List Word64) : Nat := fld (ltWord d 3) 0 16

/-- The operations of R297. -/
inductive CollFn where
  | allred | allgath | redscat | bcast | scan | maxidx
  deriving DecidableEq, Repr

/-- FN of an operation (R198). -/
def CollFn.code : CollFn → Nat
  | .allred => 0 | .allgath => 1 | .redscat => 2 | .bcast => 3 | .scan => 4 | .maxidx => 5

/-- The operation of a FN. -/
def collFn : Nat → CollFn
  | 0 => .allred | 1 => .allgath | 2 => .redscat | 3 => .bcast | 4 => .scan | _ => .maxidx

/-- Elements of a member's source, of `n` members (R297). -/
def CollFn.srcLen (f : CollFn) (n count : Nat) : Nat := match f with | .redscat => n * count | _ => count
/-- Elements of a member's destination (R297). -/
def CollFn.dstLen (f : CollFn) (n count : Nat) : Nat := match f with | .allgath => n * count | _ => count

/-- Coordinates of element `j` of the source (`i` = 1) or destination (`i` = 2): (c0 + j, c1) (R296). -/
def collCoords (d : List Word64) (i rank j : Nat) : List Int :=
  (List.range rank).map fun k =>
    if k = 0 then ((fld (ltWord d i) 0 32 + j : Nat) : Int) else if k = 1 then (fld (ltWord d i) 32 32 : Int) else 0

/-! ### Places and values -/

/-- The places of elements `lo` to `lo + len - 1` of one side, before translation; none is an address fault (R120). -/
def State.collElems (s : State) (o : EngOp) (write : Bool) (f : Fmt) (lo len : Nat) : Option (List Spot) :=
  let lt := if write then o.dst else o.src
  let i := if write then 2 else 1
  allSome ((List.range len).map fun j =>
    (s.elemFor (s.engStand o.issuer o) lt (fmtWidth f) (!write) (some (collCoords o.desc i (ltRank lt) (lo + j)))).map (·.spot))

/-- The places translated (R125, R433). -/
def State.collSpots (s : State) (o : EngOp) (write : Bool) (f : Fmt) (lo len : Nat) : Met (List Spot) :=
  (Met.ofOption (s.collElems o write f lo len)).bind fun ps =>
    metAll (s.engSpot o.issuer o (if write then o.dst else o.src) f write) ps

/-- The collective moves its elements without a reduction. -/
def EngOp.moves (o : EngOp) : Bool := decide (o.fn = 17 ∨ o.fn = 19)

/-- A block format takes part in a collective that only moves whole blocks (log entry 21). -/
def EngOp.blocks (o : EngOp) : Bool :=
  o.moves && [cCount o.desc, fld (ltWord o.desc 1) 0 32, fld (ltWord o.desc 2) 0 32].all (· % 32 == 0)

/-- The format of a collective at a member: that of the source, to which the destination's is equal (R296); no operand
slot takes part. -/
def State.collFmt (s : State) (o : EngOp) : Met Fmt :=
  if ltSpace o.src = 2 ∨ ltSpace o.dst = 2 ∨ ltSpace o.src = 7 ∨ ltSpace o.dst = 7 then .fail fcAddress
  else (s.sideFmt o.issuer o o.src false).bind fun f => (s.sideFmt o.issuer o o.dst true).bind fun g =>
    if f ≠ g ∨ (isBlock f ∧ !o.blocks) then .fail fcColl else .ok f

/-- Who performs a member's accesses: its collective context, on the cluster of the issuer. -/
def State.collWho (s : State) (cctx : Nat) (o : EngOp) : Who := ⟨cctx, s.homeCl o.issuer, none⟩

/-- Elements `lo` on of a member's source, raw, each with its block's scale above it and its poison mark (R128, R298,
R402). -/
def State.collRead (s : State) (cctx : Nat) (o : EngOp) (ps : List Spot) (f : Fmt) : List (Nat × Bool) :=
  ps.map fun p => if p = .nowhere then (absentOf f, false)
    else
      let r := s.rawLoad (s.collWho cctx o) (fmtWidth f) p true
      (r.1 + (match p.scaleAt f with | some a => (memGet s.mem a).toNat * 2 ^ fmtWidth f | none => 0), r.2.1)

/-! ### Results (R297) -/

/-- A reduction of R244 under OPR, rounded once with RNE; ADDS applies SAT. -/
def collReduce (opr : Nat) (f : Fmt) (xs : List Nat) : Nat :=
  (redComb (match opr with | 2 => .redmax | 3 => .redmin | _ => .redadd) (plainMods f .rne (opr == 1) false) xs).1

/-- One result over candidates in rank order, poisoned if one of them is. -/
def combine (g : List Nat → Nat) (xs : List (Nat × Bool)) : Nat × Bool := (g (xs.map (·.1)), xs.any (·.2))

/-- The candidates of element `j`: element `j` of each list. -/
def column (ls : List (List (Nat × Bool))) (j : Nat) : List (Nat × Bool) := ls.filterMap fun l => l[j]?

/-- The destination of the member of rank `r`, from what each member sent it, in rank order (R297): for REDSCAT, its own
part of each source. -/
def collResult (op : CollFn) (opr : Nat) (f : Fmt) (count r root : Nat) (ls : List (List (Nat × Bool))) : List (Nat × Bool) :=
  match op with
  | .allred | .redscat => (List.range count).map fun j => combine (collReduce opr f) (column ls j)
  | .allgath => ls.flatten
  | .bcast => ls.getD root []
  | .scan => (List.range count).map fun j =>
      if r = 0 then (absentOf f, false) else combine (collReduce opr f) (column (ls.take r) j)
  | .maxidx => (List.range (count / 2)).flatMap fun p =>
      let vs := column ls (2 * p)
      let is := column ls (2 * p + 1)
      let best := pairBest true f ((vs.map (·.1)).zip (is.map (·.1)))
      let bad := vs.any (·.2) || is.any (·.2)
      [(best.1, bad), (best.2, bad)]

/-! ### The collective -/

/-- A collective of this number. -/
def State.coll (s : State) (k : Nat) : Option Coll := tget s.colls k

/-- The entry of the member of a rank, once its COLL has been accepted. -/
def Coll.entry (co : Coll) (i : Nat) : Option CollEntry :=
  match co.members[i]? with
  | some c => co.entries.find? fun e => e.ctx == c
  | none => none

/-- The operation of an entry. -/
def State.collOp (s : State) (e : CollEntry) : Option EngOp := s.opOf e.cctx e.num

/-- Members of a collective on all its packages (R380). -/
def Coll.size (co : Coll) : Nat := co.far.1.length + co.members.length + co.far.2.length

/-- The place in the list of this package's members of a rank over all packages; none for a member on another package. -/
def Coll.here (co : Coll) (r : Nat) : Option Nat :=
  if co.far.1.length ≤ r ∧ r < co.far.1.length + co.members.length then some (r - co.far.1.length) else none

/-- The destination number of the package of a member elsewhere, by rank (R380). -/
def Coll.dest (co : Coll) (r : Nat) : Option Nat :=
  if r < co.far.1.length then co.far.1[r]? else co.far.2[r - co.far.1.length - co.members.length]?

/-- The rank of ROOT: that of a member here, else the first of another package (log entry 21). -/
def Coll.rootRank (co : Coll) : Nat :=
  if co.members.contains co.root then co.far.1.length + co.members.idxOf co.root
  else if co.far.1.isEmpty then co.members.length else 0

/-- A collective needs a step from rank `i` to rank `j` in which a member of this package takes part (R297, R380). -/
def Coll.needs (co : Coll) (i j : Nat) : Bool :=
  i != j && decide (i < co.size ∧ j < co.size) && ((co.here i).isSome || (co.here j).isSome) &&
  match collFn co.op with
  | .bcast => i == co.rootRank
  | .scan => decide (i < j)
  | _ => true

/-- What a step has carried. -/
def Coll.carried (co : Coll) (i j : Nat) : Option (List (Nat × Bool)) :=
  (co.acked.find? fun p => p.1 = (i, j)).map (·.2)

/-- Where the part of a sender's source begins that a step to the member of a rank carries. -/
def Coll.part (co : Coll) (rank : Nat) : Nat := match collFn co.op with | .redscat => rank * co.count | _ => 0

/-- The group spans packages: PEERGRP of its entry, four words, names another one (R380, R387). -/
def State.peerGroup (s : State) (g : Nat) : Bool := (List.range 4).any fun w => s.reg 0 0x54 (4 * g + w) != 0

/-- The destination numbers of PEERGRP's entry for a group, ascending, SELFDEST left out (R379, R380). -/
def State.peerNos (s : State) (g : Nat) : List Nat :=
  (List.range 256).filter fun d => bit (s.reg 0 0x54 (4 * g + d / 64)) (d % 64) && d != fld (s.reg 0 0x55 0) 0 8

/-- The members on other packages, each by its package's number, ranked below and above those of this one (R380): how many a
package has is no state of this package (log entry 21). -/
def State.peers (s : State) (g : Nat) : List Nat × List Nat :=
  let of (ds : List Nat) : List Nat := ds.flatMap fun d => List.replicate (Nat.max 1 (Config.peerMembers g d)) d
  let self := fld (s.reg 0 0x55 0) 0 8
  (of ((s.peerNos g).filter (· < self)), of ((s.peerNos g).filter (self < ·)))

/-- Members of a collective in all, of `n` on this package. -/
def State.collSize (s : State) (g n : Nat) : Nat := (s.peers g).1.length + n + (s.peers g).2.length

/-- The collective of a group that a member's COLL belongs to: the first that still lacks it (R297). -/
def State.collFor (s : State) (l g c : Nat) : Option (Nat × Coll) :=
  s.colls.find? fun p => p.2.launch == l && p.2.group == g && p.2.members.contains c && !(p.2.entries.any fun e => e.ctx == c)

/-- The membership of the collective that a member's COLL belongs to or begins (R297). -/
def State.collMembers (s : State) (l g c : Nat) : List Nat :=
  match s.collFor l g c with
  | some p => p.2.members
  | none => (s.group l g).members

/-- The member agrees with the collective: op, COUNT, OPR and ROOT (R297). -/
def Coll.agrees (co : Coll) (op : Nat) (d : List Word64) : Bool :=
  decide (co.op = op ∧ co.count = cCount d ∧ co.opr = cOpr d ∧ co.root = cRoot d)

/-- The formats of the accepted members that are known agree (R297). -/
def State.collSame (s : State) (co : Coll) : Bool :=
  let fs := co.entries.filterMap fun e => (s.collOp e).bind fun o => match s.collFmt o with | .ok f => some f | _ => none
  match fs with
  | [] => true
  | f :: t => t.all (· == f) && (collFn co.op != .maxidx || f == .fp32 || f == .int32)

/-- The collective fails as an operation that met something, or the member's part of it parks on a page (R415, R433). -/
def State.collMet (s : State) (k : Nat) (e : CollEntry) (o : EngOp) {α : Type} (x : Met α) (f : α → State) : State :=
  let walk (va : Nat) (w : Bool) : Walk := { s.engWalk o.issuer o va w with agent := 2, pos := idLocal e.cctx }
  match x with
  | .ok a => f a
  | .miss va w => (s.opPark e.cctx o va).askWalk (walk va w)
  | .perm va w => (s.opPark e.cctx o va).permFault (walk va w)
  | .fail _ => s.collFail k fcColl
  | .cut pa code => (if code = fcFarmem then s.farRecord pa o.issuer else s).collFail k code

/-- The first of an operation's places that cannot be reached from the issuer's die (R442, R446, R450). -/
def State.spotsFault (s : State) (o : EngOp) (ps : List Spot) : Option (Nat × Nat) :=
  ps.findSome? fun p => s.spotFault (s.homeCl o.issuer / 6) p o.routes

/-- Two ranks can exchange flits: over the ring, or over a live port to the other package (R446). -/
def State.collReach (s : State) (co : Coll) (i j : Nat) : Bool :=
  let die (r : Nat) : Option Nat := ((co.here r).bind fun k => co.members[k]?).map fun c => s.homeCl c / 6
  match die i, die j with
  | some a, some b => a == b || (!s.isolated a && !s.isolated b)
  | some a, none => s.linkUp a 2 && (co.dest j).any fun d => (s.routesOf a).any fun r => r.1 == d
  | none, some b => s.linkUp b 2 && (co.dest i).any fun d => (s.routesOf b).any fun r => r.1 == d
  | none, none => false

/-- An access of a collective meets what stops it: a link, a race or a bank in cooldown; else what it finds in its storage, and
whether its residue was wrong (R397, R437 to R439, R446).  Every access of a collective to a stack is taken to activate a row
(log entry 81). -/
def State.collMeets (s : State) (k : Nat) (e : CollEntry) (o : EngOp) (write : Bool) (f : Fmt) (ps : List Spot)
    (go : State → Bool → State) : State :=
  match s.spotsFault o ps with
  | some (pa, code) => (if code = fcFarmem then s.farRecord pa o.issuer else s).collFail k code
  | none =>
    if !s.banksTurn e.cctx o ps then s.banksWait e.cctx o ps
    else
      let r := s.raceSpots e.cctx (s.homeCl o.issuer) write (if write then o.dst else o.src) (fmtWidth f) ps
      if r.2 then r.1.collFail k fcRace
      else
        let y := r.1.engUpset e.cctx 20 o.issuer (ps.headD .nowhere)
        go (y.1.banksGone e.cctx o (y.1.engPas e.cctx ps) true) y.2

/-- Elements read for a step or a result, or the state in which it has stopped. -/
def State.collFetch (s : State) (k : Nat) (e : CollEntry) (o : EngOp) (lo len : Nat)
    (f : State → Fmt → List (Nat × Bool) → State) : State :=
  s.collMet k e o ((s.collFmt o).bind fun t => (s.collSpots o false t lo len).bind fun ps => .ok (t, ps)) fun (t, ps) =>
    s.collMeets k e o false t ps fun s1 bad =>
      f (s1.llcRead ps) t ((s1.collRead e.cctx o ps t).map fun v => (v.1, v.2 || bad))

/-- What a member on another package contributes to a step, by its rank: free values, a block's scale above each of its elements
(R380; log entry 21). -/
def peerList (k rank lo len : Nat) (f : Fmt) : List (Nat × Bool) :=
  (List.range len).map fun j =>
    let scale := if isBlock f then fld (Config.peerElem k rank (lo + j / 32 * 32)) 56 8 else 0
    ((Config.peerElem k rank (lo + j)).toNat % 2 ^ fmtWidth f + scale * 2 ^ fmtWidth f, false)

/-- The entry of the member of a rank over all packages, once its COLL has been accepted. -/
def Coll.entryAt (co : Coll) (r : Nat) : Option CollEntry := (co.here r).bind co.entry

/-- The members of this package that a step joins have all been accepted. -/
def Coll.joined (co : Coll) (i j : Nat) : Bool :=
  [i, j].all fun r => (co.here r).isNone || (co.entryAt r).isSome

/-- A try of a step from rank `i` to rank `j` begins: the sources are read for it, those of a member on another package there
(R297, R447). -/
def State.collSend (s : State) (k : Nat) (co : Coll) (i j : Nat) : State :=
  let sent (s : State) (co : Coll) (vs : List (Nat × Bool)) : State :=
    { s with colls := tset s.colls k { co with sent := (co.sent.filter fun p => p.1 ≠ (i, j)) ++ [((i, j), s.cycle, vs)] } }
  match co.entryAt i with
  | none =>
    let f := ((co.entryAt j).bind s.collOp).bind fun o => s.issueFmt o.issuer o.src
    sent s co (peerList k i (co.part j) co.count (f.getD .fp32))
  | some e =>
    match s.collOp e with
    | none => s
    | some o =>
      if o.parked.isSome ∨ s.opAway o then s
      else s.collFetch k e o (co.part j) co.count fun s1 _ vs => sent s1 co vs

/-- COLLECTIVE_STEP: a step from rank `i` to rank `j` is sent, and then its flits are acknowledged, and what the try carried has
arrived (R297, R298, R380, R447). -/
def execCollectiveStep (k i j : Nat) (s : State) : Out :=
  match s.coll k with
  | none => stall s
  | some co =>
    if co.failed ∨ !co.needs i j ∨ !co.joined i j ∨ (co.carried i j).isSome then stall s
    else if !s.collSame co then .next (s.collFail k fcColl)
    else match co.sent.find? fun p => p.1 = (i, j) with
      | none => .next (s.collSend k co i j)
      | some p =>
        if !s.collReach co i j then stall s
        else
          let co1 := { co with sent := co.sent.filter (fun q => q.1 ≠ (i, j)), acked := co.acked ++ [((i, j), p.2.2)] }
          .next { s with colls := tset s.colls k co1 }

/-- COLLECTIVE_STEP_TIMEOUT: a step has failed: no acknowledgement within 10 µs, or no port; it is tried again with its sources
read again, or after RETRY retries the collective fails at every member (R447). -/
def execCollectiveStepTimeout (k i j : Nat) (s : State) : Out :=
  match s.coll k with
  | none => stall s
  | some co =>
    match co.sent.find? (fun p => p.1 = (i, j)), (co.entryAt i).or (co.entryAt j) with
    | some p, some e =>
      match s.collOp e with
      | none => stall s
      | some o =>
        if co.failed ∨ (s.cycle < p.2.1 + 10000 ∧ s.collReach co i j = true) then stall s
        else
          let n := (co.retries.find? fun p => p.1 = (i, j)).elim 0 (·.2)
          if n < cRetry o.desc then
            let co1 := { co with sent := co.sent.filter (fun q => q.1 ≠ (i, j))
                                 retries := (co.retries.filter fun p => p.1 ≠ (i, j)) ++ [((i, j), n + 1)] }
            let s1 : State := { s with colls := tset s.colls k co1 }
            .next ((s1.errRecord (idDie e.cctx) .global .ce 20 0x23 0 0 e.ctx).collSend k co1 i j)
          else .next (s.collFail k 0x20)
    | _, _ => stall s

/-- The lists that the member of rank `r` combines, in rank order over all packages: its own part, and what each step carried; a
member from which nothing is needed gives none. -/
def Coll.lists (co : Coll) (r : Nat) (own : List (Nat × Bool)) : List (List (Nat × Bool)) :=
  (List.range co.size).map fun i => if i = r then own else (co.carried i r).getD []

/-- Every step that the member of rank `j` takes part in has been acknowledged. -/
def Coll.stepsDone (co : Coll) (j : Nat) : Bool :=
  (List.range co.size).all fun i =>
    (!co.needs i j || (co.carried i j).isSome) && (!co.needs j i || (co.carried j i).isSome)

/-- Elements of a member's destination are written (R128, R297, R402, R433): those written without poison clear the marks of the
granules that they cover. -/
def State.collWrite (s : State) (cctx : Nat) (o : EngOp) (f : Fmt) (ps : List Spot) (vs : List (Nat × Bool)) : State :=
  let put (s : State) (p : Spot × Nat × Bool) : State :=
    if p.1 = .nowhere then s
    else
      let s1 := s.rawStore (s.collWho cctx o) (fmtWidth f) (p.2.1 % 2 ^ fmtWidth f) p.2.2 p.1
      match p.1.scaleAt f with
      | some a => s1.scalePut a (BitVec.ofNat 8 (p.2.1 / 2 ^ fmtWidth f)) p.2.2
      | none => s1
  let clean := ((ps.zip vs).filter fun p => !p.2.2).map fun p => ({ spot := p.1 } : Elem)
  ((ps.zip vs).foldl put s).cleared (s.collWho cctx o) f clean

/-- The completion of a member's part: its operation leaves the context and its signal is sent, every source has been
acquired, and its sources of ENG and of the crossbar see it (R57, R64, R284, R297, R313). -/
def State.collDone (s : State) (k : Nat) (co : Coll) (e : CollEntry) (o : EngOp) : State :=
  let co1 := { co with entries := co.entries.map fun (x : CollEntry) => if x.ctx = e.ctx then { x with done := true } else x }
  let s1 : State := { s with colls :=
    if co1.entries.length = co1.members.length ∧ co1.entries.all (·.done) then tdel s.colls k else tset s.colls k co1 }
  let s2 := s1.raceRelease e.cctx (objTimeline e.cctx)
  let s3 := s2.modCtx e.cctx fun x =>
    let y := { x with ops := x.ops.filter fun p => p.num != o.num }
    { y with timeline := y.engTimeline }
  let s4 := o.raised.foldl (fun s r => s.modCtx r (·.touch .eng)) s3
  let s5 := co1.entries.foldl (fun s x => s.raceAcquire e.ctx (5, x.cctx)) s4
  let g := o.signal
  let cl := s.homeCl e.ctx
  let s6 := s5.dropL1 e.ctx g.scope
  let s7 := if g.inc = 0 then s6 else (s6.raceRelease e.cctx (objSem cl g.sem)).semInc e.ctx cl g.sem g.inc g.info
  s7.xpulse cl 4 (idLocal e.cctx)

/-- A member's destination is written from a sector on, ascending; at the first whose translation faults, or whose bank is in
cooldown, it stops, to go on there; with the last sector the member's part completes (R297, R433, R439). -/
def State.collSectors (s : State) (k : Nat) (co : Coll) (e : CollEntry) (o : EngOp) (f : Fmt) (pv : List (Spot × Nat × Bool)) :
    List Nat → Nat → State
  | [], _ => s.collDone k co e o
  | q :: t, n =>
    let part := pv.filter fun p => p.1.sector == q
    let o1 := { o with written := n }
    (s.setOp e.cctx o1).collMet k e o1 (metAll (s.engSpot o.issuer o o.dst f true) (part.map (·.1))) fun ps =>
      let s1 := (s.setOp e.cctx o1).collMeets k e o1 true f ps fun s2 _ => s2.collWrite e.cctx o f ps (part.map (·.2))
      if (s1.coll k).any (fun c => !c.failed) && s.banksTurn e.cctx o ps then s1.collSectors k co e o f pv t (n + 1) else s1

/-- COLLECTIVE_COMPLETE: the member in place `i` of this package's list has what it needs, and every step from it has ended: its
destination is written and its part completes (R297, R298, R433). -/
def execCollectiveComplete (k i : Nat) (s : State) : Out :=
  match s.coll k with
  | none => stall s
  | some co =>
    match co.entry i with
    | none => stall s
    | some e =>
      match s.collOp e with
      | none => stall s
      | some o =>
        let r := co.far.1.length + i
        if co.failed ∨ e.done ∨ o.parked.isSome ∨ s.opAway o ∨ !co.stepsDone r then stall s
        else if !s.collSame co then .next (s.collFail k fcColl)
        else
          let op := collFn co.op
          let own := if op = .bcast ∧ r ≠ co.rootRank then 0 else co.count
          .next (s.collFetch k e o (co.part r) own fun s1 f vs =>
            s1.collMet k e o (Met.ofOption (s1.collElems o true f 0 (op.dstLen co.size co.count))) fun ps =>
              let pv := (ps.zip (collResult op co.opr f co.count r co.rootRank (co.lists r vs))).filter fun p => p.1 != .nowhere
              let qs := (pv.map fun p => p.1.sector).dedup.insertionSort (· ≤ ·)
              s1.collSectors k co e o f pv (qs.drop o.written) o.written)

/-! ### The commands (R296, R298, R416) -/

/-- A member's operation as the command describes it. -/
def State.collDesc (s : State) (c : Nat) (a : XReg) (op : CollFn) (w : CtlP2) : EngOp :=
  let x := s.ctx c
  let d := x.desc a 4
  { num := 0, fn := 16 + op.code, desc := d, issuer := c, chain := s.chainHead c, src := s.viewLt c (cSrcLt d), dst := s.viewLt c (cDstLt d)
    idx := [], signal := signalOf x w, promise := 0
    routes := s.routesIf (s.homeCl c / 6) [s.viewLt c (cSrcLt d), s.viewLt c (cDstLt d)] }

/-- Source and destination overlap in a way that R298 forbids. -/
def State.collOverlap (s : State) (o : EngOp) (op : CollFn) (n : Nat) : Bool :=
  match s.issueFmt o.issuer o.src, s.issueFmt o.issuer o.dst with
  | some f, some g =>
    match s.collElems o false f 0 (op.srcLen n (cCount o.desc)), s.collElems o true g 0 (op.dstLen n (cCount o.desc)) with
    | some ps, some qs =>
      let hit := ps.any fun p => p != .nowhere && qs.any fun q => q != .nowhere &&
        touches (p.store, p.key, fmtWidth f) (q.store, q.key, fmtWidth g)
      hit && !((op == .allred || op == .bcast) && ps == qs)
    | _, _ => false
  | _, _ => false

/-- The collective context that a command names (R296). -/
def State.collCtx (s : State) (c : Nat) (o : EngOp) : Nat := idOf (s.homeCl c / 6) 7 (cCctx o.desc)

/-- The regions whose scratchpads the destination of a member touches (R57, R288). -/
def State.collRaised (s : State) (o : EngOp) (op : CollFn) (n : Nat) : List Nat :=
  if ltVirtual o.dst then []
  else match (ltElem o.dst).bind fun f => s.collElems o true f 0 (op.dstLen n (cCount o.desc)) with
    | none => []
    | some ps => ((ps.filterMap fun p => match p with | .spad pt _ => some pt | _ => none).dedup.filterMap s.owner).dedup

/-- A command is accepted by its collective context: its number goes to XD, and it joins its collective or begins one
(R57, R60, R296, R297, R313). -/
def State.collAccept (s : State) (c g : Nat) (d : XReg) (op : CollFn) (o : EngOp) : State :=
  let e := s.collCtx c o
  let n := (s.ctx e).accepted + 1
  let l := s.launchNo c
  let raised := s.collRaised o op (s.collSize g (s.collMembers l g c).length)
  let s1 := (s.raceHand c e).modCtx e fun x =>
    { x with ops := x.ops ++ [{ o with num := n, raised := raised }], accepted := n }
  let s2 := raised.foldl (fun s r => s.modCtx r (·.touch .eng)) s1
  let s3 := s2.modCtx c fun x => x.setX d (BitVec.ofNat 64 (n - (s.ctx e).opBase))
  let ent : CollEntry := { ctx := c, cctx := e, num := n }
  match s3.collFor l g c with
  | some (k, co) =>
    let s4 := { s3 with colls := tset s3.colls k { co with entries := co.entries ++ [ent] } }
    if co.agrees op.code o.desc then s4 else s4.collFail k fcColl
  | none =>
    let co : Coll := { launch := l, group := g, op := op.code, opr := cOpr o.desc, count := cCount o.desc
                       root := cRoot o.desc, members := (s.group l g).members, entries := [ent], far := s.peers g }
    let s4 := { s3 with colls := tset s3.colls s3.nextColl co, nextColl := s3.nextColl + 1 }
    if op = .bcast ∧ !co.members.contains co.root ∧ !s.peerGroup g then s4.collFail s3.nextColl fcColl else s4

/-- A COLL command: its checks, its wait for room in the collective context, and its acceptance (R268, R288, R296, R298,
R416). -/
def collCommand (op : CollFn) (d a : XReg) (imm : BitVec 8) (w : CtlP2) (s : State) : Out :=
  let g := imm.toNat
  runCmd w {
    ready := fun s c => s.mayRelease c w.scope
    check := fun s c =>
      let l := s.launchNo c
      let o := s.collDesc c a op w
      let ms := s.collMembers l g c
      let pairs := op != .maxidx || (cCount o.desc % 2 == 0 && cOpr o.desc == 0 &&
        (match s.issueFmt c o.src with | some f => f == .fp32 || f == .int32 | none => true))
      trapUnless (bit (BitVec.ofNat 4 (s.group l g).use) 1 && ms.contains c && decide (cOpr o.desc ≤ 3 ∧ 1 ≤ cCount o.desc) &&
        decide (fld (ltWord o.desc 3) 16 48 = 0) && pairs && !s.collOverlap o op (s.collSize g ms.length))
    act := fun s c _ =>
      let o := s.collDesc c a op w
      if (s.ctx (s.collCtx c o)).openOps ≥ 16 then stall s
      else .next ((s.collAccept c g d op o).modCtx c (·.past 2)) } s

/-- COLL_ALLRED (R297). -/
def execCollAllred (d a : XReg) (imm : BitVec 8) (w : CtlP2) (s : State) : Out := collCommand .allred d a imm w s
/-- COLL_ALLGATH (R297). -/
def execCollAllgath (d a : XReg) (imm : BitVec 8) (w : CtlP2) (s : State) : Out := collCommand .allgath d a imm w s
/-- COLL_REDSCAT (R297). -/
def execCollRedscat (d a : XReg) (imm : BitVec 8) (w : CtlP2) (s : State) : Out := collCommand .redscat d a imm w s
/-- COLL_BCAST (R297). -/
def execCollBcast (d a : XReg) (imm : BitVec 8) (w : CtlP2) (s : State) : Out := collCommand .bcast d a imm w s
/-- COLL_SCAN (R297). -/
def execCollScan (d a : XReg) (imm : BitVec 8) (w : CtlP2) (s : State) : Out := collCommand .scan d a imm w s
/-- COLL_MAXIDX (R297). -/
def execCollMaxidx (d a : XReg) (imm : BitVec 8) (w : CtlP2) (s : State) : Out := collCommand .maxidx d a imm w s

end Sys2Proof.Machine
end

