-- ==== Sys2Proof/Machine/Rect.lean ====
section
/-! DEFINITION. Where a region may stand: rectangles, features, the L1 mode, the placement table and the tile map (R20,
R36, R140, R331 to R333, R348, R388, R410, R446, R453, R455). -/

namespace Sys2Proof.Machine

/-! ### Rectangles -/

/-- The tiles of a rectangle, by row. -/
def rectOf (p : Place) (w h : Nat) : List Nat :=
  (List.range h).flatMap fun ty => (List.range w).map fun tx => ptOf p.die p.cluster (p.anchor + 8 * ty + tx)

/-- The rectangle lies within one cluster of the package (R20). -/
def rectInside (p : Place) (w h : Nat) : Bool :=
  decide (p.die < 8 ∧ p.cluster < 6 ∧ p.anchor < 96 ∧ 1 ≤ w ∧ 1 ≤ h ∧ p.anchor % 8 + w ≤ 8 ∧ p.anchor / 8 + h ≤ 12)

/-- TFENCE of a tile, with the bits that self-test has set (R410). -/
def State.tfence (s : State) (pt : Nat) : Word64 :=
  s.reg (ptDie pt) 0x65 (pt % 576) ||| BitVec.ofNat 64 (tgetD s.testFence pt 0 % 8192)

/-- The tile is fenced (R410). -/
def State.fenced (s : State) (pt : Nat) : Bool := decide (fld (s.tfence pt) 0 11 ≠ 0)

/-- Another context's migration has reserved the tile (R348). -/
def State.reserved (s : State) (c : Option Nat) (pt : Nat) : Bool :=
  s.ctxs.any fun q => some q.1 != c && (match q.2.migr with
    | some a => (rectOf { q.2.place with anchor := a } q.2.width q.2.height).contains pt
    | none => false)

/-- The tile may be placed or moved on by a context; its own tiles count as free (R36, R331, R348, R410, R453, R455). -/
def State.tileFree (s : State) (c : Option Nat) (pt : Nat) : Bool :=
  pt != 0 && !s.fenced pt && !s.noPlace.contains pt && (s.die (ptDie pt)).up && !(s.die (ptDie pt)).noTiles &&
  !s.reserved c pt && (match s.owner pt with | none => true | some o => some o == c)

/-- The rectangle is free (R331). -/
def State.rectFree (s : State) (c : Option Nat) (p : Place) (w h : Nat) : Bool :=
  rectInside p w h && (rectOf p w h).all (s.tileFree c)

/-! ### Features (R333) -/

/-- The bits that a tile offers. -/
def State.tileOffers (s : State) (pt : Nat) : Word64 :=
  if fld (s.tfence pt) 11 2 = 0 then 0xF7F else 0xF5F

/-- The bits that a die offers, none where it has stopped: FAR, PEER and COLL need its I/O-die port, FAR every CXL port, PEER a
live port, QUORUM a stack in service (R333, R442, R446, R455). -/
def State.dieOffers (s : State) (d : Nat) : Word64 :=
  let io := s.linkUp d 2
  let far := io && (List.range 4).all fun q => s.linkUp 0 (19 + q)
  let peer := io && (List.range 16).any fun j => s.linkUp 0 (3 + j)
  let quorum := [0, 1].any fun k => !(s.die d).stackOff.contains k
  if (s.die d).up then BitVec.ofNat 64 (0x7F + b2n far * 2 ^ 8 + b2n peer * 2 ^ 9 + b2n quorum * 2 ^ 10 + b2n io * 2 ^ 11) else 0

/-- A die and tiles satisfy a mask (R333). -/
def State.satisfies (s : State) (mask : Word64) (d : Nat) (pts : List Nat) : Bool :=
  let need := setFld mask 7 1 0
  pts.all fun pt => need &&& ~~~(s.tileOffers pt &&& s.dieOffers d) == 0

/-- The regions that hold tiles of a cluster. -/
def State.regionsOn (s : State) (cl : Nat) : List Nat :=
  (s.ctxs.filter fun p => isRegionId p.1 && p.2.onTiles && decide (p.2.place.die * 6 + p.2.place.cluster = cl)).map (·.1)

/-- The cluster's L1 mode agrees with a mask, or the cluster holds no other region (R140, R333). -/
def State.l1Agrees (s : State) (mask : Word64) (c : Option Nat) (cl : Nat) : Bool :=
  (s.cl cl).fused == bit mask 7 || (s.regionsOn cl).all fun r => some r == c

/-- A cluster that holds no other region takes the L1 mode of the region that comes (R140); where the mode changes, the
lines of its L1s are replaced, since a line stands elsewhere in the other mode (log entry 25). -/
def State.takeL1 (s : State) (mask : Word64) (c : Nat) (cl : Nat) : State :=
  if (s.regionsOn cl).all (· == c) ∧ (s.cl cl).fused ≠ bit mask 7 then
    let s1 := s.setCl cl { s.cl cl with fused := bit mask 7 }
    { s1 with l1 := s1.l1.filter fun e => ptCl e.pt != cl }
  else s

/-- A context may stand on a rectangle (R331, R333). -/
def State.mayStand (s : State) (mask : Word64) (c : Option Nat) (p : Place) (w h : Nat) : Bool :=
  s.rectFree c p w h && s.satisfies mask p.die (rectOf p w h) && s.l1Agrees mask c (p.die * 6 + p.cluster)

/-! ### The placement table (R332, R388) -/

/-- The instance of a die's valid context entry for a context. -/
def State.entryOf (s : State) (d c : Nat) : Option Nat :=
  (List.range 1024).find? fun i => let w := s.reg d 0x56 i; bit w 63 && decide (fld w 0 16 = c)

/-- A free instance of a die's context entries. -/
def State.entryFree (s : State) (d : Nat) : Option Nat := (List.range 1024).find? fun i => !bit (s.reg d 0x56 i) 63

/-- A context's entry says where it stands; a new entry has no save area (R388). -/
def State.writeEntry (s : State) (c : Nat) (p : Place) : State :=
  match s.entryOf p.die c with
  | some i => s.setReg p.die 0x56 i (setFld (setFld (s.reg p.die 0x56 i) 24 3 p.cluster) 16 7 p.anchor)
  | none =>
    match s.entryFree p.die with
    | some i => s.setReg p.die 0x56 i (BitVec.ofNat 64 (2 ^ 63 + p.cluster * 2 ^ 24 + p.anchor * 2 ^ 16 + c))
    | none => s

/-- The device finds a context: by its ID among the valid entries of its die (R388). -/
def State.finds (s : State) (c : Nat) : Bool := (s.entryOf (s.ctx c).place.die c).isSome

/-- A context's entry is cleared (R65). -/
def State.clearEntry (s : State) (d c : Nat) : State :=
  match s.entryOf d c with
  | some i => s.setReg d 0x56 i 0
  | none => s

/-- SAVEPA of a context, as a physical address; 0 is none (R388). -/
def State.savePa (s : State) (d c : Nat) : Nat :=
  match s.entryOf d c with
  | some i => fld (s.reg d 0x56 i) 27 36 * 65536
  | none => 0

/-- The instance of a logical tile's map entry (R388). -/
def mapInst (cl t : Nat) : Nat := 1024 + 96 * (cl % 6) + t

/-- The logical tile that maps to a physical tile. -/
def State.logical (s : State) (pt : Nat) : Nat :=
  ((List.range 96).find? fun t => s.ptile (ptCl pt) t == pt).getD (ptTile pt)

/-- Logical tile `l` of a cluster takes physical tile `n`; the logical tile that had it takes the one that `l` had
(R388). -/
def State.mapTile (s : State) (cl l n : Nat) : State :=
  let old := ptTile (s.ptile cl l)
  let other := s.logical (cl * 96 + n)
  (s.setReg (cl / 6) 0x56 (mapInst cl other) (BitVec.ofNat 64 old)).setReg (cl / 6) 0x56 (mapInst cl l) (BitVec.ofNat 64 n)

/-- The logical tiles `ls` of a cluster take the tiles of a rectangle in order (R388); on another cluster than the
context's own, only where no region stands on the tiles that they had. -/
def State.mapRect (s : State) (c : Nat) (ls : List Nat) (pts : List Nat) : State :=
  match pts with
  | [] => s
  | pt :: _ =>
    let cl := ptCl pt
    let clash := ls.any fun l => match s.owner (s.ptile cl l) with | some o => o ≠ c | none => false
    if clash then s else (ls.zip pts).foldl (fun s p => s.mapTile cl p.1 (ptTile p.2)) s

end Sys2Proof.Machine
end

