-- ==== Sys2Proof/Machine/Image.lean ====
section
/-! DEFINITION. The saved image of a region: what it holds, and how it leaves and enters tiles (R92, R324, R341, R342,
R349, R350, R432). -/

namespace Sys2Proof.Machine

/-! ### Numbers of tiles that change with the place -/

/-- A buffer with its tile renamed. -/
def bufMove (f : Nat → Nat) : BufId → BufId
  | .cuIn t u k => .cuIn (f t) u k
  | .cuQ t u k => .cuQ (f t) u k
  | .mx t => .mx (f t)
  | .mu t u => .mu (f t) u
  | .ag t g => .ag (f t) g
  | .elastic t k => .elastic (f t) k
  | .elasticCtl t k => .elasticCtl (f t) k

/-- A request of a loop with its tile renamed. -/
def RotReq.move (f : Nat → Nat) : RotReq → RotReq
  | .join t pt u => .join t (f pt) u
  | .probe pt u => .probe (f pt) u
  | r => r

/-- A request on its way with its tile renamed. -/
def RotIn.move (f : Nat → Nat) (r : RotIn) : RotIn := { r with pt := f r.pt, req := r.req.move f }

/-- A table with its keys renamed. -/
def tmapKeys {α : Type} (f : Nat → Nat) (t : Tbl α) : Tbl α := t.foldl (fun a p => tset a (f p.1) p.2) []

/-- A replay record with its tiles renamed. -/
def Replay.move (f : Nat → Nat) (r : Replay) : Replay :=
  let stream (k : Nat) : Nat := if k < 2 ^ 20 then unitKey (f (k / 8)) (k % 8) else muStream (f ((k - 2 ^ 20) / 64)) ((k - 2 ^ 20) % 64)
  { r with
    units := tmapKeys (fun k => unitKey (f (k / 8)) (k % 8)) r.units
    acc := tmapKeys f r.acc
    streams := tmapKeys stream r.streams }

/-- A context with its tiles renamed: sinks, marks, replay records and loops. -/
def Ctx.move (f : Nat → Nat) (x : Ctx) : Ctx :=
  let key (k : Nat) : Nat := sinkKey (f (k / 64)) (k % 64)
  { x with
    sinks := x.sinks.map key, sinksDone := x.sinksDone.map key
    barOut := x.barOut.map fun p => (p.1, p.2.map key)
    marks := x.marks.map fun p => (p.1, p.2.move f)
    replay := x.replay.map fun p => (p.1, p.2.move f)
    loops := x.loops.map fun p => (p.1, { p.2 with
      queue := p.2.queue.map (·.move f), inbound := p.2.inbound.map (·.move f) }) }

/-! ### Bytes of a tile's own storage -/

/-- The cells of a range of a memory, from its start. -/
def memCut (m : List Host.Cell) (lo n : Nat) : List Host.Cell :=
  (m.filter fun c => decide (lo ≤ c.1 ∧ c.1 < lo + n)).map fun c => (c.1 - lo, c.2)

/-- A range of a memory replaced by cells given from its start. -/
def memPaste (m : List Host.Cell) (lo n : Nat) (cs : List Host.Cell) : List Host.Cell :=
  cs.foldl (fun m c => memSet m (lo + c.1) c.2) (m.filter fun c => !decide (lo ≤ c.1 ∧ c.1 < lo + n))

/-- Marks of a range, from its start. -/
def markCut (l : List Nat) (lo n : Nat) : List Nat := (l.filter fun k => decide (lo ≤ k ∧ k < lo + n)).map (· - lo)

/-- Marks of a range replaced. -/
def markPaste (l : List Nat) (lo n : Nat) (ks : List Nat) : List Nat :=
  (l.filter fun k => !decide (lo ≤ k ∧ k < lo + n)) ++ ks.map (lo + ·)

/-! ### Leaving the tiles and entering them -/

/-- The image of a region as it stands (R342). -/
def State.takeImage (s : State) (c : Nat) (feature : Word64) : Saved :=
  let x := s.ctx c
  let ts := x.tiles
  let ix (pt : Nat) : Nat := ts.idxOf pt
  let mine (b : BufId) : Bool := x.holds (bufPt b)
  { id := c, ctx := x.move ix, tiles := ts.map s.tile
    spad := ts.map fun pt => memCut s.spad (spadKey pt 0) 524288
    opnd := ts.map fun pt => memCut s.opnd (opndKey pt 0 0) 262144
    spadPois := ts.map fun pt => markCut s.spadPoison (pt * 8192) 8192
    opndPois := ts.map fun pt => markCut s.opndPoison (pt * 4096) 4096
    flights := (s.flights.filter fun f => x.holds f.pt).map fun f => { f with pt := ix f.pt }
    arriving := (s.arriving.filter fun p => mine p.1).map fun p => (bufMove ix p.1, p.2)
    ctlArr := (s.ctlArriving.filter fun f => mine f.buf).map fun f => { f with buf := bufMove ix f.buf }
    elastic := (s.elastic.filter fun p => mine p.1).map fun p => (bufMove ix p.1, p.2)
    elasticC := (s.elasticCtl.filter fun p => mine p.1).map fun p => (bufMove ix p.1, p.2)
    used := (s.used.filter fun p => mine p.1).map fun p => (bufMove ix p.1, p.2)
    returns := (s.returns.filter fun p => mine p.1).map fun p => (bufMove ix p.1, p.2)
    feature := feature }

/-- The tiles of a region are given up: their units, tokens and credits go (R65, R341); the lines of their L1s stay
(R317). -/
def State.dropTiles (s : State) (x : Ctx) : State :=
  let mine (b : BufId) : Bool := x.holds (bufPt b)
  { s with
    tiles := x.tiles.foldl tdel s.tiles
    flights := s.flights.filter fun f => !x.holds f.pt
    arriving := s.arriving.filter fun p => !mine p.1
    ctlArriving := s.ctlArriving.filter fun f => !mine f.buf
    elastic := s.elastic.filter fun p => !mine p.1
    elasticCtl := s.elasticCtl.filter fun p => !mine p.1
    used := s.used.filter fun p => !mine p.1
    returns := s.returns.filter fun p => !mine p.1 }

/-- Held and parked requests look for their places again, now on the tile where they stand. -/
def MuReq.refreshed (r : MuReq) : MuReq :=
  if r.hold && r.open then { r with st := .fresh, elems := [] } else r

/-- A memory unit as an image gives it back. -/
def Mu.refreshed (m : Mu) : Mu := m.mapReqs (·.refreshed)

/-- The image's contents enter the tiles of the context's place (R343, R349).  The context itself is set by the
caller. -/
def State.putTiles (s : State) (c : Nat) (im : Saved) (p : Place) : State :=
  let pts := rectOf p im.ctx.width im.ctx.height
  let at' (i : Nat) : Nat := pts.getD i 0
  let s1 := (pts.zip im.tiles).foldl (fun s q =>
    s.setTile q.1 { q.2 with mu0 := q.2.mu0.refreshed, mu1 := q.2.mu1.refreshed }) s
  let s2 : State := { s1 with
    spad := (pts.zip im.spad).foldl (fun m q => memPaste m (spadKey q.1 0) 524288 q.2) s1.spad
    opnd := (pts.zip im.opnd).foldl (fun m q => memPaste m (opndKey q.1 0 0) 262144 q.2) s1.opnd
    spadPoison := (pts.zip im.spadPois).foldl (fun m q => markPaste m (q.1 * 8192) 8192 q.2) s1.spadPoison
    opndPoison := (pts.zip im.opndPois).foldl (fun m q => markPaste m (q.1 * 4096) 4096 q.2) s1.opndPoison
    flights := s1.flights ++ im.flights.map fun f => { f with pt := at' f.pt }
    arriving := s1.arriving ++ im.arriving.map fun q => (bufMove at' q.1, q.2)
    ctlArriving := s1.ctlArriving ++ im.ctlArr.map fun f => { f with buf := bufMove at' f.buf }
    elastic := s1.elastic ++ im.elastic.map fun q => (bufMove at' q.1, q.2)
    elasticCtl := s1.elasticCtl ++ im.elasticC.map fun q => (bufMove at' q.1, q.2)
    used := s1.used ++ im.used.map fun q => (bufMove at' q.1, q.2)
    returns := s1.returns ++ im.returns.map fun q => (bufMove at' q.1, q.2) }
  s2.modCtx c fun x => { (x.move at') with place := p }

/-- The accesses that a region's memory units have accepted have been performed; those that a pending fault or a holding
buffer keeps are saved unperformed (R324, R424, R432). -/
def State.accessesDone (s : State) (c : Nat) : Bool :=
  (s.ctx c).tiles.all fun pt => [false, true].all fun u => (s.mu pt u).reqs.all fun r =>
    r.performed || r.hold || r.onTlbi || (match r.st with
      | .failed => true
      | .parked va => s.xlPend.any fun f => s.serves f.walk (ptCl pt) (s.root c) va
      | _ => false) ||
    (match (s.mu pt u).stopAt with | some n => decide (n ≤ r.num) | none => false)

/-! ### The header (R342) -/

/-- The code of a state, in the order of R65. -/
def CtxSt.code : CtxSt → Nat
  | .free => 0 | .loading => 1 | .ready => 2 | .running => 3 | .waiting => 4 | .draining => 5
  | .suspended => 6 | .migrating => 7 | .faulted => 8 | .retired => 9

/-- The 64 bytes of the header; `len` is LENGTH. -/
def Saved.header (im : Saved) (len : Nat) : List Byte :=
  natBytes 0x31535843 4 ++ natBytes 1 2 ++ natBytes im.ctx.unfin 2 ++ natBytes im.id 2 ++ natBytes im.ctx.haltSt.code 1 ++
  natBytes im.ctx.prio 1 ++ natBytes im.ctx.width 1 ++ natBytes im.ctx.height 1 ++ natBytes 0 2 ++
  natBytes im.feature.toNat 8 ++ natBytes len 8 ++ natBytes im.ctx.haltCyc 8 ++ natBytes 0 24

/-- FEATURE of a context: that of its launch. -/
def State.featureOf (s : State) (c : Nat) : Word64 := match s.launchOf c with | some (_, l) => l.feature | none => 0

/-- The header at an address is that of an image (R342). -/
def State.savedHeader (s : State) (pa : Nat) : Bool :=
  decide (memNat s.mem pa 4 = 0x31535843 ∧ memNat s.mem (pa + 4) 2 = 1)

/-- The image that stands at a physical address: its header, and a body as an SXK-440 wrote it, there or elsewhere (R342;
log entry 23). -/
def State.imageAt (s : State) (pa : Nat) : Option Saved :=
  let n := memNat s.mem (pa + 64) 8
  let rest := Config.imageBody n
  if s.savedHeader pa ∧ memBytes s.mem (pa + 72) rest.length = rest then tget s.written n else none

/-- The image of a suspended context, from wherever it stands (R341). -/
def State.imageOf (s : State) (c : Nat) : Option Saved :=
  match tget s.staged c with
  | some im => some im
  | none => (s.ctx c).savedAt.bind s.imageAt

/-- An image is written to a physical address: its header and its body (R341, R342). -/
def State.writeImage (s : State) (im : Saved) (pa : Nat) : State :=
  let rest := Config.imageBody s.nextImage
  { s with
    nextImage := s.nextImage + 1, written := tset s.written s.nextImage im
    mem := memPut s.mem pa (im.header (72 + rest.length) ++ natBytes s.nextImage 8 ++ rest) }

end Sys2Proof.Machine
end

