-- ==== Sys2Proof/Machine/Iterate.lean ====
section
/-! DEFINITION. The iteration-space counter and the address generators (R38, R68, R69, R194, R195, R279, R286). -/

namespace Sys2Proof.Machine

/-- LEVELS of an address generator (R194). -/
def Ag.nlevels (a : Ag) : Nat := fld a.frames[0] 189 3
/-- RANK of an address generator (R194). -/
def Ag.rank (a : Ag) : Nat := fld a.frames[0] 186 3
/-- ITSTART: the start input is fed by the counter (R194). -/
def Ag.itstart (a : Ag) : Bool := bit a.frames[0] 185
/-- BOUND of a level (R194). -/
def Ag.bound (a : Ag) (l : Nat) : Nat := fld a.frames[0] (32 * l) 32
/-- ORIGIN of a coordinate (R194). -/
def Ag.origin (a : Ag) (k : Nat) : Nat := fld a.frames[1] (32 * k) 32
/-- ISTEP of a coordinate (R194). -/
def Ag.istep (a : Ag) (k : Nat) : Int := signedOf 32 (fld a.frames[2] (32 * k) 32)
/-- STEP of a level and coordinate: 16 bits of the 512 bits of INDEX 3 and 4 (R194). -/
def Ag.stepOf (a : Ag) (l k : Nat) : Int :=
  let b := 16 * (5 * l + k)
  signedOf 16 (if b < 256 then fld a.frames[3] b 16 else fld a.frames[4] (b - 256) 16)

/-- The tuple of a start index and level counters (R195). -/
def Ag.tuple (a : Ag) (i : Nat) (js : List Nat) : List Nat :=
  (List.range a.rank).map fun k =>
    patternOf 32 ((a.origin k : Int) + (i : Int) * a.istep k +
      ((List.range a.nlevels).map fun l => (js.getD l 0 : Int) * a.stepOf l k).sum)

/-- The next level counters, level 0 fastest; none after the last (R195). -/
def nextLevels (bound : Nat → Nat) : Nat → List Nat → Option (List Nat)
  | _, [] => none
  | l, j :: js => if j + 1 < bound l then some ((j + 1) :: js) else (nextLevels bound (l + 1) js).map (0 :: ·)

/-- A tuple token (R195). -/
def tupleToken (cs : List Nat) : Token :=
  dataToken (payloadOf 32 cs) 0 (BitVec.ofNat 32 (cs.headD 0)) false

/-- The memory units of the tile to which a generator's tuples pass straight (R193). -/
def State.agUsers (s : State) (pt : Nat) (g : Bool) : List Bool :=
  [false, true].filter fun u => decide (fld (s.mu pt u).cfg 86 2 = (if g then 2 else 1))

/-- The switch input of a generator's output (R191). -/
def agOut (g : Bool) : Nat := if g then 0x2E else 0x2D

/-- A generator may emit: a place for the tuple at each memory unit that takes it straight, else credits on its way
through the switch (R193). -/
def State.agReady (s : State) (pt : Nat) (g : Bool) : Bool :=
  if s.agUsers pt g = [] then s.canEmit pt [agOut g] else (s.agUsers pt g).all fun u => (s.mu pt u).tuples.isEmpty

/-- A token leaves a generator: straight to the units that name it, else through the switch where an entry carries it on
(R193). -/
def State.agEmit (s : State) (pt : Nat) (g : Bool) (t : Token) : State :=
  let us := s.agUsers pt g
  if us = [] then (if ((s.tile pt).sw.dataOf (agOut g)).isEmpty then s else s.emit pt (agOut g) t)
  else (us.foldl (fun s u => s.setMu pt u { s.mu pt u with tuples := (s.mu pt u).tuples ++ [t] }) s).touch pt .tok

/-- The head start token of a generator is consumed. -/
def State.agNext (s : State) (pt : Nat) (g : Bool) : State :=
  let a := s.ag pt g
  let s1 := (s.setAg pt g { a with start := a.start.tail, levels := [] }).touch pt .tok
  if a.itstart then s1 else s1.free (.ag pt g)

/-- AG_TUPLE_EMIT: a generator emits its next tuple for the start token at its head, or passes a mark on (R195, R397, R399; log
entry 75). -/
def execAgTupleEmit (t : Nat) (g : Bool) (s : State) : Out :=
  let a := s.ag t g
  if !s.active t then stall s
  else match a.start with
    | [] => stall s
    | tok :: _ =>
      if (!tok.isMark && tok.poison) || tok.mismatch then .next (s.consumePoison t (if g then 6 else 5) 0)
      else if !s.agReady t g then stall s
      else if tok.isMark then .next ((s.agEmit t g tok).agNext t g)
      else
        let js := if a.levels = [] then List.replicate a.nlevels 0 else a.levels
        let tup := tupleToken (a.tuple (elemAt tok.payload 64 0) js)
        let k := s.checkedOnce t (if g then 6 else 5) (some tup.residue.toNat)
        let s1 := k.1.agEmit t g { tup with poison := k.2 }
        match nextLevels a.bound 0 js with
        | some js' => .next (s1.setAg t g { s1.ag t g with levels := js' })
        | none => .next (s1.agNext t g)

/-! ### The counter -/

/-- The generators that the counter of a region feeds (R38, R194). -/
def State.fed (s : State) (c : Nat) : List (Nat × Bool) :=
  (s.ctx c).tiles.flatMap fun pt => [false, true].filterMap fun g =>
    let a := s.ag pt g
    if a.itstart ∧ a.nlevels ≠ 0 then some (pt, g) else none

/-- Every start buffer that the counter feeds has room (R38). -/
def State.fedRoom (s : State) (c : Nat) : Bool := (s.fed c).all fun p => decide ((s.ag p.1 p.2).start.length < 4)

/-- The counter sends a token to every generator it feeds; the token enters the region there (R38, R421). -/
def State.feedAll (s : State) (c : Nat) (t : Token) : State :=
  (s.fed c).foldl (fun s p =>
    ((s.setAg p.1 p.2 { s.ag p.1 p.2 with start := (s.ag p.1 p.2).start ++ [t] }).touch p.1 .tok).modCtx c
      fun x => x.recordIn (unitKey p.1 (if p.2 then 6 else 5)) t) s

/-- The region's counter may act: its graph fires, a step runs and has not sent its EOS, and no reassignment stops it
(R38, R338). -/
def Ctx.counting (x : Ctx) : Bool := x.st.fires && x.stepOn && !x.eosSent

/-- Something waits for the region's next iteration boundary (R68, R279, R286). -/
def Ctx.atBoundary (x : Ctx) : Bool := !x.steals.isEmpty || !x.barPend.isEmpty

/-- The reply to a steal request, a release by the victim: the range reaches the thief (R68, R313). -/
def State.stealReply (s : State) (victim thief lo hi : Nat) : State :=
  (s.raceRelease victim (objReply thief)).modCtx thief fun x => { x with stealGot := some (lo, hi) }

/-- The place of a request in the order in which a context handles them: by CYCLE of arrival, in one CYCLE its own SPLIT
first, then by context id (R69, R279). -/
def stealBefore (c : Nat) (p q : Nat × Nat) : Bool :=
  decide (p.1 < q.1) || (p.1 == q.1 && (p.2 == c || (q.2 != c && decide (p.2 ≤ q.2))))

/-- A request arrives at a context. -/
def Ctx.asked (x : Ctx) (c : Nat) (q : Nat × Nat) : Ctx :=
  { x with steals := x.steals.filter (stealBefore c · q) ++ [q] ++ x.steals.filter (fun p => !stealBefore c p q) }

/-- The state of a context that runs no more. -/
def CtxSt.dead : CtxSt → Bool
  | .faulted | .retired | .free => true
  | _ => false

/-- STEAL_REQUEST_HANDLE: at a boundary, once every request of the CYCLE is in, the victim halves its remaining range and
replies, a release; without a step, or when it will run no more, it replies with the empty range, and so to a request that
came while no step ran, which goes first (R68, R69, R278). -/
def execStealRequestHandle (c : Nat) (s : State) : Out :=
  let x := s.ctx c
  match x.owed, x.steals with
  | thief :: rest, _ =>
    if x.st.dead ∨ s.covered c x.stepNo .device then .next ((s.setCtx c { x with owed := rest }).stealReply c thief 0 0) else stall s
  | [], [] => stall s
  | [], (came, thief) :: rest =>
    if thief = c then stall s
    else
      let s1 := s.setCtx c { x with steals := rest }
      let live := match x.st with | .running | .waiting | .draining => true | _ => false
      if x.st.dead then .next (s1.stealReply c thief 0 0)
      else if !s.covered c x.stepNo .device then stall s
      else if !x.stepOn then .next (s1.stealReply c thief 0 0)
      else if !live ∨ came = s.cycle then stall s
      else
        let n := x.limit - x.next
        if n ≥ 2 then
          let mid := x.next + (n + 1) / 2
          .next ((s1.modCtx c fun y => { y with limit := mid }).stealReply c thief mid x.limit)
        else .next (s1.stealReply c thief 0 0)

/-- SPLIT_APPLY: the region's own split takes effect at a boundary (R279). -/
def execSplitApply (c : Nat) (s : State) : Out :=
  let x := s.ctx c
  match x.steals, x.hold with
  | h :: rest, .split d p =>
    if h.2 ≠ c ∨ !x.st.fires then stall s
    else
      let mid := if x.stepOn then Nat.min (Nat.max p x.next) x.limit else x.limit
      let y := ({ x with steals := rest, limit := mid }.setX d (BitVec.ofNat 64 mid)).setX (xnext d 1) (BitVec.ofNat 64 x.limit)
      .next ((s.setCtx c y).complete c)
  | _, _ => stall s

/-- BARI_INJECT: the counter sends a barrier token in place of an index; the mark's snapshot begins (R286, R421). -/
def execBariInject (c : Nat) (s : State) : Out :=
  let x := s.ctx c
  match x.barPend with
  | [] => stall s
  | m :: rest =>
    if x.counting && x.steals.isEmpty && s.fedRoom c then
      let s1 := s.setCtx c { x with barPend := rest, barOut := x.barOut ++ [(m, [])], marks := tset x.marks m {} }
      let s2 := s1.feedAll c (barrierToken m)
      .next (match x.hold with | .bari n false d => if n = m then s2.completeBari c d m else s2 | _ => s2)
    else stall s

end Sys2Proof.Machine
end

