-- ==== Sys2Proof/Machine/Region.lean ====
section
/-! DEFINITION. Region commands and the Solstice detector (R38, R41, R55 to R58, R68, R69, R73, R86, R273, R277 to R279,
R286). -/

namespace Sys2Proof.Machine

/-! ### The Solstice detector -/

/-- A buffer of a context's tiles. -/
def Ctx.hasBuf (x : Ctx) (b : BufId) : Bool := x.holds (bufPt b)

/-- The tokens that an address generator, a matrix node or a memory unit of a tile holds, and those in its buffers (R55; log
entry 74): a drain counts once until its last token has left, and a mark that waits in a memory unit counts. -/
def Tile.tokens (t : Tile) : Nat :=
  let cu (c : Cu) : Nat := (c.ins.toList.map List.length).sum
  let marks (m : Mu) : Nat := (m.items.filter fun i => match i with | .req _ => false | _ => true).length
  cu t.cu0 + cu t.cu1 + t.mx.queue.length + t.mx.running.length + (if t.mx.out.isEmpty then 0 else 1) + t.mu0.buf.length +
  t.mu1.buf.length + marks t.mu0 + marks t.mu1 + t.mu0.tuples.length + t.mu1.tuples.length + t.ag0.start.length +
  t.ag1.start.length

/-- TOK: tokens in the region's buffers or on their way to one, and the work that its units hold (R55).  Of a rotating loop
it counts the staging queue, its port's channel buffer, alone (log entry 74). -/
def State.tok (s : State) (c : Nat) : Nat :=
  let x := s.ctx c
  (s.flights.filter fun f => x.holds f.pt).length + (s.arriving.filter fun p => x.hasBuf p.1).length +
  ((s.elastic.filter fun p => x.hasBuf p.1).map fun p => p.2.length).sum + (x.loops.map fun l => l.2.staging.length).sum +
  (x.tiles.map fun pt => (s.tile pt).tokens).sum

/-- RET: buffer-slot returns in flight (R55). -/
def State.ret (s : State) (c : Nat) : Nat := ((s.returns.filter fun p => (s.ctx c).hasBuf p.1).map (·.2)).sum

/-- MEM: requests that memory units hold (R55, R308). -/
def State.memCtr (s : State) (c : Nat) : Nat :=
  ((s.ctx c).tiles.map fun pt => (s.mu pt false).reqs.length + (s.mu pt true).reqs.length).sum

/-- CTL: control tokens in flight or in a buffer (R55). -/
def State.ctl (s : State) (c : Nat) : Nat :=
  let x := s.ctx c
  let cu (c : Cu) : Nat := (c.qs.toList.map List.length).sum
  (s.ctlArriving.filter fun f => x.hasBuf f.buf).length +
  ((s.elasticCtl.filter fun p => x.hasBuf p.1).map fun p => p.2.length).sum +
  (x.tiles.map fun pt => cu (s.cu pt false) + cu (s.cu pt true)).sum

/-- ENG: engine operations outstanding that target the region (R55, R57, R288). -/
def State.eng (s : State) (c : Nat) : Nat :=
  (s.ctxs.map fun p => (p.2.ops.filter fun o => !o.done && o.raised.contains c).length).sum

/-- A counter of a region (R55). -/
def State.counter (s : State) (c : Nat) : Ctr → Nat
  | .tok => s.tok c
  | .ret => s.ret c
  | .mem => s.memCtr c
  | .ctl => s.ctl c
  | .eng => s.eng c

/-- Every counter of the region reads zero (R56). -/
def State.countersZero (s : State) (c : Nat) : Bool :=
  [Ctr.tok, .ret, .mem, .ctl, .eng].all fun k => s.counter c k == 0

/-- DETECTOR_SAMPLE: at a multiple of 64 the detector samples the counters; a report completes DRAIN, END and HALT that
issued in an earlier cycle, unless a pre-emption is pending, which outranks them (R56, R58, R66, R273). -/
def execDetectorSample (c : Nat) (s : State) : Out :=
  let x := s.ctx c
  if !isRegionId c ∨ !x.onTiles ∨ s.dieCycle x.place.die % 64 ≠ 0 ∨ tget s.sampled c = some s.cycle then stall s
  else
    let zero := s.countersZero c
    let report := zero && x.wasZero && !(x.changed.toList.any id)
    let s1 := { s with sampled := tset s.sampled c s.cycle }.setCtx c
      { x with wasZero := zero, changed := Vector.replicate 5 false, quiet := report }
    if !report ∨ !x.st.fires ∨ x.reassign ∨ x.preempt.isSome then .next s1
    else match x.hold with
      | .drain since =>
        if since < s.cycle then
          .next ((s1.modCtx c fun y => { y with st := .running }).complete c)
        else .next s1
      | .ending halt since =>
        if since < s.cycle then
          .next (((s1.modCtx c fun y => { y with halted := halt }).complete c).retire c fcColl)
        else .next s1
      | _ => .next s1

/-! ### Commands -/

/-- END and HALT: a region controller waits for quiescence and retires; an engine context ends its forked program
(R273). -/
def endCommand (halt : Bool) (w : CtlP2) (s : State) : Out :=
  runCmd w {
    act := fun s c _ =>
      if isRegionId c then .next (s.holdCmd c w 2 (.ending halt s.cycle))
      else if isSupId c then .next ((s.finish c w 2).modCtx c fun x => { x with st := .retired, halted := halt })
      else .next ((s.finish c w 2).endProgram c halt) } s

/-- END (R273). -/
def execEndCmd (w : CtlP2) (s : State) : Out := endCommand false w s

/-- HALT (R273). -/
def execCtlHalt (w : CtlP2) (s : State) : Out := endCommand true w s

/-- A load begins: the graph stops, and the records from a byte of section 3 are loaded one by one (R65, R185). -/
def State.startLoad (s : State) (c off : Nat) (first : Bool) : State :=
  s.modCtx c fun x => { x with st := .loading, loading := some (off, 0, first), frames := [] }

/-- CFG: waits until the previous step has ended and the region is quiescent, then loads a configuration image (R41,
R277). -/
def execCfg (a : XReg) (w : CtlP2) (s : State) : Out :=
  runCmd w {
    pre := regionOnly
    late := fun s c =>
      let off := ((s.ctx c).getX a).toNat
      match s.launchOf c with
      | none => some causeUnassigned
      | some (_, la) => trapUnless (decide (off % 40 = 0 ∧ off ≤ la.cfg.length))
    cond := fun _ _ => .idle true
    act := fun s c _ => .next ((s.holdCmd c w 2 .load).startLoad c ((s.ctx c).getX a).toNat false) } s

/-- A loop at RUN: one that has not run since its CFG starts; one that has stopped starts again (R73, R86). -/
def LoopSt.atRun (l : LoopSt) : LoopSt :=
  let fresh (x : LoopSt) : LoopSt := { x with count := 0, closedAt := none, inbound := x.inbound.map fun r => { r with due := 0 } }
  if l.stopped then fresh { l with stopped := false, closed := false, hold := 0 }
  else if l.running then l
  else fresh { l with running := true }

/-- RUN: waits until the previous step has ended, loads NEXT and LIMIT and starts the step (R38, R41, R86, R277). -/
def execRun (a b : XReg) (w : CtlP2) (s : State) : Out :=
  runCmd w {
    pre := regionOnly
    cond := fun _ _ => .idle false
    act := fun s c _ =>
      let x := s.ctx c
      let y := { x.past 2 with
        next := (x.getX a).toNat, limit := (x.getX b).toNat, stepOn := true, eosSent := false, sinksDone := []
        runSignal := some (signalOf x w), loops := x.loops.map fun l => (l.1, l.2.atRun) }
      .next (s.setCtx c y) } s

/-- A region context of a context's launch, in being or reclaimed (R278). -/
def State.sameLaunch (s : State) (c v : Nat) : Bool :=
  isRegionId v && (match s.launchOf c with | some (l, la) => la.regions.contains v || (s.ctx v).launch == some l | none => false)

/-- A steal request reaches its victim: one that runs no more, or runs no step, answers it with the empty range, which is sent
once the accesses that the release covers have been performed; any other keeps it (R69, R314). -/
def State.stealAsk (s : State) (c v : Nat) : State :=
  let y := s.ctx v
  if y.st.dead ∨ y.launch ≠ (s.ctx c).launch ∨ (!y.stepOn ∧ s.covered v y.stepNo .device) then s.stealReply v c 0 0
  else s.modCtx v fun y => if y.stepOn then y.asked v (s.cycle, c) else { y with owed := y.owed ++ [c] }

/-- STEAL: sends a steal request and waits for the reply (R68, R69, R278). -/
def execSteal (d a : XReg) (w : CtlP2) (s : State) : Out :=
  let victim (x : Ctx) : Nat := (x.getX a).toNat
  runCmd w {
    pre := regionOnly
    check := fun s c =>
      let v := victim (s.ctx c)
      trapUnless (decide (v ≠ c) && s.sameLaunch c v)
    begin := fun s c =>
      let x := s.ctx c
      if x.stealSent then s else (s.setCtx c { x with stealSent := true }).stealAsk c (victim x)
    cond := fun _ _ => .reply
    act := fun s c _ =>
      let x := s.ctx c
      let r := x.stealGot.getD (0, 0)
      let y := (x.setX d (BitVec.ofNat 64 r.1)).setX (xnext d 1) (BitVec.ofNat 64 r.2)
      .next ((s.setCtx c y).finish c w 2) } s

/-- SPLIT: takes effect at the region's next iteration boundary, or at once without a step (R279). -/
def execSplit (d a : XReg) (w : CtlP2) (s : State) : Out :=
  runCmd w {
    pre := regionOnly
    act := fun s c _ =>
      let x := s.ctx c
      if x.stepOn then
        .next ((s.setCtx c (x.asked c (s.cycle, c))).holdCmd c w 2 (.split d (x.getX a).toNat))
      else
        let l := BitVec.ofNat 64 x.limit
        .next ((s.setCtx c ((x.setX d l).setX (xnext d 1) l)).finish c w 2) } s

/-- ITER: NEXT and LIMIT (R277). -/
def execIter (d : XReg) (w : CtlP2) (s : State) : Out :=
  runCmd w { atIssue w 2 (fun s c => s.modCtx c fun x =>
    (x.setX d (BitVec.ofNat 64 x.next)).setX (xnext d 1) (BitVec.ofNat 64 x.limit)) with pre := regionOnly } s

/-- DRAIN: holds the controller until a fresh report of quiescence (R58, R65). -/
def execCtlDrain (w : CtlP2) (s : State) : Out :=
  runCmd w {
    pre := regionOnly
    act := fun s c _ =>
      .next ((s.holdCmd c w 2 (.drain s.cycle)).modCtx c fun x => { x with st := .draining }) } s

/-- BARI: a new mark, to be injected at the next boundary; XD has it when the command completes (R269, R286). -/
def execBari (d : XReg) (imm : BitVec 8) (w : CtlP2) (s : State) : Out :=
  runCmd w {
    pre := regionOnly
    act := fun s c _ =>
      let x := s.ctx c
      let m := (x.mark + 1) % 2 ^ 32
      let y := { x with mark := m, barPend := x.barPend ++ [m] }
      .next ((s.setCtx c y).holdCmd c w 2 (.bari m (imm.getLsbD 0) d)) } s

end Sys2Proof.Machine
end

