-- ==== Sys2Proof/Machine/Rotation.lean ====
section
/-! DEFINITION. Rotating loops: their stages, what happens at an arrival, the request queue and the slot-indexed entries
(R70 to R87, R91, R399, R403, R425).

One arrival carries its token through every stage of the loop: the stages of a loop act on one position each, in the
order in which the position meets them, so doing a position's stages together changes no result (log entry 13). -/

namespace Sys2Proof.Machine

/-! ### The stages of a loop -/

/-- The instruction whose first parcel is at an index of a store. -/
def Cu.viewAt (c : Cu) (i : Nat) : Option EView :=
  let p0 := c.parcel i
  if fld p0 30 2 = 3 then none
  else match eopOf (fld p0 24 6) (fld p0 20 4) with
    | none => none
    | some op => (Decode.elemView op p0 (c.store.drop (i + 1))).toOption

/-- The loop instruction of a member (R188). -/
def Cu.loopView (c : Cu) : EView := (c.viewAt (fld c.cfg 14 6)).getD (one .nop .none .none .none .none)

/-- LOOPIN of a member (R188). -/
def Cu.loopIn (c : Cu) : Nat := fld c.cfg 20 3
/-- LOOPOUT of a member (R188). -/
def Cu.loopOut (c : Cu) : Nat := fld c.cfg 56 2
/-- EXITMASK of a member (R188). -/
def Cu.exits (c : Cu) : List Nat := (List.range 4).filter fun k => bit c.cfg (58 + k)

/-- A member of loop `l`. -/
def Cu.isStage (c : Cu) (l : Nat) : Bool := c.member && decide (fld c.cfg 23 3 = l)

/-- From a switch input, the first branch that ends at a loop port of loop `l`: the unit, the token as it arrives there
and the hops. -/
def State.follow (s : State) (l : Nat) : Nat → Nat → Nat → Token → Option ((Nat × Bool) × Token × Nat)
  | 0, _, _, _ => none
  | fuel + 1, pt, code, t =>
    ((s.tile pt).sw.dataOf code).findSome? fun e =>
      let w := (s.tile pt).sw
      match destBuf pt (fld e 20 6) with
      | some (.cuIn q u k) =>
        let c := s.cu q u
        if c.isStage l && decide (c.loopIn = k.val) then some ((q, u), w.through e t, 1) else none
      | some _ => none
      | none =>
        match neighbour pt (fld e 20 6 / 8) with
        | none => none
        | some pt' => (s.follow l fuel pt' (arrivalCode (fld e 20 6)) (w.through e t)).map fun r => (r.1, r.2.1, r.2.2 + 1)

/-- The next stage after a member, the token as it arrives there, and the hops. -/
def State.nextStage (s : State) (l : Nat) (p : Nat × Bool) (t : Token) : Option ((Nat × Bool) × Token × Nat) :=
  s.follow l maxHops p.1 (outCode p.2 (s.cu p.1 p.2).loopOut) t

/-- The stages from a member up to the entry, and the hops between them; none where the cycle does not close. -/
def State.cycleFrom (s : State) (l : Nat) (entry : Nat × Bool) : Nat → Nat × Bool → Option (List (Nat × Bool) × Nat)
  | 0, _ => none
  | fuel + 1, p =>
    match s.nextStage l p {} with
    | none => none
    | some (q, _, h) =>
      if q = entry then some ([p], h)
      else (s.cycleFrom l entry fuel q).map fun r => (p :: r.1, r.2 + h)

/-- The stages of a loop of a region in order, the entry first, and the hops of the cycle (R70, R72). -/
def State.cycle? (s : State) (c l : Nat) : Option (List (Nat × Bool) × Nat) :=
  match s.loopEntry c l with
  | none => none
  | some e => s.cycleFrom l e 192 e

/-- The stages of a loop of a region. -/
def State.stages (s : State) (c l : Nat) : List (Nat × Bool) :=
  match s.cycle? c l with | some r => r.1 | none => []

/-- Latency of an operation in a TYPE (R206, R237). -/
def opLatency (op : EOp) (ty : Fmt) : Nat :=
  let fp (a b : Nat) : Nat := if ty = .bf16 then b else a
  match op with
  | .mul | .mulh | .mulhu | .mad | .dot4 | .rnsf | .rand => 3
  | .fadd | .fsub | .fmul | .ffma | .ffms | .fnma => fp 4 3
  | .frcp | .frsq | .fsqrt | .flog2 | .fexp2 | .ftanh | .fsigm => fp 8 6
  | .cvt | .dqn | .rnsb | .scale => 2
  | .qnt => 4
  | .gumb => fp 24 26
  | .redmax | .redmin | .argmax | .argmin => 2
  | .redadd | .scanx => if ty = .fp32 then 6 else if ty = .bf16 then 5 else 2
  | _ => 1

/-- The loop latency L (R72). -/
def State.loopLatency (s : State) (c l : Nat) : Nat :=
  match s.cycle? c l with
  | none => 0
  | some r => r.1.foldl (fun a p => let v := (s.cu p.1 p.2).loopView; a + opLatency v.op v.m.ty) r.2

/-! ### What a load refuses (R70, R71, R265) -/

/-- The operation may not be a loop instruction: an initiation interval above 1, control flow or rotation (R71). -/
def notLoopOp (v : EView) : Bool :=
  match v.op with
  | .gumb | .reptc | .br | .brf | .jmp | .jtab | .lpad | .waitq | .emitq | .loop
  | .rotj | .rotx | .roth | .rotr | .rotp => true
  | .rept => decide (v.m.imm.toNat > 1)
  | _ => false

/-- A member breaks R71 by itself. -/
def Cu.stageBad (c : Cu) : Bool :=
  let v := c.loopView
  let si := if bit c.cfg 26 then [fld c.cfg 1 3] else []
  notLoopOp v || v.inputs.any fun i => !i.2 || !((c.loopIn :: si).contains i.1.val)

/-- A unit that is no member fires a rotation instruction whose loop is not configured, or a member fires one (R265). -/
def State.rotRefs (s : State) (c : Nat) (u : Cu) : Bool :=
  (u.startsFrom 48 0).any fun i =>
    (match u.viewAt i with
      | some v => (match v.op with
        | .rotj | .rotx | .roth | .rotr | .rotp => u.member || (s.loopEntry c (vLoopNo v)).isNone
        | _ => false)
      | none => false)

/-- The units that a loop's breach of R70, R71 or R265 concerns; empty when there is none. -/
def State.loopBad (s : State) (c : Nat) : List (Nat × Bool) :=
  let us := (s.ctx c).units
  let cu (p : Nat × Bool) : Cu := s.cu p.1 p.2
  us.filter (fun p => (cu p).member && (cu p).stageBad) ++
  us.filter (fun p => s.rotRefs c (cu p)) ++
  (List.range 8).flatMap fun l =>
    let ms := us.filter fun p => (cu p).isStage l
    let es := ms.filter fun p => bit (cu p).cfg 26
    if ms = [] then []
    else match es with
      | [e] =>
        match s.cycle? c l with
        | none => ms
        | some r =>
          let far := ms.filter fun p => ptVf p.1 ≠ ptVf e.1
          if ms.any fun p => !(r.1.contains p) then ms
          else if far ≠ [] then far
          else
            let n := fld (cu e).cfg 7 7
            if n = 0 ∨ n > 64 ∨ n < s.loopLatency c l then [e] else []
      | _ => ms

/-! ### One stage (R74, R77, R82, R84, R399, R403) -/

/-- ISECT and UNION as a stage: the result and, on O[OB], the second token (R242). -/
def joinStage (v : EView) (o : Opnds) : Fire × Option (Nat × Option Token) :=
  match o.a, o.b with
  | .tok a, .tok b =>
    match joinHeads (v.op == .union) v.m.ty a b with
    | some j => ({ pass := j.outD }, some (natBits v.m.imm.toNat 0 2, j.outB))
    | none => ({}, none)
  | _, _ => ({}, none)

/-- What a DATA firing of an operation does, given its operands. -/
def fireOf (s : State) (v : EView) (o : Opnds) : Fire × Option (Nat × Option Token) :=
  match v.op with
  | .add | .sub | .adds | .subs | .neg | .abs | .min | .max | .minu | .maxu => (fireIadd v o, none)
  | .mul | .mulh | .mulhu | .mad => (fireImul v o, none)
  | .dot4 => (fireDot4 v o, none)
  | .and | .or | .xor | .not | .andn => (fireLogic v o, none)
  | .shl | .shr | .sar | .rol | .clz | .popc => (fireShift v o, none)
  | .cmpEq | .cmpNe | .cmpLt | .cmpLe | .cmpLtu | .cmpLeu => (fireIcmp v o, none)
  | .sel | .sela => (fireSelect v o, none)
  | .fadd | .fsub | .fmul | .ffma | .ffms | .fnma => (fireFarith v o, none)
  | .fmin | .fmax | .fminp | .fmaxp => (fireFminmax v o, none)
  | .fneg | .fabs | .fcps => (fireFsign v o, none)
  | .fcmpEq | .fcmpNe | .fcmpLt | .fcmpLe | .fcmpUn => (fireFcmp v o, none)
  | .frcp | .frsq | .fsqrt | .flog2 | .fexp2 | .ftanh | .fsigm => (fireSfu v o, none)
  | .cvt => (fireCvt v o, none)
  | .qnt => (fireQnt v o, none)
  | .dqn => (fireDqn v o, none)
  | .rnsf => (fireRnsf v o, none)
  | .rnsb => (fireRnsb v o, none)
  | .scale => (fireScale v o, none)
  | .pres => (firePres v o, none)
  | .fill | .mkab => (fireFill v o, none)
  | .cntp => (fireCntp v o, none)
  | .rand => (fireRand v o, none)
  | .gumb => (fireGumb v o, none)
  | .ldi => (fireLdi v o, none)
  | .movs => (fireMovs v o, none)
  | .incs => (fireIncs v o, none)
  | .move | .rept | .reptc => (fireMove v o, none)
  | .swz => (fireSwz v o, none)
  | .pack => (firePack v o, none)
  | .unpk => (fireUnpk v o, none)
  | .bcast => (fireBcast v o, none)
  | .isect | .union => joinStage v o
  | .tagc | .untag => (fireTag v o, none)
  | .redadd | .redmax | .redmin => (fireReduce v o, none)
  | .argmax | .argmin => (fireArg v o, none)
  | .scanx => (fireScan v o, none)
  | .drain => (fireDrain s v o, none)
  | .eose => (fireEose v o, none)
  | .bare => (fireBare v o, none)
  | .mtok => (fireMtok v o, none)
  | .orel => (fireOrel v o, none)
  | .osta => (fireOsta s v o, none)
  | .oclm =>
    match s.cur with
    | .cu pt _ =>
      match (s.mx pt).freeSlot with
      | none => ({}, none)
      | some k =>
        let n := claimNo k.val (s.mx pt).slots[k].claim
        ({ out := some (BitVec.ofNat 512 n), whole := some (BitVec.ofNat 32 n), claim := some k, breaks := true }, none)
    | _ => ({}, none)
  | .merge | .steer | .gate | .oneos | .nop | .halt | .drop | .br | .brf | .jmp | .jtab | .lpad | .waitq | .emitq | .loop
  | .rotj | .rotx | .roth | .rotr | .rotp => ({}, none)

/-- What a member's operand code reads: the loop token, the entry token, a register. -/
def Cu.stageVal (c : Cu) (tok : Token) (entry : Option Token) (x : Src) : OpVal :=
  match x with
  | .inp k | .peek k =>
    if k.val = c.loopIn then .tok tok
    else match entry with | some e => .tok e | none => .none
  | .zero => .zero
  | .none => .none
  | .c k => .reg c.cRegs[k]
  | .s k => .reg c.sRegs[k]

/-- A fault in a slot: its bit is set and the state waits there as HOLD (R84). -/
def LoopSt.freeze (x : LoopSt) (p : Nat) (t : Token) : LoopSt :=
  { x with fault := setFld x.fault p 1 1, states := tset x.states p { t with kind := .hold } }

/-- The tokens that a stage's firing puts on those of some exit ports that it has, with the slot's number (R77). -/
def State.emitExits (s : State) (pt : Nat) (u : Bool) (ports : List Nat) (p : Nat) (t : Token)
    (second : Option (Nat × Option Token)) : State :=
  (s.cu pt u).exits.foldl (fun s k =>
    let t1 : Option Token := match second with
      | some (ob, x) => if ob = k then x else some t
      | none => some t
    match (if ports.contains k then t1 else none) with
    | some x => s.emit pt (outCode u k) { x with slot := BitVec.ofNat 6 p }
    | none => s) s

/-- The control input on which a loop instruction waits, if it has one: that of its gate, or the one that a MERGE, STEER
or GATE names (R235, R238). -/
def Cu.stageCtl (c : Cu) : Option (Fin 4) :=
  let v := c.loopView
  match v.op with
  | .merge | .steer | .gate => some (Fin.ofNat 4 (natBits v.m.imm.toNat 0 2))
  | _ => if v.m.qg = .none then none else some c.qgport

/-- What a loop instruction does with the DATA token that comes: it fires, with its token on these exit ports, or the token
passes it by (R82, R235, R238; log entry 14). -/
inductive StagePass where
  | fires (ports : List Nat)
  | takes (x : Src) (ports : List Nat)
  | passes
  deriving DecidableEq, Repr

/-- What a control token says to a loop instruction. -/
def stagePass (v : EView) (b : Option Bool) : StagePass :=
  let all := List.range 4
  match v.op, b with
  | .merge, some b => .takes (if b then v.a else v.b) all
  | .steer, some b => .takes v.a (if b then all.filter (· ∈ v.outs) else [natBits v.m.imm.toNat 2 2])
  | .gate, some b => if b then .takes v.a all else .passes
  | .oneos, _ => .passes
  | _, b => (match gate v.m.qg b with | .skip => .passes | _ => .fires all)

/-- ISECT and UNION as a stage find a coordinate that does not rise (R242, R414). -/
def Cu.stageFalls (c : Cu) (v : EView) (val : Src → OpVal) : Bool :=
  match v.op with
  | .isect | .union => [v.a, v.b].any fun x => match val x with | .tok t => c.falls x t | _ => false
  | _ => false

/-- The coordinates that a stage consumes are remembered on its inputs (R242). -/
def Cu.noteStage (c : Cu) (v : EView) (val : Src → OpVal) : Cu :=
  [v.a, v.b, v.c].foldl (fun c x => match srcInput x, val x with
    | some (k, _), .tok t => c.noteCoord k (some t)
    | _, _ => c) c

/-- The first of a stage's operands whose token meets a test, with its input. -/
def stageTok (v : EView) (val : Src → OpVal) (f : Token → Bool) : Option (Nat × Token) :=
  ([v.a, v.b, v.c].filterMap fun x => match srcInput x, val x with
    | some (k, _), .tok t => some (k.val, t)
    | _, _ => none).find? fun q => f q.2

/-- The DATA token of phase `p` passes one stage: the state after it and the token that leaves; or the state with the slot
frozen, as the token stood at the stage's input: for a residue, poison, the stage's datapath, or a coordinate that does not rise,
which consumes nothing (R84, R412, R425; log entry 14). -/
def State.stageFire (s0 : State) (c l p : Nat) (m : Nat × Bool) (tok : Token) (entry : Option Token) :
    State × Option Token :=
  let s := { s0 with cur := .cu m.1 m.2 }
  let u := s.cu m.1 m.2
  let v := u.loopView
  let val := u.stageVal tok entry
  let o : Opnds := { a := val v.a, b := val v.b, c := val v.c, cRegs := u.cRegs, sRegs := u.sRegs }
  let toks := [v.a, v.b, v.c].filterMap fun x => match srcInput x, val x with | some _, .tok t => some t | _, _ => none
  let frozen (s : State) : State × Option Token := (s.setLoop c l ((s.loopOf c l).freeze p tok), none)
  let pass := stagePass v (u.stageCtl.bind fun k => s.ctlHead m.1 m.2 k)
  let taken (s : State) : State := match u.stageCtl with | some k => s.ctlTake m.1 m.2 k | none => s
  match stageTok v val Token.mismatch with
  | some q => frozen (s.residueError m.1 (cuUnit m.2) q.1 q.2)
  | none =>
  if u.stageFalls v val then
    let x := s.loopOf c l
    frozen (s.setLoop c l { x with entries := match entry with | some e => tset x.entries p e | none => x.entries })
  else match pass with
    | .passes => (taken s, some { tok with kind := .data })
    | .takes x ports =>
      let t := match val x with | .tok t => t | y => dataToken (y.payload (fmtWidth v.m.ty)) 0 0 false
      let t1 := if toks.any (·.poison) then { t with poison := true } else t
      let k := s.checkedOnce m.1 (cuUnit m.2) (some t.residue.toNat)
      if k.2 then frozen k.1
      else ((taken s).emitExits m.1 m.2 ports p t1 none, some { t1 with kind := .data })
    | .fires ports =>
      let r := fireOf s v o
      let f := r.1
      let k := s.checkedOnce m.1 (cuUnit m.2) (f.predicted v o)
      if k.2 then frozen k.1
      else
        if toks.any (·.poison) && f.consumesPoison v then
          frozen (s.tileRecord m.1 .uc (cuUnit m.2) 0x05 (match stageTok v val (·.poison) with | some q => q.1 | none => 0) 0)
        else
          let t := (f.token toks).getD tok
          let s1 := (f.writes v).foldl (fun s w => s.setS m.1 m.2 w.1 w.2) ((taken s).setCu m.1 m.2 (((taken s).cu m.1 m.2).noteStage v val))
          let s2 := (s1.flag m.1 m.2 f.flags).emitExits m.1 m.2 ports p t r.2
          let s3 := match f.ctl with | some z => s2.emitCtl m.1 m.2 z.1.val z.2 | none => s2
          (s3.firedRegion m.1 m.2 v { f with req := none }, some { t with kind := .data })

/-- The DATA token of phase `p` passes the stages from `m` on, until it returns to the entry. -/
def State.rotate (s : State) (c l p : Nat) (entryUnit : Nat × Bool) : Nat → Nat × Bool → Token → Option Token → State
  | 0, _, _, _ => s
  | fuel + 1, m, tok, entry =>
    match s.stageFire c l p m tok entry with
    | (s1, none) => s1
    | (s1, some t) =>
      match s1.nextStage l m t with
      | none => s1.setLoop c l { s1.loopOf c l with states := tset (s1.loopOf c l).states p t }
      | some (q, t', _) =>
        if q = entryUnit then s1.setLoop c l { s1.loopOf c l with states := tset (s1.loopOf c l).states p t' }
        else s1.rotate c l p entryUnit fuel q t' none

/-! ### Arrivals (R80 to R87, R91) -/

/-- The exit ports of a loop: tile and switch input. -/
def State.loopExits (s : State) (c l : Nat) : List (Nat × Nat) :=
  (s.stages c l).flatMap fun m => (s.cu m.1 m.2).exits.map fun k => (m.1, outCode m.2 k)

/-- The control outputs of a loop, which count as exit ports (R77). -/
def State.loopCtl (s : State) (c l : Nat) : List (Nat × Bool × Nat) :=
  (s.stages c l).filterMap fun m =>
    let v := (s.cu m.1 m.2).loopView
    if v.op.hasCmode && v.cmode ≠ 0 then some (m.1, m.2, v.zp.val) else none

/-- Every exit port of the loop has a credit (R77, R81). -/
def State.exitCredits (s : State) (c l : Nat) : Bool :=
  ((s.loopExits c l).all fun p => s.canEmit p.1 [p.2]) && (s.loopCtl c l).all fun z => s.canCtl z.1 z.2.1 z.2.2

/-- Every control input on which a stage waits holds a token: the entry reserves it, as it reserves credits (R73; log entry
14). -/
def State.stageTokens (s : State) (c l : Nat) : Bool :=
  (s.stages c l).all fun m => match (s.cu m.1 m.2).stageCtl with
    | some k => (s.ctlHead m.1 m.2 k).isSome
    | none => true

/-- The leave port of a loop: tile and switch input (R188). -/
def State.leavePort (s : State) (e : Nat × Bool) : Nat × Nat := (e.1, outCode e.2 (fld (s.cu e.1 e.2).cfg 62 2))

/-- The requests of R78 that name a phase as holds and releases: the last decides (R81). -/
def applyHolds (p : Nat) (hold : Word64) (q : List RotReq) : Word64 × List RotReq :=
  (q.foldl (fun h r => match r with
      | .hold k => if k = p then setFld h p 1 1 else h
      | .release k => if k = p then setFld h p 1 0 else h
      | _ => h) hold,
   q.filter fun r => match r with | .hold k | .release k => k ≠ p | _ => true)

/-- A leave request for phase `p`. -/
def isLeave (p : Nat) : RotReq → Bool
  | .leave k _ => decide (k = p)
  | _ => false

/-- A join request. -/
def isJoin : RotReq → Bool
  | .join _ _ _ => true
  | _ => false

/-- The list without its first element that meets a condition. -/
def dropFirst {α : Type} (f : α → Bool) : List α → List α
  | [] => []
  | x :: t => if f x then t else x :: dropFirst f t

/-- A mask bit. -/
def maskGet (w : Word64) (p : Nat) : Bool := bit w p
/-- A mask bit set or cleared. -/
def maskSet (w : Word64) (p : Nat) (b : Bool) : Word64 := setFld w p 1 (b2n b)

/-- The state of phase `p` recirculates as HOLD. -/
def LoopSt.recirc (x : LoopSt) (p : Nat) : LoopSt :=
  match tget x.states p with
  | some t => { x with states := tset x.states p { t with kind := .hold } }
  | none => x

/-- The masks with phase `p` given up, and its state token gone. -/
def LoopSt.vacate (x : LoopSt) (p : Nat) : LoopSt :=
  { x with valid := maskSet x.valid p false, hold := maskSet x.hold p false, fault := maskSet x.fault p false
           states := tdel x.states p }

/-- The result of a ROTJ or ROTP leaves on the credit that its firing reserved, and the unit goes on (R80, R266). -/
def State.rotResult (s : State) (pt : Nat) (u : Bool) (r : Payload) (slot : Nat) : State :=
  let c := s.cu pt u
  let v := (c.viewAt c.pos).getD (one .nop .none .none .none .none)
  let t : Token := dataToken r (BitVec.ofNat 6 slot) 0 false
  let s1 := (v.outs.map (outCode u)).foldl (fun s code =>
    State.touch { s with flights := s.flights ++ [Flight.mk pt code t] } pt .tok) s
  let s2 := match v.d with | .s k => s1.setS pt u k (BitVec.ofNat 32 (elemAt r 32 0)) | _ => s1
  (s2.setCu pt u { s2.cu pt u with rotj := none }).advance pt u v.len

/-- A join is placed in phase `p` (R80). -/
def State.placeJoin (s : State) (c l p : Nat) (x : LoopSt) : State :=
  match x.queue.find? isJoin with
  | some (.join t pt u) =>
    (s.setLoop c l { x with
      queue := dropFirst isJoin x.queue, valid := maskSet x.valid p true
      states := tset x.states p { t with kind := .hold } }).rotResult pt u (BitVec.ofNat 512 p) p
  | _ => s

/-- What ROTP reads of a loop whose clock's count is `n`; a ROTX of that count has not yet closed it (R266). -/
def LoopSt.probe (x : LoopSt) (slots n : Nat) : Payload :=
  BitVec.ofNat 512 (x.valid.toNat + x.hold.toNat * 2 ^ 64 + x.fault.toNat * 2 ^ 128 + natBits (n % slots) 0 6 * 2 ^ 192 +
    b2n (x.closed && x.closedAt != some n) * 2 ^ 198 + b2n (x.parked || x.stopped) * 2 ^ 199)

/-- What an arrival of phase `p` does (R81), rows 1 to 9 in order. -/
def State.arrive (s : State) (c l p : Nat) (e : Nat × Bool) : State :=
  let x0 := s.loopOf c l
  let h := applyHolds p x0.hold x0.queue
  let x := { x0 with hold := h.1, queue := h.2 }
  let leave := x.queue.any (isLeave p)
  let entry := tget x.entries p
  let eos : Bool := match entry with | some t => t.kind == .eos | none => false
  let port := s.leavePort e
  if maskGet x.fault p then
    s.setLoop c l (if leave then { x.vacate p with queue := dropFirst (isLeave p) x.queue } else x.recirc p)
  else if !(maskGet x.valid p) then
    if x.queue.any isJoin then s.placeJoin c l p x
    else s.setLoop c l { x with queue := x.queue.filter fun r => !(isLeave p r) }
  else if leave || eos then
    if s.canEmit port.1 [port.2] then
      let t := (tget x.states p).getD {}
      (s.setLoop c l { x.vacate p with
        queue := dropFirst (isLeave p) x.queue, entries := if eos then tdel x.entries p else x.entries }).emit
        port.1 port.2 { t with kind := .data, slot := BitVec.ofNat 6 p }
    else s.setLoop c l (x.recirc p)
  else if maskGet x.hold p then s.setLoop c l (x.recirc p)
  else match entry with
    | none => s.setLoop c l (x.recirc p)
    | some t =>
      if !s.exitCredits c l ∨ !s.stageTokens c l then s.setLoop c l (x.recirc p)
      else
        let s1 := s.setLoop c l { x with entries := tdel x.entries p }
        s1.rotate c l p e 192 e { ((tget x.states p).getD {}) with kind := .data } (some t)

/-- The loop may stop at this arrival of phase 0 (R85). -/
def State.mayStop (s : State) (c l : Nat) (e : Nat × Bool) : Bool :=
  let x := s.loopOf c l
  let port := s.leavePort e
  x.closed && x.valid == 0 && x.fault == 0 && x.queue.isEmpty && (port :: s.loopExits c l).all fun q => s.canEmit q.1 [q.2]

/-- The loop stops: an EOS leaves on every exit port and on the leave port (R85); one EOS where a port is both (log entry
14). -/
def State.loopStop (s : State) (c l : Nat) (e : Nat × Bool) : State :=
  let s1 := (s.leavePort e :: s.loopExits c l).dedup.foldl (fun s p => s.emit p.1 p.2 eosToken) s
  (s1.setLoop c l { s1.loopOf c l with stopped := true }).stepCheck c

/-- A ROTJ waits on the loop (R80, R87). -/
def LoopSt.joinWaits (x : LoopSt) : Bool := x.queue.any isJoin || x.inbound.any fun r => isJoin r.req

/-- The bytes of a token place of a record: the payload and the sideband of R42 (R88). -/
def tokenBytes (t : Token) : List Byte :=
  let kind := match t.kind with | .data => 0 | .eos => 1 | .barrier => 2 | .hold => 3 | .bad n => 4 + n.val
  let side := kind + t.slot.toNat * 2 ^ 3 + t.route.toNat * 2 ^ 9 + t.residue.toNat * 2 ^ 21 + b2n t.poison * 2 ^ 29 +
    t.coord.toNat * 2 ^ 30
  natBytes t.payload.toNat 64 ++ natBytes side 8

/-- The token of a token place of a record. -/
def tokenOf (bs : List Byte) : Token :=
  let side := natOfBytes ((bs.drop 64).take 8)
  let k := side % 8
  { payload := payloadOfBytes (bs.take 64)
    kind := if k = 0 then .data else if k = 1 then .eos else if k = 2 then .barrier else if k = 3 then .hold
      else .bad (Fin.ofNat 4 (k - 4))
    slot := BitVec.ofNat 6 (natBits side 3 6), route := BitVec.ofNat 12 (natBits side 9 12)
    residue := BitVec.ofNat 8 (natBits side 21 8), poison := natBits side 29 1 == 1
    coord := BitVec.ofNat 32 (natBits side 30 32) }

/-- A rotation record of R88 and R89. -/
def recordBytes (x : LoopSt) (saver l lat n phase0 : Nat) : List Byte :=
  let place (o : Option Token) : List Byte := match o with | some t => tokenBytes t | none => List.replicate 72 0
  let staged := x.load ++ x.staging
  let mask := (List.range n).foldl (fun a p => a + (if (tget x.entries p).isSome then 2 ^ p else 0)) 0
  natBytes (n + lat * 2 ^ 8 + staged.length * 2 ^ 16 + l * 2 ^ 20 + saver * 2 ^ 24) 8 ++
  natBytes x.valid.toNat 8 ++ natBytes x.hold.toNat 8 ++ natBytes x.fault.toNat 8 ++ natBytes mask 8 ++
  natBytes phase0 8 ++ natBytes 0 16 ++
  (List.range n).flatMap (fun p => place (if maskGet x.valid p then tget x.states p else none)) ++
  (List.range n).flatMap (fun p => place (tget x.entries p)) ++
  (List.range 4).flatMap fun i => place staged[i]?

/-- Bytes stored in scratchpad lines, in order; the poison mark of a line that is written whole goes (R88, R402). -/
def State.linesPut (s : State) : List Nat → List Byte → State
  | [], _ => s
  | q :: t, bs =>
    let now := bs.take 64
    let s1 := { s with spad := memPut s.spad (64 * q) now
                       spadPoison := if now.length = 64 then markDel s.spadPoison q else s.spadPoison }
    s1.linesPut t (bs.drop 64)

/-- The scratchpad lines of `n` bytes that start at coordinates (c0, 0, ...) of an entry, in order; none breaks R300 or
R301.  The accesses need a permission: 1 to read, 2 to write. -/
def State.recordLines (s : State) (c lt0 c0 n need : Nat) : Option (List Nat) :=
  let lt := s.viewLt c lt0
  match ltElem lt with
  | none => none
  | some f =>
    let w := fmtWidth f
    let cs : List Int := (List.range (ltRank lt)).map fun k => if k = 0 then (c0 : Int) else 0
    let b := ltBit lt w cs
    let last := c0 + (8 * n + w - 1) / w
    let inside := (List.range (ltRank lt)).all fun k => if k = 0 then decide (last ≤ ltExtent lt 0) else decide (1 ≤ ltExtent lt k)
    if !ltCodes lt ∨ ltSpace lt > 1 ∨ (ltAccess lt ≠ 3 ∧ ltAccess lt ≠ need) ∨ !inside ∨ b < 0 ∨ b % 512 ≠ 0 then none
    else
      let a := b.toNat / 8
      allSome ((List.range ((n + 63) / 64)).map fun i =>
        let m := a + 64 * i
        let line (pt off : Nat) : Nat := spadKey pt (swizzle lt off) / 64
        if ltSpace lt = 0 then (if m < 524288 then (s.anchorOf c).map fun pt => line pt m else none)
        else if m < 50331648 then some (line (s.ptile (s.homeCl c) (m / 524288)) (m % 524288)) else none)

/-- The length of a record of `n` slots (R88). -/
def recordLen (n : Nat) : Nat := 64 + 72 * (2 * n + 4)

/-- The race detector's answer for the `n` bytes in scratchpad lines that a command reads or writes (R435 to R437). -/
def State.raceLines (s : State) (c : Nat) (write : Bool) (lt : List Word64) (n : Nat) (lines : List Nat) : State × Bool :=
  lines.zipIdx.foldl (fun r q =>
    if r.2 then r
    else r.1.raceAccess c (s.homeCl c) ⟨write, false⟩ lt (.spad (q.1 / 8192) (q.1 % 8192 * 512)) (8 * Nat.min 64 (n - 64 * q.2)))
    (s, false)

/-- The last phase has been taken out: the record is written, the masks cleared and the loop parked; ROTSV completes
(R87).  The slot-indexed port's places are free again. -/
def State.saveDone (s : State) (c l saver lt0 c0 phase0 : Nat) (e : Nat × Bool) : State :=
  let x := s.loopOf c l
  let lines := (s.recordLines saver lt0 c0 (recordLen (s.loopSlots c l)) 2).getD []
  let ra := s.raceLines saver true (s.viewLt saver lt0) (recordLen (s.loopSlots c l)) lines
  if ra.2 then (ra.1.setLoop c l { x with busy := .none }).faultCtx saver fcRace 0x7E 0 ((s.ctx saver).pc % 1024)
  else
  let s1 := ra.1.linesPut lines (recordBytes x saver l (s.loopLatency c l) (s.loopSlots c l) phase0)
  let s2 := s1.setLoop c l { x with
    valid := 0, hold := 0, fault := 0, states := [], entries := [], staging := [], parked := true, busy := .none }
  let port : BufId := .cuIn e.1 e.2 (Fin.ofNat 6 (fld (s.cu e.1 e.2).cfg 1 3))
  (x.staging.foldl (fun s _ => s.free port) s2).complete saver

/-- The count c of a loop advances by one (R74). -/
def State.tickLoop (s : State) (c l : Nat) : State :=
  s.setLoop c l { s.loopOf c l with count := (s.loopOf c l).count + 1 }

/-- An arrival of a loop that nothing saves: a stop, or the arrival's row, with a loaded state entering (R81, R85, R91). -/
def State.arrival (s : State) (c l p : Nat) (e : Nat × Bool) : State :=
  let x := s.loopOf c l
  match x.busy with
  | .loading armed ts =>
    match tget ts p with
    | none => (s.setLoop c l { x with busy := .loading (armed || p == 0) ts }).arrive c l p e
    | some t =>
      if armed then
        let rest := tdel ts p
        s.setLoop c l { x with states := tset x.states p t, busy := if rest = [] then .none else .loading true rest }
      else s.setLoop c l { x with busy := .loading (p == 0) ts }
  | _ => if p = 0 ∧ s.mayStop c l e then s.loopStop c l e else s.arrive c l p e

/-- The order in which requests reach a queue: by count, then by tile and unit (R79). -/
def RotIn.before (a b : RotIn) : Bool :=
  decide (a.due < b.due ∨ (a.due = b.due ∧ (a.pt < b.pt ∨ (a.pt = b.pt ∧ b2n a.u ≤ b2n b.u))))

/-- The first of the requests on their way in that order. -/
def firstIn : List RotIn → Option RotIn
  | [] => none
  | r :: t =>
    match firstIn t with
    | none => some r
    | some q => if r.before q then some r else some q

/-- A request on its way has reached the queue before the next arrival: its count has passed, or the loop's clock does not
count (R79). -/
def LoopSt.arrived (x : LoopSt) (r : RotIn) : Bool := !x.running || x.stopped || decide (r.due < x.count)

/-- The loop saves itself from this arrival of phase 0 on (R87; log entry 14: a load's states have all entered). -/
def LoopSt.savesNow (x : LoopSt) (p : Nat) : Option (Nat × Nat × Nat) :=
  if p = 0 ∧ x.queue = [] ∧ x.load = [] ∧ !x.joinWaits ∧ x.busy = .none then x.save else none

/-- ROTATION_ARRIVAL: the next phase of a loop arrives at its entry, once every request that applies to it has reached the
queue (R74, R79, R81, R85, R87, R91).  At an arrival that allows a save and a stop the loop saves, and a parked loop does
not stop (log entry 14). -/
def execRotationArrival (c : Nat) (l : Fin 8) (s : State) : Out :=
  let x := s.loopOf c l.val
  match s.loopEntry c l.val with
  | none => stall s
  | some e =>
    if !(s.ctx c).st.fires ∨ !x.running ∨ x.stopped ∨ x.inbound.any x.arrived then stall s
    else
      let n := s.loopSlots c l.val
      let p := x.count % n
      let back (t : State) : Out := .next ({ t with cur := s.cur }.tickLoop c l.val)
      let taken (ctx lt0 c0 q phase0 : Nat) (t : State) : Out :=
        if q + 1 ≥ n then back (t.saveDone c l.val ctx lt0 c0 phase0 e)
        else back (t.setLoop c l.val { t.loopOf c l.val with busy := .saving ctx lt0 c0 (q + 1) phase0 })
      match x.busy with
      | .saving ctx lt0 c0 q phase0 => taken ctx lt0 c0 q phase0 s
      | _ =>
        match x.savesNow p with
        | some (ctx, lt0, c0) => taken ctx lt0 c0 0 (s.dieCycle (s.ctxDie c)) (s.setLoop c l.val { x with save := none })
        | none => back (if x.parked then s else s.arrival c l.val p e)

/-- A request that the queue cannot accept: ROTREQ (R414). -/
def reqBad (x : LoopSt) (n : Nat) : RotReq → Bool
  | .join _ _ _ => x.closed
  | .leave p _ | .hold p | .release p => decide (p ≥ n)
  | .probe _ _ => false

/-- ROT_REQUEST_ENQUEUE: the next request on its way reaches the loop's queue; that of ROTP reads the loop, after the
arrival of its count (R79, R266).  The queue of a loop that has stopped keeps a request until the next RUN, and ROTREQ
names the entry unit at its loop position (log entry 14). -/
def execRotRequestEnqueue (c : Nat) (l : Fin 8) (s : State) : Out :=
  let x := s.loopOf c l.val
  match firstIn x.inbound with
  | none => stall s
  | some r =>
    if !(s.ctx c).st.fires ∨ !x.arrived r then stall s
    else if reqBad x (s.loopSlots c l.val) r.req then
      match s.loopEntry c l.val with
      | some e => .next (s.faultCtx c fcRotreq (ptTile e.1) (cuUnit e.2) (fld (s.cu e.1 e.2).cfg 14 6))
      | none => stall s
    else
      let y := { x with inbound := x.inbound.erase r }
      match r.req with
      | .probe pt u =>
        let n := if x.running && !x.stopped then r.due else x.count
        .next ((s.setLoop c l.val y).rotResult pt u (x.probe (s.loopSlots c l.val) n) 0)
      | .leave _ b => .next (s.setLoop c l.val { y with
          queue := y.queue ++ [r.req], closed := y.closed || b
          closedAt := if b && !y.closed && x.running && !x.stopped then some r.due else y.closedAt })
      | _ => .next (s.setLoop c l.val { y with queue := y.queue ++ [r.req] })

/-- SLOT_ENTRY_MOVE: the head of the load area, else of the staging queue, moves into its phase's entry when that is
empty; a staged token leaves a free place behind (R76, R91). -/
def execSlotEntryMove (c : Nat) (l : Fin 8) (s : State) : Out :=
  let x := s.loopOf c l.val
  if !(s.ctx c).st.fires then stall s
  else match x.load, x.staging with
    | t :: rest, _ =>
      let p := t.slot.toNat
      if (tget x.entries p).isNone then .next (s.setLoop c l.val { x with load := rest, entries := tset x.entries p t })
      else stall s
    | [], t :: rest =>
      let p := t.slot.toNat
      match s.loopEntry c l.val with
      | none => stall s
      | some e =>
        let k := fld (s.cu e.1 e.2).cfg 1 3
        if p ≥ s.loopSlots c l.val then
          .next (s.faultCtx c fcSlotidx (ptTile e.1) (cuUnit e.2) (fld (s.cu e.1 e.2).cfg 14 6))
        else if (tget x.entries p).isNone then
          .next ((s.setLoop c l.val { x with staging := rest, entries := tset x.entries p t }).free
            (.cuIn e.1 e.2 (Fin.ofNat 6 k)))
        else stall s
    | [], [] => stall s

end Sys2Proof.Machine
end

