-- ==== Sys2Proof/Machine/Load.lean ====
section
/-! DEFINITION. Loading a configuration image: its records, what a load refuses, what it sets, and the rollback of a
region (R23, R30, R40, R48, R49, R65, R71, R174, R183 to R194, R199, R265, R413, R421 to R424). -/

namespace Sys2Proof.Machine

/-! ### Frames of a load (R183 to R185) -/

/-- The key of a frame of a region: row, column, unit and INDEX. -/
def frameKey (tx ty unit index : Nat) : Nat := ((ty * 32 + tx) * 8 + unit) * 64 + index

/-- A frame of the load; one that no record names is at its reset value (R186). -/
def frameAt (fs : Tbl Frame) (tx ty unit index : Nat) : Frame :=
  (tget fs (frameKey tx ty unit index)).getD (if unit < 2 ∧ index < 6 then BitVec.allOnes 256 else 0)

/-- The parcels of a frame (R187). -/
def frameParcels (f : Frame) : List Parcel := (List.range 8).map fun j => BitVec.ofNat 32 (fld f (32 * j) 32)

/-- A record: its frame address and its frame; none past the end of section 3 (R185). -/
def recordAt (sect : List Byte) (off k : Nat) : Option (Word64 × Frame) :=
  let bs := (sect.drop (off + 40 * k)).take 40
  if bs.length < 40 then none
  else some (BitVec.ofNat 64 (natOfBytes (bs.take 8)), BitVec.ofNat 256 (natOfBytes (bs.drop 8)))

/-! ### Rules of one frame (R184 to R194) -/

/-- UNIT, KIND and INDEX combine (R184). -/
def comboOk (unit kind index : Nat) : Bool :=
  match unit with
  | 0 | 1 => kind == 0 && decide (index < 6 ∨ index = 62 ∨ index = 63)
  | 3 | 4 => kind == 1 && index == 0
  | 5 | 6 => kind == 3 && decide (index < 5)
  | 7 => kind == 2 && decide (index < 12)
  | _ => false

/-- The instructions that lie wholly in the first frame of a store decode and pass their checks (R174, R413). -/
def headOk (ps : List Parcel) : Nat → Nat → Bool
  | 0, _ => true
  | fuel + 1, i =>
    let p := ps.getD i 0xFFFFFFFF
    if 8 ≤ i then true
    else if p = 0xFFFFFFFF then (ps.drop i).all (· == 0xFFFFFFFF)
    else if 8 < i + fld p 30 2 + 1 ∧ fld p 30 2 ≠ 3 then true
    else match Decode.elem (ps.drop i) with
      | .error _ => false
      | .ok (ins, n) => ins.wf && headOk ps fuel (i + n)

/-- Frame INDEX 63 of a compute unit (R188). -/
def cfgOk (f : Frame) : Bool :=
  let loopFields := [(62, 2), (58, 4), (56, 2), (26, 1), (23, 3), (20, 3), (14, 6), (7, 7), (4, 3), (1, 3)]
  decide (fld f 94 2 = 0 ∧ fld f 32 24 = 0 ∧ fld f 0 1 = 0 ∧ fld f 30 2 ≠ 3) &&
  ((List.range 8).all fun k => let r := fld f (96 + 4 * k) 4; r == 0 || decide (8 ≤ r)) &&
  (if bit f 27 then
    decide (fld f 20 3 < 6 ∧ fld f 14 6 < 48) && !bit f (58 + fld f 56 2) &&
    (!bit f 26 || decide (1 ≤ fld f 7 7 ∧ fld f 7 7 ≤ 64 ∧ fld f 4 3 < 6 ∧ fld f 1 3 < 6 ∧ fld f 4 3 ≠ fld f 1 3 ∧
      fld f 20 3 = fld f 4 3))
  else loopFields.all fun p => fld f p.1 p.2 == 0)

/-- COUNT fits the instruction (R258). -/
def countOk (fn : Nat) (ty : Fmt) (n : Nat) : Bool :=
  match muFn fn with
  | .ld | .st | .atom | .pref => decide (n ≤ 512 / fmtWidth ty)
  | .gath | .scat => decide (1 ≤ n ∧ n ≤ 16)
  | _ => n == 0

/-- Frame INDEX 0 of a memory unit: the reset value, or an instruction with its fields (R193, R199, R258, R413). -/
def memFrameOk (f : Frame) : Bool :=
  f == 0 ||
  (decide (fld f 128 128 = 0 ∧ fld f 97 27 = 0 ∧ fld f 64 12 = 0 ∧ fld f 86 2 ≠ 3) &&
    match Decode.mem (BitVec.ofNat 32 (fld f 0 32)) (BitVec.ofNat 32 (fld f 32 32)) with
    | .error _ => false
    | .ok i => i.wf && (match Decode.memFields i with
      | some (fn, m) => countOk fn m.ty (fld f 76 8)
      | none => false))

/-- A frame of an address generator (R194).  RANK is checked only where LEVELS is not 0: the model's choice (log entry 58). -/
def agFrameOk (index : Nat) (f : Frame) : Bool :=
  match index with
  | 0 =>
    let n := fld f 189 3
    decide (fld f 192 64 = 0 ∧ fld f 160 25 = 0 ∧ n ≤ 5) &&
    (n == 0 || (decide (1 ≤ fld f 186 3 ∧ fld f 186 3 ≤ 5) && (List.range n).all fun l => fld f (32 * l) 32 != 0))
  | 1 | 2 => fld f 160 96 == 0
  | 4 => fld f 144 112 == 0
  | _ => true

/-- A side of a tile that a track of a region may cross: the next tile lies in the region (R20, R192). -/
def Ctx.opens (x : Ctx) (pt side : Nat) : Bool := match neighbour pt side with | some q => x.holds q | none => false

/-- The side's border is one between voltage-frequency regions (R30). -/
def crossesVf (pt side : Nat) : Bool := match neighbour pt side with | some q => ptVf q != ptVf pt | none => false

/-- A valid data entry by itself (R190 to R192). -/
def dataEntryOk (x : Ctx) (pt : Nat) (p : Parcel) : Bool :=
  fld p 1 3 == 0 && (!bit p 0 ||
    (let i := fld p 26 6
     let d := fld p 20 6
     decide (i ≤ 0x2E ∧ d ≤ 0x30) && (decide (0x20 ≤ i) || x.opens pt (i / 8)) && (decide (0x20 ≤ d) || x.opens pt (d / 8)) &&
     (bit p 4 == (decide (i < 0x20) && crossesVf pt (i / 8)))))

/-- A valid control entry by itself (R190 to R192). -/
def ctlEntryOk (x : Ctx) (pt : Nat) (p : Parcel) : Bool :=
  fld p 1 3 == 0 && fld p 4 16 == 0 && (!bit p 0 ||
    (let ok (n : Nat) : Bool := if n < 0x20 then decide (n % 8 < 4) && x.opens pt (n / 8) else decide (n < 0x28)
     ok (fld p 26 6) && ok (fld p 20 6)))

/-- No two valid entries of a list drive one consumer (R23, R192). -/
def oneDest (ps : List Parcel) : Bool := ((ps.filter (bit · 0)).map fun p => fld p 20 6).Nodup

/-- A frame of a switch box (R190 to R192). -/
def swFrameOk (x : Ctx) (pt index : Nat) (f : Frame) : Bool :=
  let ps := frameParcels f
  if index < 8 then ps.all (dataEntryOk x pt) && oneDest ps
  else if index = 8 then decide (fld f 0 32 = 0) && ps.all fun p => fld p 24 8 == 0
  else ps.all (ctlEntryOk x pt) && oneDest ps

/-- A record's frame passes the rules that concern it alone (R185, R413). -/
def recordOk (x : Ctx) (a : Word64) (f : Frame) : Bool :=
  let tx := fld a 59 5
  let ty := fld a 54 5
  let unit := fld a 51 3
  let index := fld a 43 6
  decide (fld a 0 43 = 0 ∧ tx < x.width ∧ ty < x.height) && comboOk unit (fld a 49 2) index &&
  (match unit with
   | 0 | 1 => if index = 0 then headOk (frameParcels f) 8 0 else if index = 63 then cfgOk f else true
   | 3 | 4 => memFrameOk f
   | 5 | 6 => agFrameOk index f
   | _ => swFrameOk x (x.pt tx ty) index f)

/-! ### What a load sets (R75, R186 to R188) -/

/-- A compute unit as a load leaves it; its S registers change when the load is complete, and only then (R188). -/
def Cu.load (c : Cu) (fs : Tbl Frame) (tx ty unit : Nat) : Cu :=
  let word (f : Frame) (k : Nat) : BitVec 32 := BitVec.ofNat 32 (fld f (32 * k) 32)
  { c with
    store := (List.range 6).flatMap fun k => frameParcels (frameAt fs tx ty unit k)
    cRegs := Vector.ofFn fun k : Fin 8 => word (frameAt fs tx ty unit 62) k.val
    cfg := frameAt fs tx ty unit 63
    pos := 0, halted := false, reptDone := 0, lastCoord := Vector.replicate 6 none, jtabHeld := false, rotj := none }

/-- A compute unit's S registers take their reset values (R188). -/
def Cu.freshS (c : Cu) : Cu := { c with sRegs := Vector.ofFn fun k : Fin 8 => c.srst k }

/-- The words of several frames of a switch box as a table; an entry of zeros is not listed. -/
def swWords (fs : Tbl Frame) (tx ty lo n : Nat) : Tbl Parcel :=
  (((List.range n).flatMap fun k => frameParcels (frameAt fs tx ty 7 (lo + k))).zipIdx.filter fun p => p.1 != 0).map
    fun p => (p.2, p.1)

/-- An address generator as a load leaves it. -/
def Ag.load (a : Ag) (fs : Tbl Frame) (tx ty unit : Nat) : Ag :=
  { a with frames := Vector.ofFn fun k : Fin 5 => frameAt fs tx ty unit k.val, levels := [] }

/-- A memory unit as a load leaves it. -/
def Mu.load (m : Mu) (fs : Tbl Frame) (tx ty unit : Nat) : Mu := { m with cfg := frameAt fs tx ty unit 0 }

/-- A memory unit after a load that is no rollback: it counts its completions anew, and nothing comes again (R261, R423). -/
def Mu.anew (m : Mu) : Mu := { m with completed := 0, kept := [], heldTo := 0, skip := 0 }

/-- A tile as a load leaves it: every frame at its reset value but those that the image names. -/
def Tile.load (t : Tile) (fs : Tbl Frame) (tx ty : Nat) : Tile :=
  { cu0 := t.cu0.load fs tx ty 0, cu1 := t.cu1.load fs tx ty 1, mx := t.mx
    mu0 := t.mu0.load fs tx ty 3, mu1 := t.mu1.load fs tx ty 4
    ag0 := t.ag0.load fs tx ty 5, ag1 := t.ag1.load fs tx ty 6
    sw := { data := swWords fs tx ty 0 8, patterns := swWords fs tx ty 8 1, ctl := swWords fs tx ty 9 3 } }

/-- The frames of a load stand in the region's tiles. -/
def State.loadFrames (s : State) (c : Nat) (fs : Tbl Frame) : State :=
  let x := s.ctx c
  (List.range x.height).foldl (fun s ty => (List.range x.width).foldl (fun s tx =>
    let pt := x.pt tx ty
    s.setTile pt ((s.tile pt).load fs tx ty)) s) s

/-! ### Rules across frames (R23, R40, R49, R71, R192, R194, R199, R265, R413) -/

/-- The instructions of a store with their first parcels; none where the store breaks R174 or an encoding. -/
def storeViews (st : List Parcel) : Nat → Nat → Option (List (Nat × EView))
  | 0, _ => some []
  | fuel + 1, i =>
    let p := st.getD i 0xFFFFFFFF
    if 48 ≤ i then some []
    else if p = 0xFFFFFFFF then (if (st.drop i).all (· == 0xFFFFFFFF) then some [] else none)
    else match Decode.elem (st.drop i) with
      | .error _ => none
      | .ok (ins, n) =>
        match elemView ins with
        | none => none
        | some v => if ins.wf ∧ i + n ≤ 48 then (storeViews st fuel (i + n)).map ((i, v) :: ·) else none

/-- The operation has a branch target in the store (R248, R249). -/
def hasTarget (op : EOp) : Bool :=
  match op with
  | .br | .brf | .jmp | .loop | .oneos => true
  | _ => false

/-- The control inputs that an instruction names (R208, R235, R238, R249). -/
def ctlNamed (c : Cu) (v : EView) : List Nat :=
  (match v.op with
   | .br | .brf | .waitq => [natBits v.m.imm.toNat 6 2]
   | .merge | .steer | .gate => [natBits v.m.imm.toNat 0 2]
   | _ => []) ++
  (if v.m.qg = .none then [] else [c.qgport.val])

/-- A consumer code of a tile has a switch entry. -/
def Sw.drives (w : Sw) (d : Nat) : Bool := w.data.any fun p => bit p.2 0 && decide (fld p.2 20 6 = d)

/-- A control consumer code of a tile has a switch entry. -/
def Sw.drivesCtl (w : Sw) (d : Nat) : Bool := w.ctl.any fun p => bit p.2 0 && decide (fld p.2 20 6 = d)

/-- A producer code of a tile has a switch entry. -/
def Sw.carries (w : Sw) (i : Nat) : Bool := !(w.dataOf i).isEmpty

/-- Input Ik of a compute unit is bound: by a switch entry, or by the other unit's tapped port (R23, R49). -/
def Tile.bound (t : Tile) (u : Bool) (k : Nat) : Bool :=
  let other := if u then t.cu0 else t.cu1
  t.sw.drives (cuCode u k) || (bit (other.mask k) 1 && t.sw.drives (cuCode (!u) k))

/-- A compute unit breaks a rule: its store, its types, its targets, its ports or its taps. -/
def Tile.cuBad (t : Tile) (u : Bool) : Bool :=
  let c := if u then t.cu1 else t.cu0
  let other := if u then t.cu0 else t.cu1
  let taps (b : Nat) : Nat := ((List.range 6).filter fun k => bit (c.mask k) b).length
  let both (b : Nat) : Nat := taps b + ((List.range 6).filter fun k => bit (other.mask k) b).length
  (match storeViews c.store 48 0 with
   | none => true
   | some vs =>
     let starts := vs.map (·.1)
     (vs.any fun p =>
       !(p.2.wfWidth c.width).isEmpty || (hasTarget p.2.op && !starts.contains (natBits p.2.m.imm.toNat 0 6)) ||
       (p.2.inputs.any fun i => !t.bound u i.1.val) ||
       (ctlNamed c p.2).any fun q => !t.sw.drivesCtl ((if u then 0x24 else 0x20) + q)) ||
     (c.member && !starts.contains (fld c.cfg 14 6))) ||
  ((List.range 6).any fun k => bit (other.mask k) 1 && t.sw.drives (cuCode u k)) ||
  (decide (0 < taps 2) && (decide (1 < both 2) || t.sw.drives 0x2C)) ||
  (decide (0 < taps 3) && (decide (1 < both 3) || t.sw.drives 0x2D))

/-- MU0's request input is a tapped port (R49). -/
def Tile.tapMu (t : Tile) : Bool := (List.range 6).any fun k => bit (t.cu0.mask k) 3 || bit (t.cu1.mask k) 3

/-- A memory unit that is bound is not configured (R199). -/
def Tile.muBad (t : Tile) (u : Bool) : Bool :=
  let m := if u then t.mu1 else t.mu0
  let outs := if u then [0x2B, 0x2C] else [0x29, 0x2A]
  fld m.cfg 0 32 == 0 && (t.sw.drives (if u then 0x2E else 0x2D) || outs.any t.sw.carries || (!u && t.tapMu))

/-- An address generator breaks a rule: it is bound and unused, or its start input has two producers (R194, R199). -/
def Tile.agBad (t : Tile) (g : Bool) : Bool :=
  let a := if g then t.ag1 else t.ag0
  let code := if g then 0x30 else 0x2F
  let named := [t.mu0, t.mu1].any fun m => decide (fld m.cfg 86 2 = (if g then 2 else 1))
  let itstart := bit a.frames[0] 185
  (fld a.frames[0] 189 3 == 0 && (t.sw.drives code || itstart || t.sw.carries (if g then 0x2E else 0x2D) || named)) ||
  (itstart && t.sw.drives code)

/-- The next input codes of a chain of track entries. -/
def State.trackNext (s : State) (ctl : Bool) (p : Nat × Nat) : List (Nat × Nat) :=
  let w := (s.tile p.1).sw
  (if ctl then w.ctlOf p.2 else w.dataOf p.2).filterMap fun e =>
    let d := fld e 20 6
    if d < 0x20 then (neighbour p.1 (d / 8)).map fun q => (q, arrivalCode d) else none

/-- One round of removing the tracks that no chain can return through. -/
def State.pruneTracks (s : State) (ctl : Bool) (ns : List (Nat × Nat)) : List (Nat × Nat) :=
  let a := ns.filter fun p => (s.trackNext ctl p).any ns.contains
  a.filter fun p => a.any fun q => (s.trackNext ctl q).contains p

/-- The tracks of a region that lie on a chain which returns to itself. -/
def State.trackLoops (s : State) (ctl : Bool) (pts : List Nat) : List (Nat × Nat) :=
  let all := pts.flatMap fun pt => ((List.range 32).filter fun i =>
    !(if ctl then (s.tile pt).sw.ctlOf i else (s.tile pt).sw.dataOf i).isEmpty).map fun i => (pt, i)
  (List.range all.length).foldl (fun ns _ => s.pruneTracks ctl ns) all

/-- A switch box breaks a rule of its entries together (R23, R192). -/
def State.swBad (s : State) (pt : Nat) : Bool :=
  let w := (s.tile pt).sw
  let ds := (w.data.map (·.2)).filter (bit · 0)
  let cs := (w.ctl.map (·.2)).filter (bit · 0)
  !oneDest ds || !oneDest cs ||
  (ds.any fun p => ds.any fun q => fld p 26 6 == fld q 26 6 && bit p 4 != bit q 4) ||
  ((ds.any fun p => let d := fld p 20 6
    decide (d < 0x20) && (match neighbour pt (d / 8) with
      | some q => !(s.tile q).sw.carries (arrivalCode d) | none => true)) ||
   (cs.any fun p => let d := fld p 20 6
    decide (d < 0x20) && (match neighbour pt (d / 8) with
      | some q => ((s.tile q).sw.ctlOf (arrivalCode d)).isEmpty | none => true)))

/-- The memory unit's instruction is a store, whose request input is a sink by default (R40). -/
def Mu.stores (m : Mu) : Bool :=
  match muFn (fld m.cfg 20 4) with
  | .st | .scat | .qst | .qstv => true
  | _ => false

/-- The sinks of a region's configuration (R40, R49). -/
def State.sinksOf (s : State) (c : Nat) : List Nat :=
  (s.ctx c).tiles.flatMap fun pt =>
    let t := s.tile pt
    let ports : List (Bool × Nat) := [false, true].flatMap fun u => (List.range 6).map fun k => (u, k)
    let cu (u : Bool) : Cu := if u then t.cu1 else t.cu0
    let tap := ports.find? fun p => bit ((cu p.1).mask p.2) 3
    let isSink (m : Mu) : Bool := fld m.cfg 0 32 != 0 && (m.stores != bit m.cfg 96)
    let mu0 := if isSink t.mu0 then [match tap with | some p => cuCode p.1 p.2 | none => 0x2D] else []
    let mu1 := if isSink t.mu1 then [0x2E] else []
    let cus := (ports.filter fun p => bit (cu p.1).cfg (88 + p.2)).map fun p => cuCode p.1 p.2
    (mu0 ++ mu1 ++ cus).dedup.map (sinkKey pt)

/-- The units that break a rule across frames, each with its tile (R413). -/
def State.crossBad (s : State) (c : Nat) : List (Nat × Nat) :=
  let pts := (s.ctx c).tiles
  let tile (pt : Nat) : List (Nat × Nat) :=
    let t := s.tile pt
    ([false, true].filter t.cuBad).map (fun u => (pt, cuUnit u)) ++
    ([false, true].filter t.muBad).map (fun u => (pt, muUnit u)) ++
    ([false, true].filter t.agBad).map (fun g => (pt, if g then 6 else 5)) ++
    (if s.swBad pt then [(pt, 7)] else [])
  pts.flatMap tile ++ (s.trackLoops false pts).map (fun p => (p.1, 7)) ++ (s.trackLoops true pts).map (fun p => (p.1, 7)) ++
  (s.loopBad c).map (fun p => (p.1, cuUnit p.2)) ++
  (if s.sinksOf c = [] then [((s.ctx c).pt 0 0, 0)] else [])

/-- The lowest unit of the lowest tile, by TY and then TX (R413). -/
def lowestUnit : List (Nat × Nat) → Option (Nat × Nat)
  | [] => none
  | p :: t =>
    match lowestUnit t with
    | none => some p
    | some q => if p.1 < q.1 ∨ (p.1 = q.1 ∧ p.2 ≤ q.2) then some p else some q

/-! ### A rollback (R421 to R424) -/

/-- The region is replayable (R422). -/
def State.replayable (s : State) (c : Nat) : Bool :=
  let x := s.ctx c
  x.onTiles && x.image.isSome && (x.loops.all fun l => l.2.valid == 0) &&
  match x.replay with
  | some (_, r) => !r.overflow && !r.broken
  | none => false

/-- Every token, request and credit of a region's tiles goes. -/
def State.flush (s : State) (x : Ctx) : State :=
  let mine (b : BufId) : Bool := x.holds (bufPt b)
  let cu (c : Cu) : Cu := { c with ins := Vector.replicate 6 [], qs := Vector.replicate 4 [] }
  let mu (m : Mu) : Mu := { m with buf := [], seen := [], tuples := [], items := [], stopAt := none, skip := 0 }
  let ag (a : Ag) : Ag := { a with start := [], levels := [] }
  let s1 := x.tiles.foldl (fun s pt =>
    let t := s.tile pt
    s.setTile pt { t with
      cu0 := cu t.cu0, cu1 := cu t.cu1, mx := { t.mx with queue := [], running := [], out := [] }
      mu0 := mu t.mu0, mu1 := mu t.mu1, ag0 := ag t.ag0, ag1 := ag t.ag1 }) s
  { s1 with
    flights := s1.flights.filter fun f => !x.holds f.pt
    arriving := s1.arriving.filter fun p => !mine p.1
    ctlArriving := s1.ctlArriving.filter fun f => !mine f.buf
    elastic := s1.elastic.filter fun p => !mine p.1
    elasticCtl := s1.elasticCtl.filter fun p => !mine p.1
    used := s1.used.filter fun p => !mine p.1
    returns := s1.returns.filter fun p => !mine p.1 }

/-- A memory unit at a rollback: its requests come again from the mark's acceptance number on.  Those that have left it are
passed over, or performed again where the node is IDEM; of those that it holds, what has been performed stays so (R422,
R423). -/
def Mu.rollback (m : Mu) (base : Nat) : Mu :=
  let rs := m.reqs.filter fun r => decide (base ≤ r.num)
  { m with
    heldTo := Nat.max m.heldTo ((m.reqs.head?.map (·.num)).getD m.next)
    kept := rs ++ m.kept.filter fun k => !(rs.any fun r => r.num == k.num)
    next := base }

/-- The memory units of a region at a rollback to its replay mark. -/
def State.rollbackMus (s : State) (x : Ctx) (r : Replay) : State :=
  x.tiles.foldl (fun s pt => [false, true].foldl (fun s u =>
    let base := match tget r.units (unitKey pt (muUnit u)) with | some n => n.pos | none => 0
    s.setMu pt u ((s.mu pt u).rollback base)) s) s

/-- RETT of a FAULTED context with rollback: the tokens in flight are flushed and the last image is loaded again; a
region that is not replayable stays FAULTED (R422). -/
def State.rollback (s : State) (c : Nat) : State :=
  let x := s.ctx c
  match x.replay with
  | some (_, r) =>
    if s.replayable c then
      (((s.rollbackMus x r).flush x).startLoad c (x.image.getD 0) false).modCtx c fun y => { y with rollback := true, fcode := 0 }
    else s
  | none => s

/-- A memory unit's recorded replies and completions, in the order in which they left it. -/
def againItems (pt : Nat) (u : Bool) (r : Replay) : List MuItem :=
  let a := tgetD r.streams (muStream pt (muReply u)) []
  let b := tgetD r.streams (muStream pt (muCompl u)) []
  (List.range (Nat.max a.length b.length)).flatMap fun i =>
    (a[i]?.map (MuItem.again (muReply u) ·)).toList ++ (b[i]?.map (MuItem.again (muCompl u) ·)).toList

/-- A memory unit with its recorded tokens to send again; as many marks come to it again and are passed over. -/
def Mu.replay (m : Mu) (pt : Nat) (u : Bool) (r : Replay) : Mu :=
  let n (code : Nat) : Nat := ((tgetD r.streams (muStream pt code) []).filter Token.isMark).length
  { m with items := againItems pt u r, skip := Nat.max (n (muReply u)) (n (muCompl u)) }

/-- A compute unit with its snapshot (R421). -/
def Cu.restore (c : Cu) (sn : Option UnitSnap) : Cu :=
  match sn with
  | some n => { c with sRegs := n.sRegs, pos := n.pos, flags := n.flags, reptDone := n.reptDone }
  | none => c

/-- The snapshots are restored and the recorded tokens come again (R422).  The EOS of steps that have ended is passed over
where it comes again. -/
def State.replayTile (s : State) (r : Replay) (pt : Nat) : State :=
  let t := s.tile pt
  let ag (a : Ag) (k : Nat) : Ag := { a with start := tgetD r.streams (unitKey pt k) [] }
  s.setTile pt { t with
    cu0 := t.cu0.restore (tget r.units (unitKey pt 0)), cu1 := t.cu1.restore (tget r.units (unitKey pt 1))
    mx := (match tget r.acc pt with | some a => { t.mx with acc := a } | none => t.mx)
    mu0 := t.mu0.replay pt false r, mu1 := t.mu1.replay pt true r
    ag0 := ag t.ag0 5, ag1 := ag t.ag1 6 }

/-- The EOS tokens of ended steps among the recorded tokens of the counter. -/
def Ctx.staleEos (x : Ctx) (r : Replay) : Nat :=
  let n := r.streams.foldl (fun a p => Nat.max a (if p.1 < 2 ^ 20 then (p.2.filter fun t => t.kind == .eos).length else 0)) 0
  if x.stepOn && x.eosSent then n - 1 else n

/-- The end of a rollback's load. -/
def State.replayAll (s : State) (c : Nat) : State :=
  let x := s.ctx c
  match x.replay with
  | none => s
  | some (_, r) =>
    let s1 := x.tiles.foldl (fun s pt => s.replayTile r pt) s
    s1.modCtx c fun y => { y with
      rollback := false, sinksDone := [], stale := (y.sinks.insertionSort (· ≤ ·)).map fun k => (k, x.staleEos r)
      barOut := y.barOut.map fun p => (p.1, []) }

/-! ### The end of a load (R65, R186, R303, R338) -/

/-- The state to which a context goes on after a load; one whose stage was loaded in another state than LOADING keeps it (R65,
R338, R422). -/
def Ctx.afterLoad (x : Ctx) (first : Bool) : CtxSt :=
  if x.st ≠ .loading then x.st else if first then .ready else .running

/-- The highest rung that the power budget permits on a stage's cluster: RUNGCAP (R339, R370). -/
def State.rungCap (s : State) (c : Nat) : Nat := let cl := s.homeCl c; fld (s.reg (cl / 6) 0x50 (cl % 6)) 0 2

/-- The reassignment of a region's stage is complete; a rung that RUNGCAP has come to forbid meanwhile is to narrow at once (R337
to R339, R370). -/
def State.stageDone (s : State) (c : Nat) : State :=
  match s.launchOf c with
  | none => s
  | some (l, la) =>
    let done (st : Stage) : Stage :=
      match st.target with
      | some m => if la.regions[st.region]? = some c then
          { st with cur := m, target := none, soft := false, wide := false, narrow := decide (s.rungCap c < m), high := 0, low := 0, last := some s.cycle }
        else st
      | none => st
    { s with launches := tset s.launches l { la with stages := la.stages.map done } }

/-- A loop as a load leaves it: empty, and still until RUN.  A load inside a step, of a rollback or a reassignment, is followed
by no RUN: a loop that had not stopped in the step rotates on from count 0, and one that had stopped stays so (R73, R75, R85,
R338, R422; log entry 78). -/
def LoopSt.reloaded (old : Option LoopSt) (stepOn : Bool) : LoopSt :=
  if stepOn then { running := true, stopped := (match old with | some l => l.stopped | none => false) } else {}

/-- Every rotating loop of the configuration, as the load leaves it (R75). -/
def State.freshLoops (s : State) (c : Nat) : Tbl LoopSt :=
  ((List.range 8).filter fun l => (s.loopEntry c l).isSome).map fun l =>
    (l, LoopSt.reloaded (tget (s.ctx c).loops l) (s.ctx c).stepOn)

/-- The ROTJ and ROTP of a region that wait for a loop are abandoned: the credits that their firings spent are free again (R50,
R75, R80). -/
def State.dropJoins (s : State) (c : Nat) : State :=
  (s.ctx c).tiles.foldl (fun s pt => [false, true].foldl (fun s u =>
    let k := s.cu pt u
    match k.rotj, k.viewAt k.pos with
    | some _, some v => ((v.outs.map (outCode u)).flatMap (s.outBufs pt)).foldl
        (fun s b => { s with used := bufPut s.used b (bufCount s.used b - 1) }) s
    | _, _ => s) s) s

/-- A load begins: every frame of the region returns to its reset value, and its rotations are cleared, but for whether each has
stopped (R75, R186). -/
def State.clearFrames (s : State) (c : Nat) : State :=
  ((s.dropJoins c).loadFrames c []).modCtx c fun y => { y with loops := y.loops.map fun l => (l.1, { stopped := l.2.stopped }) }

/-- The units of a region after a load that is no rollback (R188, R261). -/
def State.freshUnits (s : State) (c : Nat) : State :=
  (s.ctx c).tiles.foldl (fun s pt =>
    let t := s.tile pt
    s.setTile pt { t with cu0 := t.cu0.freshS, cu1 := t.cu1.freshS, mu0 := t.mu0.anew, mu1 := t.mu1.anew }) s

/-- A load ends: the frames stand, the rotations are cleared, and the context goes on (R65, R75, R186).  What the loops do where
no RUN follows is `LoopSt.reloaded` (log entry 78). -/
def State.endLoad (s : State) (c off : Nat) (first : Bool) : State :=
  let s1 := (s.modCtx c fun y => { y with
    st := y.afterLoad first, loading := none, frames := [], image := some off, loops := s.freshLoops c, sinks := s.sinksOf c
    readyAt := s.cycle }).modCtx c fun y => y.touch .tok
  if (s1.ctx c).rollback then s1.replayAll c
  else
    let s2 := (s1.freshUnits c).modCtx c fun y => { y with replay := none, marks := [] }
    match (s2.ctx c).hold with
    | .load => s2.complete c
    | _ => (s2.modCtx c fun y => { y with reassign := false }).stageDone c

/-- A reassignment of a region's stage ends with its load refused. -/
def State.stageDrop (s : State) (c : Nat) : State :=
  match s.launchOf c with
  | none => s
  | some (l, la) =>
    let drop (st : Stage) : Stage := if la.regions[st.region]? = some c then { st with target := none, soft := false } else st
    { s with launches := tset s.launches l { la with stages := la.stages.map drop } }

/-- A load is refused: the context is FAULTED, and nothing of the image takes effect (R412, R413). -/
def State.refuseLoad (s : State) (c k tile unit : Nat) : State :=
  ((s.stageDrop c).modCtx c fun y => { y with loading := none, frames := [], rollback := false, reassign := false }).faultCtx c fcFrame tile unit (k % 1024)

/-- A context's load may go on: it is LOADING, or its stage is reassigned in the state in which it stands; a pre-emption
outranks that (R65, R66, R338). -/
def Ctx.mayLoad (x : Ctx) : Bool := (x.st == .loading || (x.reassign && x.st.fires)) && x.preempt.isNone

/-- IMAGE_RECORD_LOAD: the next record of the image that a context loads; the end record ends the load (R185, R413).  Where
section 3 ends before an end record no unit is concerned, and the refusal names the anchor tile and UNIT 0: the model's choice
(log entry 58). -/
def execImageRecordLoad (c : Nat) (s0 : State) : Out :=
  let x := s0.ctx c
  match x.loading, s0.launchOf c with
  | some (off, k, first), some (_, la) =>
    if !x.mayLoad then stall s0
    else
      let s := if k = 0 then s0.clearFrames c else s0
      match recordAt la.cfg off k with
        | none => .next (s.refuseLoad c k (ptTile (x.pt 0 0)) 0)
        | some (a, f) =>
          if a.toNat = 2 ^ 64 - 1 then
            let s1 := s.loadFrames c x.frames
            match lowestUnit (s1.crossBad c) with
            | some (pt, unit) => .next (s.refuseLoad c k (ptTile pt) unit)
            | none => .next (s1.endLoad c off first)
          else if recordOk x a f then
            .next (s.modCtx c fun x => { x with
              frames := tset x.frames (frameKey (fld a 59 5) (fld a 54 5) (fld a 51 3) (fld a 43 6)) f
              loading := some (off, k + 1, first) })
          else .next (s.refuseLoad c k (ptTile (x.pt (fld a 59 5) (fld a 54 5))) (fld a 51 3))
  | _, _ => stall s0

end Sys2Proof.Machine
end

