-- ==== Sys2Proof/Machine/Walks.lean ====
section
/-! DEFINITION. The ends of page walks, what becomes of the accesses that wait for one, and far memory without an answer (R130,
R131, R427 to R430, R438, R442, R446, R450). -/

namespace Sys2Proof.Machine

/-! ### Walks (R131, R428, R429, R442) -/

/-- The walkers that serve a walk: fewer than 512 walks of its die stand before it (R131). -/
def State.walkRuns (s : State) (k : Nat) (w : Walk) : Bool :=
  decide (((s.walks.take k).filter fun x => x.die = w.die).length < 512)

/-- The error that a walk meets in a page-table entry (R427, R428, R438). -/
def State.walkError (s : State) (w : Walk) (o : Ecc) : State :=
  match o with
  | .ok => s
  | .corrected => s.eccAt ⟨w.ctx, w.die * 6 + w.cluster, none⟩ (.phys (w.root * 8) .int8 0 false) false .corrected
  | .uncorrected => s.errRecord w.die .global .uc 21 0x19 w.root 0 w.ctx

/-- Something other than a prefetch waits for the walk: a memory request, or an engine (R259). -/
def State.walkMatters (s : State) (cl : Nat) (w : Walk) : Bool :=
  w.agent ≠ 0 || (s.parkedOn cl w.root w.va).any (fun p =>
    match s.muReq p.1 p.2.1 p.2.2 with | some r => r.kind ≠ .pref | none => false) ||
  s.ctxs.any fun p => p.2.ops.any fun o => !o.onTlbi && o.parked.any (s.samePage w.root w.va)

/-! ### What waits on a page (R429, R430) -/

/-- Something that is parked on a page: a request of a memory unit by tile, unit and number, or an operation of an engine
context. -/
inductive Parked where
  | req (pt : Nat) (u : Bool) (n : Nat)
  | op (eng : Nat) (o : EngOp)
  deriving DecidableEq, Repr

/-- Everything parked on the page of a walk, but not until a TLBI. -/
def State.parkedAll (s : State) (w : Walk) : List Parked :=
  let cl := w.die * 6 + w.cluster
  (s.parkedOn cl w.root w.va).map (fun p => .req p.1 p.2.1 p.2.2) ++
  s.ctxs.flatMap fun p => (p.2.ops.filter fun o => !o.onTlbi && o.parked.any (s.samePage w.root w.va) &&
    decide (s.engCl p.1 o = cl ∧ s.root o.issuer = w.root)).map fun o => .op p.1 o

/-- The CYCLE in which a parked access missed. -/
def State.missedAt (s : State) (p : Parked) : Option Nat :=
  match p with
  | .req pt u n => (s.muReq pt u n).bind (·.missed)
  | .op _ o => o.missed

/-- An operation of an engine context fails: a collective at every member (R415). -/
def State.engFail (s : State) (eng : Nat) (o : EngOp) (fcode : Nat) : State :=
  if isCollId eng then
    match s.colls.find? fun p => p.2.entries.any fun e => e.cctx == eng && e.num == o.num with
    | some p => s.collFail p.1 fcode
    | none => s
  else s.opFail eng { o with parked := none } fcode

/-- The walk that a parked access asks for by itself (R429). -/
def State.ownWalk (s : State) (w : Walk) (p : Parked) : State :=
  match p with
  | .req pt u n =>
    match s.muReq pt u n, s.owner pt with
    | some r, some c => s.askWalk (s.muWalk pt u c r w.va)
    | _, _ => s
  | .op eng o => s.askWalk { s.engWalk eng o w.va w.write with agent := if isCollId eng then 2 else 1, pos := idLocal eng }

/-- A parked access fails with a fault code (R428, R430, R446, R450); a prefetch ends. -/
def State.failOne (s : State) (fcode : Nat) (p : Parked) : State :=
  match p with
  | .req pt u n =>
    match s.muReq pt u n with
    | some r =>
      if r.kind = .pref then s.setReq pt u r.skipped
      else (s.setReq pt u { r with st := .failed }).unitFault pt (muUnit u) fcode 0
    | none => s
  | .op eng o => s.engFail eng o fcode

/-- RETT takes effect on what is parked on a fault; an access that missed in the CYCLE of the RETT is none of it, and asks for its
own walk (R429, R430). -/
def State.onParked (s : State) (w : Walk) (f : State → Parked → State) : State :=
  (s.parkedAll w).foldl (fun s p => if s.missedAt p = some s.cycle then s.ownWalk w p else f s p) s

/-- The accesses parked on a fault fail (R430). -/
def State.failParked (s : State) (w : Walk) : State := s.onParked w fun s p => s.failOne fcAddress p

/-- The accesses parked on a fault wait for the next TLBI (R430). -/
def State.holdParked (s : State) (w : Walk) : State :=
  s.onParked w fun s p =>
    match p with
    | .req pt u n => (match s.muReq pt u n with | some r => s.setReq pt u { r with onTlbi := true } | none => s)
    | .op eng o => s.setOp eng { o with onTlbi := true }

/-- A link that a walk cannot cross to an entry of its tables: the address and the fault code (R446, R450, R455). -/
def State.walkCut (s : State) (w : Walk) : Option (Nat × Nat) :=
  (s.walkReads w.va 4 w.root).findSome? fun pa =>
    if paAssigned pa then (s.unreachable w.die pa (s.routesOf w.die)).map fun f => (pa, f) else none

/-- PAGE_WALK_COMPLETE: a walk ends; the TLBs are filled and what is parked on the page goes on, or a translation fault is raised;
where a link cannot be crossed to the tables, the accesses that wait fault with its code (R130, R131, R428, R429, R446, R450). -/
def execPageWalkComplete (k : Nat) (o : Ecc) (s : State) : Out :=
  match s.walks[k]? with
  | none => stall s
  | some w =>
    if !s.walkRuns k w then stall s
    else
      let cl := w.die * 6 + w.cluster
      let s0 : State := { s with walks := ldel s.walks k }
      match s.walkCut w with
      | some (pa, f) =>
        let s1 := if f = fcFarmem then s0.farRecord pa w.ctx else s0
        .next ((s1.parkedAll w).foldl (fun s p => s.failOne f p) s1)
      | none =>
        let s1 := ((s.walkReads w.va 4 w.root).foldl (fun (s : State) pa => s.llcFill (pa / 48) false) s0).walkError w o
        match (if o = .uncorrected then none else s.walkVa w.root w.va) with
        | some t =>
          let s2 := { s1 with clTlb := tset s1.clTlb cl (tlbAdd 4096 t (tgetD s1.clTlb cl [])) }
          .next ((s2.fillWaiting cl t).retryParked cl w.root)
        | none =>
          let s2 := s1.dropPrefs cl w.root w.va
          .next (if s2.walkMatters cl w then s2.xlTrap w fcXlate else s2)

/-! ### Far memory (R442) -/

/-- A CXL port goes out of service (R442, R445). -/
def State.cxlDown (s : State) (port : Nat) : State :=
  s.setReg 0 0x6C (19 + port) (setFld (setFld (s.reg 0 0x6C (19 + port)) 63 1 0) 48 5 0)

/-- The places that an engine's operation reads and writes, as far as they are translated (R290, R294, R297). -/
def State.engPlaces (s : State) (eng : Nat) (o : EngOp) : List Spot :=
  let ok {α : Type} (x : Met (List α)) : List α := match x with | .ok l => l | _ => []
  if isCollId eng then
    match s.collFmt o, s.colls.find? fun p => p.2.entries.any fun e => e.cctx == eng && e.num == o.num with
    | .ok f, some p =>
      let op := collFn p.2.op
      ok (s.collSpots o false f 0 (op.srcLen p.2.size p.2.count)) ++ ok (s.collSpots o true f 0 (op.dstLen p.2.size p.2.count))
    | _, _ => []
  else if o.fn = 4 then (match s.copyqAt eng o o.written with | .ok (_, _, ps, _) => ps | _ => [])
  else match s.copyPlan eng o with
    | .ok (fs, fd, all) => moveSpotsOf (ok (s.moveSpots eng o fs fd all))
    | _ => []

/-- FAR_MEMORY_TIMEOUT: a far-memory access has no response within 1 ms, or an error completion: the node faults, or the engine's
operation fails, and the port leaves service (R415, R442).  Of a node it is element `e` of request `r`; of an engine context, place
`e` of operation `r`. -/
def execFarMemoryTimeout (a : Requester) (u : Bool) (r e : Nat) (s : State) : Out :=
  match a with
  | .node t =>
    match s.muReq t u r, s.owner t with
    | some q, some c =>
      match q.elems[e]? with
      | none => stall s
      | some x =>
        match x.spot.pa? with
        | none => stall s
        | some pa =>
          if q.st ≠ .ready ∨ x.done ∨ q.hold ∨ !paFar pa then stall s
          else if q.kind = .pref then .next (((s.setReq t u (q.did e 0 false)).cxlDown (paPort pa)).reqCheck t u r)
          else .next ((s.linkFault t u q pa fcFarmem c).cxlDown (paPort pa))
    | _, _ => stall s
  | .engine eng =>
    match s.opOf eng r with
    | none => stall s
    | some o =>
      match ((s.engPlaces eng o)[e]?).bind Spot.pa? with
      | none => stall s
      | some pa =>
        if o.done ∨ o.failed ∨ o.whole ∨ !paFar pa then stall s
        else .next (((s.farRecord pa o.issuer).engFail eng o fcFarmem).cxlDown (paPort pa))

end Sys2Proof.Machine
end

