-- ==== Sys2Proof/Machine/Rett.lean ====
section
/-! DEFINITION. Return from a trap: what RETT does to the context that a trap held (R304, R417 to R420, R430, R432). -/

namespace Sys2Proof.Machine

/-- The trap of a context no longer holds its controller. -/
def State.untrap (s : State) (c : Nat) : State := s.modCtx c fun x => { x with trapped := none, trapAfter := false }

/-- A controller that RETT faults (R419). -/
def State.faultCtl (s : State) (c fcode : Nat) : State := (s.untrap c).faultCtx c fcode 0x7E 0 ((s.ctx c).pc % 1024)

/-- A unit is released from its JTAB. -/
def State.freeJtab (s : State) (pt : Nat) (u : Bool) : State := s.setCu pt u { s.cu pt u with jtabHeld := false }

/-- A skipped JTAB consumes A (R419). -/
def State.skipJtab (s : State) (pt : Nat) (u : Bool) : State :=
  let c := s.cu pt u
  let s1 := s.freeJtab pt u
  match Decode.elem ((c.store.drop c.pos).take 3) with
  | .ok (i, n) =>
    match elemView i with
    | some v => (s1.takeAll pt u v.consumed).advance pt u n
    | none => s1
  | .error _ => s1

/-- RETT after UNASSIGNED, PRIV, BOUND or LPAD: skip, retry or fault (R419). -/
def State.rettCommand (s : State) (t : TrapEnt) (k : Nat) : State :=
  let c := t.ctx
  match t.unit with
  | some (ix, u) =>
    let pt := (s.ctx c).tiles.getD ix 0
    if k = 0 then s.skipJtab pt u
    else if k = 1 then s.freeJtab pt u
    else (s.freeJtab pt u).faultCtx c fcEncoding (ptTile pt) (cuUnit u) (s.cu pt u).pos
  | none =>
    let x := s.ctx c
    if k = 2 then s.faultCtl c fcEncoding
    else if k = 0 ∧ !x.trapAfter then (s.untrap c).modCtx c fun y => y.past y.skipLen
    else s.untrap c

/-- The pending faults that a trap stands for (R429, R431). -/
def TrapEnt.owns (t : TrapEnt) (f : XlFault) : Bool := !f.onTlbi && decide (f.walk.ctx = t.ctx) && xfvaOf f.walk == t.xfva

/-- RETT after XLATE or PERM (R430). -/
def State.rettXlate (s : State) (t : TrapEnt) (k : Nat) : State :=
  let fs := s.xlPend.filter t.owns
  let rest := s.xlPend.filter fun f => !t.owns f
  match k with
  | 0 => (fs.map (·.walk)).foldl State.holdParked { s with xlPend := s.xlPend.map fun f => if t.owns f then { f with onTlbi := true } else f }
  | 1 => (fs.map (·.walk)).foldl State.askWalk { s with xlPend := rest }
  | _ => (fs.map (·.walk)).foldl State.failParked { s with xlPend := rest }

/-- The trap is of a translation fault, which leaves the context's state unchanged (R428). -/
def TrapEnt.xlate (t : TrapEnt) : Bool :=
  t.cause == causeFault && (fld t.info 20 8 == fcXlate || fld t.info 20 8 == fcPerm)

/-- RETT after FAULT: the context stays FAULTED, is rolled back, or is retired: it leaves every group, and its collectives fail
(R419, R422). -/
def State.rettFault (s : State) (c k : Nat) : State :=
  if (s.ctx c).st ≠ .faulted then s
  else match k with
    | 0 => s
    | 1 => s.rollback c
    | _ => if isRegionId c then s.retire c fcColl else ((s.failColls c fcColl).leaveAll c).endProgram c false

/-- XB of RETT is allowed after a trap of this cause (R419). -/
def rettAllows (cause : Nat) (b : Word64) : Bool := cause == causeSysc || decide (b.toNat < 3)

/-- RETT takes effect on the context of its trap; one of the supervisor itself holds nothing (R304, R416, R419). -/
def State.rettEffect (s : State) (t : TrapEnt) (b : Word64) : State :=
  let c := t.ctx
  let k := b.toNat % 4
  if isSupId c then s
  else if t.xlate then s.rettXlate t k
  else if t.cause = causeFault then s.rettFault c k
  else if t.cause = causeThermal ∨ t.cause = causeError then s
  else if t.cause = causeUser then (if k = 2 then s.faultCtl c fcUser else s.untrap c)
  else if t.cause = causeSysc then
    match (s.ctx c).hold with
    | .sysc d => ((s.untrap c).modCtx c fun x => x.setX d b).complete c
    | _ => s.untrap c
  else if t.cause = causePromise then
    (if k = 2 then s.faultCtl c fcAddress
     else (s.untrap c).modCtx c fun x => { x with noDeadline := decide (k = 0) })
  else s.rettCommand t k

/-- RETT on a SUSPENDED context takes effect at its resume, but the accesses parked on a fault are released at once
(R417, R432). -/
def State.rettApply (s : State) (t : TrapEnt) (b : Word64) : State :=
  let later := t.cause ≠ causeThermal ∧ t.cause ≠ causeError ∧ (s.ctx t.ctx).st = .suspended
  if later ∧ !(t.xlate ∧ b.toNat % 4 ≠ 2) then
    s.modCtx t.ctx fun x => { x with pendRett := x.pendRett ++ [(t, b)] }
  else s.rettEffect t b

/-- The returns that waited for a context's resume. -/
def State.rettPending (s : State) (c : Nat) : State :=
  let l := (s.ctx c).pendRett
  l.foldl (fun s p => s.rettEffect p.1 p.2) (s.modCtx c fun x => { x with pendRett := [] })

/-- After a restore, an access parked on a fault that is still pending stays parked on it, in the cluster where it now
stands; any other looks for its place again (R432). -/
def State.reparkOne (s : State) (c old pt : Nat) (u : Bool) (r : MuReq) : State :=
  match r.st with
  | .parked va =>
    if r.onTlbi then s else
    let root := s.root c
    let new := s.homeCl c
    match s.xlPend.find? fun f => s.serves f.walk old root va with
    | some f =>
      if s.xlPend.any fun g => s.serves g.walk new root va then s
      else { s with xlPend := s.xlPend ++ [{ f with walk := { f.walk with die := new / 6, cluster := new % 6 } }] }
    | none => s.tryReq pt u r.num
  | .fresh => s.tryReq pt u r.num
  | _ => s

/-- The parked and held requests of a region that has entered its tiles. -/
def State.repark (s : State) (c old : Nat) : State :=
  (s.ctx c).tiles.foldl (fun s pt => [false, true].foldl (fun s u =>
    (s.mu pt u).reqs.foldl (fun s r => s.reparkOne c old pt u r) s) s) s

end Sys2Proof.Machine
end

