-- ==== Sys2Proof/Machine/Sched.lean ====
section
/-! DEFINITION. The scheduler: dispatch, pre-emption, halting, saving, resuming, team swaps, migration and reclaiming
(R65 to R67, R324, R332, R340 to R346, R349, R376, R388). -/

namespace Sys2Proof.Machine

/-! ### Classes and waiters (R340) -/

/-- A context waits for tiles: it is SUSPENDED, its image has left them, and the scheduler may resume it. -/
def Ctx.waitsTiles (x : Ctx) : Bool := x.st == .suspended && x.off && x.suspBy != 1

/-- The effective class of a waiter: PRIO and its age, 4 at most. -/
def State.classOf (s : State) (c : Nat) : Nat :=
  let x := s.ctx c
  Nat.min 4 (x.prio + (s.cycle - x.readyAt) / 225000)

/-- The rectangle that a waiter left. -/
def Ctx.rect (x : Ctx) : List Nat := rectOf x.place x.width x.height

/-- A waiter is served before another one: a higher class, or an equal one and READY longer. -/
def State.outranks (s : State) (a b : Nat) : Bool :=
  let ca := s.classOf a
  let cb := s.classOf b
  decide (cb < ca ∨ (ca = cb ∧ (s.ctx a).readyAt < (s.ctx b).readyAt))

/-- No other waiter that wants tiles among these is served first; the waiters of the top class in one cluster are served in the
order in which they became READY, whatever tiles they want (R67, R340). -/
def State.firstFor (s : State) (c : Nat) (pts : List Nat) : Bool :=
  !(s.ctxs.any fun p => p.1 != c && p.2.waitsTiles &&
    (p.2.rect.any pts.contains || (s.classOf p.1 == 4 && s.classOf c == 4 && s.homeCl p.1 == s.homeCl c)) && s.outranks p.1 c)

/-- The states in which a holder is pre-empted. -/
def CtxSt.holding : CtxSt → Bool
  | .ready | .loading | .running | .waiting | .draining => true
  | _ => false

/-- A waiter may have a holder pre-empted: a tile it needs, a lower class, or an equal one after 1 ms. -/
def State.mayPreempt (s : State) (w h : Nat) : Bool :=
  let y := s.ctx h
  let c := s.classOf w
  isRegionId h && h != 0 && y.st.holding && y.onTiles && y.preempt.isNone && (s.ctx w).waitsTiles &&
  (s.ctx w).rect.any y.holds &&
  (decide (y.prio < c) || (c == y.prio && decide (1000000 ≤ s.cycle - y.dispatched))) && s.firstFor w y.tiles

/-- The group is a team (R344). -/
def Group.team (g : Group) : Bool := bit (BitVec.ofNat 4 g.use) 2

/-- A context is a member of a team. -/
def State.inTeam (s : State) (c : Nat) : Bool :=
  match s.launchOf c with
  | some (_, la) => la.groups.any fun g => g.2.team && g.2.members.contains c
  | none => false

/-- A context may be dispatched: it is READY, and no pre-emption outranks that (R66). -/
def Ctx.dispatchable (x : Ctx) : Bool := x.st == .ready && x.preempt.isNone

/-- The context dispatched last in a class of a cluster. -/
def State.lastRan (s : State) (cl k : Nat) : Nat := tgetD (s.cl cl).ran k 0

/-- The scheduler's next context in a cluster: of the highest class, and in it the next in rotation; in the top class that aging
leads to, the one READY longest (R67). -/
def State.inTurn (s : State) (c : Nat) : Bool :=
  let cl := s.homeCl c
  let k := s.classOf c
  let after (i : Nat) : Nat := (i + 65535 - s.lastRan cl k) % 65536
  let before (i : Nat) : Bool :=
    if k = 4 ∧ (s.ctx i).readyAt ≠ (s.ctx c).readyAt then decide ((s.ctx i).readyAt < (s.ctx c).readyAt) else decide (after i < after c)
  (s.ctx c).dispatchable && !(s.ctxs.any fun p => isRegionId p.1 && p.2.dispatchable && s.homeCl p.1 == cl &&
    (decide (k < s.classOf p.1) || (s.classOf p.1 == k && before p.1)))

/-- SCHEDULER_DISPATCH: the READY context whose turn it is runs; an abandoned load starts anew, an unfinished DRAIN goes on
(R65, R66, R67). -/
def execSchedulerDispatch (c : Nat) (s : State) : Out :=
  let x := s.ctx c
  if !s.inTurn c then stall s
  else
    let y := { x with dispatched := s.cycle }
    let cl := s.homeCl c
    let s1 := s.setCl cl { s.cl cl with ran := tset (s.cl cl).ran (s.classOf c) c }
    .next (s1.setCtx c (match x.loading, x.hold with
      | some _, _ => { y with st := .loading }
      | none, .drain _ => { y with st := .draining, hold := .drain s.cycle }
      | none, _ => { y with st := .running }))

/-- PREEMPT_DECISION: a holder is to give its tiles up to a waiter (R340); a member of a team goes with its swap unit
(R344). -/
def execPreemptDecision (waiter holder : Nat) (s : State) : Out :=
  if s.mayPreempt waiter holder && !s.inTeam holder then
    .next (s.modCtx holder fun x => { x with preempt := some s.cycle, suspBy := 0 })
  else stall s

/-- UNFIN of an image taken now (R342). -/
def Ctx.unfinNow (x : Ctx) : Nat :=
  b2n (x.st == .loading && x.hold == .load) + 2 * b2n (x.st == .draining) +
  4 * b2n ((match x.hold with | .rotsv _ => true | _ => false) || x.loops.any fun l => l.2.busy != .none || l.2.save.isSome) +
  8 * b2n x.migr.isSome

/-- A context halts, at a count of the package that its die reads as `cyc` (R342): an abandoned CFG is issued again, any other
load starts anew (R66).  The members of a swap unit wait from the decision on, all alike (R344). -/
def Ctx.halt (x : Ctx) (now cyc : Nat) : Ctx :=
  let y := { x with
    st := .suspended, haltSt := x.st, haltCyc := cyc, unfin := x.unfinNow, frames := []
    readyAt := if x.suspBy = 2 then x.preempt.getD now else now
    loading := x.loading.map fun p => (p.1, 0, p.2.2)
    waitFor := if x.st = .waiting then x.waitFor else .none }
  if x.st = .loading ∧ x.hold = .load then { y with loading := none, hold := .none, ownDone := false } else y

/-- A condition that has become true when a context halts is recorded in its image: it does not wait for it again
(R66). -/
def State.recordWait (s : State) (c : Nat) : State :=
  let x := s.ctx c
  if x.waitFor = .none ∨ x.trapped.isSome ∨ !s.condTurn c x.waitFor then s
  else match s.condMet c x.waitFor with
    | none => s
    | some (s1, v) => s1.modCtx c (·.satisfied v)

/-- CONTEXT_HALT: a context that is to be saved halts at a firing boundary (R65, R66, R341). -/
def execContextHalt (c : Nat) (s : State) : Out :=
  let x := s.ctx c
  if x.preempt.isNone ∨ !x.st.holding then stall s
  else
    let s1 := if x.st = .waiting then s.recordWait c else s
    .next (s1.modCtx c (·.halt s.cycle (s.dieCycle x.place.die)))

/-- A group's swap-out is complete when every region of it has left its tiles: its membership changes again (R62,
R345). -/
def State.swapEnds (s : State) (l : Nat) : State :=
  match tget s.launches l with
  | none => s
  | some la =>
    let away (m : Nat) : Bool := !isRegionId m || (s.ctx m).off || (s.ctx m).preempt.isNone
    { s with launches := tset s.launches l { la with groups := la.groups.map fun g =>
      match g.2.swap with
      | some ms => if ms.all away then (g.1, { g.2 with swap := none }) else g
      | none => g } }

/-- SAVE_STAGED: the accesses that were accepted have ended; the image leaves the tiles (R324, R341). -/
def execSaveStaged (c : Nat) (s : State) : Out :=
  let x := s.ctx c
  if !isRegionId c ∨ x.st ≠ .suspended ∨ x.off ∨ !s.accessesDone c then stall s
  else
    let im := s.takeImage c (s.featureOf c)
    let s1 := ({ s with staged := tset s.staged c im }.dropTiles x).setCtx c
      { im.ctx with off := true, preempt := none, savedAt := none }
    .next (match x.launch with | some l => s1.swapEnds l | none => s1)

/-- SAVE_WRITTEN: the staged image is written on to the save area, once one is assigned (R341). -/
def execSaveWritten (c : Nat) (s : State) : Out :=
  let x := s.ctx c
  let pa := s.savePa x.place.die c
  match tget s.staged c with
  | none => stall s
  | some im =>
    if x.st ≠ .suspended ∨ pa = 0 then stall s
    else
      let s1 := s.writeImage { im with ctx := x } pa
      .next ({ s1 with staged := tdel s1.staged c }.modCtx c fun y => { y with savedAt := some pa })

/-! ### Resuming (R332, R343, R346) -/

/-- The region contexts that a cluster counts (R340). -/
def State.crowd (s : State) (cl : Nat) : Nat :=
  (s.ctxs.filter fun p => isRegionId p.1 && p.2.st != .free && decide (p.2.place.die * 6 + p.2.place.cluster = cl)).length

/-- There is room for a context in a cluster: at most 96 then, and an entry of its die's placement table (R340, R388). -/
def State.crowdOk (s : State) (c : Nat) (p : Place) : Bool :=
  let cl := p.die * 6 + p.cluster
  let x := s.ctx c
  decide (s.crowd cl + (if x.st ≠ .free ∧ x.place.die * 6 + x.place.cluster = cl then 0 else 1) ≤ 96) &&
  ((s.entryOf p.die c).isSome || (s.entryFree p.die).isSome)

/-- The placement table follows a context to a place (R332, R388). -/
def State.followMap (s : State) (c : Nat) (old : Nat) (p : Place) : State :=
  let x := s.ctx c
  let s1 := if old = p.die then s else s.clearEntry old c
  (s1.writeEntry c p).mapRect c x.logicals (rectOf p x.width x.height)

/-- A saved wait is tested at the restore (R66, R346). -/
def State.testWait (s : State) (c : Nat) : State := if (s.ctx c).haltSt = .waiting then s.recordWait c else s

/-- NARROW is posted to the stages of a context whose rung is above the one that its cluster permits (R339, R370). -/
def State.narrowPost (s : State) (c : Nat) : State :=
  match s.launchOf c with
  | none => s
  | some (l, la) =>
    let post (st : Stage) : Stage := if la.regions[st.region]? = some c ∧ s.rungCap c < st.cur then { st with narrow := true } else st
    { s with launches := tset s.launches l { la with stages := la.stages.map post } }

/-- A suspended context enters a rectangle and is READY: its image, its waits, its held releases and the returns from
its traps; no L1 that serves it there holds a line from before, and its new cluster tracks it and caps its rung (R66, R320, R324,
R343, R370, R417, R435). -/
def State.resumeAt (s : State) (c : Nat) (im : Saved) (p : Place) : State :=
  let x := s.ctx c
  let old := s.homeCl c
  let s1 := (s.takeL1 im.feature c (p.die * 6 + p.cluster)).setCtx c { x with off := false }
  let s2 := s1.putTiles c { im with ctx := x } p
  let s3 := { s2 with staged := tdel s2.staged c }.followMap c x.place.die p
  let s4 := ((s3.dropL1 c .system).repark c old).testWait c
  let s5 := s4.modCtx c fun y => { y with
    st := .ready, readyAt := s.cycle, dispatched := s.cycle, waitFor := .none, savedAt := none, suspBy := 0 }
  (((s5.track (s5.homeCl c) c).narrowPost c).releases c).rettPending c

/-- CONTEXT_RESUME: the scheduler restores a waiting context on a free rectangle that satisfies its features (R332, R340,
R343). -/
def execContextResume (c : Nat) (p : Place) (s : State) : Out :=
  let x := s.ctx c
  match s.imageOf c with
  | none => stall s
  | some im =>
    if x.waitsTiles && x.suspBy == 0 && s.mayStand im.feature (some c) p x.width x.height && s.crowdOk c p &&
      s.firstFor c (rectOf p x.width x.height) then .next (s.resumeAt c im p)
    else stall s

/-! ### Teams (R344 to R346) -/

/-- The members of a team: while it is being swapped out, those at the decision (R62). -/
def Group.crew (g : Group) : List Nat := g.swap.getD g.members

/-- The teams of a launch that a set of teams reaches through shared members, once. -/
def Launch.joinTeams (la : Launch) (gs : List Nat) : List Nat :=
  let ms := gs.flatMap fun g => (la.group g).crew
  (la.groups.filter fun g => g.2.team && (gs.contains g.1 || g.2.crew.any ms.contains)).map (·.1)

/-- The swap unit of a team (R344). -/
def Launch.swapUnit (la : Launch) (g : Nat) : List Nat :=
  (List.range la.groups.length).foldl (fun gs _ => la.joinTeams gs) [g]

/-- The members of a swap unit. -/
def Launch.unitMembers (la : Launch) (gs : List Nat) : List Nat := (gs.flatMap fun g => (la.group g).crew).dedup

/-- The region contexts of a swap unit. -/
def Launch.unitRegions (la : Launch) (gs : List Nat) : List Nat := (la.unitMembers gs).filter isRegionId

/-- A member of a team halts for a swap-out: a region is to be saved; an engine context's program stops, while its
operations go on (R344, R345). -/
def Ctx.swapOut (x : Ctx) (region : Bool) (now : Nat) : Ctx :=
  if region then (if x.st.holding then { x with preempt := some now, suspBy := 2 } else x)
  else if x.st = .running ∨ x.st = .waiting then { x with st := .suspended, haltSt := x.st, haltCyc := now, suspBy := 2 }
  else x

/-- The program of an engine context that was swapped out goes on; a wait at which it was saved is tested at once (R346, R417). -/
def State.engineBack (s : State) (e : Nat) : State :=
  let x := s.ctx e
  if x.st = .suspended then
    ((s.testWait e).modCtx e fun y => { y with
      st := if y.waitFor = .none then .running else x.haltSt, suspBy := 0 }).rettPending e
  else s

/-- A team's owned semaphores are saved into its image, and their numbers freed (R345). -/
def State.saveSems (s : State) (l g : Nat) : State :=
  let x := s.group l g
  let im : Tbl Nat := x.sems.foldl (fun a k => tset a k (s.sem x.cluster k)) []
  (x.sems.foldl (fun s k => s.setSem x.cluster k 0) s).setGroup l g { x with out := true, image := im, swap := some x.members }

/-- A team's owned semaphores are restored (R346). -/
def State.loadSems (s : State) (l g : Nat) : State :=
  let x := s.group l g
  x.sems.foldl (fun s k => s.setSem x.cluster k (tgetD x.image k 0)) (s.setGroup l g { x with out := false, image := [] })

/-- TEAM_SWAP_OUT: the swap unit of a team is swapped out whole, for a waiter that one of its members holds up (R344,
R345). -/
def execTeamSwapOut (l g : Nat) (s : State) : Out :=
  match tget s.launches l with
  | none => stall s
  | some la =>
    let gs := la.swapUnit g
    let ms := la.unitRegions gs
    let wanted := ms.any fun m => s.ctxs.any fun w => s.mayPreempt w.1 m
    if !(la.group g).team ∨ gs.any (fun k => (la.group k).out) ∨ ms.any (fun m => (s.ctx m).st = .migrating) ∨ !wanted then
      stall s
    else
      let s1 := (la.unitMembers gs).foldl (fun s m => s.modCtx m (·.swapOut (isRegionId m) s.cycle)) s
      .next ((gs.foldl (fun s k => s.saveSems l k) s1).swapEnds l)

/-- A member of a swap unit that is to come back: it was swapped out. -/
def Ctx.swapped (x : Ctx) : Bool := (x.st == .suspended || x.preempt.isSome) && x.suspBy == 2

/-- TEAM_SWAP_IN: a swap unit comes back where it was, semaphores first, once every member's rectangle is free (R344,
R346). -/
def execTeamSwapIn (l g : Nat) (s : State) : Out :=
  match tget s.launches l with
  | none => stall s
  | some la =>
    let gs := la.swapUnit g
    let ms := (la.unitRegions gs).filter fun m => (s.ctx m).swapped
    let ready (m : Nat) : Bool :=
      let x := s.ctx m
      match s.imageOf m with
      | none => false
      | some im => x.waitsTiles && s.mayStand im.feature (some m) x.place x.width x.height && s.crowdOk m x.place &&
          s.firstFor m x.rect
    if !(la.group g).team ∨ !(la.group g).out ∨ !ms.all ready then stall s
    else
      let s1 := gs.foldl (fun s k => s.loadSems l k) s
      let s2 := ms.foldl (fun s m => match s.imageOf m with
        | some im => s.resumeAt m im (s.ctx m).place
        | none => s) s1
      .next (((la.unitMembers gs).filter fun m => !isRegionId m).foldl State.engineBack s2)

/-! ### Migration and reclaiming (R65, R332, R349, R376, R388) -/

/-- A request of any memory unit reads or writes a scratchpad of a region and has not been performed: it is bound before
the region's copy starts, or has landed (R350). -/
def State.touched (s : State) (c : Nat) : Bool :=
  s.tiles.any fun t => [t.2.mu0, t.2.mu1].any fun m => m.reqs.any fun r => r.open && r.st != .failed && !r.hold &&
    r.elems.any fun e => !e.done && match e.spot with
      | .spad pt _ => (s.ctx c).holds pt
      | _ => false

/-- MIGRATION_COMPLETE: the region stands on its target tiles and is READY (R65, R349, R350, R388). -/
def execMigrationComplete (c : Nat) (s : State) : Out :=
  let x := s.ctx c
  match x.migr with
  | none => stall s
  | some a =>
    if x.st ≠ .migrating ∨ !s.accessesDone c ∨ s.touched c then stall s
    else
      let p : Place := { x.place with anchor := a }
      let im := s.takeImage c (s.featureOf c)
      let s1 := (s.dropTiles x).setCtx c im.ctx
      let s2 := (s1.putTiles c im p).followMap c x.place.die p
      let s3 := (s2.dropL1 c .system).repark c (s.homeCl c)
      .next (s3.modCtx c fun y =>
        { y with st := .ready, readyAt := s.cycle, dispatched := s.cycle, migr := none })

/-- The steal requests that a context has not answered get the empty range (R69). -/
def State.emptyReplies (s : State) (c : Nat) : State :=
  let x := s.ctx c
  (x.owed ++ (x.steals.map (·.2)).filter (· != c)).foldl (fun s t => s.stealReply c t 0 0) s

/-- CONTEXT_RECLAIM: a RETIRED region is FREE: its tiles, its entry and its part of the launch go; its retirement record
stays (R65, R69, R273, R388). -/
def execContextReclaim (c : Nat) (s : State) : Out :=
  let x := s.ctx c
  if !isRegionId c ∨ x.st ≠ .retired ∨ (x.onTiles ∧ !s.accessesDone c) then stall s
  else
    let s0 := s.emptyReplies c
    let s1 := if x.onTiles then s0.dropTiles x else s0
    let s2 := { s1.clearEntry x.place.die c with
      ctxs := tdel s1.ctxs c, staged := tdel s1.staged c, retired := tset s1.retired c x.halted }
    .next (match x.launch with
      | some l => if s2.ctxs.any fun p => p.2.launch == some l then s2 else { s2 with launches := tdel s2.launches l }
      | none => s2)

end Sys2Proof.Machine
end

