-- ==== Sys2Proof/Machine/Launch.lean ====
section
/-! DEFINITION. Launching: the launch image, its checks, the placement of its regions, its data initialisers, and the
launch port (R140, R170 to R172, R331 to R335, R375 to R377, R388, R412, R456, R457). -/

namespace Sys2Proof.Machine

/-! ### Reading the image (R130, R374) -/

/-- Bytes of an address space, by a walk of each page; none where a walk fails or the page may not be read. -/
def State.readVa (s : State) (root : Nat) : Nat → Nat → Option (List Byte)
  | 0, _ => some []
  | n + 1, va =>
    match s.walkVa root va with
    | none => none
    | some t =>
      if !bit t.w0 2 ∨ fld t.w1 57 3 ≥ 4 then none
      else (s.readVa root n (va + 1)).map (memGet s.mem (t.pa va) :: ·)

/-- An unsigned field of `n` bytes at an offset (R4). -/
def bfield (bs : List Byte) (o n : Nat) : Nat := natOfBytes ((bs.drop o).take n)

/-- The physical addresses of bytes of an address space. -/
def State.pasOf (s : State) (root off n : Nat) : List Nat :=
  (List.range n).filterMap fun i => (s.walkVa root (off + i)).map fun t => t.pa (off + i)

/-- A list cut into pieces of `n` bytes; a last shorter piece is kept. -/
def pieces (n : Nat) : Nat → List Byte → List (List Byte)
  | 0, _ => []
  | fuel + 1, bs => if bs = [] then [] else bs.take n :: pieces n fuel (bs.drop n)

/-- A region record (R171). -/
structure RegRec where
  w      : Nat
  h      : Nat
  prio   : Nat
  groups : List Nat
  cfgoff : Nat
  entry  : Nat
  lview  : Nat
  deriving DecidableEq, Repr

/-- A group record (R456). -/
structure GrpRec where
  num  : Nat
  use  : Nat
  /-- KIND, CTX and REGION of each member entry. -/
  mems : List (Nat × Nat × Nat)
  sems : List Nat
  deriving DecidableEq, Repr

/-- A data-initialiser record: its element's coordinates, the values' format and their packed bytes (R172). -/
structure DataRec where
  reg    : Nat
  lt     : List Word64
  fmt    : Fmt
  count  : Nat
  coords : List Nat
  values : List Byte
  deriving DecidableEq, Repr

/-- A launch image whose records have been checked. -/
structure LaunchImg where
  feature : Word64
  regs    : List RegRec
  grps    : List GrpRec
  views   : List Byte
  cfg     : List Byte
  code    : List Byte
  data    : List DataRec
  stages  : List Stage
  deriving DecidableEq, Repr

/-! ### The records (R170 to R172, R334, R412, R456) -/

/-- A region record, against the sections it names: any of them may be empty, and an offset may be where its section ends
(R170, R171; log entry 76). -/
def regRec (cfg code : Nat) (bs : List Byte) : Option RegRec :=
  let gv := bfield bs 3 1
  let r : RegRec :=
    { w := bfield bs 0 1, h := bfield bs 1 1, prio := bfield bs 2 1
      groups := ((List.range 4).filter fun j => natBits gv j 1 == 1).map fun j => bfield bs (4 + j) 1
      cfgoff := bfield bs 8 8, entry := bfield bs 16 8, lview := bfield bs 24 4 }
  if bs.length = 32 ∧ 1 ≤ r.w ∧ r.w ≤ 8 ∧ 1 ≤ r.h ∧ r.h ≤ 12 ∧ r.prio ≤ 3 ∧ gv < 16 ∧ bfield bs 28 4 = 0 ∧ r.cfgoff ≤ cfg ∧
    r.entry % 4 = 0 ∧ r.entry ≤ code then some r else none

/-- A member entry is assigned (R456). -/
def memOk (regs : Nat) (e : Nat) : Bool :=
  let ctx := natBits e 16 8
  decide (natBits e 24 6 = 0 ∧ natBits e 0 16 < regs) &&
  match natBits e 30 2 with
  | 0 => ctx == 0
  | 1 => decide (ctx < 64)
  | 2 => decide (ctx < 32)
  | _ => false

/-- The group records of section 1, in ascending group number (R456). -/
def grpRecs (regs : Nat) : Nat → Option Nat → List Byte → Option (List GrpRec)
  | 0, _, bs => if bs = [] then some [] else none
  | fuel + 1, last, bs =>
    if bs = [] then some []
    else
      let g := bfield bs 0 1
      let use := bfield bs 1 1
      let count := bfield bs 2 2
      let nsem := bfield bs 4 1
      let len := (8 + 4 * count + nsem + 7) / 8 * 8
      let es := (List.range count).map fun j => bfield bs (8 + 4 * j) 4
      let r : GrpRec :=
        { num := g, use := use, mems := es.map fun e => (natBits e 30 2, natBits e 16 8, natBits e 0 16)
          sems := (List.range nsem).map fun i => bfield bs (8 + 4 * count + i) 1 }
      let pad := (bs.take len).drop (8 + 4 * count + nsem)
      if len ≤ bs.length ∧ use < 16 ∧ count ≤ 4096 ∧ (nsem = 0 ∨ natBits use 2 1 = 1) ∧ bfield bs 5 3 = 0 ∧
        (∀ l ∈ last, l < g) ∧ (pad.all (· == 0)) ∧ (es.all (memOk regs)) ∧ r.mems.Nodup then
        (grpRecs regs fuel (some g) (bs.drop len)).map (r :: ·)
      else none

/-- The memberships that the region records and the group records name agree, and no context is named in more than four
groups (R412, R456). -/
def membersOk (regs : List RegRec) (grps : List GrpRec) : Bool :=
  (regs.zipIdx.all fun r =>
    let named := (grps.filter fun g => g.mems.contains (0, 0, r.2)).map (·.num)
    named.all r.1.groups.contains && r.1.groups.all named.contains) &&
  (grps.flatMap (·.mems)).all fun m => decide ((grps.filter fun g => g.mems.contains m).length ≤ 4)

/-- The coordinates after these, dimension 0 fastest; the last dimension does not wrap (R169). -/
def coordNext : List (Nat × Nat) → List Nat
  | [] => []
  | [(c, _)] => [c + 1]
  | (c, e) :: t => if c + 1 < e then (c + 1) :: t.map (·.1) else 0 :: coordNext t

/-- The coordinates of `n` elements from a start on. -/
def coordRun (es : List Nat) : Nat → List Nat → List (List Nat)
  | 0, _ => []
  | n + 1, cs => cs :: coordRun es n (coordNext (cs.zip es))

/-- The coordinates of a record's elements. -/
def DataRec.run (d : DataRec) : List (List Nat) :=
  let r := ltRank d.lt
  coordRun ((List.range r).map (ltExtent d.lt)) d.count (d.coords.take r)

/-- An element of a record keeps R120 in the address space with this root.  Where the page of BASE is not mapped, its
format, and with it the element's place, is not known before it is written (R172). -/
def DataRec.placed (s : State) (root : Nat) (d : DataRec) (e : List Int) : Bool :=
  if ltSpace d.lt < 3 then (s.place ⟨some 0, 0⟩ d.lt (fmtWidth d.fmt) e).isSome
  else match (s.walkVa root (ltBase d.lt)).bind (·.fmt) with
    | none => true
    | some f => match s.place ⟨none, 0⟩ d.lt (fmtWidth f) e with
      | some (.virt b) => (match s.walkVa root (b / 8) with | some t => t.fmt == some f | none => true)
      | _ => false

/-- What a data record must meet before anything is placed (R172). -/
def DataRec.ok (s : State) (root : Nat) (d : DataRec) : Bool :=
  let sp := ltSpace d.lt
  ltCodes d.lt && sp != 2 && sp != 7 && decide (2 ≤ ltAccess d.lt) && !isBlock d.fmt &&
  (decide (3 ≤ sp) || ltElem d.lt == some d.fmt) && ((d.coords.drop (ltRank d.lt)).all (· == 0)) &&
  d.run.all fun cs =>
    let e : List Int := cs.map fun c => (c : Int)
    ltInside d.lt e && d.placed s root e

/-- The layout entry `n` of a region's view, as the image gives it; reserved fields stay 0, and bytes past the section's end
read as 0 (R8, R119; log entry 76). -/
def viewEntry (views : List Byte) (lview n : Nat) : List Word64 :=
  ltClean ((List.range 8).map fun k => BitVec.ofNat 64 (bfield views ((lview + n) * 64 + 8 * k) 8))

/-- The data records of section 5 (R172). -/
def dataRecs (s : State) (root : Nat) (regs : List RegRec) (views : List Byte) : Nat → List Byte → Option (List DataRec)
  | 0, bs => if bs = [] then some [] else none
  | fuel + 1, bs =>
    if bs = [] then some []
    else match regs[bfield bs 0 2]?, fmtOf (bfield bs 3 1) with
      | some r, some f =>
        let n := bfield bs 4 4
        let size := (n * fmtWidth f + 7) / 8
        let len := 32 + (size + 7) / 8 * 8
        let d : DataRec :=
          { reg := bfield bs 0 2, lt := viewEntry views r.lview (bfield bs 2 1), fmt := f, count := n
            coords := (List.range 5).map fun k => bfield bs (8 + 4 * k) 4
            values := (bs.drop 32).take size }
        if len ≤ bs.length ∧ bfield bs 28 4 = 0 ∧ (((bs.take len).drop (32 + size)).all (· == 0)) ∧ d.ok s root then
          (dataRecs s root regs views fuel (bs.drop len)).map (d :: ·)
        else none
      | _, _ => none

/-- A stage record (R334). -/
def stageRec (regs : List RegRec) (k cfg : Nat) (bs : List Byte) : Option Stage :=
  let n := bfield bs 2 1
  let rung (m : Nat) : Rung :=
    ⟨bfield bs (16 + 12 * m) 8, bfield bs (24 + 12 * m) 1, bfield bs (25 + 12 * m) 1, bfield bs (26 + 12 * m) 1⟩
  let rungs := (List.range n).map rung
  let cur := bfield bs 3 1
  match regs[bfield bs 4 2]?, rungs[cur]? with
  | some r, some c =>
    if bs.length = 64 ∧ bfield bs 0 1 = k ∧ 1 ≤ n ∧ n ≤ 4 ∧ bfield bs 10 6 = 0 ∧ c.w = r.w ∧ c.h = r.h ∧
      (rungs.all fun g => decide (g.cfgoff ≤ cfg ∧ 1 ≤ g.w ∧ g.w ≤ 8 ∧ 1 ≤ g.h ∧ g.h ≤ 12 ∧ 1 ≤ g.unroll)) ∧
      (((List.range 4).all fun m => decide (bfield bs (27 + 12 * m) 1 = 0))) ∧
      (((List.range 4).all fun m => decide (m < n ∨ bfield bs (16 + 12 * m) 12 = 0))) ∧
      (((List.range (n - 1)).all fun m => decide ((rung m).w * (rung m).h < (rung (m + 1)).w * (rung (m + 1)).h))) then
      some { pipeline := bfield bs 1 1, cur := cur, region := bfield bs 4 2, fullsem := bfield bs 6 1
             emptysem := bfield bs 7 1, cap := bfield bs 8 2, rungs := rungs }
    else none
  | _, _ => none

/-- The sections overlap: two that hold bytes share one. -/
def overlaps (secs : List (Nat × Nat)) : Bool :=
  secs.zipIdx.any fun a => secs.zipIdx.any fun b => decide (a.2 < b.2 ∧ 0 < a.1.2 ∧ 0 < b.1.2 ∧ a.1.1 < b.1.1 + b.1.2 ∧
    b.1.1 < a.1.1 + a.1.2)

/-- The feature mask is offered by some die of the package (R333, R412). -/
def State.offered (s : State) (mask : Word64) : Bool :=
  decide (fld mask 12 52 = 0) && (List.range 8).any fun d => setFld mask 7 1 0 &&& ~~~(s.dieOffers d) == 0

/-- The header: the sections' offsets and lengths (R170). -/
def headerOk (hd : List Byte) : Option (List (Nat × Nat)) :=
  let secs := (List.range 7).map fun i => (bfield hd (16 + 16 * i) 8, bfield hd (24 + 16 * i) 8)
  if bfield hd 0 4 = 0x31495954 ∧ bfield hd 4 2 = 1 ∧ bfield hd 6 2 = 128 ∧ (secs.all fun p => p.1 % 64 == 0) ∧
    (secs.all fun p => p.2 == 0 || decide (128 ≤ p.1)) ∧ !overlaps secs ∧ (secs.headD (0, 0)).2 ≠ 0 then some secs else none

/-- Where the configuration image at an offset of section 3 ends: after its end record (R171, R185). -/
def imageEnd (cfg : List Byte) (off : Nat) : Option Nat :=
  ((List.range ((cfg.length - off) / 40)).find? fun k => decide (bfield cfg (off + 40 * k) 8 = 2 ^ 64 - 1)).map
    fun k => off + 40 * (k + 1)

/-- Every configuration image that the records name ends before the next one's offset (R171). -/
def imagesApart (cfg : List Byte) (offs : List Nat) : Bool :=
  offs.all fun o => offs.all fun p => decide (p ≤ o) || (match imageEnd cfg o with | some e => decide (e ≤ p) | none => false)

/-- The launch image at an offset of the address space with this root, as `rd` reads its bytes, checked (R170 to R172,
R334, R412, R456). -/
def State.checkImage (s : State) (root : Nat) (rd : Nat → Nat → Option (List Byte)) (off : Nat) : Option LaunchImg :=
  if off % 64 ≠ 0 then none
  else do
    let hd ← rd 128 off
    let secs ← headerOk hd
    let ss ← allSome (secs.map fun p => rd p.2 (off + p.1))
    let sec (i : Nat) : List Byte := ss.getD i []
    let views := sec 2
    let regs ← allSome ((pieces 32 (sec 0).length (sec 0)).map (regRec (sec 3).length (sec 4).length))
    let grps ← grpRecs regs.length (sec 1).length none (sec 1)
    let data ← dataRecs s root regs views (sec 5).length (sec 5)
    let stages ← allSome ((pieces 64 (sec 6).length (sec 6)).zipIdx.map fun p => stageRec regs p.2 (sec 3).length p.1)
    let feature : Word64 := BitVec.ofNat 64 (bfield hd 8 8)
    let offs := regs.map (·.cfgoff) ++ stages.flatMap fun st => st.rungs.map (·.cfgoff)
    if membersOk regs grps && imagesApart (sec 3) offs && s.offered feature then
      some { feature := feature, regs := regs, grps := grps, views := views, cfg := sec 3, code := sec 4, data := data
             stages := stages }
    else none

/-- The launch image at an offset of a function's aperture, checked (R374, R412). -/
def State.readImage (s : State) (root off : Nat) : Option LaunchImg := s.checkImage root (s.readVa root) off

/-! ### Placing (R331, R332, R335, R388) -/

/-- A region is placed on a rectangle; none where it may not stand there. -/
def State.placeRegion (s : State) (l i : Nat) (im : LaunchImg) (r : RegRec) (p : Place) : Option (State × Nat) :=
  let pts := rectOf p r.w r.h
  let cl := p.die * 6 + p.cluster
  let id := idOf p.die p.cluster (s.logical (pts.headD 0))
  if s.mayStand im.feature none p r.w r.h && (s.ctx id).st == .free && (s.entryFree p.die).isSome && decide (s.crowd cl < 96) then
    let x : Ctx :=
      { st := .loading, launch := some l, record := i, prio := r.prio, width := r.w, height := r.h, place := p
        code := codeFrom im.code r.entry, layout := (List.range 256).map fun n => (n, viewEntry im.views r.lview n)
        loading := some (r.cfgoff, 0, true), logicals := pts.map s.logical, readyAt := s.cycle, dispatched := s.cycle
        starts := (s.ctx id).starts }
    some (((s.takeL1 im.feature id cl).setCtx id x).writeEntry id p, id)
  else none

/-- The regions of a launch are placed in order, each on its rectangle. -/
def State.placeAll (s : State) (l : Nat) (im : LaunchImg) : Nat → List RegRec → List Place → Option (State × List Nat)
  | _, [], [] => some (s, [])
  | i, r :: rs, p :: ps =>
    match s.placeRegion l i im r p with
    | none => none
    | some (s1, id) => (State.placeAll s1 l im (i + 1) rs ps).map fun t => (t.1, id :: t.2)
  | _, _, _ => none

/-- A member entry as a context id (R456). -/
def State.memberId (s : State) (ids : List Nat) (m : Nat × Nat × Nat) : Nat :=
  let r := ids.getD m.2.2 0
  let p := (s.ctx r).place
  match m.1 with
  | 0 => r
  | 1 => idOf p.die p.cluster (128 + m.2.1)
  | _ => idOf p.die 7 m.2.1

/-- The members that the records' entries come to be, once the regions have their places, break no limit: no group lists one
twice, and none is named in more than four groups.  The entries of an engine context that name different regions of one cluster
or die are one member, listed twice (R412, R456; log entry 77). -/
def State.membersFit (s : State) (ids : List Nat) (gs : List GrpRec) : Bool :=
  let ms := gs.map fun g => g.mems.map (s.memberId ids)
  ms.all (fun m => decide m.Nodup) && ms.flatten.all fun c => decide ((ms.filter fun m => m.contains c).length ≤ 4)

/-- A group as placement leaves it: every member expected (R62, R264, R344); two entries never come to one member
(`State.membersFit`; log entry 77). -/
def State.groupOf (s : State) (ids : List Nat) (g : GrpRec) : Group :=
  let ms := g.mems.map (s.memberId ids)
  let home := ms.find? isRegionId
  { use := g.use, members := ms, expect := ms, word := BitVec.ofNat 64 (ms.length * 2 ^ 24), sems := g.sems
    cluster := match home with | some r => s.homeCl r | none => 0 }

/-- The group table is written at GTBASE of the die that places the launch (R456).  Its layout there is not given:
the bytes are free values, and the model reads the table from `State.launches`, whatever these bytes are (R12, R59, R387,
R456; log entry 24).  Neither has a register the bases of the layout views: a view stands in `Ctx.layout`, outside memory. -/
def State.writeGroups (s : State) (die l : Nat) : State :=
  let a := (s.reg die 0x57 0).toNat
  let bs := Config.groupTable l
  State.llcPass { s with mem := memPut s.mem a bs } ((List.range bs.length).map (a + ·)) true

/-- Every member of a race-detection scope becomes a tracked agent of its cluster, group by group in entry order (R435). -/
def State.trackAll (s : State) (gs : Tbl Group) : State :=
  (gs.flatMap (·.2.members)).foldl (fun s c => s.track (s.homeCl c) c) s

/-- The launch as placement writes it, with the groups of its region contexts; the semaphores of its clusters are 0
(R271), and a stage above RUNGCAP is to narrow (R339, R370). -/
def State.writeLaunch (s : State) (l fn : Nat) (im : LaunchImg) (ids : List Nat) : State :=
  let gs : Tbl Group := im.grps.foldl (fun t g => tset t g.num (s.groupOf ids g)) []
  let la : Launch :=
    { fn := fn, feature := im.feature, cfg := im.cfg, code := im.code, regions := ids, groups := gs
      stages := im.stages.map fun st =>
        let cl := s.homeCl (ids.getD st.region 0)
        { st with narrow := decide (fld (s.reg (cl / 6) 0x50 (cl % 6)) 0 2 < st.cur) }
      live := ids }
  let s0 := ids.foldl (fun s c => s.setCl (s.homeCl c) { s.cl (s.homeCl c) with sems := [] }) s
  let s1 := { s0.writeGroups (idDie (ids.headD 0)) l with launches := tset s.launches l la, nextLaunch := l + 1 }
  let s2 := (ids.zip im.regs).foldl (fun s p => s.modCtx p.1 fun x =>
    { x with members := Vector.ofFn fun k : Fin 4 => p.2.groups[k.val]? }) s1
  im.stages.foldl (fun s st =>
    let cl := s.homeCl (ids.getD st.region 0)
    if st.cap = 0 then s else (s.setSem cl st.fullsem 0).setSem cl st.emptysem st.cap) (s2.trackAll gs)

/-! ### Data initialisers (R172, R457) -/

/-- One element of an initialiser is written; none is a fault. -/
def State.initElem (s : State) (c : Nat) (d : DataRec) (cs : List Nat) (v : Nat) : Option State :=
  let x := s.ctx c
  let cl := s.homeCl c
  let who : Who := ⟨c, cl, none⟩
  let e : List Int := cs.map fun k => (k : Int)
  if ltVirtual d.lt then
    match s.walkVa (s.root c) (ltBase d.lt) with
    | none => none
    | some base =>
      match base.fmt with
      | none => none
      | some f =>
        if isBlock f ∨ !pairOk f d.fmt true then none
        else match s.place ⟨none, cl⟩ d.lt (fmtWidth f) e with
          | some (.virt b) =>
            match s.walkVa (s.root c) (b / 8) with
            | none => none
            | some t =>
              if !t.allows d.lt false true false ∨ t.fmt ≠ some f then none
              else
                let p := t.spot f b
                if (s.spotFault x.place.die p (s.routesOf x.place.die)).isSome then none
                else some ((s.store who .int8 d.fmt v false p).cleared who .int8 [{ spot := p }])
          | _ => none
  else (s.place ⟨some (x.pt 0 0), cl⟩ d.lt (fmtWidth d.fmt) e).map fun p =>
    (s.rawStore who (fmtWidth d.fmt) v false p).cleared who d.fmt [{ spot := p }]

/-- The elements of a record, in order: the state that they leave, and whether all were written. -/
def State.initRun (d : DataRec) (c : Nat) : Nat → List (List Nat) → State → State × Bool
  | _, [], s => (s, true)
  | i, cs :: t, s =>
    match s.initElem c d cs (bytesBits d.values (i * fmtWidth d.fmt) (fmtWidth d.fmt)) with
    | none => (s, false)
    | some s1 => State.initRun d c (i + 1) t s1

/-- The records in section order. -/
def State.initAll (ids : List Nat) : List DataRec → State → State × Bool
  | [], s => (s, true)
  | d :: t, s =>
    let r := State.initRun d (ids.getD d.reg 0) 0 d.run s
    if r.2 then State.initAll ids t r.1 else r

/-! ### The launch port (R375, R376) -/

/-- LAUNCH: a write to the launch port (R375, R376). -/
def execLaunch (fn : Nat) (off : Word64) (s : State) : Out :=
  let p := s.port fn
  if 17 ≤ fn ∨ p.inReset ∨ !s.hostUp then stall s
  else if p.st ≠ 0 then .next ((if p.drop then s else s.lstat fn fun p => { p with drop := true }).stamp (lstatKey fn) (2 ^ 7))
  else .next (s.lstat fn fun p => { p with st := 1, off := off, tried := none })

/-- A pending launch is refused (R376, R412). -/
def State.refuseLaunch (s : State) (fn : Nat) : State :=
  (s.lstat fn fun p => { p with st := 0, refused := true }).stamp (lstatKey fn) (2 ^ 6)

/-- A lower-numbered function that is PENDING is to be served first in this cycle (R376). -/
def State.servedFirst (s : State) (fn : Nat) : Bool :=
  s.ports.any fun p => decide (p.1 < fn) && p.2.st == 1 && p.2.tried != some s.cycle

/-- The physical addresses at which an image is read: its header and, where that is good, its sections (R141, R170). -/
def State.imagePas (s : State) (root off : Nat) : List Nat :=
  let secs := match (s.readVa root 128 off).bind headerOk with | some l => l | none => []
  s.pasOf root off 128 ++ secs.flatMap fun p => s.pasOf root (off + p.1) p.2

/-- LAUNCH_PLACE: the launch controller of the first region's die checks a pending launch and places it whole; a launch
that does not fit waits (R331, R376, R412). -/
def execLaunchPlace (fn : Nat) (ps : List Place) (s0 : State) : Out :=
  let d := (ps.headD ⟨0, 0, 0⟩).die
  let p := s0.port fn
  let root := (s0.reg d 0x58 fn).toNat
  let s := s0.llcPass (s0.imagePas root p.off.toNat) false
  if p.st ≠ 1 ∨ !(s.die d).up ∨ !(s.die d).places ∨ s.servedFirst fn then stall s0
  else match s.readImage root p.off.toNat with
    | none => .next (s.refuseLaunch fn)
    | some im =>
      let l := s.nextLaunch
      match s.placeAll l im 0 im.regs ps with
      | none => .next { s with ports := tset s.ports fn { p with tried := some s.cycle } }
      | some (s1, ids) =>
        if !s1.membersFit ids im.grps then .next (s.refuseLaunch fn)
        else
        let r := State.initAll ids im.data (s1.writeLaunch l fn im ids)
        if r.2 then .next (r.1.lstat fn fun q => { q with st := 2 })
        else .next ({ s with
          mem := r.1.mem, spad := r.1.spad, memPoison := r.1.memPoison, spadPoison := r.1.spadPoison }.refuseLaunch fn)

end Sys2Proof.Machine
end

