-- ==== Sys2Proof/Machine/Pipe.lean ====
section
/-! DEFINITION. Pipelines and mapping ladders: MAPSEL, PIPE, occupancy samples and reassignment (R303, R334, R335, R337 to
R339, R370). -/

namespace Sys2Proof.Machine

/-- A stage changed. -/
def State.modStage (s : State) (l k : Nat) (f : Stage → Stage) : State :=
  match tget s.launches l with
  | some la =>
    { s with launches := tset s.launches l { la with stages := la.stages.zipIdx.map fun p => if p.2 = k then f p.1 else p.1 } }
  | none => s

/-- The region context of a stage. -/
def Launch.stageCtx (la : Launch) (st : Stage) : Nat := la.regions.getD st.region 0

/-- OCC of a stage's queue: FULLSEM (R335). -/
def State.occ (s : State) (c : Nat) (st : Stage) : Nat := s.semRead c (s.homeCl c) st.fullsem

/-- A rung's rectangle at the region's anchor is free apart from the region's own tiles (R337). -/
def State.rungFree (s : State) (c : Nat) (r : Rung) : Bool :=
  s.mayStand (s.featureOf c) (some c) (s.ctx c).place r.w r.h

/-- The rung that a widening goes to: the lowest higher one that is permitted and whose rectangle is free (R337, R339). -/
def State.wider (s : State) (c : Nat) (st : Stage) : Option Nat :=
  (List.range st.rungs.length).find? fun m =>
    decide (st.cur < m ∧ m ≤ s.rungCap c) && (match st.rungs[m]? with | some r => s.rungFree c r | none => false)

/-- The rung that a narrowing goes to: the one that the budget permits, or the next lower one (R337, R339). -/
def State.narrower (s : State) (c : Nat) (st : Stage) : Option Nat :=
  if s.rungCap c < st.cur then some (s.rungCap c) else if st.cur = 0 then none else some (st.cur - 1)

/-! ### MAPSEL and PIPE (R303) -/

/-- The stage that XA names. -/
def stageNo (a : Word64) : Nat := a.toNat

/-- MAPSEL: waits until the step of the stage's region has ended and that region is quiescent; its mapping is loaded by the steps
of R338, and the command completes when the last frame is loaded (R41, R303). -/
def execMapsel (a : XReg) (imm : BitVec 8) (w : CtlP2) (s : State) : Out :=
  let k (s : State) (c : Nat) : Nat := stageNo ((s.ctx c).getX a)
  runCmd w {
    cond := fun s c => match s.launchOf c, s.stageOf c (k s c) with
      | some (_, la), some st => if la.stageCtx st = c then .idle true else .idleAt (la.stageCtx st)
      | _, _ => .none
    late := fun s c => match s.stageOf c (k s c) with
      | some st => trapUnless (decide (k s c < 256 ∧ imm.toNat < st.rungs.length))
      | none => some causeUnassigned
    act := fun s c _ =>
      match s.stageOf c (k s c) with
      | some st =>
        if st.target.isSome then stall s
        else .next ((s.modStage (s.launchNo c) (k s c) fun st => { st with target := some imm.toNat, soft := true }).holdCmd c w 2
          (.mapsel (k s c)))
      | none => stall s } s

/-- PIPE: the state of a declared queue (R303). -/
def execPipe (d a : XReg) (w : CtlP2) (s : State) : Out :=
  let stage (s : State) (c : Nat) : Option Stage := s.stageOf c (fld ((s.ctx c).getX a) 0 8)
  runCmd w { atIssue w 2 (fun s c =>
      match s.launchOf c, stage s c with
      | some (_, la), some st =>
        let v := s.occ (la.stageCtx st) st + st.cap * 2 ^ 16 + st.cur * 2 ^ 32 + b2n st.wide * 2 ^ 34 + b2n st.narrow * 2 ^ 35
        s.modCtx c fun x => x.setX d (BitVec.ofNat 64 v)
      | _, _ => s) with
    check := fun s c => trapUnless ((stage s c).any fun st => decide (st.cap ≠ 0)) } s

/-! ### Samples (R337) -/

/-- The key at which a launch's last sample is kept. -/
def pipeKey (l : Nat) : Nat := 2 ^ 20 + l

/-- A stage after a sample of its queue (R337, R339). -/
def State.sampleStage (s : State) (la : Launch) (st : Stage) : Stage :=
  if st.cap = 0 then st
  else
    let c := la.stageCtx st
    let n := s.occ c st
    let hi := if (3 * st.cap + 3) / 4 ≤ n then st.high + 1 else 0
    let lo := if n ≤ st.cap / 4 then st.low + 1 else 0
    let ready := match st.last with | some t => decide (256000 ≤ s.cycle - t) | none => true
    { st with
      high := hi, low := lo
      wide := st.wide || (ready && decide (64 ≤ hi) && (s.wider c st).isSome)
      narrow := st.narrow || (ready && decide (64 ≤ lo ∧ 0 < st.cur)) }

/-- CYCLE, as the die of a stage's region reads it, is a multiple of 1000 (R33, R337). -/
def State.sampleNow (s : State) (la : Launch) (st : Stage) : Bool := s.dieCycle (s.ctxDie (la.stageCtx st)) % 1000 == 0

/-- PIPE_SAMPLE: at a multiple of 1000 of its die's CYCLE the scheduler samples every declared queue of a launch (R337). -/
def execPipeSample (l : Nat) (s : State) : Out :=
  match tget s.launches l with
  | none => stall s
  | some la =>
    if !la.stages.any (s.sampleNow la) ∨ tget s.sampled (pipeKey l) = some s.cycle then stall s
    else .next { s with
      sampled := tset s.sampled (pipeKey l) s.cycle
      launches := tset s.launches l { la with
        stages := la.stages.map fun st => if s.sampleNow la st then s.sampleStage la st else st } }

/-! ### Reassignment (R338) -/

/-- The rung to which a posted stage goes. -/
def State.goal (s : State) (c : Nat) (st : Stage) : Option Nat :=
  match st.target with
  | some m => some m
  | none => if st.narrow then s.narrower c st else if st.wide then s.wider c st else none

/-- No loop of the region holds a stream (R338). -/
def Ctx.loopsEmpty (x : Ctx) : Bool := x.loops.all fun l => l.2.valid == 0

/-- A reassignment of a stage of the region waits for its iteration boundary, ahead of the next index (R286, R338). -/
def State.postDue (s : State) (c : Nat) : Bool :=
  match s.launchOf c with
  | none => false
  | some (_, la) => la.stages.any fun st => la.stageCtx st == c && !(s.ctx c).reassign && (s.ctx c).loopsEmpty &&
      (match s.goal c st with | some m => decide (m ≤ s.rungCap c) | none => false)

/-- ITER_INDEX_ISSUE: the counter issues its next index (R38), after what waits for the boundary. -/
def execIterIndexIssue (c : Nat) (s : State) : Out :=
  let x := s.ctx c
  if x.counting && !x.reassign && !x.atBoundary && !s.postDue c && decide (x.next < x.limit) && s.fedRoom c then
    .next ((s.feedAll c (dataToken (BitVec.ofNat 512 (x.next % 2 ^ 64)) 0 0 false)).modCtx c
      fun y => { y with next := x.next + 1 })
  else stall s

/-- ITER_EOS_SEND: NEXT has reached LIMIT, and one EOS goes to each generator (R38). -/
def execIterEosSend (c : Nat) (s : State) : Out :=
  let x := s.ctx c
  if x.counting && !x.reassign && !x.atBoundary && !s.postDue c && decide (x.limit ≤ x.next) && s.fedRoom c then
    .next ((s.feedAll c eosToken).modCtx c fun y => { y with eosSent := true })
  else stall s

/-- STAGE_REASSIGN: step 1 of R338: at the region's iteration boundary a new mark is injected and the counter stops.
Between two steps a posted reassignment waits for the next RUN, as R286 says of BARI; one by MAPSEL, whose wait has found the
region without a step, injects its mark at once (log entry 22). -/
def execStageReassign (l st : Nat) (s : State) : Out :=
  match tget s.launches l with
  | none => stall s
  | some la =>
    match la.stages[st]? with
    | none => stall s
    | some g =>
      let c := la.stageCtx g
      let x := s.ctx c
      match s.goal c g with
      | none => stall s
      | some m =>
        if x.reassign ∨ !x.st.fires ∨ !x.loopsEmpty ∨ x.launch ≠ some l ∨ s.rungCap c < m then stall s
        else if (x.counting || (!x.stepOn && g.soft)) && x.steals.isEmpty && s.fedRoom c then
          let n := (x.mark + 1) % 2 ^ 32
          let s1 := (s.modStage l st fun g => { g with target := some m, mark := n }).setCtx c { x with
            reassign := true, mark := n, barOut := x.barOut ++ [(n, [])], marks := tset x.marks n {} }
          .next (s1.feedAll c (barrierToken n))
        else stall s

/-- A region takes a rung's rectangle: the tiles outside it are freed, the new ones held (R338). -/
def State.takeRung (s : State) (c : Nat) (r : Rung) : State :=
  let x := s.ctx c
  let y := { x with width := r.w, height := r.h }
  let gone := x.tiles.filter fun pt => !y.holds pt
  let old := x.tiles.zip x.logicals
  let name (pt : Nat) : Nat := match old.find? fun p => p.1 == pt with | some p => p.2 | none => s.logical pt
  { s with
    tiles := gone.foldl tdel s.tiles }.setCtx c { y with logicals := y.tiles.map name }

/-- STAGE_REASSIGN_LOAD: steps 2 and 3 of R338: the mark has reached every sink and the region is quiescent; the rung's
frames are to be loaded into its rectangle.  A RUNNING region is LOADING meanwhile; one in another state stays in it, since R65 has
no move for it.  A rung that RUNGCAP no longer permits is not loaded (R370): the post is dropped, and a MAPSEL waits (log entry
22). -/
def execStageReassignLoad (l st : Nat) (s : State) : Out :=
  match tget s.launches l with
  | none => stall s
  | some la =>
    match la.stages[st]? with
    | none => stall s
    | some g =>
      let c := la.stageCtx g
      let x := s.ctx c
      match (match g.target with | some m => (g.rungs[m]?).map fun r => (m, r) | none => none) with
      | none => stall s
      | some (m, r) =>
        if x.reassign ∧ !g.soft ∧ s.rungCap c < m then
          .next ((s.modStage l st fun g => { g with target := none }).modCtx c fun x => { x with reassign := false })
        else if s.rungCap c < m ∨ !x.reassign ∨ !x.st.fires ∨ !x.quiet ∨ x.barOut.any (fun p => p.1 == g.mark) ∨ !x.loopsEmpty ∨ !s.rungFree c r then
          stall s
        else .next (((s.takeRung c r).startLoad c r.cfgoff false).modCtx c fun y =>
          if x.st = .running then y else { y with st := x.st })

end Sys2Proof.Machine
end

