-- ==== Sys2Proof/Machine/Volt.lean ====
section
/-! DEFINITION. Voltage-frequency regions: the curve, a region's present point, and the guard step before matrix bursts
(R29, R363 to R368). -/

namespace Sys2Proof.Machine

/-- CURVEj of a die (R363, R364). -/
def State.curve (s : State) (die j : Nat) : Nat :=
  if j < 8 then fld (s.reg die 0x4A 0) (8 * j) 6 else fld (s.reg die 0x4B 0) (8 * (j - 8)) 6

/-- vreq(f): the least VCODE for FCODE f (R363). -/
def State.vreq (s : State) (die f : Nat) : Nat := s.curve die (Nat.min ((f - 16 + 7) / 8) 15)

/-- The present VCODE (R364). -/
def State.vcode (s : State) (die v : Nat) : Nat := (s.vf die v).vcode.getD (s.curve die 0)

/-- The guard step's acknowledgement needs no raise (R368); while a step down runs, the voltage it ends at must do, since
the voltage never falls below vreq(F) + 1 with GUARD held (R366). -/
def State.guardAck (s : State) (die v : Nat) : Bool :=
  let x := s.vf die v
  let u := s.vcode die v - (if x.step = some false then 1 else 0)
  decide (s.vcode die v = 48 ∨ s.vreq die x.fcode + 1 ≤ u)

/-- VFSTAT (R364). -/
def State.vfstat (s : State) (die v : Nat) : Word64 :=
  let x := s.vf die v
  let pend := match x.pend with | some p => 2 ^ 28 + p % 256 * 2 ^ 20 | none => 0
  BitVec.ofNat 64 (x.st % 4 * 2 ^ 30 + b2n x.guard * 2 ^ 29 + pend + s.vcode die v * 2 ^ 8 + x.fcode)

end Sys2Proof.Machine
end

