-- ==== Sys2Proof/Machine/Power.lean ====
section
/-! DEFINITION. Power: frequency requests and the ramp, the back-pressure monitor, the guard step, the curve, the sensors,
the budget and the trips, and energy accounting (R29, R339, R347, R363 to R372, R395, R452, R453). -/

namespace Sys2Proof.Machine

/-! ### Requests and the ramp (R365, R366) -/

/-- FCEIL and FFLOOR of a region (R364). -/
def State.fceil (s : State) (die v : Nat) : Nat := fld (s.reg die 0x48 v) 16 8
/-- FFLOOR of a region (R364). -/
def State.ffloor (s : State) (die v : Nat) : Nat := fld (s.reg die 0x48 v) 8 8

/-- The highest FCODE that FCEIL and the ceilings of R369 and R453 allow. -/
def State.ceiling (s : State) (die v : Nat) : Nat :=
  let x := s.vf die v
  let top := s.fceil die v
  let c := Nat.min top ((x.thermal.getD top).min (x.budget.getD top))
  if x.current then Nat.min c (s.ffloor die v) else c

/-- A request as it is clamped: into the limits, and into the range of FCODE (R363, R365). -/
def State.clampF (s : State) (die v f : Nat) : Nat :=
  Nat.max 16 (Nat.min 132 (Nat.min (Nat.max f (s.ffloor die v)) (s.ceiling die v)))

/-- The voltage that a DOWN region falls to. -/
def State.vdown (s : State) (die : Nat) (x : Vf) : Nat := s.vreq die (x.pend.getD x.fcode) + b2n x.guard

/-- The region between two steps: what the ramp begins next, or STEADY (R366). -/
def State.ramp (s : State) (die v : Nat) : State :=
  let x := s.vf die v
  let u := s.vcode die v
  let p := x.pend.getD x.fcode
  if x.step.isSome then s
  else match x.st with
    | 1 =>
      if u < s.vreq die p then s.setVf die v { x with step := some true }
      else s.setVf die v { x with st := 0, fcode := p, pend := none }
    | 2 =>
      if s.vdown die x < u then s.setVf die v { x with step := some false }
      else s.setVf die v { x with st := 0, pend := none }
    | _ => s

/-- A request for an FCODE, as clamped, enters PEND, and the region moves (R365, R366). -/
def State.request (s : State) (die v f : Nat) : State :=
  let x := s.vf die v
  let p := s.clampF die v f
  if x.st = 0 ∧ p = x.fcode then s.setVf die v { x with pend := none }
  else
    let y := { x with pend := some p }
    let z : Vf :=
      if p < x.fcode then { y with st := 2, fcode := p }
      else if x.fcode < p then { y with st := 1 }
      else y
    (s.setVf die v z).ramp die v

/-- A ceiling that has come down is a request where the present or the pending FCODE stands above it (R365, R369,
R453). -/
def State.reclamp (s : State) (die v : Nat) : State :=
  let x := s.vf die v
  let c := s.ceiling die v
  if c < x.fcode ∨ c < x.pend.getD 0 then s.request die v (x.pend.getD x.fcode) else s

/-- The keys of `State.sampled` for the supervisor's request, the monitor, sensors and regions' ceilings. -/
def freqKey (die v : Nat) : Nat := 2 ^ 21 + vfKey die v
/-- The key of a tile's last sensor sample. -/
def sensKey (pt : Nat) : Nat := 2 ^ 22 + pt
/-- The key of the last sample at which a region's thermal ceiling came down. -/
def coolKey (die v : Nat) : Nat := 2 ^ 23 + vfKey die v
/-- The key of the last power window. -/
def powerKey : Nat := 2 ^ 24

/-- The monitor's request of this CYCLE undone: the supervisor's prevails (R365). -/
def State.overrule (s : State) (die v : Nat) : State :=
  let x := s.vf die v
  match x.before with
  | some (at_, st, f, p, k) =>
    if at_ = s.cycle then s.setVf die v { x with st := st, fcode := f, pend := p, step := k, before := none } else s
  | none => s

/-- What happens to a region's ramp in the CYCLE of a monitor's request happens to what the request replaced, too: a step that
ends or begins there is not undone with the request (R365, R366). -/
def State.onRamp (s : State) (die v : Nat) (f : State → State) : State :=
  let t := f s
  match (s.vf die v).before with
  | some (at_, _, _, _, _) =>
    if at_ = s.cycle then
      let o := (f (s.overrule die v)).vf die v
      t.setVf die v { t.vf die v with before := some (at_, o.st, o.fcode, o.pend, o.step) }
    else t
  | none => t

/-- The step in progress of a region ends, if there is one, and the ramp goes on (R366, R368). -/
def State.stepDone (s : State) (die v : Nat) : State :=
  let x := s.vf die v
  match x.step with
  | none => s
  | some up =>
    let u := s.vcode die v
    let s1 := s.setVf die v { x with step := none, vcode := some (if up then u + 1 else u - 1) }
    let s2 := if x.want.isSome && s1.guardAck die v then
        s1.setVf die v { s1.vf die v with guard := true, want := none } else s1
    s2.ramp die v

/-- MON and the limits of a region written; a FCEIL lowered below the present FCODE is a request for it (R364, R365). -/
def State.writeLimits (s : State) (die v : Nat) (w : Word64) : State :=
  let s1 := s.setReg die 0x48 v (BitVec.ofNat 64 (fld w 8 17 * 256))
  if s1.fceil die v < s.fceil die v ∧ s1.fceil die v < (s.vf die v).fcode then
    (State.overrule { s1 with sampled := tset s1.sampled (freqKey die v) s.cycle } die v).request die v (s1.fceil die v)
  else s1

/-- A write of VFCTL: MON and the limits, and the request that FREQ places (R364, R365). -/
def State.writeVfctl (s : State) (die v : Nat) (w : Word64) : State :=
  let s1 := s.writeLimits die v w
  (State.overrule { s1 with sampled := tset s1.sampled (freqKey die v) s.cycle } die v).request die v (fld w 0 8)

/-- VOLTAGE_STEP_END: the step in progress ends, and the region moves; a burst that waits for the guard has it when the
voltage suffices (R366, R368). -/
def execVoltageStepEnd (die v : Nat) (s : State) : Out :=
  if (s.vf die v).step.isNone then stall s else .next (s.onRamp die v fun s => s.stepDone die v)

/-! ### The monitor (R367) -/

/-- A switch entry of a tile takes a token over the border of its voltage-frequency region, on either side (R30). -/
def overBorder (pt : Nat) (p : Parcel) : Bool :=
  let across (side : Nat) : Bool := match neighbour pt side with | some q => ptVf q != ptVf pt | none => false
  bit p 0 && ((decide (fld p 20 6 < 0x20) && across (fld p 20 6 / 8)) || (decide (fld p 26 6 < 0x20) && across (fld p 26 6 / 8)))

/-- A region has a border stream. -/
def State.hasBorder (s : State) (die v : Nat) : Bool :=
  s.tiles.any fun t => ptDie t.1 == die && vfNo t.1 == v &&
    ((t.2.sw.data ++ t.2.sw.ctl).any fun p => overBorder t.1 p.2)

/-- The counts of a window: FULL as the elastic buffers that the region receives have stood, BLK at most as many cycles as a full
one of a neighbour could refuse it, since a cycle in which the region sends nothing refuses nothing (R367; log entry 29). -/
def Vf.countsOk (x : Vf) (full blk : Nat) : Bool :=
  decide (full = Nat.min 4096 (x.full / 40) ∧ blk ≤ Nat.min 4096 (x.blocked / 40))

/-- The monitor's request; what the region was before it is kept for this CYCLE (R365). -/
def State.monitorRequest (s : State) (die v f : Nat) : State :=
  let x := s.vf die v
  let t := s.request die v f
  t.setVf die v { t.vf die v with before := some (s.cycle, x.st, x.fcode, x.pend, x.step) }

/-- MONITOR_WINDOW_END: a window of 4096 of the region's cycles has ended with these counts (R363, R365, R367; log entry 29). -/
def execMonitorWindowEnd (die v full blk : Nat) (s : State) : Out :=
  let x := s.vf die v
  let s1 := s.setVf die v { x with window := x.clock s.cycle, full := 0, blocked := 0 }
  if !bit (s.reg die 0x48 v) 24 ∨ !s.hasBorder die v ∨ !x.countsOk full blk ∨ x.clock s.cycle < x.window + 4096 then stall s
  else if tget s.sampled (freqKey die v) = some s.cycle then .next s1
  else if 1024 ≤ full ∧ blk < 256 then .next (s1.monitorRequest die v (x.fcode + 4))
  else if 1024 ≤ blk ∧ full < 256 then .next (s1.monitorRequest die v (x.fcode - 4))
  else .next s1

/-! ### The guard step (R368) -/

/-- A region's request for a raise can be granted. -/
def State.grantable (s : State) (die v : Nat) : Bool :=
  let x := s.vf die v
  x.want.isSome && x.step.isNone && !s.guardAck die v

/-- GUARD_GRANT: the die grants a raise of one step, oldest request first, to four regions a nanosecond at most, and none
in an overcurrent (R368, R453). -/
def execGuardGrant (die v : Nat) (s : State) : Out :=
  let x := s.vf die v
  let d := s.die die
  let n := if d.grants.1 = s.cycle then d.grants.2 else 0
  let older := (List.range 36).any fun k =>
    s.grantable die k && decide ((s.vf die k).want.getD 0 < x.want.getD 0)
  if !s.grantable die v ∨ older ∨ 4 ≤ n ∨ x.current then stall s
  else .next ((s.setDie die { d with grants := (s.cycle, n + 1) }).onRamp die v fun s =>
    s.setVf die v { s.vf die v with st := 1, step := some true })

/-- GUARD_RELEASE: 256 cycles of the region have passed without a burst (R363, R366, R368). -/
def execGuardRelease (die v : Nat) (s : State) : Out :=
  let x := s.vf die v
  if !x.guard ∨ x.want.isSome ∨ x.clock s.cycle < x.lastBurst + 256 then stall s
  else .next (s.onRamp die v fun s =>
    let y : Vf := { s.vf die v with guard := false }
    (s.setVf die v (if y.st = 0 then { y with st := 2 } else y)).ramp die v)

/-! ### The curve and the budget (R339, R363, R370) -/

/-- The sixteen entries never fall and none is above 48 (R363). -/
def curveOk (c : List Nat) : Bool := (c.all fun x => decide (x ≤ 48)) && (c.zip c.tail).all fun p => decide (p.1 ≤ p.2)

/-- A region's voltage is held while the curve changes, and rises to what its frequency then needs (R363, R366). -/
def State.holdVoltage (s t : State) (die v : Nat) : State :=
  t.onRamp die v fun t =>
    let x := t.vf die v
    let t1 := t.setVf die v { x with vcode := some (s.vcode die v) }
    if t1.vcode die v < t1.vreq die x.fcode ∧ x.st ≠ 1 then
      (t1.setVf die v { t1.vf die v with st := 1 }).ramp die v
    else t1

/-- A write of CURVELO or CURVEHI; one that R363 refuses changes nothing. -/
def State.writeCurve (s : State) (die num : Nat) (w : Word64) : State :=
  let t := s.setReg die num 0 (BitVec.ofNat 64 ((List.range 8).foldl (fun a k => a + fld w (8 * k) 6 * 2 ^ (8 * k)) 0))
  if curveOk ((List.range 16).map (t.curve die)) then (List.range 36).foldl (fun t v => s.holdVoltage t die v) t else s

/-- NARROW is posted to the stages of a cluster whose rung, or the one that they are loading, is above the permitted one (R339,
R370). -/
def State.postNarrow (s : State) (cl : Nat) : State :=
  let post (la : Launch) (st : Stage) : Stage :=
    if s.homeCl (la.stageCtx st) = cl ∧ s.rungCap (la.stageCtx st) < st.cur then { st with narrow := true } else st
  { s with launches := s.launches.map fun l => (l.1, { l.2 with stages := l.2.stages.map (post l.2) }) }

/-- A write of RUNGCAP (R339, R370). -/
def State.writeRungcap (s : State) (die k : Nat) (w : Word64) : State :=
  (s.setReg die 0x50 k (BitVec.ofNat 64 (fld w 0 2))).postNarrow (die * 6 + k)

/-! ### Sensors and trips (R347, R369, R395, R453) -/

/-- A signed quarter-degree field (R369). -/
def degrees (w : Word64) (i : Nat) : Int := (BitVec.ofNat 16 (fld w i 16)).toInt

/-- The tiles of a voltage-frequency region of a die. -/
def vfTiles (die v : Nat) : List Nat :=
  ((List.range 96).map fun t => ptOf die (v / 6) t).filter fun pt => vfNo pt == v

/-- A tile's last reading (R369). -/
def State.tsens (s : State) (pt : Nat) : Int := degrees (s.reg (ptDie pt) 0x4D (pt % 576)) 0

/-- A trip sets TRIPSTAT and writes a record (R452, R453). -/
def State.tripped (s : State) (die k : Nat) (cls : ErrClass) (type : Nat) : State :=
  ((s.setReg die 0x6B 0 (setFld (s.reg die 0x6B 0) k 1 1)).stamp (regKey die 0x6B 0) (2 ^ k)).errRecord die .global cls 27
    type 0 0 0

/-- A context that holds a tile of a tripped region is pre-empted, and its posted migration is cancelled (R348, R453). -/
def Ctx.trip (x : Ctx) (now : Nat) : Ctx :=
  if x.st.holding then { x with preempt := some now, suspBy := 0, migr := none } else x

/-- A thermal trip of a tile's region (R453). -/
def State.thermalTrip (s : State) (die v : Nat) : State :=
  let pts := vfTiles die v
  let cs := (pts.filterMap s.owner).dedup
  let s1 := s.setVf die v { s.vf die v with thermal := some (s.ffloor die v) }
  let s2 := cs.foldl (fun s c => s.modCtx c (·.trip s.cycle)) s1
  (State.tripped { s2 with noPlace := (s2.noPlace.filter fun p => !pts.contains p) ++ pts } die 0 .uc 0x34).reclamp die v

/-- A thermal shutdown: every clock stops and the host link drops; the next start finds SHUT (R452, R453). -/
def State.shutDown (s : State) : State := { s with shutdown := true, hostUp := false }

/-- A threshold's arming after a sample: whether it is a crossing, and whether it is armed now (R369). -/
def crossing (armed : Bool) (t thr : Int) : Bool × Bool :=
  if thr ≤ t then (armed, false) else (false, armed || decide (t < thr - 8))

/-- THROT of a tile (R369). -/
def State.throt (s : State) (pt : Nat) : Int := degrees (s.reg (ptDie pt) 0x4E (pt % 576)) 16

/-- A region's thermal ceiling after a sample of one of its tiles: down once a sample while a tile is hot; up once all have
been sampled and are cool (R369, R453). -/
def State.coolRegion (s : State) (die v : Nat) (thr t : Int) : State :=
  let x := s.vf die v
  let pts := vfTiles die v
  if thr ≤ t then
    if tget s.sampled (coolKey die v) = some s.cycle then s
    else
      State.reclamp (State.setVf { s with sampled := tset s.sampled (coolKey die v) s.cycle } die v
        { x with thermal := some (Nat.max 16 (Nat.min (x.fcode - 4) (x.thermal.getD 132))) }) die v
  else if (pts.all fun p => decide (tget s.sampled (sensKey p) = some s.cycle ∧ s.tsens p < s.throt p - 8)) then
    let s1 : State := { s with noPlace := s.noPlace.filter fun p => !pts.contains p }
    match x.thermal with
    | none => s1
    | some c => s1.setVf die v { x with thermal := if c + 4 < s.fceil die v then some (c + 4) else none }
  else s

/-- THERMAL_SAMPLE: a tile's sensor is sampled every 10 µs, and its crossings act (R347, R369, R395, R453). -/
def execThermalSample (die tile : Nat) (reading : BitVec 16) (s : State) : Out :=
  let pt := die * 576 + tile
  if 8 ≤ die ∨ 576 ≤ tile ∨ s.cycle % 10000 ≠ 0 ∨ tget s.sampled (sensKey pt) = some s.cycle then stall s
  else
    let t := reading.toInt
    let cfg := s.reg die 0x4E tile
    let v := vfNo pt
    let x := tgetD s.sensors pt {}
    let mig := crossing x.mig t (degrees cfg 0)
    let thr := crossing x.thr t (degrees cfg 16)
    let trip := crossing x.trip t (degrees cfg 32)
    let s1 := (State.setReg { s with
      sampled := tset s.sampled (sensKey pt) s.cycle
      sensors := tset s.sensors pt { mig := mig.2, thr := thr.2, trip := trip.2 } } die 0x4D tile
        (BitVec.ofNat 64 reading.toNat)).coolRegion die v (degrees cfg 16) t
    let s2 := match mig.1, s.owner pt with
      | true, some c => s1.raise die { cause := causeThermal, ctx := c, info := BitVec.ofNat 64 (tile * 2 ^ 16 + reading.toNat) }
      | _, _ => s1
    let s3 := if trip.1 then s2.thermalTrip die v else s2
    .next (if degrees cfg 32 + 40 ≤ t then s3.shutDown else s3)

/-- The highest FCODE whose voltage is at or below a supply (R453). -/
def State.fcodeAt (s : State) (die supply : Nat) : Option Nat :=
  ((List.range 117).reverse.find? fun k => decide (s.vreq die (16 + k) ≤ supply)).map (16 + ·)

/-- UNDERVOLTAGE: the supply of a region, read as a VCODE, is more than two steps below what its frequency needs (R453). -/
def execUndervoltage (die v supply : Nat) (s : State) : Out :=
  let x := s.vf die v
  if 8 ≤ die ∨ 36 ≤ v ∨ s.vreq die x.fcode ≤ supply + 2 then stall s
  else
    let y := match s.fcodeAt die supply with
      | some f => { x with fcode := f, stretch := false }
      | none => { x with fcode := 16, stretch := true }
    .next ((s.setVf die v y).tripped die 1 .ce 0x30)

/-- SUPPLY_REACHES_VREQ: the supply reaches vreq(16), and the clock is no longer stretched (R453). -/
def execSupplyReachesVreq (die v : Nat) (s : State) : Out :=
  let x := s.vf die v
  if x.stretch then .next (s.setVf die v { x with stretch := false }) else stall s

/-- OVERCURRENT: every region of the die gets a ceiling at FFLOOR, and guard grants stop (R453). -/
def execOvercurrent (die : Nat) (s : State) : Out :=
  if 8 ≤ die ∨ (s.vf die 0).current then stall s
  else
    let s1 := (List.range 36).foldl (fun s v => (s.setVf die v { s.vf die v with current := true }).reclamp die v) s
    .next (s1.tripped die 2 .ce 0x31)

/-- OVERCURRENT_CLEAR: 1 ms after the current has fallen, both are lifted (R453). -/
def execOvercurrentClear (die : Nat) (s : State) : Out :=
  if !(s.vf die 0).current then stall s
  else .next ((List.range 36).foldl (fun s v => s.setVf die v { s.vf die v with current := false }) s)

/-- Every region of the package. -/
def allRegions : List (Nat × Nat) := (List.range 8).flatMap fun d => (List.range 36).map fun v => (d, v)

/-- POWER_AVERAGE_WINDOW: the package power averaged over 1 ms; every region's ceiling falls by 4 from an overshoot of 5 %
until the average is below PBUDGET, and rises by 4 after that (R370, R453). -/
def execPowerAverageWindow (mw : Nat) (s : State) : Out :=
  let b := fld (s.reg 0 0x4F 0) 0 14 * 1000
  if s.cycle % 1000000 ≠ 0 ∨ tget s.sampled powerKey = some s.cycle then stall s
  else
    let s0 : State := { s with sampled := tset s.sampled powerKey s.cycle }
    let start := b * 105 < mw * 100
    if start ∨ (s.overBudget ∧ b ≤ mw) then
      let s1 := allRegions.foldl (fun s r =>
        (s.setVf r.1 r.2 { s.vf r.1 r.2 with budget := some (Nat.max 16 (s.ceiling r.1 r.2 - 4)) }).reclamp r.1 r.2) s0
      .next (if s.overBudget then s1 else State.tripped { s1 with overBudget := true } 0 3 .ce 0x32)
    else
      .next (allRegions.foldl (fun s r =>
        let x := s.vf r.1 r.2
        match x.budget with
        | none => s
        | some c => s.setVf r.1 r.2 { x with budget := if c + 4 < s.fceil r.1 r.2 then some (c + 4) else none })
        { s0 with overBudget := false })

/-! ### Energy (R371, R372) -/

/-- A context after a charge (R371). -/
def Ctx.charge (x : Ctx) (nj : Nat) : Ctx :=
  { x with energy := (x.energy + (x.residue + nj) / 1000) % 2 ^ 64, residue := (x.residue + nj) % 1000 }

/-- ENERGY_CHARGE_POST: a charge is posted; its size is the part's own (R371, R372). -/
def execEnergyChargePost (c nj : Nat) (s : State) : Out :=
  if c < 65536 then .next (s.modCtx c (·.charge nj)) else stall s

end Sys2Proof.Machine
end

