-- ==== Sys2Proof/Machine/Queues.lean ====
section
/-! DEFINITION. Die queues (R299, R313, R381, R402, R403, R412, R416, R437, R446, R448). -/

namespace Sys2Proof.Machine

/-- The queue that a command names: its die and number (R299). -/
def queueDie (imm : BitVec 8) : Nat := imm.toNat / 16 % 8
/-- The queue's number. -/
def queueNo (imm : BitVec 8) : Nat := imm.toNat % 16

/-- The sender to which a queue is bound (R381). -/
def State.queueSender (s : State) (die q : Nat) : Option Nat :=
  let w := s.reg die 0x52 q
  if bit w 63 then some (fld w 16 16) else none

/-- The receiver to which a queue is bound (R381). -/
def State.queueReceiver (s : State) (die q : Nat) : Option Nat :=
  let w := s.reg die 0x52 q
  if bit w 63 then some (fld w 0 16) else none

/-- A die queue replaced. -/
def State.setQueue (s : State) (die q : Nat) (x : DieQueue) : State :=
  let d := s.die die
  s.setDie die { d with queues := tset d.queues q x }

/-- A context's die and a queue's can reach each other (R446, R448). -/
def State.queueReach (s : State) (c die : Nat) : Bool :=
  let a := s.homeCl c / 6
  a == die || (!s.isolated a && !s.isolated die)

/-- The format and the places of the 256 bytes that a command names; none breaks R299 or R120. -/
def State.queueSpots (s : State) (c : Nat) (a b : Word64) (reads : Bool) : Option (Fmt × List Spot) :=
  let lt := s.viewLt c (fld a 0 8)
  if fld a 8 56 ≠ 0 ∨ fld b 32 32 ≠ 0 ∨ ltSpace lt > 1 ∨ !ltCodes lt then none
  else match ltElem lt with
    | none => none
    | some f =>
      let w := fmtWidth f
      (allSome ((List.range (2048 / w)).map fun j =>
        let cs : List Int := (List.range (ltRank lt)).map fun k => if k = 0 then ((fld b 0 32 + j : Nat) : Int) else 0
        (s.elemFor ⟨s.anchorOf c, s.homeCl c⟩ lt w reads (some cs)).map (·.spot))).map fun ps => (f, ps)

/-- Who a controller's own access is by. -/
def State.ctlWho (s : State) (c : Nat) : Who := ⟨c, s.homeCl c, none⟩

/-- A command finds a fault: its context goes to FAULTED (R418). -/
def State.ctlFault (s : State) (c fcode : Nat) : State := s.faultCtx c fcode 0x7E 0 ((s.ctx c).pc % 1024)

/-- The bytes read at places of a format, with their marks byte by byte; a place out of extent reads absent (R121, R299,
R402). -/
def State.queueRead (s : State) (c : Nat) (f : Fmt) (ps : List Spot) : List Byte × List Bool :=
  let w := fmtWidth f
  let vs : List (Nat × Bool) := ps.map fun p =>
    if p = .nowhere then (absentOf f, false)
    else
      let r := s.rawLoad (s.ctlWho c) w p true
      (r.1, r.2.1)
  let n := vs.foldr (fun v a => v.1 % 2 ^ w + a * 2 ^ w) 0
  (natBytes n 256, (List.range 256).map fun i => (List.range vs.length).any fun j =>
    decide (j * w < 8 * i + 8 ∧ 8 * i < (j + 1) * w) && (vs.getD j (0, false)).2)

/-- The bytes of an entry written to places of a format, marks with them; what is written without poison clears the marks of the
granules that it covers (R299, R402). -/
def State.queueWrite (s : State) (c : Nat) (f : Fmt) (ps : List Spot) (e : List Byte × List Bool) : State :=
  let w := fmtWidth f
  let bad (j : Nat) : Bool :=
    (List.range 256).any fun i => decide (j * w < 8 * i + 8 ∧ 8 * i < (j + 1) * w) && e.2.getD i false
  let s1 := ps.zipIdx.foldl (fun s p => s.rawStore (s.ctlWho c) w (bytesBits e.1 (p.2 * w) w) (bad p.2) p.1) s
  s1.cleared (s.ctlWho c) f ((ps.zipIdx.filter fun p => !bad p.2).map fun p => { spot := p.1 })

/-- A command that would write X registers from a marked granule: a UC record, and its context is FAULTED with FCODE POISON
(R403). -/
def State.ctlPoison (s : State) (c : Nat) : State :=
  let cl := s.homeCl c
  (s.errRecord (cl / 6) (.cluster (cl % 6)) .uc 14 0x05 0 0 c).ctlFault c fcPoison

/-- QSEND: its 256 bytes set out for the queue once there is a free entry; it completes, a release, when the entry stands
in it (R299, R313). -/
def execQsend (a b : XReg) (imm : BitVec 8) (w : CtlP2) (s : State) : Out :=
  let die := queueDie imm
  let q := queueNo imm
  let spots (s : State) (c : Nat) : Option (Fmt × List Spot) := s.queueSpots c ((s.ctx c).getX a) ((s.ctx c).getX b) true
  runCmd w {
    ready := fun s c => s.mayRelease c w.scope
    check := fun s c => trapUnless (s.queueSender die q == some c && (spots s c).isSome)
    act := fun s c _ =>
      let x := s.ctx c
      let y := s.dieQueue die q
      if y.entries.length + y.inbound.length ≥ 64 then stall s
      else match spots s c with
        | none => .next (s.trapCmd c causeUnassigned)
        | some (f, ps) =>
          let r := s.raceSpots c (s.homeCl c) false (s.viewLt c (fld (x.getX a) 0 8)) (fmtWidth f) ps
          if r.2 then .next (r.1.ctlFault c fcRace)
          else
            let e := r.1.queueRead c f ps
            let y := r.1.dieQueue die q
            .next ((r.1.setQueue die q { y with inbound := y.inbound ++ [(e.1, e.2, c)] }).holdCmd c w 2 .qsend) } s

/-- DIE_QUEUE_ENTRY_ARRIVE: the oldest entry on its way stands in its queue; one that could not be delivered intact is
poisoned, with its record (R299, R446, R448). -/
def execDieQueueEntryArrive (die q : Nat) (bad : Bool) (s : State) : Out :=
  let x := s.dieQueue die q
  match x.inbound with
  | [] => stall s
  | (bs, ms, c) :: t =>
    if !s.queueReach c die ∨ (bad ∧ s.homeCl c / 6 = die) then stall s
    else
      let marks := if bad then List.replicate 256 true else ms
      let s1 := s.setQueue die q { x with entries := x.entries ++ [(bs, marks)], inbound := t }
      let s2 := s1.raceRelease c (objQueue die q)
      .next (if bad then s2.errRecord die (.d2d 0) .defd 19 0x24 0 0 c else s2)

/-- QRECV: takes the head entry: its bytes to the scratchpad, bytes 0 to 7 to XD; an acquire (R299, R313, R403). -/
def execQrecv (d a b : XReg) (imm : BitVec 8) (w : CtlP2) (s : State) : Out :=
  let die := queueDie imm
  let q := queueNo imm
  let spots (s : State) (c : Nat) : Option (Fmt × List Spot) := s.queueSpots c ((s.ctx c).getX a) ((s.ctx c).getX b) false
  runCmd w {
    late := fun s c => trapUnless (s.queueReceiver die q == some c && (spots s c).isSome)
    cond := fun _ _ => .entry die q w.scope
    act := fun s c _ =>
      let x := s.dieQueue die q
      if !s.queueReach c die then stall s
      else match x.entries, spots s c with
        | e :: t, some (f, ps) =>
          if (e.2.take 8).any id then .next (s.ctlPoison c)
          else
            let r := s.raceSpots c (s.homeCl c) true (s.viewLt c (fld ((s.ctx c).getX a) 0 8)) (fmtWidth f) ps
            if r.2 then .next (r.1.ctlFault c fcRace)
            else
              let s1 := (r.1.queueWrite c f ps e).setQueue die q { x with entries := t }
              let s2 := s1.modCtx c fun y => y.setX d (BitVec.ofNat 64 (natOfBytes (e.1.take 8)))
              .next (s2.finish c w 2)
        | _, _ => stall s } s

/-- QPEEK: bytes 0 to 7 of the head entry, and the number of entries; no wait and no acquire (R299); a marked head is consumed
poison, and a queue on a die that cannot be reached faults (R403, R446). -/
def execQpeek (d : XReg) (imm : BitVec 8) (w : CtlP2) (s : State) : Out :=
  let die := queueDie imm
  let q := queueNo imm
  runCmd w {
    check := fun s c => trapUnless (s.queueSender die q == some c || s.queueReceiver die q == some c)
    act := fun s c _ =>
      let es := (s.dieQueue die q).entries
      if !s.queueReach c die then .next (s.ctlFault c 0x20)
      else if (es.headD ([], [])).2.take 8 |>.any id then .next (s.ctlPoison c)
      else
      let v : Word64 := match es with
        | [] => 0xFFFFFFFFFFFFFFFF
        | e :: _ => BitVec.ofNat 64 (natOfBytes (e.1.take 8))
      let s1 := s.modCtx c fun x => (x.setX d v).setX (xnext d 1) (BitVec.ofNat 64 es.length)
      .next (s1.finish c w 2) } s

end Sys2Proof.Machine
end

