-- ==== Sys2Proof/Machine/Registers.lean ====
section
/-! DEFINITION. The registers of the supervisor view and their writes, by the supervisor and by the host (R6, R144, R364,
R369, R370, R377, R379 to R382, R386 to R388, R405, R407, R410, R431, R437, R439, R445, R452, R454). -/

namespace Sys2Proof.Machine

/-! ### Numbers and instances (R387) -/

/-- The instances of a register on a die; 0 for a number that the supervisor view does not have. -/
def regCount (die num : Nat) : Nat :=
  match num with
  | 0x40 | 0x41 | 0x42 | 0x43 | 0x44 | 0x4A | 0x4B | 0x4C | 0x4F | 0x55 | 0x57 | 0x59 | 0x66 | 0x6B | 0x6D => 1
  | 0x48 | 0x49 => 36
  | 0x4D | 0x4E | 0x65 => 576
  | 0x50 | 0x67 | 0x68 | 0x69 => 6
  | 0x51 => 32
  | 0x52 => 16
  | 0x53 => 256
  | 0x54 => 1024
  | 0x56 => 4096
  | 0x58 => 17
  | 0x5A | 0x5B => 4
  | 0x5C => 24
  | 0x5D => 8
  | 0x60 | 0x61 | 0x62 | 0x63 => if die = 0 then 110 else 70
  | 0x64 => if die = 0 then 33 else 12
  | 0x6A => 2
  | 0x6C => if die = 0 then 23 else 3
  | _ => 0

/-- The instance that SSEL chooses; a register with one instance has no other (R387). -/
def State.selected (s : State) (die num : Nat) : Nat :=
  if regCount die num = 1 then 0 else fld (s.reg die 0x44 0) 0 12

/-- A field of the trap being served; 0 when none is. -/
def State.served (s : State) (die : Nat) (f : TrapEnt → Word64) : Word64 :=
  match (s.die die).serving with | some t => f t | none => 0

/-- A read of an instance: a number of its own, WO fields as 0, an instance that does not exist as 0 (R6, R387). -/
def State.readReg (s : State) (die num inst : Nat) : Word64 :=
  if regCount die num ≤ inst then 0
  else match num with
    | 0x41 => s.served die fun t => BitVec.ofNat 64 t.cause
    | 0x42 => s.served die fun t => BitVec.ofNat 64 t.ctx
    | 0x43 => s.served die (·.info)
    | 0x49 => s.vfstat die inst
    | 0x56 => if 1600 ≤ inst then 0 else s.reg die num inst
    | 0x59 | 0x5B => 0
    | 0x65 => s.tfence (die * 576 + inst)
    | 0x66 => s.served die (·.xfva)
    | _ => s.reg die num inst

/-! ### Writes with behaviour of their own -/

/-- The fields of a word that a mask names. -/
def masked (w m : Word64) : Word64 := w &&& m

/-- W1C: the bits written 1 are cleared, but for those that the hardware has set in this CYCLE (R6, R7). -/
def State.w1c (s : State) (die num inst : Nat) (w m : Word64) : Word64 :=
  s.reg die num inst &&& ~~~(w &&& m &&& ~~~(BitVec.ofNat 64 (s.stamped (regKey die num inst))))

/-- The stacks that a quorum set uses (R144). -/
def qsetStacks (w : Word64) : List Nat := (List.range (fld w 20 3)).map fun j => fld w (4 * j) 4

/-- A write of QSET is not refused (R144). -/
def qsetOk (w : Word64) : Bool :=
  !bit w 31 || (decide (fld w 20 3 = 3 ∨ fld w 20 3 = 5) && decide (((qsetStacks w).map (· / 2)).Nodup))

/-- A rewrite of a queue's binding discards its entries (R381). -/
def State.writeDqt (s : State) (die q : Nat) (w : Word64) : State :=
  (s.setReg die 0x52 q (masked w 0x80000000FFFFFFFF)).setQueue die q {}

/-- A context entry: refused when another valid entry has its ID; the device then finds the context there (R388). -/
def State.writePlace (s : State) (die i : Nat) (w : Word64) : State :=
  let v := masked w 0xFFFFFFFFFF7FFFFF
  let c := fld v 0 16
  let p : Place := ⟨die, fld v 24 3, fld v 16 7⟩
  let clash := (List.range 1024).any fun k =>
    k != i && bit (s.reg die 0x56 k) 63 && decide (fld (s.reg die 0x56 k) 0 16 = c)
  if bit v 63 && clash then s
  else
    let s1 := s.setReg die 0x56 i v
    let x := s.ctx c
    if bit v 63 && isRegionId c && x.st != .free && rectInside p x.width x.height then s1.setCtx c { x with place := p } else s1

/-- A tile-map entry: refused when another logical tile of the cluster has the tile, or there is no such tile (R388). -/
def State.writeTile (s : State) (die i : Nat) (w : Word64) : State :=
  let n := fld w 0 7
  let base := 1024 + (i - 1024) / 96 * 96
  let clash := (List.range 96).any fun k => base + k != i && s.reg die 0x56 (base + k) == BitVec.ofNat 64 n
  if clash ∨ 96 ≤ n then s else s.setReg die 0x56 i (BitVec.ofNat 64 n)

/-- A MSI-X vector of a function that it owns is raised, unless the host link is down (R377, R387, R450). -/
def State.raiseMsix (s : State) (fn vec : Nat) : State :=
  if s.hostUp ∧ fn ≤ 16 ∧ vec < (if fn = 0 then 128 else 120) then { s with msix := s.msix ++ [(fn, vec)] } else s

/-- A write of ATTNONCE; with its last word the nonce stands, ATTREP reads 0 and a report is under way (R386). -/
def State.writeNonce (s : State) (die i : Nat) (w : Word64) : State :=
  let s1 := s.setReg die 0x5B i w
  if i = 3 then
    let s2 := (List.range 24).foldl (fun s k => s.setReg die 0x5C k 0) s1
    { s2 with attest := tset s2.attest die ((List.range 4).map fun k => s1.reg die 0x5B k) }
  else s1

/-- ERSTATUS: VALID clears the whole bank except OVF; OVF clears itself.  The records of this CYCLE are placed after the
write, and stand (R7, R405, R406). -/
def State.clearBank (s : State) (die i : Nat) (w : Word64) : State :=
  let old := s.reg die 0x60 i
  let s1 :=
    if bit w 63 then
      [0x61, 0x62, 0x63].foldl (fun s n => s.setReg die n i 0)
        ((s.recordGone die i).setReg die 0x60 i (masked old 0x0800000000000000))
    else s
  if bit w 59 then s1.setReg die 0x60 i (setFld (s1.reg die 0x60 i) 59 1 0) else s1

/-- TFENCE: bits of the supervisor's own are set and cleared at once; a bit that self-test set is cleared by the next
start (R410). -/
def State.writeTfence (s : State) (die i : Nat) (w : Word64) : State :=
  let pt := die * 576 + i
  let t := tgetD s.testFence pt 0 % 8192
  let ask := natBits (t - (BitVec.ofNat 13 t &&& BitVec.ofNat 13 (fld w 0 13)).toNat) 0 13
  State.setReg { s with testFence := if t = 0 then s.testFence else tset s.testFence pt (t + ask * 8192) } die 0x65 i
    (BitVec.ofNat 64 (fld w 0 13 - (BitVec.ofNat 13 t &&& BitVec.ofNat 13 (fld w 0 13)).toNat))

/-- The live lanes of a port: all, a half of which no lane is fenced, or none (R444, R445). -/
def liveLanes (fence : Nat) : Nat :=
  if fence = 0 then 16 else if fence % 256 = 0 ∨ fence / 256 % 256 = 0 then 8 else 0

/-- A port in service at the width that its fenced lanes leave, or down (R445). -/
def State.setPort (s : State) (die inst : Nat) (up : Bool) : State :=
  let v := s.reg die 0x6C inst
  let n := if up then liveLanes (fld v 0 16) else 0
  s.setReg die 0x6C inst (setFld (setFld v 63 1 (b2n (decide (n ≠ 0)))) 48 5 n)

/-- The port that a ring port of a die joins: port 0 of a die and port 1 of the next one up (R15; log entry 28). -/
def facing (die inst : Nat) : Option (Nat × Nat) :=
  if inst = 0 then some ((die + 1) % 8, 1) else if inst = 1 then some ((die + 7) % 8, 0) else none

/-- A port in service or down; a ring link carries traffic only while both of its ports do, so the facing port goes down
with it, and comes back with it where its own lanes allow (R15, R445). -/
def State.setLink (s : State) (die inst : Nat) (up : Bool) : State :=
  match facing die inst with
  | none => s.setPort die inst up
  | some (d, i) =>
    let both := up && decide (liveLanes (fld (s.reg d 0x6C i) 0 16) ≠ 0) && decide (liveLanes (fld (s.reg die 0x6C inst) 0 16) ≠ 0)
    (s.setPort die inst both).setPort d i both

/-- LINKCTL: REPLAYS and LANEFENCE; RETRAIN takes the port out of service until it has trained (R445). -/
def State.writeLink (s : State) (die i : Nat) (w : Word64) : State :=
  let v := setFld (s.reg die 0x6C i) 0 32 (fld w 0 32)
  if bit w 62 then
    State.setLink (State.setReg { s with training := s.training.filter (· != (die, i)) ++ [(die, i)] } die 0x6C i v) die i false
  else s.setReg die 0x6C i v

/-- A write to an instance of a register, by its Access codes and its own behaviour; a refused write changes nothing
(R6, R387). -/
def State.writeReg (s : State) (die num inst : Nat) (w : Word64) : State :=
  if regCount die num ≤ inst then s
  else match num with
    | 0x40 | 0x44 | 0x54 | 0x57 | 0x58 => s.setReg die num inst w
    | 0x48 => s.writeVfctl die inst w
    | 0x4A | 0x4B => s.writeCurve die num w
    | 0x4C => s.setReg die num inst (masked w 0x7FFFF)
    | 0x4E => s.setReg die num inst (masked w 0xFFFFFFFFFFFF)
    | 0x4F => s.setReg die num inst (masked w 0x3FFF)
    | 0x50 => s.writeRungcap die inst w
    | 0x51 => if qsetOk w then s.setReg die num inst (masked w 0xFC7FFFFF) else s
    | 0x52 => s.writeDqt die inst w
    | 0x53 => s.setReg die num inst (masked w 0x1FFFF)
    | 0x55 => s.setReg die num inst (masked w 0xFF)
    | 0x56 => if inst < 1024 then s.writePlace die inst w else if inst < 1600 then s.writeTile die inst w else s
    | 0x59 => s.raiseMsix (fld w 11 5) (fld w 0 11)
    | 0x5B => s.writeNonce die inst w
    | 0x60 => s.clearBank die inst w
    | 0x64 => s.setReg die num inst (masked w 0xC000FFFFFFFFFFFF)
    | 0x65 => s.writeTfence die inst w
    | 0x67 => s.setReg die num inst (masked w 0xC000000000000000 ||| (s.w1c die num inst w 0x3000000000000000 &&&
        0x300000000000FFFF))
    | 0x68 => (s.setReg die num inst (s.w1c die num inst w 0x8000000000000000)).raceAgain (die * 6 + inst)
    | 0x6A => if fld w 0 16 < 256 then s else s.setReg die num inst (masked w 0xFFFFFFFFFFFF)
    | 0x6B => s.setReg die num inst (s.w1c die num inst w 0x1F)
    | 0x6C => s.writeLink die inst w
    | _ => s

/-- A write that is refused, and that traps the supervisor whose command it is (R144, R363, R388, R439). -/
def State.refusesWrite (s : State) (die num inst : Nat) (w : Word64) : Bool :=
  match num with
  | 0x4A | 0x4B =>
    let t := s.setReg die num 0 (BitVec.ofNat 64 ((List.range 8).foldl (fun a k => a + fld w (8 * k) 6 * 2 ^ (8 * k)) 0))
    !curveOk ((List.range 16).map (t.curve die))
  | 0x51 => !qsetOk w
  | 0x56 =>
    if inst < 1024 then
      bit w 63 && (List.range 1024).any fun k =>
        k != inst && bit (s.reg die 0x56 k) 63 && decide (fld (s.reg die 0x56 k) 0 16 = fld w 0 16)
    else if inst < 1600 then
      let base := 1024 + (inst - 1024) / 96 * 96
      (List.range 96).any fun k => base + k != inst && s.reg die 0x56 (base + k) == BitVec.ofNat 64 (fld w 0 7)
    else false
  | 0x6A => decide (fld w 0 16 < 256)
  | _ => false

/-! ### Who writes (R387) -/

/-- The key of the last write of the host to a register. -/
def hostKey (die num inst : Nat) : Nat := 2 ^ 40 + regKey die num inst

/-- The W1C bits of a register (R405, R437, R452). -/
def w1cBits (num : Nat) : Word64 :=
  match num with
  | 0x60 => 0x8800000000000000
  | 0x67 => 0x3000000000000000
  | 0x68 => 0x8000000000000000
  | 0x6B => 0x1F
  | _ => 0

/-- The bits of the bytes that a write of the host reaches (R4). -/
def byteMask (be : BitVec 8) : Word64 :=
  BitVec.ofNat 64 ((List.range 8).foldl (fun a k => if bit be k then a + 255 * 256 ^ k else a) 0)

/-- The word that a write of some bytes amounts to: elsewhere every RW field is written as it stands, and no W1C bit is
cleared (R4, R6). -/
def State.merged (s : State) (die num inst : Nat) (be : BitVec 8) (w : Word64) : Word64 :=
  let old := if num = 0x48 ∨ num = 0x5B then s.reg die num inst else s.readReg die num inst
  (w &&& byteMask be) ||| (old &&& ~~~(byteMask be) &&& ~~~(w1cBits num))

/-- A write of the host: of the bytes that it reaches, acting on FREQ only where it reaches that byte; one that is refused
traps the supervisor (R4, R144, R363, R388, R439; log entry 28). -/
def State.hostRegWrite (s : State) (die num inst : Nat) (be : BitVec 8) (w : Word64) : State :=
  let v := s.merged die num inst be w
  let s1 : State := { s with sampled := tset s.sampled (hostKey die num inst) s.cycle }
  if be = 0 then s
  else if s.refusesWrite die num inst v then s1.raise die { cause := causeUnassigned, ctx := supId die, info := 0 }
  else if num = 0x48 ∧ !bit be 0 then s1.writeLimits die inst v
  else s1.writeReg die num inst v

/-- A write by the host or a supervisor; the host's prevails over the supervisor's in one cycle (R387). -/
def State.regWrite (s : State) (o : WriteBy) (die num inst : Nat) (w : Word64) : State :=
  match o with
  | .host be => s.hostRegWrite die num inst be w
  | .supervisor => if tget s.sampled (hostKey die num inst) = some s.cycle then s else s.writeReg die num inst w

/-- The writer can write now: the host only while its link is up. -/
def State.canWrite (s : State) (o : WriteBy) : Bool := match o with | .host _ => s.hostUp | .supervisor => true

/-- A write of a register as a step of the part. -/
def regStep (o : WriteBy) (die num inst : Nat) (w : Word64) (s : State) : Out :=
  if 8 ≤ die ∨ regCount die num ≤ inst ∨ !s.canWrite o then stall s else .next (s.regWrite o die num inst w)

/-- VFCTL_WRITE (R364, R365). -/
def execVfctlWrite (o : WriteBy) (die inst : Nat) (w : Word64) (s : State) : Out := regStep o die 0x48 inst w s

/-- CURVE_WRITE (R363). -/
def execCurveWrite (o : WriteBy) (die num : Nat) (w : Word64) (s : State) : Out :=
  if num = 0x4A ∨ num = 0x4B then regStep o die num 0 w s else stall s

/-- RUNGCAP_WRITE (R370). -/
def execRungcapWrite (o : WriteBy) (die inst : Nat) (w : Word64) (s : State) : Out := regStep o die 0x50 inst w s

/-- HOSTIRQ (R377, R387). -/
def execHostirq (o : WriteBy) (die : Nat) (w : Word64) (s : State) : Out := regStep o die 0x59 0 w s

/-- QSET_WRITE (R144). -/
def execQsetWrite (o : WriteBy) (die inst : Nat) (w : Word64) (s : State) : Out := regStep o die 0x51 inst w s

/-- DQT_WRITE (R381). -/
def execDqtWrite (o : WriteBy) (die inst : Nat) (w : Word64) (s : State) : Out := regStep o die 0x52 inst w s

/-- PLACE_WRITE (R388). -/
def execPlaceWrite (o : WriteBy) (die inst : Nat) (w : Word64) (s : State) : Out := regStep o die 0x56 inst w s

/-- RHCTL_WRITE (R439). -/
def execRhctlWrite (o : WriteBy) (die inst : Nat) (w : Word64) (s : State) : Out := regStep o die 0x6A inst w s

/-- TFENCE_WRITE (R410). -/
def execTfenceWrite (o : WriteBy) (die inst : Nat) (w : Word64) (s : State) : Out := regStep o die 0x65 inst w s

/-- ERSTATUS_CLEAR (R405). -/
def execErstatusClear (o : WriteBy) (die inst : Nat) (w : Word64) (s : State) : Out := regStep o die 0x60 inst w s

/-- ATTNONCE (R386). -/
def execAttnonce (o : WriteBy) (die inst : Nat) (w : Word64) (s : State) : Out := regStep o die 0x5B inst w s

/-- LINKCTL_RETRAIN (R445). -/
def execLinkctlRetrain (o : WriteBy) (die inst : Nat) (w : Word64) (s : State) : Out := regStep o die 0x6C inst w s

/-- The register has a row of its own for its writes. -/
def hasOwnRow (num : Nat) : Bool :=
  [0x48, 0x4A, 0x4B, 0x50, 0x51, 0x52, 0x56, 0x59, 0x5B, 0x60, 0x65, 0x6A, 0x6C].contains num

/-- LSTAT in the model's numbering of registers: number 0x101, one instance for each function (R375). -/
def lstatNum : Nat := 0x101

/-- The MSI-X table in that numbering: number 0x102, whose instance is 256 · function + word of the table (R375). -/
def tableNum : Nat := 0x102

/-- A write of the host to bytes of its function's MSI-X table (R375). -/
def tableWrite (inst : Nat) (be : BitVec 8) (w : Word64) (s : State) : Out :=
  let fn := inst / 256
  let p := s.port fn
  let put (t : Tbl Byte) (k : Nat) : Tbl Byte :=
    let b : Byte := BitVec.ofNat 8 (fld w (8 * k) 8)
    let i := 8 * (inst % 256) + k
    if !bit be k then t else if b = 0 then tdel t i else tset t i b
  if 17 ≤ fn ∨ !s.hostUp then stall s
  else .next { s with ports := tset s.ports fn { p with table := (List.range 8).foldl put p.table } }

/-- A write of the host to LSTAT clears DROP and REFUSED where it has ones, but not one that is set in this CYCLE (R6, R7,
R375). -/
def lstatWrite (fn : Nat) (be : BitVec 8) (w : Word64) (s : State) : Out :=
  let p := s.port fn
  let v := w &&& byteMask be &&& ~~~(BitVec.ofNat 64 (s.stamped (lstatKey fn)))
  let q := { p with drop := p.drop && !bit v 7, refused := p.refused && !bit v 6 }
  if 17 ≤ fn ∨ p.inReset ∨ !s.hostUp then stall s else .next (if q = p then s else s.lstat fn fun _ => q)

/-- REGISTER_WRITE: a register with no behaviour of its own (R6). -/
def execRegisterWrite (o : WriteBy) (die num inst : Nat) (w : Word64) (s : State) : Out :=
  if hasOwnRow num then stall s
  else match o with
    | .host be =>
      if num = lstatNum ∧ die = 0 then lstatWrite inst be w s
      else if num = tableNum ∧ die = 0 then tableWrite inst be w s
      else regStep o die num inst w s
    | .supervisor => regStep o die num inst w s

/-! ### What the host reads (R4, R6, R373, R375, R382, R387) -/

/-- RSTCTL as it reads: RETLINK and RETMEM; WARM reads 0 (R6, R382). -/
def State.rstctl (s : State) : Word64 := BitVec.ofNat 64 (b2n s.retLink * 4 + b2n s.retMem * 2)

/-- A register of BAR0, at its offset: die, number and instance; the numbers of the user view belong to contexts, and a
host finds none there (R305, R387). -/
def bar0Reg (off : Nat) : Option (Nat × Nat × Nat) :=
  if off < 2 ^ 26 then some (off / 0x800000, off / 0x8000 % 256, off / 8 % 4096) else none

/-- The offset of a register in BAR0 (R387). -/
def bar0Off (die num inst : Nat) : Nat := die * 0x800000 + num * 0x8000 + 8 * inst

/-- A byte that the host reads in BAR0 or BAR2 of a function, lowest byte of a register first (R4); LAUNCH and the
pending-bit array read 0: no vector is ever kept back (log entry 62).  None completes with Unsupported Request: an offset
outside the BAR, and BAR0 of a virtual function (R373). -/
def State.barByte (s : State) (fn bar off : Nat) : Option Byte :=
  let at_ (w : Word64) : Byte := BitVec.ofNat 8 (fld w (8 * (off % 8)) 8)
  if bar = 0 then
    (if fn = 0 then (bar0Reg off).map fun r => at_ (s.readReg r.1 r.2.1 r.2.2) else none)
  else if bar = 2 ∧ fn ≤ 16 ∧ off < 8192 then some (
    if off / 8 = 1 then at_ (s.port fn).lstat
    else if 0x1000 ≤ off ∧ off < 0x1800 then tgetD (s.port fn).table (off - 0x1000) 0
    else 0)
  else none

/-- The bytes of a report that are signed (R386). -/
def State.reportBytes (s : State) (die : Nat) (nonce : List Word64) : List Byte :=
  nonce.flatMap (bytesOf · 8) ++ (List.range 8).flatMap (fun k => bytesOf (s.reg die 0x5D k) 8) ++ natBytes (s.dieCycle die) 8 ++
  natBytes die 1 ++ natBytes 0 23

/-- ATTEST_REPORT_READY: the signed report stands in ATTREP (R386). -/
def execAttestReportReady (die : Nat) (s : State) : Out :=
  match tget s.attest die with
  | none => stall s
  | some nonce =>
    let body := s.reportBytes die nonce
    let all := body ++ edSign (bytesOf (Config.identitySeed die) 32) body
    .next ((List.range 24).foldl (fun s k => s.setReg die 0x5C k (BitVec.ofNat 64 (bfield all (8 * k) 8)))
      { s with attest := tdel s.attest die })

end Sys2Proof.Machine
end

