-- ==== Sys2Proof/Machine/System.lean ====
section
/-! DEFINITION. System commands: TRAP, SYSC, RETT, the registers of the user view, energy and CYCLE (R12, R32, R304, R305,
R371, R372, R389, R395, R416 to R419, R431). -/

namespace Sys2Proof.Machine

/-! ### The user view (R305) -/

/-- The compute unit that FLSEL names; none outside the region, or without a region. -/
def State.flagUnit (s : State) (c : Nat) : Option (Nat × Bool) :=
  let x := s.ctx c
  let tx := fld x.flsel 0 3
  let ty := fld x.flsel 3 4
  if isRegionId c ∧ tx < x.width ∧ ty < x.height then some (x.pt tx ty, bit x.flsel 7) else none

/-- FLANY: the OR of the flag words of every compute unit of the region (R305). -/
def State.flany (s : State) (c : Nat) : FlagWord :=
  if isRegionId c then
    (s.ctx c).tiles.foldl (fun f pt => f ||| (s.cu pt false).flags ||| (s.cu pt true).flags) 0
  else 0

/-- CYCLE as a context's die counts it (R32, R33). -/
def State.cycleOf (s : State) (c : Nat) : Word64 := BitVec.ofNat 64 (s.dieCycle (s.ctxDie c))

/-- GROUPS (R305). -/
def groupsWord (ms : Vector (Option Nat) 4) : Word64 :=
  BitVec.ofNat 64 ((List.finRange 4).foldl (fun a j => match ms[j] with
    | some g => a + (256 + g % 256) * 2 ^ (16 * j.val)
    | none => a) 0)

/-- A register of the user view; none for a number that it does not have (R305). -/
def State.readUser (s : State) (c num : Nat) : Option Word64 :=
  let x := s.ctx c
  let own (v : Word64) : Option Word64 := some (if isRegionId c then v else 0)
  match num with
  | 0x00 => some (BitVec.ofNat 64 c)
  | 0x01 => some (BitVec.ofNat 64 x.timeline)
  | 0x02 => some (s.cycleOf c)
  | 0x03 => some (BitVec.ofNat 64 x.energy)
  | 0x04 => own (BitVec.ofNat 64 x.mark)
  | 0x05 => some (groupsWord x.members)
  | 0x06 => some (BitVec.ofNat 64 (if isRegionId c then x.place.cluster else x.homeReg.getD x.homeCl))
  | 0x07 => some (BitVec.ofNat 64 x.forkNo)
  | 0x10 => own x.flsel
  | 0x11 => some (match s.flagUnit c with | some (pt, u) => (s.cu pt u).flags.zeroExtend 64 | none => 0)
  | 0x12 => some ((s.flany c).zeroExtend 64)
  | 0x20 | 0x21 => some 0
  | _ => if 0x18 ≤ num ∧ num < 0x20 then own (x.lts.toList.getD (num - 0x18) 0) else none

/-- LTWRITE: the staging words become an entry of the own view, whole (R122, R305). -/
def State.ltWrite (s : State) (c : Nat) (v : Word64) : State :=
  if isRegionId c then s.modCtx c fun x => { x with layout := tset x.layout (fld v 0 8) (ltClean x.lts.toList) } else s

/-- LTFETCH: an entry of the own view is copied into the staging words (R305). -/
def State.ltFetch (s : State) (c : Nat) (v : Word64) : State :=
  if isRegionId c then
    s.modCtx c fun x => { x with lts := Vector.ofFn fun k => (x.lt (fld v 0 8)).getD k.val 0 }
  else s

/-- A write of a register of the user view, by its Access code (R6, R7, R305).  HOMECL holds what is written; where that
names no cluster, the home cluster stays the one last written (R272; log entry 28). -/
def State.writeUser (s : State) (c num : Nat) (v : Word64) : State :=
  let r := isRegionId c
  if num = 0x06 then
    (if r then s
     else s.modCtx c fun x =>
      if 6 ≤ fld v 0 3 then { x with homeReg := some (fld v 0 3) } else { x with homeCl := fld v 0 3, homeReg := none })
  else if num = 0x10 then (if r then s.modCtx c fun x => { x with flsel := masked v 0xFF } else s)
  else if num = 0x11 then
    (match s.flagUnit c with
    | some (pt, u) =>
      let gone := BitVec.ofNat 5 v.toNat &&& ~~~(BitVec.ofNat 5 (s.stamped (flagKey pt u)))
      s.setCu pt u { s.cu pt u with flags := (s.cu pt u).flags &&& ~~~gone }
    | none => s)
  else if num = 0x20 then s.ltWrite c v
  else if num = 0x21 then s.ltFetch c v
  else if 0x18 ≤ num ∧ num < 0x20 ∧ r then s.modCtx c fun x => { x with lts := x.lts.set (Fin.ofNat 8 (num - 0x18)) v }
  else s

/-- The number is in the supervisor view (R387). -/
def isSupReg (num : Nat) : Bool := decide (regCount 0 num ≠ 0)

/-- A register number that does not exist in the issuer's view traps; one of the supervisor view in user mode with cause
PRIV (R12, R304, R416). -/
def State.regCheck (s : State) (c num : Nat) : Option Nat :=
  if (s.readUser c num).isSome then none
  else if isSupReg num then trapUnless (isSupId c) causePriv
  else some causeUnassigned

/-! ### Commands (R304) -/

/-- TRAP: a trap of cause USER; the context is held behind the command until RETT (R304, R416, R418). -/
def execTrap (imm : BitVec 8) (w : CtlP2) (s : State) : Out :=
  runCmd w {
    check := fun _ c => trapUnless (!isSupId c) causeUser
    act := fun s c _ =>
      let s1 := (s.finish c w 2).modCtx c fun x => { x with trapped := some causeUser, trapAfter := true }
      .next (s1.raise (s.ctxDie c) { cause := causeUser, ctx := c, info := imm.zeroExtend 64 }) } s

/-- SYSC: a trap of cause SYSC with the argument; the context is held at the command until RETT (R304, R418). -/
def execSysc (d a : XReg) (_ : BitVec 8) (w : CtlP2) (s : State) : Out :=
  runCmd w {
    check := fun _ c => trapUnless (!isSupId c) causeSysc
    act := fun s c _ =>
      let s1 := (s.holdCmd c w 2 (.sysc d)).modCtx c fun x => { x with trapped := some causeSysc, trapAfter := false }
      .next (s1.raise (s.ctxDie c) { cause := causeSysc, ctx := c, info := (s.ctx c).getX a }) } s

/-- RDS: a register into XD (R304, R305, R387). -/
def execRds (d : XReg) (imm : BitVec 8) (w : CtlP2) (s : State) : Out :=
  let n := imm.toNat
  runCmd w { atIssue w 2 (fun s c =>
      let die := idDie c
      let v := (s.readUser c n).getD (s.readReg die n (s.selected die n))
      s.modCtx c fun x => x.setX d v) with
    check := fun s c => s.regCheck c n } s

/-- WRS: XA into a register by its Access code (R304, R305, R387). -/
def execWrs (a : XReg) (imm : BitVec 8) (w : CtlP2) (s : State) : Out :=
  let n := imm.toNat
  runCmd w { atIssue w 2 (fun s c =>
      let v := (s.ctx c).getX a
      let die := idDie c
      if (s.readUser c n).isSome then s.writeUser c n v else s.regWrite .supervisor die n (s.selected die n) v) with
    check := fun s c =>
      match s.regCheck c n with
      | some k => some k
      | none =>
        let die := idDie c
        if (s.readUser c n).isSome then none
        else trapUnless (!s.refusesWrite die n (s.selected die n) ((s.ctx c).getX a)) } s

/-- LTWRITE: WRS to register 0x20 (R305). -/
def execLtwrite (a : XReg) (w : CtlP2) (s : State) : Out :=
  runCmd w (atIssue w 2 fun s c => s.ltWrite c ((s.ctx c).getX a)) s

/-- LTFETCH: WRS to register 0x21 (R305). -/
def execLtfetch (a : XReg) (w : CtlP2) (s : State) : Out :=
  runCmd w (atIssue w 2 fun s c => s.ltFetch c ((s.ctx c).getX a)) s

/-- The energy counter of a context may be read: in user mode the own one, one of the launch, and the system account
(R304). -/
def State.mayMeter (s : State) (c t : Nat) : Bool :=
  isSupId c || t == c || t == 0 || ((s.ctx c).launch.isSome && (s.ctx t).launch == (s.ctx c).launch)

/-- ENRD: the energy counter of a context, as posted (R304, R372). -/
def execEnrd (d a : XReg) (w : CtlP2) (s : State) : Out :=
  let t (s : State) (c : Nat) : Nat := fld ((s.ctx c).getX a) 0 16
  runCmd w { atIssue w 2 (fun s c => s.modCtx c fun x => x.setX d (BitVec.ofNat 64 (s.ctx (t s c)).energy)) with
    check := fun s c => trapUnless (s.mayMeter c (t s c)) } s

/-- CYC: CYCLE (R32, R304). -/
def execCyc (d : XReg) (w : CtlP2) (s : State) : Out :=
  runCmd w (atIssue w 2 fun s c => s.modCtx c fun x => x.setX d (s.cycleOf c)) s

/-! ### Delivery and return (R389, R395, R417, R419) -/

/-- Where a supervisor stands. -/
def Ctx.seqPos (x : Ctx) : SeqPos :=
  { pc := x.pc, st := x.st, waitDone := x.waitDone, ownDone := x.ownDone, ownVal := x.ownVal, waitFor := x.waitFor
    hold := x.hold, holdLen := x.holdLen, holdSig := x.holdSig }

/-- A supervisor goes on where it stood. -/
def Ctx.resumeSeq (x : Ctx) (p : SeqPos) : Ctx :=
  { x with
    pc := p.pc, st := p.st, waitDone := p.waitDone, ownDone := p.ownDone, ownVal := p.ownVal, waitFor := p.waitFor
    hold := p.hold, holdLen := p.holdLen, holdSig := p.holdSig }

/-- The head trap leaves the queue, and the next that waits outside enters it (R417). -/
def Die.nextTrap (d : Die) : Die := { d with traps := d.traps.tail ++ d.waiting.take 1, waiting := d.waiting.drop 1 }

/-- TRAP_DELIVERY: the supervisor, between two of its commands and in no handler, enters the handler of the head trap
(R389, R417). -/
def execTrapDelivery (die : Nat) (s : State) : Out :=
  let d := s.die die
  let c := supId die
  let x := s.ctx c
  match d.traps with
  | [] => stall s
  | t :: _ =>
    if !d.up ∨ d.serving.isSome ∨ x.st = .free then stall s
    else
      let y := { x.past 0 with st := .running, pc := (s.reg die 0x40 0).toNat + 4 * t.cause }
      .next ((s.setDie die { d.nextTrap with serving := some t, resume := some x.seqPos }).setCtx c y)

/-- The trap that RETT names: the one being served, one whose handler has ended with another RETT, or that of a context
that stays FAULTED (R395, R419). -/
def State.trapOf (s : State) (die c : Nat) : Option TrapEnt :=
  let d := s.die die
  match d.serving with
  | some t => if t.ctx = c then some t else other d
  | none => other d
where
  /-- A trap that is not being served. -/
  other (d : Die) : Option TrapEnt :=
    match d.held.find? fun t => t.ctx == c with
    | some t => some t
    | none => if (s.ctx c).st = .faulted then some { cause := causeFault, ctx := c, info := 0 } else none

/-- A trap holds something until its RETT (R419). -/
def TrapEnt.holds (t : TrapEnt) : Bool := t.cause != causeThermal && t.cause != causeError

/-- The handling of the served trap ends: a trap whose context was not named goes on holding it (R395, R417). -/
def State.endHandler (s : State) (die c : Nat) : State :=
  let d := s.die die
  let rest := match d.held.findIdx? fun t => t.ctx == c with
    | some k => if (match d.serving with | some t => t.ctx == c | none => false) then d.held else ldel d.held k
    | none => d.held
  let kept := match d.serving with
    | some t => if t.ctx ≠ c ∧ t.holds then [t] else []
    | none => []
  let s1 := s.setDie die { d with serving := none, resume := none, held := rest ++ kept }
  match d.resume with
  | some p => s1.modCtx (supId die) (·.resumeSeq p)
  | none => s1

/-- RETT: takes effect on the trap of the context XA[15:0], and ends the handler; a supervisor only (R304, R417, R419). -/
def execRett (a b : XReg) (w : CtlP2) (s : State) : Out :=
  runCmd w {
    pre := fun _ c => trapUnless (isSupId c) causePriv
    act := fun s c _ =>
      let die := idDie c
      let x := s.ctx c
      let t := fld (x.getX a) 0 16
      let v := x.getX b
      let s1 := s.finish c w 2
      match s.trapOf die t with
      | none => .next (s1.endHandler die t)
      | some e =>
        if rettAllows e.cause v then .next ((s1.rettApply e v).endHandler die t) else .next s1 } s

end Sys2Proof.Machine
end

