-- ==== Sys2Proof/Machine/Supervise.lean ====
section
/-! DEFINITION. Supervisor commands: SUSP, RESM, MIGR, SAVE, REST and TLBI (R12, R306, R307, R332, R333, R342, R343, R348,
R416). -/

namespace Sys2Proof.Machine

/-- Group 0x1C is issued only by a supervisor; any other traps with cause PRIV (R12, R306). -/
def supOnly (_ : State) (c : Nat) : Option Nat := trapUnless (isSupId c) causePriv

/-- The region id that XA names: XA[15:0], the other bits 0; none otherwise (R306). -/
def State.targetId (s : State) (c : Nat) (a : XReg) : Option Nat :=
  let v := (s.ctx c).getX a
  if v.toNat < 65536 ∧ isRegionId v.toNat then some v.toNat else none

/-- The target that XA names: a context that the placement table holds (R306, R388). -/
def State.target (s : State) (c : Nat) (a : XReg) : Option Nat := (s.targetId c a).filter s.finds

/-- SUSP: the target halts at a firing boundary and is SUSPENDED, to be resumed by a supervisor; completes when it has
halted (R65, R306). -/
def execSusp (a : XReg) (w : CtlP2) (s : State) : Out :=
  runCmd w {
    pre := supOnly
    check := fun s c => match s.target c a with
      | none => some causeUnassigned
      | some t => trapUnless ((s.ctx t).st.halting || (s.ctx t).st == .suspended)
    act := fun s c _ => match s.target c a with
      | none => stall s
      | some t =>
        let now := s.cycle
        let s1 := s.modCtx t fun x =>
          if x.st.halting then { x with preempt := some (x.preempt.getD now), suspBy := 1 } else { x with suspBy := 1 }
        .next (s1.holdCmd c w 2 (.susp t)) } s

/-- A suspended context that still stands on its tiles is READY there (R65, R66, R417). -/
def State.resumeHere (s : State) (c : Nat) : State :=
  let s1 := (s.testWait c).modCtx c fun x => { x with
    st := .ready, readyAt := s.cycle, waitFor := .none, suspBy := 0, preempt := none }
  (s1.releases c).rettPending c

/-- RESM's feature check: the mask of a suspended context is offered at the place that it left; its bit 7 tests no feature (R306,
R333, R343). -/
def State.resumable (s : State) (t : Nat) : Bool :=
  let x := s.ctx t
  if x.off then (match s.imageOf t with
    | some im => s.satisfies im.feature x.place.die (rectOf x.place x.width x.height)
    | none => false)
  else s.satisfies (s.featureOf t) x.place.die (rectOf x.place x.width x.height)

/-- RESM on a suspended context: 1 in XD after a mismatch, when the scheduler looks for another die; else the context is
READY and XD is 0, at once or, while other regions stand on its tiles, when the scheduler has restored it (R65, R306,
R343; log entry 23). -/
def State.resume (s : State) (c t : Nat) (d : XReg) (w : CtlP2) : State :=
  let x := s.ctx t
  let done (s : State) (v : Word64) : State := (s.modCtx c fun y => y.setX d v).finish c w 2
  if !s.resumable t then done (s.modCtx t fun y => { y with suspBy := 0 }) 1
  else if !x.off then done (s.resumeHere t) 0
  else match s.imageOf t with
    | some im =>
      if s.mayStand im.feature (some t) x.place x.width x.height && s.crowdOk t x.place then done (s.resumeAt t im x.place) 0
      else (s.modCtx t fun y => { y with suspBy := 0 }).holdCmd c w 2 (.resm t d)
    | none => done s 1

/-- RESM (R306). -/
def execResm (d a : XReg) (w : CtlP2) (s : State) : Out :=
  runCmd w {
    pre := supOnly
    check := fun s c => match s.target c a with
      | none => some causeUnassigned
      | some t => trapUnless ((s.ctx t).st == .suspended)
    act := fun s c _ => match s.target c a with
      | none => stall s
      | some t => .next (s.resume c t d w) } s

/-- A context belongs to a group with the barrier use (R348). -/
def State.barrierMember (s : State) (t : Nat) : Bool :=
  match s.launchOf t with
  | none => false
  | some (_, la) => la.groups.any fun g => bit (BitVec.ofNat 4 g.2.use) 0 && g.2.members.contains t

/-- A migration may be posted (R348). -/
def State.mayMigrate (s : State) (t n : Nat) : Bool :=
  let x := s.ctx t
  (x.st == .running || x.st == .waiting) &&
  s.mayStand (s.featureOf t) (some t) { x.place with anchor := n } x.width x.height && s.barrierMember t

/-- MIGR: posts, replaces or cancels a migration, one that is under way no more; the rectangle stays reserved until it is done (R306, R348). -/
def execMigr (a b : XReg) (w : CtlP2) (s : State) : Out :=
  let anchor (s : State) (c : Nat) : Nat := fld ((s.ctx c).getX b) 0 7
  runCmd w {
    pre := supOnly
    check := fun s c => match s.target c a with
      | none => some causeUnassigned
      | some t => trapUnless (decide (anchor s c = (s.ctx t).place.anchor) || s.mayMigrate t (anchor s c))
    act := fun s c _ => match s.target c a with
      | none => stall s
      | some t =>
        let n := anchor s c
        let s1 := s.modCtx t fun x =>
          { x with migr := if n ≠ x.place.anchor then some n else if x.st = .migrating then x.migr else none }
        .next (s1.finish c w 2) } s

/-- SAVE: the image of a SUSPENDED target is written to a physical address, once its accesses have ended (R306, R324,
R342). -/
def execSave (a b : XReg) (w : CtlP2) (s : State) : Out :=
  runCmd w {
    pre := supOnly
    check := fun s c => match s.target c a with
      | none => some causeUnassigned
      | some t => trapUnless ((s.ctx t).st == .suspended && decide (((s.ctx c).getX b).toNat % 64 = 0))
    act := fun s c _ => match s.target c a with
      | none => stall s
      | some t =>
        let x := s.ctx t
        let pa := ((s.ctx c).getX b).toNat
        if !x.off then
          (if s.accessesDone t then .next ((s.writeImage (s.takeImage t (s.featureOf t)) pa).finish c w 2) else stall s)
        else match s.imageOf t with
          | some im => .next ((s.writeImage { im with ctx := x } pa).finish c w 2)
          | none => stall s } s

/-- The place of the region anchored at an id's tile (R332). -/
def State.idPlace (s : State) (t : Nat) : Place :=
  let cl := idDie t * 6 + idCluster t
  ⟨idDie t, idCluster t, ptTile (s.ptile cl (idLocal t))⟩

/-- REST: an image is loaded into the tiles of the region anchored at a FREE id, which is SUSPENDED there; an access parked on a
pending fault stays parked on it (R306, R332, R342, R432). -/
def State.restore (s : State) (t : Nat) (im : Saved) : State :=
  let p := s.idPlace t
  let old := im.ctx.place.die * 6 + im.ctx.place.cluster
  let x := { im.ctx with
    st := .suspended, off := false, savedAt := none, suspBy := 1, preempt := none, readyAt := s.cycle
    logicals := (rectOf p im.ctx.width im.ctx.height).map s.logical }
  let s1 := (s.takeL1 im.feature t (p.die * 6 + p.cluster)).setCtx t x
  let s2 := (s1.putTiles t { im with ctx := x } p).writeEntry t p
  (((s2.dropL1 t .system).repark t old).track (p.die * 6 + p.cluster) t).narrowPost t

/-- REST; a region that is not FREE traps, as does one whose tiles another holds; it waits until its cluster has room for one more
context, and its L1 mode (R306, R331, R333, R340, R342). -/
def execRest (a b : XReg) (w : CtlP2) (s : State) : Out :=
  let image (s : State) (c : Nat) : Option Saved :=
    let pa := ((s.ctx c).getX b).toNat
    if pa % 64 = 0 then s.imageAt pa else none
  runCmd w {
    pre := supOnly
    check := fun s c => match s.targetId c a, image s c with
      | some t, some im => trapUnless ((s.ctx t).st == .free && t != 0 && s.rectFree none (s.idPlace t) im.ctx.width im.ctx.height)
      | _, _ => some causeUnassigned
    act := fun s c _ => match s.targetId c a, image s c with
      | some t, some im =>
        let p := s.idPlace t
        if s.crowdOk t p && s.l1Agrees im.feature (some t) (p.die * 6 + p.cluster) then .next ((s.restore t im).finish c w 2)
        else stall s
      | _, _ => stall s } s

/-- A TLB entry is in the range of a TLBI (R307). -/
def TlbEnt.named (e : TlbEnt) (range : Nat) (v : Word64) : Bool :=
  match range with
  | 0 => true
  | 1 => decide (e.root = v.toNat)
  | _ => decide (v.toNat / 2 ^ e.size * 2 ^ e.size = e.va)

/-- Entries in the range leave the TLBs of a die, or of every die (R307). -/
def State.invalidate (s : State) (die : Option Nat) (range : Nat) (v : Word64) : State :=
  let mine (d : Nat) : Bool := match die with | some k => d == k | none => true
  let cut (l : List TlbEnt) : List TlbEnt := l.filter fun e => !e.named range v
  { s with
    muTlb := s.muTlb.map fun p => if mine (ptDie (p.1 / 8)) then (p.1, cut p.2) else p
    clTlb := s.clTlb.map fun p => if mine (p.1 / 6) then (p.1, cut p.2) else p }

/-- A page of an address space is in the range of a TLBI (R307). -/
def State.inRange (s : State) (range : Nat) (v : Word64) (root va : Nat) : Bool :=
  match range with
  | 0 => true
  | 1 => decide (root = v.toNat)
  | _ => s.samePage root va v.toNat

/-- The tiles of a die, or of the package. -/
def reachTiles (die : Option Nat) : List Nat :=
  match die with
  | some d => (List.range 576).map (576 * d + ·)
  | none => List.range 4608

/-- The requests of memory units in reach that have used an entry in range and are not performed: tile, unit and number.  The
entries are those that they used, whatever the tables hold now (R307). -/
def State.usedBy (s : State) (die : Option Nat) (range : Nat) (v : Word64) (hold : Bool) : List (Nat × Bool × Nat) :=
  (reachTiles die).flatMap fun pt =>
    [false, true].flatMap fun u => ((s.mu pt u).reqs.filter fun r => r.hold == hold && r.open && r.st != .failed &&
      r.used.any (·.named range v)).map fun r => (pt, u, r.num)

/-- A held request looks for its places again. -/
def State.retranslate (s : State) (p : Nat × Bool × Nat) : State :=
  match s.muReq p.1 p.2.1 p.2.2 with
  | some r => (s.setReq p.1 p.2.1 { r with st := .fresh, elems := [] }).tryReq p.1 p.2.1 p.2.2
  | none => s

/-- What TLBI waits for (R307). -/
def State.tlbiHold (s : State) (die : Option Nat) (range : Nat) (v : Word64) : Hold :=
  let mine (d : Nat) : Bool := match die with | some k => d == k | none => true
  .tlbi (s.walks.filter fun w => mine w.die && s.inRange range v w.root w.va) (s.usedBy die range v false)
    ((s.qops.filter fun q => q.who.isNone && mine q.die && !q.ended && q.used.any (·.named range v)).map (·.id))

/-- TLBI: the named entries go, and requests in a holding buffer that used one look for their places again; it completes
when the walks and the accesses that used them have ended (R307, R430; log entry 26). -/
def execTlbi (a : XReg) (imm : BitVec 8) (w : CtlP2) (s : State) : Out :=
  runCmd w {
    pre := supOnly
    act := fun s c _ =>
      let die := if imm.getLsbD 2 then none else some (idDie c)
      let range := natBits imm.toNat 0 2
      let v := (s.ctx c).getX a
      let s1 := (s.usedBy die range v true).foldl State.retranslate (s.invalidate die range v)
      .next (s1.holdCmd c w 2 (s.tlbiHold die range v)) } s

end Sys2Proof.Machine
end

