-- ==== Sys2Proof/Machine/HostLink.lean ====
section
/-! DEFINITION. The host's memory aperture, function resets, links and targeted self-tests (R374, R402, R405, R409, R410,
R419, R443 to R446, R450, R451). -/

namespace Sys2Proof.Machine

/-! ### BAR4 (R374) -/

/-- The physical address of a byte of a function's aperture: its walk, its permission, a plain space and a way to it. -/
def State.barPa (s : State) (root : Nat) (wr : Bool) (va : Nat) : Option Nat :=
  match s.walkVa root va with
  | none => none
  | some t =>
    if !bit t.w0 (if wr then 3 else 2) ∨ fld t.w1 57 3 ≥ 4 ∨ (s.unreachable 0 (t.pa va) (s.routesOf 0)).isSome then none
    else some (t.pa va)

/-- The physical addresses of consecutive bytes; none when one of them faults. -/
def State.barRun (s : State) (root : Nat) (wr : Bool) : Nat → Nat → Option (List Nat)
  | 0, _ => some []
  | n + 1, va =>
    match s.barPa root wr va, s.barRun root wr n (va + 1) with
    | some p, some ps => some (p :: ps)
    | _, _ => none

/-- Bytes written at physical addresses by the host; a sector that is written whole loses its mark (R402). -/
def State.hostWrite (s : State) (ps : List Nat) (bs : List Byte) : State :=
  { s with
    mem := (ps.zip bs).foldl (fun m q => memSet m q.1 q.2) s.mem
    memPoison := s.memPoison.filter fun g => !((List.range 48).all fun k => ps.contains (48 * g + k)) }

/-- BAR4_ACCESS: a write, or a read of as many bytes as `data` has, with its completion; one outside the BAR or in a reset of its
function (Unsupported Request), or that faults in translation (Completer Abort), has no effect on the part (R373, R374, R451). -/
def execBar4Access (fn : Nat) (off : Word64) (wr : Bool) (data : List Byte) (s : State) : Out :=
  let ends (s : State) (k : Completion) : Out := .next { s with completion := some k }
  if 17 ≤ fn ∨ !s.hostUp then stall s
  else if (s.port fn).inReset ∨ ¬(off.toNat + data.length ≤ 2 ^ 30 ∨ off.toNat + data.length ≤ 2 ^ (30 + Config.bar4Bits fn % 11)) then
    ends s .unsupported
  else match s.barRun (s.reg 0 0x58 fn).toNat wr data.length off.toNat with
    | none => ends s .abort
    | some ps => ends ((if wr then s.hostWrite ps data else s).llcPass ps wr) (.done (if wr then [] else ps.map (memGet s.mem ·)))

/-! ### Function resets and the host link (R450, R451) -/

/-- A launch of a reset function: its contexts retire with no save and its programs end (R419, R451). -/
def State.resetLaunch (s : State) (l : Nat) : State :=
  match tget s.launches l with
  | none => s
  | some la =>
    let s1 : State := { s with launches := tset s.launches l { la with live := [] } }
    let mine := (s1.ctxs.filter fun p => p.2.launch == some l).map (·.1)
    mine.foldl (fun s c =>
      if isRegionId c then (if (s.ctx c).st = .free then s else s.retire c 0x22)
      else if isSupId c ∨ (s.ctx c).st = .free then s else s.endProgram c false) s1

/-- A reset of a virtual function begins, with all of its effects, or ends (R451). -/
def State.resetFunction (s : State) (fn : Nat) : State :=
  let p := s.port fn
  if p.inReset then { s with ports := tset s.ports fn { p with inReset := false } }
  else
    let ls := (s.launches.filter fun l => l.2.fn == fn).map (·.1)
    let s1 := ls.foldl State.resetLaunch s
    (s1.lstat fn fun q => { q with st := 0, inReset := true }).errRecord 0 .host .uc 26 0x26 0 0 0

/-- HOST_LINK_ERROR: an error of the link is recorded; while the link is down HOST accesses fault (R443, R450). -/
def execHostLinkError (o : HostErr) (s : State) : Out :=
  match o with
  | .correctable => .next (s.errRecord 0 .host .ce 26 0x25 0 0 0)
  | .uncorrectable => .next (s.errRecord 0 .host .uc 26 0x26 0 0 0)
  | .down => if s.hostUp then .next (State.errRecord { s with hostUp := false } 0 .host .uc 26 0x26 0 0 0) else stall s

/-! ### Links (R444, R445) -/

/-- The location and SRC of a LINKCTL instance's records (R404, R405). -/
def linkLoc (inst : Nat) : ErrLoc × Nat :=
  if inst < 3 then (.d2d inst, 19) else if inst < 19 then (.brumar (inst - 3), 24) else (.cxl (inst - 19), 25)

/-- A port whose lanes have changed, with the record of it (R443, R444). -/
def State.narrowLink (s : State) (die inst lanes : Nat) : State :=
  let v := s.reg die 0x6C inst
  let f := (BitVec.ofNat 16 (fld v 0 16) ||| BitVec.ofNat 16 lanes).toNat
  let s1 := (s.setReg die 0x6C inst (setFld v 0 16 f)).setLink die inst true
  let loc := linkLoc inst
  let lane := ((List.range 16).find? fun k => natBits lanes k 1 == 1).getD 0
  if liveLanes f = 0 then s1.errRecord die loc.1 .uc loc.2 0x22 lane 0 0 else s1.errRecord die loc.1 .ce loc.2 0x21 lane 0 0

/-- The key of a port among the package's. -/
def portKey (die inst : Nat) : Nat := 32 * die + inst

/-- LINK_CRC_ERROR: a replay, or after eight failures the loss of lanes or of the port, whose count of failures begins anew (R444,
R446). -/
def execLinkCrcError (die inst : Nat) (o : CrcObs) (s : State) : Out :=
  let loc := linkLoc inst
  let k := tgetD s.replays (portKey die inst) 0
  let anew : State := { s with replays := tdel s.replays (portKey die inst) }
  if 8 ≤ die ∨ regCount die 0x6C ≤ inst ∨ !s.linkUp die inst then stall s
  else match o with
    | .replay =>
      let v := s.reg die 0x6C inst
      let n := if fld v 16 16 = 0xFFFF then 0xFFFF else fld v 16 16 + 1
      .next ((State.setReg { s with replays := tset s.replays (portKey die inst) (k + 1) } die 0x6C inst
        (setFld v 16 16 n)).errRecord die loc.1 .ce loc.2 0x20 0 0 0)
    | .narrow lanes => if lanes = 0 ∨ k < 8 then stall s else .next (anew.narrowLink die inst lanes.toNat)
    | .down => if k < 8 then stall s else .next ((anew.setLink die inst false).errRecord die loc.1 .uc loc.2 0x22 0 0 0)

/-- LINK_TRAIN_COMPLETE: a port that trains returns to service, or stays down (R445). -/
def execLinkTrainComplete (die inst : Nat) (ok : Bool) (s : State) : Out :=
  if !s.training.contains (die, inst) then stall s
  else
    let s1 : State := { s with training := s.training.filter (· != (die, inst)) }
    let loc := linkLoc inst
    .next (if ok ∧ liveLanes (fld (s.reg die 0x6C inst) 0 16) = 0 then
        (s1.setLink die inst false).errRecord die loc.1 .uc loc.2 0x22 0 0 0
      else s1.setLink die inst ok)

/-! ### Targeted self-tests (R409, R410) -/

/-- The tile of a test's block (R405). -/
def SelfTest.pt (t : SelfTest) : Nat := ptOf t.die t.loc (t.addr % 128)

/-- The context runs no more. -/
def Ctx.over (x : Ctx) : Bool := x.st == .retired || x.st == .faulted || x.st == .free

/-- No context holds the block: its holder has retired, faulted, been saved or moved (R409).  The contexts of a cluster hold its
copy engine, semaphores and scheduler, those of a die its collective engine, and walks the walker pool; no context holds a slice,
a stack, a port or the host link (log entry 64). -/
def State.blockFree (s : State) (t : SelfTest) : Bool :=
  let idle (f : Nat → Bool) : Bool := !(s.ctxs.any fun p => f p.1 && !p.2.over)
  if t.src ≤ 11 then (match s.owner t.pt with | none => true | some c => (s.ctx c).over)
  else match t.src with
    | 12 => idle fun c => isCopyId c && idDie c == t.die && idCluster c == t.loc
    | 13 | 14 => idle fun c => isRegionId c && (s.ctx c).onTiles && s.homeCl c == t.die * 6 + t.loc
    | 20 => idle fun c => !isRegionId c && !isCopyId c && !isSupId c && idDie c == t.die
    | 21 => !(s.walks.any fun w => w.die == t.die)
    | _ => true

/-- The `k`-th self-test of a die that waits or runs. -/
def State.testAt (s : State) (die k : Nat) : Option SelfTest := (s.tests.filter fun t => t.die == die)[k]?

/-- SELF_TEST_START (R409). -/
def execSelfTestStart (die k : Nat) (s : State) : Out :=
  match s.testAt die k with
  | none => stall s
  | some t =>
    if t.started ∨ !s.blockFree t then stall s
    else .next { s with tests := s.tests.map fun q => if q = t then { q with started := true } else q }

/-- STR is written into the record, if it is still in its bank (R405, R409). -/
def State.testResult (s : State) (t : SelfTest) (r : Nat) : State :=
  match t.bank with
  | none => s
  | some i =>
    let w := s.reg t.die 0x60 i
    if bit w 63 ∧ sameBlock (fld w 48 8) (s.reg t.die 0x61 i).toNat t.src t.addr then
      s.setReg t.die 0x60 i (setFld w 56 2 r)
    else s

/-- A tile's fence bit is set by self-test (R410). -/
def State.fenceTile (s : State) (pt bits : Nat) : State :=
  let t := tgetD s.testFence pt 0
  let low := (BitVec.ofNat 13 (t % 8192) ||| BitVec.ofNat 13 bits).toNat
  let ask := (BitVec.ofNat 13 (t / 8192) &&& ~~~(BitVec.ofNat 13 bits)).toNat
  { s with testFence := if low = 0 then s.testFence else tset s.testFence pt (low + ask * 8192) }

/-- A block with a lasting fault is fenced: a unit or storage of a tile, or a lane, whose port narrows with a record of it (R409,
R410, R444).  A channel buffer has no bit of its own in TFENCE, and fences the tile's switch box (log entry 64). -/
def State.fenceBlock (s : State) (t : SelfTest) : State :=
  if t.src ≤ 11 then s.fenceTile t.pt (2 ^ (if t.src = 11 then 7 else t.src))
  else
    let inst := if t.src = 19 then t.loc - 9 else if t.src = 24 then t.loc - 12 + 3 else t.loc - 28 + 19
    let v := s.reg t.die 0x6C inst
    if (t.src = 19 ∨ t.src = 24 ∨ t.src = 25) ∧ t.addr < 16 ∧ !bit v t.addr then
      if s.linkUp t.die inst then s.narrowLink t.die inst (2 ^ t.addr) else s.setReg t.die 0x6C inst (setFld v t.addr 1 1)
    else s

/-- SELF_TEST_COMPLETE (R407, R409). -/
def execSelfTestComplete (die k : Nat) (o : TestObs) (s : State) : Out :=
  match s.testAt die k with
  | none => stall s
  | some t =>
    if !t.started then stall s
    else
      let s1 : State := { s with tests := s.tests.filter (· ≠ t) }
      .next (match o with
        | .transient =>
          let w := s1.reg die 0x64 t.loc
          let n := if fld w 16 16 = 0xFFFF then 0xFFFF else fld w 16 16 + 1
          (s1.testResult t 1).setReg die 0x64 t.loc (setFld w 16 16 n)
        | .lasting => (s1.testResult t 2).fenceBlock t
        | .notRun => s1.testResult t 3)

end Sys2Proof.Machine
end

