-- ==== Sys2Proof/Machine/Matrix.lean ====
section
/-! DEFINITION. The matrix node (R114 to R116, R133 to R138, R181, R182, R251 to R255, R368, R397, R402, R403, R414,
R421).

An entry's effect on the accumulator is had when it fires; the node reports its completion later
(MATRIX_ENTRY_COMPLETE), and what waits for completions waits for that. -/

namespace Sys2Proof

/-- M of a token (R181). -/
def MxTok.m (t : MxTok) : Nat := t.mm1.toNat + 1
/-- N of a token (R181). -/
def MxTok.n (t : MxTok) : Nat := t.nm1.toNat + 1
/-- K of a token (R181). -/
def MxTok.k (t : MxTok) : Nat := 16 * (t.kg.toNat + 1)
/-- The first k of a token (R181). -/
def MxTok.k0 (t : MxTok) : Nat := 16 * t.koff.toNat

/-- The accumulator entry of an output (R252). -/
def MxTok.entry (t : MxTok) (m n : Nat) : Nat := if t.int then 32 * m + n else 512 * b2n t.tile + 16 * m + n

/-- The outputs that a token touches (R252). -/
def MxTok.outs (t : MxTok) : List (Nat × Nat) := (List.range t.m).flatMap fun m => (List.range t.n).map fun n => (m, n)

end Sys2Proof

namespace Sys2Proof.Machine

/-! ### The queue -/

/-- The head entry has left the queue: its place is free, and the port that the node taps may fill it (R49, R50). -/
def State.mxPop (s : State) (pt : Nat) : State :=
  let s1 := (s.setMx pt { s.mx pt with queue := (s.mx pt).queue.tail }).touch pt .tok
  match s1.tapped pt 2 with
  | some _ => s1.mxPull pt
  | none => s1.free (.mx pt)

/-- What the slots a token names say (R135). -/
inductive Claimed where
  | ready | wait | wrong
  deriving DecidableEq, Repr

/-- A claim against its slot (R135). -/
def Mx.claim (m : Mx) (n : Nat) : Claimed :=
  let x := m.slots[Fin.ofNat 16 (n / 16)]
  if x.gen.toNat ≠ n % 16 then .wrong
  else match x.st with
    | .free => .wrong
    | .claimed | .filling => .wait
    | .filled | .inUse => .ready

/-- A slot named by a token that fires is in use (R134). -/
def Mx.use (m : Mx) (n : Nat) : Mx :=
  let k : Fin 16 := Fin.ofNat 16 (n / 16)
  { m with slots := m.slots.set k { m.slots[k] with st := .inUse } }

/-- A token at the head of the queue, checked in the order of R182, R135 and R403, meets `f` when it fires; an entry of
another kind passes the turn. -/
def onToken (op : Nat) (t : MxTok) (claims : List Nat) (s : State) (f : Nat → State → Out) : Out :=
  match s.cur with
  | .mx pt =>
    if !s.active pt then stall s
    else match (s.mx pt).queue with
      | .tok w poison :: _ =>
        let cs := claims.map (s.mx pt).claim
        if !(wfMxFields op t).isEmpty then .next (s.unitFault pt 2 fcEncoding 0)
        else if cs.contains .wrong then .next (s.unitFault pt 2 fcSlotclm 0)
        else if cs.contains .wait then stall s
        else if poison then .next (s.consumePoison pt 2 0)
        else f pt s
      | _ => stall s
  | _ => .fault .wrongAgent

/-! ### Accumulators -/

/-- An accumulator entry. -/
def Mx.at (x : Mx) (k : Nat) : AccEntry := tgetD x.acc k {}

/-- Every touched output changed. -/
def Mx.update (x : Mx) (t : MxTok) (f : Nat → Nat → AccEntry → AccEntry) : Mx :=
  { x with acc := t.outs.foldl (fun a p => tset a (t.entry p.1 p.2) (f p.1 p.2 (tgetD a (t.entry p.1 p.2) {}))) x.acc }

/-- Bits of an operand slot of a tile. -/
def State.slotBits (s : State) (pt claim bits w : Nat) : Nat := memBits s.opnd (opndKey pt (claim / 16) 0 * 8 + bits) w

/-- A sector of an operand slot that holds a bit is marked (R402). -/
def State.slotMarked (s : State) (pt claim bits : Nat) : Bool :=
  s.opndPoison.contains (opndKey pt (claim / 16) (bits / 8) / 64)

/-- Element A[m][k] at width `w` (R138). -/
def State.mxA (s : State) (pt : Nat) (t : MxTok) (w m k : Nat) : Nat := s.slotBits pt t.aclm.toNat ((32 * k + m) * w) w
/-- Element B[k][n] at width `w` (R138). -/
def State.mxB (s : State) (pt : Nat) (t : MxTok) (w k n : Nat) : Nat := s.slotBits pt t.bclm.toNat ((32 * k + n) * w) w
/-- The scale of B's block k (R138). -/
def State.mxScale (s : State) (pt : Nat) (t : MxTok) (k : Nat) : Nat := s.slotBits pt t.bclm.toNat ((8192 + k) * 8) 8

/-- The token reads a marked sector (R402). -/
def State.mxReadsMarked (s : State) (pt : Nat) (t : MxTok) (wa wb : Nat) (scaled : Bool) : Bool :=
  s.opndPoison ≠ [] && (List.range t.k).any fun i =>
    let k := t.k0 + i
    ((List.range t.m).any fun m => s.slotMarked pt t.aclm.toNat ((32 * k + m) * wa)) ||
    ((List.range t.n).any fun n => s.slotMarked pt t.bclm.toNat ((32 * k + n) * wb)) ||
    (scaled && s.slotMarked pt t.bclm.toNat ((8192 + k) * 8))

/-- floor(log2) of a magnitude `m * 2^e` that is not zero. -/
def termLog (m : Nat) (e : Int) : Int := (Nat.log2 m : Int) + e

/-- The sum of a group with its truncation and sticky bit (R114): the new value. -/
def groupSum (ts : List (Bool × Nat × Int)) : Nat :=
  let nz := ts.filter fun t => t.2.1 ≠ 0
  match nz with
  | [] => fzero .fp32 (ts.all (·.1))
  | h :: _ =>
    let top := nz.foldl (fun a t => if a < termLog t.2.1 t.2.2 then termLog t.2.1 t.2.2 else a) (termLog h.2.1 h.2.2)
    let q := top - 26
    let part (t : Bool × Nat × Int) : Nat × Bool :=
      let d := t.2.2 - q
      if d ≥ 0 then (t.2.1 * 2 ^ d.toNat, false)
      else (t.2.1 / 2 ^ (-d).toNat, t.2.1 % 2 ^ (-d).toNat ≠ 0)
    let sum : Int := nz.foldl (fun a t => if t.1 then a - ((part t).1 : Int) else a + ((part t).1 : Int)) 0
    let sticky := nz.any fun t => (part t).2
    if sum = 0 then 0 else (roundRat .fp32 .rne (decide (sum < 0)) sum.natAbs 1 q sticky).1

/-- One group of 16 products added to an entry (R114); one that holds the absent code takes a free value, since an absent
code is never a NaN (R95; log entry 30). -/
def accGroup (a : AccEntry) (prods : List (Nat × Nat)) : AccEntry :=
  let ps := prods.filter fun p => !(isAbsent .bf16 p.1 || isAbsent .bf16 p.2)
  let ts := termOf (fclass .fp32 a.value.toNat) :: ps.map fun p => termMul (fclass .bf16 p.1) (fclass .bf16 p.2)
  let infs := termInfs ts
  let v := if isAbsent .fp32 a.value.toNat then (Config.absentAcc ps).toNat
    else if ts.contains .invalid || (infs.contains true && infs.contains false) then qnan .fp32
    else match infs with
      | n :: _ => finf .fp32 n
      | [] => groupSum (termNums ts)
  { a with value := BitVec.ofNat 32 v, count := Nat.min (a.count + ps.length) 0xFFFFFFFF }

/-- MZERO's effect on an entry (R253). -/
def AccEntry.zero : AccEntry := {}

/-- A floating MMA: the weights as BF16 (R114, R253). -/
def State.mmaFloat (s : State) (pt : Nat) (t : MxTok) (weight : Nat → Nat → Nat) (mark : Bool) : Mx :=
  (s.mx pt).update t fun m n a =>
    let a0 := if t.acc then a else AccEntry.zero
    let r := (List.range (t.kg.toNat + 1)).foldl (fun a g =>
      accGroup a ((List.range 16).map fun j =>
        let k := t.k0 + 16 * g + j
        (s.mxA pt t 16 m k, weight k n))) a0
    { r with poison := r.poison || mark }

/-- The fold of R116. -/
def AccEntry.fold (a : AccEntry) : AccEntry :=
  let x := (a.r255 * 8421376 + a.r256 * 16711425 + a.r257 * 8421120) % 16776960
  let x : Int := if x ≥ 8388480 then (x : Int) - 16776960 else x
  let v := sint 32 a.value.toNat + x
  let top : Int := 2 ^ 31 - 1
  let v := if v > top then top else if v < -top then -top else v
  { a with value := BitVec.ofNat 32 (patternOf 32 v), r255 := 0, r256 := 0, r257 := 0, ksteps := 0 }

/-- One K-step of an integer MMA at an entry (R115, R116). -/
def AccEntry.kstep (ty : Fmt) (x y : Nat) (a : AccEntry) : AccEntry :=
  let res (n m : Nat) : Nat := (sint (fmtWidth ty) n % (m : Int)).toNat
  let a1 := if isAbsent ty x || isAbsent ty y then a
    else { a with r255 := (a.r255 + res x 255 * res y 255) % 255, r256 := (a.r256 + res x 256 * res y 256) % 256
                  r257 := (a.r257 + res x 257 * res y 257) % 257, count := Nat.min (a.count + 1) 0xFFFFFFFF }
  let a2 := { a1 with ksteps := a1.ksteps + 1 }
  if a2.ksteps ≥ 512 then a2.fold else a2

/-- An integer MMA (R115). -/
def State.mmaInt (s : State) (pt : Nat) (t : MxTok) (ty : Fmt) (mark : Bool) : Mx :=
  let w := fmtWidth ty
  (s.mx pt).update t fun m n a =>
    let a0 := if t.acc then a else AccEntry.zero
    let r := (List.range t.k).foldl (fun a i =>
      a.kstep ty (s.mxA pt t w m (t.k0 + i)) (s.mxB pt t w (t.k0 + i) n)) a0
    { r with poison := r.poison || mark }

/-- An injected error leaves its mark on what the node computes: all but a corrected one of its storage (R399, R438). -/
def State.mxSpoils (s : State) : Bool := decide (s.upset ≠ 0 ∧ s.upset ≠ 3)

/-- An uncorrectable error of the node's storage poisons the granule in which it is found: a sector of a slot that the token reads,
or an entry that it touches, which a free value names (R402, R438; log entry 65). -/
def State.mxLose (s : State) (pt : Nat) (t : MxTok) (claims : List Nat) : State :=
  let y := s.fresh 16
  match claims with
  | [] =>
    let p := t.outs.getD (y.1 % Nat.max 1 t.outs.length) (0, 0)
    let x := y.2.mx pt
    y.2.setMx pt { x with acc := tset x.acc (t.entry p.1 p.2) { tgetD x.acc (t.entry p.1 p.2) {} with poison := true } }
  | c :: cs =>
    let k := (c :: cs).getD (y.1 % (c :: cs).length) c
    { y.2 with opndPoison := markAdd y.2.opndPoison (opndKey pt (k / 16) (64 * (y.1 / 256 % 256)) / 64) }

/-- An error injected for the node is recorded: one of its datapath as deferred, one of operand memory or the accumulator as
corrected (3) or deferred (4) (R399, R438; log entry 65). -/
def State.mxUpset (s : State) (pt : Nat) (t : MxTok) (claims : List Nat) : State :=
  let s1 : State := { s with upset := 0 }
  let found (cls : ErrClass) : State :=
    s1.eccRecord (ptDie pt) (.cluster (ptCluster pt)) cls 10 0x10 (unitAddr pt 0) ((s.owner pt).getD 0)
  match s.upset with
  | 0 => s
  | 3 => found .ce
  | 4 => (found .defd).mxLose pt t claims
  | _ => s1.checkRecord pt .defd 2 0 none

/-- A token that burst waits for the guard (R368). -/
def State.burstHeld (s : State) (pt : Nat) (t : MxTok) : Bool :=
  decide (t.m * t.n * t.k > fld (s.reg (ptDie pt) 0x4C 0) 0 19) &&
    !((s.vf (ptDie pt) (vfNo pt)).guard && s.guardAck (ptDie pt) (vfNo pt))

/-- A burst asks for the guard step: it has it at once where the voltage suffices (R368). -/
def State.askGuard (s : State) (pt : Nat) : State :=
  let d := ptDie pt
  let v := vfNo pt
  let x := s.vf d v
  if s.guardAck d v then s.setVf d v { x with guard := true, want := none }
  else if x.want.isSome then s else s.setVf d v { x with want := some s.cycle }

/-- An MMA fires: its slots are in use, its place in the queue is free, and it runs until it completes. -/
def fireMma (op : Nat) (t : MxTok) (wa wb : Nat) (scaled : Bool) (f : State → Nat → Bool → Mx) (s : State) : Out :=
  onToken op t [t.aclm.toNat, t.bclm.toNat] s fun pt s =>
    if s.burstHeld pt t && (s.askGuard pt).burstHeld pt t then .next (s.askGuard pt)
    else
      let s0 := if decide (t.m * t.n * t.k > fld (s.reg (ptDie pt) 0x4C 0) 0 19) then
          let s1 := s.askGuard pt
          s1.setVf (ptDie pt) (vfNo pt) { s1.vf (ptDie pt) (vfNo pt) with lastBurst := (s1.vf (ptDie pt) (vfNo pt)).clock s.cycle }
        else s
      let mark := s0.mxReadsMarked pt t wa wb scaled || s0.mxSpoils
      let m := ((f s0 pt mark).use t.aclm.toNat).use t.bclm.toNat
      let s2 := (s0.setMx pt { m with running := m.running ++ [mxWordOf op t] }).mxUpset pt t [t.aclm.toNat, t.bclm.toNat]
      .next (s2.mxPop pt)
where
  /-- The word of a token, by which the node knows an entry that has fired. -/
  mxWordOf (op : Nat) (t : MxTok) : Word64 := Decode.mxWord op t

/-- A plain weight element as BF16 (R113). -/
def State.weightPlain (s : State) (pt : Nat) (t : MxTok) (k n : Nat) : Nat :=
  (dequant .int4 .bf16 0 (s.mxB pt t 4 k n)).1

/-- A block weight element as BF16 (R113). -/
def State.weightBlock (s : State) (pt : Nat) (t : MxTok) (f : Fmt) (k n : Nat) : Nat :=
  (dequant f .bf16 (s.mxScale pt t k) (s.mxB pt t 4 k n)).1

/-- MZERO (R253, R399). -/
def execMzero (t : MxTok) (s : State) : Out :=
  onToken 0x00 t [] s fun pt s =>
    let m := (s.mx pt).update t fun _ _ _ => { AccEntry.zero with poison := s.mxSpoils }
    .next (((s.setMx pt { m with running := m.running ++ [Decode.mxWord 0x00 t] }).mxUpset pt t []).mxPop pt)

/-- MMA.BF16 (R114, R253). -/
def execMmaBf16 (t : MxTok) (s : State) : Out :=
  fireMma 0x01 t 16 16 false (fun s pt mark => s.mmaFloat pt t (s.mxB pt t 16) mark) s

/-- MMA.W4I (R113, R253). -/
def execMmaW4i (t : MxTok) (s : State) : Out :=
  fireMma 0x02 t 16 4 t.blk (fun s pt mark =>
    s.mmaFloat pt t (if t.blk then s.weightBlock pt t .mxint4 else s.weightPlain pt t) mark) s

/-- MMA.W4F (R113, R253). -/
def execMmaW4f (t : MxTok) (s : State) : Out :=
  fireMma 0x03 t 16 4 true (fun s pt mark => s.mmaFloat pt t (s.weightBlock pt t .mxfp4) mark) s

/-- MMA.I8 (R115, R253). -/
def execMmaI8 (t : MxTok) (s : State) : Out :=
  fireMma 0x04 t 8 8 false (fun s pt mark => s.mmaInt pt t .int8 mark) s

/-- MMA.I4 (R115, R253). -/
def execMmaI4 (t : MxTok) (s : State) : Out :=
  fireMma 0x05 t 4 4 false (fun s pt mark => s.mmaInt pt t .int4 mark) s

/-! ### Drains (R254) -/

/-- A count divides a value, rounded once (R254): floating layout; the mean of an absent code is a free value (R95; log
entry 30). -/
def meanFloat (f : Fmt) (v count : Nat) : Nat :=
  match fclass .fp32 v with
  | .inf neg => finf f neg
  | .num neg m e => (roundRat f .rne neg m count e).1
  | .absent => Config.absentMean (f == .bf16) count
  | .nan _ => qnan f

/-- The integer nearest to `v / count`, ties to even (R254). -/
def meanInt (v : Int) (count : Nat) : Int :=
  let q := v.natAbs / count
  let r := v.natAbs % count
  let n := if 2 * r > count ∨ (2 * r = count ∧ q % 2 = 1) then q + 1 else q
  if v < 0 then -(n : Int) else n

/-- The value of an entry in floating layout, in FP32 or BF16; a NaN of whatever payload is the quiet one (R106, R254). -/
def drainFloat (f : Fmt) (v : Nat) : Nat :=
  match fclass .fp32 v with
  | .nan _ => qnan f
  | _ => if f = .bf16 then (convert .fp32 .bf16 .rne false v).1 else v

/-- The value that a drain emits for an entry (R254). -/
def drainValue (op : Nat) (t : MxTok) (a : AccEntry) : Nat :=
  let int := sint 32 a.value.toNat
  if op = 0x0A then Nat.min a.count 0x7FFFFFFF
  else if a.count = 0 then absentOf (if t.dfmt then .bf16 else if t.int then .int32 else .fp32)
  else if op = 0x08 then
    if t.int then (if t.dfmt then (ofInt .bf16 .rne int).1 else a.value.toNat)
    else drainFloat (if t.dfmt then .bf16 else .fp32) a.value.toNat
  else if t.int then
    if t.dfmt then (roundRat .bf16 .rne (decide (int < 0)) int.natAbs a.count 0).1
    else patternOf 32 (meanInt int a.count)
  else meanFloat (if t.dfmt then .bf16 else .fp32) a.value.toNat a.count

/-- The format of a drain's tokens (R254). -/
def drainFmt (op : Nat) (t : MxTok) : Fmt :=
  if op = 0x0A then .int32 else if t.dfmt then .bf16 else if t.int then .int32 else .fp32

/-- The tokens of one row (R254). -/
def drainRow (op : Nat) (t : MxTok) (x : Mx) (bad : Bool) (m : Nat) : List Token :=
  let f := drainFmt op t
  let w := fmtWidth f
  let e := 512 / w
  (List.range ((t.n + e - 1) / e)).map fun i =>
    let cells := (List.range e).map fun j => i * e + j
    let es := cells.map fun n => if n < t.n then drainValue op t (x.at (t.entry m n)) else absentOf f
    let poison := bad || cells.any fun n => decide (n < t.n) && (x.at (t.entry m n)).poison
    dataToken (payloadOf w es) 0 (BitVec.ofNat 32 m) poison

/-- A drain fires when every earlier entry has completed; its tokens then leave one by one (R252, R254). -/
def fireDrainMx (op : Nat) (t : MxTok) (s : State) : Out :=
  onToken op t [] s fun pt s =>
    let x := s.mx pt
    if x.running ≠ [] ∨ x.out ≠ [] then stall s
    else
      let x1 := if t.int then x.update t fun _ _ a => a.fold else x
      let bad := s.mxSpoils
      let s1 := (s.setMx pt { x1 with out := (List.range t.m).flatMap (drainRow op t x1 bad) }).mxUpset pt t []
      .next (s1.mxPop pt)

/-- MDRAIN (R254). -/
def execMdrain (t : MxTok) (s : State) : Out := fireDrainMx 0x08 t s

/-- MDRAIN.MEAN (R254). -/
def execMdrainMean (t : MxTok) (s : State) : Out := fireDrainMx 0x09 t s

/-- MCOUNT (R254). -/
def execMcount (t : MxTok) (s : State) : Out := fireDrainMx 0x0A t s

/-- Release: the slot is freed once every token ahead has completed (R134, R136). -/
def execMatrixRelease (t : MxTok) (s : State) : Out :=
  match s.cur with
  | .mx pt =>
    let x := s.mx pt
    let k : Fin 16 := Fin.ofNat 16 (t.aclm.toNat / 16)
    if !s.active pt then stall s
    else match x.queue with
      | .tok _ poison :: _ =>
        if !(wfMxFields 0x1F t).isEmpty then .next (s.unitFault pt 2 fcEncoding 0)
        else if x.running ≠ [] ∨ x.out ≠ [] then stall s
        else if x.slots[k].st = .free ∨ x.slots[k].gen.toNat ≠ t.aclm.toNat % 16 then .next (s.unitFault pt 2 fcSlotclm 0)
        else if x.slots[k].st = .filling then stall s
        else if poison then .next (s.consumePoison pt 2 0)
        else .next ((s.setMx pt { x with slots := x.slots.set k { x.slots[k] with st := .free } }).mxPop pt)
      | _ => stall s
  | _ => .fault .wrongAgent

/-! ### The node's own events -/

/-- MATRIX_ENTRY_COMPLETE: the oldest entry that runs completes (R252, R255). -/
def execMatrixEntryComplete (t : Nat) (s : State) : Out :=
  let x := s.mx t
  match x.running with
  | [] => stall s
  | _ :: rest => .next ((s.setMx t { x with running := rest }).touch t .tok)

/-- The code of the drain output (R191, R254). -/
def mxOut : Nat := 0x28

/-- MATRIX_DRAIN_TOKEN: the next drain token leaves (R254). -/
def execMatrixDrainToken (t : Nat) (s : State) : Out :=
  let x := s.mx t
  match x.out with
  | [] => stall s
  | tok :: rest =>
    if s.active t && s.canEmit t [mxOut] then .next ((s.setMx t { x with out := rest }).emit t mxOut tok) else stall s

/-- MATRIX_MARK_PASS: a mark at the head leaves after every entry ahead of it; the accumulator file is recorded as a
barrier's mark leaves (R255, R421).  A mark whose residue is wrong is consumed poison (R397; log entry 75). -/
def execMatrixMarkPass (t : Nat) (s : State) : Out :=
  let x := s.mx t
  match x.queue with
  | .mark tok :: _ =>
    if s.active t ∧ tok.mismatch then .next (s.consumePoison t 2 0)
    else if s.active t && x.running.isEmpty && x.out.isEmpty && s.canEmit t [mxOut] then
      let s1 := (s.emit t mxOut tok).mxPop t
      .next (match s1.owner t with
        | none => s1
        | some c =>
          let m := elemAt tok.payload 32 0
          if tok.kind == .barrier then
            s1.modCtx c fun y => match tget y.marks m with
              | some r => { y with marks := tset y.marks m { r with acc := tset r.acc t x.acc } }
              | none => y
          else s1)
    else stall s
  | _ => stall s

end Sys2Proof.Machine
end

