-- ==== Sys2Proof/Machine/RotSave.lean ====
section
/-! DEFINITION. Saving a loop into a record and loading one: ROTSV and ROTLD (R87 to R91, R300, R301, R416). -/

namespace Sys2Proof.Machine

/-- ROTSV: the loop will be saved at an arrival of phase 0; the command holds its sequencer until the record is written
(R87, R300). -/
def execRotsv (a : XReg) (imm : BitVec 8) (w : CtlP2) (s : State) : Out :=
  let l := imm.toNat % 8
  let lines (s : State) (c : Nat) : Option (List Nat) :=
    let v := (s.ctx c).getX a
    if fld v 8 24 ≠ 0 then none else s.recordLines c (fld v 0 8) (fld v 32 32) (recordLen (s.loopSlots c l)) 2
  runCmd w {
    pre := regionOnly
    check := fun s c => trapUnless ((s.loopEntry c l).isSome && (lines s c).isSome)
    act := fun s c _ =>
      match lines s c with
      | none => .next (s.trapCmd c causeUnassigned)
      | some _ =>
        let v := (s.ctx c).getX a
        .next ((s.setLoop c l { s.loopOf c l with save := some (c, fld v 0 8, fld v 32 32) }).holdCmd c w 2 (.rotsv l)) } s

/-- Bytes of scratchpad lines. -/
def State.lineBytes (s : State) (ls : List Nat) : List Byte := ls.flatMap fun q => memBytes s.spad (64 * q) 64

/-- A record as read: its bytes, and the lines of it that hold the poison mark. -/
structure RotRecord where
  bytes : List Byte
  marks : List Bool
  deriving DecidableEq, Repr

/-- A 64-bit word of the record. -/
def RotRecord.word (r : RotRecord) (off : Nat) : Word64 := BitVec.ofNat 64 (natOfBytes ((r.bytes.drop off).take 8))

/-- S of the record (R89). -/
def RotRecord.slots (r : RotRecord) : Nat := fld (r.word 0) 0 7
/-- STAGED of the record (R89). -/
def RotRecord.staged (r : RotRecord) : Nat := fld (r.word 0) 16 3

/-- Token place `i` of the record; poisoned if a line that it lies in is marked (R88, R402). -/
def RotRecord.token (r : RotRecord) (i : Nat) : Token :=
  let o := 64 + 72 * i
  let t := tokenOf ((r.bytes.drop o).take 72)
  { t with poison := t.poison || r.marks.getD (o / 64) false || r.marks.getD ((o + 71) / 64) false }

/-- A phase of the record is in use: VALID, FAULT or ENTRY (R90). -/
def RotRecord.used (r : RotRecord) (p : Nat) : Bool := bit (r.word 8) p || bit (r.word 24) p || bit (r.word 32) p

/-- The staged tokens, head first. -/
def RotRecord.queue (r : RotRecord) : List Token := (List.range r.staged).map fun i => r.token (2 * r.slots + i)

/-- The new phase of a saved phase by the map; none when it is unmapped (R90). -/
def mapPhase (map : List Byte) (n p : Nat) : Option Nat :=
  let b := (map.getD p 0x80).toNat
  if p ≥ n ∨ natBits b 7 1 = 1 then none else some (natBits b 0 6)

/-- The load is not refused for what the record and the map hold (R90). -/
def RotRecord.fits (r : RotRecord) (map : List Byte) (slots : Nat) : Bool :=
  let n := r.slots
  let w := r.word 0
  let goal (p : Nat) : Option Nat := (mapPhase map n p).filter fun q => decide (q < slots)
  let used := (List.range n).filter r.used
  let goals := used.map goal
  decide (1 ≤ n ∧ n ≤ 64 ∧ r.staged ≤ 4) &&
  decide (fld w 7 1 = 0 ∧ fld w 19 1 = 0 ∧ fld w 23 1 = 0 ∧ fld w 40 24 = 0 ∧ r.word 48 = 0 ∧ r.word 56 = 0) &&
  ([8, 16, 24, 32].all fun o => decide ((r.word o).toNat < 2 ^ n)) &&
  goals.all Option.isSome && decide (goals.dedup.length = goals.length) &&
  r.queue.all fun t => (goal t.slot.toNat).isSome

/-- A mask of the record under the map, in a loop of `slots` slots (R75, R91). -/
def RotRecord.mask (r : RotRecord) (map : List Byte) (slots o : Nat) : Word64 :=
  (List.range r.slots).foldl (fun m p =>
    match mapPhase map r.slots p with
    | some q => if bit (r.word o) p ∧ q < slots then setFld m q 1 1 else m
    | none => m) 0

/-- The tokens of the phases that a test picks, by their new phases; `base` is the first token place (R88, R91). -/
def RotRecord.tokens (r : RotRecord) (map : List Byte) (base : Nat) (pick : Nat → Bool) (tag : Bool) : Tbl Token :=
  (List.range r.slots).foldl (fun t p =>
    match mapPhase map r.slots p with
    | some q =>
      if pick p then
        let k := r.token (base + p)
        tset t q (if tag then { k with slot := BitVec.ofNat 6 q } else k)
      else t
    | none => t) []

/-- The loop may take a load (R90). -/
def LoopSt.takesLoad (x : LoopSt) : Bool :=
  x.valid == 0 && x.fault == 0 && x.entries.isEmpty && x.load.isEmpty && x.staging.isEmpty && x.queue.isEmpty && !x.stopped

/-- A save of the loop is taking its phases out: a load waits until the record is written (log entry 14). -/
def LoopSt.saves (x : LoopSt) : Bool := match x.busy with | .saving _ _ _ _ _ => true | _ => false

/-- The loop with the record loaded: a loop that has not been RUN starts with it, and one that runs takes each state at
an arrival of its phase (R91). -/
def LoopSt.loaded (x : LoopSt) (r : RotRecord) (map : List Byte) (slots : Nat) : LoopSt :=
  let states := r.tokens map 0 (fun p => bit (r.word 8) p || bit (r.word 24) p) false
  let staged := r.queue.map fun t => { t with slot := BitVec.ofNat 6 ((mapPhase map r.slots t.slot.toNat).getD 0) }
  { x with
    valid := r.mask map slots 8, hold := r.mask map slots 16, fault := r.mask map slots 24, parked := false
    entries := r.tokens map r.slots (fun p => bit (r.word 32) p) true, load := staged
    states := if x.running then x.states else states
    busy := if x.running ∧ states ≠ [] then .loading false states else .none }

/-- The record and the map that ROTLD names; none breaks R301. -/
def State.rotldRead (s : State) (c : Nat) (a b : Word64) : Option (RotRecord × List Byte) :=
  if fld a 16 16 ≠ 0 ∨ fld b 51 13 ≠ 0 then none
  else match s.recordLines c (fld a 0 8) (fld a 32 32) 64 1, s.recordLines c (fld a 8 8) (fld b 0 32) 64 1 with
    | some h, some m =>
      let n := Nat.min 64 (fld (BitVec.ofNat 64 (natOfBytes ((s.lineBytes h).take 8))) 0 7)
      (s.recordLines c (fld a 0 8) (fld a 32 32) (recordLen n) 1).map fun ls =>
        (⟨s.lineBytes ls, ls.map s.spadPoison.contains⟩, s.lineBytes m)
    | _, _ => none

/-- The race detector's answer for ROTLD's reads (R435 to R437). -/
def State.rotldRace (s : State) (c : Nat) (a b : Word64) : State × Bool :=
  let lines (lt0 c0 n : Nat) : List Nat := (s.recordLines c lt0 c0 n 1).getD []
  let n := Nat.min 64 (fld (BitVec.ofNat 64 (natOfBytes ((s.lineBytes (lines (fld a 0 8) (fld a 32 32) 64)).take 8))) 0 7)
  let r := s.raceLines c false (s.viewLt c (fld a 0 8)) (recordLen n) (lines (fld a 0 8) (fld a 32 32) (recordLen n))
  if r.2 then r else r.1.raceLines c false (s.viewLt c (fld a 8 8)) 64 (lines (fld a 8 8) (fld b 0 32) 64)

/-- The target of a ROTLD: a region context of the issuer's launch, on its cluster (R301). -/
def State.rotldTarget (s : State) (c t : Nat) : Bool :=
  isRegionId t && (s.ctx t).launch.isSome && (isSupId c || (s.ctx t).launch == (s.ctx c).launch) && s.homeCl t == s.homeCl c

/-- ROTLD: a record goes into a rotating loop, with new phases (R90, R91, R301). -/
def execRotld (a b : XReg) (w : CtlP2) (s : State) : Out :=
  let target (s : State) (c : Nat) : Nat × Nat := let v := (s.ctx c).getX b; (fld v 32 16, fld v 48 3)
  let args (s : State) (c : Nat) : Option (RotRecord × List Byte) := s.rotldRead c ((s.ctx c).getX a) ((s.ctx c).getX b)
  runCmd w {
    ready := fun s c => let t := target s c; !(s.loopOf t.1 t.2).saves
    check := fun s c =>
      let t := target s c
      match args s c with
      | none => some causeUnassigned
      | some (r, m) => trapUnless (s.rotldTarget c t.1 && (s.loopEntry t.1 t.2).isSome &&
          (s.loopOf t.1 t.2).takesLoad && r.fits m (s.loopSlots t.1 t.2))
    act := fun s c _ =>
      let t := target s c
      match args s c with
      | none => .next (s.trapCmd c causeUnassigned)
      | some (r, m) =>
        let ra := s.rotldRace c ((s.ctx c).getX a) ((s.ctx c).getX b)
        .next (if ra.2 then ra.1.faultCtx c fcRace 0x7E 0 ((s.ctx c).pc % 1024) else (ra.1.setLoop t.1 t.2 ((s.loopOf t.1 t.2).loaded r m (s.loopSlots t.1 t.2))).finish c w 2) } s

end Sys2Proof.Machine
end

