-- ==== Sys2Proof/Machine/Scalar.lean ====
section
/-! DEFINITION. The scalar commands of the controllers: arithmetic, literals, branches, jump tables, labels and no-ops
(R273 to R276). -/

namespace Sys2Proof.Machine

/-- The scalar operations of R274. -/
inductive AluOp where
  | add | sub | and | or | xor | shl | shr | sar | mul | min | max
  deriving DecidableEq, Repr

/-- A scalar operation on two words (R274). -/
def alu (op : AluOp) (a b : Word64) : Word64 :=
  match op with
  | .add => a + b
  | .sub => a - b
  | .and => a &&& b
  | .or => a ||| b
  | .xor => a ^^^ b
  | .shl => a <<< (b.toNat % 64)
  | .shr => a >>> (b.toNat % 64)
  | .sar => a.sshiftRight (b.toNat % 64)
  | .mul => a * b
  | .min => if a.slt b then a else b
  | .max => if a.slt b then b else a

/-- IMM8 extended to 64 bits: sign-extended for ADD, SUB, MUL, MIN and MAX (R274). -/
def aluImm (op : AluOp) (imm : BitVec 8) : Word64 :=
  match op with
  | .add | .sub | .mul | .min | .max => imm.signExtend 64
  | _ => imm.zeroExtend 64

/-- `op xd, xa, xb`. -/
def aluReg (op : AluOp) (d a b : XReg) (w : CtlP2) (s : State) : Out :=
  runCmd w (atIssue w 2 fun s c => s.modCtx c fun x => x.setX d (alu op (x.getX a) (x.getX b))) s

/-- `op xd, xa, #imm`. -/
def aluLit (op : AluOp) (d a : XReg) (imm : BitVec 8) (w : CtlP2) (s : State) : Out :=
  runCmd w (atIssue w 2 fun s c => s.modCtx c fun x => x.setX d (alu op (x.getX a) (aluImm op imm))) s

/-- A conditional branch to the literal (R276). -/
def branchIf (t : Word64 → Word64 → Bool) (a b : XReg) (w : CtlP2) (lit : Parcel) (s : State) : Out :=
  runCmd w {
  act := fun s c _ =>
    let x := s.ctx c
    if t (x.getX a) (x.getX b) = true then .next (s.branch c w lit.toNat) else .next (s.finish c w 3) } s

/-- CTL_ADD (R274). -/
def execCtlAdd (d a b : XReg) (w : CtlP2) (s : State) : Out := aluReg .add d a b w s

/-- CTL_ADD_IMM (R274). -/
def execCtlAddImm (d a : XReg) (imm : BitVec 8) (w : CtlP2) (s : State) : Out :=
  aluLit .add d a imm w s

/-- CTL_SUB (R274). -/
def execCtlSub (d a b : XReg) (w : CtlP2) (s : State) : Out := aluReg .sub d a b w s

/-- CTL_SUB_IMM (R274). -/
def execCtlSubImm (d a : XReg) (imm : BitVec 8) (w : CtlP2) (s : State) : Out :=
  aluLit .sub d a imm w s

/-- CTL_AND (R274). -/
def execCtlAnd (d a b : XReg) (w : CtlP2) (s : State) : Out := aluReg .and d a b w s

/-- CTL_AND_IMM (R274). -/
def execCtlAndImm (d a : XReg) (imm : BitVec 8) (w : CtlP2) (s : State) : Out :=
  aluLit .and d a imm w s

/-- CTL_OR (R274). -/
def execCtlOr (d a b : XReg) (w : CtlP2) (s : State) : Out := aluReg .or d a b w s

/-- CTL_OR_IMM (R274). -/
def execCtlOrImm (d a : XReg) (imm : BitVec 8) (w : CtlP2) (s : State) : Out :=
  aluLit .or d a imm w s

/-- CTL_XOR (R274). -/
def execCtlXor (d a b : XReg) (w : CtlP2) (s : State) : Out := aluReg .xor d a b w s

/-- CTL_XOR_IMM (R274). -/
def execCtlXorImm (d a : XReg) (imm : BitVec 8) (w : CtlP2) (s : State) : Out :=
  aluLit .xor d a imm w s

/-- CTL_SHL (R274). -/
def execCtlShl (d a b : XReg) (w : CtlP2) (s : State) : Out := aluReg .shl d a b w s

/-- CTL_SHL_IMM (R274). -/
def execCtlShlImm (d a : XReg) (imm : BitVec 8) (w : CtlP2) (s : State) : Out :=
  aluLit .shl d a imm w s

/-- CTL_SHR (R274). -/
def execCtlShr (d a b : XReg) (w : CtlP2) (s : State) : Out := aluReg .shr d a b w s

/-- CTL_SHR_IMM (R274). -/
def execCtlShrImm (d a : XReg) (imm : BitVec 8) (w : CtlP2) (s : State) : Out :=
  aluLit .shr d a imm w s

/-- CTL_SAR (R274). -/
def execCtlSar (d a b : XReg) (w : CtlP2) (s : State) : Out := aluReg .sar d a b w s

/-- CTL_SAR_IMM (R274). -/
def execCtlSarImm (d a : XReg) (imm : BitVec 8) (w : CtlP2) (s : State) : Out :=
  aluLit .sar d a imm w s

/-- CTL_MUL (R274). -/
def execCtlMul (d a b : XReg) (w : CtlP2) (s : State) : Out := aluReg .mul d a b w s

/-- CTL_MUL_IMM (R274). -/
def execCtlMulImm (d a : XReg) (imm : BitVec 8) (w : CtlP2) (s : State) : Out :=
  aluLit .mul d a imm w s

/-- CTL_MIN (R274). -/
def execCtlMin (d a b : XReg) (w : CtlP2) (s : State) : Out := aluReg .min d a b w s

/-- CTL_MIN_IMM (R274). -/
def execCtlMinImm (d a : XReg) (imm : BitVec 8) (w : CtlP2) (s : State) : Out :=
  aluLit .min d a imm w s

/-- CTL_MAX (R274). -/
def execCtlMax (d a b : XReg) (w : CtlP2) (s : State) : Out := aluReg .max d a b w s

/-- CTL_MAX_IMM (R274). -/
def execCtlMaxImm (d a : XReg) (imm : BitVec 8) (w : CtlP2) (s : State) : Out :=
  aluLit .max d a imm w s

/-- BEQ (R276). -/
def execBeq (a b : XReg) (w : CtlP2) (lit : Parcel) (s : State) : Out :=
  branchIf (fun a b => a == b) a b w lit s

/-- BNE (R276). -/
def execBne (a b : XReg) (w : CtlP2) (lit : Parcel) (s : State) : Out :=
  branchIf (fun a b => a != b) a b w lit s

/-- BLT (R276). -/
def execBlt (a b : XReg) (w : CtlP2) (lit : Parcel) (s : State) : Out :=
  branchIf (fun a b => a.slt b) a b w lit s

/-- BGE (R276). -/
def execBge (a b : XReg) (w : CtlP2) (lit : Parcel) (s : State) : Out :=
  branchIf (fun a b => !a.slt b) a b w lit s

/-- BLTU (R276). -/
def execBltu (a b : XReg) (w : CtlP2) (lit : Parcel) (s : State) : Out :=
  branchIf (fun a b => a.ult b) a b w lit s

/-- BGEU (R276). -/
def execBgeu (a b : XReg) (w : CtlP2) (lit : Parcel) (s : State) : Out :=
  branchIf (fun a b => !a.ult b) a b w lit s

/-- LI: the literal, sign-extended (R275). -/
def execLi (d : XReg) (w : CtlP2) (lit : Parcel) (s : State) : Out :=
  runCmd w (atIssue w 3 fun s c => s.modCtx c fun x => x.setX d (lit.signExtend 64)) s

/-- LI with HIGH: the literal into bits 63 to 32 (R275). -/
def execLiHigh (d : XReg) (w : CtlP2) (lit : Parcel) (s : State) : Out :=
  runCmd w (atIssue w 3 fun s c => s.modCtx c fun x =>
    x.setX d (BitVec.ofNat 64 (lit.toNat * 2 ^ 32 + fld (x.getX d) 0 32))) s

/-- B (R276). -/
def execB (w : CtlP2) (lit : Parcel) (s : State) : Out :=
  runCmd w { act := fun s c _ => .next (s.branch c w lit.toNat) } s

/-- CALL: XD is the offset of the command after it (R276). -/
def execCall (d : XReg) (w : CtlP2) (lit : Parcel) (s : State) : Out :=
  runCmd w {
  act := fun s c _ =>
    let x := s.ctx c
    .next ((s.setCtx c (x.setX d (BitVec.ofNat 64 (x.pc + 3)))).branch c w lit.toNat) } s

/-- RET (R276). -/
def execRet (a : XReg) (w : CtlP2) (s : State) : Out :=
  runCmd w {
    check := fun s c => trapUnless (fld ((s.ctx c).getX a) 32 32 = 0)
    act := fun s c _ => .next (s.branch c w (fld ((s.ctx c).getX a) 0 32)) } s

/-- The first parcel of a controller LPAD with a label (R196, R276). -/
def ctlLpadParcel (label : Nat) : Parcel := BitVec.ofNat 32 (2 ^ 30 + 5 * 2 ^ 24 + 4 * 2 ^ 20 + label % 1024)

/-- The parcel at an offset of the controller code. -/
def parcelAt (x : Ctx) (o : Nat) : Parcel := x.code.getD o 0xFFFFFFFF

/-- JTAB: an indexed jump through a table in the controller code (R196, R276).  The reserved bits [31:10] of an entry say
nothing, whatever they hold: the model's choice (log entry 80). -/
def execCtlJtab (a b : XReg) (imm : BitVec 8) (w : CtlP2) (s : State) : Out :=
  runCmd w {
    check := fun s c =>
      let x := s.ctx c
      let i := signedOf 64 (x.getX a).toNat
      let base := (x.getX b).toNat
      if base % 2 ≠ 0 then some causeUnassigned
      else if i < 0 ∨ i ≥ imm.toNat then some causeBound
      else
        let e := base + 2 * i.toNat
        trapUnless (parcelAt x (parcelAt x (e + 1)).toNat = ctlLpadParcel (fld (parcelAt x e) 0 10)) causeLpad
    act := fun s c _ =>
      let x := s.ctx c
      let e := (x.getX b).toNat + 2 * (signedOf 64 (x.getX a).toNat).toNat
      .next (s.branch c w (parcelAt x (e + 1)).toNat) } s

/-- LPAD: no effect (R276). -/
def execCtlLpad (label : BitVec 10) (w : CtlP2) (s : State) : Out :=
  runCmd w (atIssue w 2 fun s _ => s) s

/-- NOP #0: nothing (R273). -/
def execCtlNop (w : CtlP2) (s : State) : Out := runCmd w (atIssue w 2 fun s _ => s) s

/-- NOP #1: an event wait, which consumes one start (R273). -/
def execCtlNopEventWait (w : CtlP2) (s : State) : Out :=
  runCmd w { cond := fun _ _ => .start, act := fun s c _ => .next (s.finish c w 2) } s

end Sys2Proof.Machine
end

