-- ==== Sys2Proof/Machine/Start.lean ====
section
/-! DEFINITION. Starts, cold and warm: the eight steps, what they clear and keep, and what a failing step does (R9, R32,
R36, R382 to R387, R410, R443, R445, R451, R452, R454, R455). -/

namespace Sys2Proof.Machine

/-! ### What a start keeps (R9, R382, R387, R410, R445, R452) -/

/-- The bits of a register's instance that are retained over a warm start. -/
def retained (num inst : Nat) (links : Bool) : Word64 :=
  match num with
  | 0x51 | 0x53 | 0x55 | 0x65 => 0xFFFFFFFFFFFFFFFF
  | 0x6B => 0x10
  | 0x6C => if links ∧ 3 ≤ inst then 0x801F00000000FFFF else 0xFFFF
  | _ => 0

/-- The registers after a start: what is retained over a warm one; every other field at its reset value. -/
def State.keptRegs (s : State) (cold links : Bool) : Tbl Word64 :=
  if cold then []
  else (s.regs.map fun p => (p.1, p.2 &&& retained (p.1 / 4096 % 256) (p.1 % 4096) links)).filter fun p => p.2 != 0

/-- An address is not this package's to scrub: HOST memory, and the HBM4E of peers (R126, R383). -/
def keptByte (pa : Nat) : Bool := !paHbm pa && !paFar pa

/-- Step 8 of a start ran on a die (R455). -/
def State.testedNow (s : State) (die : Nat) : Bool := (s.die die).up && !(s.die die).noTiles

/-- Self-test's fence bits once step 8 has run where it runs: a bit that a write has asked to clear goes there, unless the test
sets it again (R410). -/
def State.passedFence (s : State) : Tbl Nat :=
  (s.testFence.map fun p =>
    if s.testedNow (ptDie p.1) then (p.1, (BitVec.ofNat 13 (p.2 % 8192) &&& ~~~(BitVec.ofNat 13 (p.2 / 8192))).toNat)
    else p).filter fun p => p.2 != 0

/-- Everything that a start clears, cleared (R383): `keep` keeps memory, `links` keeps trained links. -/
def State.scrubbed (s : State) (cold keep links : Bool) : State :=
  { State.reset with
    mem := if keep then s.mem else s.mem.filter fun c => keptByte c.1
    memPoison := if keep then s.memPoison else s.memPoison.filter fun g => keptByte (48 * g)
    written := if keep then s.written else [], nextImage := s.nextImage
    regs := s.keptRegs cold links
    testFence := if cold then [] else s.testFence
    msix := s.msix ++ (if cold || !s.hostUp then [] else
      ((s.ports.filter fun p => p.2.lstat ≠ (0 : Word64)).map fun p => (p.1, 0)))
    nextLaunch := s.nextLaunch, nextColl := s.nextColl, nextQop := s.nextQop
    hostUp := s.hostUp, retMem := !cold && s.retMem, retLink := !cold && s.retLink
    upset := s.upset, sched := s.sched, rr := s.rr, freeCtr := s.freeCtr }

/-! ### The outcome of a die's start (R454, R455) -/

/-! ### Firmware images (R384) -/

/-- KIND of a firmware image. -/
def fwKind (im : List Byte) : Nat := bfield im 6 2
/-- The body of a firmware image, LENGTH bytes after the header. -/
def fwBody (im : List Byte) : List Byte := (im.drop 256).take (bfield im 8 8)
/-- DIGEST of a firmware image. -/
def fwDigest (im : List Byte) : List Byte := (im.drop 16).take 64
/-- PUBKEY of a firmware image. -/
def fwKey (im : List Byte) : List Byte := (im.drop 144).take 32

/-- A firmware image is accepted: a whole image of version 1, whose key has the fused hash, whose digest is that of its body,
and whose signature of the digest verifies (R384). -/
def fwOk (keyHash im : List Byte) : Bool :=
  decide (bfield im 0 4 = 0x31574643 ∧ bfield im 4 2 = 1 ∧ 256 + bfield im 8 8 ≤ im.length) &&
  sha512 (fwKey im) == keyHash && fwDigest im == sha512 (fwBody im) &&
  edVerify (fwKey im) (fwDigest im) ((im.drop 80).take 64)

/-- The image of a KIND that a die finds. -/
def imageOf (o : StartObs) (die k : Nat) : Option (List Byte) :=
  (o.images.find? fun p => p.1 == die && fwKind p.2 == k).map (·.2)

/-- The kinds whose images a die refuses (R384, R454). -/
def refusedKinds (o : StartObs) (die : Nat) : List Nat :=
  (List.range 3).filter fun k => !(match imageOf o die k with | some im => fwOk o.keyHash im | none => false)

/-- The digests of a die's images, by kind. -/
def imageDigests (o : StartObs) (die : Nat) : List (List Byte) :=
  (List.range 3).map fun k => (imageOf o die k).elim [] fwDigest

/-- What a die finds in a list. -/
def foundAt (l : List (Nat × Nat)) (die : Nat) : List Nat := (l.filter fun p => p.1 == die).map (·.2)

/-- How a die's start goes. -/
structure DieStart where
  /-- The steps that failed. -/
  steps  : List Nat
  /-- It stops: step 1, 2 or 3, or its supervisor's image. -/
  stops  : Bool
  offs : List Nat
  kinds  : List Nat
  links  : List Nat
  deriving DecidableEq, Repr

/-- The steps that a start runs (R383). -/
def runsStep (cold keep links : Bool) (k : Nat) : Bool :=
  decide (1 ≤ k ∧ k ≤ 8) && (k != 4 || cold) && (k != 5 || !keep) && (k != 7 || !links)

/-- The start of a die, from what it finds: a step after the one that stops the die is not run, nor is step 8 without its
image (R454, R455). -/
def dieStart (o : StartObs) (cold keep links : Bool) (die : Nat) : DieStart :=
  let early := (foundAt o.failStep die).filter fun k => decide (1 ≤ k ∧ k ≤ 3)
  let last0 := early.foldl Nat.min 9
  let kinds := if last0 < 9 then [] else refusedKinds o die
  let last := if last0 < 9 then last0 else if kinds.contains 0 then 6 else 8
  let ran (k : Nat) : Bool := runsStep cold keep links k && decide (k ≤ last) && (k != 8 || !kinds.contains 2)
  let offs := if ran 4 || ran 5 then (foundAt o.hbmFail die).filter fun k => decide (k < 2) else []
  let ls := if ran 7 then foundAt o.linkFail die else []
  let fails (k : Nat) : Bool := match k with
    | 4 => offs ≠ [] && !(foundAt o.failStep die).contains 5
    | 5 => offs ≠ [] && (!cold || (foundAt o.failStep die).contains 5)
    | 6 => kinds ≠ []
    | 7 => ls ≠ []
    | 8 => o.fence.any fun p => ptDie p.1 == die
    | _ => early.contains k
  { steps := ((List.range 9).filter fun k => ran k && fails k), stops := decide (last < 8), offs := offs, kinds := kinds
    links := ls }

/-- STARTSTAT (R454). -/
def DieStart.stat (d : DieStart) : Word64 :=
  let bits (l : List Nat) : Nat := l.dedup.foldl (fun a k => a + 2 ^ k) 0
  BitVec.ofNat 64 (2 ^ 15 + d.steps.headD 0 * 2 ^ 11 + bits d.kinds * 2 ^ 8 + bits d.offs)

/-- MEAS extended by the digests of the images that a die accepts, in KIND order (R384, R386). -/
def measure (digests : List (List Byte)) (refused : List Nat) : List Byte :=
  (List.range 3).foldl (fun m k =>
    if refused.contains k ∨ (refused.contains 0 ∧ 0 < k) then m
    else match digests[k]? with | some d => sha512 (m ++ d) | none => m) (List.replicate 64 0)

/-- MEAS of a die set, eight bytes to an instance, the first in the lowest (R4, R387). -/
def State.setMeas (s : State) (die : Nat) (m : List Byte) : State :=
  (List.range 8).foldl (fun s k => s.setReg die 0x5D k (BitVec.ofNat 64 (bfield m (8 * k) 8))) s

/-- The ports of a die are trained (R383 step 7, R445): the die-to-die ports at every start, the others unless kept; a die that
stops has none in service (R455). -/
def State.trainLinks (s : State) (die : Nat) (keep : Bool) (down : List Nat) (stops : Bool) : State :=
  ((List.range (regCount die 0x6C)).filter fun i => !keep || stops || decide (i < 3)).foldl
    (fun s i => s.setPort die i (!down.contains i && !stops)) s

/-- A ring link carries traffic only while both of its ports do (R15). -/
def State.joinRings (s : State) : State :=
  ((List.range 8).flatMap fun d => [(d, 0), (d, 1)]).foldl (fun t p =>
    if s.linkUp p.1 p.2 then t
    else match facing p.1 p.2 with | some (d, i) => t.setPort d i false | none => t) s

/-- The system context runs the self-test and housekeeping region on tile 0.0.0 (R36; log entry 28). -/
def State.startSystem (s : State) (code : List Parcel) : State :=
  if (s.die 0).up ∧ !(s.die 0).noTiles then
    s.setCtx 0 { st := .running, code := code, width := 1, height := 1, place := ⟨0, 0, 0⟩, logicals := [0] }
  else s

/-- A die's start takes effect: its state, registers, records, links and supervisor. -/
def State.startDie (s : State) (o : StartObs) (cold keep links : Bool) (die : Nat) : State :=
  let d := dieStart o cold keep links die
  let s1 := s.setDie die
    { up := !d.stops, places := !d.stops && !d.kinds.contains 1, noTiles := d.kinds.contains 2, stackOff := d.offs }
  let s2 := (s1.setReg die 0x6D 0 d.stat).trainLinks die links d.links d.stops
  let s3 := if d.steps.any fun k => decide (k ≤ 3) then s2 else s2.setMeas die (measure (imageDigests o die) d.kinds)
  let s4 := d.steps.foldl (fun s k => s.errRecord die .global .uc 28 (0x37 + k) 0 0 0) s3
  let code := ((o.code.find? fun p => p.1 == die).map (·.2)).getD []
  if d.stops then s4 else s4.setCtx (supId die) { st := .running, code := code }

/-- Step 8 fences the tiles and blocks that fail, on the dies where it ran (R410, R455). -/
def State.startFence (s : State) (fence : List (Nat × Nat)) : State :=
  fence.foldl (fun s p => if s.testedNow (ptDie p.1) then s.fenceTile p.1 p.2 else s) { s with testFence := s.passedFence }

/-- A start (R32, R383, R452, R454, R455). -/
def State.start (s : State) (cold : Bool) (o : StartObs) : State :=
  let keep := !cold && s.retMem
  let links := !cold && s.retLink
  let s1 := s.scrubbed cold keep links
  let hostFails := o.linkFail.contains (0, 32)
  let s2 : State := { s1 with hostUp := (s.hostUp && !cold) || (!links && !hostFails) }
  let s3 := if s.shutdown then (List.range 8).foldl (fun s d => s.setReg d 0x6B 0 0x10) s2 else s2
  (((List.range 8).foldl (fun s d => s.startDie o cold keep links d) s3).joinRings.startSystem o.selfCode).startFence o.fence

/-- COLD_START: a fundamental reset runs the steps cold (R382, R383). -/
def execColdStart (o : StartObs) (s : State) : Out := .next (s.start true o)

/-- RSTCTL_WARM: a write of RSTCTL by the host sets RETMEM and RETLINK, and with WARM starts warm; after a shutdown the next
start is cold (R382, R453). -/
def execRstctlWarm (v : Word64) (o : StartObs) (s : State) : Out :=
  if !s.hostUp ∨ s.shutdown then stall s
  else
    let s1 : State := { s with retMem := bit v 1, retLink := bit v 2 }
    .next (if bit v 0 then s1.start false o else s1)

/-- FUNCTION_LEVEL_RESET: of a virtual function; that of the physical function is a warm start with RETMEM and RETLINK as
set (R382, R451). -/
def execFunctionLevelReset (r : FlrOf) (s : State) : Out :=
  match r with
  | .virtual fn => if fn = 0 ∨ 17 ≤ fn then stall s else .next (s.resetFunction fn)
  | .physical o => if s.shutdown then stall s else .next (s.start false o)

end Sys2Proof.Machine
end

