-- ==== Sys2Proof/Machine/Dispatch.lean ====
section
/-! DEFINITION. One arm per row of the opcode table: the instruction's meaning, one direct call each. -/

namespace Sys2Proof.Machine

open Sys2Proof

/-- What an instruction does. -/
def exec (i : Instr) (s : State) : Host.Outcome State Fault Refusal :=
  match i with
  | .nop => Sys2Proof.Machine.execNop s
  | .nop2P m => Sys2Proof.Machine.execNop2P m s
  | .halt => Sys2Proof.Machine.execHalt s
  | .halt2P m => Sys2Proof.Machine.execHalt2P m s
  | .add d a b => Sys2Proof.Machine.execAdd d a b s
  | .add2P d a b m => Sys2Proof.Machine.execAdd2P d a b m s
  | .sub d a b => Sys2Proof.Machine.execSub d a b s
  | .sub2P d a b m => Sys2Proof.Machine.execSub2P d a b m s
  | .adds d a b => Sys2Proof.Machine.execAdds d a b s
  | .adds2P d a b m => Sys2Proof.Machine.execAdds2P d a b m s
  | .subs d a b => Sys2Proof.Machine.execSubs d a b s
  | .subs2P d a b m => Sys2Proof.Machine.execSubs2P d a b m s
  | .neg d a => Sys2Proof.Machine.execNeg d a s
  | .neg2P d a m => Sys2Proof.Machine.execNeg2P d a m s
  | .abs d a => Sys2Proof.Machine.execAbs d a s
  | .abs2P d a m => Sys2Proof.Machine.execAbs2P d a m s
  | .min d a b => Sys2Proof.Machine.execMin d a b s
  | .min2P d a b m => Sys2Proof.Machine.execMin2P d a b m s
  | .max d a b => Sys2Proof.Machine.execMax d a b s
  | .max2P d a b m => Sys2Proof.Machine.execMax2P d a b m s
  | .minu d a b => Sys2Proof.Machine.execMinu d a b s
  | .minu2P d a b m => Sys2Proof.Machine.execMinu2P d a b m s
  | .maxu d a b => Sys2Proof.Machine.execMaxu d a b s
  | .maxu2P d a b m => Sys2Proof.Machine.execMaxu2P d a b m s
  | .mul d a b => Sys2Proof.Machine.execMul d a b s
  | .mul2P d a b m => Sys2Proof.Machine.execMul2P d a b m s
  | .mulh d a b => Sys2Proof.Machine.execMulh d a b s
  | .mulh2P d a b m => Sys2Proof.Machine.execMulh2P d a b m s
  | .mulhu d a b => Sys2Proof.Machine.execMulhu d a b s
  | .mulhu2P d a b m => Sys2Proof.Machine.execMulhu2P d a b m s
  | .mad d a b c => Sys2Proof.Machine.execMad d a b c s
  | .mad2P d a b c m => Sys2Proof.Machine.execMad2P d a b c m s
  | .dot4 d a b c => Sys2Proof.Machine.execDot4 d a b c s
  | .dot42P d a b c m => Sys2Proof.Machine.execDot42P d a b c m s
  | .and d a b => Sys2Proof.Machine.execAnd d a b s
  | .and2P d a b m => Sys2Proof.Machine.execAnd2P d a b m s
  | .or d a b => Sys2Proof.Machine.execOr d a b s
  | .or2P d a b m => Sys2Proof.Machine.execOr2P d a b m s
  | .xor d a b => Sys2Proof.Machine.execXor d a b s
  | .xor2P d a b m => Sys2Proof.Machine.execXor2P d a b m s
  | .not d a => Sys2Proof.Machine.execNot d a s
  | .not2P d a m => Sys2Proof.Machine.execNot2P d a m s
  | .andn d a b => Sys2Proof.Machine.execAndn d a b s
  | .andn2P d a b m => Sys2Proof.Machine.execAndn2P d a b m s
  | .shl d a b => Sys2Proof.Machine.execShl d a b s
  | .shl2P d a b m => Sys2Proof.Machine.execShl2P d a b m s
  | .shr d a b => Sys2Proof.Machine.execShr d a b s
  | .shr2P d a b m => Sys2Proof.Machine.execShr2P d a b m s
  | .sar d a b => Sys2Proof.Machine.execSar d a b s
  | .sar2P d a b m => Sys2Proof.Machine.execSar2P d a b m s
  | .rol d a b => Sys2Proof.Machine.execRol d a b s
  | .rol2P d a b m => Sys2Proof.Machine.execRol2P d a b m s
  | .clz d a => Sys2Proof.Machine.execClz d a s
  | .clz2P d a m => Sys2Proof.Machine.execClz2P d a m s
  | .popc d a => Sys2Proof.Machine.execPopc d a s
  | .popc2P d a m => Sys2Proof.Machine.execPopc2P d a m s
  | .cmpEq d a b => Sys2Proof.Machine.execCmpEq d a b s
  | .cmpEq2P d a b m => Sys2Proof.Machine.execCmpEq2P d a b m s
  | .cmpNe d a b => Sys2Proof.Machine.execCmpNe d a b s
  | .cmpNe2P d a b m => Sys2Proof.Machine.execCmpNe2P d a b m s
  | .cmpLt d a b => Sys2Proof.Machine.execCmpLt d a b s
  | .cmpLt2P d a b m => Sys2Proof.Machine.execCmpLt2P d a b m s
  | .cmpLe d a b => Sys2Proof.Machine.execCmpLe d a b s
  | .cmpLe2P d a b m => Sys2Proof.Machine.execCmpLe2P d a b m s
  | .cmpLtu d a b => Sys2Proof.Machine.execCmpLtu d a b s
  | .cmpLtu2P d a b m => Sys2Proof.Machine.execCmpLtu2P d a b m s
  | .cmpLeu d a b => Sys2Proof.Machine.execCmpLeu d a b s
  | .cmpLeu2P d a b m => Sys2Proof.Machine.execCmpLeu2P d a b m s
  | .sel d a b c => Sys2Proof.Machine.execSel d a b c s
  | .sel2P d a b c m => Sys2Proof.Machine.execSel2P d a b c m s
  | .sela d a b c => Sys2Proof.Machine.execSela d a b c s
  | .sela2P d a b c m => Sys2Proof.Machine.execSela2P d a b c m s
  | .fadd d a b => Sys2Proof.Machine.execFadd d a b s
  | .fadd2P d a b m => Sys2Proof.Machine.execFadd2P d a b m s
  | .fsub d a b => Sys2Proof.Machine.execFsub d a b s
  | .fsub2P d a b m => Sys2Proof.Machine.execFsub2P d a b m s
  | .fmul d a b => Sys2Proof.Machine.execFmul d a b s
  | .fmul2P d a b m => Sys2Proof.Machine.execFmul2P d a b m s
  | .ffma d a b c => Sys2Proof.Machine.execFfma d a b c s
  | .ffma2P d a b c m => Sys2Proof.Machine.execFfma2P d a b c m s
  | .ffms d a b c => Sys2Proof.Machine.execFfms d a b c s
  | .ffms2P d a b c m => Sys2Proof.Machine.execFfms2P d a b c m s
  | .fnma d a b c => Sys2Proof.Machine.execFnma d a b c s
  | .fnma2P d a b c m => Sys2Proof.Machine.execFnma2P d a b c m s
  | .fmin d a b => Sys2Proof.Machine.execFmin d a b s
  | .fmin2P d a b m => Sys2Proof.Machine.execFmin2P d a b m s
  | .fmax d a b => Sys2Proof.Machine.execFmax d a b s
  | .fmax2P d a b m => Sys2Proof.Machine.execFmax2P d a b m s
  | .fminp d a b => Sys2Proof.Machine.execFminp d a b s
  | .fminp2P d a b m => Sys2Proof.Machine.execFminp2P d a b m s
  | .fmaxp d a b => Sys2Proof.Machine.execFmaxp d a b s
  | .fmaxp2P d a b m => Sys2Proof.Machine.execFmaxp2P d a b m s
  | .fneg d a => Sys2Proof.Machine.execFneg d a s
  | .fneg2P d a m => Sys2Proof.Machine.execFneg2P d a m s
  | .fabs d a => Sys2Proof.Machine.execFabs d a s
  | .fabs2P d a m => Sys2Proof.Machine.execFabs2P d a m s
  | .fcps d a b => Sys2Proof.Machine.execFcps d a b s
  | .fcps2P d a b m => Sys2Proof.Machine.execFcps2P d a b m s
  | .fcmpEq d a b => Sys2Proof.Machine.execFcmpEq d a b s
  | .fcmpEq2P d a b m => Sys2Proof.Machine.execFcmpEq2P d a b m s
  | .fcmpNe d a b => Sys2Proof.Machine.execFcmpNe d a b s
  | .fcmpNe2P d a b m => Sys2Proof.Machine.execFcmpNe2P d a b m s
  | .fcmpLt d a b => Sys2Proof.Machine.execFcmpLt d a b s
  | .fcmpLt2P d a b m => Sys2Proof.Machine.execFcmpLt2P d a b m s
  | .fcmpLe d a b => Sys2Proof.Machine.execFcmpLe d a b s
  | .fcmpLe2P d a b m => Sys2Proof.Machine.execFcmpLe2P d a b m s
  | .fcmpUn d a b => Sys2Proof.Machine.execFcmpUn d a b s
  | .fcmpUn2P d a b m => Sys2Proof.Machine.execFcmpUn2P d a b m s
  | .frcp d a => Sys2Proof.Machine.execFrcp d a s
  | .frcp2P d a m => Sys2Proof.Machine.execFrcp2P d a m s
  | .frsq d a => Sys2Proof.Machine.execFrsq d a s
  | .frsq2P d a m => Sys2Proof.Machine.execFrsq2P d a m s
  | .fsqrt d a => Sys2Proof.Machine.execFsqrt d a s
  | .fsqrt2P d a m => Sys2Proof.Machine.execFsqrt2P d a m s
  | .flog2 d a => Sys2Proof.Machine.execFlog2 d a s
  | .flog22P d a m => Sys2Proof.Machine.execFlog22P d a m s
  | .fexp2 d a => Sys2Proof.Machine.execFexp2 d a s
  | .fexp22P d a m => Sys2Proof.Machine.execFexp22P d a m s
  | .ftanh d a => Sys2Proof.Machine.execFtanh d a s
  | .ftanh2P d a m => Sys2Proof.Machine.execFtanh2P d a m s
  | .fsigm d a => Sys2Proof.Machine.execFsigm d a s
  | .fsigm2P d a m => Sys2Proof.Machine.execFsigm2P d a m s
  | .cvt d a b c m => Sys2Proof.Machine.execCvt d a b c m s
  | .qnt d a b c m => Sys2Proof.Machine.execQnt d a b c m s
  | .dqn d a b m => Sys2Proof.Machine.execDqn d a b m s
  | .rnsf d a b c => Sys2Proof.Machine.execRnsf d a b c s
  | .rnsf2P d a b c m => Sys2Proof.Machine.execRnsf2P d a b c m s
  | .rnsb d a => Sys2Proof.Machine.execRnsb d a s
  | .rnsb2P d a m => Sys2Proof.Machine.execRnsb2P d a m s
  | .scale d a b => Sys2Proof.Machine.execScale d a b s
  | .scale2P d a b m => Sys2Proof.Machine.execScale2P d a b m s
  | .pres d a => Sys2Proof.Machine.execPres d a s
  | .pres2P d a m => Sys2Proof.Machine.execPres2P d a m s
  | .fill d a b => Sys2Proof.Machine.execFill d a b s
  | .fill2P d a b m => Sys2Proof.Machine.execFill2P d a b m s
  | .mkab d a b => Sys2Proof.Machine.execMkab d a b s
  | .mkab2P d a b m => Sys2Proof.Machine.execMkab2P d a b m s
  | .cntp d a b => Sys2Proof.Machine.execCntp d a b s
  | .cntp2P d a b m => Sys2Proof.Machine.execCntp2P d a b m s
  | .rand d => Sys2Proof.Machine.execRand d s
  | .rand2P d m => Sys2Proof.Machine.execRand2P d m s
  | .gumb d a b c => Sys2Proof.Machine.execGumb d a b c s
  | .gumb2P d a b c m => Sys2Proof.Machine.execGumb2P d a b c m s
  | .ldi d => Sys2Proof.Machine.execLdi d s
  | .ldi2P d m => Sys2Proof.Machine.execLdi2P d m s
  | .ldi3P d m lit => Sys2Proof.Machine.execLdi3P d m lit s
  | .movs d a => Sys2Proof.Machine.execMovs d a s
  | .movs2P d a m => Sys2Proof.Machine.execMovs2P d a m s
  | .incs d a => Sys2Proof.Machine.execIncs d a s
  | .incs2P d a m => Sys2Proof.Machine.execIncs2P d a m s
  | .move d a => Sys2Proof.Machine.execMove d a s
  | .move2P d a m => Sys2Proof.Machine.execMove2P d a m s
  | .drop a => Sys2Proof.Machine.execDrop a s
  | .drop2P a m => Sys2Proof.Machine.execDrop2P a m s
  | .merge d a b => Sys2Proof.Machine.execMerge d a b s
  | .merge2P d a b m => Sys2Proof.Machine.execMerge2P d a b m s
  | .steer d a => Sys2Proof.Machine.execSteer d a s
  | .steer2P d a m => Sys2Proof.Machine.execSteer2P d a m s
  | .gate d a => Sys2Proof.Machine.execGate d a s
  | .gate2P d a m => Sys2Proof.Machine.execGate2P d a m s
  | .swz d a b c => Sys2Proof.Machine.execSwz d a b c s
  | .swz2P d a b c m => Sys2Proof.Machine.execSwz2P d a b c m s
  | .pack d a b => Sys2Proof.Machine.execPack d a b s
  | .pack2P d a b m => Sys2Proof.Machine.execPack2P d a b m s
  | .unpk d a b => Sys2Proof.Machine.execUnpk d a b s
  | .unpk2P d a b m => Sys2Proof.Machine.execUnpk2P d a b m s
  | .bcast d a => Sys2Proof.Machine.execBcast d a s
  | .bcast2P d a m => Sys2Proof.Machine.execBcast2P d a m s
  | .rept d a m => Sys2Proof.Machine.execRept d a m s
  | .reptc d a b => Sys2Proof.Machine.execReptc d a b s
  | .reptc2P d a b m => Sys2Proof.Machine.execReptc2P d a b m s
  | .isect d a b => Sys2Proof.Machine.execIsect d a b s
  | .isect2P d a b m => Sys2Proof.Machine.execIsect2P d a b m s
  | .union d a b => Sys2Proof.Machine.execUnion d a b s
  | .union2P d a b m => Sys2Proof.Machine.execUnion2P d a b m s
  | .tagc d a b => Sys2Proof.Machine.execTagc d a b s
  | .tagc2P d a b m => Sys2Proof.Machine.execTagc2P d a b m s
  | .untag d a => Sys2Proof.Machine.execUntag d a s
  | .untag2P d a m => Sys2Proof.Machine.execUntag2P d a m s
  | .redadd d a b => Sys2Proof.Machine.execRedadd d a b s
  | .redadd2P d a b m => Sys2Proof.Machine.execRedadd2P d a b m s
  | .redmax d a b => Sys2Proof.Machine.execRedmax d a b s
  | .redmax2P d a b m => Sys2Proof.Machine.execRedmax2P d a b m s
  | .redmin d a b => Sys2Proof.Machine.execRedmin d a b s
  | .redmin2P d a b m => Sys2Proof.Machine.execRedmin2P d a b m s
  | .argmax d a b => Sys2Proof.Machine.execArgmax d a b s
  | .argmax2P d a b m => Sys2Proof.Machine.execArgmax2P d a b m s
  | .argmin d a b => Sys2Proof.Machine.execArgmin d a b s
  | .argmin2P d a b m => Sys2Proof.Machine.execArgmin2P d a b m s
  | .scanx d a b => Sys2Proof.Machine.execScanx d a b s
  | .scanx2P d a b m => Sys2Proof.Machine.execScanx2P d a b m s
  | .drain d => Sys2Proof.Machine.execDrain d s
  | .drain2P d m => Sys2Proof.Machine.execDrain2P d m s
  | .eose d => Sys2Proof.Machine.execEose d s
  | .eose2P d m => Sys2Proof.Machine.execEose2P d m s
  | .bare d a => Sys2Proof.Machine.execBare d a s
  | .bare2P d a m => Sys2Proof.Machine.execBare2P d a m s
  | .oneos d a => Sys2Proof.Machine.execOneos d a s
  | .oneos2P d a m => Sys2Proof.Machine.execOneos2P d a m s
  | .br => Sys2Proof.Machine.execBr s
  | .br2P m => Sys2Proof.Machine.execBr2P m s
  | .brf => Sys2Proof.Machine.execBrf s
  | .brf2P m => Sys2Proof.Machine.execBrf2P m s
  | .jmp => Sys2Proof.Machine.execJmp s
  | .jmp2P m => Sys2Proof.Machine.execJmp2P m s
  | .jtab a m => Sys2Proof.Machine.execJtab a m s
  | .lpad label => Sys2Proof.Machine.execLpad label s
  | .waitq d => Sys2Proof.Machine.execWaitq d s
  | .waitq2P d m => Sys2Proof.Machine.execWaitq2P d m s
  | .emitq a => Sys2Proof.Machine.execEmitq a s
  | .emitq2P a m => Sys2Proof.Machine.execEmitq2P a m s
  | .loop d => Sys2Proof.Machine.execLoop d s
  | .loop2P d m => Sys2Proof.Machine.execLoop2P d m s
  | .mtok d a b m lit => Sys2Proof.Machine.execMtok d a b m lit s
  | .oclm d => Sys2Proof.Machine.execOclm d s
  | .oclm2P d m => Sys2Proof.Machine.execOclm2P d m s
  | .orel d a => Sys2Proof.Machine.execOrel d a s
  | .orel2P d a m => Sys2Proof.Machine.execOrel2P d a m s
  | .osta d a => Sys2Proof.Machine.execOsta d a s
  | .osta2P d a m => Sys2Proof.Machine.execOsta2P d a m s
  | .rotj d a => Sys2Proof.Machine.execRotj d a s
  | .rotj2P d a m => Sys2Proof.Machine.execRotj2P d a m s
  | .rotx a => Sys2Proof.Machine.execRotx a s
  | .rotx2P a m => Sys2Proof.Machine.execRotx2P a m s
  | .roth a => Sys2Proof.Machine.execRoth a s
  | .roth2P a m => Sys2Proof.Machine.execRoth2P a m s
  | .rotr a => Sys2Proof.Machine.execRotr a s
  | .rotr2P a m => Sys2Proof.Machine.execRotr2P a m s
  | .rotp d => Sys2Proof.Machine.execRotp d s
  | .rotp2P d m => Sys2Proof.Machine.execRotp2P d m s
  | .ld m => Sys2Proof.Machine.execLd m s
  | .st m => Sys2Proof.Machine.execSt m s
  | .gath m => Sys2Proof.Machine.execGath m s
  | .scat m => Sys2Proof.Machine.execScat m s
  | .atom m => Sys2Proof.Machine.execAtom m s
  | .ord m => Sys2Proof.Machine.execOrd m s
  | .fence m => Sys2Proof.Machine.execFence m s
  | .qld m => Sys2Proof.Machine.execQld m s
  | .qst m => Sys2Proof.Machine.execQst m s
  | .qstv m => Sys2Proof.Machine.execQstv m s
  | .bara m => Sys2Proof.Machine.execBara m s
  | .barw m => Sys2Proof.Machine.execBarw m s
  | .pref m => Sys2Proof.Machine.execPref m s
  | .pageWalkComplete k o => Sys2Proof.Machine.execPageWalkComplete k o s
  | .memoryRequestPerform t u r e o => Sys2Proof.Machine.execMemoryRequestPerform t u r e o s
  | .bankCooldownEnd stack bank => Sys2Proof.Machine.execBankCooldownEnd stack bank s
  | .muReplyDeliver t u => Sys2Proof.Machine.execMuReplyDeliver t u s
  | .ordFenceComplete t u => Sys2Proof.Machine.execOrdFenceComplete t u s
  | .barwComplete t u => Sys2Proof.Machine.execBarwComplete t u s
  | .quorumCopyWrite k => Sys2Proof.Machine.execQuorumCopyWrite k s
  | .quorumReply op copy => Sys2Proof.Machine.execQuorumReply op copy s
  | .quorumCopyTimeout op copy => Sys2Proof.Machine.execQuorumCopyTimeout op copy s
  | .farMemoryTimeout a u r e => Sys2Proof.Machine.execFarMemoryTimeout a u r e s
  | .patrolScrub pa o => Sys2Proof.Machine.execPatrolScrub pa o s
  | .mzero t => Sys2Proof.Machine.execMzero t s
  | .mmaBf16 t => Sys2Proof.Machine.execMmaBf16 t s
  | .mmaW4i t => Sys2Proof.Machine.execMmaW4i t s
  | .mmaW4f t => Sys2Proof.Machine.execMmaW4f t s
  | .mmaI8 t => Sys2Proof.Machine.execMmaI8 t s
  | .mmaI4 t => Sys2Proof.Machine.execMmaI4 t s
  | .mdrain t => Sys2Proof.Machine.execMdrain t s
  | .mdrainMean t => Sys2Proof.Machine.execMdrainMean t s
  | .mcount t => Sys2Proof.Machine.execMcount t s
  | .matrixRelease t => Sys2Proof.Machine.execMatrixRelease t s
  | .matrixEntryComplete t => Sys2Proof.Machine.execMatrixEntryComplete t s
  | .matrixDrainToken t => Sys2Proof.Machine.execMatrixDrainToken t s
  | .matrixMarkPass t => Sys2Proof.Machine.execMatrixMarkPass t s
  | .agTupleEmit t g => Sys2Proof.Machine.execAgTupleEmit t g s
  | .iterIndexIssue c => Sys2Proof.Machine.execIterIndexIssue c s
  | .iterEosSend c => Sys2Proof.Machine.execIterEosSend c s
  | .stealRequestHandle c => Sys2Proof.Machine.execStealRequestHandle c s
  | .splitApply c => Sys2Proof.Machine.execSplitApply c s
  | .bariInject c => Sys2Proof.Machine.execBariInject c s
  | .tokenArrive q => Sys2Proof.Machine.execTokenArrive q s
  | .switchHop t n => Sys2Proof.Machine.execSwitchHop t n s
  | .elasticBufferPass q => Sys2Proof.Machine.execElasticBufferPass q s
  | .bufferSlotReturn q => Sys2Proof.Machine.execBufferSlotReturn q s
  | .controlTokenArrive q => Sys2Proof.Machine.execControlTokenArrive q s
  | .rotRequestEnqueue c l => Sys2Proof.Machine.execRotRequestEnqueue c l s
  | .slotEntryMove c l => Sys2Proof.Machine.execSlotEntryMove c l s
  | .rotationArrival c l => Sys2Proof.Machine.execRotationArrival c l s
  | .detectorSample c => Sys2Proof.Machine.execDetectorSample c s
  | .eventStart cl out => Sys2Proof.Machine.execEventStart cl out s
  | .ctlNop w => Sys2Proof.Machine.execCtlNop w s
  | .ctlNopEventWait w => Sys2Proof.Machine.execCtlNopEventWait w s
  | .ctlHalt w => Sys2Proof.Machine.execCtlHalt w s
  | .endCmd w => Sys2Proof.Machine.execEndCmd w s
  | .ctlAdd d a b w => Sys2Proof.Machine.execCtlAdd d a b w s
  | .ctlSub d a b w => Sys2Proof.Machine.execCtlSub d a b w s
  | .ctlAnd d a b w => Sys2Proof.Machine.execCtlAnd d a b w s
  | .ctlOr d a b w => Sys2Proof.Machine.execCtlOr d a b w s
  | .ctlXor d a b w => Sys2Proof.Machine.execCtlXor d a b w s
  | .ctlShl d a b w => Sys2Proof.Machine.execCtlShl d a b w s
  | .ctlShr d a b w => Sys2Proof.Machine.execCtlShr d a b w s
  | .ctlSar d a b w => Sys2Proof.Machine.execCtlSar d a b w s
  | .ctlMul d a b w => Sys2Proof.Machine.execCtlMul d a b w s
  | .ctlMin d a b w => Sys2Proof.Machine.execCtlMin d a b w s
  | .ctlMax d a b w => Sys2Proof.Machine.execCtlMax d a b w s
  | .ctlAddImm d a imm w => Sys2Proof.Machine.execCtlAddImm d a imm w s
  | .ctlSubImm d a imm w => Sys2Proof.Machine.execCtlSubImm d a imm w s
  | .ctlAndImm d a imm w => Sys2Proof.Machine.execCtlAndImm d a imm w s
  | .ctlOrImm d a imm w => Sys2Proof.Machine.execCtlOrImm d a imm w s
  | .ctlXorImm d a imm w => Sys2Proof.Machine.execCtlXorImm d a imm w s
  | .ctlShlImm d a imm w => Sys2Proof.Machine.execCtlShlImm d a imm w s
  | .ctlShrImm d a imm w => Sys2Proof.Machine.execCtlShrImm d a imm w s
  | .ctlSarImm d a imm w => Sys2Proof.Machine.execCtlSarImm d a imm w s
  | .ctlMulImm d a imm w => Sys2Proof.Machine.execCtlMulImm d a imm w s
  | .ctlMinImm d a imm w => Sys2Proof.Machine.execCtlMinImm d a imm w s
  | .ctlMaxImm d a imm w => Sys2Proof.Machine.execCtlMaxImm d a imm w s
  | .li d w lit => Sys2Proof.Machine.execLi d w lit s
  | .liHigh d w lit => Sys2Proof.Machine.execLiHigh d w lit s
  | .beq a b w lit => Sys2Proof.Machine.execBeq a b w lit s
  | .bne a b w lit => Sys2Proof.Machine.execBne a b w lit s
  | .blt a b w lit => Sys2Proof.Machine.execBlt a b w lit s
  | .bge a b w lit => Sys2Proof.Machine.execBge a b w lit s
  | .bltu a b w lit => Sys2Proof.Machine.execBltu a b w lit s
  | .bgeu a b w lit => Sys2Proof.Machine.execBgeu a b w lit s
  | .b w lit => Sys2Proof.Machine.execB w lit s
  | .call d w lit => Sys2Proof.Machine.execCall d w lit s
  | .ret a w => Sys2Proof.Machine.execRet a w s
  | .ctlJtab a b imm w => Sys2Proof.Machine.execCtlJtab a b imm w s
  | .ctlLpad label w => Sys2Proof.Machine.execCtlLpad label w s
  | .cfg a w => Sys2Proof.Machine.execCfg a w s
  | .run a b w => Sys2Proof.Machine.execRun a b w s
  | .steal d a w => Sys2Proof.Machine.execSteal d a w s
  | .split d a w => Sys2Proof.Machine.execSplit d a w s
  | .iter d w => Sys2Proof.Machine.execIter d w s
  | .ctlDrain w => Sys2Proof.Machine.execCtlDrain w s
  | .fork d a b imm w => Sys2Proof.Machine.execFork d a b imm w s
  | .rdv d a w => Sys2Proof.Machine.execRdv d a w s
  | .evtc a b imm w => Sys2Proof.Machine.execEvtc a b imm w s
  | .semw d a imm w => Sys2Proof.Machine.execSemw d a imm w s
  | .sems a imm w => Sys2Proof.Machine.execSems a imm w s
  | .semset a imm w => Sys2Proof.Machine.execSemset a imm w s
  | .semrd d imm w => Sys2Proof.Machine.execSemrd d imm w s
  | .tlw a b imm w => Sys2Proof.Machine.execTlw a b imm w s
  | .tla imm w => Sys2Proof.Machine.execTla imm w s
  | .tlrd d b imm w => Sys2Proof.Machine.execTlrd d b imm w s
  | .bari d imm w => Sys2Proof.Machine.execBari d imm w s
  | .barga d imm w => Sys2Proof.Machine.execBarga d imm w s
  | .bargw a imm w => Sys2Proof.Machine.execBargw a imm w s
  | .copy d a imm w => Sys2Proof.Machine.execCopy d a imm w s
  | .copyg d a imm w => Sys2Proof.Machine.execCopyg d a imm w s
  | .copyf d a imm w => Sys2Proof.Machine.execCopyf d a imm w s
  | .prom a imm w => Sys2Proof.Machine.execProm a imm w s
  | .copyq d a imm w => Sys2Proof.Machine.execCopyq d a imm w s
  | .collAllred d a imm w => Sys2Proof.Machine.execCollAllred d a imm w s
  | .collAllgath d a imm w => Sys2Proof.Machine.execCollAllgath d a imm w s
  | .collRedscat d a imm w => Sys2Proof.Machine.execCollRedscat d a imm w s
  | .collBcast d a imm w => Sys2Proof.Machine.execCollBcast d a imm w s
  | .collScan d a imm w => Sys2Proof.Machine.execCollScan d a imm w s
  | .collMaxidx d a imm w => Sys2Proof.Machine.execCollMaxidx d a imm w s
  | .qsend a b imm w => Sys2Proof.Machine.execQsend a b imm w s
  | .qrecv d a b imm w => Sys2Proof.Machine.execQrecv d a b imm w s
  | .qpeek d imm w => Sys2Proof.Machine.execQpeek d imm w s
  | .rotsv a imm w => Sys2Proof.Machine.execRotsv a imm w s
  | .rotld a b w => Sys2Proof.Machine.execRotld a b w s
  | .grpj imm w => Sys2Proof.Machine.execGrpj imm w s
  | .grpl imm w => Sys2Proof.Machine.execGrpl imm w s
  | .mapsel a imm w => Sys2Proof.Machine.execMapsel a imm w s
  | .pipe d a w => Sys2Proof.Machine.execPipe d a w s
  | .trap imm w => Sys2Proof.Machine.execTrap imm w s
  | .sysc d a imm w => Sys2Proof.Machine.execSysc d a imm w s
  | .rett a b w => Sys2Proof.Machine.execRett a b w s
  | .rds d imm w => Sys2Proof.Machine.execRds d imm w s
  | .wrs a imm w => Sys2Proof.Machine.execWrs a imm w s
  | .enrd d a w => Sys2Proof.Machine.execEnrd d a w s
  | .cyc d w => Sys2Proof.Machine.execCyc d w s
  | .susp a w => Sys2Proof.Machine.execSusp a w s
  | .resm d a w => Sys2Proof.Machine.execResm d a w s
  | .migr a b w => Sys2Proof.Machine.execMigr a b w s
  | .save a b w => Sys2Proof.Machine.execSave a b w s
  | .rest a b w => Sys2Proof.Machine.execRest a b w s
  | .tlbi a imm w => Sys2Proof.Machine.execTlbi a imm w s
  | .ltwrite a w => Sys2Proof.Machine.execLtwrite a w s
  | .ltfetch a w => Sys2Proof.Machine.execLtfetch a w s
  | .contextWake c => Sys2Proof.Machine.execContextWake c s
  | .schedulerDispatch c => Sys2Proof.Machine.execSchedulerDispatch c s
  | .preemptDecision waiter holder => Sys2Proof.Machine.execPreemptDecision waiter holder s
  | .contextHalt c => Sys2Proof.Machine.execContextHalt c s
  | .saveStaged c => Sys2Proof.Machine.execSaveStaged c s
  | .saveWritten c => Sys2Proof.Machine.execSaveWritten c s
  | .contextResume c p => Sys2Proof.Machine.execContextResume c p s
  | .teamSwapOut l g => Sys2Proof.Machine.execTeamSwapOut l g s
  | .teamSwapIn l g => Sys2Proof.Machine.execTeamSwapIn l g s
  | .migrationComplete c => Sys2Proof.Machine.execMigrationComplete c s
  | .contextReclaim c => Sys2Proof.Machine.execContextReclaim c s
  | .pipeSample l => Sys2Proof.Machine.execPipeSample l s
  | .stageReassign l st => Sys2Proof.Machine.execStageReassign l st s
  | .stageReassignLoad l st => Sys2Proof.Machine.execStageReassignLoad l st s
  | .launch fn off => Sys2Proof.Machine.execLaunch fn off s
  | .launchPlace fn ps => Sys2Proof.Machine.execLaunchPlace fn ps s
  | .imageRecordLoad c => Sys2Proof.Machine.execImageRecordLoad c s
  | .copySectorWrite c op o => Sys2Proof.Machine.execCopySectorWrite c op o s
  | .copyOperationComplete c op => Sys2Proof.Machine.execCopyOperationComplete c op s
  | .collectiveStep k n j => Sys2Proof.Machine.execCollectiveStep k n j s
  | .collectiveStepTimeout k n j => Sys2Proof.Machine.execCollectiveStepTimeout k n j s
  | .collectiveComplete k n => Sys2Proof.Machine.execCollectiveComplete k n s
  | .dieQueueEntryArrive die q bad => Sys2Proof.Machine.execDieQueueEntryArrive die q bad s
  | .promiseExpiry c => Sys2Proof.Machine.execPromiseExpiry c s
  | .energyChargePost c nj => Sys2Proof.Machine.execEnergyChargePost c nj s
  | .trapDelivery die => Sys2Proof.Machine.execTrapDelivery die s
  | .vfctlWrite o die inst v => Sys2Proof.Machine.execVfctlWrite o die inst v s
  | .voltageStepEnd die v => Sys2Proof.Machine.execVoltageStepEnd die v s
  | .monitorWindowEnd die v full blk => Sys2Proof.Machine.execMonitorWindowEnd die v full blk s
  | .guardGrant die v => Sys2Proof.Machine.execGuardGrant die v s
  | .guardRelease die v => Sys2Proof.Machine.execGuardRelease die v s
  | .thermalSample die tile reading => Sys2Proof.Machine.execThermalSample die tile reading s
  | .curveWrite o die num v => Sys2Proof.Machine.execCurveWrite o die num v s
  | .rungcapWrite o die inst v => Sys2Proof.Machine.execRungcapWrite o die inst v s
  | .undervoltage die v supply => Sys2Proof.Machine.execUndervoltage die v supply s
  | .overcurrent die => Sys2Proof.Machine.execOvercurrent die s
  | .overcurrentClear die => Sys2Proof.Machine.execOvercurrentClear die s
  | .powerAverageWindow milliwatts => Sys2Proof.Machine.execPowerAverageWindow milliwatts s
  | .bar4Access fn off wr data => Sys2Proof.Machine.execBar4Access fn off wr data s
  | .hostirq o die v => Sys2Proof.Machine.execHostirq o die v s
  | .qsetWrite o die inst v => Sys2Proof.Machine.execQsetWrite o die inst v s
  | .dqtWrite o die inst v => Sys2Proof.Machine.execDqtWrite o die inst v s
  | .placeWrite o die inst v => Sys2Proof.Machine.execPlaceWrite o die inst v s
  | .rhctlWrite o die inst v => Sys2Proof.Machine.execRhctlWrite o die inst v s
  | .tfenceWrite o die inst v => Sys2Proof.Machine.execTfenceWrite o die inst v s
  | .erstatusClear o die inst v => Sys2Proof.Machine.execErstatusClear o die inst v s
  | .attnonce o die inst v => Sys2Proof.Machine.execAttnonce o die inst v s
  | .attestReportReady die => Sys2Proof.Machine.execAttestReportReady die s
  | .rstctlWarm v o => Sys2Proof.Machine.execRstctlWarm v o s
  | .coldStart o => Sys2Proof.Machine.execColdStart o s
  | .functionLevelReset r => Sys2Proof.Machine.execFunctionLevelReset r s
  | .hostLinkError o => Sys2Proof.Machine.execHostLinkError o s
  | .linkCrcError die port o => Sys2Proof.Machine.execLinkCrcError die port o s
  | .linkctlRetrain o die inst v => Sys2Proof.Machine.execLinkctlRetrain o die inst v s
  | .linkTrainComplete die inst ok => Sys2Proof.Machine.execLinkTrainComplete die inst ok s
  | .selfTestStart die k => Sys2Proof.Machine.execSelfTestStart die k s
  | .selfTestComplete die k o => Sys2Proof.Machine.execSelfTestComplete die k o s
  | .registerWrite o die num inst v => Sys2Proof.Machine.execRegisterWrite o die num inst v s
  | .supplyReachesVreq die v => Sys2Proof.Machine.execSupplyReachesVreq die v s

end Sys2Proof.Machine
end

