-- ==== Sys2Proof/Machine/Fetch.lean ====
section
/-! DEFINITION. What moves next, and the instruction that it runs (R45, R193, R252, R267, R270, R416; log entry 1). -/

namespace Sys2Proof.Machine

/-! ### The schedule -/

/-- The turns that a context may take. -/
noncomputable def State.ctxTurns (s : State) (c : Nat) : List Turn :=
  let x := s.ctx c
  let own : List Turn :=
    [.ctl c, .op (.contextWake c), .op (.schedulerDispatch c), .op (.iterIndexIssue c), .op (.iterEosSend c),
     .op (.stealRequestHandle c), .op (.splitApply c), .op (.bariInject c), .op (.imageRecordLoad c),
     .op (.promiseExpiry c), .op (.detectorSample c), .op (.contextReclaim c), .op (.contextHalt c), .op (.saveStaged c),
     .op (.saveWritten c), .op (.migrationComplete c)]
  let engine : List Turn := x.ops.flatMap fun o =>
    [.op (.copySectorWrite c o.num ⟨.ok, false⟩), .op (.copyOperationComplete c o.num)]
  let loops : List Turn := (List.finRange 8).flatMap fun l =>
    [.op (.rotRequestEnqueue c l), .op (.slotEntryMove c l), .op (.rotationArrival c l)]
  let tile (pt : Nat) : List Turn :=
    [.cu pt false, .cu pt true, .mu pt false, .mu pt true, .mx pt, .op (.matrixEntryComplete pt),
     .op (.matrixDrainToken pt), .op (.matrixMarkPass pt), .op (.agTupleEmit pt false), .op (.agTupleEmit pt true)] ++
    [false, true].flatMap fun u =>
      ((s.mu pt u).reqs.flatMap fun r => (List.range r.elems.length).map fun e =>
        Turn.op (.memoryRequestPerform pt u r.num e ⟨.ok, false⟩)) ++
      [.op (.muReplyDeliver pt u), .op (.ordFenceComplete pt u), .op (.barwComplete pt u)]
  if x.st = .free then engine else own ++ engine ++ (if isRegionId c ∧ x.onTiles then loops ++ x.tiles.flatMap tile else [])

/-- Every turn that may find something to do, and a count of CYCLE. -/
noncomputable def State.turns (s : State) : List Turn :=
  (s.ctxs.flatMap fun p => s.ctxTurns p.1) ++
  (s.arriving.map fun a => Turn.op (.tokenArrive a.1)) ++
  (s.flights.map fun f => Turn.op (.switchHop f.pt (BitVec.ofNat 6 f.code))) ++
  (s.elastic.map fun e => Turn.op (.elasticBufferPass e.1)) ++
  (s.elasticCtl.map fun e => Turn.op (.elasticBufferPass e.1)) ++
  (s.ctlArriving.map fun f => Turn.op (.controlTokenArrive f.buf)) ++
  (s.returns.map fun r => Turn.op (.bufferSlotReturn r.1)) ++
  (if s.walks.isEmpty then [] else [Turn.op (.pageWalkComplete 0 .ok)]) ++
  (if s.qwrites.isEmpty then [] else [Turn.op (.quorumCopyWrite 0)]) ++
  (s.qops.flatMap fun q => (List.range 5).map fun j => Turn.op (.quorumReply q.id j)) ++
  (s.colls.flatMap fun k => (List.range k.2.members.length).flatMap fun i =>
    Turn.op (.collectiveComplete k.1 i) ::
      (List.range k.2.members.length).map fun j => Turn.op (.collectiveStep k.1 i j)) ++
  (s.launches.flatMap fun l => Turn.op (.pipeSample l.1) ::
    (List.range l.2.stages.length).flatMap fun k =>
      [Turn.op (.stageReassign l.1 k), Turn.op (.stageReassignLoad l.1 k)]) ++
  (s.dies.flatMap fun d => Turn.op (.trapDelivery d.1) ::
    (d.2.queues.map fun q => Turn.op (.dieQueueEntryArrive d.1 q.1 false))) ++
  [.tick 1]

/-- The turn that moves now: the schedule's head, or, with an empty schedule, the next of all turns in rotation. -/
noncomputable def State.popTurn (s : State) : Turn × State :=
  match s.sched with
  | t :: rest => (t, { s with sched := rest })
  | [] =>
    let ts := s.turns
    (ts.getD (s.rr % ts.length) (.tick 1), { s with rr := s.rr + 1 })

/-! ### The instruction of a turn -/

/-- What a turn gives: an instruction to run in a state, or its outcome. -/
inductive Fetched where
  | run (i : Instr) (s : State)
  | done (o : Out)

/-- The parcels at a compute unit's position; past the store's end there are none. -/
def Cu.parcels (c : Cu) : List Parcel := (c.store.drop c.pos).take 3

/-- A compute unit's next instruction (R45).  A unit whose position holds none, as in a store that nothing has been loaded
into, never fires (R174, R199). -/
def fetchCu (pt : Nat) (u : Bool) (s : State) : Fetched :=
  let s1 := { s with cur := .cu pt u }
  if !s.cuReady pt u then .done (stall s1)
  else match Decode.elem (s.cu pt u).parcels with
    | .ok (i, _) => .run i s1
    | .error _ => .done (stall s1)

/-- A memory unit's instruction: INSN0 and INSN1 of its frame; a unit whose frame holds none never acts (R193, R199). -/
def fetchMu (pt : Nat) (u : Bool) (s : State) : Fetched :=
  let s1 := { s with cur := .mu pt u }
  let f := (s.mu pt u).cfg
  if !s.active pt ∨ f = 0 then .done (stall s1)
  else match Decode.mem (BitVec.ofNat 32 (fld f 0 32)) (BitVec.ofNat 32 (fld f 32 32)) with
    | .ok i => .run i s1
    | .error _ => .done (stall s1)

/-- The matrix node's head token; one that is no matrix token is a fault, poisoned or not, since it does not fire (R182, R403,
R414). -/
noncomputable def fetchMx (pt : Nat) (s : State) : Fetched :=
  let s1 := { s with cur := .mx pt }
  match (if s.active pt then (s.mx pt).queue.head? else none) with
  | some (.tok w _) =>
    match Decode.mx w with
    | .ok i => .run i s1
    | .error _ => .done (.next (s1.unitFault pt 2 fcEncoding 0))
  | _ => .done (stall s1)

/-- The command is of a supervisor's group (R12, R306). -/
def Ctx.atSupGroup (x : Ctx) : Bool := decide (fld (x.code.getD x.pc 0) 24 6 = 0x1C)

/-- A controller's next command; one that does not decode, or breaks a limit that its words decide, traps (R267, R412,
R416); one of a supervisor's group in user mode with cause PRIV (R12). -/
noncomputable def fetchCtl (c : Nat) (s : State) : Fetched :=
  let s1 := { s with cur := .ctl c }
  let x := s.ctx c
  if !x.runs then .done (stall s1)
  else if x.atSupGroup ∧ !isSupId c then .done (.next (s1.trapCmd c causePriv))
  else match Decode.ctl (x.code.drop x.pc) with
    | .error _ => .done (.next (s1.trapCmd c causeUnassigned))
    | .ok (i, _) => if x.hold = .none ∧ !i.wf then .done (.next (s1.trapCmd c causeUnassigned)) else .run i s1

/-- A TLB without entry 0 of its list: the k-th TLB of the units and clusters that hold any. -/
def dropEntry : Nat → Tbl (List TlbEnt) → Tbl (List TlbEnt)
  | _, [] => []
  | 0, p :: t => (p.1, p.2.tail) :: t
  | k + 1, p :: t => p :: dropEntry k t

/-- The turn is a cold start, the only step after a thermal shutdown (R453). -/
def Turn.coldStart : Turn → Bool
  | .op (.coldStart _) => true
  | _ => false

/-- The instruction that a turn runs, or what the turn does (log entry 1). -/
noncomputable def fetch (t : Turn) (s : State) : Fetched :=
  if s.shutdown ∧ !t.coldStart then .done (stall s)
  else match t with
  | .cu pt u => fetchCu pt u s
  | .mu pt u => fetchMu pt u s
  | .mx pt => fetchMx pt s
  | .ctl c => fetchCtl c s
  | .op i => .run i { s with cur := .event }
  | .tick n => .done (if n = 0 then stall s else .next ({ s with cur := .event }.tick n))
  | .evictL1 k => .done (.next { s with l1 := ldel s.l1 k, cur := .event })
  | .evictLlc k => .done (.next { s with llc := tdel s.llc k, cur := .event })
  | .evictTlb k =>
    let n := s.muTlb.length
    .done (.next (if k < n then { s with muTlb := dropEntry k s.muTlb, cur := .event }
      else { s with clTlb := dropEntry (k - n) s.clTlb, cur := .event }))

/-! ### Placing an instruction (log entry 1) -/

/-- The context of `State.fetchPlace`: a RUNNING region of one tile, tile 1 of cluster 0 of die 0. -/
def fetchCtx : Ctx := { st := .running, width := 1, height := 1, place := ⟨0, 0, 1⟩ }

/-- A compute unit that stands at parcels of its own, with a DATA token of zeros at the head of each input and a true
control token at the head of each control input. -/
def fetchUnit (ps : List Parcel) : Cu :=
  { store := ps ++ List.replicate (48 - ps.length) 0xFFFFFFFF
    ins := Vector.replicate 6 [⟨{}, 1⟩], qs := Vector.replicate 4 [true] }

/-- Parcels stored where the next step fetches: CU0 of tile 1 is the next to move. -/
def State.fetchPlace (s : State) (ps : List Parcel) : State :=
  { (s.setCtx 1 fetchCtx).setCu 1 false (fetchUnit ps) with sched := .cu 1 false :: s.sched }

end Sys2Proof.Machine
end

