-- ==== Sys2Proof/Machine/Step.lean ====
section
/-! DEFINITION. One step: the next turn, its instruction, and what the instruction does. -/

namespace Sys2Proof.Machine

/-- One step of the package. -/
noncomputable def step (s : State) : Host.Outcome State Fault Refusal :=
  match fetch s.popTurn.1 s.popTurn.2 with
  | .run i s1 => exec i s1
  | .done o => o

/-- `s` with an instruction stored where `step` fetches its next one. -/
def State.withFetchWord (s : State) (nbits w : Nat) : State := s.fetchPlace (tableParcels nbits w)

end Sys2Proof.Machine
end

