-- ==== Sys2Proof/Safety.lean ====
section
/-! DEFINITION. The words in which the statements about the machine are made: when a unit or a controller acts, what it
delivers, what a step keeps, and the results of instructions as the spec's tables and pseudo-code give them, over
integers, rational numbers and bit vectors. -/

namespace Sys2Proof

/-- The destination register of `v`, if it is one (R176). -/
def EView.sdest (v : EView) : List (Fin 8) :=
  match v.d with | .s k => [k] | _ => []

end Sys2Proof

namespace Sys2Proof.Machine

/-! ### Element instructions: when one fires (R45, R52 to R54, R235) -/

/-- The unit (pt, u) is the one that acts, and an instruction seen as `v` finds the heads `hs`, no stream mark, its gate
open, a credit for every output, no poison and no injected error. -/
structure Fires (s : State) (pt : Nat) (u : Bool) (v : EView) (hs : List Token) : Prop where
  turn    : s.cur = .cu pt u
  ready   : s.cuReady pt u = true
  heads   : s.heads pt u v = some hs
  data    : v.markOf hs = none
  pure    : v.mixed hs = false
  gated   : gate v.m.qg (s.ctlHead pt u (s.cu pt u).qgport) = .fire
  credits : s.outsReady pt u v = true
  sound   : s.upset = 0
  clean   : ∀ t ∈ hs, t.poison = false

/-- What a firing leaves in its tile's compute units apart from its results: the sequencer stands at parcel `next`, each
input of `taken` has lost its head and each control input of `ctl` its token, and everything else of the inputs, and
every S register outside `ks`, is as before. -/
structure LeavesUnit (s t : State) (pt : Nat) (u : Bool) (taken : List (Fin 6)) (ctl : List (Fin 4)) (next : Nat)
    (ks : List (Fin 8)) : Prop where
  pos    : (t.cu pt u).pos = next
  inputs : ∀ u' (k : Fin 6), (t.cu pt u').ins[k] =
    if k ∈ taken ∧ (s.portOf pt u k).1 = u' then (takeFor (s.portOf pt u k).2 (s.cu pt u').ins[k]).1
    else (s.cu pt u').ins[k]
  ctls   : ∀ q : Fin 4, (t.cu pt u).qs[q] = if q ∈ ctl then (s.cu pt u).qs[q].tail else (s.cu pt u).qs[q]
  sregs  : ∀ k : Fin 8, k ∉ ks → (t.cu pt u).sRegs[k] = (s.cu pt u).sRegs[k]
  cregs  : (t.cu pt u).cRegs = (s.cu pt u).cRegs
  store  : (t.cu pt u).store = (s.cu pt u).store
  cfg    : (t.cu pt u).cfg = (s.cu pt u).cfg

/-- The position after `v`, by R45 and R174. -/
def State.nextPos (s : State) (pt : Nat) (u : Bool) (v : EView) : Nat :=
  (s.cu pt u).wrap ((s.cu pt u).pos + v.len)

/-- The control input that the gate of `v` consumes (R235). -/
def State.gateCtl (s : State) (pt : Nat) (u : Bool) (v : EView) : List (Fin 4) :=
  if v.m.qg = .none then [] else [(s.cu pt u).qgport]

/-- The tokens that stand at the tile's switch once `tok` has left on the outputs `outs` (R178). -/
def sentOn (pt : Nat) (u : Bool) (outs : List Nat) (tok : Token) : List Flight :=
  outs.map fun k => Flight.mk pt (outCode u k) tok

/-- The instruction `i`, seen as `v`, completes: `tok` leaves on each of its outputs, an S-register destination receives
`x`, the registers of `more` receive their values, and the sticky flags `fl` are set. -/
def DeliversToken (i : Instr) (s : State) (pt : Nat) (u : Bool) (v : EView) (tok : Token) (x : BitVec 32)
    (more : List (Fin 8 × BitVec 32)) (fl : FlagWord) : Prop :=
  ∃ t, exec i s = .next t ∧ t.flights = s.flights ++ sentOn pt u v.outs tok ∧
    (∀ k, v.d = .s k → k ∉ more.map (·.1) → (t.cu pt u).sRegs[k] = x) ∧
    (∀ r ∈ more, (t.cu pt u).sRegs[r.1] = r.2) ∧
    (t.cu pt u).flags = (s.cu pt u).flags ||| fl ∧
    LeavesUnit s t pt u v.consumed (s.gateCtl pt u v) (s.nextPos pt u v) (v.sdest ++ more.map (·.1))

/-- The instruction completes with a result payload: the token has R203's sideband, and an S-register destination
receives element 0 in its low bits (R202, R203). -/
def Delivers (i : Instr) (s : State) (pt : Nat) (u : Bool) (v : EView) (hs : List Token) (p : Payload) (fl : FlagWord) :
    Prop :=
  DeliversToken i s pt u v (resultToken p hs) (BitVec.ofNat 32 (elemAt p (fmtWidth v.m.ty) 0)) [] fl

/-- The instruction completes and sends nothing: it consumes `taken` and `ctl`, and the sequencer stands at `next`. -/
def Completes (i : Instr) (s : State) (pt : Nat) (u : Bool) (taken : List (Fin 6)) (ctl : List (Fin 4)) (next : Nat) :
    Prop :=
  ∃ t, exec i s = .next t ∧ t.flights = s.flights ∧ (t.cu pt u).flags = (s.cu pt u).flags ∧
    LeavesUnit s t pt u taken ctl next []

/-- The flags of all elements together (R101). -/
def flagsOf (n : Nat) (f : Nat → Res) : FlagWord := (List.range n).foldl (fun a k => a ||| (f k).2) 0

/-- The instruction completes with `n` result elements of width `w`, and the flags that they set. -/
def DeliversElems (i : Instr) (s : State) (pt : Nat) (u : Bool) (v : EView) (hs : List Token) (w n : Nat)
    (f : Nat → Res) : Prop :=
  Delivers i s pt u v hs (payloadOf w ((List.range n).map fun k => (f k).1)) (flagsOf n f)

/-- Elements that a payload of the instruction's TYPE holds (R94). -/
def elemCount (v : EView) : Nat := 512 / fmtWidth v.m.ty

/-! ### Results of element instructions, as their entries give them -/

/-- A rational number rounded to an integer by a mode (R100, R210). -/
def roundInt (r : Rnd) (q : ℚ) : Int :=
  match r with
  | .rdn => ⌊q⌋
  | .rup => ⌈q⌉
  | .rtz => if 0 ≤ q then ⌊q⌋ else ⌈q⌉
  | .rne =>
    if q - ⌊q⌋ < 1 / 2 then ⌊q⌋ else if 1 / 2 < q - ⌊q⌋ then ⌊q⌋ + 1 else if ⌊q⌋ % 2 = 0 then ⌊q⌋ else ⌊q⌋ + 1

/-- The exact value of the table of R210. -/
def addTable (op : EOp) (n : Nat) (x y : Int) : ℚ :=
  match op with
  | .add => x + y
  | .sub => x - y
  | .adds => (x + y : ℚ) / 2 ^ n
  | .subs => (x - y : ℚ) / 2 ^ n
  | .neg => -x
  | .abs => |(x : ℚ)|
  | .min => (if x ≤ y then x else y : Int)
  | _ => (if x ≤ y then y else x : Int)

/-- One element of R210. -/
def addRule (op : EOp) (m : Mods) (x y : Nat) : Res :=
  if op = .minu then (if x ≤ y then x else y, 0)
  else if op = .maxu then (if x ≤ y then y else x, 0)
  else if m.abm = .abp ∧ (isAbsent m.ty x ∨ isAbsent m.ty y) then (absentOf m.ty, 0)
  else
    let v (n : Nat) : Int := if isAbsent m.ty n then 0 else (BitVec.ofNat (fmtWidth m.ty) n).toInt
    let q := addTable op (natBits m.imm.toNat 0 5) (v x) (v y)
    let r := fitInt (fmtWidth m.ty) m.sat (roundInt m.rnd q)
    (r.1, r.2 ||| flagIf (decide (q.den ≠ 1)) flagInx)

/-- One element of R211. -/
def mulRule (op : EOp) (m : Mods) (x y z : Nat) : Res :=
  let w := fmtWidth m.ty
  if op = .mulhu then (x * y / 2 ^ w, 0)
  else if m.abm = .abp ∧ (isAbsent m.ty x ∨ isAbsent m.ty y ∨ (op = .mad ∧ isAbsent m.ty z)) then (absentOf m.ty, 0)
  else
    let v (n : Nat) : Int := if isAbsent m.ty n then 0 else (BitVec.ofNat w n).toInt
    if op = .mulh then ((BitVec.ofInt w ⌊(v x * v y : ℚ) / 2 ^ w⌋).toNat, 0)
    else if op = .mad then fitInt w m.sat (v x * v y + v z)
    else fitInt w m.sat (v x * v y)

/-- Element `i` of DOT4 (R212). -/
def dot4Rule (m : Mods) (o : Opnds) (i : Nat) : Res :=
  let pair (j : Nat) : Bool := m.abm == .abz || !(isAbsent .int8 (o.a.elem 8 j) || isAbsent .int8 (o.b.elem 8 j))
  let v (n : Nat) : Int := if isAbsent .int8 n then 0 else (BitVec.ofNat 8 n).toInt
  let js := (List.range 4).map (4 * i + ·)
  let p : Int := ((js.filter pair).map fun j => v (o.a.elem 8 j) * v (o.b.elem 8 j)).sum
  let z := o.c.elem 32 i
  if o.c.given then
    if isAbsent .int32 z ∧ m.abm = .abp then (absentOf .int32, 0)
    else fitInt 32 m.sat ((if isAbsent .int32 z then 0 else (BitVec.ofNat 32 z).toInt) + p)
  else if js.any pair then ((BitVec.ofInt 32 p).toNat, 0) else (absentOf .int32, 0)

/-- One element of R213 on bits. -/
def logicRule (op : EOp) (w x y : Nat) : Nat :=
  let a := BitVec.ofNat w x
  let b := BitVec.ofNat w y
  match op with
  | .and => (a &&& b).toNat
  | .or => (a ||| b).toNat
  | .xor => (a ^^^ b).toNat
  | .not => (~~~a).toNat
  | _ => (a &&& ~~~b).toNat

/-- One element of R214 on bits. -/
def shiftRule (op : EOp) (w x n : Nat) : Nat :=
  let a := BitVec.ofNat w x
  match op with
  | .shl => (a <<< n).toNat
  | .shr => (a >>> n).toNat
  | .sar => (a.sshiftRight n).toNat
  | .rol => (a.rotateLeft (n % w)).toNat
  | .clz => ((List.range w).find? fun k => a.getMsbD k).getD w
  | _ => (List.range w).countP fun k => a.getLsbD k

/-- The shift amount of element `i` (R214). -/
def shiftBy (v : EView) (o : Opnds) (i : Nat) : Nat :=
  if v.b = .none then v.m.imm.toNat % 64 else o.b.elem (fmtWidth v.m.ty) i

/-- The truth of CMP.cc on one pair (R215). -/
def cmpRule (op : EOp) (m : Mods) (x y : Nat) : Bool :=
  let w := fmtWidth m.ty
  let v (n : Nat) : BitVec w := if isAbsent m.ty n then 0 else BitVec.ofNat w n
  let ab := decide (m.abm = .abp) && (isAbsent m.ty x || isAbsent m.ty y)
  match op with
  | .cmpEq => !ab && v x == v y
  | .cmpNe => !ab && v x != v y
  | .cmpLt => !ab && (v x).slt (v y)
  | .cmpLe => !ab && (v x).sle (v y)
  | .cmpLtu => (BitVec.ofNat w x).ult (BitVec.ofNat w y)
  | _ => (BitVec.ofNat w x).ule (BitVec.ofNat w y)

/-- A finite floating-point number as a rational (R95). -/
def ratOf (neg : Bool) (m : Nat) (e : Int) : ℚ := (if neg then -1 else 1) * m * 2 ^ e

/-- `a < b` among numbers and infinities. -/
def numLt : FVal → FVal → Bool
  | .num n m e, .num n' m' e' => decide (ratOf n m e < ratOf n' m' e')
  | .inf n, .num _ _ _ => n
  | .num _ _ _, .inf n => !n
  | .inf n, .inf n' => n && !n'
  | _, _ => false

/-- `a = b` among numbers and infinities. -/
def numEq : FVal → FVal → Bool
  | .num n m e, .num n' m' e' => decide (ratOf n m e = ratOf n' m' e')
  | .inf n, .inf n' => n == n'
  | _, _ => false

/-- The truth and INV of FCMP.cc on one pair: the table of R220. -/
def fcmpRule (op : EOp) (m : Mods) (x y : Nat) : Bool × Bool :=
  let r (n : Nat) : Nat := if isAbsent m.ty n then 0 else n
  let a := fclass m.ty (r x)
  let b := fclass m.ty (r y)
  if m.abm = .abp ∧ (isAbsent m.ty x ∨ isAbsent m.ty y) then (false, false)
  else match a, b with
    | .nan q, .nan q' => (op == .fcmpNe || op == .fcmpUn, op == .fcmpLt || op == .fcmpLe || q || q')
    | .nan q, _ | _, .nan q => (op == .fcmpNe || op == .fcmpUn, op == .fcmpLt || op == .fcmpLe || q)
    | _, _ => ((match op with
      | .fcmpEq => numEq a b
      | .fcmpNe => !numEq a b
      | .fcmpLt => numLt a b
      | .fcmpLe => numLt a b || numEq a b
      | _ => false), false)

/-- A mask of element width `w` (R208). -/
def maskPayload (w : Nat) (ts : List Bool) : Payload := payloadOf w (ts.map fun b => if b then 2 ^ w - 1 else 0)

/-- The control token of CMODE over the truths of the elements (R208). -/
def cmodeToken (v : EView) (ts : List Bool) : Option Bool :=
  match natBits v.m.imm.toNat 2 2 with
  | 0 => none
  | 1 => some (ts.headD false)
  | 2 => some (ts.all id)
  | _ => some (ts.any id)

/-- A condition instruction completes with the truths `ts`: a mask on its outputs or in its register, and a control
token on ZP where CMODE asks for one (R208). -/
def DeliversCond (i : Instr) (s : State) (pt : Nat) (u : Bool) (v : EView) (hs : List Token) (ts : List Bool)
    (fl : FlagWord) : Prop :=
  Delivers i s pt u v hs (maskPayload (fmtWidth v.m.ty) ts) fl ∧
  ∀ t, exec i s = .next t → t.ctlArriving = s.ctlArriving ++ match cmodeToken v ts with
    | some b => (s.ctlBufs pt u v.zp.val).map fun q => CtlFlight.mk q b
    | none => []

/-- One element of R216 and R227. -/
def chooseRule (op : EOp) (ty : Fmt) (x y z : Nat) : Nat :=
  match op with
  | .sel => if x = 0 then z else y
  | .sela => if x = absentOf ty then z else y
  | .fill => if x = absentOf ty then y else x
  | _ => if y = 0 then x else absentOf ty

/-- A term of the exact sum of R218: a sign with a magnitude, an infinity, or an invalid product. -/
inductive XTerm where
  | fin (neg : Bool) (v : ℚ)
  | inf (neg : Bool)
  | bad
  deriving DecidableEq

/-- An operand as a term. -/
def xterm : FVal → XTerm
  | .num n m e => .fin n (ratOf n m e)
  | .inf n => .inf n
  | _ => .bad

/-- The exact product of two operands (R96, R218). -/
def xmul (a b : FVal) : XTerm :=
  match a, b with
  | .num n m e, .num n' m' e' => .fin (n != n') (ratOf n m e * ratOf n' m' e')
  | .inf n, .inf n' => .inf (n != n')
  | .inf n, .num n' m _ | .num n' m _, .inf n => if m = 0 then .bad else .inf (n != n')
  | _, _ => .bad

/-- A term with its sign inverted. -/
def xneg : XTerm → XTerm
  | .fin n v => .fin (!n) (-v)
  | .inf n => .inf (!n)
  | .bad => .bad

/-- The terms of R217's exact values. -/
def xterms (op : EOp) (a b c : FVal) : List XTerm :=
  match op with
  | .fadd => [xterm a, xterm b]
  | .fsub => [xterm a, xneg (xterm b)]
  | .fmul => [xmul a b]
  | .ffma => [xmul a b, xterm c]
  | .ffms => [xmul a b, xneg (xterm c)]
  | _ => [xneg (xmul a b), xterm c]

/-- A rational number rounded once to a format; `zneg` is the sign of a zero (R100). -/
def roundQ (f : Fmt) (r : Rnd) (zneg : Bool) (q : ℚ) : Res :=
  if q = 0 then (fzero f zneg, 0) else roundRat f r (decide (q < 0)) q.num.natAbs q.den 0

/-- The sign of a term that is a number. -/
def XTerm.negative : XTerm → Bool
  | .fin n _ => n
  | _ => false

/-- The value of a term that is a number. -/
def XTerm.value : XTerm → ℚ
  | .fin _ v => v
  | _ => 0

/-- The sum of terms, rounded once (R96, R100, R218): a zero sum of terms of one sign has that sign. -/
def sumRule (f : Fmt) (r : Rnd) (ts : List XTerm) : Res :=
  if ts.contains .bad ∨ (ts.contains (.inf true) ∧ ts.contains (.inf false)) then (qnan f, flagInv)
  else if ts.contains (.inf true) then (finf f true, 0)
  else if ts.contains (.inf false) then (finf f false, 0)
  else roundQ f r (if ts.all XTerm.negative then true else if ts.any XTerm.negative then r == .rdn else false)
    (ts.map XTerm.value).sum

/-- One element of R218. -/
def arithRule (op : EOp) (m : Mods) (x y z : Nat) : Res :=
  let three := op = .ffma ∨ op = .ffms ∨ op = .fnma
  let xs := if three then [x, y, z] else [x, y]
  let r (n : Nat) : Nat := if isAbsent m.ty n then 0 else n
  if m.abm = .abp ∧ xs.any (isAbsent m.ty) then (absentOf m.ty, 0)
  else if (xs.map r).any (isNan m.ty) then
    (nanRes m.ty m.nprop (xs.map r), flagIf ((xs.map r).any (isSnan m.ty)) flagInv)
  else satF m.ty m.sat (sumRule m.ty m.rnd (xterms op (fclass m.ty (r x)) (fclass m.ty (r y)) (fclass m.ty (r z))))

/-- One element of FNEG, FABS and FCPS (R219), over the sign bit; of FCPS, where B is a NaN and A is none, the NaN of B. -/
def signRule (op : EOp) (m : Mods) (x y : Nat) : Res :=
  let w := fmtWidth m.ty
  let r (n : Nat) : BitVec w := if isAbsent m.ty n then 0 else BitVec.ofNat w n
  let a := r x
  let sgn := match op with
    | .fneg => !a.msb
    | .fabs => false
    | _ => (r y).msb
  let p := (if sgn then a ||| BitVec.ofNat w (2 ^ (w - 1)) else a &&& BitVec.ofNat w (2 ^ (w - 1) - 1)).toNat
  if m.abm = .abp ∧ (isAbsent m.ty x ∨ (op = .fcps ∧ isAbsent m.ty y)) then (absentOf m.ty, 0)
  else if isNan m.ty a.toNat then
    ((BitVec.ofNat w p ||| BitVec.ofNat w (2 ^ (manBits m.ty - 1))).toNat,
     flagIf (isSnan m.ty a.toNat || (op == .fcps && isSnan m.ty (r y).toNat)) flagInv)
  else if op = .fcps ∧ isNan m.ty (r y).toNat then
    ((r y ||| BitVec.ofNat w (2 ^ (manBits m.ty - 1))).toNat, flagIf (isSnan m.ty (r y).toNat) flagInv)
  else (p, 0)

/-- One element of FMIN, FMAX, FMINP and FMAXP: the table of R108. -/
def minmaxRule (op : EOp) (m : Mods) (x y : Nat) : Res :=
  let r (n : Nat) : Nat := if isAbsent m.ty n then 0 else n
  let a := r x
  let b := r y
  let inv := flagIf (isSnan m.ty a || isSnan m.ty b) flagInv
  let prop := op = .fminp ∨ op = .fmaxp
  let up := op = .fmax ∨ op = .fmaxp
  let below := numLt (fclass m.ty a) (fclass m.ty b) || (numEq (fclass m.ty a) (fclass m.ty b) && fsign m.ty a && !(fsign m.ty b))
  if m.abm = .abp ∧ (isAbsent m.ty x ∨ isAbsent m.ty y) then (absentOf m.ty, 0)
  else if prop ∧ (isNan m.ty a ∨ isNan m.ty b) then (nanRes m.ty m.nprop [a, b], inv)
  else if isNan m.ty a ∧ isNan m.ty b then (qnan m.ty, inv)
  else if isNan m.ty a then (b, inv)
  else if isNan m.ty b then (a, inv)
  else if up then (if below then b else a, 0)
  else (if below then a else b, 0)

/-- One element of SCALE (R109, R226), its exponent given: the exact product with a power of two, rounded once. -/
def scaleRule (m : Mods) (x : Nat) (n : Option Int) : Res :=
  let a := if isAbsent m.ty x then 0 else x
  if m.abm = .abp ∧ (isAbsent m.ty x ∨ n = none) then (absentOf m.ty, 0)
  else if isNan m.ty a then (nanRes m.ty m.nprop [a], flagIf (isSnan m.ty a) flagInv)
  else match fclass m.ty a with
    | .num neg k e => if k = 0 then (a, 0) else satF m.ty m.sat (roundQ m.ty m.rnd neg (ratOf neg k e * 2 ^ n.getD 0))
    | _ => satF m.ty m.sat (a, 0)

/-- The state after an instruction that hands a request to a rotating loop: it is on its way to the loop's queue, which it
reaches with the loop's clock at `State.requestDue` (R79). -/
def SendsRequest (i : Instr) (s : State) (pt : Nat) (u : Bool) (v : EView) (c l : Nat) (r : RotReq) (next : Nat)
    (waits : Bool) : Prop :=
  ∃ t, exec i s = .next t ∧ (t.loopSt c l).inbound = (s.loopSt c l).inbound ++ [⟨s.requestDue c l pt, pt, u, r⟩] ∧ t.flights = s.flights ∧
    ((t.cu pt u).rotj.isSome = waits) ∧ LeavesUnit s t pt u v.consumed (s.gateCtl pt u v) next []

/-- The input that a source consumes (R176). -/
def srcTaken : Src → List (Fin 6)
  | .inp k => [k]
  | _ => []

/-- The instruction passes `tok` on the outputs `outs`, consuming the input of `x` and the control token at `q`; an
S-register destination receives element 0 (R202, R234, R238). -/
def PassesToken (i : Instr) (s : State) (pt : Nat) (u : Bool) (v : EView) (x : Src) (q : List (Fin 4)) (outs : List Nat)
    (dests : List (Fin 8)) (tok : Token) : Prop :=
  ∃ t, exec i s = .next t ∧ t.flights = s.flights ++ sentOn pt u outs tok ∧
    (∀ k ∈ dests, (t.cu pt u).sRegs[k] = BitVec.ofNat 32 (elemAt tok.payload (fmtWidth v.m.ty) 0)) ∧
    (t.cu pt u).flags = (s.cu pt u).flags ∧
    LeavesUnit s t pt u (srcTaken x) q (s.nextPos pt u v) dests

/-- The instruction passes the mark `m` on the outputs `outs`, consuming the inputs of `taken` and no control token (R52, R54). -/
def PassesMark (i : Instr) (s : State) (pt : Nat) (u : Bool) (v : EView) (taken : List (Fin 6)) (outs : List Nat) (m : Token) :
    Prop :=
  ∃ t, exec i s = .next t ∧ t.flights = s.flights ++ sentOn pt u outs m ∧ (t.cu pt u).flags = (s.cu pt u).flags ∧
    LeavesUnit s t pt u taken [] (s.nextPos pt u v) []

/-- The instruction would act on poison: nothing is sent, written or moved, and the region's context is FAULTED with FCODE POISON
(R403, R414). -/
def PoisonFaults (i : Instr) (s : State) (pt : Nat) (u : Bool) (c : Nat) : Prop :=
  ∃ t, exec i s = .next t ∧ t.flights = s.flights ∧ t.ctlArriving = s.ctlArriving ∧ (t.ctx c).st = .faulted ∧
    (t.ctx c).fcode = 0x08 ∧ (t.cu pt u).sRegs = (s.cu pt u).sRegs ∧ (t.cu pt u).pos = (s.cu pt u).pos

/-- Instructions whose firing sends one result, or one token that it passes, on its outputs (R203, R234). -/
def resultOps : List EOp :=
  [.add, .sub, .adds, .subs, .neg, .abs, .min, .max, .minu, .maxu, .mul, .mulh, .mulhu, .mad, .dot4, .and, .or, .xor, .not,
   .andn, .shl, .shr, .sar, .rol, .clz, .popc, .cmpEq, .cmpNe, .cmpLt, .cmpLe, .cmpLtu, .cmpLeu, .sel, .sela, .fadd, .fsub,
   .fmul, .ffma, .ffms, .fnma, .fmin, .fmax, .fminp, .fmaxp, .fneg, .fabs, .fcps, .fcmpEq, .fcmpNe, .fcmpLt, .fcmpLe, .fcmpUn,
   .frcp, .frsq, .fsqrt, .flog2, .fexp2, .ftanh, .fsigm, .cvt, .qnt, .dqn, .rnsf, .rnsb, .scale, .pres, .fill, .mkab, .cntp,
   .gumb, .incs, .movs, .move, .swz, .pack, .unpk, .bcast, .tagc, .untag, .redadd, .redmax, .redmin, .argmax, .argmin, .scanx,
   .mtok, .orel, .osta]

/-- Instructions that send a control token where their CMODE asks for one (R208). -/
def condOps : List EOp :=
  [.cmpEq, .cmpNe, .cmpLt, .cmpLe, .cmpLtu, .cmpLeu, .fcmpEq, .fcmpNe, .fcmpLt, .fcmpLe, .fcmpUn, .pres]

/-- `y` beats `x` among the numbers or integers of a reduction: above it for REDMAX, below it for REDMIN; of two zeros +0 is above
-0 (R108, R244). -/
def redBeats (op : EOp) (ty : Fmt) (y x : Nat) : Prop :=
  let over_ (p q : Nat) : Prop :=
    if isFloat ty = true then
      (numLt (fclass ty q) (fclass ty p) = true ∨
        (numEq (fclass ty q) (fclass ty p) = true ∧ fsign ty q = true ∧ fsign ty p = false))
    else (BitVec.ofNat (fmtWidth ty) q).toInt < (BitVec.ofNat (fmtWidth ty) p).toInt
  if op = .redmax then over_ y x else over_ x y

/-- What R242's table sends on D and on O[OB] for two heads, and which of them it consumes. -/
def joinTable (union : Bool) (ty : Fmt) (a b : Token) : (Bool × Bool) × Option Token × Option Token :=
  let gap (c : BitVec 32) : Token :=
    dataToken (payloadOf (fmtWidth ty) (List.replicate (512 / fmtWidth ty) (absentOf ty))) 0 c false
  let onlyA := ((true, false), if union then some a else none, if union then some (gap a.coord) else none)
  let onlyB := ((false, true), if union then some (gap b.coord) else none, if union then some b else none)
  if a.isMark = false ∧ b.isMark = false then
    if a.coord = b.coord then ((true, true), some a, some b) else if a.coord.ult b.coord then onlyA else onlyB
  else if a.isMark = true ∧ b.isMark = true then ((true, true), some a, some b)
  else if a.isMark = true then onlyB else onlyA

/-! ### What element instructions leave as it was -/

/-- The S registers that an instruction writes, by its entry: its destination, and the registers that its IMM names where
the entry writes them (R176, R223, R228, R243 to R247). -/
def writesS (v : EView) : List (Fin 8) :=
  let imm := v.m.imm.toNat
  let mode := natBits imm 0 2
  let sreg : Fin 8 := Fin.ofNat 8 (natBits imm 2 3)
  let next : Fin 8 := Fin.ofNat 8 (natBits imm 2 3 + 1)
  v.sdest ++ match v.op with
  | .qnt => [Fin.ofNat 8 (natBits imm 8 3)]
  | .rand => if natBits imm 4 1 = 1
      then [Fin.ofNat 8 (2 * natBits imm 2 2), Fin.ofNat 8 (2 * natBits imm 2 2 + 1)] else []
  | .redadd | .redmax | .redmin => if 2 ≤ mode then [sreg] else []
  | .scanx => if mode = 2 then [sreg] else []
  | .argmax | .argmin => if 2 ≤ mode then [sreg, next] else []
  | .drain => if mode = 1 then [sreg, next] else [sreg]
  | _ => []

/-- Operations whose entries set no sticky flag. -/
def flagless : List EOp :=
  [.nop, .halt, .minu, .maxu, .mulh, .mulhu, .and, .or, .xor, .not, .andn, .shl, .shr, .sar, .rol, .clz, .popc, .cmpEq,
   .cmpNe, .cmpLt, .cmpLe, .cmpLtu, .cmpLeu, .sel, .sela, .rnsf, .rnsb, .pres, .fill, .mkab, .cntp, .rand, .ldi, .movs,
   .incs, .move, .drop, .merge, .steer, .gate, .swz, .pack, .unpk, .bcast, .rept, .reptc, .isect, .union, .tagc, .untag,
   .argmax, .argmin, .drain, .eose, .bare, .oneos, .br, .brf, .jmp, .jtab, .lpad, .waitq, .emitq, .loop, .mtok, .oclm,
   .orel, .osta, .rotj, .rotx, .roth, .rotr, .rotp]

/-- Every byte of every memory reads as before, and every poison mark stands as before. -/
def SameMemory (s t : State) : Prop :=
  (∀ a, memGet t.mem a = memGet s.mem a) ∧ (∀ a, memGet t.spad a = memGet s.spad a) ∧
  (∀ a, memGet t.opnd a = memGet s.opnd a) ∧
  t.memPoison = s.memPoison ∧ t.spadPoison = s.spadPoison ∧ t.opndPoison = s.opndPoison

/-- Privileged registers outside `nums` hold what they held. -/
def SameRegs (s t : State) (nums : List Nat) : Prop :=
  ∀ die num inst, num < 256 → inst < 4096 → num ∉ nums → t.reg die num inst = s.reg die num inst

/-- The registers of error records and of the race detector, which the machine itself writes (R405, R436, R437). -/
def recordRegs : List Nat := [0x60, 0x61, 0x62, 0x63, 0x64, 0x67, 0x68, 0x69]

/-! ### The matrix node (R252 to R255) -/

/-- A matrix token of operation `op` with the fields `t` stands, without poison, at the head of the queue of the matrix
node that acts, and keeps to R182. -/
structure MxHead (s : State) (pt op : Nat) (t : MxTok) : Prop where
  turn   : s.cur = .mx pt
  active : s.active pt = true
  head   : ∃ w rest, (s.mx pt).queue = .tok w false :: rest
  fields : wfMxFields op t = []
  sound  : s.upset = 0

/-- The slot of a claim holds data under exactly that claim (R135). -/
def SlotHolds (x : Mx) (claim : BitVec 8) : Prop :=
  ∀ k : Fin 16, k.val = claim.toNat / 16 →
    x.slots[k].gen.toNat = claim.toNat % 16 ∧ (x.slots[k].st = .filled ∨ x.slots[k].st = .inUse)

/-- The head has left the queue; what the node taps may have followed it (R49, R252). -/
def QueueMoved (s u : State) (pt : Nat) : Prop :=
  ∃ e rest new, (s.mx pt).queue = e :: rest ∧ (u.mx pt).queue = rest ++ new

/-- The touched outputs hold what `f` makes of their entries, and the other entries hold what they held (R252). -/
def UpdatesEntries (s u : State) (pt : Nat) (t : MxTok) (f : Nat → Nat → AccEntry → AccEntry) : Prop :=
  (∀ m n, m < t.m → n < t.n → (u.mx pt).at (t.entry m n) = f m n ((s.mx pt).at (t.entry m n))) ∧
  (∀ e, (∀ m n, m < t.m → n < t.n → e ≠ t.entry m n) → (u.mx pt).at e = (s.mx pt).at e)

/-- The value that a drain sends for an entry: the table of R254, a quotient rounded once; the mean of an absent code is a
free value. -/
def drainRule (op : Nat) (t : MxTok) (a : AccEntry) : Nat :=
  let v : Int := a.value.toInt
  let f : Fmt := if t.dfmt then .bf16 else if t.int then .int32 else .fp32
  if op = 0x0A then Nat.min a.count 0x7FFFFFFF
  else if a.count = 0 then absentOf f
  else if t.int then
    let q : ℚ := if op = 0x09 then (v : ℚ) / a.count else v
    if t.dfmt then (roundQ .bf16 .rne false q).1 else (BitVec.ofInt 32 (roundInt .rne q)).toNat
  else if op = 0x08 then match fclass .fp32 a.value.toNat with
    | .nan _ => qnan f
    | _ => if t.dfmt then (convert .fp32 .bf16 .rne false a.value.toNat).1 else a.value.toNat
  else match fclass .fp32 a.value.toNat with
    | .inf neg => finf f neg
    | .num neg m e => (roundQ f .rne neg (ratOf neg m e / a.count)).1
    | .absent => Config.absentMean (f == .bf16) a.count
    | .nan _ => qnan f

/-! ### Controllers (R267 to R307) -/

/-- It is context `c`'s turn, and it is to issue a command with the common field `w`: no earlier command holds its
sequencer, nothing is left of the wait field, and the command's own condition has not been tested. -/
structure Issues (s : State) (c : Nat) (w : CtlP2) : Prop where
  turn   : s.cur = .ctl c
  runs   : (s.ctx c).runs = true
  clear  : (s.ctx c).hold = .none
  waited : (s.ctx c).waitDone = true ∨ w.wthr = 0
  fresh  : (s.ctx c).ownDone = false

/-- What a command of context `c` leaves as it was: tiles, memories, tokens on their way, every other context, and the
privileged registers but RACECTL, whose flags and count the detector itself writes (R435, R437). -/
structure LeavesRest (s t : State) (c : Nat) : Prop where
  tiles  : t.tiles = s.tiles
  memory : SameMemory s t
  tokens : t.flights = s.flights ∧ t.arriving = s.arriving ∧ t.ctlArriving = s.ctlArriving
  others : ∀ e, e ≠ c → t.ctx e = s.ctx e
  regs   : SameRegs s t [0x67]

/-- The X registers of a context with some of them written. -/
def Ctx.withX (x : Ctx) (ws : List (XReg × Word64)) (k : XReg) : Word64 :=
  ((ws.find? fun p => p.1 = k).map (·.2)).getD (x.getX k)

/-- The command completes at issue: the sequencer stands at parcel `pc`, the X registers hold their values with `ws`
written, the context runs on, and the rest is as before. -/
def CompletesAt (i : Instr) (s : State) (c pc : Nat) (ws : List (XReg × Word64)) (P : State → Prop := fun _ => True) :
    Prop :=
  ∃ t, exec i s = .next t ∧ (t.ctx c).pc = pc ∧ (∀ k, (t.ctx c).getX k = (s.ctx c).withX ws k) ∧
    (t.ctx c).st = .running ∧ LeavesRest s t c ∧ P t

/-- A trap has entered a die's queue while there was room: at the end, but before the traps of the same CYCLE that rank
behind it by cause and context id (R417). -/
def TrapEntered (s t : State) (die : Nat) (e : TrapEnt) : Prop := (s.die die).traps.length < 256 →
  ∃ p q, (s.die die).traps = p ++ q ∧ (t.die die).traps = p ++ { e with cyc := s.cycle } :: q ∧
    let behind (x : TrapEnt) : Prop := x.cyc = s.cycle ∧
      (e.cause < x.cause ∨ e.cause = x.cause ∧ e.cause ≠ 9 ∧ e.ctx < x.ctx)
    (∀ x ∈ p, ¬behind x) ∧ ∀ x, q.head? = some x → behind x

/-- The command traps with a cause: its context is held at it with no effect of the command, and the trap has entered its
die's queue (R412, R416 to R418). -/
def TrapsWith (i : Instr) (s : State) (c cause : Nat) : Prop :=
  ∃ t, exec i s = .next t ∧ (t.ctx c).trapped = some cause ∧ (t.ctx c).pc = (s.ctx c).pc ∧
    (t.ctx c).xregs = (s.ctx c).xregs ∧ LeavesRest s t c ∧
    TrapEntered s t (s.ctxDie c) { cause := cause, ctx := c, info := (s.ctx c).info }

/-- The context waits at the command's own condition (R65, R268). -/
def WaitsFor (i : Instr) (s : State) (c : Nat) (k : WaitCond) : Prop :=
  ∃ t, exec i s = .next t ∧ t.ctx c = { s.ctx c with waitDone := true, st := .waiting, waitFor := k } ∧ LeavesRest s t c

/-- The command holds its sequencer, which stays at it until it completes (R270). -/
def Holds (i : Instr) (s : State) (c : Nat) (w : CtlP2) (h : Hold) (P : State → Prop) : Prop :=
  ∃ t, exec i s = .next t ∧ (t.ctx c).hold = h ∧ (t.ctx c).pc = (s.ctx c).pc ∧ (t.ctx c).holdLen = 2 ∧
    (t.ctx c).holdSig = signalOf (s.ctx c) w ∧ P t

/-- The accesses of a context's earlier steps that a release at a scope covers have been performed (R311, R314). -/
def Released (s : State) (c : Nat) (sc : Scope) : Prop := s.covered c (s.ctx c).stepNo sc = true

/-- The context of a launch. -/
def InLaunch (s : State) (c l : Nat) (la : Launch) : Prop := (s.ctx c).launch = some l ∧ tget s.launches l = some la

/-- A COLL command of a member is allowed (R296 to R298, R416). -/
structure CollAllowed (s : State) (c g : Nat) (op : CollFn) (o : EngOp) : Prop where
  used    : bit (BitVec.ofNat 4 (s.group (s.launchNo c) g).use) 1 = true
  member  : c ∈ s.collMembers (s.launchNo c) g c
  codes   : cOpr o.desc ≤ 3 ∧ 1 ≤ cCount o.desc ∧ fld (ltWord o.desc 3) 16 48 = 0
  pairs   : op = .maxidx → cCount o.desc % 2 = 0 ∧ cOpr o.desc = 0 ∧ ∀ f, s.issueFmt c o.src = some f → f = .fp32 ∨ f = .int32
  apart   : s.collOverlap o op (s.collSize g (s.collMembers (s.launchNo c) g c).length) = false

/-! ### Rotating loops (R74 to R91) -/

/-- Phase `p` of loop `l` of region `c` is to arrive at the entry unit `e`: the loop rotates, every request that has set out
in time has reached its queue, nothing saves, loads or has parked it, and it does not stop at this arrival. -/
structure RotTurn (s : State) (c l p : Nat) (e : Nat × Bool) : Prop where
  entry : s.loopEntry c l = some e
  fires : (s.ctx c).st.fires = true
  runs  : (s.loopOf c l).running = true ∧ (s.loopOf c l).stopped = false ∧ (s.loopOf c l).parked = false
  quiet : (s.loopOf c l).busy = .none ∧ (s.loopOf c l).savesNow p = none
  come  : (s.loopOf c l).inbound.any (s.loopOf c l).arrived = false
  phase : p = (s.loopOf c l).count % s.loopSlots c l
  limit : s.loopSlots c l ≤ 64
  goes  : ¬(p = 0 ∧ s.mayStop c l e = true)
  forms : Tbl.wf (s.loopOf c l).states = true ∧ Tbl.wf (s.loopOf c l).entries = true

/-- The arrival sends `fl`, and leaves the loop, with the count stepped, as `P` says. -/
def ArrivalGives (s : State) (c : Nat) (l : Fin 8) (fl : List Flight) (P : LoopSt → Prop) : Prop :=
  ∃ t, exec (.rotationArrival c l) s = .next t ∧ (t.loopOf c l.val).count = (s.loopOf c l.val).count + 1 ∧
    t.flights = s.flights ++ fl ∧ P (t.loopOf c l.val)

/-- A ROTH or ROTR that names phase `p`. -/
def RotReq.holds (p : Nat) : RotReq → Bool
  | .hold k | .release k => decide (k = p)
  | _ => false

/-- The requests that are left when the ROTH and ROTR of phase `p` have been applied (R81). -/
def LoopSt.others (x : LoopSt) (p : Nat) : List RotReq := x.queue.filter fun r => !(r.holds p)

/-- HOLD bit `p` after them: the last decides (R81). -/
def LoopSt.heldAt (x : LoopSt) (p : Nat) : Bool :=
  match (x.queue.filter fun r => r.holds p).getLast? with
  | some (.hold _) => true
  | some _ => false
  | none => bit x.hold p

/-- A mask keeps every bit but bit `p`, which becomes `b`. -/
def MaskAt (old new : Word64) (p : Nat) (b : Bool) : Prop := ∀ k, k < 64 → bit new k = if k = p then b else bit old k

/-- The state of phase `p` recirculates as HOLD: nothing else of its slot, and of no other slot, changes (R81). -/
def Recirculates (x y : LoopSt) (p : Nat) : Prop :=
  y.valid = x.valid ∧ y.fault = x.fault ∧ MaskAt x.hold y.hold p (x.heldAt p) ∧ y.entries = x.entries ∧
  (∀ q, tget y.states q = if q = p then (tget x.states q).map fun t => { t with kind := .hold } else tget x.states q)

/-- Phase `p` is given up: its bits are clear and its state is gone; the other slots keep theirs (R81). -/
def Vacates (x y : LoopSt) (p : Nat) : Prop :=
  MaskAt x.valid y.valid p false ∧ MaskAt x.hold y.hold p false ∧ MaskAt x.fault y.fault p false ∧
  ∀ q, tget y.states q = if q = p then none else tget x.states q

/-- A leave request for phase `p`. -/
def RotReq.leaves (p : Nat) : RotReq → Bool
  | .leave k _ => decide (k = p)
  | _ => false

/-- A join request. -/
def RotReq.joins : RotReq → Bool
  | .join _ _ _ => true
  | _ => false

/-! ### Memory units (R120 to R132, R139, R258 to R263) -/

/-- A bit of one kind of storage: 0 scratchpad, 1 operand memory, 2 physical memory. -/
def State.bitOf (s : State) (kind j : Nat) : Bool :=
  match kind with
  | 0 => (memGet s.spad (j / 8)).getLsbD (j % 8)
  | 1 => (memGet s.opnd (j / 8)).getLsbD (j % 8)
  | _ => (memGet s.mem (j / 8)).getLsbD (j % 8)

/-- The `n` bits of one kind of storage from bit `first` up, as a number (R3, R4). -/
def State.bitsAt (s : State) (kind first n : Nat) : Nat :=
  (List.range n).foldl (fun a j => a + if s.bitOf kind (first + j) then 2 ^ j else 0) 0

/-- The `n` bits of one kind of storage from bit `first` up hold `v`; every other bit of every storage is as before. -/
def StoresBits (s t : State) (kind first n v : Nat) : Prop :=
  ∀ k j, k < 3 → t.bitOf k j = if k = kind ∧ first ≤ j ∧ j < first + n then v.testBit (j - first) else s.bitOf k j

/-- The three storages are in their one form. -/
def State.memWf (s : State) : Bool := Memory.wf s.mem && Memory.wf s.spad && Memory.wf s.opnd

/-- Element `e`, which is `x`, of request number `n`, which is `q`, of memory unit (pt, u) is to be performed: its place
is known, and nothing before it must come first, nor holds its bank up. -/
structure Reaches (s : State) (pt : Nat) (u : Bool) (n e c : Nat) (q : MuReq) (x : Elem) : Prop where
  request : s.muReq pt u n = some q
  owner   : s.owner pt = some c
  element : q.elems[e]? = some x
  ready   : q.st = .ready ∧ x.done = false ∧ q.hold = false
  goes    : (s.mu pt u).stopAt = none ∧ s.elemWaits pt u q e x = false
  bank    : s.bankTurn s.bankAlive (unitKey pt (muUnit u), n, e)
    (if q.kind.quorum then none else s.stackPa (s.muWho pt) x.spot (q.kind.reads && q.kind ≠ .atom)) = true

/-- Such an element is to be performed, and no detector looks on. -/
structure Accesses (s : State) (pt : Nat) (u : Bool) (n e c : Nat) (q : MuReq) (x : Elem) : Prop
    extends Reaches s pt u n e c q x where
  calm    : s.raceOn (ptCl pt) = false

/-- The access has been performed: its element is done, with a value and a poison mark. -/
def Performed (t : State) (pt : Nat) (u : Bool) (n e v : Nat) (poison : Bool) : Prop :=
  ∃ q x, t.muReq pt u n = some q ∧ q.elems[e]? = some x ∧ x.done = true ∧ x.value = v ∧ x.poison = poison

/-- The element's format at its place is the request's TYPE, and is no block format that it would convert (R129). -/
def MuReq.plainAt (q : MuReq) (x : Elem) : Bool :=
  match x.spot with
  | .spad _ _ | .slot _ _ _ => (ltElem q.lt).getD .int8 == q.ty
  | .phys _ f _ _ => f == q.ty
  | _ => false

/-- The new value of ATOM: the table of R260, absent the identity on both sides. -/
def atomRule (ty : Fmt) (rnd : Rnd) (sub old x cmp : Nat) : Nat :=
  let m : Mods := plainMods ty rnd false false
  let v (n : Nat) : Int := (BitVec.ofNat (fmtWidth ty) n).toInt
  if sub = 4 then x
  else if sub = 5 then (if old = cmp then x else old)
  else if isAbsent ty x then old
  else if isAbsent ty old then x
  else match sub with
    | 0 => (fitInt (fmtWidth ty) false (v old + v x)).1
    | 1 => (arithRule .fadd m old x 0).1
    | 2 => if isFloat ty then (minmaxRule .fmin m old x).1 else if v old < v x then old else x
    | _ => if isFloat ty then (minmaxRule .fmax m old x).1 else if v old < v x then x else old

end Sys2Proof.Machine
end

