-- ==== Sys2Proof/Certificates/Slice0/Obligations.lean ====
section
/-! DEFINITION. The statements about the machine, for the provers.

Each `def Obligations.<Name> : Prop` says what it formalises; OBLIGATIONS.json lists it with the rules of spec/ that it
rests on.  The predicates they use are those of Safety.lean. -/

open Sys2Proof Sys2Proof.Machine

/-! ### Compute units: results -/

/-- R210: the integer-add group over the rationals: the exact value of its table, rounded by RND for ADDS and SUBS,
delivered by R98, absent by ABM; MINU and MAXU on raw bits.

R211 and R212: products over the integers: MUL and MAD delivered by R98, MULH and MULHU the upper half, DOT4 the sum
of the present products. -/
def Obligations.IntegerResults : Prop :=
  (∀ (i : Instr) (v : EView) (s : State) (pt : Nat) (u : Bool) (hs : List Token),
       elemView i = some v →
       v.op ∈ [EOp.add, .sub, .adds, .subs, .neg, .abs, .min, .max, .minu, .maxu] →
       Fires s pt u v hs →
       DeliversElems i s pt u v hs (fmtWidth v.m.ty) (elemCount v) fun k =>
         addRule v.op v.m ((s.opnds pt u v).ea v k) ((s.opnds pt u v).eb v k)) ∧
  (∀ (i : Instr) (v : EView) (s : State) (pt : Nat) (u : Bool) (hs : List Token),
       elemView i = some v → Fires s pt u v hs →
       (v.op ∈ [EOp.mul, .mulh, .mulhu, .mad] →
         DeliversElems i s pt u v hs (fmtWidth v.m.ty) (elemCount v) fun k =>
           mulRule v.op v.m ((s.opnds pt u v).ea v k) ((s.opnds pt u v).eb v k) ((s.opnds pt u v).ec v k)) ∧
       (v.op = .dot4 → DeliversElems i s pt u v hs 32 16 fun k => dot4Rule v.m (s.opnds pt u v) k))

/-- R213: the logic group acts on the bits of each element, sets no flag and looks at no absent code.

R214: shifts by any amount, rotation, and the counts, on the bits of each element.

R216 and R227: SEL, SELA, FILL and MKAB choose among raw elements; CNTP counts the present ones, adds B mod 2^32, and
gives an S register the whole sum. -/
def Obligations.BitResults : Prop :=
  (∀ (i : Instr) (v : EView) (s : State) (pt : Nat) (u : Bool) (hs : List Token),
       elemView i = some v → v.op ∈ [EOp.and, .or, .xor, .not, .andn] → Fires s pt u v hs →
       DeliversElems i s pt u v hs (fmtWidth v.m.ty) (elemCount v) fun k =>
         (logicRule v.op (fmtWidth v.m.ty) ((s.opnds pt u v).ea v k) ((s.opnds pt u v).eb v k), 0)) ∧
  (∀ (i : Instr) (v : EView) (s : State) (pt : Nat) (u : Bool) (hs : List Token),
       elemView i = some v → v.op ∈ [EOp.shl, .shr, .sar, .rol, .clz, .popc] → Fires s pt u v hs →
       DeliversElems i s pt u v hs (fmtWidth v.m.ty) (elemCount v) fun k =>
         (shiftRule v.op (fmtWidth v.m.ty) ((s.opnds pt u v).ea v k) (shiftBy v (s.opnds pt u v) k), 0)) ∧
  (∀ (i : Instr) (v : EView) (s : State) (pt : Nat) (u : Bool) (hs : List Token),
       elemView i = some v → Fires s pt u v hs →
       let o := s.opnds pt u v
       (v.op ∈ [EOp.sel, .sela] →
         DeliversElems i s pt u v hs (fmtWidth v.m.ty) (elemCount v) fun k =>
           (chooseRule v.op v.m.ty (o.ea v k) (o.eb v k) (o.ec v k), 0)) ∧
       (v.op ∈ [EOp.fill, .mkab] →
         DeliversElems i s pt u v hs (fmtWidth v.m.ty) (elemCount v) fun k =>
           (chooseRule v.op v.m.ty (o.ea v k) (o.eb v k) 0, 0)) ∧
       (v.op = .cntp →
         let n := ((List.range (elemCount v)).countP fun k => o.ea v k != absentOf v.m.ty) + o.b.scalar
         DeliversToken i s pt u v (resultToken (BitVec.ofNat 512 (n % 2 ^ 32)) hs) (BitVec.ofNat 32 n) [] 0))

/-- R208, R215, R220 and R227: compares and the presence test give a mask, and a control token as CMODE says; the
unordered and signalling cases of FCMP set INV by the table. -/
def Obligations.ConditionResults : Prop :=
  ∀ (i : Instr) (v : EView) (s : State) (pt : Nat) (u : Bool) (hs : List Token),
    elemView i = some v → Fires s pt u v hs →
    (natBits v.m.imm.toNat 2 2 ≠ 0 → s.canCtl pt u v.zp.val = true) →
    let o := s.opnds pt u v
    let ks := List.range (elemCount v)
    (v.op ∈ [EOp.cmpEq, .cmpNe, .cmpLt, .cmpLe, .cmpLtu, .cmpLeu] →
      DeliversCond i s pt u v hs (ks.map fun k => cmpRule v.op v.m (o.ea v k) (o.eb v k)) 0) ∧
    (v.op ∈ [EOp.fcmpEq, .fcmpNe, .fcmpLt, .fcmpLe, .fcmpUn] → isFloat v.m.ty = true →
      DeliversCond i s pt u v hs (ks.map fun k => (fcmpRule v.op v.m (o.ea v k) (o.eb v k)).1)
        (flagIf (ks.any fun k => (fcmpRule v.op v.m (o.ea v k) (o.eb v k)).2) flagInv)) ∧
    (v.op = .pres → DeliversCond i s pt u v hs (ks.map fun k => o.ea v k != absentOf v.m.ty) 0)

/-- R217 to R219: the exact value of R217's table, over the rationals with infinities, rounded once by RND; absent, NaN
and invalid operands before it by R218; FMIN and its kin by R108; the sign instructions on the sign bit.  That FCPS gives the NaN
of B where only B is one is the model's choice (log entry 30). -/
def Obligations.FloatingPointResults : Prop :=
  ∀ (i : Instr) (v : EView) (s : State) (pt : Nat) (u : Bool) (hs : List Token),
    elemView i = some v → Fires s pt u v hs → isFloat v.m.ty = true →
    let o := s.opnds pt u v
    (v.op ∈ [EOp.fadd, .fsub, .fmul, .ffma, .ffms, .fnma] →
      DeliversElems i s pt u v hs (fmtWidth v.m.ty) (elemCount v) fun k =>
        arithRule v.op v.m (o.ea v k) (o.eb v k) (o.ec v k)) ∧
    (v.op ∈ [EOp.fmin, .fmax, .fminp, .fmaxp] →
      DeliversElems i s pt u v hs (fmtWidth v.m.ty) (elemCount v) fun k => minmaxRule v.op v.m (o.ea v k) (o.eb v k)) ∧
    (v.op ∈ [EOp.fneg, .fabs, .fcps] →
      DeliversElems i s pt u v hs (fmtWidth v.m.ty) (elemCount v) fun k => signRule v.op v.m (o.ea v k) (o.eb v k))

/-- R221 to R226: each special function and each conversion completes with its element results: NaN and absent operands
first for the special functions; CVT in either direction, part by part; QNT a block and its scale byte; DQN, RNSF, RNSB
and SCALE element by element.  The values of a special function between its special cases, of a format conversion and of
a quantised block are the model's own functions `sfuVal`, `convert`, `dequant` and `quantBlock`. -/
def Obligations.SpecialAndConversionResults : Prop :=
  ∀ (i : Instr) (v : EView) (s : State) (pt : Nat) (u : Bool) (hs : List Token),
    elemView i = some v → Fires s pt u v hs →
    let o := s.opnds pt u v
    let imm := v.m.imm.toNat
    let w := fmtWidth v.m.ty
    (v.op ∈ [EOp.frcp, .frsq, .fsqrt, .flog2, .fexp2, .ftanh, .fsigm] →
      DeliversElems i s pt u v hs w (elemCount v) fun k =>
        let x := if isAbsent v.m.ty (o.ea v k) then 0 else o.ea v k
        if v.m.abm = .abp ∧ isAbsent v.m.ty (o.ea v k) then (absentOf v.m.ty, 0)
        else if isNan v.m.ty x then (nanRes v.m.ty v.m.nprop [x], flagIf (isSnan v.m.ty x) flagInv)
        else satF v.m.ty v.m.sat (sfuVal v.m.ty (eopCode v.op).2 x)) ∧
    (v.op = .cvt → fmtWidth (ifmtOf (natBits imm 0 4)) < w →
      DeliversElems i s pt u v hs w (elemCount v) fun k =>
        let src := ifmtOf (natBits imm 0 4)
        convert src v.m.ty v.m.rnd v.m.sat (o.a.elem (fmtWidth src) (natBits imm 4 3 * elemCount v + k))) ∧
    (v.op = .cvt → w ≤ fmtWidth (ifmtOf (natBits imm 0 4)) →
      natBits imm 4 3 + (if o.b.given then 1 else 0) < fmtWidth (ifmtOf (natBits imm 0 4)) / w →
      let src := ifmtOf (natBits imm 0 4)
      let n := 512 / fmtWidth src
      let conv (x : OpVal) (k : Nat) : Res := convert src v.m.ty v.m.rnd v.m.sat (x.elem (fmtWidth src) k)
      ∃ p : Payload, Delivers i s pt u v hs p
          (flagsOf n (conv o.a) ||| if o.b.given then flagsOf n (conv o.b) else 0) ∧
        ∀ k, k < elemCount v → elemAt p w k =
          if k / n = natBits imm 4 3 then (conv o.a (k % n)).1 % 2 ^ w
          else if o.b.given ∧ k / n = natBits imm 4 3 + 1 then (conv o.b (k % n)).1 % 2 ^ w
          else elemAt (o.c.payload w) w k) ∧
    (v.op = .dqn →
      DeliversElems i s pt u v hs w (elemCount v) fun k =>
        dequant (ifmtOf (natBits imm 0 4)) v.m.ty (natBits o.b.scalar (8 * natBits imm 6 2) 8)
          (o.a.elem (fmtWidth (ifmtOf (natBits imm 0 4))) (32 * natBits imm 4 2 + 16 * natBits imm 8 1 + k))) ∧
    (v.op = .scale → isFloat v.m.ty = true →
      DeliversElems i s pt u v hs w (elemCount v) fun k => scaleRule v.m (o.ea v k) (scaleExp v o k)) ∧
    (v.op = .rnsf → ∃ r : Nat → Nat, DeliversElems i s pt u v hs 32 16 (fun k => (r k, 0)) ∧ ∀ k, k < 16 →
      let abs (x : OpVal) : Bool := isAbsent .int32 (x.elem 32 k)
      let val (x : OpVal) : Int := if abs x then 0 else (BitVec.ofNat 32 (x.elem 32 k)).toInt
      if v.m.abm = .abp ∧ (abs o.a ∨ abs o.b ∨ abs o.c) then r k = absentOf .int32
      else ∃ x : Int, -8388480 ≤ x ∧ x ≤ 8388479 ∧ x % 255 = val o.a % 255 ∧ x % 256 = val o.b % 256 ∧
        x % 257 = val o.c % 257 ∧ r k = (BitVec.ofInt 32 x).toNat) ∧
    (v.op = .rnsb → natBits imm 0 2 < 3 →
      DeliversElems i s pt u v hs 32 16 fun k =>
        let x := o.a.elem 32 k
        let y : Int := if isAbsent .int32 x then 0 else (BitVec.ofNat 32 x).toInt
        if v.m.abm = .abp ∧ isAbsent .int32 x then (absentOf .int32, 0)
        else ((y % (255 + natBits imm 0 2 : Nat)).toNat, 0)) ∧
    (v.op = .qnt → natBits imm 0 2 * (32 * w) + 32 * w ≤ 512 →
      let fp32 := natBits imm 2 1 = 1
      let src : Fmt := if fp32 then .fp32 else .bf16
      let xs := if fp32 then (List.range 16).map (o.a.elem 32) ++ (List.range 16).map (o.c.elem 32)
        else (List.range 32).map (o.a.elem 16)
      let q := quantBlock src v.m.ty xs
      let sr : Fin 8 := Fin.ofNat 8 (natBits imm 8 3)
      ∃ p : Payload, DeliversToken i s pt u v (resultToken p hs) (BitVec.ofNat 32 (elemAt p w 0))
          [(sr, setFld o.sRegs[sr] (8 * natBits imm 0 2) 8 q.2.1)] q.2.2 ∧
        ∀ k, k < elemCount v → elemAt p w k =
          if k / 32 = natBits imm 0 2 then q.1.getD (k % 32) 0 % 2 ^ w else elemAt (o.b.payload w) w k)

/-- R117, R228 to R231: a random element from seed, counter and index, with the counter stepped by INC; GUMB; and the
state group, which gives an S register the whole 32-bit value and an output its low bits in every element. -/
def Obligations.RandomAndStateResults : Prop :=
  ∀ (i : Instr) (v : EView) (s : State) (pt : Nat) (u : Bool) (hs : List Token),
    elemView i = some v → Fires s pt u v hs →
    let o := s.opnds pt u v
    let imm := v.m.imm.toNat
    let w := fmtWidth v.m.ty
    let whole (x : BitVec 32) : Prop := DeliversToken i s pt u v
      (resultToken (payloadOf w (List.replicate (elemCount v) x.toNat)) hs) x [] 0
    (v.op = .rand →
      let sp := natBits imm 0 2
      let lo : Fin 8 := Fin.ofNat 8 (2 * natBits imm 2 2)
      let hi : Fin 8 := Fin.ofNat 8 (2 * natBits imm 2 2 + 1)
      let seed : BitVec 64 := o.cRegs[(Fin.ofNat 8 (2 * sp + 1) : Fin 8)] ++ o.cRegs[(Fin.ofNat 8 (2 * sp) : Fin 8)]
      let counter : BitVec 64 := o.sRegs[hi] ++ o.sRegs[lo]
      let p := payloadOf w ((List.range (elemCount v)).map fun k => randElem v.m.ty seed.toNat counter.toNat k)
      DeliversToken i s pt u v (resultToken p hs) (BitVec.ofNat 32 (elemAt p w 0))
        (if natBits imm 4 1 = 1 then [(lo, (counter + 1).extractLsb' 0 32), (hi, (counter + 1).extractLsb' 32 32)] else [])
        0) ∧
    (v.op = .gumb →
      DeliversElems i s pt u v hs w (elemCount v) fun k =>
        gumbElem v.m.ty v.m.sat v.m.nprop (o.ea v k)
          (if v.m.ty = .bf16 ∧ k ≥ 16 then o.c.elem 32 (k - 16) else o.b.elem 32 k)) ∧
    (v.op = .ldi → whole (if v.len = 3 then v.lit else v.m.imm.signExtend 32)) ∧
    (v.op = .incs → ∀ r, o.a = .reg r → whole (r + v.m.imm.signExtend 32)) ∧
    (v.op = .incs → o.a = .zero → whole (v.m.imm.signExtend 32)) ∧
    (v.op = .movs → ∀ r, o.a = .reg r → whole r) ∧
    (v.op = .movs → o.a = .zero → whole 0) ∧
    (v.op = .movs → ∀ t, o.a = .tok t → Delivers i s pt u v hs t.payload 0)

/-- R234, R238 and R241: tokens pass with their sideband; SWZ, PACK, UNPK and BCAST move raw sub-words and elements under
A's sideband; TAGC and UNTAG set COORD or read it; DROP, NOP and LPAD consume and send nothing.  That a register or constant as
A gives COORD and SLOT 0 is the model's choice (log entry 66). -/
def Obligations.TokenMovementResults : Prop :=
  ∀ (i : Instr) (v : EView) (s : State) (pt : Nat) (u : Bool) (hs : List Token),
    elemView i = some v → Fires s pt u v hs →
    let o := s.opnds pt u v
    let imm := v.m.imm.toNat
    let w := fmtWidth v.m.ty
    let n := elemCount v
    let low (p : Payload) : BitVec 32 := BitVec.ofNat 32 (elemAt p w 0)
    let tok : Token := match o.a with | .tok t => t | x => dataToken (x.payload 32) 0 0 false
    let like (p : Payload) : Token := { tok with payload := p, kind := .data, residue := residueOf p }
    (v.op = .move → ∀ t, o.a = .tok t → DeliversToken i s pt u v t (low t.payload) [] 0) ∧
    (v.op = .move → ∀ r, o.a = .reg r → Delivers i s pt u v hs (payloadOf 32 (List.replicate 16 r.toNat)) 0) ∧
    (v.op = .move → o.a = .zero → Delivers i s pt u v hs 0 0) ∧
    (v.op ∈ [EOp.drop, .nop, .lpad] → Completes i s pt u v.consumed (s.gateCtl pt u v) (s.nextPos pt u v)) ∧
    (v.op = .swz → ∃ p : Payload, DeliversToken i s pt u v (like p) (low p) [] 0 ∧ ∀ j, j < 8 →
      elemAt p 64 j = let k := natBits o.c.scalar (4 * j) 4
        if k < 8 then elemAt (o.a.payload 32) 64 k else elemAt (o.b.payload 32) 64 (k - 8)) ∧
    (v.op = .pack → ∃ p : Payload, DeliversToken i s pt u v (like p) (low p) [] 0 ∧ ∀ k, k < n / 2 →
      elemAt p w (2 * k) = o.ea v (imm % 2 * (n / 2) + k) ∧ elemAt p w (2 * k + 1) = o.eb v (imm % 2 * (n / 2) + k)) ∧
    (v.op = .unpk → ∃ p : Payload, DeliversToken i s pt u v (like p) (low p) [] 0 ∧ ∀ k, k < n / 2 →
      elemAt p w k = o.ea v (2 * k + imm % 2) ∧ elemAt p w (n / 2 + k) = o.eb v (2 * k + imm % 2)) ∧
    (v.op = .bcast → ∃ p : Payload, DeliversToken i s pt u v (like p) (low p) [] 0 ∧ ∀ k, k < n →
      elemAt p w k = o.ea v (imm % 64)) ∧
    (v.op = .tagc → DeliversToken i s pt u v { tok with coord := BitVec.ofNat 32 o.b.scalar } (low tok.payload) [] 0) ∧
    (v.op = .untag → imm % 2 = 0 → DeliversToken i s pt u v { tok with coord := 0 } (low tok.payload) [] 0) ∧
    (v.op = .untag → imm % 2 = 1 → Delivers i s pt u v hs (tok.coord.zeroExtend 512) 0)

/-- R238 and R239: MERGE, STEER and GATE route the head that the control token selects, and pass marks without one: MERGE the
mark that both its heads hold.

R240: REPT and REPTC emit the head of A once per firing; all but the last leave the inputs and the sequencer where
they are and count; the last consumes them.  A count of 0 consumes and emits nothing.  At the first firing a mark at every head
passes once, and a gate that holds the other value skips the run. -/
def Obligations.SteeringResults : Prop :=
  (∀ (i : Instr) (v : EView) (s : State) (pt : Nat) (u : Bool) (q : Fin 4) (tok : Token),
       elemView i = some v → s.cur = .cu pt u → s.cuReady pt u = true → q.val = v.m.imm.toNat % 4 →
       tok.poison = false → s.upset = 0 →
       let fp := natBits v.m.imm.toNat 2 2
       (v.op = .merge → s.outsReady pt u v = true → tok.isMark = false →
         (s.srcHead pt u v.a).any (fun a => (s.srcHead pt u v.b).any fun b => (commonMark [a, b]).isSome) = false →
         (s.ctlHead pt u q = some true → s.srcHead pt u v.a = some tok →
           PassesToken i s pt u v v.a [q] v.outs v.sdest tok) ∧
         (s.ctlHead pt u q = some false → s.srcHead pt u v.b = some tok →
           PassesToken i s pt u v v.b [q] v.outs v.sdest tok)) ∧
       (v.op = .merge → s.outsReady pt u v = true → ∀ a b, s.srcHead pt u v.a = some a → s.srcHead pt u v.b = some b →
         ((a.kind = .eos ∧ b.kind = .eos) ∨ (a.kind = .barrier ∧ b.kind = .barrier)) →
         PassesMark i s pt u v v.consumed v.outs { a with poison := a.poison || b.poison }) ∧
       (v.op = .steer → s.canEmit pt ((v.outs ++ [fp]).dedup.map (outCode u)) = true → s.srcHead pt u v.a = some tok →
         (tok.isMark = false → s.ctlHead pt u q = some true → PassesToken i s pt u v v.a [q] v.outs v.sdest tok) ∧
         (tok.isMark = false → s.ctlHead pt u q = some false → PassesToken i s pt u v v.a [q] [fp] [] tok) ∧
         (tok.isMark = true → PassesToken i s pt u v v.a [] (v.outs ++ [fp]).dedup [] tok)) ∧
       (v.op = .gate → s.outsReady pt u v = true → s.srcHead pt u v.a = some tok →
         (tok.isMark = false → s.ctlHead pt u q = some true → PassesToken i s pt u v v.a [q] v.outs v.sdest tok) ∧
         (tok.isMark = false → s.ctlHead pt u q = some false →
           Completes i s pt u (srcTaken v.a) [q] (s.nextPos pt u v)) ∧
         (tok.isMark = true → PassesToken i s pt u v v.a [] v.outs [] tok))) ∧
  (∀ (i : Instr) (v : EView) (s : State) (pt : Nat) (u : Bool) (hs : List Token) (tok : Token) (n : Nat),
       elemView i = some v → v.op ∈ [EOp.rept, .reptc] → s.cur = .cu pt u → s.cuReady pt u = true → s.upset = 0 →
       s.heads pt u v = some hs → v.mixed hs = false → (∀ t ∈ hs, t.poison = false) →
       (tok = match (s.opnds pt u v).a with | .tok t => t | x => resultToken (x.payload 32) hs) →
       (v.op = .rept → n = v.m.imm.toNat) →
       (v.op = .reptc → n = (BitVec.ofNat 32 (s.opnds pt u v).b.scalar).toInt.toNat) →
       ((s.cu pt u).reptDone = 0 → v.markOf hs = none ∧ gate v.m.qg (s.ctlHead pt u (s.cu pt u).qgport) = .fire) →
       let first := if (s.cu pt u).reptDone = 0 then s.gateCtl pt u v else []
       (n = 0 → Completes i s pt u v.consumed first (s.nextPos pt u v)) ∧
       (0 < n → s.outsReady pt u v = true → ∃ t, exec i s = .next t ∧
         t.flights = s.flights ++ sentOn pt u v.outs tok ∧ (t.cu pt u).flags = (s.cu pt u).flags ∧
         (∀ k, v.d = .s k → (t.cu pt u).sRegs[k] = BitVec.ofNat 32 (elemAt tok.payload (fmtWidth v.m.ty) 0)) ∧
         ((s.cu pt u).reptDone + 1 < n →
           (t.cu pt u).reptDone = (s.cu pt u).reptDone + 1 ∧ LeavesUnit s t pt u [] first (s.cu pt u).pos v.sdest) ∧
         (n ≤ (s.cu pt u).reptDone + 1 →
           (t.cu pt u).reptDone = 0 ∧ LeavesUnit s t pt u v.consumed first (s.nextPos pt u v) v.sdest))) ∧
  (∀ (i : Instr) (v : EView) (s : State) (pt : Nat) (u : Bool),
       elemView i = some v → v.op ∈ [EOp.rept, .reptc] → s.cur = .cu pt u → s.cuReady pt u = true → (s.cu pt u).reptDone = 0 →
       let q := s.ctlHead pt u (s.cu pt u).qgport
       (∀ hs m, s.heads pt u v = some hs → v.consumed ≠ [] → hs.head? = some m →
         ((∀ t ∈ hs, t.kind = .eos) ∨ ∀ t ∈ hs, t.kind = .barrier) → s.outsReady pt u v = true →
         PassesMark i s pt u v v.consumed v.outs { m with poison := hs.any (·.poison) }) ∧
       ((∀ hs, s.heads pt u v = some hs → v.markOf hs = none) →
         ((v.m.qg = .qt ∧ q = some false) ∨ (v.m.qg = .qf ∧ q = some true) →
           Completes i s pt u [] [(s.cu pt u).qgport] (s.nextPos pt u v)) ∧
         (v.m.qg ≠ .none → q = none → exec i s = .next s)))

/-- R241 and R242: ISECT and UNION complete on the two heads as the table says, an S-register destination receiving
element 0 of what D is sent; a coordinate that does not rise above the last one consumed on its input in the segment
faults the region's context with COORD. -/
def Obligations.CoordinateJoinResults : Prop :=
  ∀ (i : Instr) (v : EView) (s : State) (pt : Nat) (u : Bool) (a b : Token),
    elemView i = some v → v.op ∈ [EOp.isect, .union] → s.cur = .cu pt u → s.cuReady pt u = true →
    v.a.isInput = true → v.b.isInput = true → s.srcHead pt u v.a = some a → s.srcHead pt u v.b = some b →
    a.poison = false → b.poison = false → s.upset = 0 →
    let marks := a.isMark && b.isMark
    (marks = true → a.kind = b.kind) →
    (marks = false → gate v.m.qg (s.ctlHead pt u (s.cu pt u).qgport) = .fire) →
    let ob := natBits v.m.imm.toNat 0 2
    s.canEmit pt ((v.outs ++ [ob]).dedup.map (outCode u)) = true →
    let late (x : Src) (t : Token) : Prop :=
      t.isMark = false ∧ ∃ k c, (x = .inp k ∨ x = .peek k) ∧ (s.cu pt u).lastCoord[k] = some c ∧ t.coord ≤ c
    ((late v.a a ∨ late v.b b) → exec i s = .next (s.unitFault pt (cuUnit u) fcCoord (s.cu pt u).pos)) ∧
    (¬ late v.a a → ¬ late v.b b →
      let r := joinTable (v.op == .union) v.m.ty a b
      ∃ t, exec i s = .next t ∧
        t.flights = s.flights ++ (r.2.1.toList.flatMap fun x => sentOn pt u v.outs x) ++
          (r.2.2.toList.flatMap fun x => sentOn pt u [ob] x) ∧
        LeavesUnit s t pt u ((if r.1.1 then srcTaken v.a else []) ++ if r.1.2 then srcTaken v.b else [])
          (if marks then [] else s.gateCtl pt u v) (s.nextPos pt u v) v.sdest ∧
        (∀ k, v.d = .s k → (t.cu pt u).sRegs[k] = match r.2.1 with
          | some x => if x.isMark then (s.cu pt u).sRegs[k]
              else BitVec.ofNat 32 (elemAt x.payload (fmtWidth v.m.ty) 0)
          | none => (s.cu pt u).sRegs[k]) ∧
        (∀ k, v.a = .inp k → v.b ≠ .inp k → r.1.1 = true →
          (t.cu pt u).lastCoord[k] = if a.isMark then none else some a.coord) ∧
        (∀ k, v.b = .inp k → v.a ≠ .inp k → r.1.2 = true →
          (t.cu pt u).lastCoord[k] = if b.isMark then none else some b.coord))

/-- R243 to R247: PAIR, HORIZ and RUN of the reductions, SCANX, the pair instructions and DRAIN: what is sent, what the
running registers receive, and the flags.

R244 and R245: what is combined: absent of no present value; for REDADD and SCANX a NaN, or the exact sum rounded once; for
REDMAX and REDMIN the default NaN of NaNs alone, and else a value that no other beats.

R246: the winner among pairs does not depend on the order in which they are merged, and an absent or NaN value
never wins against another. -/
def Obligations.ReductionResults : Prop :=
  (∀ (i : Instr) (v : EView) (s : State) (pt : Nat) (u : Bool) (hs : List Token),
       elemView i = some v → Fires s pt u v hs →
       let o := s.opnds pt u v
       let w := fmtWidth v.m.ty
       let mode := v.m.imm.toNat % 4
       let k : Fin 8 := Fin.ofNat 8 (natBits v.m.imm.toNat 2 3)
       let k1 : Fin 8 := Fin.ofNat 8 (natBits v.m.imm.toNat 2 3 + 1)
       let all := elemsOf w (o.a.payload w)
       let head (x : Nat) : Payload := payloadOf w (x :: List.replicate (512 / w - 1) (absentOf v.m.ty))
       let gives (p : Payload) (more : List (Fin 8 × BitVec 32)) (fl : FlagWord) : Prop :=
         DeliversToken i s pt u v (resultToken p hs) (BitVec.ofNat 32 (elemAt p w 0)) more fl
       let best := pairBest (v.op == .argmax) v.m.ty
       let pair (x : OpVal) (p : Nat) : Nat × Nat := (x.elem 32 (2 * p), x.elem 32 (2 * p + 1))
       let cands := (List.range 16).map fun j => (o.a.elem 32 j, (o.b.scalar + j) % 2 ^ 32)
       let pairs (ps : List (Nat × Nat)) : Payload := payloadOf 32 (ps.flatMap fun p => [p.1, p.2])
       let blank := List.replicate 7 (absentOf v.m.ty, 0xFFFFFFFF)
       (v.op ∈ [EOp.redadd, .redmax, .redmin] →
         (mode = 0 → DeliversElems i s pt u v hs w (elemCount v) fun j => redComb v.op v.m [o.ea v j, o.eb v j]) ∧
         (mode = 1 → gives (head (redComb v.op v.m all).1) [] (redComb v.op v.m all).2) ∧
         (mode = 2 → let r := redComb v.op v.m (o.sRegs[k].toNat % 2 ^ w :: all)
           gives (head r.1) [(k, BitVec.ofNat 32 (r.1 % 2 ^ w))] r.2)) ∧
       (v.op = .scanx →
         (mode = 0 → DeliversElems i s pt u v hs w (elemCount v) fun j =>
           redAdd v.m (o.b.scalar % 2 ^ w :: all.take j)) ∧
         (mode = 2 → let c := o.sRegs[k].toNat % 2 ^ w
           let r := redAdd v.m (c :: all)
           gives (payloadOf w ((List.range (elemCount v)).map fun j => (redAdd v.m (c :: all.take j)).1))
             [(k, BitVec.ofNat 32 (r.1 % 2 ^ w))]
             (flagsOf (elemCount v) (fun j => redAdd v.m (c :: all.take j)) ||| r.2))) ∧
       (v.op ∈ [EOp.argmax, .argmin] →
         (mode = 0 → gives (pairs ((List.range 8).map fun p => best [pair o.a p, pair o.b p])) [] 0) ∧
         (mode = 1 → gives (pairs (best cands :: blank)) [] 0) ∧
         (mode = 2 → let r := best ((o.sRegs[k].toNat, o.sRegs[k1].toNat) :: cands)
           gives (pairs (r :: blank)) [(k, BitVec.ofNat 32 r.1), (k1, BitVec.ofNat 32 r.2)] 0)) ∧
       (v.op = .drain →
         (mode = 1 → gives (pairs ((o.sRegs[k].toNat, o.sRegs[k1].toNat) :: blank))
           [(k, (s.cu pt u).srst k), (k1, (s.cu pt u).srst k1)] 0) ∧
         (mode = 0 → gives (head (o.sRegs[k].toNat % 2 ^ w)) [(k, (s.cu pt u).srst k)] 0))) ∧
  (∀ (op : EOp) (m : Mods) (xs : List Nat), op ∈ [EOp.redadd, .redmax, .redmin] → (∀ x ∈ xs, x < 2 ^ fmtWidth m.ty) →
       let vs := xs.filter fun x => !(isAbsent m.ty x)
       let nan (x : Nat) : Bool := isFloat m.ty && isNan m.ty x
       let inv := flagIf (isFloat m.ty && vs.any (isSnan m.ty)) flagInv
       (op = .redadd → redComb op m xs = redAdd m xs) ∧
       (vs = [] → redComb op m xs = (absentOf m.ty, 0)) ∧
       (vs ≠ [] → op = .redadd →
         (vs.any nan = true → redComb op m xs = (nanRes m.ty m.nprop vs, inv)) ∧
         (isFloat m.ty = true → vs.any nan = false →
           redComb op m xs = satF m.ty m.sat (sumRule m.ty m.rnd (vs.map fun x => xterm (fclass m.ty x)))) ∧
         (isFloat m.ty = false → redComb op m xs =
           fitInt (fmtWidth m.ty) m.sat (vs.map fun x => (BitVec.ofNat (fmtWidth m.ty) x).toInt).sum)) ∧
       (vs ≠ [] → op ≠ .redadd →
         (vs.all nan = true → redComb op m xs = (qnan m.ty, inv)) ∧
         (vs.all nan = false → ∃ x ∈ vs, redComb op m xs = (x, inv) ∧ nan x = false ∧
           ∀ y ∈ vs, nan y = false → ¬ redBeats op m.ty y x))) ∧
  (∀ (mx : Bool) (ty : Fmt) (ps qs : List (Nat × Nat)),
       (ty = .fp32 ∨ ty = .int32) → (∀ p ∈ ps, p.1 < 2 ^ 32 ∧ p.2 < 2 ^ 32) → ps.Perm qs →
       pairBest mx ty ps = pairBest mx ty qs ∧
       let valid (p : Nat × Nat) : Prop := isAbsent ty p.1 = false ∧ (ty = .fp32 → isNan ty p.1 = false)
       ((∃ p ∈ ps, valid p) → pairBest mx ty ps ∈ ps ∧ valid (pairBest mx ty ps)) ∧
       ((∀ p ∈ ps, ¬ valid p) → pairBest mx ty ps = (absentOf ty, 0xFFFFFFFF)))

/-- R174, R208, R209, R248 to R250: the sequencer and the marks: EOSE and BARE send a mark; ONEOS takes its mark and
jumps, or falls through; BR, BRF and WAITQ consume the control token; JMP, JTAB and LOOP jump; EMITQ sends a control
token; HALT stops the unit.  JTAB traps for an index out of its bounds and for an entry that names no landing pad with its
label: nothing is consumed, the position stays, and the unit is held. -/
def Obligations.SequencerResults : Prop :=
  ∀ (i : Instr) (v : EView) (s : State) (pt : Nat) (u : Bool),
    elemView i = some v → s.cur = .cu pt u → s.cuReady pt u = true → s.upset = 0 →
    let c := s.cu pt u
    let imm := v.m.imm.toNat
    let target := c.wrap (imm % 64)
    let port : Fin 4 := Fin.ofNat 4 (natBits imm 6 2)
    let open_ := gate v.m.qg (s.ctlHead pt u c.qgport) = .fire
    let sendsMark (tok : Token) : Prop := ∃ t, exec i s = .next t ∧ t.flights = s.flights ++ sentOn pt u v.outs tok ∧
      (t.cu pt u).flags = c.flags ∧ LeavesUnit s t pt u v.consumed (s.gateCtl pt u v) (s.nextPos pt u v) []
    (v.op = .eose → Fires s pt u v [] → sendsMark { kind := .eos }) ∧
    (v.op = .bare → ∀ hs, Fires s pt u v hs →
      let mark := (if v.a = .none then imm else (s.opnds pt u v).a.scalar) % 2 ^ 32
      sendsMark { kind := .barrier, payload := BitVec.ofNat 512 mark, residue := residueOf (BitVec.ofNat 512 mark) }) ∧
    (v.op = .halt → open_ → ∃ t, exec i s = .next t ∧ (t.cu pt u).halted = true ∧ t.cuReady pt u = false ∧
      LeavesUnit s t pt u [] (s.gateCtl pt u v) c.pos []) ∧
    (v.op = .oneos → ∀ k tok, v.a = .inp k → s.head pt u k = some tok → s.outsReady pt u v = true →
      let hit := if natBits imm 6 1 = 0 then tok.kind = .eos else tok.kind = .barrier
      (hit → ∃ t, exec i s = .next t ∧ t.flights = s.flights ++ sentOn pt u v.outs tok ∧ LeavesUnit s t pt u [k] [] target []) ∧
      (¬ hit → Completes i s pt u [] [] (s.nextPos pt u v))) ∧
    (v.op = .br → ∀ b, s.ctlHead pt u port = some b →
      Completes i s pt u [] [port] (if b then target else s.nextPos pt u v)) ∧
    (v.op = .brf → ∀ b, s.ctlHead pt u port = some b →
      Completes i s pt u [] [port] (if b then s.nextPos pt u v else target)) ∧
    (v.op = .jmp → Completes i s pt u [] [] target) ∧
    (v.op = .waitq → ∀ b, s.ctlHead pt u port = some b → ∃ t, exec i s = .next t ∧
      (∀ k, v.d = .s k → (t.cu pt u).sRegs[k] = if b then 1 else 0) ∧
      LeavesUnit s t pt u [] [port] (s.nextPos pt u v) v.sdest) ∧
    (v.op = .emitq → ∀ hs, Fires s pt u v hs → s.canCtl pt u port.val = true →
      ∃ t, exec i s = .next t ∧ LeavesUnit s t pt u v.consumed (s.gateCtl pt u v) (s.nextPos pt u v) [] ∧
        t.ctlArriving = s.ctlArriving ++ (s.ctlBufs pt u port.val).map fun q =>
          CtlFlight.mk q (if v.a = .none then imm.testBit 8 else decide ((s.opnds pt u v).a.scalar ≠ 0))) ∧
    (v.op = .loop → ∀ k, v.d = .s k →
      (c.sRegs[k] = 0 → Completes i s pt u [] [] (s.nextPos pt u v)) ∧
      (c.sRegs[k] ≠ 0 → ∃ t, exec i s = .next t ∧ (t.cu pt u).sRegs[k] = c.sRegs[k] - 1 ∧
        LeavesUnit s t pt u [] [] target [k])) ∧
    (v.op = .jtab → ∀ hs, s.heads pt u v = some hs → v.markOf hs = none → v.mixed hs = false →
      (∀ t ∈ hs, t.poison = false) →
      let x := (BitVec.ofNat 32 (s.opVal pt u v.a).scalar).toInt
      let e := fld c.cfg (128 + 16 * x.toNat) 16
      let lands := c.startsAt (natBits e 10 6) = true ∧
        c.parcel (natBits e 10 6) = BitVec.ofNat 32 (0x610E7 * 2 ^ 10 + e % 2 ^ 10)
      let traps (cause : Nat) : Prop := ∃ t, exec i s = .next t ∧ t.flights = s.flights ∧ (t.cu pt u).jtabHeld = true ∧
        t.cuReady pt u = false ∧ LeavesUnit s t pt u [] [] c.pos [] ∧
        ∀ o, s.owner pt = some o → TrapEntered s t (s.ctxDie o)
          { cause := cause, ctx := o, info := boundInfo x (ptTile pt) (cuUnit u) c.pos
            unit := some ((s.ctx o).tiles.idxOf pt, u) }
      (0 ≤ x → x < imm % 16 → lands → Completes i s pt u v.consumed [] (c.wrap (natBits e 10 6))) ∧
      (0 ≤ x → x < imm % 16 → ¬lands → traps causeLpad) ∧ ((x < 0 ∨ imm % 16 ≤ x) → traps causeBound))

/-- R133, R137, R251 and R256: MTOK forms the token of R251; OCLM claims the lowest FREE slot and sends its claim number;
OREL sends a release entry; OSTA sends a slot's state and claim number. -/
def Obligations.MatrixTokenAndSlotResults : Prop :=
  ∀ (i : Instr) (v : EView) (s : State) (pt : Nat) (u : Bool) (hs : List Token),
    elemView i = some v → Fires s pt u v hs →
    let o := s.opnds pt u v
    let low (p : Payload) : BitVec 32 := BitVec.ofNat 32 (elemAt p (fmtWidth v.m.ty) 0)
    (v.op = .mtok →
      let p : Payload := (v.lit ++ BitVec.ofNat 8 o.a.scalar ++ BitVec.ofNat 8 o.b.scalar ++ (0 : BitVec 16)).zeroExtend 512
      Delivers i s pt u v hs p 0) ∧
    (v.op = .orel → Delivers i s pt u v hs ((BitVec.ofNat 5 0x1F ++ (0 : BitVec 27) ++ BitVec.ofNat 8 o.a.scalar ++
      (0 : BitVec 24)).zeroExtend 512) 0) ∧
    (v.op = .osta → ∀ k : Fin 16, k.val = (if v.a = .none then v.m.imm.toNat % 16 else o.a.scalar % 16) →
      let x := (s.mx pt).slots[k]
      let code := match x.st with | .free => 0 | .claimed => 1 | .filling => 2 | .filled => 3 | .inUse => 4
      Delivers i s pt u v hs (BitVec.ofNat 512 (code + (16 * k.val + x.gen.toNat) * 256)) 0) ∧
    (v.op = .oclm → ∀ k : Fin 16, (s.mx pt).slots[k].st = .free →
      (∀ j : Fin 16, j < k → (s.mx pt).slots[j].st ≠ .free) →
      let n := 16 * k.val + ((s.mx pt).slots[k].gen + 1).toNat
      DeliversToken i s pt u v (resultToken (BitVec.ofNat 512 n) hs) (BitVec.ofNat 32 n) [] 0 ∧
      ∀ t, exec i s = .next t → (t.mx pt).slots[k].st = .claimed ∧
        (t.mx pt).slots[k].gen = (s.mx pt).slots[k].gen + 1 ∧ ∀ j, j ≠ k → (t.mx pt).slots[j] = (s.mx pt).slots[j])

/-- R78 to R80, R265 and R266: ROTJ, ROTX, ROTH and ROTR send their request towards the loop while its queue has room;
ROTJ waits at its instruction for its placement; ROTP sends its read, which takes no place in the queue, and waits for
it. -/
def Obligations.RotationInstructionResults : Prop :=
  ∀ (i : Instr) (v : EView) (s : State) (pt : Nat) (u : Bool) (hs : List Token) (c : Nat),
    elemView i = some v → Fires s pt u v hs → s.owner pt = some c →
    let l := v.m.imm.toNat % 8
    let o := s.opnds pt u v
    let x := s.loopSt c l
    let n := o.a.scalar
    let busy := x.queue.length + x.inbound.countP fun r => r.req.queues
    (v.op = .rotj → busy < 4 → ∀ tok, o.a = .tok tok →
      SendsRequest i s pt u v c l (.join tok pt u) (s.cu pt u).pos true) ∧
    (v.op = .rotx → busy < 4 →
      SendsRequest i s pt u v c l (.leave (n % 64) (n.testBit 6)) (s.nextPos pt u v) false) ∧
    (v.op = .roth → busy < 4 →
      SendsRequest i s pt u v c l (.hold (n % 64)) (s.nextPos pt u v) false) ∧
    (v.op = .rotr → busy < 4 →
      SendsRequest i s pt u v c l (.release (n % 64)) (s.nextPos pt u v) false) ∧
    (v.op ∈ [EOp.rotj, .rotx, .roth, .rotr] → 4 ≤ busy → exec i s = .next s) ∧
    (v.op = .rotp → SendsRequest i s pt u v c l (.probe pt u) (s.cu pt u).pos true)

/-- R43, R52, R54, R204 and R235: an instruction that consumes an input and finds one mark at every head it reads sends the
mark on its outputs, with POISON if any head has it, writes no S register, sets no flag, takes no control token and moves
on.

R235: a gate that holds the other value skips: the control token alone is consumed, nothing is sent or written, and
the position moves on, whatever its inputs hold but one mark at every head; with no token at the gate's port the unit
waits.  That marks with different numbers pass as the first, and that a skip waits for no input, is the model's choice (log entry
13). -/
def Obligations.MarksPassAndGatesSkip : Prop :=
  (∀ (i : Instr) (v : EView) (s : State) (pt : Nat) (u : Bool) (hs : List Token) (m : Token),
       elemView i = some v →
       v.op ∉ [EOp.halt, .merge, .steer, .gate, .rept, .reptc, .isect, .union, .oneos, .br, .brf, .jmp, .waitq, .loop] →
       s.cur = .cu pt u → s.cuReady pt u = true → s.heads pt u v = some hs → v.consumed ≠ [] →
       hs.head? = some m → (m.kind = .eos ∧ ∀ t ∈ hs, t.kind = .eos) ∨ (m.kind = .barrier ∧ ∀ t ∈ hs, t.kind = .barrier) →
       s.outsReady pt u v = true →
       ∃ t, exec i s = .next t ∧ t.flights = s.flights ++ sentOn pt u v.outs { m with poison := hs.any (·.poison) } ∧
         (t.cu pt u).flags = (s.cu pt u).flags ∧ LeavesUnit s t pt u v.consumed [] (s.nextPos pt u v) []) ∧
  (∀ (i : Instr) (v : EView) (s : State) (pt : Nat) (u : Bool),
       elemView i = some v →
       v.op ∉ [EOp.halt, .merge, .steer, .gate, .rept, .reptc, .isect, .union, .oneos, .br, .brf, .jmp, .jtab, .waitq,
         .loop] →
       s.cur = .cu pt u → s.cuReady pt u = true → (∀ hs, s.heads pt u v = some hs → v.markOf hs = none) →
       let q := s.ctlHead pt u (s.cu pt u).qgport
       ((v.m.qg = .qt ∧ q = some false) ∨ (v.m.qg = .qf ∧ q = some true) →
         Completes i s pt u [] [(s.cu pt u).qgport] (s.nextPos pt u v)) ∧
       (v.m.qg ≠ .none → q = none → exec i s = .next s))

/-- R399, R402 and R403: poison at a head travels in the result; a firing that would write a register or a control token
from it consumes it instead: nothing is sent, and the region's context is FAULTED with FCODE POISON.  So of every instruction
with a result, in each of its forms; of EMITQ and a condition that sends a control token; of a JTAB's index, a REPTC's count, and
a token that REPT, MERGE, STEER or GATE would pass to a register. -/
def Obligations.PoisonTravelsOrFaults : Prop :=
  (∀ (i : Instr) (d : Dst) (a b : Src) (s : State) (pt : Nat) (u : Bool) (hs : List Token) (c : Nat),
    (i = .add d a b ∨ i = .fadd d a b ∨ i = .xor d a b ∨ i = .sub d a b ∨ i = .mul d a b) →
    ∀ v, elemView i = some v → s.cur = .cu pt u → s.cuReady pt u = true → s.owner pt = some c →
    s.heads pt u v = some hs → v.markOf hs = none → v.mixed hs = false → s.outsReady pt u v = true → s.upset = 0 →
    (∃ t ∈ hs, t.poison = true) →
    ((∀ k, d ≠ .s k) → ∃ t p, exec i s = .next t ∧
      t.flights = s.flights ++ sentOn pt u v.outs { (resultToken p hs) with poison := true }) ∧
    (∀ k, d = .s k → PoisonFaults i s pt u c)) ∧
  (∀ (i : Instr) (v : EView) (s : State) (pt : Nat) (u : Bool) (hs : List Token) (c : Nat),
    elemView i = some v → i.wf = true → s.cur = .cu pt u → s.cuReady pt u = true → s.owner pt = some c → s.upset = 0 →
    s.heads pt u v = some hs → v.markOf hs = none → v.mixed hs = false →
    let gated := gate v.m.qg (s.ctlHead pt u (s.cu pt u).qgport) = .fire
    let ctl := v.op ∈ condOps ∧ natBits v.m.imm.toNat 2 2 ≠ 0
    let bad := ∃ t ∈ hs, t.poison = true
    let head (x : Src) : Prop := ∃ t, s.srcHead pt u x = some t ∧ t.isMark = false ∧ t.poison = true
    let port : Fin 4 := Fin.ofNat 4 (v.m.imm.toNat % 4)
    (v.op ∈ resultOps → gated → bad → s.outsReady pt u v = true → (ctl → s.canCtl pt u v.zp.val = true) →
      (writesS v = [] → ¬ctl → ∃ t tok, exec i s = .next t ∧ tok.poison = true ∧
        t.flights = s.flights ++ sentOn pt u v.outs tok) ∧
      (writesS v ≠ [] ∨ ctl → PoisonFaults i s pt u c)) ∧
    (v.op = .emitq → gated → bad → s.outsReady pt u v = true → s.canCtl pt u (natBits v.m.imm.toNat 6 2) = true →
      PoisonFaults i s pt u c) ∧
    (v.op = .jtab → bad → PoisonFaults i s pt u c) ∧
    (v.op = .reptc → (gated ∨ (s.cu pt u).reptDone ≠ 0) → head v.b → PoisonFaults i s pt u c) ∧
    (v.op = .rept → (gated ∨ (s.cu pt u).reptDone ≠ 0) → head v.a → v.sdest ≠ [] → s.outsReady pt u v = true →
      PoisonFaults i s pt u c) ∧
    (v.op = .merge → s.outsReady pt u v = true → v.sdest ≠ [] → ∀ b, s.ctlHead pt u port = some b →
      head (if b then v.a else v.b) → PoisonFaults i s pt u c) ∧
    (v.op = .steer → s.canEmit pt ((v.outs ++ [natBits v.m.imm.toNat 2 2]).dedup.map (outCode u)) = true → v.sdest ≠ [] →
      s.ctlHead pt u port = some true → head v.a → PoisonFaults i s pt u c) ∧
    (v.op = .gate → s.outsReady pt u v = true → v.sdest ≠ [] → s.ctlHead pt u port = some true → head v.a →
      PoisonFaults i s pt u c))

/-- R11, R21, R45, R101, R204: what no element instruction changes, in any form, when it answers a next state: memory,
other tiles, the tile's memory units, address generators, switch and accumulators, the other compute unit but for a port
that is tapped, the stored parcels, C registers and frame of its own unit, S registers that its entry does not name, the
X registers of every context, and every privileged register but the records that the machine keeps itself.  Flags are
only ever added, and not by the operations that set none. -/
def Obligations.ElementInstructionsFrame : Prop :=
  ∀ (i : Instr) (v : EView) (s t : State) (pt : Nat) (u : Bool),
    elemView i = some v → s.cur = .cu pt u → exec i s = .next t →
    SameMemory s t ∧ SameRegs s t recordRegs ∧
    (∀ c, (t.ctx c).xregs = (s.ctx c).xregs) ∧
    (∀ pt', pt' ≠ pt → t.tile pt' = s.tile pt') ∧
    (∀ x, t.mu pt x = s.mu pt x) ∧ (∀ x, t.ag pt x = s.ag pt x) ∧ (t.tile pt).sw = (s.tile pt).sw ∧
    (t.mx pt).acc = (s.mx pt).acc ∧ (t.mx pt).queue = (s.mx pt).queue ∧ (t.mx pt).running = (s.mx pt).running ∧
    (v.op ≠ .oclm → t.mx pt = s.mx pt) ∧
    { (t.cu pt (!u)) with ins := (s.cu pt (!u)).ins } = s.cu pt (!u) ∧
    (t.cu pt u).store = (s.cu pt u).store ∧ (t.cu pt u).cRegs = (s.cu pt u).cRegs ∧ (t.cu pt u).cfg = (s.cu pt u).cfg ∧
    (∀ k, k ∉ writesS v → (t.cu pt u).sRegs[k] = (s.cu pt u).sRegs[k]) ∧
    (s.cu pt u).flags &&& (t.cu pt u).flags = (s.cu pt u).flags ∧
    (v.op ∈ flagless → (t.cu pt u).flags = (s.cu pt u).flags)

/-! ### The matrix node and the address generators -/

/-- R113 to R116, R134, R252 and R253: MZERO and the MMA forms fire on their outputs and on no other entry: groups of 16
products of BF16 factors, or K-steps of residues, after MZERO's effect when ACC is 0; the slots they name are IN-USE.
The group sum of R114 and the K-step of R115 are the model's `accGroup` and `kstep`. -/
def Obligations.MatrixMultiplyResults : Prop :=
  ∀ (t : MxTok) (s : State) (pt : Nat),
    let fires (i : Instr) (op wa wb : Nat) (scaled : Bool) (f : Nat → Nat → AccEntry → AccEntry) : Prop :=
      MxHead s pt op t → SlotHolds (s.mx pt) t.aclm → SlotHolds (s.mx pt) t.bclm → s.burstHeld pt t = false →
      ∃ u, exec i s = .next u ∧ QueueMoved s u pt ∧
        UpdatesEntries s u pt t (fun m n a =>
          let r := f m n (if t.acc then a else {})
          { r with poison := r.poison || s.mxReadsMarked pt t wa wb scaled }) ∧
        (u.mx pt).running = (s.mx pt).running ++ [Decode.mxWord op t] ∧
        ∀ k : Fin 16, (u.mx pt).slots[k] =
          if k.val = t.aclm.toNat / 16 ∨ k.val = t.bclm.toNat / 16 then { (s.mx pt).slots[k] with st := .inUse }
          else (s.mx pt).slots[k]
    let float (weight : Nat → Nat → Nat) (m n : Nat) (a : AccEntry) : AccEntry :=
      (List.range (t.k / 16)).foldl (fun a g => accGroup a ((List.range 16).map fun j =>
        (s.mxA pt t 16 m (t.k0 + 16 * g + j), weight (t.k0 + 16 * g + j) n))) a
    let int (ty : Fmt) (w m n : Nat) (a : AccEntry) : AccEntry :=
      (List.range t.k).foldl (fun a k => a.kstep ty (s.mxA pt t w m (t.k0 + k)) (s.mxB pt t w (t.k0 + k) n)) a
    let scaled (f : Fmt) (k n : Nat) : Nat := (dequant f .bf16 (s.mxScale pt t k) (s.mxB pt t 4 k n)).1
    (MxHead s pt 0x00 t → ∃ u, exec (.mzero t) s = .next u ∧ QueueMoved s u pt ∧
      UpdatesEntries s u pt t (fun _ _ _ => {}) ∧
      (u.mx pt).running = (s.mx pt).running ++ [Decode.mxWord 0x00 t] ∧ (u.mx pt).slots = (s.mx pt).slots) ∧
    fires (.mmaBf16 t) 0x01 16 16 false (float (s.mxB pt t 16)) ∧
    fires (.mmaW4i t) 0x02 16 4 t.blk
      (float (if t.blk then scaled .mxint4 else fun k n => (dequant .int4 .bf16 0 (s.mxB pt t 4 k n)).1)) ∧
    fires (.mmaW4f t) 0x03 16 4 true (float (scaled .mxfp4)) ∧
    fires (.mmaI8 t) 0x04 8 8 false (int .int8 8) ∧
    fires (.mmaI4 t) 0x05 4 4 false (int .int4 4)

/-- R115, R116 and R252: the residue arithmetic is exact: after an integer MMA with ACC = 0, the fold of every touched
output holds the sum of its present products, and its count is their number. -/
def Obligations.IntegerMatrixSumsAreExact : Prop :=
  ∀ (ty : Fmt) (t : MxTok) (s u : State) (pt m n : Nat),
    (ty = .int8 ∨ ty = .int4) → t.acc = false → t.k ≤ 256 → m < t.m → n < t.n →
    let w := fmtWidth ty
    let op := if ty = .int8 then 0x04 else 0x05
    MxHead s pt op t → SlotHolds (s.mx pt) t.aclm → SlotHolds (s.mx pt) t.bclm → s.burstHeld pt t = false →
    exec (if ty = .int8 then .mmaI8 t else .mmaI4 t) s = .next u →
    let ks := (List.range t.k).filter fun k =>
      !(isAbsent ty (s.mxA pt t w m (t.k0 + k))) && !(isAbsent ty (s.mxB pt t w (t.k0 + k) n))
    let sum := (ks.map fun k => (BitVec.ofNat w (s.mxA pt t w m (t.k0 + k))).toInt *
      (BitVec.ofNat w (s.mxB pt t w (t.k0 + k) n)).toInt).sum
    ((u.mx pt).at (t.entry m n)).fold.value = BitVec.ofInt 32 sum ∧ ((u.mx pt).at (t.entry m n)).count = ks.length

/-- R116, R134, R136, R252 and R254: a drain waits for the entries ahead of it and then has the tokens of its rows to
send, each row in tokens of its own, with absent elements after column N - 1; an integer drain folds its entries first;
the release frees the slot of its claim. -/
def Obligations.MatrixDrainResults : Prop :=
  ∀ (op : Nat) (i : Instr) (t : MxTok) (s : State) (pt : Nat),
    (s.mx pt).running = [] → (s.mx pt).out = [] →
    (((op, i) ∈ [(0x08, Instr.mdrain t), (0x09, .mdrainMean t), (0x0A, .mcount t)] → MxHead s pt op t →
      let f : Fmt := if op = 0x0A then .int32 else if t.dfmt then .bf16 else if t.int then .int32 else .fp32
      let e := 512 / fmtWidth f
      let rows := (t.n + e - 1) / e
      ∃ u, exec i s = .next u ∧ QueueMoved s u pt ∧
        UpdatesEntries s u pt t (fun _ _ a => if t.int then a.fold else a) ∧
        (u.mx pt).out.length = t.m * rows ∧
        ∀ m r, m < t.m → r < rows → ∃ tok, (u.mx pt).out[m * rows + r]? = some tok ∧
          tok.kind = .data ∧ tok.slot = 0 ∧ tok.coord.toNat = m ∧
          ∀ j, j < e → elemAt tok.payload (fmtWidth f) j =
            if r * e + j < t.n then drainRule op t ((u.mx pt).at (t.entry m (r * e + j))) else absentOf f) ∧
    (MxHead s pt 0x1F t →
      (∀ k : Fin 16, k.val = t.aclm.toNat / 16 → (s.mx pt).slots[k].gen.toNat = t.aclm.toNat % 16 ∧
        (s.mx pt).slots[k].st ∈ [SlotSt.claimed, .filled, .inUse]) → ∃ u, exec (.matrixRelease t) s = .next u ∧ QueueMoved s u pt ∧
      (u.mx pt).acc = (s.mx pt).acc ∧ ∀ k : Fin 16, (u.mx pt).slots[k] =
        if k.val = t.aclm.toNat / 16 then { (s.mx pt).slots[k] with st := .free } else (s.mx pt).slots[k]))

/-- R135, R136, R182 and R414: a token at the head that breaks R182, or whose claim is not its slot's, faults the region's
context; one whose slot is still CLAIMED or FILLING changes nothing. -/
def Obligations.MatrixTokenChecks : Prop :=
  ∀ (op : Nat) (i : Instr) (t : MxTok) (s : State) (pt c : Nat) (w : Word64) (rest : List MxEntry),
    (op, i) ∈ [(0x01, Instr.mmaBf16 t), (0x02, .mmaW4i t), (0x03, .mmaW4f t), (0x04, .mmaI8 t), (0x05, .mmaI4 t)] →
    s.cur = .mx pt → s.active pt = true → s.owner pt = some c → (s.mx pt).queue = .tok w false :: rest →
    let ka : Fin 16 := Fin.ofNat 16 (t.aclm.toNat / 16)
    let x := (s.mx pt).slots[ka]
    (wfMxFields op t ≠ [] → ∃ u, exec i s = .next u ∧ (u.ctx c).st = .faulted ∧ (u.ctx c).fcode = 0x02) ∧
    (wfMxFields op t = [] → (x.gen.toNat ≠ t.aclm.toNat % 16 ∨ x.st = .free) →
      ∃ u, exec i s = .next u ∧ (u.ctx c).st = .faulted ∧ (u.ctx c).fcode = 0x03) ∧
    (wfMxFields op t = [] → x.gen.toNat = t.aclm.toNat % 16 → (x.st = .claimed ∨ x.st = .filling) →
      SlotHolds (s.mx pt) t.bclm → exec i s = .next s)

/-- R38, R194, R195, R252, R254 and R255: the node's own turns and a generator's: the oldest entry completes; the next
drain token leaves on producer 0x28; a mark leaves after every entry ahead of it; a generator sends the tuple of its start
index and level counters, and steps the counters, level 0 fastest.

R193: where a memory unit names the generator, its tokens go to that unit and not through the switch. -/
def Obligations.NodeAndGeneratorEvents : Prop :=
  ∀ (s : State) (pt : Nat),
    (∀ w rest, (s.mx pt).running = w :: rest → ∃ u, exec (.matrixEntryComplete pt) s = .next u ∧
      (u.mx pt).running = rest ∧ (u.mx pt).out = (s.mx pt).out ∧ (u.mx pt).acc = (s.mx pt).acc) ∧
    (∀ tok rest, (s.mx pt).out = tok :: rest → s.active pt = true → s.canEmit pt [0x28] = true →
      ∃ u, exec (.matrixDrainToken pt) s = .next u ∧ (u.mx pt).out = rest ∧
        u.flights = s.flights ++ [Flight.mk pt 0x28 tok]) ∧
    (∀ tok rest, (s.mx pt).queue = .mark tok :: rest → (s.mx pt).running = [] → (s.mx pt).out = [] →
      tok.mismatch = false → s.active pt = true → s.canEmit pt [0x28] = true →
      ∃ u, exec (.matrixMarkPass pt) s = .next u ∧ QueueMoved s u pt ∧
        u.flights = s.flights ++ [Flight.mk pt 0x28 tok] ∧ (u.mx pt).acc = (s.mx pt).acc) ∧
    (∀ g tok rest, s.active pt = true → (s.ag pt g).start = tok :: rest → s.agUsers pt g ≠ [] →
      (∀ x ∈ s.agUsers pt g, (s.mu pt x).tuples = []) → tok.residue = residueOf tok.payload →
      (tok.isMark = true ∨ (tok.poison = false ∧ s.upset = 0)) →
      ∃ u out, exec (.agTupleEmit pt g) s = .next u ∧ u.flights = s.flights ∧
        (∀ x ∈ s.agUsers pt g, (u.mu pt x).tuples = [out]) ∧ (tok.isMark = true → out = tok)) ∧
    (∀ g tok rest, s.active pt = true → (s.ag pt g).start = tok :: rest → s.agReady pt g = true →
      s.agUsers pt g = [] → ((s.tile pt).sw.dataOf (agOut g)).isEmpty = false → tok.residue = residueOf tok.payload →
      (tok.isMark = true → ∃ u, exec (.agTupleEmit pt g) s = .next u ∧ (u.ag pt g).start = rest ∧
        (u.ag pt g).levels = [] ∧ u.flights = s.flights ++ [Flight.mk pt (agOut g) tok]) ∧
      (tok.isMark = false → tok.poison = false → s.upset = 0 →
        let a := s.ag pt g
        let js := if a.levels = [] then List.replicate a.nlevels 0 else a.levels
        let coord (k : Nat) : BitVec 32 := BitVec.ofInt 32 (a.origin k + elemAt tok.payload 64 0 * a.istep k +
          ((List.range a.nlevels).map fun l => (js.getD l 0 : Int) * a.stepOf l k).sum)
        ∃ u out, exec (.agTupleEmit pt g) s = .next u ∧ u.flights = s.flights ++ [Flight.mk pt (agOut g) out] ∧
          out.kind = .data ∧ (0 < a.rank → out.coord = coord 0) ∧
          (∀ k, k < a.rank → elemAt out.payload 32 k = (coord k).toNat) ∧
          (∀ js', nextLevels a.bound 0 js = some js' → (u.ag pt g).start = a.start ∧ (u.ag pt g).levels = js') ∧
          (nextLevels a.bound 0 js = none → (u.ag pt g).start = rest ∧ (u.ag pt g).levels = [])))

/-! ### The counter and the fabric -/

/-- R38, R68, R69, R279 and R286: the region's counter sends NEXT to every generator that it feeds and steps it, and an
EOS at LIMIT, when nothing waits for the boundary; at a boundary a steal request of an earlier CYCLE takes the upper half of what
remains, a split cuts the range, and a posted barrier token is sent, with which a BARI that waits for no sink writes its XD; a
region without a step, or one that will run no more, replies with the empty range, and so to a request that came without a step. -/
def Obligations.IterationEvents : Prop :=
  ∀ (s : State) (c : Nat),
    let x := s.ctx c
    let fedWith (u : State) (t : Token) : Prop :=
      ∀ p ∈ s.fed c, (u.ag p.1 p.2).start = (s.ag p.1 p.2).start ++ [t]
    (s.fed c).Nodup → s.fedRoom c = true →
    (x.counting = true → x.reassign = false → x.steals = [] → x.barPend = [] → s.postDue c = false → x.next < x.limit →
      ∃ u, exec (.iterIndexIssue c) s = .next u ∧ (u.ctx c).next = x.next + 1 ∧ (u.ctx c).limit = x.limit ∧
        fedWith u (dataToken (BitVec.ofNat 512 (x.next % 2 ^ 64)) 0 0 false)) ∧
    (x.counting = true → x.reassign = false → x.steals = [] → x.barPend = [] → s.postDue c = false → x.limit ≤ x.next →
      ∃ u, exec (.iterEosSend c) s = .next u ∧ (u.ctx c).eosSent = true ∧ (u.ctx c).next = x.next ∧
        fedWith u { kind := .eos }) ∧
    (∀ thief rest, x.owed = thief :: rest → thief ≠ c →
      (x.st ∈ [CtxSt.faulted, .retired, .free] ∨ s.covered c x.stepNo .device = true) →
      ∃ u, exec (.stealRequestHandle c) s = .next u ∧ (u.ctx c).owed = rest ∧ (u.ctx c).steals = x.steals ∧
        (u.ctx c).limit = x.limit ∧ (u.ctx thief).stealGot = some (0, 0)) ∧
    (∀ came thief rest, x.owed = [] → x.steals = (came, thief) :: rest → thief ≠ c →
      (x.st ∈ [CtxSt.faulted, .retired, .free] ∨ (x.stepOn = false ∧ s.covered c x.stepNo .device = true)) →
      ∃ u, exec (.stealRequestHandle c) s = .next u ∧ (u.ctx c).steals = rest ∧ (u.ctx c).limit = x.limit ∧
        (u.ctx thief).stealGot = some (0, 0)) ∧
    (∀ came thief rest, x.owed = [] → x.steals = (came, thief) :: rest → thief ≠ c → came ≠ s.cycle → x.stepOn = true →
      x.st ∈ [CtxSt.running, .waiting, .draining] → s.covered c x.stepNo .device = true →
      (x.next + 2 ≤ x.limit → ∃ u, exec (.stealRequestHandle c) s = .next u ∧ (u.ctx c).steals = rest ∧
        (u.ctx c).limit = x.next + (x.limit - x.next + 1) / 2 ∧ (u.ctx c).next = x.next ∧
        (u.ctx thief).stealGot = some ((u.ctx c).limit, x.limit)) ∧
      (x.limit < x.next + 2 → ∃ u, exec (.stealRequestHandle c) s = .next u ∧ (u.ctx c).steals = rest ∧
        (u.ctx c).limit = x.limit ∧ (u.ctx thief).stealGot = some (0, 0))) ∧
    (∀ came rest d p, x.steals = (came, c) :: rest → x.hold = .split d p → x.st.fires = true →
      let mid := if x.stepOn then Nat.min (Nat.max p x.next) x.limit else x.limit
      ∃ u, exec (.splitApply c) s = .next u ∧ (u.ctx c).limit = mid ∧ (u.ctx c).steals = rest ∧
        (u.ctx c).hold = .none ∧ (u.ctx c).getX d = BitVec.ofNat 64 mid ∧
        (u.ctx c).getX (xnext d 1) = BitVec.ofNat 64 x.limit) ∧
    (∀ m rest, x.barPend = m :: rest → x.counting = true → x.steals = [] →
      ∃ u, exec (.bariInject c) s = .next u ∧ (u.ctx c).barPend = rest ∧ (u.ctx c).next = x.next ∧
        (u.ctx c).barOut = x.barOut ++ [(m, [])] ∧ fedWith u (barrierToken m) ∧
        ∀ d, x.hold = .bari m false d → (u.ctx c).hold = .none ∧ (u.ctx c).getX d = BitVec.ofNat 64 m ∧
          (u.ctx c).pc = x.pc + x.holdLen)

/-- R22, R26 to R31, R190, R192, R397, R400 and R401: a token that leaves a switch box goes to every entry of its input,
with the entry's ROUTE and its sub-words drawn by the pattern; a token that enters a data input joins its buffer, with
poison when its residue is wrong; a wrong ROUTE or KIND leaves it where it is and faults the region's context.

R28, R30, R31 and R50: an elastic buffer passes its head on when every buffer beyond has a credit; a freed entry's
return gives its producer a credit back; a control token joins its buffer.

R39, R40 and R85: the step ends, and the region's timeline steps by 1, as the last sink, an input of a compute unit or the request
input of a memory unit, receives its EOS, if every loop that rotates has stopped. -/
def Obligations.TokensTravel : Prop :=
  (∀ (s : State) (pt c : Nat), s.active pt = true → s.owner pt = some c →
       (∀ (i : BitVec 6) tok rest, takeFlight pt i.toNat s.flights = some (tok, rest) → tok.mismatch = false →
         (if i.toNat < 0x20 then checkToken (s.driver pt i.toNat true) tok else checkKind tok) = none →
         let es := (s.tile pt).sw.dataOf i.toNat
         let out (e : Parcel) : Token := (s.tile pt).sw.through e tok
         ∃ u, exec (.switchHop pt i) s = .next u ∧
           u.arriving = s.arriving ++ es.filterMap (fun e =>
             match destBuf pt (fld e 20 6), neighbour pt (fld e 20 6 / 8) with
             | some b, _ => some (b, out e)
             | none, some q => if s.isElastic q (arrivalCode (fld e 20 6))
                 then some (.elastic q (BitVec.ofNat 6 (arrivalCode (fld e 20 6))), out e) else none
             | none, none => none) ∧
           u.flights = rest ++ es.filterMap (fun e =>
             match destBuf pt (fld e 20 6), neighbour pt (fld e 20 6 / 8) with
             | none, some q => if s.isElastic q (arrivalCode (fld e 20 6)) then none
                 else some (Flight.mk q (arrivalCode (fld e 20 6)) (out e))
             | _, _ => none) ∧
           ∀ e, (out e).route.toNat = fld e 5 12 ∧ (out e).coord = tok.coord ∧ (out e).slot = tok.slot ∧
             (out e).poison = tok.poison ∧ (out e).mismatch = false ∧
             (fld e 17 3 = 0 → (out e).payload = tok.payload) ∧
             (fld e 17 3 ≠ 0 → tok.kind = .data → ∀ j, j < 8 → elemAt (out e).payload 64 j =
               elemAt tok.payload 64 (fld (tgetD (s.tile pt).sw.patterns (fld e 17 3) 0) (3 * j) 3))) ∧
       (∀ u' (k : Fin 6) tok rest, takeArriving (.cuIn pt u' k) s.arriving = some (tok, rest) →
         s.slotPort pt u' k.val = none →
         let e := s.driver pt (cuCode u' k.val) false
         let cu := s.cu pt u'
         (checkToken e tok = none → (cu.ins[k]).length < 4 → (cu.mask k.val).getLsbD 2 = false →
           ∃ u, exec (.tokenArrive (.cuIn pt u' k)) s = .next u ∧ u.arriving = rest ∧
             (u.cu pt u').ins[k] = cu.ins[k] ++
               [⟨{ tok with poison := tok.poison || tok.residue != residueOf tok.payload }, cu.mask k.val⟩]) ∧
         (checkToken e tok ≠ none → ∃ u, exec (.tokenArrive (.cuIn pt u' k)) s = .next u ∧ u.arriving = s.arriving ∧
           (u.ctx c).st = .faulted ∧ (u.ctx c).fcode = 0x09)) ∧
       (∀ tok rest, takeArriving (.mu pt false) s.arriving = some (tok, rest) → (s.mu pt false).buf.length < 4 →
         checkToken (s.driver pt 0x2D false) tok = none →
         ∃ u, exec (.tokenArrive (.mu pt false)) s = .next u ∧ u.arriving = rest ∧
           (u.mu pt false).buf = (s.mu pt false).buf ++ [tok])) ∧
  (∀ (s : State) (pt : Nat),
       (∀ (i : BitVec 6) tok rest, s.elasticOf (.elastic pt i) = tok :: rest → s.canEmit pt [i.toNat] = true →
         ∃ u, exec (.elasticBufferPass (.elastic pt i)) s = .next u ∧ u.elasticOf (.elastic pt i) = rest ∧
           u.flights = s.flights ++ [Flight.mk pt i.toNat tok] ∧
           bufCount u.returns (.elastic pt i) = bufCount s.returns (.elastic pt i) + 1) ∧
       (∀ (i : BitVec 6) v rest, s.elasticCtlOf (.elasticCtl pt i) = v :: rest →
         (s.reachCtl maxHops pt i.toNat).all s.credit = true →
         ∃ u, exec (.elasticBufferPass (.elasticCtl pt i)) s = .next u ∧ u.elasticCtlOf (.elasticCtl pt i) = rest ∧
           u.ctlArriving = s.ctlArriving ++ (s.reachCtl maxHops pt i.toNat).map fun b => CtlFlight.mk b v) ∧
       (∀ q n, bufCount s.returns q = n + 1 →
         ∃ u, exec (.bufferSlotReturn q) s = .next u ∧ bufCount u.returns q = n ∧
           bufCount u.used q = bufCount s.used q - 1 ∧ ∀ q', q' ≠ q → bufCount u.used q' = bufCount s.used q') ∧
       (∀ u' (k : Fin 4) v rest, takeCtl (.cuQ pt u' k) s.ctlArriving = some (v, rest) → (s.cu pt u').qs[k].length < 4 →
         ∃ u, exec (.controlTokenArrive (.cuQ pt u' k)) s = .next u ∧ u.ctlArriving = rest ∧
           (u.cu pt u').qs[k] = (s.cu pt u').qs[k] ++ [v])) ∧
  (∀ (s : State) (pt c key : Nat) (q : BufId) (tok : Token) (rest : List (BufId × Token)),
       s.active pt = true → s.owner pt = some c → takeArriving q s.arriving = some (tok, rest) → tok.kind = .eos →
       checkToken (s.driver pt (bufCode q) false) tok = none → key = sinkKey pt (bufCode q) →
       ((∃ u' k, q = .cuIn pt u' k ∧ s.slotPort pt u' k.val = none ∧ (s.cu pt u').ins[k] = [] ∧ s.portOf pt u' k = (u', 0) ∧
           (s.cu pt u').mask k.val = 1) ∨ (∃ u', q = .mu pt u' ∧ (s.mu pt u').buf = [])) →
       let x := s.ctx c
       key ∈ x.sinks → tgetD x.stale key 0 = 0 → x.stepOn = true → (∀ z ∈ x.sinks, z = key ∨ z ∈ x.sinksDone) →
       (∀ l ∈ x.loops, l.2.running = true → l.2.stopped = true) →
       ∃ u, exec (.tokenArrive q) s = .next u ∧ (u.ctx c).stepOn = false ∧ (u.ctx c).stepNo = x.stepNo + 1 ∧
         (u.ctx c).timeline = (x.timeline + 1) % 2 ^ 64 ∧ (u.ctx c).sinksDone = [])

/-! ### Controllers -/

/-- R274: the scalar operations on 64-bit words, in both forms: IMM8 is sign-extended for ADD, SUB, MUL, MIN and MAX and
zero-extended for the others; nothing but XD and the sequencer changes. -/
def Obligations.ScalarArithmetic : Prop :=
  ∀ (s : State) (c : Nat) (w : CtlP2) (d a b : XReg) (imm : BitVec 8), Issues s c w →
    let gives (i : Instr) (v : Word64) : Prop := CompletesAt i s c ((s.ctx c).pc + 2) [(d, v)]
    let x := (s.ctx c).getX a
    let y := (s.ctx c).getX b
    let si : Word64 := imm.signExtend 64
    let zi : Word64 := imm.zeroExtend 64
    let least (p q : Word64) : Word64 := if p.toInt ≤ q.toInt then p else q
    let most (p q : Word64) : Word64 := if p.toInt ≤ q.toInt then q else p
    let left (q : Word64) : Word64 := BitVec.ofNat 64 (x.toNat * 2 ^ (q.toNat % 64))
    let right (q : Word64) : Word64 := BitVec.ofNat 64 (x.toNat / 2 ^ (q.toNat % 64))
    let arith (q : Word64) : Word64 := BitVec.ofInt 64 (x.toInt / 2 ^ (q.toNat % 64))
    (gives (.ctlAdd d a b w) (x + y) ∧ gives (.ctlAddImm d a imm w) (x + si)) ∧
    (gives (.ctlSub d a b w) (x - y) ∧ gives (.ctlSubImm d a imm w) (x - si)) ∧
    (gives (.ctlAnd d a b w) (x &&& y) ∧ gives (.ctlAndImm d a imm w) (x &&& zi)) ∧
    (gives (.ctlOr d a b w) (x ||| y) ∧ gives (.ctlOrImm d a imm w) (x ||| zi)) ∧
    (gives (.ctlXor d a b w) (x ^^^ y) ∧ gives (.ctlXorImm d a imm w) (x ^^^ zi)) ∧
    (gives (.ctlShl d a b w) (left y) ∧ gives (.ctlShlImm d a imm w) (left zi)) ∧
    (gives (.ctlShr d a b w) (right y) ∧ gives (.ctlShrImm d a imm w) (right zi)) ∧
    (gives (.ctlSar d a b w) (arith y) ∧ gives (.ctlSarImm d a imm w) (arith zi)) ∧
    (gives (.ctlMul d a b w) (BitVec.ofNat 64 (x.toNat * y.toNat)) ∧
      gives (.ctlMulImm d a imm w) (BitVec.ofNat 64 (x.toNat * si.toNat))) ∧
    (gives (.ctlMin d a b w) (least x y) ∧ gives (.ctlMinImm d a imm w) (least x si)) ∧
    (gives (.ctlMax d a b w) (most x y) ∧ gives (.ctlMaxImm d a imm w) (most x si))

/-- R196, R273, R275 and R276: literals, branches, calls and returns, the jump through a table to a labelled landing pad
with its two traps, the pad itself and NOP #0. -/
def Obligations.LiteralsAndBranches : Prop :=
  ∀ (s : State) (c : Nat) (w : CtlP2) (d a b : XReg) (imm : BitVec 8) (lit : Parcel) (label : BitVec 10), Issues s c w →
    let x := s.ctx c
    let p := x.getX a
    let q := x.getX b
    let goes (i : Instr) (taken : Bool) : Prop := CompletesAt i s c (if taken then lit.toNat else x.pc + 3) []
    (CompletesAt (.li d w lit) s c (x.pc + 3) [(d, lit.signExtend 64)] ∧
      CompletesAt (.liHigh d w lit) s c (x.pc + 3) [(d, BitVec.ofNat 64 (lit.toNat * 2 ^ 32 + (x.getX d).toNat % 2 ^ 32))]) ∧
    (goes (.beq a b w lit) (p == q) ∧ goes (.bne a b w lit) (p != q) ∧
      goes (.blt a b w lit) (decide (p.toInt < q.toInt)) ∧ goes (.bge a b w lit) (decide (q.toInt ≤ p.toInt)) ∧
      goes (.bltu a b w lit) (decide (p.toNat < q.toNat)) ∧ goes (.bgeu a b w lit) (decide (q.toNat ≤ p.toNat)) ∧
      goes (.b w lit) true) ∧
    CompletesAt (.call d w lit) s c lit.toNat [(d, BitVec.ofNat 64 (x.pc + 3))] ∧
    (p.toNat < 2 ^ 32 → CompletesAt (.ret a w) s c p.toNat []) ∧
    (2 ^ 32 ≤ p.toNat → isSupId c = false → TrapsWith (.ret a w) s c causeUnassigned) ∧
    (CompletesAt (.ctlLpad label w) s c (x.pc + 2) [] ∧ CompletesAt (.ctlNop w) s c (x.pc + 2) []) ∧
    (q.toNat % 2 = 0 →
      let goal := (parcelAt x (q.toNat + 2 * p.toInt.toNat + 1)).toNat
      let pad := parcelAt x goal = BitVec.ofNat 32 (0x45400000 + (parcelAt x (q.toNat + 2 * p.toInt.toNat)).toNat % 1024)
      (0 ≤ p.toInt → p.toInt < imm.toNat → pad → CompletesAt (.ctlJtab a b imm w) s c goal []) ∧
      (isSupId c = false → 0 ≤ p.toInt → p.toInt < imm.toNat → ¬pad → TrapsWith (.ctlJtab a b imm w) s c causeLpad) ∧
      (isSupId c = false → (p.toInt < 0 ∨ imm.toNat ≤ p.toInt) → TrapsWith (.ctlJtab a b imm w) s c causeBound))

/-- R65, R66, R268, R271, R273 and R314: the wait field of a command holds it until the semaphore has reached WTHR, which
WC subtracts; the signal field adds SINC once what its scope covers is done, and waits until then; a waiting context whose
condition has come true goes on; an event wait consumes one start.

R65, R66 and R268: the wake of a WAITING context: READY for a region, RUNNING for an engine context or a supervisor,
and it does not wait for the same thing again; with a pre-emption pending the condition is recorded, and it waits for the
halt.

R271: within a CYCLE increments come before waits: one that reaches a semaphore on which a wait has been tested in this
CYCLE is applied when the CYCLE ends, which is how the model ranks them (log entry 16). -/
def Obligations.WaitsAndSignals : Prop :=
  (∀ (s : State) (c : Nat) (w : CtlP2), s.cur = .ctl c → (s.ctx c).runs = true → (s.ctx c).hold = .none →
       (s.ctx c).ownDone = false →
       let x := s.ctx c
       let cl := s.homeCl c
       let n := s.sem cl w.wsem.toNat
       let m := s.sem cl w.ssem.toNat
       let k : WaitCond := .sem w.wsem.toNat w.wthr.toNat w.wc w.scope
       (x.waitDone = false → w.wthr ≠ 0 → n < w.wthr.toNat → s.condTurn c k = true →
         ∃ t, exec (.ctlNop w) s = .next t ∧ t.ctx c = { x with st := .waiting, waitFor := k } ∧ LeavesRest s t c ∧
           t.clusters = s.clusters) ∧
       (x.waitDone = false → w.wthr.toNat ≤ n → s.teamOut c cl w.wsem.toNat = none → s.condTurn c k = true → w.sinc = 0 →
         CompletesAt (.ctlNop w) s c (x.pc + 2) [] fun t =>
           t.sem cl w.wsem.toNat = if w.wc then n - w.wthr.toNat else n) ∧
       (x.waitDone = true → w.sinc ≠ 0 → s.covered c x.stepNo w.scope = true → s.teamOut c cl w.ssem.toNat = none →
         s.semTurn cl w.ssem.toNat (semPlace 2 0) = true →
         CompletesAt (.ctlNop w) s c (x.pc + 2) [] fun t =>
           t.sem cl w.ssem.toNat = min (m + w.sinc.toNat) 0xFFFF ∧
           (0xFFFF < m + w.sinc.toNat → isSupId c = false → (t.ctx c).trapped = some causeUnassigned ∧ (t.ctx c).trapAfter = true)) ∧
       (x.waitDone = true → w.sinc ≠ 0 → s.covered c x.stepNo w.scope = true →
         s.semTurn cl w.ssem.toNat (semPlace 2 0) = false →
         CompletesAt (.ctlNop w) s c (x.pc + 2) [] fun t => t.sem cl w.ssem.toNat = m ∧
           (t.cl cl).late = (s.cl cl).late ++ [(w.ssem.toNat, w.sinc.toNat, c, x.info)]) ∧
       (x.waitDone = true → w.sinc ≠ 0 → s.covered c x.stepNo w.scope = false →
         CompletesAt (.ctlNop w) s c (x.pc + 2) [] fun t =>
           t.sem cl w.ssem.toNat = m ∧
           (t.ctx c).rel = x.rel ++ [⟨x.stepNo, w.scope, .inc w.ssem.toNat w.sinc.toNat x.info⟩]) ∧
       (x.waitDone = true → 0 < x.starts →
         CompletesAt (.ctlNopEventWait w) s c (x.pc + 2) [] fun t => (t.ctx c).starts = x.starts - 1) ∧
       (x.waitDone = true → x.starts = 0 → WaitsFor (.ctlNopEventWait w) s c .start)) ∧
  (∀ (s : State) (c k thr : Nat) (sub : Bool) (sc : Scope), (s.ctx c).st = .waiting → (s.ctx c).trapped = none →
       (s.ctx c).waitFor = .sem k thr sub sc → s.teamOut c (s.homeCl c) k = none → s.condTurn c (.sem k thr sub sc) = true →
       let x := s.ctx c
       let n := s.sem (s.homeCl c) k
       (thr ≤ n → ∃ t, exec (.contextWake c) s = .next t ∧
         (t.ctx c).st = (if x.preempt ≠ none then .waiting else if isRegionId c then .ready else .running) ∧
         (t.ctx c).waitFor = .none ∧ (t.ctx c).pc = x.pc ∧ (t.ctx c).waitDone = true ∧
         (x.waitDone = true → (t.ctx c).ownDone = true ∧ (t.ctx c).ownVal = n) ∧
         (t.sem (s.homeCl c) k = if sub then n - thr else n) ∧ ∀ e, e ≠ c → t.ctx e = s.ctx e) ∧
       (n < thr → exec (.contextWake c) s = .next s))

/-- R38, R41, R55 to R58, R68, R69, R273, R277 to R279 and R286: the region commands, and the wait of CFG and RUN for the
end of the previous step.

R17, R277 and R416: a command that only a region may issue traps in an engine context, with cause UNASSIGNED. -/
def Obligations.RegionCommands : Prop :=
  (∀ (s : State) (c : Nat) (w : CtlP2) (d a b : XReg) (imm : BitVec 8), Issues s c w → isRegionId c = true →
       let x := s.ctx c
       let p := (x.getX a).toNat
       (∀ l la, InLaunch s c l la → p % 40 = 0 → p ≤ la.cfg.length →
         (x.stepOn = false → x.quiet = true → Holds (.cfg a w) s c w .load fun t =>
           (t.ctx c).st = .loading ∧ (t.ctx c).loading = some (p, 0, false) ∧ LeavesRest s t c) ∧
         ((x.stepOn = true ∨ x.quiet = false) → WaitsFor (.cfg a w) s c (.idle true))) ∧
       (x.stepOn = false → ∃ t, exec (.run a b w) s = .next t ∧ (t.ctx c).pc = x.pc + 2 ∧ (t.ctx c).next = p ∧
         (t.ctx c).limit = (x.getX b).toNat ∧ (t.ctx c).stepOn = true ∧ (t.ctx c).eosSent = false ∧
         (t.ctx c).sinksDone = [] ∧ (t.ctx c).runSignal = some (signalOf x w) ∧ t.tiles = s.tiles) ∧
       (x.stepOn = true → WaitsFor (.run a b w) s c (.idle false)) ∧
       CompletesAt (.iter d w) s c (x.pc + 2)
         [(xnext d 1, BitVec.ofNat 64 x.limit), (d, BitVec.ofNat 64 x.next)] ∧
       (x.stepOn = false → CompletesAt (.split d a w) s c (x.pc + 2)
         [(xnext d 1, BitVec.ofNat 64 x.limit), (d, BitVec.ofNat 64 x.limit)]) ∧
       (x.stepOn = true → (∀ q ∈ x.steals, q.1 ≤ s.cycle ∧ q.2 ≠ c) → Holds (.split d a w) s c w (.split d p) fun t =>
         (t.ctx c).steals = x.steals.filter (fun q => q.1 < s.cycle) ++ [(s.cycle, c)] ++
           x.steals.filter (fun q => q.1 = s.cycle) ∧ LeavesRest s t c) ∧
       (Holds (.ctlDrain w) s c w (.drain s.cycle) fun t => (t.ctx c).st = .draining ∧ LeavesRest s t c) ∧
       (Holds (.endCmd w) s c w (.ending false s.cycle) fun t => (t.ctx c).st = .running ∧ LeavesRest s t c) ∧
       (Holds (.ctlHalt w) s c w (.ending true s.cycle) fun t => (t.ctx c).st = .running ∧ LeavesRest s t c) ∧
       (let m := (x.mark + 1) % 2 ^ 32
        Holds (.bari d imm w) s c w (.bari m (imm.getLsbD 0) d) fun t => (t.ctx c).xregs = x.xregs ∧
          (t.ctx c).mark = m ∧ (t.ctx c).barPend = x.barPend ++ [m] ∧ LeavesRest s t c) ∧
       (∀ l la, InLaunch s c l la → isRegionId p = true → p ≠ c → (p ∈ la.regions ∨ (s.ctx p).launch = some l) →
         let y := s.ctx p
         (∀ lo hi, x.stealSent = true → x.stealGot = some (lo, hi) → CompletesAt (.steal d a w) s c (x.pc + 2)
           [(xnext d 1, BitVec.ofNat 64 hi), (d, BitVec.ofNat 64 lo)]) ∧
         (x.stealSent = false → (y.st ∈ [CtxSt.faulted, .retired, .free] ∨ y.launch ≠ some l ∨
             (y.stepOn = false ∧ s.covered p y.stepNo .device = true)) →
           CompletesAt (.steal d a w) s c (x.pc + 2) [(xnext d 1, 0), (d, 0)]) ∧
         (x.stealSent = false → x.stealGot = none → y.stepOn = true → y.launch = some l →
           y.st ∉ [CtxSt.faulted, .retired, .free] → (∀ q ∈ y.steals, q.1 < s.cycle) →
           ∃ t, exec (.steal d a w) s = .next t ∧ (t.ctx c).st = .waiting ∧ (t.ctx c).stealSent = true ∧
             (t.ctx p).steals = y.steals ++ [(s.cycle, c)] ∧ t.tiles = s.tiles) ∧
         (x.stealSent = false → x.stealGot = none → y.stepOn = false → s.covered p y.stepNo .device = false →
           y.launch = some l → y.st ∉ [CtxSt.faulted, .retired, .free] →
           ∃ t, exec (.steal d a w) s = .next t ∧ (t.ctx c).st = .waiting ∧ (t.ctx c).stealSent = true ∧
             (t.ctx p).owed = y.owed ++ [c] ∧ t.tiles = s.tiles))) ∧
  (∀ (s : State) (c : Nat) (w : CtlP2) (d a b : XReg) (imm : BitVec 8), Issues s c w → isRegionId c = false →
       isSupId c = false → ∀ i ∈ [Instr.cfg a w, .run a b w, .steal d a w, .split d a w, .iter d w, .ctlDrain w, .bari d imm w,
         .rotsv a imm w], TrapsWith i s c causeUnassigned)

/-- R63, R273, R280 and R281: FORK starts a program in every context that it names, RDV waits for their ends and reads
which of them halted, and END and HALT end a program. -/
def Obligations.EnginePrograms : Prop :=
  ∀ (s : State) (c : Nat) (w : CtlP2) (d a b : XReg), Issues s c w →
    let x := s.ctx c
    (∀ (e off arg k : Nat),
      let ts := s.forkTargets c 0 (x.getX a)
      let bs := s.codeBytes c
      let tbl := (x.getX b).toNat
      let entry (j o : Nat) : Nat := natOfBytes ((bs.drop (tbl + 8 * j + o)).take 4)
      Released s c w.scope → x.getX a ≠ 0 → tbl + 8 * ts.length ≤ bs.length →
      (∀ j, j < ts.length → entry j 0 % 4 = 0 ∧ entry j 0 < bs.length) → (∀ t ∈ ts, (s.ctx t).st = .free) →
      ts[k]? = some e → entry k 0 = off → entry k 4 = arg →
      ∃ t, exec (.fork d a b 0 w) s = .next t ∧ (t.ctx c).pc = x.pc + 2 ∧ (t.ctx c).forkNo = x.forkNo + 1 ∧
        (t.ctx c).getX d = BitVec.ofNat 64 (x.forkNo + 1) ∧ t.tiles = s.tiles ∧
        (t.ctx e).st = .running ∧ (t.ctx e).pc = 0 ∧ (t.ctx e).code = codeFrom bs off ∧
        (t.ctx e).getX 0 = BitVec.ofNat 64 c ∧ (t.ctx e).getX 1 = BitVec.ofNat 64 arg ∧
        (∀ r : XReg, 2 ≤ r.val → (t.ctx e).getX r = 0) ∧ (t.ctx e).forker = c) ∧
    (∀ f, x.forks.find? (fun f => f.number == (x.getX a).toNat) = some f → f.joined = false →
      (∀ m, f.mask = some m → CompletesAt (.rdv d a w) s c (x.pc + 2) [(d, BitVec.ofNat 64 m)]) ∧
      (f.mask = none → WaitsFor (.rdv d a w) s c (.joined (x.getX a).toNat w.scope))) ∧
    (isRegionId c = false → isSupId c = false →
      ∀ p ∈ [(Instr.endCmd w, false), (.ctlHalt w, true)], ∃ t, exec p.1 s = .next t ∧ (t.ctx c).st = .free ∧
        (t.ctx c).halted = p.2 ∧ t.tiles = s.tiles ∧
        ∀ f ∈ (t.ctx x.forker).forks, f.number = x.underFork → ∀ r ∈ f.progs, r.1 = c → r.2 = (true, p.2))

/-- R8, R64, R272, R273 and R282: EVTC writes an element of the issuer's crossbar, which acts from the next CYCLE with its
reserved bits at 0: a counter keeps its count unless CLEAR is 1; a start that a rising output causes is counted by its
target.

R64, R273 and R282: a start that has risen reaches the context that its output names, a region or a copy-engine
context of the output's cluster, which counts it. -/
def Obligations.EventCrossbar : Prop :=
  (∀ (s : State) (c : Nat) (w : CtlP2) (a b : XReg) (imm : BitVec 8), Issues s c w → w.sinc = 0 →
       let x := s.ctx c
       let cl := s.homeCl c
       let n := (x.getX a).toNat
       let v := x.getX b
       (evtOk n v = true → (isSupId c || s.launchOn c cl) = true →
         CompletesAt (.evtc a b imm w) s c (x.pc + 2) [] fun t =>
           (t.cl cl).xbar = { (s.cl cl).xbar with writes := (s.cl cl).xbar.writes ++ [(n, v, imm)] }) ∧
       (isSupId c = false → evtOk n v = false → TrapsWith (.evtc a b imm w) s c causeUnassigned)) ∧
  (∀ (s : State) (rest : List Turn) (cl n : Nat) (v : Word64) (imm : BitVec 8), s.sched = .tick 1 :: rest →
       s.shutdown = false → s.found = [] → (∀ p ∈ s.clusters, p.2.late = []) →
       (s.cl cl).xbar.writes = [(n, v, imm)] → n < 176 →
       let kept (k : Nat) : Word64 := v &&& BitVec.ofNat 64 (2 ^ k - 1)
       ∃ t, Sys2Proof.Machine.step s = .next t ∧ (t.cl cl).xbar.writes = [] ∧
         let y := (t.cl cl).xbar
         (n < 64 → tget y.inputs n = some (kept 11)) ∧
         (64 ≤ n → n < 96 → tget y.counters (n - 64) = some (kept 24) ∧ tgetD y.counts (n - 64) 0 =
           if bit v 23 then 0 else tgetD (s.cl cl).xbar.counts (n - 64) 0) ∧
         (96 ≤ n → n < 112 → tget y.terms (n - 96) = some (v, imm)) ∧
         (112 ≤ n → tget y.outputs (n - 112) = some (kept 25))) ∧
  (∀ (s : State) (cl out : Nat) (v : Word64), out ∈ (s.cl cl).xbar.rising → tget (s.cl cl).xbar.outputs out = some v →
       let e := cl / 6 * 8192 + cl % 6 * 1024 + (if bit v 17 then fld v 18 7 else 128 + fld v 18 7)
       ∃ t, exec (.eventStart cl out) s = .next t ∧ (t.cl cl).xbar.rising = (s.cl cl).xbar.rising.erase out ∧
         ((t.ctx e).starts = if (s.ctx e).starts < 255 then (s.ctx e).starts + 1 else (s.ctx e).starts) ∧
         (∀ k, k ≠ e → t.ctx k = s.ctx k) ∧ t.tiles = s.tiles)

/-- R271, R272, R283, R284 and R314: the semaphore and timeline commands, for a semaphore whose team is not swapped out
that nothing else has reached in this CYCLE and for which no other context waits, and with an empty signal field. -/
def Obligations.SemaphoresAndTimelines : Prop :=
  ∀ (s : State) (c : Nat) (w : CtlP2) (d a b : XReg) (imm : BitVec 8), Issues s c w → w.sinc = 0 →
    s.teamOut c (s.homeCl c) imm.toNat = none →
    ((s.cl (s.homeCl c)).semAt ≠ s.cycle ∨ tgetD (s.cl (s.homeCl c)).semOps imm.toNat 0 = 0) →
    s.semFirst c (s.homeCl c) imm.toNat false = true →
    let x := s.ctx c
    let cl := s.homeCl c
    let v := x.getX a
    let n := s.sem cl imm.toNat
    let after (ws : List (XReg × Word64)) (i : Instr) (m : Nat) : Prop :=
      CompletesAt i s c (x.pc + 2) ws fun t => t.sem cl imm.toNat = m ∧ (t.ctx c).timeline = x.timeline
    (fld v 0 16 ≠ 0 → fld v 17 47 = 0 → fld v 0 16 ≤ n →
      after [(d, BitVec.ofNat 64 n)] (.semw d a imm w) (if bit v 16 then n - fld v 0 16 else n)) ∧
    (fld v 0 16 ≠ 0 → fld v 17 47 = 0 → n < fld v 0 16 →
      WaitsFor (.semw d a imm w) s c (.sem imm.toNat (fld v 0 16) (bit v 16) w.scope)) ∧
    (v.toNat < 2 ^ 16 → s.covered c x.stepNo w.scope = true →
      after [] (.sems a imm w) (if v = 0 then n else min (n + v.toNat) 0xFFFF)) ∧
    after [] (.semset a imm w) (v.toNat % 2 ^ 16) ∧
    after [(d, BitVec.ofNat 64 n)] (.semrd d imm w) n ∧
    (s.covered c x.stepNo w.scope = true → CompletesAt (.tla imm w) s c (x.pc + 2) [] fun t =>
      (t.ctx c).timeline = (x.timeline + imm.toNat) % 2 ^ 64) ∧
    (let e := if imm = 1 then c else (x.getX b).toNat % 2 ^ 16
     (imm = 1 ∨ (isRegionId e = true ∧ (s.ctx e).launch ≠ none ∧ (s.ctx e).launch = x.launch) ∨
         (isCopyId e = true ∧ s.launchOn c (idDie e * 6 + idCluster e) = true)) →
      CompletesAt (.tlrd d b imm w) s c (x.pc + 2) [(d, BitVec.ofNat 64 (s.ctx e).timeline)] ∧
      (v.toNat ≤ (s.ctx e).timeline → CompletesAt (.tlw a b imm w) s c (x.pc + 2) []) ∧
      ((s.ctx e).timeline < v.toNat → WaitsFor (.tlw a b imm w) s c (.timeline e v.toNat w.scope)))

/-- R61, R62, R263, R264, R285, R287, R302 and R349: membership, and one arrival at a group's barrier word, which the last
expected member turns over; BARGW waits for the phase to differ from XA[0]; a posted migration begins at the arrival.  The
arrival of a member that is not expected in this phase is held until the next; while no other member's is held. -/
def Obligations.GroupBarriers : Prop :=
  ∀ (s : State) (c l : Nat) (la : Launch) (w : CtlP2) (d a : XReg) (imm : BitVec 8), Issues s c w → InLaunch s c l la →
    (∀ m ∈ (la.group imm.toNat).members, (s.ctx m).waitFor ≠ .expected l imm.toNat) →
    let x := s.ctx c
    let g := imm.toNat
    let y := la.group g
    let inUse := c ∈ y.members ∧ bit (BitVec.ofNat 4 y.use) 0 = true
    (c ∉ y.members → none ∈ x.members.toList → y.members.length < 4096 →
      CompletesAt (.grpj imm w) s c (x.pc + 2) [] fun t => (t.group l g).members = y.members ++ [c] ∧
        some g ∈ (t.ctx c).members.toList) ∧
    (CompletesAt (.grpl imm w) s c (x.pc + 2) [] fun t => c ∉ (t.group l g).members ∧
      some g ∉ (t.ctx c).members.toList) ∧
    (inUse → c ∉ y.expect → Released s c w.scope → WaitsFor (.barga d imm w) s c (.expected l g)) ∧
    (inUse → c ∈ y.expect → c ∉ y.arrived → Released s c w.scope → fld y.word 49 15 = 0 →
      fld y.word 0 24 < fld y.word 24 24 → w.sinc = 0 →
      ∃ t, exec (.barga d imm w) s = .next t ∧ (t.ctx c).pc = x.pc + 2 ∧
        (∀ k, (t.ctx c).getX k = x.withX [(d, y.word)] k) ∧
        (t.ctx c).st = (if x.migr = none then .running else .migrating) ∧ LeavesRest s t c ∧
        let z := t.group l g
        z.members = y.members ∧
        (fld y.word 0 24 + 1 < fld y.word 24 24 → z.arrived = y.arrived ++ [c] ∧ z.expect = y.expect ∧
          fld z.word 0 24 = fld y.word 0 24 + 1 ∧ fld z.word 24 25 = fld y.word 24 25) ∧
        (fld y.word 0 24 + 1 = fld y.word 24 24 → z.arrived = [] ∧ z.expect = y.members ∧ fld z.word 0 24 = 0 ∧
          fld z.word 24 24 = y.members.length % 2 ^ 24 ∧ bit z.word 48 = !(bit y.word 48))) ∧
    (inUse → c ∈ y.expect → (c ∈ y.arrived ∨ fld y.word 24 24 ≤ fld y.word 0 24) → Released s c w.scope → isSupId c = false →
      ∃ t, exec (.barga d imm w) s = .next t ∧ (t.ctx c).st = .faulted ∧ (t.ctx c).fcode = 0x07) ∧
    (inUse → bit y.word 48 ≠ bit (x.getX a) 0 → CompletesAt (.bargw a imm w) s c (x.pc + 2) []) ∧
    (inUse → bit y.word 48 = bit (x.getX a) 0 →
      WaitsFor (.bargw a imm w) s c (.phase l g (bit (x.getX a) 0) w.scope)) ∧
    (¬inUse → isSupId c = false →
      TrapsWith (.barga d imm w) s c causeUnassigned ∧ TrapsWith (.bargw a imm w) s c causeUnassigned)

/-- R288 to R298: a copy or collective command that its checks allow is accepted while its engine context holds fewer than
16 operations and what the issuer's release covers is done: its number is one more than the last, counted from the first
fork of the context in its launch, and goes to XD; a copy's promise goes to XD + 1. -/
def Obligations.EngineCommands : Prop :=
  ∀ (s : State) (c : Nat) (w : CtlP2) (d a : XReg) (imm : BitVec 8), Issues s c w → Released s c w.scope →
    let x := s.ctx c
    let e := s.homeCl c / 6 * 8192 + s.homeCl c % 6 * 1024 + 128 + imm.toNat % 64
    (∀ p ∈ [(Instr.copy d a imm w, 0), (.copyg d a imm w, 1), (.copyf d a imm w, 2), (.copyq d a imm w, 4)],
      copyCheck (s.copyOp c a p.2 w imm) = true → (s.ctx e).openOps < 16 →
      ∃ t o, exec p.1 s = .next t ∧ (t.ctx c).pc = x.pc + 2 ∧ t.tiles = s.tiles ∧ SameMemory s t ∧
        (t.ctx e).accepted = (s.ctx e).accepted + 1 ∧ (t.ctx e).ops = (s.ctx e).ops ++ [o] ∧
        o.num = (s.ctx e).accepted + 1 ∧ o.fn = p.2 ∧ o.issuer = c ∧ o.done = false ∧
        o.desc = (List.range 6).map (fun k => x.getX (xnext a k)) ∧
        ∀ k, (t.ctx c).getX k = x.withX [(xnext d 1, BitVec.ofNat 64 o.promise), (d, BitVec.ofNat 64 (o.num - (s.ctx e).opBase))] k) ∧
    (isSupId c = false →
      ∀ p ∈ [(Instr.copy d a imm w, 0), (.copyg d a imm w, 1), (.copyf d a imm w, 2), (.copyq d a imm w, 4)],
        copyCheck (s.copyOp c a p.2 w imm) = false → TrapsWith p.1 s c causeUnassigned) ∧
    (∀ p ∈ [(Instr.collAllred d a imm w, CollFn.allred), (.collAllgath d a imm w, .allgath),
        (.collRedscat d a imm w, .redscat), (.collBcast d a imm w, .bcast), (.collScan d a imm w, .scan),
        (.collMaxidx d a imm w, .maxidx)],
      let o := s.collDesc c a p.2 w
      let k := s.homeCl c / 6 * 8192 + 7 * 1024 + cCctx o.desc
      CollAllowed s c imm.toNat p.2 o → (s.ctx k).openOps < 16 →
      ∃ t, exec p.1 s = .next t ∧ (t.ctx c).pc = x.pc + 2 ∧ t.tiles = s.tiles ∧ SameMemory s t ∧
        (t.ctx k).accepted = (s.ctx k).accepted + 1 ∧
        ∀ r, (t.ctx c).getX r = x.withX [(d, BitVec.ofNat 64 ((s.ctx k).accepted + 1 - (s.ctx k).opBase))] r) ∧
    (let n := (x.getX a).toNat + (s.ctx e).opBase
     1 ≤ (x.getX a).toNat → n ≤ (s.ctx e).accepted →
      (s.operDone e n = true → CompletesAt (.prom a imm w) s c (x.pc + 2) []) ∧
      (s.operDone e n = false → WaitsFor (.prom a imm w) s c (.oper e n w.scope)))

/-- R299, R313, R381 and R448: QSEND sends the bytes that it names on to a queue with a free entry, QRECV takes the head
entry, and QPEEK reads it: consumed poison where the head is poisoned, and a fault with LINK where the queue's die cannot
be reached; an entry arrives behind those that stand in the queue.

R299, R402, R446 and R448: the oldest entry on its way joins its queue; one that was not delivered intact is
poisoned. -/
def Obligations.DieQueues : Prop :=
  (∀ (s : State) (c : Nat) (w : CtlP2) (d a b : XReg) (imm : BitVec 8) (f : Fmt) (ps : List Spot), Issues s c w →
       s.raceOn (s.homeCl c) = false →
       let x := s.ctx c
       let die := imm.toNat / 16 % 8
       let q := imm.toNat % 16
       let y := s.dieQueue die q
       let bind := s.reg die 0x52 q
       (s.queueSpots c (x.getX a) (x.getX b) true = some (f, ps) → bit bind 63 = true → fld bind 16 16 = c →
         y.entries.length + y.inbound.length < 64 → Released s c w.scope →
         Holds (.qsend a b imm w) s c w .qsend fun t =>
           let e := s.queueRead c f ps
           (t.dieQueue die q).inbound = y.inbound ++ [(e.1, e.2, c)] ∧ LeavesRest s t c) ∧
       (∀ bs ms rest, s.queueSpots c (x.getX a) (x.getX b) false = some (f, ps) → bit bind 63 = true → fld bind 0 16 = c →
         y.entries = (bs, ms) :: rest → true ∉ ms.take 8 → s.queueReach c die = true →
         ∃ t, exec (.qrecv d a b imm w) s = .next t ∧ (t.ctx c).pc = x.pc + 2 ∧ (t.dieQueue die q).entries = rest ∧
           (∀ k, (t.ctx c).getX k = x.withX [(d, BitVec.ofNat 64 (natOfBytes (bs.take 8)))] k) ∧
           t.spad = (s.queueWrite c f ps (bs, ms)).spad ∧ t.mem = s.mem ∧ t.tiles = s.tiles) ∧
       (bit bind 63 = true → (fld bind 0 16 = c ∨ fld bind 16 16 = c) →
         let marked := ∃ e rest, y.entries = e :: rest ∧ true ∈ e.2.take 8
         let faults (code : Nat) : Prop := ∃ t, exec (.qpeek d imm w) s = .next t ∧ (t.ctx c).st = .faulted ∧
           (t.ctx c).fcode = code ∧ (t.ctx c).xregs = x.xregs ∧ SameMemory s t
         (s.queueReach c die = true → ¬marked →
           CompletesAt (.qpeek d imm w) s c (x.pc + 2) [(xnext d 1, BitVec.ofNat 64 y.entries.length),
             (d, match y.entries with | [] => -1 | e :: _ => BitVec.ofNat 64 (natOfBytes (e.1.take 8)))]) ∧
         (isSupId c = false → s.queueReach c die = true → marked → faults 0x08) ∧
         (isSupId c = false → s.queueReach c die = false → faults 0x20))) ∧
  (∀ (s : State) (die q c : Nat) (bs : List Byte) (ms : List Bool) (rest : List (List Byte × List Bool × Nat)),
       (s.dieQueue die q).inbound = (bs, ms, c) :: rest → s.queueReach c die = true →
       (∃ t, exec (.dieQueueEntryArrive die q false) s = .next t ∧ (t.dieQueue die q).inbound = rest ∧
         (t.dieQueue die q).entries = (s.dieQueue die q).entries ++ [(bs, ms)] ∧ t.ctxs = s.ctxs ∧ t.tiles = s.tiles) ∧
       (s.homeCl c / 6 ≠ die → ∃ t, exec (.dieQueueEntryArrive die q true) s = .next t ∧
         (t.dieQueue die q).inbound = rest ∧
         (t.dieQueue die q).entries = (s.dieQueue die q).entries ++ [(bs, List.replicate 256 true)]))

/-- R41, R87 to R91, R300, R301, R303, R335 and R338: ROTSV asks for a save into the lines that it names, ROTLD loads a
record into a loop that may take it, MAPSEL asks for a rung once the stage's region has ended its step and is quiescent, and
waits for that, and PIPE reads the state of a stage's queue. -/
def Obligations.RotationAndPipelineCommands : Prop :=
  ∀ (s : State) (c : Nat) (w : CtlP2) (d a b : XReg) (imm : BitVec 8), Issues s c w →
    let x := s.ctx c
    let p := x.getX a
    let q := x.getX b
    (∀ ls, isRegionId c = true → s.loopEntry c (imm.toNat % 8) ≠ none → fld p 8 24 = 0 →
      s.recordLines c (fld p 0 8) (fld p 32 32) (64 + 72 * (2 * s.loopSlots c (imm.toNat % 8) + 4)) 2 = some ls →
      Holds (.rotsv a imm w) s c w (.rotsv (imm.toNat % 8)) fun t =>
        t.loopOf c (imm.toNat % 8) = { s.loopOf c (imm.toNat % 8) with save := some (c, fld p 0 8, fld p 32 32) } ∧
          t.tiles = s.tiles) ∧
    (∀ r m, s.rotldRead c p q = some (r, m) →
      let e := fld q 32 16
      let l := fld q 48 3
      s.rotldTarget c e = true → s.loopEntry e l ≠ none → (s.loopOf e l).takesLoad = true → (s.loopOf e l).saves = false →
      r.fits m (s.loopSlots e l) = true → s.raceOn (s.homeCl c) = false →
      ∃ t, exec (.rotld a b w) s = .next t ∧ (t.ctx c).pc = x.pc + 2 ∧ (t.ctx c).xregs = x.xregs ∧
        t.loopOf e l = (s.loopOf e l).loaded r m (s.loopSlots e l) ∧ t.tiles = s.tiles ∧ SameMemory s t) ∧
    (∀ l la st, InLaunch s c l la → la.stages[p.toNat]? = some st → p.toNat < 256 → imm.toNat < st.rungs.length →
      st.target = none →
      let y := s.ctx (la.stageCtx st)
      (y.stepOn = false → y.quiet = true → Holds (.mapsel a imm w) s c w (.mapsel p.toNat) fun t =>
        (∃ la', tget t.launches l = some la' ∧
          la'.stages[p.toNat]? = some { st with target := some imm.toNat, soft := true }) ∧ LeavesRest s t c) ∧
      (y.stepOn = true ∨ y.quiet = false →
        WaitsFor (.mapsel a imm w) s c (if la.stageCtx st = c then .idle true else .idleAt (la.stageCtx st)))) ∧
    (∀ l la st, InLaunch s c l la → la.stages[fld p 0 8]? = some st → st.cap ≠ 0 →
      CompletesAt (.pipe d a w) s c (x.pc + 2) [(d, BitVec.ofNat 64 (s.occ (la.stageCtx st) st + st.cap * 2 ^ 16 +
        st.cur * 2 ^ 32 + b2n st.wide * 2 ^ 34 + b2n st.narrow * 2 ^ 35))])

/-- R32, R122, R304, R305, R372, R416 and R418: TRAP and SYSC trap with what they carry, TRAP behind the command and SYSC
at it; registers of the user view are read and written; the layout view is written and read through the staging words;
ENRD reads an energy counter and CYC the cycle counter, which a die may count up to 2 behind. -/
def Obligations.SystemCommands : Prop :=
  ∀ (s : State) (c : Nat) (w : CtlP2) (d a : XReg) (imm : BitVec 8), Issues s c w → w.sinc = 0 →
    let x := s.ctx c
    let v := x.getX a
    let raised (t : State) (e : TrapEnt) : Prop := TrapEntered s t (s.ctxDie c) e
    (isSupId c = false →
      (∃ t, exec (.trap imm w) s = .next t ∧ (t.ctx c).pc = x.pc + 2 ∧ (t.ctx c).trapped = some 0 ∧
        (t.ctx c).xregs = x.xregs ∧ LeavesRest s t c ∧
        raised t { cause := 0, ctx := c, info := imm.zeroExtend 64 }) ∧
      Holds (.sysc d a imm w) s c w (.sysc d) fun t => (t.ctx c).trapped = some 1 ∧ (t.ctx c).xregs = x.xregs ∧
        LeavesRest s t c ∧ raised t { cause := 1, ctx := c, info := v }) ∧
    (∀ u, s.readUser c imm.toNat = some u → CompletesAt (.rds d imm w) s c (x.pc + 2) [(d, u)]) ∧
    (isSupId c = true → s.readUser c imm.toNat = none → isSupReg imm.toNat = true →
      CompletesAt (.rds d imm w) s c (x.pc + 2)
        [(d, s.readReg (idDie c) imm.toNat (s.selected (idDie c) imm.toNat))]) ∧
    (isSupId c = false → s.readUser c imm.toNat = none → isSupReg imm.toNat = true →
      TrapsWith (.rds d imm w) s c causePriv ∧ TrapsWith (.wrs a imm w) s c causePriv) ∧
    (isSupId c = true → imm.toNat ∈ [0x40, 0x44, 0x57] → tget s.sampled (hostKey (idDie c) imm.toNat 0) ≠ some s.cycle →
      ∃ t, exec (.wrs a imm w) s = .next t ∧ (t.ctx c).pc = x.pc + 2 ∧ t.reg (idDie c) imm.toNat 0 = v ∧
        t.tiles = s.tiles ∧ SameMemory s t ∧ ∀ die num inst, num < 256 → inst < 4096 →
          (die, num, inst) ≠ (idDie c, imm.toNat, 0) → t.reg die num inst = s.reg die num inst) ∧
    (isRegionId c = true →
      (∀ k : Fin 8, imm.toNat = 0x18 + k.val → CompletesAt (.wrs a imm w) s c (x.pc + 2) [] fun t =>
        (t.ctx c).lts[k] = v ∧ ∀ j : Fin 8, j ≠ k → (t.ctx c).lts[j] = x.lts[j]) ∧
      (CompletesAt (.ltwrite a w) s c (x.pc + 2) [] fun t =>
        (∀ k : Fin 8, ((t.ctx c).lt (v.toNat % 256)).getD k.val 0 = x.lts[k] &&&
          (if k = 0 then 0x01FFFFFFFFFFFFFF else if k = 1 then 0x0FF00000FF000707 else if k = 7 then 0 else -1)) ∧ ∀ n, n ≠ v.toNat % 256 → (t.ctx c).lt n = x.lt n) ∧
      (CompletesAt (.ltfetch a w) s c (x.pc + 2) [] fun t =>
        ∀ k : Fin 8, (t.ctx c).lts[k] = (x.lt (v.toNat % 256)).getD k.val 0)) ∧
    ((let e := v.toNat % 65536
      (isSupId c = true ∨ e = c ∨ e = 0) → CompletesAt (.enrd d a w) s c (x.pc + 2) [(d, BitVec.ofNat 64 (s.ctx e).energy)])) ∧
    ∃ k, k ≤ 2 ∧ CompletesAt (.cyc d w) s c (x.pc + 2) [(d, BitVec.ofNat 64 (s.cycle - k))]

/-- R389, R395, R417 and R419: the supervisor enters the handler of the head trap at XVEC + 4 · CAUSE with its registers
as they were; RETT lets the held context go on as its cause says, and the supervisor stands again where the trap had
interrupted it: after PROMISE the command goes on waiting, with no deadline where XB is 0; after FAULT the context stays
FAULTED, is rolled back if it is replayable, or is retired, with which it leaves its groups and its collectives fail. -/
def Obligations.TrapsAreServedAndReturned : Prop :=
  ∀ (s : State) (die : Nat), die < 8 →
    let c := supId die
    (∀ e rest, (s.die die).traps = e :: rest → (s.die die).up = true → (s.die die).serving = none →
      (s.ctx c).st ≠ .free →
      ∃ t, exec (.trapDelivery die) s = .next t ∧ (t.die die).serving = some e ∧
        (t.die die).resume = some (s.ctx c).seqPos ∧
        (t.die die).traps = rest ++ (s.die die).waiting.take 1 ∧ (t.ctx c).st = .running ∧
        (t.ctx c).pc = (s.reg die 0x40 0).toNat + 4 * e.cause ∧ (t.ctx c).hold = .none ∧
        (t.ctx c).xregs = (s.ctx c).xregs ∧ (∀ k, k ≠ c → t.ctx k = s.ctx k) ∧ t.tiles = s.tiles) ∧
    (∀ (w : CtlP2) (a b : XReg) (e : TrapEnt) (p : SeqPos), Issues s c w → w.sinc = 0 → (s.die die).serving = some e →
      (s.die die).resume = some p → ((s.ctx c).getX a).toNat % 65536 = e.ctx → isSupId e.ctx = false → e.unit = none →
      let x := s.ctx e.ctx
      let v := (s.ctx c).getX b
      let returns (P : State → Prop) : Prop := ∃ t, exec (.rett a b w) s = .next t ∧ (t.die die).serving = none ∧
        (t.ctx c).pc = p.pc ∧ (t.ctx c).st = p.st ∧ (t.ctx c).hold = p.hold ∧ P t
      (x.st = .running →
      (e.cause = causeUser → v.toNat < 2 → returns fun t => t.ctx e.ctx = { x with trapped := none, trapAfter := false }) ∧
      (e.cause ∈ [causeUnassigned, causePriv, causeBound, causeLpad] → x.trapAfter = false →
        (v = 0 → returns fun t => (t.ctx e.ctx).trapped = none ∧ (t.ctx e.ctx).pc = x.pc + x.skipLen ∧
          (t.ctx e.ctx).xregs = x.xregs) ∧
        (v = 1 → returns fun t => t.ctx e.ctx = { x with trapped := none, trapAfter := false })) ∧
      (∀ d, e.cause = causeSysc → x.hold = .sysc d → x.holdSig.inc = 0 → returns fun t => (t.ctx e.ctx).trapped = none ∧
        (t.ctx e.ctx).getX d = v ∧ (t.ctx e.ctx).pc = x.pc + x.holdLen) ∧
      (e.cause ∈ [causeUser, causeUnassigned, causePriv, causeBound, causeLpad, causePromise] → v = 2 → isSupId e.ctx = false →
        returns fun t => (t.ctx e.ctx).st = .faulted)) ∧
      (x.st = .waiting → e.cause = causePromise →
        (v.toNat < 2 → returns fun t =>
          t.ctx e.ctx = { x with trapped := none, trapAfter := false, noDeadline := decide (v = 0) }) ∧
        (v = 2 → returns fun t => (t.ctx e.ctx).st = .faulted ∧ (t.ctx e.ctx).fcode = 0x06)) ∧
      (x.st = .faulted → e.cause = causeFault → e.xlate = false →
        (v = 0 → returns fun t => t.ctx e.ctx = x) ∧
        (v = 1 → s.replayable e.ctx = true → returns fun t => (t.ctx e.ctx).st = .loading ∧ (t.ctx e.ctx).fcode = 0 ∧
          ∃ off, x.image = some off ∧ (t.ctx e.ctx).loading = some (off, 0, false)) ∧
        (v = 1 → s.replayable e.ctx = false → returns fun t => t.ctx e.ctx = x) ∧
        (v = 2 → returns fun t => (t.ctx e.ctx).st = (if isRegionId e.ctx then .retired else .free) ∧
          (∀ l la g, InLaunch s e.ctx l la → some g ∈ x.members.toList → e.ctx ∉ (t.group l g).members) ∧
          ∀ k co, s.coll k = some co → e.ctx ∈ co.members →
            (co.entries.length = co.members.length ∧ ∀ y ∈ co.entries, y.done = true) ∨
            ∃ co', t.coll k = some co' ∧ co'.failed = true)))

/-- R12, R65, R306, R307, R332, R342, R343, R348 and R388: the supervisor's commands on a region that they may name, one that
the placement table holds, and for REST a FREE one.  The layout of an image's body, by which SAVE writes and REST finds it, and
what a RESM does while other regions stand on its tiles are the model's choice (log entry 23); so is it that MIGR's anchor is a
physical tile, that an image goes to the tile that its id names, and that MIGR to the present anchor cancels (log entry 54).

R12, R304, R306 and R416: a command of the supervisor's group, and RETT, trap with cause PRIV in user mode. -/
def Obligations.SupervisorCommands : Prop :=
  (∀ (s : State) (c e : Nat) (w : CtlP2) (d a b : XReg) (imm : BitVec 8), Issues s c w → isSupId c = true →
       ((s.ctx c).getX a).toNat = e → isRegionId e = true →
       let x := s.ctx e
       let v := ((s.ctx c).getX b).toNat
       (s.finds e = true →
       (x.st.halting = true → Holds (.susp a w) s c w (.susp e) fun t =>
         (t.ctx e).preempt = some (x.preempt.getD s.cycle) ∧ (t.ctx e).suspBy = 1 ∧ (t.ctx e).st = x.st ∧ t.tiles = s.tiles) ∧
       (x.st = .suspended → s.resumable e = false →
         ∃ t, exec (.resm d a w) s = .next t ∧ (t.ctx e).st = .suspended ∧ (t.ctx e).suspBy = 0 ∧
           (t.ctx c).pc = (s.ctx c).pc + 2 ∧ (t.ctx c).getX d = 1 ∧ t.tiles = s.tiles) ∧
       (x.st = .suspended → s.resumable e = true → x.off = false → x.haltSt ≠ .waiting → x.pendRett = [] → x.rel = [] →
         ∃ t, exec (.resm d a w) s = .next t ∧ (t.ctx e).st = .ready ∧ (t.ctx e).suspBy = 0 ∧ (t.ctx e).preempt = none ∧
           (t.ctx c).pc = (s.ctx c).pc + 2 ∧ (t.ctx c).getX d = 0 ∧ t.tiles = s.tiles) ∧
       (s.mayMigrate e (v % 128) = true → v % 128 ≠ x.place.anchor → ∃ t, exec (.migr a b w) s = .next t ∧
         (t.ctx e).migr = some (v % 128) ∧ (t.ctx c).pc = (s.ctx c).pc + 2 ∧ t.tiles = s.tiles) ∧
       (v % 128 = x.place.anchor → ∃ t, exec (.migr a b w) s = .next t ∧
         (t.ctx e).migr = (if x.st = .migrating then x.migr else none) ∧
         (t.ctx c).pc = (s.ctx c).pc + 2 ∧ t.tiles = s.tiles) ∧
       (∀ im, x.st = .suspended → x.off = true → s.imageOf e = some im → v % 64 = 0 →
         ∃ t n, exec (.save a b w) s = .next t ∧ tget t.written s.nextImage = some { im with ctx := x } ∧ t.ctx e = x ∧
           t.mem = memPut s.mem v (({ im with ctx := x } : Saved).header n ++ natBytes s.nextImage 8 ++
             Config.imageBody s.nextImage) ∧
           (t.ctx c).pc = (s.ctx c).pc + 2 ∧ t.tiles = s.tiles)) ∧
       (∀ im, let p := s.idPlace e
         x.st = .free → e ≠ 0 → v % 64 = 0 → s.imageAt v = some im → s.crowdOk e p = true →
         s.rectFree none p im.ctx.width im.ctx.height = true → s.l1Agrees im.feature (some e) (p.die * 6 + p.cluster) = true →
         ∃ t, exec (.rest a b w) s = .next t ∧ (t.ctx e).st = .suspended ∧ (t.ctx e).off = false ∧
           (t.ctx e).savedAt = none ∧ (t.ctx e).xregs = im.ctx.xregs ∧ (t.ctx e).pc = im.ctx.pc ∧
           (t.ctx e).place = p ∧ (t.ctx c).pc = (s.ctx c).pc + 2 ∧
           ∀ (k pt : Nat) (tl : Tile), (rectOf p im.ctx.width im.ctx.height)[k]? = some pt → im.tiles[k]? = some tl →
             (t.tile pt).cu0 = tl.cu0 ∧ (t.tile pt).cu1 = tl.cu1 ∧ (t.tile pt).sw = tl.sw) ∧
       (let die := if imm.getLsbD 2 then none else some (idDie c)
        s.usedBy die (imm.toNat % 4) ((s.ctx c).getX a) true = [] →
        Holds (.tlbi a imm w) s c w (s.tlbiHold die (imm.toNat % 4) ((s.ctx c).getX a)) fun t =>
         (∀ k, ∀ n ∈ tgetD t.clTlb k [], n ∈ tgetD s.clTlb k []) ∧ (imm.toNat % 4 = 0 →
           ∀ k, (imm.getLsbD 2 = true ∨ k / 6 = idDie c) → tgetD t.clTlb k [] = []) ∧ LeavesRest s t c)) ∧
  (∀ (s : State) (c : Nat) (w : CtlP2) (d a b : XReg) (imm : BitVec 8), Issues s c w → isSupId c = false →
       ∀ i ∈ [Instr.susp a w, .resm d a w, .migr a b w, .save a b w, .rest a b w, .tlbi a imm w, .rett a b w],
         TrapsWith i s c causePriv)

/-! ### Events of contexts, engines and launches -/

/-- R65 to R67, R340 and R341: dispatch of the context whose turn it is (the highest class first, in rotation), the decision to pre-empt, the halt at a firing boundary, and the image leaving the
tiles and being written on.  HALTCYC is what the region's die reads as CYCLE (R32, R33).  How age raises a class, and when a
suspended context begins to wait, is the model's choice (log entry 55); so is it what becomes of the tiles that an image
leaves (log entry 53). -/
def Obligations.SchedulerEvents : Prop :=
  ∀ (s : State) (c : Nat),
    let x := s.ctx c
    (s.inTurn c = true →
      (x.loading = none → (∀ n, x.hold ≠ .drain n) → ∃ t, exec (.schedulerDispatch c) s = .next t ∧
        t.ctx c = { x with st := .running, dispatched := s.cycle } ∧ (∀ e, e ≠ c → t.ctx e = s.ctx e)) ∧
      (∀ n, x.loading = none → x.hold = .drain n → ∃ t, exec (.schedulerDispatch c) s = .next t ∧
        (t.ctx c).st = .draining ∧ (t.ctx c).hold = .drain s.cycle) ∧
      (∀ off k f, x.loading = some (off, k, f) → ∃ t, exec (.schedulerDispatch c) s = .next t ∧
        (t.ctx c).st = .loading ∧ (t.ctx c).loading = some (off, 0, f))) ∧
    (∀ h, s.mayPreempt c h = true → s.inTeam h = false → ∃ t, exec (.preemptDecision c h) s = .next t ∧
      (t.ctx h).preempt = some s.cycle ∧ (t.ctx h).suspBy = 0 ∧ (t.ctx h).st = (s.ctx h).st) ∧
    (x.preempt ≠ none → x.st ∈ [CtxSt.ready, .loading, .running, .waiting, .draining] →
      ∃ t, exec (.contextHalt c) s = .next t ∧ (t.ctx c).st = .suspended ∧ (t.ctx c).haltSt = x.st ∧
        (t.ctx c).haltCyc = s.dieCycle x.place.die ∧ (t.ctx c).pc = x.pc ∧ (t.ctx c).xregs = x.xregs ∧ t.tiles = s.tiles) ∧
    (isRegionId c = true → x.st = .suspended → x.off = false → s.accessesDone c = true → s.tiles.wf = true →
      ∃ t, exec (.saveStaged c) s = .next t ∧ (t.ctx c).off = true ∧ (t.ctx c).preempt = none ∧
        tget t.staged c = some (s.takeImage c (s.featureOf c)) ∧ (t.ctx c).xregs = x.xregs ∧
        ∀ pt ∈ x.tiles, t.tile pt = {}) ∧
    (∀ im, tget s.staged c = some im → s.staged.wf = true → x.st = .suspended → s.savePa x.place.die c ≠ 0 →
      ∃ t, exec (.saveWritten c) s = .next t ∧ tget t.staged c = none ∧
        tget t.written s.nextImage = some { im with ctx := x } ∧
        t.ctx c = { x with savedAt := some (s.savePa x.place.die c) })

/-- R66, R343, R346, R349 and R376: a waiting context that may stand on a free rectangle is READY there with its registers;
a migration ends on its target; a RETIRED region becomes FREE.

R344 to R346: a swap unit is swapped out whole, with its owned semaphores, for a waiter that one of its members holds
up, and comes back whole once every member may stand where it was. -/
def Obligations.ContextsLeaveAndReturn : Prop :=
  (∀ (s : State) (c : Nat),
       let x := s.ctx c
       (∀ p im, s.imageOf c = some im → x.waitsTiles = true → x.suspBy = 0 →
         s.mayStand im.feature (some c) p x.width x.height = true → s.crowdOk c p = true →
         s.firstFor c (rectOf p x.width x.height) = true → x.haltSt ≠ .waiting → x.rel = [] → x.pendRett = [] →
         ∃ t, exec (.contextResume c p) s = .next t ∧ (t.ctx c).st = .ready ∧ (t.ctx c).place = p ∧ (t.ctx c).off = false ∧
           (t.ctx c).xregs = x.xregs ∧ (t.ctx c).pc = x.pc ∧ (t.ctx c).readyAt = s.cycle) ∧
       (∀ a, x.st = .migrating → x.migr = some a → s.accessesDone c = true → s.touched c = false →
         ∃ t, exec (.migrationComplete c) s = .next t ∧ (t.ctx c).st = .ready ∧ (t.ctx c).migr = none ∧
           (t.ctx c).place = { x.place with anchor := a } ∧ (t.ctx c).xregs = x.xregs ∧ (t.ctx c).pc = x.pc) ∧
       (isRegionId c = true → x.st = .retired → s.accessesDone c = true → s.ctxs.wf = true →
         ∃ t, exec (.contextReclaim c) s = .next t ∧ t.ctx c = {} ∧ tget t.retired c = some x.halted ∧
           let asked := x.owed ++ x.steals.map (·.2)
           ∀ e, e ≠ c → (e ∉ asked → t.ctx e = s.ctx e) ∧ (e ∈ asked → (t.ctx e).stealGot = some (0, 0)))) ∧
  (∀ (s : State) (l g : Nat) (la : Launch), tget s.launches l = some la → (la.group g).team = true →
       let gs := la.swapUnit g
       let ms := la.unitRegions gs
       ((∀ k ∈ gs, (la.group k).out = false) → (∀ m ∈ ms, (s.ctx m).st ≠ .migrating) →
         (∃ m ∈ ms, ∃ w ∈ s.ctxs, s.mayPreempt w.1 m = true) →
         ∃ t, exec (.teamSwapOut l g) s = .next t ∧ (t.group l g).out = true ∧
           ∀ m ∈ ms, (s.ctx m).st.holding = true → (t.ctx m).preempt = some s.cycle ∧ (t.ctx m).suspBy = 2) ∧
       ((la.group g).out = true →
         (∀ m ∈ ms, (s.ctx m).swapped = true → ∃ im, s.imageOf m = some im ∧ (s.ctx m).waitsTiles = true ∧
           s.mayStand im.feature (some m) (s.ctx m).place (s.ctx m).width (s.ctx m).height = true ∧
           s.crowdOk m (s.ctx m).place = true ∧ s.firstFor m (s.ctx m).rect = true) →
         ∃ t, exec (.teamSwapIn l g) s = .next t ∧ (t.group l g).out = false ∧
           (gs = [g] → la.unitMembers gs = ms → (∀ m ∈ ms, (s.ctx m).swapped = false) →
             ∀ k ∈ (la.group g).sems, t.sem (la.group g).cluster k = tgetD (la.group g).image k 0)))

/-- R33, R335, R337, R338 and R370: at a multiple of 1000 of the die's CYCLE the samples of a stage's queue count towards a
posting at three quarters and one quarter of its capacity; a reassignment stops the region's counter behind a new mark, and
loads the rung once the region is quiet; a rung that RUNGCAP no longer permits is not loaded.  That a reassignment without a
step waits for the next RUN, but for MAPSEL's, and that a MAPSEL waits for RUNGCAP, is the model's choice (log entry 22). -/
def Obligations.PipelineEvents : Prop :=
  ∀ (s : State) (l k : Nat) (la : Launch) (g : Stage), tget s.launches l = some la → la.stages[k]? = some g →
    let c := la.stageCtx g
    let x := s.ctx c
    (s.dieCycle (s.ctxDie c) % 1000 = 0 → tget s.sampled (pipeKey l) ≠ some s.cycle → g.cap ≠ 0 →
      ∃ t la' g', exec (.pipeSample l) s = .next t ∧ tget t.launches l = some la' ∧ la'.stages[k]? = some g' ∧
        g'.cur = g.cur ∧ g'.high = (if 3 * g.cap ≤ 4 * s.occ c g then g.high + 1 else 0) ∧
        g'.low = (if 4 * s.occ c g ≤ g.cap then g.low + 1 else 0) ∧ t.ctxs = s.ctxs) ∧
    (∀ m, s.goal c g = some m → m ≤ s.rungCap c → x.reassign = false → x.st.fires = true → x.loopsEmpty = true →
      x.launch = some l →
      (x.stepOn = false → g.soft = false → exec (.stageReassign l k) s = .next s) ∧
      ((x.counting = true ∨ (x.stepOn = false ∧ g.soft = true)) → x.steals = [] → s.fedRoom c = true → (s.fed c).Nodup →
        let n := (x.mark + 1) % 2 ^ 32
        ∃ t, exec (.stageReassign l k) s = .next t ∧ (t.ctx c).reassign = true ∧ (t.ctx c).mark = n ∧
          (t.ctx c).barOut = x.barOut ++ [(n, [])] ∧
          ∀ p ∈ s.fed c, (t.ag p.1 p.2).start = (s.ag p.1 p.2).start ++ [barrierToken n])) ∧
    (∀ m r, g.target = some m → g.rungs[m]? = some r → m ≤ s.rungCap c → x.reassign = true → x.st.fires = true → x.quiet = true →
      (∀ b ∈ x.barOut, b.1 ≠ g.mark) → x.loopsEmpty = true → s.rungFree c r = true →
      ∃ t, exec (.stageReassignLoad l k) s = .next t ∧ (t.ctx c).st = (if x.st = .running then .loading else x.st) ∧
        (t.ctx c).loading = some (r.cfgoff, 0, false) ∧ (t.ctx c).width = r.w ∧ (t.ctx c).height = r.h) ∧
    (∀ m r, g.target = some m → g.rungs[m]? = some r → s.rungCap c < m → x.reassign = true →
      (g.soft = true → exec (.stageReassignLoad l k) s = .next s) ∧
      (g.soft = false → ∃ t la', exec (.stageReassignLoad l k) s = .next t ∧ (t.ctx c).reassign = false ∧
        tget t.launches l = some la' ∧ la'.stages[k]? = some { g with target := none } ∧ (t.ctx c).st = x.st))

/-- R6, R331, R375, R376 and R412: a write to the launch port makes it PENDING, or sets DROP; a host's write of ones to
LSTAT clears DROP and REFUSED (the register number 0x101 is the model's own, log entry 31) but for a bit that is set in
this CYCLE (R7); a change of LSTAT raises vector 0 (R377); an image that its checks refuse, or one of whose groups would hold one
engine context twice (R456; log entry 77), leaves the port IDLE with REFUSED; one that fits is placed whole, its regions LOADING.
That the launch controller of the first region's die reads the image by its own copy of the function's root is the model's choice
(log entry 35). -/
def Obligations.LaunchEvents : Prop :=
  ∀ (s : State) (fn : Nat),
    let p := s.port fn
    (∀ off, fn < 17 → p.inReset = false → s.hostUp = true →
      (p.st = 0 → ∃ t, exec (.launch fn off) s = .next t ∧ t.port fn = { p with st := 1, off := off, tried := none } ∧
        t.ctxs = s.ctxs ∧ t.msix = s.msix ++ [(fn, 0)]) ∧
      (p.st ≠ 0 → ∃ t, exec (.launch fn off) s = .next t ∧ t.port fn = { p with drop := true })) ∧
    (∀ (w : Word64) (be : BitVec 8), fn < 17 → p.inReset = false → s.hostUp = true →
      let one (k : Nat) : Bool := bit w k && be.getLsbD 0 && !(BitVec.ofNat 64 (s.stamped (lstatKey fn))).getLsbD k
      ∃ t, exec (.registerWrite (.host be) 0 0x101 fn w) s = .next t ∧
      t.port fn = { p with drop := p.drop && !one 7, refused := p.refused && !one 6 } ∧ t.ctxs = s.ctxs ∧
      SameMemory s t) ∧
    (∀ ps, let d := (ps.headD ⟨0, 0, 0⟩).die
      let root := (s.reg d 0x58 fn).toNat
      let z := s.llcPass (s.imagePas root p.off.toNat) false
      p.st = 1 → (z.die d).up = true → (z.die d).places = true → z.servedFirst fn = false →
      let refused : Prop := ∃ t, exec (.launchPlace fn ps) s = .next t ∧ t.port fn = { p with st := 0, refused := true } ∧
        t.ctxs = s.ctxs ∧ SameMemory s t
      (z.readImage root p.off.toNat = none → refused) ∧
      (∀ im, z.readImage root p.off.toNat = some im →
        (z.placeAll z.nextLaunch im 0 im.regs ps = none → ∃ t, exec (.launchPlace fn ps) s = .next t ∧
          (t.port fn).st = 1 ∧ t.ctxs = s.ctxs ∧ SameMemory s t) ∧
        (∀ s1 ids, z.placeAll z.nextLaunch im 0 im.regs ps = some (s1, ids) → s1.membersFit ids im.grps = false → refused) ∧
        (∀ s1 ids, z.placeAll z.nextLaunch im 0 im.regs ps = some (s1, ids) → s1.membersFit ids im.grps = true →
          (State.initAll ids im.data (s1.writeLaunch z.nextLaunch fn im ids)).2 = true →
          ∃ t, exec (.launchPlace fn ps) s = .next t ∧ (t.port fn).st = 2 ∧ t.nextLaunch = s.nextLaunch + 1 ∧
            ∀ id ∈ ids, (t.ctx id).st = .loading ∧ (t.ctx id).launch = some s.nextLaunch)))

/-- R65, R185 to R188, R412 and R413: a load takes the image's records one by one; its end record, when no rule across
frames is broken, gives every unit its frames and starts the sequencers, and the context goes on; a record that breaks a
rule faults the context with FCODE FRAME.

R66, R75 and R186: the first record of a load, which a pre-emption that is due prevents, comes after every frame of the region
has returned to its reset value, and the load leaves every configured loop empty: still until RUN, but for a load inside a step
(log entry 78).  R188: S registers take SRST when the load completes.  That a sequencer then stands at parcel 0 is log entry 6. -/
def Obligations.ImageLoads : Prop :=
  ∀ (s : State) (c off k l : Nat) (first : Bool) (la : Launch), InLaunch s c l la → isRegionId c = true →
    (s.ctx c).st = .loading → (s.ctx c).preempt = none → (s.ctx c).loading = some (off, k, first) →
    let x := s.ctx c
    let b := if k = 0 then s.clearFrames c else s
    let refused : Prop := ∃ t, exec (.imageRecordLoad c) s = .next t ∧ (t.ctx c).st = .faulted ∧ (t.ctx c).fcode = 0x01 ∧
      t.tiles = b.tiles
    (recordAt la.cfg off k = none → refused) ∧
    (∀ a f, recordAt la.cfg off k = some (a, f) →
      (a.toNat ≠ 2 ^ 64 - 1 → recordOk x a f = false → refused) ∧
      (a.toNat ≠ 2 ^ 64 - 1 → recordOk x a f = true → ∃ t, exec (.imageRecordLoad c) s = .next t ∧
        (t.ctx c).loading = some (off, k + 1, first) ∧ (t.ctx c).st = .loading ∧ t.tiles = b.tiles ∧
        tget (t.ctx c).frames (frameKey (fld a 59 5) (fld a 54 5) (fld a 51 3) (fld a 43 6)) = some f) ∧
      (a.toNat = 2 ^ 64 - 1 → lowestUnit ((b.loadFrames c x.frames).crossBad c) = none → x.rollback = false →
        x.width ≤ 8 →
        ∃ t, exec (.imageRecordLoad c) s = .next t ∧ (first = true → (t.ctx c).st = .ready) ∧
          (first = false → x.hold = .load → (t.ctx c).st = .running ∧ (t.ctx c).pc = x.pc + x.holdLen) ∧
          (∀ n, n < 8 → tget (t.ctx c).loops n = if ((b.loadFrames c x.frames).loopEntry c n).isSome
            then some (LoopSt.reloaded (tget (b.ctx c).loops n) x.stepOn) else none) ∧
          ∀ tx ty, tx < x.width → ty < x.height → ∀ u,
            (∀ q : Fin 8, let code := fld (frameAt x.frames tx ty (cuUnit u) 63) (96 + 4 * q.val) 4
              (t.cu (x.pt tx ty) u).sRegs[q] = if code < 8 then 0
                else BitVec.ofNat 32 (fld (frameAt x.frames tx ty (cuUnit u) 62) (32 * (code - 8)) 32)) ∧
            (t.cu (x.pt tx ty) u).pos = 0 ∧ (t.cu (x.pt tx ty) u).halted = false ∧
            (t.cu (x.pt tx ty) u).cfg = frameAt x.frames tx ty (cuUnit u) 63 ∧
            (t.cu (x.pt tx ty) u).store = (List.range 6).flatMap fun j => frameParcels (frameAt x.frames tx ty (cuUnit u) j)))

/-- R57, R284, R288, R290 and R295: an operation writes the moves of its next sector; one that is whole completes and
leaves its context, whose timeline is the greatest number at or below which all have completed, counted from the context's
first fork in its launch; a promise that has passed traps the PROM that waits for it. -/
def Obligations.EngineEvents : Prop :=
  ∀ (s : State) (c n : Nat) (o : EngOp), s.opOf c n = some o →
    (∀ fs fd all k ms, o.done = false → o.failed = false → o.whole = false → o.parked = none → o.fn < 4 →
      dClaimv o.desc = false → s.opAway o = false → s.opWaits c o = false → s.copyPlan c o = .ok (fs, fd, all) → s.upset = 0 →
      (sectorsOf all)[o.written]? = some k →
      s.moveSpots c o fs fd (all.filter fun m => m.dst.sector == k) = .ok ms →
      s.banksTurn c o (moveSpotsOf ms) = true → s.moveFault c o ms = none →
      s.raceOn (s.homeCl c) = false →
      ∃ t, exec (.copySectorWrite c n ⟨.ok, false⟩) s = .next t ∧
        (∃ o', t.opOf c n = some o' ∧ o'.written = o.written + 1 ∧
          o'.whole = decide (o.written + 1 = (sectorsOf all).length)) ∧
        (let u := ms.foldl (fun s m => s.doMove c o fs fd false m) s
         t.mem = u.mem ∧ t.spad = u.spad ∧ t.opnd = u.opnd) ∧ ∀ e, e ≠ c → t.ctx e = s.ctx e) ∧
    (o.done = false → o.failed = false → o.whole = true →
      let base := (s.ctx c).opBase
      ∃ t, exec (.copyOperationComplete c n) s = .next t ∧
        (t.ctx c).ops = (s.ctx c).ops.filter (fun p => p.num != n) ∧
        (∀ p ∈ (t.ctx c).ops, p.done = false → base < p.num → base + (t.ctx c).timeline < p.num) ∧
        ((t.ctx c).timeline = (s.ctx c).accepted - base ∨
          ∃ p ∈ (t.ctx c).ops, p.done = false ∧ p.num = base + (t.ctx c).timeline + 1) ∧ SameMemory s t) ∧
    (∀ e sc, isSupId e = false → (s.ctx e).st = .waiting → (s.ctx e).waitFor = .oper c n sc → (s.ctx e).trapped = none →
      (s.ctx e).noDeadline = false → o.done = false → o.promised s.cycle ≤ s.dieCycle (idDie c) →
      ∃ t, exec (.promiseExpiry e) s = .next t ∧ (t.ctx e).trapped = some causePromise ∧ (t.ctx e).st = .waiting ∧
        TrapEntered s t (s.ctxDie e)
          { cause := causePromise, ctx := e, info := BitVec.ofNat 64 ((n - (s.ctx c).opBase) % 2 ^ 32 + c * 2 ^ 32) })

/-- R297, R298, R380, R433, R438, R446 and R447: a try of a step reads the sender's elements, and what it read has arrived when
it is acknowledged; a try that is not acknowledged within 10 µs, or has no port, is followed by another with its sources read
again, up to RETRY times, and then the collective fails; a member that has what it needs writes its destination sector by sector,
stops at a page that is not there, and with the last sector completes.  Ranks count over all packages. -/
def Obligations.CollectiveEvents : Prop :=
  ∀ (s : State) (k i j : Nat) (co : Coll) (e : CollEntry) (o : EngOp), s.coll k = some co → co.entryAt i = some e →
    s.collOp e = some o → co.failed = false →
    let reads (lo len : Nat) (f : Fmt) (ps : List Spot) : Prop := o.parked = none ∧ s.opAway o = false ∧ s.upset = 0 ∧
      s.raceOn (s.homeCl o.issuer) = false ∧ s.collFmt o = .ok f ∧ s.collSpots o false f lo len = .ok ps ∧
      s.spotsFault o ps = none ∧ s.banksTurn e.cctx o ps = true
    let try_ := co.sent.find? fun p => p.1 = (i, j)
    let tries (vs : List (Nat × Bool)) : List ((Nat × Nat) × Nat × List (Nat × Bool)) :=
      co.sent.filter (fun p => p.1 ≠ (i, j)) ++ [((i, j), s.cycle, vs)]
    (co.needs i j = true → co.carried i j = none → co.joined i j = true → s.collSame co = true →
      (∀ f ps, try_ = none → reads (co.part j) co.count f ps → ∃ t, exec (.collectiveStep k i j) s = .next t ∧
        SameMemory s t ∧ t.coll k = some { co with sent := tries (s.collRead e.cctx o ps f) }) ∧
      (∀ c vs, try_ = some ((i, j), c, vs) → s.collReach co i j = true → ∃ t, exec (.collectiveStep k i j) s = .next t ∧
        SameMemory s t ∧
        t.coll k = some { co with sent := co.sent.filter (fun p => p.1 ≠ (i, j)), acked := co.acked ++ [((i, j), vs)] })) ∧
    (∀ c vs, try_ = some ((i, j), c, vs) → (c + 10000 ≤ s.cycle ∨ s.collReach co i j = false) →
      let n := (co.retries.find? fun p => p.1 = (i, j)).elim 0 (·.2)
      (∀ f ps, n < cRetry o.desc → reads (co.part j) co.count f ps →
        ∃ t co', exec (.collectiveStepTimeout k i j) s = .next t ∧ t.coll k = some co' ∧
          (co'.retries.find? fun p => p.1 = (i, j)) = some ((i, j), n + 1) ∧ co'.failed = false ∧
          (co'.sent.find? fun p => p.1 = (i, j)) = some ((i, j), s.cycle, s.collRead e.cctx o ps f)) ∧
      (cRetry o.desc ≤ n → ∃ t co', exec (.collectiveStepTimeout k i j) s = .next t ∧ t.coll k = some co' ∧
        co'.failed = true)) ∧
    (∀ h f ps es, co.here i = some h → e.done = false → co.stepsDone i = true → s.collSame co = true →
      reads (co.part i) (if collFn co.op = .bcast ∧ i ≠ co.rootRank then 0 else co.count) f ps →
      s.collElems o true f 0 ((collFn co.op).dstLen co.size co.count) = some es →
      let pv := (es.zip (collResult (collFn co.op) co.opr f co.count i co.rootRank
        (co.lists i (s.collRead e.cctx o ps f)))).filter fun p => p.1 != .nowhere
      let left := ((pv.map fun p => p.1.sector).dedup.insertionSort (· ≤ ·)).drop o.written
      let wrote (z : State) (q : Nat) (at_ : List Spot) : State :=
        z.collWrite e.cctx o f at_ ((pv.filter fun p => p.1.sector == q).map (·.2))
      let places (q : Nat) : List Spot := (pv.filter fun p => p.1.sector == q).map (·.1)
      let completes (t : State) : Prop := (t.ctx e.cctx).ops = (s.ctx e.cctx).ops.filter (fun p => p.num != o.num)
      ((∀ p ∈ es, p = .nowhere ∨ ∃ a b, p = .spad a b) → ∃ t, exec (.collectiveComplete k h) s = .next t ∧ completes t ∧
        SameMemory (left.foldl (fun z q => wrote z q (places q)) s) t) ∧
      (∀ q at_, left = [q] → s.engPas e.cctx ps = [] → metAll (s.engSpot o.issuer o o.dst f true) (places q) = .ok at_ →
        s.spotsFault o at_ = none → s.banksTurn e.cctx o at_ = true →
        ∃ t, exec (.collectiveComplete k h) s = .next t ∧ completes t ∧ SameMemory (wrote s q at_) t) ∧
      (∀ q rest va w, left = q :: rest → metAll (s.engSpot o.issuer o o.dst f true) (places q) = .miss va w →
        ∃ t o', exec (.collectiveComplete k h) s = .next t ∧ t.opOf e.cctx o.num = some o' ∧ o'.parked = some va ∧
          o'.written = o.written ∧ SameMemory s t))

/-! ### Rotating loops -/

/-- R74, R77 and R80 to R85: what an arrival of phase p does, by the rows of R81: a frozen slot, a join placed and its
ROTJ done, a bubble, a leave or its wait, a held slot, a stall, and a DATA firing, which consumes the entry and takes the
state through the entry's stage; and the stop at an arrival of phase 0.

R73, R84 and R85: that a control token of a stage is waited for at the entry, and that a port which is both leave and exit
port sends one EOS, is log entry 14; so is it that a coordinate that does not rise freezes its slot and consumes nothing. -/
def Obligations.RotationArrivals : Prop :=
  ∀ (s : State) (c p : Nat) (l : Fin 8) (e : Nat × Bool), RotTurn s c l.val p e →
    let x := s.loopOf c l.val
    let n := s.loopSlots c l.val
    let q := x.others p
    let leave := q.any (RotReq.leaves p) = true
    let ent := tget x.entries p
    let eos := ∃ t, ent = some t ∧ t.kind = .eos
    let port := s.leavePort e
    let valid := bit x.valid p = true ∧ bit x.fault p = false
    (bit x.fault p = true → leave → ArrivalGives s c l [] fun y =>
      Vacates x y p ∧ y.queue = q.eraseP (RotReq.leaves p) ∧ y.entries = x.entries) ∧
    (bit x.fault p = true → ¬leave → ArrivalGives s c l [] fun y => Recirculates x y p ∧ y.queue = q) ∧
    (bit x.valid p = false → bit x.fault p = false → ∀ tok pt u, q.find? RotReq.joins = some (.join tok pt u) →
      ∀ v, (s.cu pt u).viewAt (s.cu pt u).pos = some v →
      ∃ t, exec (.rotationArrival c l) s = .next t ∧
        t.flights = s.flights ++ sentOn pt u v.outs (dataToken (BitVec.ofNat 512 p) (BitVec.ofNat 6 p) 0 false) ∧
        (∀ k, v.d = .s k → (t.cu pt u).sRegs[k] = BitVec.ofNat 32 p) ∧ (t.cu pt u).rotj = none ∧
        (t.cu pt u).pos = s.nextPos pt u v ∧
        let y := t.loopOf c l.val
        y.count = x.count + 1 ∧ y.queue = q.eraseP RotReq.joins ∧ MaskAt x.valid y.valid p true ∧
        tget y.states p = some { tok with kind := .hold } ∧ y.entries = x.entries) ∧
    (bit x.valid p = false → bit x.fault p = false → q.any RotReq.joins = false → ArrivalGives s c l [] fun y =>
      y.valid = x.valid ∧ y.queue = q.filter (fun r => !(r.leaves p)) ∧ y.states = x.states ∧ y.entries = x.entries) ∧
    (valid → (leave ∨ eos) → s.canEmit port.1 [port.2] = true → ∀ t, tget x.states p = some t →
      ArrivalGives s c l [Flight.mk port.1 port.2 { t with kind := .data, slot := BitVec.ofNat 6 p }] fun y =>
        Vacates x y p ∧ y.queue = q.eraseP (RotReq.leaves p) ∧
        (eos → ∀ k, tget y.entries k = if k = p then none else tget x.entries k) ∧ (¬eos → y.entries = x.entries)) ∧
    (valid → (leave ∨ eos) → s.canEmit port.1 [port.2] = false →
      ArrivalGives s c l [] fun y => Recirculates x y p ∧ y.queue = q) ∧
    (valid → ¬leave → ¬eos →
      (x.heldAt p = true ∨ ent = none ∨ s.exitCredits c l.val = false ∨ s.stageTokens c l.val = false) →
      ArrivalGives s c l [] fun y => Recirculates x y p ∧ y.queue = q) ∧
    (valid → ¬leave → x.heldAt p = false → ∀ tok, ent = some tok → tok.kind ≠ .eos →
      s.exitCredits c l.val = true → s.stageTokens c l.val = true →
      let u := s.cu e.1 e.2
      let state : Token := { ((tget x.states p).getD {}) with kind := .data }
      (u.stageFalls u.loopView (u.stageVal state (some tok)) = true →
        stageTok u.loopView (u.stageVal state (some tok)) Token.mismatch = none →
        ∃ t, exec (.rotationArrival c l) s = .next t ∧ (t.ctx c).st = (s.ctx c).st ∧ t.flights = s.flights ∧
          let y := t.loopOf c l.val
          y.count = x.count + 1 ∧ y.queue = q ∧ y.valid = x.valid ∧ MaskAt x.fault y.fault p true ∧
          (∀ k, tget y.entries k = tget x.entries k) ∧
          ∀ k, tget y.states k = if k = p then some { state with kind := .hold } else tget x.states k) ∧
      (u.stageFalls u.loopView (u.stageVal state (some tok)) = false →
      let s1 := s.setLoop c l.val { x with hold := maskSet x.hold p false, queue := q, entries := tdel x.entries p }
      ∃ t, exec (.rotationArrival c l) s = .next t ∧
        let y := t.loopOf c l.val
        y.count = x.count + 1 ∧ y.queue = q ∧ y.valid = x.valid ∧ MaskAt x.hold y.hold p false ∧
        (∀ k, tget y.entries k = if k = p then none else tget x.entries k) ∧
        ∀ z r r' h, s1.stageFire c l.val p e { ((tget x.states p).getD {}) with kind := .data } (some tok) = (z, some r) →
          z.nextStage l.val e r = some (e, r', h) → tget y.states p = some r' ∧ y.fault = x.fault)) ∧
    (∀ z : State, z.loopEntry c l.val = some e → (z.ctx c).st.fires = true → (z.loopOf c l.val).busy = .none →
      (z.loopOf c l.val).running = true → (z.loopOf c l.val).stopped = false → (z.loopOf c l.val).parked = false →
      (z.loopOf c l.val).savesNow 0 = none → (z.loopOf c l.val).inbound.any (z.loopOf c l.val).arrived = false →
      (z.loopOf c l.val).count % z.loopSlots c l.val = 0 → z.mayStop c l.val e = true →
      ∃ t, exec (.rotationArrival c l) z = .next t ∧ (t.loopOf c l.val).stopped = true ∧
        t.flights = z.flights ++ (z.leavePort e :: z.loopExits c l.val).dedup.map fun r =>
          Flight.mk r.1 r.2 { kind := .eos })

/-- R55, R56, R58, R75, R76, R78, R79, R86, R87, R91 and R273: the first request on its way, by its count, tile and unit,
joins its loop's queue, or faults with ROTREQ; a token moves into the empty entry of its slot, or faults with SLOTIDX; a save takes one phase an arrival; and a sample of
the detector reports quiescence, at which DRAIN completes and END retires its region.

R79 and R266: ROTP reads the loop when its request reaches it: the three masks, the phase, CLOSED, and whether the loop is
parked or has stopped; a ROTX of its own count has not yet closed it.  R66: what a pre-emption that is due outranks waits. -/
def Obligations.LoopEventsAndQuiescence : Prop :=
  ∀ (s : State) (c : Nat) (l : Fin 8),
    let x := s.loopOf c l.val
    let n := s.loopSlots c l.val
    let cx := s.ctx c
    let faults (i : Instr) (code : Nat) : Prop := ∃ t, exec i s = .next t ∧ (t.ctx c).st = .faulted ∧ (t.ctx c).fcode = code
    (∀ r, firstIn x.inbound = some r → x.arrived r = true → cx.st.fires = true →
      let bad := match r.req with
        | .join _ _ _ => x.closed = true
        | .leave p _ | .hold p | .release p => n ≤ p
        | .probe _ _ => False
      (¬bad → (∀ pt u, r.req ≠ .probe pt u) → ∃ t, exec (.rotRequestEnqueue c l) s = .next t ∧ t.loopOf c l.val = { x with
        inbound := x.inbound.erase r, queue := x.queue ++ [r.req]
        closed := x.closed || (match r.req with | .leave _ b => b | _ => false)
        closedAt := (match r.req with
          | .leave _ true => if x.closed = false ∧ x.running = true ∧ x.stopped = false then some r.due else x.closedAt
          | _ => x.closedAt) }) ∧
      (∀ pt u v, r.req = .probe pt u → (s.cu pt u).viewAt (s.cu pt u).pos = some v →
        ∃ t pl, exec (.rotRequestEnqueue c l) s = .next t ∧
          t.flights = s.flights ++ sentOn pt u v.outs (dataToken pl 0 0 false) ∧
          (t.cu pt u).rotj = none ∧ (t.cu pt u).pos = s.nextPos pt u v ∧
          elemAt pl 64 0 = x.valid.toNat ∧ elemAt pl 64 1 = x.hold.toNat ∧ elemAt pl 64 2 = x.fault.toNat ∧
          let count := if x.running && !x.stopped then r.due else x.count
          elemAt pl 64 3 = count % n % 64 + 64 * b2n (x.closed && x.closedAt != some count) +
            128 * b2n (x.parked || x.stopped)) ∧
      (bad → s.loopEntry c l.val ≠ none → isRegionId c = true → faults (.rotRequestEnqueue c l) 0x0A)) ∧
    (cx.st.fires = true →
      (∀ t rest, x.load = t :: rest → tget x.entries t.slot.toNat = none →
        ∃ z, exec (.slotEntryMove c l) s = .next z ∧
          z.loopOf c l.val = { x with load := rest, entries := tset x.entries t.slot.toNat t }) ∧
      (∀ t rest e, x.load = [] → x.staging = t :: rest → s.loopEntry c l.val = some e →
        (t.slot.toNat < n → tget x.entries t.slot.toNat = none → ∃ z, exec (.slotEntryMove c l) s = .next z ∧
          z.loopOf c l.val = { x with staging := rest, entries := tset x.entries t.slot.toNat t } ∧
          let b : BufId := .cuIn e.1 e.2 (Fin.ofNat 6 (fld (s.cu e.1 e.2).cfg 1 3))
          bufCount z.returns b = bufCount s.returns b + 1) ∧
        (n ≤ t.slot.toNat → isRegionId c = true → faults (.slotEntryMove c l) 0x04))) ∧
    (∀ saver lt c0 k ph e, x.busy = .saving saver lt c0 k ph → x.running = true → x.stopped = false → cx.st.fires = true →
      x.inbound.any x.arrived = false → s.loopEntry c l.val = some e →
      (k + 1 < n → ∃ t, exec (.rotationArrival c l) s = .next t ∧
        t.loopOf c l.val = { x with busy := .saving saver lt c0 (k + 1) ph, count := x.count + 1 }) ∧
      (n ≤ k + 1 → s.raceOn (s.homeCl saver) = false → ∃ t, exec (.rotationArrival c l) s = .next t ∧
        (t.loopOf c l.val).parked = true ∧ (t.loopOf c l.val).valid = 0 ∧ (t.loopOf c l.val).busy = .none ∧
        (t.ctx saver).pc = (s.ctx saver).pc + (s.ctx saver).holdLen)) ∧
    (isRegionId c = true → cx.onTiles = true → s.dieCycle cx.place.die % 64 = 0 → tget s.sampled c ≠ some s.cycle →
      let report := (s.countersZero c && cx.wasZero && !(cx.changed.toList.any id))
      ∃ t, exec (.detectorSample c) s = .next t ∧ tget t.sampled c = some s.cycle ∧
        (cx.hold = .none ∨ cx.preempt ≠ none → t.ctx c =
          { cx with wasZero := s.countersZero c, changed := Vector.replicate 5 false, quiet := report }) ∧
        (∀ since, cx.hold = .drain since → cx.st = .draining → cx.reassign = false → cx.preempt = none → since < s.cycle →
          (report = true → (t.ctx c).hold = .none ∧ (t.ctx c).pc = cx.pc + cx.holdLen) ∧
          (report = false → (t.ctx c).hold = cx.hold ∧ (t.ctx c).pc = cx.pc ∧ (t.ctx c).st = .draining)) ∧
        (∀ halt since, cx.hold = .ending halt since → cx.st = .running → cx.reassign = false → cx.preempt = none → since < s.cycle →
          cx.holdSig.inc = 0 → report = true → (t.ctx c).st = .retired ∧ (t.ctx c).halted = halt))

/-! ### Memory units and memory -/

/-- R132, R258, R397, R403, R414 and R424: a memory unit takes a whole request unit while it has room and holds it, in
order, with what its tokens say; a mark that stands on all its streams takes its turn among the requests; a poisoned token
and an address that R120 refuses fault the region's context.  Marks with different numbers at one node do not stand as one, and
a mark whose residue is wrong is none of these, by the model's choice (log entries 13 and 75). -/
def Obligations.MemoryUnitsAccept : Prop :=
  ∀ (s : State) (pt c : Nat) (u : Bool) (m : MemMods), s.cur = .mu pt u → s.active pt = true → s.owner pt = some c →
    (s.mu pt u).stopAt = none → s.muTap pt u = none → (s.mu pt u).skip = 0 → (s.mu pt u).heldTo ≤ (s.mu pt u).next →
    (∀ r ∈ (s.mu pt u).reqs, r.num < (s.mu pt u).next) →
    ∀ p ∈ [(Instr.ld m, 0), (.st m, 1), (.gath m, 2), (.scat m, 3), (.atom m, 4), (.ord m, 5), (.fence m, 6), (.qld m, 7),
        (.qst m, 8), (.qstv m, 9), (.bara m, 10), (.barw m, 11), (.pref m, 12)],
      let x := s.mu pt u
      let f := muFn p.2
      let n := x.need f m.imm.toNat
      let toks := x.buf.take n
      let tuple := if x.byAg f then x.tuples.head? else none
      let all := toks ++ tuple.toList
      let heads := toks.head?.toList ++ tuple.toList
      let present := (0 < n → toks ≠ []) ∧ (x.byAg f = true → tuple.isSome = true)
      let whole := toks.length = n ∧ (x.byAg f = true → tuple.isSome = true) ∧ ∀ t ∈ all, t.isMark = false
      let y := x.unit f toks x.tuples.head?
      let r : MuReq :=
        { fn := p.2, ty := m.ty, rnd := m.rnd, imm := m.imm.toNat, cmpl := x.cmpl, lt := (s.ctx c).lt x.ltNo
          count := x.elements f m.ty
          coords := match y.coord with | some t => (List.range 16).map fun k => elemAt t.payload 32 k | none => []
          data := y.data, elems := [], st := .fresh, num := x.next, hold := replOf f m.imm.toNat == 2
          covers := (s.trigger pt u).2, step := (s.ctx c).stepNo
          came := if f.orders = true then some (s.trigger pt u).1 else none
          routes := if ltSpace ((s.ctx c).lt x.ltNo) = 4 then s.routesOf (ptDie pt) else []
          toks := if f = .bara then toks else []
          tuple := if f = .bara ∧ x.byAg f = true then x.tuples.head? else none }
      let clean := ∀ t ∈ all, t.poison = false ∧ t.mismatch = false
      let fits := f = .pref ∨ s.resolve pt u c r ≠ .bad
      (∀ t, present → heads.head? = some t → ((∀ h ∈ heads, h.kind = .eos) ∨ ∀ h ∈ heads, h.kind = .barrier) →
        (∀ h ∈ heads, h.mismatch = false) →
        ∃ z, exec p.1 s = .next z ∧ (z.mu pt u).items.getLast? = some (.mark { t with poison := heads.any (·.poison) }) ∧
          (z.mu pt u).items.length = x.items.length + 1 ∧ (z.mu pt u).buf = (if 0 < n then x.buf.tail else x.buf) ∧
          z.flights = s.flights ∧ SameMemory s z) ∧
      (whole → heads ≠ [] → x.room r.hold = true → clean → fits →
        ∃ z st es k used missed onTlbi, exec p.1 s = .next z ∧ (z.mu pt u).items = x.items ++ [.req { r with
          st := st, elems := es, qset := k, used := used, missed := missed, onTlbi := onTlbi }] ∧
          (z.mu pt u).next = x.next + 1 ∧ (z.mu pt u).buf = x.buf.drop n ∧ z.flights = s.flights ∧ SameMemory s z) ∧
      (whole → heads ≠ [] → x.room r.hold = true → (∃ t ∈ y.strict, t.poison = true) →
        ∃ z, exec p.1 s = .next z ∧ (z.ctx c).st = .faulted ∧ (z.ctx c).fcode = 0x08 ∧ z.mu pt u = x) ∧
      (whole → heads ≠ [] → x.room r.hold = true → clean → ¬fits →
        ∃ z, exec p.1 s = .next z ∧ (z.ctx c).st = .faulted ∧ (z.ctx c).fcode = 0x06 ∧ z.mu pt u = x)

/-- R120, R129, R132, R139, R259, R260, R263, R264, R414, R436, R437, R442 and R446: one element access, performed: a load binds the
value at its place and changes no memory; a store changes the bits of its place and no other bit of any storage; an atomic
reads and writes its place in one step; BARA arrives at its word or finds it faulty; a place that cannot be reached faults
the region's context.

R318, R435 to R437: with the race detector of the cluster on, an access of a tracked agent that another agent's recorded access to
a byte of the granule is not ordered before is not performed, with none of its node after it: the context is FAULTED with RACE
and RACEINFO names both; one that races with nothing is performed and recorded. -/
def Obligations.MemoryAccesses : Prop :=
  (∀ (s : State) (pt n e c : Nat) (u : Bool) (q : MuReq) (x : Elem), Accesses s pt u n e c q x → s.memWf = true →
    let i : Instr := .memoryRequestPerform pt u n e ⟨.ok, false⟩
    let w := fmtWidth q.ty
    let el := (ltElem q.lt).getD .int8
    let read := s.load (s.muWho pt) el q.ty x.spot false
    let arg (k : Nat) : Nat := elemAt (q.data.getD k {}).payload w e
    let sub := q.imm % 8
    let reached := s.spotFault (ptDie pt) x.spot q.routes = none
    (∀ pa f, s.spotFault (ptDie pt) x.spot q.routes = some (pa, f) → q.kind ∉ [MuFn.barw, .bara, .pref] → q.kind.quorum = false → q.plainAt x = true →
      (s.ctx c).st.fires = true →
      ∃ t, exec i s = .next t ∧ (t.ctx c).st = .faulted ∧ (t.ctx c).fcode = f ∧ SameMemory s t) ∧
    (reached → q.kind ∈ [MuFn.ld, .gath] →
      ∃ t, exec i s = .next t ∧ Performed t pt u n e read.1 read.2.1 ∧ SameMemory s t ∧
        ∀ a b, x.spot = .spad a b → el = q.ty → read.1 = s.bitsAt 0 (spadKey a 0 * 8 + b) w) ∧
    (q.kind = .pref → ∃ t, exec i s = .next t ∧ Performed t pt u n e 0 false ∧ SameMemory s t) ∧
    (∀ k first l, reached → q.bits x = some (k, first, l) → q.plainAt x = true →
      (q.kind ∈ [MuFn.st, .scat] → ∃ t, exec i s = .next t ∧ Performed t pt u n e 0 false ∧
        StoresBits s t k first w (elemAt q.store.payload w e)) ∧
      (q.kind = .atom → x.drop = false → sub ≤ 5 → (sub = 1 → isFloat q.ty = true) → ∃ t b, exec i s = .next t ∧
        Performed t pt u n e (s.bitsAt k first w) b ∧
        StoresBits s t k first w (if sub = 5 then atomRule q.ty q.rnd 5 (s.bitsAt k first w) (arg 1) (arg 0)
          else atomRule q.ty q.rnd sub (s.bitsAt k first w) (arg 0) 0))) ∧
    (∀ a b, q.kind = .bara → x.spot = .spad a b → e = 0 → (∀ y ∈ (s.mu pt u).reqs, y.num < n → y.performed = true) →
      let k := spadKey a 0 * 8 + b
      let v : Word64 := BitVec.ofNat 64 (s.bitsAt 0 k 64)
      let faulty := fld v 49 15 ≠ 0 ∨ fld v 24 24 = 0 ∨ fld v 24 24 ≤ fld v 0 24
      (¬faulty → ∃ (t : State) (v' : Word64) (pz : Bool), exec i s = .next t ∧ Performed t pt u n 0 v.toNat pz ∧ StoresBits s t 0 k 64 v'.toNat ∧
        fld v' 24 24 = fld v 24 24 ∧ fld v' 49 15 = 0 ∧
        (fld v 0 24 + 1 < fld v 24 24 → fld v' 0 24 = fld v 0 24 + 1 ∧ bit v' 48 = bit v 48) ∧
        (fld v 0 24 + 1 = fld v 24 24 → fld v' 0 24 = 0 ∧ bit v' 48 = !(bit v 48))) ∧
      (faulty → (s.ctx c).st.fires = true →
        ∃ t, exec i s = .next t ∧ (t.ctx c).st = .faulted ∧ (t.ctx c).fcode = 0x07 ∧ SameMemory s t)) ∧
    (∀ b f sc tr, e = 0 → q.kind.quorum = true → x.spot = .phys b f sc tr →
      ∃ t o, exec i s = .next t ∧ SameMemory s t ∧ o ∈ t.qops ∧ o.id = s.nextQop ∧ o.fn = q.fn ∧
        o.qset = s.reg (ptDie pt) 0x51 q.qset ∧
        o.off = b / 8 % 2 ^ 36 ∧ o.who = some (pt, u, n))) ∧
  (∀ (s : State) (pt n e c : Nat) (u : Bool) (q : MuReq) (x : Elem) (g : (Bool × Nat) × Nat), Reaches s pt u n e c q x →
    let i : Instr := .memoryRequestPerform pt u n e ⟨.ok, false⟩
    let cl := ptCl pt
    let ctl := s.reg (cl / 6) 0x67 (cl % 6)
    let d := (s.cl cl).race
    let old := d.record g.1
    let writes := q.kind.writes
    let unordered (y : RaceAcc) : Prop := y.agent ≠ c ∧ vecAt (tgetD d.front c []) y.agent < y.count ∧
      y.bytes &&& g.2 ≠ 0 ∧ ¬(y.atom = true ∧ q.race.atom = true)
    bit ctl 63 = true → bit ctl 62 = false → d.agents.contains c = true → s.isAgent c = true →
    q.kind ∈ [MuFn.ld, .gath, .st, .scat, .atom] → q.plainAt x = true → (s.ctx c).st.fires = true →
    s.spotFault (ptDie pt) x.spot q.routes = none → x.spot.granules (q.span x false) = [g] →
    (∀ (y : RaceAcc) (yWrites : Bool),
      ((old.write = some y ∧ yWrites = true) ∨
        (writes = true ∧ (∀ w, old.write = some w → ¬unordered w) ∧ yWrites = false ∧
          ∃ before after, old.reads = before ++ y :: after ∧ ∀ r ∈ before, ¬unordered r)) →
      unordered y →
      ∃ t, exec i s = .next t ∧ (t.ctx c).st = .faulted ∧ (t.ctx c).fcode = 0x12 ∧ (t.mu pt u).stopAt = some n ∧ SameMemory s t ∧
        (bit (s.reg (cl / 6) 0x68 (cl % 6)) 63 = false → t.reg (cl / 6) 0x68 (cl % 6) =
          BitVec.ofNat 64 (2 ^ 63 + b2n writes * 2 ^ 62 + b2n yWrites * 2 ^ 61 + y.agent * 2 ^ 16 + c))) ∧
    ((∀ y, old.write = some y → ¬unordered y) → (writes = true → ∀ y ∈ old.reads, ¬unordered y) → d.records.length < 32768 →
      ∃ t v z, exec i s = .next t ∧ Performed t pt u n e v z ∧
        let new := (t.cl cl).race.record g.1
        (writes = true → ∃ a, new.write = some a ∧ a.agent = c ∧ a.bytes &&& g.2 = g.2) ∧
        (writes = false → new.write = old.write ∧ ∃ a ∈ new.reads, a.agent = c ∧ a.bytes &&& g.2 = g.2)))

/-- R131, R132, R258, R261, R263, R315, R320, R428, R438, R439 and R442: replies, completions and marks leave in order;
an ordering request and a waiting BARW complete; a walk fills its cluster's TLB or raises a translation fault; a cooldown
ends; the scrub marks what it cannot correct; and a far port that does not answer faults the node and leaves service. -/
def Obligations.MemoryEvents : Prop :=
  ∀ (s : State) (pt c : Nat) (u : Bool),
    let x := s.mu pt u
    let outs := muOuts u x.replies true
    let sent (o : List Nat) (t : Token) : List Flight :=
      (o.filter fun k => !((s.tile pt).sw.dataOf k).isEmpty).map fun k => Flight.mk pt k t
    (∀ t rest, s.active pt = true → x.items = .mark t :: rest → s.canEmit pt outs = true →
      ∃ z, exec (.muReplyDeliver pt u) s = .next z ∧ (z.mu pt u).items = rest ∧ z.flights = s.flights ++ sent outs t) ∧
    (∀ r rest, s.active pt = true → x.items = .req r :: rest → r.performed = true → s.upset = 0 → r.again = false →
      s.canEmit pt (muOuts u r.kind.replies r.cmpl) = true →
      ∃ z tok, exec (.muReplyDeliver pt u) s = .next z ∧ (z.mu pt u).items = rest ∧
        (z.mu pt u).completed = x.completed + 1 ∧
        z.flights = s.flights ++ (if r.kind.replies then sent [muReply u] tok else []) ++
          (if r.cmpl then sent [muCompl u] (dataToken (r.completion (x.completed + 1)) 0 0 false) else []) ∧
        tok.kind = .data ∧ tok.mismatch = false ∧ (tok.poison = true ↔ ∃ e ∈ r.elems, e.poison = true) ∧
        let w := fmtWidth r.ty
        (r.kind ∈ [MuFn.ld, .gath, .atom] → r.elems.length ≤ 512 / w → ∀ j, j < 512 / w → elemAt tok.payload w j =
          match r.elems[j]? with
          | some e => if e.spot = .nowhere then absentOf r.ty else e.value % 2 ^ w
          | none => absentOf r.ty)) ∧
    (∀ r, s.owner pt = some c → s.firstOpen pt u MuFn.orders = some r → r.st = .ready →
      (∀ q ∈ (s.mu pt (!u)).reqs, q.num < r.covers → q.performed = true) →
      ∃ z q, exec (.ordFenceComplete pt u) s = .next z ∧ q ∈ (z.mu pt u).reqs ∧ q.num = r.num ∧ q.performed = true ∧
        SameMemory s z ∧ (r.kind = .ord → z.l1 = s.l1)) ∧
    (∀ r e a b, s.owner pt = some c → s.firstOpen pt u (· == .barw) = some r → r.st = .ready → r.elems = [e] →
      e.spot = .spad a b → x.stopAt = none → s.elemWaits pt u r 0 e = false → s.raceOn (ptCl pt) = false →
      s.muReq pt u r.num = some r →
      let v := memBits s.spad (spadKey a 0 * 8 + b) 64
      (v.testBit 48 ≠ (r.data.headD {}).payload.getLsbD 0 →
        ∃ z pz, exec (.barwComplete pt u) s = .next z ∧ Performed z pt u r.num 0 v pz ∧ SameMemory s z) ∧
      (v.testBit 48 = (r.data.headD {}).payload.getLsbD 0 → exec (.barwComplete pt u) s = .next s)) ∧
    (∀ k w, s.walks[k]? = some w → s.walkRuns k w = true → s.walkCut w = none →
      let cl := w.die * 6 + w.cluster
      (∀ t, s.walkVa w.root w.va = some t → ∃ z, exec (.pageWalkComplete k .ok) s = .next z ∧
        t ∈ tgetD z.clTlb cl [] ∧ SameMemory s z) ∧
      (s.walkVa w.root w.va = none → w.agent ≠ 0 → ∃ z, exec (.pageWalkComplete k .ok) s = .next z ∧
        (∃ f ∈ z.xlPend, f.walk = w) ∧ SameMemory s z)) ∧
    (∀ st bk, ((∃ k ∈ s.cooldown, s.coolOver st bk k = true) → ∃ z, exec (.bankCooldownEnd st bk) s = .next z ∧
        (∀ k ∈ z.cooldown, s.coolOver st bk k = false) ∧
        (∀ k ∈ s.cooldown, s.coolOver st bk k = false → k.ended = false → k ∈ z.cooldown) ∧ SameMemory s z) ∧
      ((∀ k ∈ s.cooldown, s.coolOver st bk k = false) → exec (.bankCooldownEnd st bk) s = .next s)) ∧
    (∀ pa, paHbm pa = true →
      (∃ z, exec (.patrolScrub pa .corrected) s = .next z ∧ SameMemory s z) ∧
      (∃ z, exec (.patrolScrub pa .uncorrected) s = .next z ∧ pa / 48 ∈ z.memPoison ∧ z.mem = s.mem)) ∧
    (∀ n e q v, s.muReq pt u n = some q → s.owner pt = some c → (s.ctx c).st.fires = true → q.elems[e]? = some v →
      q.st = .ready → v.done = false → q.hold = false → q.kind ≠ .pref →
      ∀ b f sc tr, v.spot = .phys b f sc tr → paFar (b / 8) = true →
      ∃ z, exec (.farMemoryTimeout (.node pt) u n e) s = .next z ∧ (z.ctx c).st = .faulted ∧ (z.ctx c).fcode = 0x14 ∧
        z.linkUp 0 (19 + b / 8 / 4096 % 4) = false ∧ SameMemory s z)

/-- R143 to R149, R262 and R440: a copy takes a write whose tag is higher than its own and acknowledges either way; the
replies of a majority give a store its version, one above the highest, which goes to every live copy; and without a
majority that can answer, the operation fails its node with QUORUM. -/
def Obligations.QuorumEvents : Prop :=
  ∀ (s : State) (op j : Nat) (q : QOp), s.qop op = some q →
    let st := qStack q.qset j
    let pa := st * 2 ^ 36 + q.off
    let maj := qCount q.qset / 2 + 1
    (∀ (k : Nat) (w : QWrite), s.qwrites[k]? = some w → w.op = some op → s.stackUp q.die w.stack = true → w.bytes.length = 40 →
      Memory.wf s.mem = true → s.upset = 0 → s.copyTurn w.op w.copy (w.stack * 2 ^ 36 + w.off) = true →
      let a := w.stack * 2 ^ 36 + w.off
      let wins := s.cellPoison a = true ∨ tagKey (s.cellTag a) < tagKey w.tag
      ∃ t, exec (.quorumCopyWrite k) s = .next t ∧ t.qwrites = s.qwrites.eraseIdx k ∧
        (wins → t.cellTag a = w.tag ∧ t.cellPayload a = w.bytes ∧ t.cellPoison a = false ∧
          ∀ b, (b < a ∨ a + 48 ≤ b) → memGet t.mem b = memGet s.mem b) ∧
        (¬wins → t.mem = s.mem ∧ t.memPoison = s.memPoison)) ∧
    (q.fn ≠ 9 → q.phase = .reading → q.finished = false → q.failed = 0 → q.lost = [] → j ∈ qLive q.qset →
      (∀ r ∈ q.replies, r.1 ≠ j) → s.stackUp q.die st = true → s.cellPoison pa = false → q.chosen = false →
      maj ≤ (qLive q.qset).length → s.upset = 0 → s.copyTurn (some op) j pa = true →
      (q.replies.length + 1 < maj → ∃ t q', exec (.quorumReply op j) s = .next t ∧ t.qop op = some q' ∧
        q'.replies = q.replies ++ [(j, s.cellTag pa, s.cellPayload pa)] ∧ t.qwrites = s.qwrites) ∧
      (q.fn = 8 → q.replies.length + 1 = maj →
        let v := (q.replies.map (·.2.1) ++ [s.cellTag pa]).foldl (fun a t => Nat.max a (fld t 20 44)) 0
        v + 1 < 2 ^ 44 → ∃ t, exec (.quorumReply op j) s = .next t ∧ SameMemory s t ∧
          ∀ i ∈ qLive q.qset, ∃ w ∈ t.qwrites, w.op = some q.id ∧ w.copy = i ∧ w.stack = qStack q.qset i ∧ w.off = q.off ∧
            w.bytes = q.payload ∧ fld w.tag 20 44 = v + 1 ∧ fld w.tag 4 16 = q.ctx % 2 ^ 16)) ∧
    (q.fn ≠ 9 → q.phase = .reading → q.finished = false → q.failed = 0 → q.first.length < maj → j ∈ qLive q.qset →
      (∀ r ∈ q.replies, r.1 ≠ j) → j ∉ q.lost →
      (maj < q.avail.length → ∃ t q', exec (.quorumCopyTimeout op j) s = .next t ∧ t.qop op = some q' ∧ j ∈ q'.lost) ∧
      (∀ pt u n r c, q.avail.length ≤ maj → q.who = some (pt, u, n) → s.muReq pt u n = some r → s.owner pt = some c →
        (s.ctx c).st.fires = true →
        ∃ t, exec (.quorumCopyTimeout op j) s = .next t ∧ (t.ctx c).st = .faulted ∧ (t.ctx c).fcode = 0x13))

/-! ### Power, sensors and energy -/

/-- R363 to R370, R395 and R453: a request as it is clamped, the ramp's steps, the monitor's window of 4096 of the region's
cycles, the guard step, a sensor's sample, the trips and the package budget.  How a request outside the range is clamped, that a
trip or a ceiling acts as a request, and the instants at which these act, are the model's choice (log entry 61); so is what the
monitor's count of refusals may be (log entry 29). -/
def Obligations.PowerEvents : Prop :=
  ∀ (s : State) (die v : Nat), die < 8 → v < 36 →
    let x := s.vf die v
    let trip (t : State) (d k : Nat) : Prop := bit (t.reg d 0x6B 0) k = true
    (∀ w : Word64, tget s.sampled (hostKey die 0x48 v) ≠ some s.cycle → (∀ b, x.before = some b → b.1 ≠ s.cycle) →
      x.thermal = none → x.budget = none → x.current = false → x.st = 0 → x.step = none →
      let p := max 16 (min 132 (min (max (fld w 0 8) (fld w 8 8)) (fld w 16 8)))
      ∃ t, exec (.vfctlWrite .supervisor die v w) s = .next t ∧ t.reg die 0x48 v = BitVec.ofNat 64 (fld w 8 17 * 256) ∧
        let y := t.vf die v
        y.vcode = x.vcode ∧ (p = x.fcode → y.fcode = p ∧ y.pend = none) ∧ (p < x.fcode → y.fcode = p) ∧
        (x.fcode < p → (s.vcode die v < s.vreq die p → y.fcode = x.fcode ∧ y.pend = some p ∧ y.st = 1 ∧ y.step = some true) ∧
          (s.vreq die p ≤ s.vcode die v → y.fcode = p ∧ y.pend = none ∧ y.st = 0))) ∧
    (∀ up, x.step = some up → x.want = none →
      ∃ t, exec (.voltageStepEnd die v) s = .next t ∧ t.vcode die v = (if up then s.vcode die v + 1 else s.vcode die v - 1) ∧
        (∀ p, up = true → x.st = 1 → x.pend = some p → s.vreq die p ≤ s.vcode die v + 1 →
          (t.vf die v).fcode = p ∧ (t.vf die v).st = 0 ∧ (t.vf die v).step = none) ∧
        (∀ p, up = true → x.st = 1 → x.pend = some p → s.vcode die v + 1 < s.vreq die p →
          (t.vf die v).fcode = x.fcode ∧ (t.vf die v).step = some true)) ∧
    (∀ full blk, bit (s.reg die 0x48 v) 24 = true → s.hasBorder die v = true → x.countsOk full blk = true →
      x.window + 4096 ≤ x.clock s.cycle →
      let s1 := s.setVf die v { x with window := x.clock s.cycle, full := 0, blocked := 0 }
      let asked (f : Nat) : State :=
        let r := s1.request die v f
        r.setVf die v { r.vf die v with before := some (s.cycle, x.st, x.fcode, x.pend, x.step) }
      let own := decide (tget s.sampled (freqKey die v) ≠ some s.cycle)
      exec (.monitorWindowEnd die v full blk) s = .next (
        if own = true ∧ 1024 ≤ full ∧ blk < 256 then asked (x.fcode + 4)
        else if own = true ∧ 1024 ≤ blk ∧ full < 256 then asked (x.fcode - 4) else s1)) ∧
    (∀ at_, x.want = some at_ → x.step = none → s.guardAck die v = false → x.current = false →
      (s.die die).grants.1 ≠ s.cycle →
      (∀ k, k < 36 → s.grantable die k = true → at_ ≤ (s.vf die k).want.getD 0) →
      ∃ t, exec (.guardGrant die v) s = .next t ∧ (t.vf die v).step = some true ∧ (t.die die).grants = (s.cycle, 1)) ∧
    (x.guard = true → x.want = none → x.lastBurst + 256 ≤ x.clock s.cycle →
      ∃ t, exec (.guardRelease die v) s = .next t ∧ (t.vf die v).guard = false ∧ t.vcode die v = s.vcode die v) ∧
    (∀ (tile : Nat) (r : BitVec 16), tile < 576 → s.cycle % 10000 = 0 → tget s.sampled (sensKey (die * 576 + tile)) ≠ some s.cycle →
      let cfg := s.reg die 0x4E tile
      let deg (k : Nat) : Int := (BitVec.ofNat 16 (fld cfg k 16)).toInt
      let arm := tgetD s.sensors (die * 576 + tile) {}
      ∃ t, exec (.thermalSample die tile r) s = .next t ∧ t.reg die 0x4D tile = BitVec.ofNat 64 r.toNat ∧
        t.shutdown = (s.shutdown || decide (deg 32 + 40 ≤ r.toInt)) ∧
        (arm.trip = true → deg 32 ≤ r.toInt → trip t die 0 ∧ die * 576 + tile ∈ t.noPlace) ∧
        (∀ c, arm.mig = true → deg 0 ≤ r.toInt → s.owner (die * 576 + tile) = some c → r.toInt < deg 32 →
          TrapEntered s t die { cause := 7, ctx := c, info := BitVec.ofNat 64 (tile * 2 ^ 16 + r.toNat) })) ∧
    (∀ u, u + 2 < s.vreq die x.fcode → ∃ t, exec (.undervoltage die v u) s = .next t ∧ trip t die 1 ∧
      (∀ f, s.fcodeAt die u = some f → (t.vf die v).fcode = f ∧ s.vreq die f ≤ u) ∧
      (s.fcodeAt die u = none → (t.vf die v).fcode = 16 ∧ (t.vf die v).stretch = true)) ∧
    (x.stretch = true → ∃ t, exec (.supplyReachesVreq die v) s = .next t ∧ t.vf die v = { x with stretch := false }) ∧
    ((s.vf die 0).current = false → ∃ t, exec (.overcurrent die) s = .next t ∧ trip t die 2 ∧ (t.vf die v).current = true) ∧
    ((s.vf die 0).current = true → ∃ t, exec (.overcurrentClear die) s = .next t ∧ t.vf die v = { x with current := false }) ∧
    (∀ mw, s.cycle % 1000000 = 0 → tget s.sampled powerKey ≠ some s.cycle →
      let b := fld (s.reg 0 0x4F 0) 0 14 * 1000
      (b * 105 < mw * 100 → ∃ t, exec (.powerAverageWindow mw) s = .next t ∧ t.overBudget = true ∧
        (s.overBudget = false → trip t 0 3) ∧ (t.vf die v).budget = some (max 16 (s.ceiling die v - 4))) ∧
      (mw < b → ∃ t, exec (.powerAverageWindow mw) s = .next t ∧ t.overBudget = false ∧
        ∀ k, x.budget = some k → (t.vf die v).budget = if k + 4 < s.fceil die v then some (k + 4) else none)) ∧
    (∀ c nj, c < 65536 → ∃ t, exec (.energyChargePost c nj) s = .next t ∧
      (t.ctx c).energy = ((s.ctx c).energy + ((s.ctx c).residue + nj) / 1000) % 2 ^ 64 ∧
      (t.ctx c).residue = ((s.ctx c).residue + nj) % 1000 ∧ (t.ctx c).xregs = (s.ctx c).xregs ∧
      (∀ k, k ≠ c → t.ctx k = s.ctx k) ∧ t.tiles = s.tiles)

/-! ### Registers of the supervisor view -/

/-- R6, R144, R363, R364, R370, R377, R381, R386 to R388, R405, R410, R437, R439, R445 and R452: a write by the host or a
supervisor, by the Access codes of the register's fields and the register's own behaviour; one that is refused changes
no register.  R332 and R388: a tile-map instance of PLACE takes a tile that no other logical tile of its cluster has.  That the
host's refused write traps the supervisor with TINFO 0, and what the bytes that a host does not write stand for, is log entry 28;
the values that are refused beside those that a rule names are log entry 46; the arithmetic of signatures is log entry 27; a
vector beyond a function's own is log entry 62. -/
def Obligations.RegisterWrites : Prop :=
  ∀ (s : State) (o : WriteBy) (die num inst : Nat) (w : Word64), die < 8 → inst < regCount die num → num < 256 →
    s.canWrite o = true → (o = .supervisor → tget s.sampled (hostKey die num inst) ≠ some s.cycle) → o ≠ .host 0 →
    let old := s.reg die num inst
    let w' := match o with | .host be => s.merged die num inst be w | .supervisor => w
    let set_ : Word64 := BitVec.ofNat 64 (s.stamped (regKey die num inst))
    let becomes (i : Instr) (v : Word64) : Prop := ∃ t, exec i s = .next t ∧ t.reg die num inst = v ∧
      (∀ d n k, d < 8 → n < 256 → k < 4096 → (d, n, k) ≠ (die, num, inst) → t.reg d n k = s.reg d n k) ∧
      SameMemory s t ∧ t.tiles = s.tiles
    let plain := Instr.registerWrite o die num inst w
    (∀ be k, k < 64 → bit (s.merged die num inst be w) k = if bit be (k / 8) then bit w k
      else bit (if num = 0x48 ∨ num = 0x5B then old else s.readReg die num inst) k && !bit (w1cBits num) k) ∧
    (num ∈ [0x40, 0x44, 0x54, 0x57, 0x58] → becomes plain w') ∧
    (num = 0x4C → becomes plain (w' &&& 0x7FFFF)) ∧ (num = 0x4E → becomes plain (w' &&& 0xFFFFFFFFFFFF)) ∧
    (num = 0x4F → becomes plain (w' &&& 0x3FFF)) ∧ (num = 0x53 → becomes plain (w' &&& 0x1FFFF)) ∧
    (num = 0x55 → becomes plain (w' &&& 0xFF)) ∧ (num = 0x64 → becomes plain (w' &&& 0xC000FFFFFFFFFFFF)) ∧
    (num = 0x6B → becomes plain (old &&& ~~~(w' &&& 0x1F &&& ~~~set_))) ∧
    (num = 0x68 → (∀ r, (s.cl (die * 6 + inst)).raceNext = some r → r.1 ≠ s.cycle) →
      becomes plain (old &&& ~~~(w' &&& 0x8000000000000000 &&& ~~~set_))) ∧
    (num ∈ [0x41, 0x42, 0x43, 0x49, 0x4D, 0x5A, 0x5C, 0x5D, 0x61, 0x62, 0x63, 0x66, 0x69, 0x6D] → becomes plain old) ∧
    (num = 0x48 → ∃ t, exec (.vfctlWrite o die inst w) s = .next t ∧ t.reg die num inst = BitVec.ofNat 64 (fld w' 8 17 * 256)) ∧
    (num ∈ [0x4A, 0x4B] →
      let t0 := s.setReg die num 0 (w' &&& 0x3F3F3F3F3F3F3F3F)
      let rises := (∀ j, j < 16 → t0.curve die j ≤ 48) ∧ ∀ j, j < 15 → t0.curve die j ≤ t0.curve die (j + 1)
      (rises → ∃ t, exec (.curveWrite o die num w) s = .next t ∧ t.reg die num 0 = w' &&& 0x3F3F3F3F3F3F3F3F) ∧
      (¬rises → becomes (.curveWrite o die num w) old)) ∧
    (num = 0x50 → becomes (.rungcapWrite o die inst w) (w' &&& 3)) ∧
    (num = 0x59 → becomes (.hostirq o die w) old ∧ ∃ t, exec (.hostirq o die w) s = .next t ∧
      t.msix = s.msix ++ if s.hostUp = true ∧ fld w' 11 5 ≤ 16 ∧ fld w' 0 11 < (if fld w' 11 5 = 0 then 128 else 120)
        then [(fld w' 11 5, fld w' 0 11)] else []) ∧
    (num = 0x51 →
      let dies_ := (List.range (fld w' 20 3)).map fun j => fld w' (4 * j) 4 / 2
      let refused := bit w' 31 = true ∧ ((fld w' 20 3 ≠ 3 ∧ fld w' 20 3 ≠ 5) ∨ ¬dies_.Nodup)
      (¬refused → becomes (.qsetWrite o die inst w) (w' &&& 0xFC7FFFFF)) ∧ (refused → becomes (.qsetWrite o die inst w) old)) ∧
    (num = 0x52 → becomes (.dqtWrite o die inst w) (w' &&& 0x80000000FFFFFFFF) ∧
      ∃ t, exec (.dqtWrite o die inst w) s = .next t ∧ t.dieQueue die inst = {}) ∧
    (num = 0x56 → inst < 1024 →
      let clash := ∃ k, k < 1024 ∧ k ≠ inst ∧ bit (s.reg die 0x56 k) 63 = true ∧ fld (s.reg die 0x56 k) 0 16 = fld w' 0 16
      (bit w' 63 = false ∨ ¬clash → becomes (.placeWrite o die inst w) (w' &&& 0xFFFFFFFFFF7FFFFF)) ∧
      (bit w' 63 = true → clash → becomes (.placeWrite o die inst w) old)) ∧
    (num = 0x56 → 1024 ≤ inst → inst < 1600 →
      let n := fld w' 0 7
      let first := 1024 + (inst - 1024) / 96 * 96
      let taken := ∃ k, k < 96 ∧ first + k ≠ inst ∧ s.reg die 0x56 (first + k) = BitVec.ofNat 64 n
      (n < 96 → ¬taken → becomes (.placeWrite o die inst w) (BitVec.ofNat 64 n)) ∧
      (96 ≤ n ∨ taken → becomes (.placeWrite o die inst w) old)) ∧
    (num = 0x65 → tgetD s.testFence (die * 576 + inst) 0 = 0 → becomes (.tfenceWrite o die inst w) (w' &&& 0x1FFF)) ∧
    (num = 0x60 → bit w' 63 = true → bit w' 59 = false → ∃ t, exec (.erstatusClear o die inst w) s = .next t ∧
      t.reg die 0x60 inst = old &&& 0x0800000000000000 ∧
      t.reg die 0x61 inst = 0 ∧ t.reg die 0x62 inst = 0 ∧ t.reg die 0x63 inst = 0 ∧ SameMemory s t ∧ t.tiles = s.tiles) ∧
    (num = 0x5B → inst < 3 → becomes (.attnonce o die inst w) w') ∧
    (num = 0x5B → inst = 3 → ∃ t, exec (.attnonce o die inst w) s = .next t ∧
      tget t.attest die = some [s.reg die num 0, s.reg die num 1, s.reg die num 2, w'] ∧
      ∀ k, k < 24 → t.reg die 0x5C k = 0) ∧
    (num = 0x6A → 256 ≤ fld w' 0 16 → becomes (.rhctlWrite o die inst w) (w' &&& 0xFFFFFFFFFFFF)) ∧
    (num = 0x6A → fld w' 0 16 < 256 → becomes (.rhctlWrite o die inst w) old) ∧
    (num = 0x6C → bit w' 62 = false → becomes (.linkctlRetrain o die inst w) (setFld old 0 32 (fld w' 0 32))) ∧
    (num = 0x6C → bit w' 62 = true → ∃ t, exec (.linkctlRetrain o die inst w) s = .next t ∧ t.linkUp die inst = false ∧
      (die, inst) ∈ t.training ∧ fld (t.reg die num inst) 0 32 = fld w' 0 32 ∧
      ∀ p, facing die inst = some p → t.linkUp p.1 p.2 = false) ∧
    (∀ a b c d : Word64, tget s.attest die = some [a, b, c, d] → ∃ t, exec (.attestReportReady die) s = .next t ∧
      (∀ k, k < 4 → t.reg die 0x5C k = [a, b, c, d].getD k 0) ∧
      (∀ k, k < 8 → t.reg die 0x5C (4 + k) = s.reg die 0x5D k) ∧ t.reg die 0x5C 12 = BitVec.ofNat 64 (s.dieCycle die) ∧
      let body := (List.range 16).flatMap fun j => bytesOf (t.reg die 0x5C j) 8
      ∀ k, k < 8 → t.reg die 0x5C (16 + k) =
        BitVec.ofNat 64 (bfield (edSign (bytesOf (Config.identitySeed die) 32) body) (8 * k) 8))

/-! ### The host, links, tests and starts -/

/-- R373 to R375, R402, R405, R407, R409, R410, R443 to R446, R450 and R451: the host's access through a function's aperture and
its completion, a function's reset, errors of the host link and of a die's ports, training, and a targeted self-test.  That an
access enters at die 0, needs no U bit, and has no effect if one byte of it fails, is the model's choice (log entry 35); so is
which ports face one another (log entry 28), and that the row of a function's reset is its beginning and its end in turn (log
entry 63).  The register number 0x102 of the MSI-X table is the model's own (log entry 31). -/
def Obligations.HostAndLinkEvents : Prop :=
  ∀ (s : State) (die inst : Nat), die < 8 → inst < regCount die 0x6C →
    let v := s.reg die 0x6C inst
    (∀ fn off wr data, fn < 17 → s.hostUp = true → (s.port fn).inReset = true ∨ 2 ^ 40 < BitVec.toNat off + data.length →
      exec (.bar4Access fn off wr data) s = .next { s with completion := some .unsupported }) ∧
    (∀ fn off wr data, fn < 17 → (s.port fn).inReset = false → s.hostUp = true → Memory.wf s.mem = true →
      BitVec.toNat off + data.length ≤ 2 ^ 30 →
      (s.barRun (s.reg 0 0x58 fn).toNat wr data.length (BitVec.toNat off) = none →
        exec (.bar4Access fn off wr data) s = .next { s with completion := some .abort }) ∧
      (∀ ps, s.barRun (s.reg 0 0x58 fn).toNat wr data.length off.toNat = some ps → ps.Nodup →
        ∃ t, exec (.bar4Access fn off wr data) s = .next t ∧ t.tiles = s.tiles ∧ t.ctxs = s.ctxs ∧
          t.completion = some (.done (if wr = true then [] else ps.map (memGet s.mem ·))) ∧
          (wr = false → t = { s with llc := t.llc, completion := t.completion }) ∧
          (wr = true → ∀ a, memGet t.mem a = match ps.idxOf? a with | some k => data.getD k 0 | none => memGet s.mem a))) ∧
    (∀ num i k, num < 256 → i < 4096 → k < 8 → s.barByte 0 0 (die * 2 ^ 23 + num * 2 ^ 15 + 8 * i + k) =
      some (BitVec.ofNat 8 (fld (s.readReg die num i) (8 * k) 8))) ∧
    (∀ fn k, fn < 17 → k < 8 → s.barByte fn 2 k = some 0 ∧ s.barByte fn 2 (8 + k) = some (BitVec.ofNat 8
      (natBits ((s.port fn).count % 2 ^ 32 * 2 ^ 32 + b2n (s.port fn).drop * 128 + b2n (s.port fn).refused * 64 +
        (s.port fn).st % 4) (8 * k) 8))) ∧
    (∀ fn k (be : BitVec 8) (w : Word64), fn < 17 → k < 256 → s.hostUp = true → be ≠ 0 → Tbl.wf (s.port fn).table = true →
      ∃ t, exec (.registerWrite (.host be) 0 0x102 (256 * fn + k) w) s = .next t ∧ t.ctxs = s.ctxs ∧ SameMemory s t ∧
        ∀ j, j < 8 → t.barByte fn 2 (0x1000 + 8 * k + j) =
          if be.getLsbD j then some (BitVec.ofNat 8 (fld w (8 * j) 8)) else s.barByte fn 2 (0x1000 + 8 * k + j)) ∧
    (∀ fn, 1 ≤ fn → fn < 17 →
      ((s.port fn).inReset = false → ∃ t, exec (.functionLevelReset (.virtual fn)) s = .next t ∧ (t.port fn).inReset = true ∧
        (t.port fn).st = 0 ∧ SameMemory s t) ∧
      ((s.port fn).inReset = true → ∃ t, exec (.functionLevelReset (.virtual fn)) s = .next t ∧
        t.port fn = { s.port fn with inReset := false } ∧ t.ctxs = s.ctxs)) ∧
    (s.hostUp = true → ∃ t, exec (.hostLinkError .down) s = .next t ∧ t.hostUp = false ∧ t.ctxs = s.ctxs) ∧
    (∀ e ∈ [HostErr.correctable, .uncorrectable], ∃ t, exec (.hostLinkError e) s = .next t ∧ t.hostUp = s.hostUp ∧
      t.ctxs = s.ctxs ∧ SameMemory s t) ∧
    (s.linkUp die inst = true →
      let failed := tgetD s.replays (portKey die inst) 0
      (∃ t, exec (.linkCrcError die inst .replay) s = .next t ∧ tgetD t.replays (portKey die inst) 0 = failed + 1 ∧
        fld (t.reg die 0x6C inst) 16 16 = min (fld v 16 16 + 1) 0xFFFF ∧ t.linkUp die inst = true) ∧
      (failed < 8 → exec (.linkCrcError die inst .down) s = .next s ∧
        ∀ lanes, exec (.linkCrcError die inst (.narrow lanes)) s = .next s) ∧
      (8 ≤ failed → ∃ t, exec (.linkCrcError die inst .down) s = .next t ∧ t.linkUp die inst = false ∧
        ∀ p, facing die inst = some p → t.linkUp p.1 p.2 = false) ∧
      (∀ lanes, 8 ≤ failed → lanes ≠ 0 → ∃ t, exec (.linkCrcError die inst (.narrow lanes)) s = .next t ∧
        BitVec.ofNat 16 (fld (t.reg die 0x6C inst) 0 16) = BitVec.ofNat 16 (fld v 0 16) ||| lanes)) ∧
    ((die, inst) ∈ s.training →
      (fld v 0 16 = 0 → (∀ p, facing die inst = some p → liveLanes (fld (s.reg p.1 0x6C p.2) 0 16) ≠ 0) →
        ∃ t, exec (.linkTrainComplete die inst true) s = .next t ∧ t.linkUp die inst = true ∧
        fld (t.reg die 0x6C inst) 48 5 = 16 ∧ (die, inst) ∉ t.training) ∧
      (∃ t, exec (.linkTrainComplete die inst false) s = .next t ∧ t.linkUp die inst = false ∧ (die, inst) ∉ t.training)) ∧
    (∀ k t, s.testAt die k = some t →
      (t.started = false → s.blockFree t = true → ∃ z, exec (.selfTestStart die k) s = .next z ∧
        { t with started := true } ∈ z.tests ∧ z.tests.length = s.tests.length ∧ z.tiles = s.tiles) ∧
      (t.started = true → ∀ r, ∃ z, exec (.selfTestComplete die k r) s = .next z ∧ t ∉ z.tests ∧
        (r = .lasting → t.src ≤ 10 → (tgetD z.testFence t.pt 0).testBit t.src = true)))

/-- R9, R32, R172, R382, R383, R410, R452 and R453: a start leaves every context but the supervisors' FREE, every launch port
IDLE, every semaphore 0 and CYCLE 0; memory is 0 but what RETMEM keeps and what is not the package's; after a thermal
shutdown nothing but a cold start moves.  That the system context runs on tile 0 with the code of the start's operand
is the model's choice (log entries 15 and 28); so are which registers a warm start keeps, and when TRIPSTAT shows a shutdown
(log entry 63). -/
def Obligations.StartsClear : Prop :=
  ∀ (s : State),
    (∀ (i : Instr) (o : StartObs) (cold keep : Bool), (i = .coldStart o ∧ cold = true ∧ keep = false) ∨
        (s.shutdown = false ∧ cold = false ∧ i = .functionLevelReset (.physical o) ∧ keep = s.retMem) ∨
        (s.shutdown = false ∧ cold = false ∧ s.hostUp = true ∧
          ∃ v : Word64, bit v 0 = true ∧ i = .rstctlWarm v o ∧ keep = bit v 1) →
      ∃ t, exec i s = .next t ∧ t.cycle = 0 ∧ t.tiles = [] ∧ t.spad = [] ∧ t.opnd = [] ∧ t.l1 = [] ∧ t.launches = [] ∧
        (∀ c, c < 65536 → c ≠ 0 → isSupId c = false → (t.ctx c).st = .free) ∧
        ((t.die 0).up = true → (t.die 0).noTiles = false →
          (t.ctx 0).st = .running ∧ (t.ctx 0).place = ⟨0, 0, 0⟩ ∧ (t.ctx 0).pc = 0) ∧ (∀ fn, t.port fn = {}) ∧
        (∀ cl k, t.sem cl k = 0) ∧ t.shutdown = false ∧ (cold = true → t.retMem = false ∧ t.retLink = false) ∧
        (∀ die, die < 8 → ((t.die die).up = true → (t.ctx (supId die)).st = .running ∧ (t.ctx (supId die)).pc = 0) ∧
          (o.failStep = [] → 0 ∉ refusedKinds o die → (t.die die).up = true) ∧
          (o.failStep = [] → 0 ∈ refusedKinds o die → (t.die die).up = false)) ∧
        (∀ a, keep = false → (paHbm a = true ∨ paFar a = true) → memGet t.mem a = 0) ∧
        (∀ a, keep = true → memGet t.mem a = memGet s.mem a) ∧
        (s.shutdown = true → ∀ die, die < 8 → bit (t.reg die 0x6B 0) 4 = true)) ∧
    (∀ v o, s.hostUp = true → s.shutdown = false → bit v 0 = false → ∃ t, exec (.rstctlWarm v o) s = .next t ∧
      t = { s with retMem := bit v 1, retLink := bit v 2 }) ∧
    (s.shutdown = true → s.popTurn.1.coldStart = false →
      ∃ t, Sys2Proof.Machine.step s = .next t ∧ t.cycle = s.cycle ∧ t.mem = s.mem ∧ t.ctxs = s.ctxs ∧ t.tiles = s.tiles)

/-! ### Encodings, steps and whole-machine rules -/

/-- R173 to R182, R193, R197, R198, R251, R257 and R305: words written out from the spec's encodings decode to their
instructions: one-parcel and two-parcel element instructions, a literal, a memory unit's INSN, a matrix token, and
controller commands of two and three parcels. -/
def Obligations.DecodedWords : Prop :=
  let w0 : CtlP2 := { wsem := 0, wthr := 0, wc := false, ssem := 0, sinc := 0, scope := .cluster }
  Decode.elem [0x08008867] = .ok (.fadd (.out 1) (.inp 2) (.inp 3), 1) ∧
  Decode.elem [0x00139CE7] = .ok (.halt, 1) ∧ Decode.elem [0x00039CE7] = .ok (.nop, 1) ∧
  Decode.elem [0x41200027, 0x20000001] =
    .ok (.adds2P (.out 0) (.inp 0) (.inp 1) { Machine.defaultMods .adds with imm := 1 }, 2) ∧
  Decode.mem 0x60039CE7 0x10000000 = .ok (.ld { ty := .bf16, rnd := .rne, imm := 0 }) ∧
  Decode.mx 0x0FDE610031420000 = .ok (.mmaBf16
    { mm1 := 31, nm1 := 15, kg := 3, koff := 0, acc := true, tile := false, dfmt := false, blk := false, int := false
      aclm := 0x31, bclm := 0x42 }) ∧
  Decode.ctl [0x42011001, 0x0C050D10] = .ok (.ctlAddImm 1 1 1
    { wsem := 12, wthr := 2, wc := true, ssem := 13, sinc := 1, scope := .cluster }, 2) ∧
  Decode.ctl [0x83020000, 0, 0x1234] = .ok (.li 2 w0 0x1234, 3) ∧
  Decode.ctl [0x50008005, 0x00001410] = .ok (.copy 0 8 5 { w0 with ssem := 20, sinc := 1 }, 2) ∧
  Decode.elem [0x00E39CE7] = .error .badOpcode ∧ Decode.elem [0xC0000000] = .error .badLen

/-- R173 to R182, R196 to R198 and R257: decoding the encoding of a well-formed instruction gives it back, with every
operand at every value that the encoding admits, whatever parcels follow. -/
def Obligations.EncodingRoundTrip : Prop :=
  ∀ (i : Instr) (rest : List Parcel), i.wf = true →
    (∀ v, Machine.elemView i = some v → Decode.elem (encode i ++ rest) = .ok (i, v.len)) ∧
    (∀ fn m, Decode.memFields i = some (fn, m) → ∃ p0 p1, encode i = [p0, p1] ∧ Decode.mem p0 p1 = .ok i) ∧
    (∀ op t, mxOp i = some (op, t) → ∃ lo hi : BitVec 32, encode i = [lo, hi] ∧ Decode.mx (hi ++ lo) = .ok i) ∧
    (∀ e, Decode.ctlEnc i = some e → Decode.ctl (encode i ++ rest) = .ok (i, (encode i).length))

/-- R45, R193, R252, R267, R416 and R453: the step of the next turn runs exactly the instruction that the unit's words
decode to, in the state with that turn taken; words that a controller cannot decode trap; and an event row runs as it is. -/
def Obligations.StepRunsTheDecodedInstruction : Prop :=
  ∀ (s : State) (rest : List Turn), s.shutdown = false →
    let at_ (a : Agent) : State := { s with sched := rest, cur := a }
    (∀ pt u i n, s.sched = .cu pt u :: rest → s.cuReady pt u = true →
      Decode.elem (((s.cu pt u).store.drop (s.cu pt u).pos).take 3) = .ok (i, n) →
      Sys2Proof.Machine.step s = exec i (at_ (.cu pt u))) ∧
    (∀ pt u i, s.sched = .mu pt u :: rest → s.active pt = true → (s.mu pt u).cfg ≠ 0 →
      Decode.mem (BitVec.ofNat 32 (fld (s.mu pt u).cfg 0 32)) (BitVec.ofNat 32 (fld (s.mu pt u).cfg 32 32)) = .ok i →
      Sys2Proof.Machine.step s = exec i (at_ (.mu pt u))) ∧
    (∀ pt i w q, s.sched = .mx pt :: rest → s.active pt = true → (s.mx pt).queue.head? = some (.tok w q) →
      Decode.mx w = .ok i → Sys2Proof.Machine.step s = exec i (at_ (.mx pt))) ∧
    (∀ c i n, s.sched = .ctl c :: rest → (s.ctx c).runs = true → isSupId c = true →
      Decode.ctl ((s.ctx c).code.drop (s.ctx c).pc) = .ok (i, n) → i.wf = true →
      Sys2Proof.Machine.step s = exec i (at_ (.ctl c))) ∧
    (∀ c i n, s.sched = .ctl c :: rest → (s.ctx c).runs = true → (fld ((s.ctx c).code.getD (s.ctx c).pc 0) 24 6 ≠ 0x1C) →
      Decode.ctl ((s.ctx c).code.drop (s.ctx c).pc) = .ok (i, n) → i.wf = true →
      Sys2Proof.Machine.step s = exec i (at_ (.ctl c))) ∧
    (∀ c e, s.sched = .ctl c :: rest → (s.ctx c).runs = true → isSupId c = false →
      (fld ((s.ctx c).code.getD (s.ctx c).pc 0) 24 6 ≠ 0x1C) →
      Decode.ctl ((s.ctx c).code.drop (s.ctx c).pc) = .error e →
      ∃ t, Sys2Proof.Machine.step s = .next t ∧ (t.ctx c).trapped = some 2 ∧ (t.ctx c).pc = (s.ctx c).pc) ∧
    (∀ i, s.sched = .op i :: rest → Sys2Proof.Machine.step s = exec i { s with sched := rest, cur := .event })

/-- R32, R36, R64, R172, R271, R363, R364, R369, R370, R375, R383, R387, R388, R407 and R439: what stands at reset: no
context, port, trap or semaphore; CYCLE 0; memory 0; the frequencies, thresholds and limits at the values that the spec
gives; and every storage in its one form. -/
def Obligations.ResetLeaves : Prop :=
  let s := State.reset
  s.cycle = 0 ∧ s.memWf = true ∧ (∀ k j, s.bitOf k j = false) ∧
  (∀ c, (s.ctx c).st = .free) ∧ (∀ fn, (s.port fn).st = 0) ∧ (∀ cl k, s.sem cl k = 0) ∧
  (∀ cl, (s.cl cl).xbar.inputs = [] ∧ (s.cl cl).xbar.outputs = []) ∧
  (∀ d, (s.die d).traps = [] ∧ (s.die d).serving = none) ∧
  (∀ d v, (s.vf d v).fcode = 16 ∧ (s.vf d v).st = 0 ∧ (s.vf d v).pend = none ∧ (s.vf d v).guard = false ∧
    s.vcode d v = s.curve d 0) ∧
  (∀ d k, s.reg d 0x48 k = BitVec.ofNat 64 (1 * 2 ^ 24 + 132 * 2 ^ 16 + 16 * 2 ^ 8) ∧ s.reg d 0x4C k = 65536 ∧
    s.reg d 0x4E k = BitVec.ofNat 64 (440 * 2 ^ 32 + 400 * 2 ^ 16 + 380) ∧ s.reg d 0x4F k = 8000 ∧ s.reg d 0x50 k = 3 ∧
    s.reg d 0x64 k = BitVec.ofNat 64 (2 ^ 63 + 256) ∧ s.reg d 0x6A k = BitVec.ofNat 64 (350 * 2 ^ 16 + 4096)) ∧
  (∀ d k, ∀ n ∈ [0x40, 0x44, 0x51, 0x52, 0x53, 0x54, 0x55, 0x57, 0x58, 0x60, 0x61, 0x62, 0x63, 0x65, 0x67, 0x68, 0x69, 0x6B,
    0x6D], s.reg d n k = 0)

/-- The model's invariant (R4; log entry 3): every step keeps physical memory, the scratchpads and operand memory in the
one form in which equal contents are equal lists. -/
def Obligations.StepsKeepMemoryForm : Prop :=
  ∀ s t : State, s.memWf = true → Sys2Proof.Machine.step s = .next t → t.memWf = true

/-- R405 to R408 and R417: an error found in a CYCLE is recorded as the CYCLE ends: in the lowest-numbered free bank of its
location; where all hold records, over the lowest-ranked, the lowest-numbered among equals, if it ranks above that one, and
else as that bank's OVF; every bank of the location counts it (log entry 64).  Of two errors of one location the higher-ranked is placed first, then the one of the lower SRC.
With IE a UC or DEF record traps the supervisor with its bank; a CE is counted, and traps at the threshold. -/
def Obligations.ErrorRecords : Prop :=
  ∀ (s : State) (e : ErrFound) (rest : List Turn) (i : Nat), s.sched = .tick 1 :: rest → s.shutdown = false →
    (∀ p ∈ s.clusters, p.2.late = []) → e.src < 256 → e.type < 256 → e.ctx < 65536 →
    let inLoc (k : Nat) : Prop := e.loc.banks.1 ≤ k ∧ k < e.loc.banks.1 + e.loc.banks.2
    let old (n k : Nat) : Word64 := s.reg e.die n k
    let valid (k : Nat) : Prop := bit (old 0x60 k) 63 = true
    let rank (k : Nat) : Nat := if bit (old 0x60 k) 62 then 2 else if bit (old 0x60 k) 61 then 1 else 0
    let ends (P : State → Prop) : Prop :=
      ∃ t, Sys2Proof.Machine.step s = .next t ∧ t.cycle = s.cycle + 1 ∧ t.found = [] ∧ SameMemory s t ∧ P t
    let counted (t : State) (n : Nat) : Prop :=
      ∀ k, inLoc k → fld (t.reg e.die 0x63 k) 32 16 = min 0xFFFF (fld (old 0x63 k) 32 16 + n)
    let holds (x : ErrFound) (k : Nat) (t : State) : Prop :=
      let w := t.reg e.die 0x60 k
      bit w 63 = true ∧ bit w 62 = decide (x.cls = .uc) ∧ bit w 61 = decide (x.cls = .defd) ∧ bit w 60 = decide (x.cls = .ce) ∧
      bit w 59 = bit (old 0x60 k) 59 ∧ fld w 48 8 = x.src ∧ fld w 40 8 = x.type ∧
      t.reg e.die 0x61 k = BitVec.ofNat 64 x.addr ∧ t.reg e.die 0x62 k = BitVec.ofNat 64 x.syn ∧
      fld (t.reg e.die 0x63 k) 0 16 = x.ctx
    let ctl := old 0x64 e.loc.ctl
    let traps (t : State) (info : Nat) : Prop :=
      bit ctl 63 = true → TrapEntered s t e.die { cause := 9, ctx := e.ctx, info := BitVec.ofNat 64 info }
    let firstFree (k : Nat) : Prop := inLoc k ∧ ¬valid k ∧ ∀ m, inLoc m → m < k → valid m
    (s.found = [e] → firstFree i → ends fun t => holds e i t ∧ counted t 1 ∧
      (e.cls ≠ .ce → traps t i) ∧
      (e.cls = .ce → fld ctl 32 16 + 1 < 65536 →
        (fld ctl 0 16 ≠ 0 ∧ fld ctl 32 16 + 1 = fld ctl 0 16 → fld (t.reg e.die 0x64 e.loc.ctl) 32 16 = 0 ∧ traps t e.loc.ctl) ∧
        (fld ctl 0 16 = 0 ∨ fld ctl 32 16 + 1 ≠ fld ctl 0 16 →
          fld (t.reg e.die 0x64 e.loc.ctl) 32 16 = fld ctl 32 16 + 1))) ∧
    (s.found = [e] → (∀ k, inLoc k → valid k) → inLoc i → (∀ k, inLoc k → rank i ≤ rank k ∧ (k < i → rank i < rank k)) →
      (rank i < e.cls.rank → ends fun t => holds e i t ∧ counted t 1) ∧
      (e.cls.rank ≤ rank i → ends fun t => t.reg e.die 0x60 i = setFld (old 0x60 i) 59 1 1 ∧
        t.reg e.die 0x61 i = old 0x61 i ∧ t.reg e.die 0x62 i = old 0x62 i ∧ counted t 1)) ∧
    (∀ (f : ErrFound) (j : Nat), s.found = [f, e] → f.die = e.die → f.loc = e.loc → f.src < 256 → f.type < 256 → f.ctx < 65536 →
      (f.cls.rank < e.cls.rank ∨ f.cls = e.cls ∧ e.src < f.src) → firstFree i → inLoc j → i < j → ¬valid j →
      (∀ m, inLoc m → m < j → m ≠ i → valid m) → ends fun t =>
        holds e i t ∧ holds f j t ∧ counted t 2)
end

