-- ==== Sys2Proof/Laws/Frames.lean ====
section
/-! SUPPORT. What each shared operation can change, said once for each: it answers the state with a few fields replaced, and
every other field is as it was. -/

namespace Sys2Proof.Machine

/-! ### Five frames -/

/-- At most clusters, launches, registers and the notes of set W1C bits differ. -/
def SyncOnly (s t : State) : Prop := ∃ cs ls rs hs, t = { s with clusters := cs, launches := ls, regs := rs, hwSet := hs }

/-- At most contexts, dies, clusters, launches, registers and the notes of set W1C bits differ. -/
def CtlOnly (s t : State) : Prop := ∃ xs ds cs ls rs hs,
  t = { s with ctxs := xs, dies := ds, clusters := cs, launches := ls, regs := rs, hwSet := hs }

/-- At most what `CtlOnly` names and the errors found in the CYCLE differ. -/
def ErrOnly (s t : State) : Prop := ∃ xs ds cs ls rs hs es,
  t = { s with ctxs := xs, dies := ds, clusters := cs, launches := ls, regs := rs, hwSet := hs, found := es }

/-- At most what `CtlOnly` names, the tiles and the buffers' credits differ. -/
def TakeOnly (s t : State) : Prop := ∃ xs ds cs ls rs hs ts ns ws,
  t = { s with
    ctxs := xs, dies := ds, clusters := cs, launches := ls, regs := rs, hwSet := hs, tiles := ts, returns := ns, used := ws }

/-- At most what `TakeOnly` names and what is on its way in the fabric differ. -/
def FireOnly (s t : State) : Prop := ∃ xs ds cs ls rs hs ts ns ws fs zs,
  t = { s with
    ctxs := xs, dies := ds, clusters := cs, launches := ls, regs := rs, hwSet := hs, tiles := ts, returns := ns, used := ws
    flights := fs, ctlArriving := zs }

variable {s t u : State}

theorem SyncOnly.refl : SyncOnly s s := ⟨_, _, _, _, rfl⟩

theorem SyncOnly.trans (h : SyncOnly s t) (k : SyncOnly t u) : SyncOnly s u := by
  obtain ⟨_, _, _, _, rfl⟩ := h; obtain ⟨_, _, _, _, rfl⟩ := k; exact ⟨_, _, _, _, rfl⟩

theorem SyncOnly.ctxs (h : SyncOnly s t) : t.ctxs = s.ctxs := by obtain ⟨_, _, _, _, rfl⟩ := h; rfl

theorem SyncOnly.ctl (h : SyncOnly s t) : CtlOnly s t := by
  obtain ⟨_, _, _, _, rfl⟩ := h; exact ⟨_, _, _, _, _, _, rfl⟩

theorem CtlOnly.refl : CtlOnly s s := ⟨_, _, _, _, _, _, rfl⟩

theorem CtlOnly.trans (h : CtlOnly s t) (k : CtlOnly t u) : CtlOnly s u := by
  obtain ⟨_, _, _, _, _, _, rfl⟩ := h; obtain ⟨_, _, _, _, _, _, rfl⟩ := k; exact ⟨_, _, _, _, _, _, rfl⟩

theorem CtlOnly.err (h : CtlOnly s t) : ErrOnly s t := by
  obtain ⟨_, _, _, _, _, _, rfl⟩ := h; exact ⟨_, _, _, _, _, _, _, rfl⟩

theorem ErrOnly.refl : ErrOnly s s := CtlOnly.refl.err

theorem ErrOnly.trans (h : ErrOnly s t) (k : ErrOnly t u) : ErrOnly s u := by
  obtain ⟨_, _, _, _, _, _, _, rfl⟩ := h; obtain ⟨_, _, _, _, _, _, _, rfl⟩ := k
  exact ⟨_, _, _, _, _, _, _, rfl⟩

theorem CtlOnly.take (h : CtlOnly s t) : TakeOnly s t := by
  obtain ⟨_, _, _, _, _, _, rfl⟩ := h; exact ⟨_, _, _, _, _, _, _, _, _, rfl⟩

theorem TakeOnly.refl : TakeOnly s s := CtlOnly.refl.take

theorem TakeOnly.trans (h : TakeOnly s t) (k : TakeOnly t u) : TakeOnly s u := by
  obtain ⟨_, _, _, _, _, _, _, _, _, rfl⟩ := h; obtain ⟨_, _, _, _, _, _, _, _, _, rfl⟩ := k
  exact ⟨_, _, _, _, _, _, _, _, _, rfl⟩

theorem TakeOnly.flights (h : TakeOnly s t) : t.flights = s.flights := by
  obtain ⟨_, _, _, _, _, _, _, _, _, rfl⟩ := h; rfl

theorem CtlOnly.tiles (h : CtlOnly s t) : t.tiles = s.tiles := by obtain ⟨_, _, _, _, _, _, rfl⟩ := h; rfl

theorem TakeOnly.fire (h : TakeOnly s t) : FireOnly s t := by
  obtain ⟨_, _, _, _, _, _, _, _, _, rfl⟩ := h; exact ⟨_, _, _, _, _, _, _, _, _, _, _, rfl⟩

theorem FireOnly.refl : FireOnly s s := TakeOnly.refl.fire

theorem FireOnly.trans (h : FireOnly s t) (k : FireOnly t u) : FireOnly s u := by
  obtain ⟨_, _, _, _, _, _, _, _, _, _, _, rfl⟩ := h; obtain ⟨_, _, _, _, _, _, _, _, _, _, _, rfl⟩ := k
  exact ⟨_, _, _, _, _, _, _, _, _, _, _, rfl⟩

theorem CtlOnly.fold {α : Type} {f : State → α → State} (h : ∀ s a, CtlOnly s (f s a)) (l : List α) (s : State) :
    CtlOnly s (l.foldl f s) := by
  induction l generalizing s with
  | nil => exact .refl
  | cons a l ih => exact (h s a).trans (ih _)

theorem TakeOnly.fold {α : Type} {f : State → α → State} (h : ∀ s a, TakeOnly s (f s a)) (l : List α) (s : State) :
    TakeOnly s (l.foldl f s) := by
  induction l generalizing s with
  | nil => exact .refl
  | cons a l ih => exact (h s a).trans (ih _)

theorem FireOnly.fold {α : Type} {f : State → α → State} (h : ∀ s a, FireOnly s (f s a)) (l : List α) (s : State) :
    FireOnly s (l.foldl f s) := by
  induction l generalizing s with
  | nil => exact .refl
  | cons a l ih => exact (h s a).trans (ih _)

variable (s : State)

/-! ### Traps, semaphores and releases -/

theorem State.raise_only (die : Nat) (t : TrapEnt) : CtlOnly s (s.raise die t) := ⟨_, _, _, _, _, _, rfl⟩

/-- Where a trap enters a queue: behind those that do not yield to it, before one that does (R417). -/
theorem enterTrap_splits (t : TrapEnt) (l : List TrapEnt) : ∃ p q, l = p ++ q ∧ enterTrap t l = p ++ t :: q ∧
    (∀ x ∈ p, x.yields t = false) ∧ ∀ x, q.head? = some x → x.yields t = true := by
  induction l with
  | nil => exact ⟨[], [], rfl, rfl, by simp, by simp⟩
  | cons x l ih =>
    by_cases h : x.yields t
    · exact ⟨[], x :: l, rfl, by simp [enterTrap, h], by simp, by simpa using h⟩
    · obtain ⟨p, q, rfl, he, hp, hq⟩ := ih
      exact ⟨x :: p, q, rfl, by simp [enterTrap, h, he], by simpa [h] using hp, hq⟩

theorem State.raceRestart_only (cl : Nat) : SyncOnly s (s.raceRestart cl) := ⟨_, _, _, _, rfl⟩

theorem State.track_only (cl c : Nat) : SyncOnly s (s.track cl c) := by
  unfold State.track; dsimp only; split
  · exact .refl
  · split <;> exact ⟨_, _, _, _, rfl⟩

theorem State.raceAll_only (f : RaceDet → RaceDet) : SyncOnly s (s.raceAll f) := ⟨_, _, _, _, rfl⟩

theorem State.raceRelease_only (c : Nat) (ob : Nat × Nat) : SyncOnly s (s.raceRelease c ob) := by
  unfold State.raceRelease; dsimp only
  split
  · exact (s.raceAll_only _).trans (State.raceRestart_only _ _)
  · exact s.raceAll_only _

theorem State.raceAcquire_only (c : Nat) (ob : Nat × Nat) : SyncOnly s (s.raceAcquire c ob) :=
  s.raceAll_only _

theorem State.xpulse_only (cl src sel : Nat) : SyncOnly s (s.xpulse cl src sel) := by
  unfold State.xpulse; dsimp only; split <;> exact ⟨_, _, _, _, rfl⟩

theorem State.setGroup_only (j g : Nat) (x : Group) : SyncOnly s (s.setGroup j g x) := by
  unfold State.setGroup; split <;> exact ⟨_, _, _, _, rfl⟩

theorem State.trapAfter_only (c cause : Nat) (info : Word64) : CtlOnly s (s.trapAfter c cause info) := by
  unfold State.trapAfter; split
  · exact .refl
  · exact CtlOnly.trans (t := s.modCtx c _) ⟨_, _, _, _, _, _, rfl⟩ (State.raise_only _ _ _)

theorem State.semAdd_only (c cl k inc : Nat) (info : Word64) : CtlOnly s (s.semAdd c cl k inc info) := by
  have trap : ∀ (b : Prop) [Decidable b] (z : State), CtlOnly s z →
      CtlOnly s (if b then z.trapAfter c causeUnassigned info else z) := fun b _ z h => by
    split
    · exact h.trans (z.trapAfter_only _ _ _)
    · exact h
  unfold State.semAdd; split
  · exact trap _ _ (s.setGroup_only _ _ _).ctl
  · exact trap _ _ ((CtlOnly.trans (t := s.setSem cl k _) ⟨_, _, _, _, _, _, rfl⟩ (State.xpulse_only _ _ _ _).ctl).trans
      ⟨_, _, _, _, _, _, rfl⟩)

theorem State.semInc_only (c cl k inc : Nat) (info : Word64) : CtlOnly s (s.semInc c cl k inc info) := by
  unfold State.semInc; split
  · exact .refl
  · split
    · exact s.semAdd_only _ _ _ _ _
    · exact ⟨_, _, _, _, _, _, rfl⟩

theorem State.applyRel_only (c : Nat) (e : RelEff) : CtlOnly s (s.applyRel c e) := by
  cases e with
  | inc k n info => exact (s.raceRelease_only c _).ctl.trans (State.semInc_only _ _ _ _ _ _)
  | advance n => exact (s.raceRelease_only c _).ctl.trans ⟨_, _, _, _, _, _, rfl⟩

theorem State.release_only (c : Nat) (sc : Scope) (e : RelEff) : CtlOnly s (s.release c sc e) := by
  unfold State.release; dsimp only; split
  · exact s.applyRel_only c e
  · exact ⟨_, _, _, _, _, _, rfl⟩

theorem State.releases_only (c : Nat) : CtlOnly s (s.releases c) := by
  unfold State.releases; dsimp only; split
  · exact .refl
  · exact CtlOnly.trans (t := s.setCtx c _) ⟨_, _, _, _, _, _, rfl⟩ (CtlOnly.fold (fun t _ => t.applyRel_only c _) _ _)

theorem State.signal_only (c : Nat) (g : Signal) : CtlOnly s (s.signal c g) := by
  unfold State.signal; split
  · exact .refl
  · exact s.release_only c _ _

/-! ### The end of a command and of a step -/

theorem State.setCtx_only (c : Nat) (x : Ctx) : CtlOnly s (s.setCtx c x) := ⟨_, _, _, _, _, _, rfl⟩

theorem State.complete_only (c : Nat) : CtlOnly s (s.complete c) := (s.setCtx_only c _).trans (State.signal_only _ _ _)

theorem State.finish_only (c : Nat) (w : CtlP2) (len : Nat) : CtlOnly s (s.finish c w len) :=
  (s.setCtx_only c _).trans (State.signal_only _ _ _)

theorem State.branch_only (c : Nat) (w : CtlP2) (target : Nat) : CtlOnly s (s.branch c w target) :=
  (s.setCtx_only c _).trans (State.signal_only _ _ _)

theorem State.trapCmd_only (c cause : Nat) : CtlOnly s (s.trapCmd c cause) := by
  unfold State.trapCmd; dsimp only; split
  · exact s.setCtx_only _ _
  · exact (s.setCtx_only c _).trans (State.raise_only _ _ _)

theorem State.stepEnd_only (c : Nat) : CtlOnly s (s.stepEnd c) := by
  unfold State.stepEnd; dsimp only
  refine CtlOnly.trans ?_ (State.xpulse_only _ _ _ _).ctl
  split
  · exact (s.setCtx_only c _).trans (State.signal_only _ _ _)
  · exact s.setCtx_only c _

theorem State.stepCheck_only (c : Nat) : CtlOnly s (s.stepCheck c) := by
  unfold State.stepCheck; dsimp only; split
  · exact s.stepEnd_only c
  · exact .refl

theorem State.completeBari_only (c : Nat) (d : XReg) (m : Nat) : CtlOnly s (s.completeBari c d m) :=
  (s.setCtx_only c _).trans (State.complete_only _ _)

theorem State.headCheck_only (pt code : Nat) : CtlOnly s (s.headCheck pt code) := by
  unfold State.headCheck; split
  · exact .refl
  · dsimp only; split
    · split
      · split
        · split
          · exact s.setCtx_only _ _
          · split
            · exact (s.setCtx_only _ _).trans (State.stepCheck_only _ _)
            · exact .refl
        · split
          · split
            · split
              · exact (s.setCtx_only _ _).trans (State.completeBari_only _ _ _ _)
              · exact s.setCtx_only _ _
            · exact s.setCtx_only _ _
          · exact .refl
      · exact .refl
    · exact .refl

/-! ### Buffers -/

theorem State.setCu_only (pt : Nat) (u : Bool) (c : Cu) : TakeOnly s (s.setCu pt u c) := by
  cases u <;> exact ⟨_, _, _, _, _, _, _, _, _, rfl⟩

theorem State.touch_only (pt : Nat) (c : Ctr) : CtlOnly s (s.touch pt c) := by
  unfold State.touch; split <;> exact ⟨_, _, _, _, _, _, rfl⟩

theorem State.free_only (b : BufId) : TakeOnly s (s.free b) :=
  TakeOnly.trans (t := { s with returns := bufPut s.returns b (bufCount s.returns b + 1) })
    ⟨_, _, _, _, _, _, _, _, _, rfl⟩ (State.touch_only _ _ _).take

theorem State.takePort_only (pt : Nat) (u : Bool) (k : Fin 6) (b : Fin 4) : TakeOnly s (s.takePort pt u k b) := by
  unfold State.takePort; dsimp only
  have own : ∀ (p : Prop) [Decidable p] (z y : State), TakeOnly s z → TakeOnly z y → TakeOnly s (if p then y else z) :=
    fun p _ z y h k => by
      split
      · exact h.trans k
      · exact h
  exact own _ _ _ (own _ _ _ (own _ _ _ ((s.setCu_only pt u _).trans (State.touch_only _ _ _).take) (State.free_only _ _))
    (State.headCheck_only _ _ _).take) (State.headCheck_only _ _ _).take

theorem State.take_only (pt : Nat) (u : Bool) (k : Fin 6) : TakeOnly s (s.take pt u k) :=
  (s.setCu_only pt u _).trans (State.takePort_only _ _ _ _ _)

theorem State.takeAll_only (pt : Nat) (u : Bool) (ks : List (Fin 6)) : TakeOnly s (s.takeAll pt u ks) :=
  TakeOnly.fold (fun t k => t.take_only pt u k) ks s

theorem State.ctlTake_only (pt : Nat) (u : Bool) (k : Fin 4) : TakeOnly s (s.ctlTake pt u k) :=
  ((s.setCu_only pt u _).trans (State.touch_only _ _ _).take).trans (State.free_only _ _)

theorem State.takeGate_only (pt : Nat) (u : Bool) (q : Qg) : TakeOnly s (s.takeGate pt u q) := by
  cases q
  · exact .refl
  all_goals exact s.ctlTake_only pt u _

theorem State.spend_only (b : BufId) : TakeOnly s (s.spend b) := ⟨_, _, _, _, _, _, _, _, _, rfl⟩

theorem State.emit_only (pt code : Nat) (tok : Token) : FireOnly s (s.emit pt code tok) := by
  unfold State.emit; dsimp only
  exact ((TakeOnly.fold State.spend_only _ s).fire.trans ⟨_, _, _, _, _, _, _, _, _, _, _, rfl⟩).trans (State.touch_only _ _ _).take.fire

theorem State.emitAll_only (pt : Nat) (codes : List Nat) (tok : Token) : FireOnly s (s.emitAll pt codes tok) :=
  FireOnly.fold (fun t c => t.emit_only pt c tok) codes s

theorem State.sendCtl_only (pt : Nat) (bs : List BufId) (v : Bool) : FireOnly s (s.sendCtl pt bs v) := by
  unfold State.sendCtl; dsimp only
  exact ((TakeOnly.fold State.spend_only _ s).fire.trans ⟨_, _, _, _, _, _, _, _, _, _, _, rfl⟩).trans (State.touch_only _ _ _).take.fire

/-! ### Faults and records -/

theorem State.faultCtx_only (c fcode tile unit pos : Nat) : CtlOnly s (s.faultCtx c fcode tile unit pos) := by
  unfold State.faultCtx; dsimp only; split
  · exact .refl
  · split
    · exact .refl
    · exact .refl
    · exact .refl
    · exact (s.setCtx_only c _).trans (State.raise_only _ _ _)

theorem State.unitFault_only (pt unit fcode pos : Nat) : CtlOnly s (s.unitFault pt unit fcode pos) := by
  unfold State.unitFault; split
  · exact s.faultCtx_only _ _ _ _ _
  · exact .refl

theorem State.errRecord_only (die : Nat) (loc : ErrLoc) (cls : ErrClass) (src type addr syn c : Nat) :
    ErrOnly s (s.errRecord die loc cls src type addr syn c) := ⟨_, _, _, _, _, _, _, rfl⟩

theorem State.tileRecord_only (pt : Nat) (cls : ErrClass) (src type port syn : Nat) :
    ErrOnly s (s.tileRecord pt cls src type port syn) := s.errRecord_only _ _ _ _ _ _ _ _

theorem State.consumePoison_only (pt unit pos : Nat) : ErrOnly s (s.consumePoison pt unit pos) :=
  (s.tileRecord_only _ _ _ _ _ _).trans (State.unitFault_only _ _ _ _ _).err

/-! ### A firing -/

theorem State.goto_only (pt : Nat) (u : Bool) (i : Nat) : TakeOnly s (s.goto pt u i) := s.setCu_only pt u _

theorem State.flag_only (pt : Nat) (u : Bool) (f : FlagWord) : TakeOnly s (s.flag pt u f) := by
  unfold State.flag; dsimp only; split
  · exact s.setCu_only pt u _
  · exact (s.setCu_only pt u _).trans ⟨_, _, _, _, _, _, _, _, _, rfl⟩

theorem State.firedRegion_only (pt : Nat) (u : Bool) (v : EView) (fi : Fire) : TakeOnly s (s.firedRegion pt u v fi) := by
  have held : ∀ (x : State) (bs : List BufId) (c : Cu), TakeOnly s x → TakeOnly s ((bs.foldl State.spend x).setCu pt u c) :=
    fun x bs c hx => (hx.trans (TakeOnly.fold State.spend_only _ _)).trans (State.setCu_only _ _ _ _)
  have asks : ∀ (y : State) (c : Nat), TakeOnly s y → TakeOnly s (match fi.req with
      | none => y
      | some (l, r) =>
        let x := y.ctx c
        let lp := tgetD x.loops l {}
        let s3 := y.setCtx c { x with loops := tset x.loops l { lp with inbound := lp.inbound ++ [⟨s.requestDue c l pt, pt, u, r⟩] } }
        match r with
        | .join _ _ _ | .probe _ _ =>
          let s4 := ((v.outs.map (outCode u)).flatMap (s3.outBufs pt)).foldl State.spend s3
          s4.setCu pt u { s4.cu pt u with rotj := some (Fin.ofNat 8 l) }
        | _ => s3) := by
    intro y c hy
    have set : ∀ x, TakeOnly s (y.setCtx c x) := fun x => hy.trans (y.setCtx_only c x).take
    rcases fi.req with _ | ⟨l, r⟩
    · exact hy
    · cases r
      case join => exact held _ _ _ (set _)
      case probe => exact held _ _ _ (set _)
      all_goals exact set _
  have main : ∀ z : State, TakeOnly s z → TakeOnly s (match z.owner pt with
      | none => z
      | some c =>
        let s2 := if fi.breaks then z.modCtx c (·.breakReplay (unitKey pt (cuUnit u))) else z
        match fi.req with
        | none => s2
        | some (l, r) =>
          let x := s2.ctx c
          let lp := tgetD x.loops l {}
          let s3 := s2.setCtx c { x with loops := tset x.loops l { lp with inbound := lp.inbound ++ [⟨s.requestDue c l pt, pt, u, r⟩] } }
          match r with
          | .join _ _ _ | .probe _ _ =>
            let s4 := ((v.outs.map (outCode u)).flatMap (s3.outBufs pt)).foldl State.spend s3
            s4.setCu pt u { s4.cu pt u with rotj := some (Fin.ofNat 8 l) }
          | _ => s3) := by
    intro z hz
    split
    · exact hz
    · refine asks _ _ ?_
      split
      · exact hz.trans (State.setCtx_only _ _ _).take
      · exact hz
  unfold State.firedRegion
  cases fi.claim with
  | none => exact main s .refl
  | some k => exact main _ ⟨_, _, _, _, _, _, _, _, _, rfl⟩

theorem State.fired_only (pt : Nat) (u : Bool) (v : EView) (fi : Fire) (o : Option Token) :
    FireOnly s (s.fired pt u v fi o) := by
  have sets : FireOnly s ((fi.writes v).foldl (fun s w => s.setS pt u w.1 w.2) s) :=
    (TakeOnly.fold (fun t _ => t.setCu_only pt u _) _ s).fire
  have flags := sets.trans (State.flag_only _ pt u fi.flags).fire
  have emits : FireOnly s (match o with
      | some tok => (State.flag ((fi.writes v).foldl (fun s w => s.setS pt u w.1 w.2) s) pt u fi.flags).emitAll pt
          (v.outs.map (outCode u)) tok
      | none => State.flag ((fi.writes v).foldl (fun s w => s.setS pt u w.1 w.2) s) pt u fi.flags) := by
    cases o with
    | none => exact flags
    | some tok => exact flags.trans (State.emitAll_only _ _ _ _)
  have ctls : ∀ z, FireOnly s z → FireOnly s (match fi.ctl with
      | some y => z.emitCtl pt u y.1.val y.2
      | none => z) := fun z h => by
    cases fi.ctl with
    | none => exact h
    | some y => exact h.trans (State.sendCtl_only _ _ _ _)
  have region := (ctls _ emits).trans (State.firedRegion_only _ pt u v fi).fire
  unfold State.fired
  cases fi.jump with
  | some i => exact region.trans (State.goto_only _ _ _ _).fire
  | none =>
    cases fi.stay with
    | true => exact region
    | false => exact region.trans (State.goto_only _ _ _ _).fire

end Sys2Proof.Machine
end

