-- ==== Sys2Proof/Laws/Table.lean ====
section
/-! SUPPORT. Tables: a read after a write, a read after a removal, and that both keep the rising order of the keys. -/

namespace Sys2Proof.Machine

variable {α : Type}

@[simp] theorem tget_nil (k : Nat) : tget ([] : Tbl α) k = none := rfl

/-- A read at the key just written. -/
@[simp] theorem tget_tset_self (t : Tbl α) (k : Nat) (v : α) : tget (tset t k v) k = some v := by
  induction t with
  | nil => simp [tset, tget]
  | cons p t ih =>
    obtain ⟨j, w⟩ := p
    simp only [tset]
    split
    · simp [tget]
    · split
      · simp [tget]
      · rename_i h; simp [tget, h, ih]

/-- A read at another key than the one written. -/
theorem tget_tset_ne (t : Tbl α) {k j : Nat} (v : α) (h : j ≠ k) : tget (tset t k v) j = tget t j := by
  induction t with
  | nil => simp [tset, tget, Ne.symm h]
  | cons p t ih =>
    obtain ⟨i, w⟩ := p
    simp only [tset]
    split
    · simp [tget, Ne.symm h]
    · split
      · rename_i hi; subst hi; simp [tget, Ne.symm h]
      · simp only [tget, ih]

/-- A read after a write. -/
theorem tget_tset (t : Tbl α) (k j : Nat) (v : α) : tget (tset t k v) j = if j = k then some v else tget t j := by
  split
  · rename_i h; subst h; simp
  · rename_i h; exact tget_tset_ne t v h

@[simp] theorem tgetD_tset_self (t : Tbl α) (k : Nat) (v d : α) : tgetD (tset t k v) k d = v := by simp [tgetD]

theorem tgetD_tset_ne (t : Tbl α) {k j : Nat} (v d : α) (h : j ≠ k) : tgetD (tset t k v) j d = tgetD t j d := by
  simp [tgetD, tget_tset_ne t v h]

theorem tOrdered_mono {lo lo' : Nat} (t : Tbl α) (h : tOrdered lo t = true) (hl : lo' ≤ lo) : tOrdered lo' t = true := by
  cases t with
  | nil => rfl
  | cons p t =>
    simp only [tOrdered, Bool.and_eq_true, decide_eq_true_eq] at *
    exact ⟨Nat.le_trans hl h.1, h.2⟩

/-- Below its first key a table holds nothing. -/
theorem tget_below {lo k : Nat} (t : Tbl α) (h : tOrdered lo t = true) (hk : k < lo) : tget t k = none := by
  induction t generalizing lo with
  | nil => rfl
  | cons p t ih =>
    obtain ⟨j, w⟩ := p
    simp [tOrdered] at h
    have : j ≠ k := by omega
    simp [tget, this, ih h.2 (by omega)]

theorem tOrdered_tset {lo : Nat} (t : Tbl α) (k : Nat) (v : α) (h : tOrdered lo t = true) (hk : lo ≤ k) :
    tOrdered lo (tset t k v) = true := by
  induction t generalizing lo with
  | nil => simp [tset, tOrdered, hk]
  | cons p t ih =>
    obtain ⟨j, w⟩ := p
    simp [tOrdered] at h
    simp only [tset]
    split
    · simp [tOrdered, hk, h.2]; omega
    · split
      · rename_i e; subst e; simp [tOrdered, h.2, hk]
      · simp [tOrdered, h.1, ih h.2 (by omega)]

theorem tOrdered_tdel {lo : Nat} (t : Tbl α) (k : Nat) (h : tOrdered lo t = true) : tOrdered lo (tdel t k) = true := by
  induction t generalizing lo with
  | nil => rfl
  | cons p t ih =>
    obtain ⟨j, w⟩ := p
    simp [tOrdered] at h
    simp only [tdel]
    split
    · exact tOrdered_mono t h.2 (by omega)
    · simp [tOrdered, h.1, ih h.2]

/-- A write keeps the one form of a table. -/
@[simp] theorem wf_tset (t : Tbl α) (k : Nat) (v : α) (h : Tbl.wf t = true) : Tbl.wf (tset t k v) = true :=
  tOrdered_tset t k v h (Nat.zero_le k)

/-- A removal keeps the one form of a table. -/
@[simp] theorem wf_tdel (t : Tbl α) (k : Nat) (h : Tbl.wf t = true) : Tbl.wf (tdel t k) = true := tOrdered_tdel t k h

theorem tget_tdel_ordered {lo : Nat} (t : Tbl α) (k j : Nat) (h : tOrdered lo t = true) :
    tget (tdel t k) j = if j = k then none else tget t j := by
  induction t generalizing lo with
  | nil => simp [tdel]
  | cons p t ih =>
    obtain ⟨i, w⟩ := p
    simp [tOrdered] at h
    simp only [tdel]
    by_cases hik : i = k
    · subst hik
      by_cases hj : j = i
      · subst hj; simpa using tget_below t h.2 (by omega)
      · simp [tget, hj, Ne.symm hj]
    · simp only [hik, if_false, tget, ih h.2]
      by_cases hj : j = k
      · subst hj; simp [hik]
      · simp [hj]

/-- A read after a removal, in a table in its one form. -/
theorem tget_tdel (t : Tbl α) (k j : Nat) (h : Tbl.wf t = true) :
    tget (tdel t k) j = if j = k then none else tget t j := tget_tdel_ordered t k j h

/-- A read of a list after one element is replaced. -/
theorem lset_getElem? (l : List α) (k j : Nat) (v : α) :
    (lset l k v)[j]? = if j = k ∧ k < l.length then some v else l[j]? := by
  induction l generalizing k j with
  | nil => simp [lset]
  | cons x t ih =>
    cases k with
    | zero => cases j <;> simp [lset]
    | succ k => cases j <;> simp [lset, ih]

@[simp] theorem lset_length (l : List α) (k : Nat) (v : α) : (lset l k v).length = l.length := by
  induction l generalizing k with
  | nil => rfl
  | cons x t ih => cases k <;> simp [lset, ih]

end Sys2Proof.Machine
end

