-- ==== Sys2Proof/Laws/State.lean ====
section
/-! SUPPORT. What each update of the state leaves as it was, and what it reads back: one conjunction for each update, so
that no later proof unfolds a record update. -/

namespace Sys2Proof.Machine

variable (s : State)

@[simp] theorem State.setTile_frame (pt : Nat) (t : Tile) :
    (s.setTile pt t).cycle = s.cycle ∧ (s.setTile pt t).ctxs = s.ctxs ∧ (s.setTile pt t).mem = s.mem ∧
    (s.setTile pt t).spad = s.spad ∧ (s.setTile pt t).opnd = s.opnd ∧ (s.setTile pt t).memPoison = s.memPoison ∧
    (s.setTile pt t).spadPoison = s.spadPoison ∧ (s.setTile pt t).opndPoison = s.opndPoison ∧
    (s.setTile pt t).flights = s.flights ∧ (s.setTile pt t).arriving = s.arriving ∧
    (s.setTile pt t).ctlArriving = s.ctlArriving ∧ (s.setTile pt t).elastic = s.elastic ∧
    (s.setTile pt t).elasticCtl = s.elasticCtl ∧ (s.setTile pt t).used = s.used ∧
    (s.setTile pt t).returns = s.returns ∧ (s.setTile pt t).clusters = s.clusters ∧ (s.setTile pt t).dies = s.dies ∧
    (s.setTile pt t).regs = s.regs ∧ (s.setTile pt t).hwSet = s.hwSet ∧ (s.setTile pt t).rowActs = s.rowActs ∧
    (s.setTile pt t).completion = s.completion ∧ (s.setTile pt t).replays = s.replays ∧
    (s.setTile pt t).found = s.found ∧ (s.setTile pt t).msix = s.msix ∧ (s.setTile pt t).l1 = s.l1 ∧
    (s.setTile pt t).llc = s.llc ∧ (s.setTile pt t).muTlb = s.muTlb ∧ (s.setTile pt t).clTlb = s.clTlb ∧
    (s.setTile pt t).walks = s.walks ∧ (s.setTile pt t).launches = s.launches ∧ (s.setTile pt t).ports = s.ports ∧
    (s.setTile pt t).nextLaunch = s.nextLaunch ∧ (s.setTile pt t).colls = s.colls ∧
    (s.setTile pt t).nextColl = s.nextColl ∧ (s.setTile pt t).staged = s.staged ∧
    (s.setTile pt t).written = s.written ∧ (s.setTile pt t).nextImage = s.nextImage ∧
    (s.setTile pt t).retired = s.retired ∧ (s.setTile pt t).vfs = s.vfs ∧ (s.setTile pt t).sensors = s.sensors ∧
    (s.setTile pt t).noPlace = s.noPlace ∧ (s.setTile pt t).overBudget = s.overBudget ∧
    (s.setTile pt t).tests = s.tests ∧ (s.setTile pt t).testFence = s.testFence ∧
    (s.setTile pt t).training = s.training ∧ (s.setTile pt t).attest = s.attest ∧ (s.setTile pt t).hostUp = s.hostUp ∧
    (s.setTile pt t).shutdown = s.shutdown ∧ (s.setTile pt t).retMem = s.retMem ∧
    (s.setTile pt t).retLink = s.retLink ∧ (s.setTile pt t).cooldown = s.cooldown ∧
    (s.setTile pt t).sampled = s.sampled ∧ (s.setTile pt t).xlPend = s.xlPend ∧ (s.setTile pt t).qops = s.qops ∧
    (s.setTile pt t).nextQop = s.nextQop ∧ (s.setTile pt t).qwrites = s.qwrites ∧ (s.setTile pt t).upset = s.upset ∧
    (s.setTile pt t).cur = s.cur ∧ (s.setTile pt t).sched = s.sched ∧ (s.setTile pt t).rr = s.rr ∧
    (s.setTile pt t).freeCtr = s.freeCtr :=
  ⟨rfl, rfl, rfl, rfl, rfl, rfl, rfl, rfl, rfl, rfl, rfl, rfl, rfl, rfl, rfl, rfl, rfl, rfl, rfl, rfl, rfl, rfl, rfl,
    rfl, rfl, rfl, rfl, rfl, rfl, rfl, rfl, rfl, rfl, rfl, rfl, rfl, rfl, rfl, rfl, rfl, rfl, rfl, rfl, rfl, rfl,
    rfl, rfl, rfl, rfl, rfl, rfl, rfl, rfl, rfl, rfl, rfl, rfl, rfl, rfl, rfl, rfl⟩

@[simp] theorem State.setCtx_frame (c : Nat) (x : Ctx) :
    (s.setCtx c x).cycle = s.cycle ∧ (s.setCtx c x).tiles = s.tiles ∧ (s.setCtx c x).mem = s.mem ∧
    (s.setCtx c x).spad = s.spad ∧ (s.setCtx c x).opnd = s.opnd ∧ (s.setCtx c x).memPoison = s.memPoison ∧
    (s.setCtx c x).spadPoison = s.spadPoison ∧ (s.setCtx c x).opndPoison = s.opndPoison ∧
    (s.setCtx c x).flights = s.flights ∧ (s.setCtx c x).arriving = s.arriving ∧
    (s.setCtx c x).ctlArriving = s.ctlArriving ∧ (s.setCtx c x).elastic = s.elastic ∧
    (s.setCtx c x).elasticCtl = s.elasticCtl ∧ (s.setCtx c x).used = s.used ∧ (s.setCtx c x).returns = s.returns ∧
    (s.setCtx c x).clusters = s.clusters ∧ (s.setCtx c x).dies = s.dies ∧ (s.setCtx c x).regs = s.regs ∧
    (s.setCtx c x).hwSet = s.hwSet ∧ (s.setCtx c x).rowActs = s.rowActs ∧ (s.setCtx c x).completion = s.completion ∧
    (s.setCtx c x).replays = s.replays ∧ (s.setCtx c x).found = s.found ∧ (s.setCtx c x).msix = s.msix ∧
    (s.setCtx c x).l1 = s.l1 ∧ (s.setCtx c x).llc = s.llc ∧ (s.setCtx c x).muTlb = s.muTlb ∧
    (s.setCtx c x).clTlb = s.clTlb ∧ (s.setCtx c x).walks = s.walks ∧ (s.setCtx c x).launches = s.launches ∧
    (s.setCtx c x).ports = s.ports ∧ (s.setCtx c x).nextLaunch = s.nextLaunch ∧ (s.setCtx c x).colls = s.colls ∧
    (s.setCtx c x).nextColl = s.nextColl ∧ (s.setCtx c x).staged = s.staged ∧ (s.setCtx c x).written = s.written ∧
    (s.setCtx c x).nextImage = s.nextImage ∧ (s.setCtx c x).retired = s.retired ∧ (s.setCtx c x).vfs = s.vfs ∧
    (s.setCtx c x).sensors = s.sensors ∧ (s.setCtx c x).noPlace = s.noPlace ∧
    (s.setCtx c x).overBudget = s.overBudget ∧ (s.setCtx c x).tests = s.tests ∧
    (s.setCtx c x).testFence = s.testFence ∧ (s.setCtx c x).training = s.training ∧ (s.setCtx c x).attest = s.attest ∧
    (s.setCtx c x).hostUp = s.hostUp ∧ (s.setCtx c x).shutdown = s.shutdown ∧ (s.setCtx c x).retMem = s.retMem ∧
    (s.setCtx c x).retLink = s.retLink ∧ (s.setCtx c x).cooldown = s.cooldown ∧ (s.setCtx c x).sampled = s.sampled ∧
    (s.setCtx c x).xlPend = s.xlPend ∧ (s.setCtx c x).qops = s.qops ∧ (s.setCtx c x).nextQop = s.nextQop ∧
    (s.setCtx c x).qwrites = s.qwrites ∧ (s.setCtx c x).upset = s.upset ∧ (s.setCtx c x).cur = s.cur ∧
    (s.setCtx c x).sched = s.sched ∧ (s.setCtx c x).rr = s.rr ∧ (s.setCtx c x).freeCtr = s.freeCtr :=
  ⟨rfl, rfl, rfl, rfl, rfl, rfl, rfl, rfl, rfl, rfl, rfl, rfl, rfl, rfl, rfl, rfl, rfl, rfl, rfl, rfl, rfl, rfl, rfl,
    rfl, rfl, rfl, rfl, rfl, rfl, rfl, rfl, rfl, rfl, rfl, rfl, rfl, rfl, rfl, rfl, rfl, rfl, rfl, rfl, rfl, rfl,
    rfl, rfl, rfl, rfl, rfl, rfl, rfl, rfl, rfl, rfl, rfl, rfl, rfl, rfl, rfl, rfl⟩

@[simp] theorem State.setReg_frame (die num inst : Nat) (v : Word64) :
    (s.setReg die num inst v).cycle = s.cycle ∧ (s.setReg die num inst v).tiles = s.tiles ∧
    (s.setReg die num inst v).ctxs = s.ctxs ∧ (s.setReg die num inst v).mem = s.mem ∧
    (s.setReg die num inst v).spad = s.spad ∧ (s.setReg die num inst v).opnd = s.opnd ∧
    (s.setReg die num inst v).memPoison = s.memPoison ∧ (s.setReg die num inst v).spadPoison = s.spadPoison ∧
    (s.setReg die num inst v).opndPoison = s.opndPoison ∧ (s.setReg die num inst v).flights = s.flights ∧
    (s.setReg die num inst v).arriving = s.arriving ∧ (s.setReg die num inst v).ctlArriving = s.ctlArriving ∧
    (s.setReg die num inst v).elastic = s.elastic ∧ (s.setReg die num inst v).elasticCtl = s.elasticCtl ∧
    (s.setReg die num inst v).used = s.used ∧ (s.setReg die num inst v).returns = s.returns ∧
    (s.setReg die num inst v).clusters = s.clusters ∧ (s.setReg die num inst v).dies = s.dies ∧
    (s.setReg die num inst v).hwSet = s.hwSet ∧ (s.setReg die num inst v).rowActs = s.rowActs ∧
    (s.setReg die num inst v).completion = s.completion ∧ (s.setReg die num inst v).replays = s.replays ∧
    (s.setReg die num inst v).found = s.found ∧ (s.setReg die num inst v).msix = s.msix ∧
    (s.setReg die num inst v).l1 = s.l1 ∧ (s.setReg die num inst v).llc = s.llc ∧
    (s.setReg die num inst v).muTlb = s.muTlb ∧ (s.setReg die num inst v).clTlb = s.clTlb ∧
    (s.setReg die num inst v).walks = s.walks ∧ (s.setReg die num inst v).launches = s.launches ∧
    (s.setReg die num inst v).ports = s.ports ∧ (s.setReg die num inst v).nextLaunch = s.nextLaunch ∧
    (s.setReg die num inst v).colls = s.colls ∧ (s.setReg die num inst v).nextColl = s.nextColl ∧
    (s.setReg die num inst v).staged = s.staged ∧ (s.setReg die num inst v).written = s.written ∧
    (s.setReg die num inst v).nextImage = s.nextImage ∧ (s.setReg die num inst v).retired = s.retired ∧
    (s.setReg die num inst v).vfs = s.vfs ∧ (s.setReg die num inst v).sensors = s.sensors ∧
    (s.setReg die num inst v).noPlace = s.noPlace ∧ (s.setReg die num inst v).overBudget = s.overBudget ∧
    (s.setReg die num inst v).tests = s.tests ∧ (s.setReg die num inst v).testFence = s.testFence ∧
    (s.setReg die num inst v).training = s.training ∧ (s.setReg die num inst v).attest = s.attest ∧
    (s.setReg die num inst v).hostUp = s.hostUp ∧ (s.setReg die num inst v).shutdown = s.shutdown ∧
    (s.setReg die num inst v).retMem = s.retMem ∧ (s.setReg die num inst v).retLink = s.retLink ∧
    (s.setReg die num inst v).cooldown = s.cooldown ∧ (s.setReg die num inst v).sampled = s.sampled ∧
    (s.setReg die num inst v).xlPend = s.xlPend ∧ (s.setReg die num inst v).qops = s.qops ∧
    (s.setReg die num inst v).nextQop = s.nextQop ∧ (s.setReg die num inst v).qwrites = s.qwrites ∧
    (s.setReg die num inst v).upset = s.upset ∧ (s.setReg die num inst v).cur = s.cur ∧
    (s.setReg die num inst v).sched = s.sched ∧ (s.setReg die num inst v).rr = s.rr ∧
    (s.setReg die num inst v).freeCtr = s.freeCtr :=
  ⟨rfl, rfl, rfl, rfl, rfl, rfl, rfl, rfl, rfl, rfl, rfl, rfl, rfl, rfl, rfl, rfl, rfl, rfl, rfl, rfl, rfl, rfl, rfl,
    rfl, rfl, rfl, rfl, rfl, rfl, rfl, rfl, rfl, rfl, rfl, rfl, rfl, rfl, rfl, rfl, rfl, rfl, rfl, rfl, rfl, rfl,
    rfl, rfl, rfl, rfl, rfl, rfl, rfl, rfl, rfl, rfl, rfl, rfl, rfl, rfl, rfl, rfl⟩

@[simp] theorem State.setDie_frame (d : Nat) (x : Die) :
    (s.setDie d x).cycle = s.cycle ∧ (s.setDie d x).tiles = s.tiles ∧ (s.setDie d x).ctxs = s.ctxs ∧
    (s.setDie d x).mem = s.mem ∧ (s.setDie d x).spad = s.spad ∧ (s.setDie d x).opnd = s.opnd ∧
    (s.setDie d x).memPoison = s.memPoison ∧ (s.setDie d x).spadPoison = s.spadPoison ∧
    (s.setDie d x).opndPoison = s.opndPoison ∧ (s.setDie d x).flights = s.flights ∧
    (s.setDie d x).arriving = s.arriving ∧ (s.setDie d x).ctlArriving = s.ctlArriving ∧
    (s.setDie d x).elastic = s.elastic ∧ (s.setDie d x).elasticCtl = s.elasticCtl ∧ (s.setDie d x).used = s.used ∧
    (s.setDie d x).returns = s.returns ∧ (s.setDie d x).clusters = s.clusters ∧ (s.setDie d x).regs = s.regs ∧
    (s.setDie d x).hwSet = s.hwSet ∧ (s.setDie d x).rowActs = s.rowActs ∧ (s.setDie d x).completion = s.completion ∧
    (s.setDie d x).replays = s.replays ∧ (s.setDie d x).found = s.found ∧ (s.setDie d x).msix = s.msix ∧
    (s.setDie d x).l1 = s.l1 ∧ (s.setDie d x).llc = s.llc ∧ (s.setDie d x).muTlb = s.muTlb ∧
    (s.setDie d x).clTlb = s.clTlb ∧ (s.setDie d x).walks = s.walks ∧ (s.setDie d x).launches = s.launches ∧
    (s.setDie d x).ports = s.ports ∧ (s.setDie d x).nextLaunch = s.nextLaunch ∧ (s.setDie d x).colls = s.colls ∧
    (s.setDie d x).nextColl = s.nextColl ∧ (s.setDie d x).staged = s.staged ∧ (s.setDie d x).written = s.written ∧
    (s.setDie d x).nextImage = s.nextImage ∧ (s.setDie d x).retired = s.retired ∧ (s.setDie d x).vfs = s.vfs ∧
    (s.setDie d x).sensors = s.sensors ∧ (s.setDie d x).noPlace = s.noPlace ∧
    (s.setDie d x).overBudget = s.overBudget ∧ (s.setDie d x).tests = s.tests ∧
    (s.setDie d x).testFence = s.testFence ∧ (s.setDie d x).training = s.training ∧ (s.setDie d x).attest = s.attest ∧
    (s.setDie d x).hostUp = s.hostUp ∧ (s.setDie d x).shutdown = s.shutdown ∧ (s.setDie d x).retMem = s.retMem ∧
    (s.setDie d x).retLink = s.retLink ∧ (s.setDie d x).cooldown = s.cooldown ∧ (s.setDie d x).sampled = s.sampled ∧
    (s.setDie d x).xlPend = s.xlPend ∧ (s.setDie d x).qops = s.qops ∧ (s.setDie d x).nextQop = s.nextQop ∧
    (s.setDie d x).qwrites = s.qwrites ∧ (s.setDie d x).upset = s.upset ∧ (s.setDie d x).cur = s.cur ∧
    (s.setDie d x).sched = s.sched ∧ (s.setDie d x).rr = s.rr ∧ (s.setDie d x).freeCtr = s.freeCtr :=
  ⟨rfl, rfl, rfl, rfl, rfl, rfl, rfl, rfl, rfl, rfl, rfl, rfl, rfl, rfl, rfl, rfl, rfl, rfl, rfl, rfl, rfl, rfl, rfl,
    rfl, rfl, rfl, rfl, rfl, rfl, rfl, rfl, rfl, rfl, rfl, rfl, rfl, rfl, rfl, rfl, rfl, rfl, rfl, rfl, rfl, rfl,
    rfl, rfl, rfl, rfl, rfl, rfl, rfl, rfl, rfl, rfl, rfl, rfl, rfl, rfl, rfl, rfl⟩

@[simp] theorem State.setCl_frame (k : Nat) (x : Cluster) :
    (s.setCl k x).cycle = s.cycle ∧ (s.setCl k x).tiles = s.tiles ∧ (s.setCl k x).ctxs = s.ctxs ∧
    (s.setCl k x).mem = s.mem ∧ (s.setCl k x).spad = s.spad ∧ (s.setCl k x).opnd = s.opnd ∧
    (s.setCl k x).memPoison = s.memPoison ∧ (s.setCl k x).spadPoison = s.spadPoison ∧
    (s.setCl k x).opndPoison = s.opndPoison ∧ (s.setCl k x).flights = s.flights ∧
    (s.setCl k x).arriving = s.arriving ∧ (s.setCl k x).ctlArriving = s.ctlArriving ∧
    (s.setCl k x).elastic = s.elastic ∧ (s.setCl k x).elasticCtl = s.elasticCtl ∧ (s.setCl k x).used = s.used ∧
    (s.setCl k x).returns = s.returns ∧ (s.setCl k x).dies = s.dies ∧ (s.setCl k x).regs = s.regs ∧
    (s.setCl k x).hwSet = s.hwSet ∧ (s.setCl k x).rowActs = s.rowActs ∧ (s.setCl k x).completion = s.completion ∧
    (s.setCl k x).replays = s.replays ∧ (s.setCl k x).found = s.found ∧ (s.setCl k x).msix = s.msix ∧
    (s.setCl k x).l1 = s.l1 ∧ (s.setCl k x).llc = s.llc ∧ (s.setCl k x).muTlb = s.muTlb ∧
    (s.setCl k x).clTlb = s.clTlb ∧ (s.setCl k x).walks = s.walks ∧ (s.setCl k x).launches = s.launches ∧
    (s.setCl k x).ports = s.ports ∧ (s.setCl k x).nextLaunch = s.nextLaunch ∧ (s.setCl k x).colls = s.colls ∧
    (s.setCl k x).nextColl = s.nextColl ∧ (s.setCl k x).staged = s.staged ∧ (s.setCl k x).written = s.written ∧
    (s.setCl k x).nextImage = s.nextImage ∧ (s.setCl k x).retired = s.retired ∧ (s.setCl k x).vfs = s.vfs ∧
    (s.setCl k x).sensors = s.sensors ∧ (s.setCl k x).noPlace = s.noPlace ∧ (s.setCl k x).overBudget = s.overBudget ∧
    (s.setCl k x).tests = s.tests ∧ (s.setCl k x).testFence = s.testFence ∧ (s.setCl k x).training = s.training ∧
    (s.setCl k x).attest = s.attest ∧ (s.setCl k x).hostUp = s.hostUp ∧ (s.setCl k x).shutdown = s.shutdown ∧
    (s.setCl k x).retMem = s.retMem ∧ (s.setCl k x).retLink = s.retLink ∧ (s.setCl k x).cooldown = s.cooldown ∧
    (s.setCl k x).sampled = s.sampled ∧ (s.setCl k x).xlPend = s.xlPend ∧ (s.setCl k x).qops = s.qops ∧
    (s.setCl k x).nextQop = s.nextQop ∧ (s.setCl k x).qwrites = s.qwrites ∧ (s.setCl k x).upset = s.upset ∧
    (s.setCl k x).cur = s.cur ∧ (s.setCl k x).sched = s.sched ∧ (s.setCl k x).rr = s.rr ∧
    (s.setCl k x).freeCtr = s.freeCtr :=
  ⟨rfl, rfl, rfl, rfl, rfl, rfl, rfl, rfl, rfl, rfl, rfl, rfl, rfl, rfl, rfl, rfl, rfl, rfl, rfl, rfl, rfl, rfl, rfl,
    rfl, rfl, rfl, rfl, rfl, rfl, rfl, rfl, rfl, rfl, rfl, rfl, rfl, rfl, rfl, rfl, rfl, rfl, rfl, rfl, rfl, rfl,
    rfl, rfl, rfl, rfl, rfl, rfl, rfl, rfl, rfl, rfl, rfl, rfl, rfl, rfl, rfl, rfl⟩

@[simp] theorem State.spend_frame (b : BufId) :
    (s.spend b).cycle = s.cycle ∧ (s.spend b).tiles = s.tiles ∧ (s.spend b).ctxs = s.ctxs ∧ (s.spend b).mem = s.mem ∧
    (s.spend b).spad = s.spad ∧ (s.spend b).opnd = s.opnd ∧ (s.spend b).memPoison = s.memPoison ∧
    (s.spend b).spadPoison = s.spadPoison ∧ (s.spend b).opndPoison = s.opndPoison ∧ (s.spend b).flights = s.flights ∧
    (s.spend b).arriving = s.arriving ∧ (s.spend b).ctlArriving = s.ctlArriving ∧ (s.spend b).elastic = s.elastic ∧
    (s.spend b).elasticCtl = s.elasticCtl ∧ (s.spend b).returns = s.returns ∧ (s.spend b).clusters = s.clusters ∧
    (s.spend b).dies = s.dies ∧ (s.spend b).regs = s.regs ∧ (s.spend b).hwSet = s.hwSet ∧
    (s.spend b).rowActs = s.rowActs ∧ (s.spend b).completion = s.completion ∧ (s.spend b).replays = s.replays ∧
    (s.spend b).found = s.found ∧ (s.spend b).msix = s.msix ∧ (s.spend b).l1 = s.l1 ∧ (s.spend b).llc = s.llc ∧
    (s.spend b).muTlb = s.muTlb ∧ (s.spend b).clTlb = s.clTlb ∧ (s.spend b).walks = s.walks ∧
    (s.spend b).launches = s.launches ∧ (s.spend b).ports = s.ports ∧ (s.spend b).nextLaunch = s.nextLaunch ∧
    (s.spend b).colls = s.colls ∧ (s.spend b).nextColl = s.nextColl ∧ (s.spend b).staged = s.staged ∧
    (s.spend b).written = s.written ∧ (s.spend b).nextImage = s.nextImage ∧ (s.spend b).retired = s.retired ∧
    (s.spend b).vfs = s.vfs ∧ (s.spend b).sensors = s.sensors ∧ (s.spend b).noPlace = s.noPlace ∧
    (s.spend b).overBudget = s.overBudget ∧ (s.spend b).tests = s.tests ∧ (s.spend b).testFence = s.testFence ∧
    (s.spend b).training = s.training ∧ (s.spend b).attest = s.attest ∧ (s.spend b).hostUp = s.hostUp ∧
    (s.spend b).shutdown = s.shutdown ∧ (s.spend b).retMem = s.retMem ∧ (s.spend b).retLink = s.retLink ∧
    (s.spend b).cooldown = s.cooldown ∧ (s.spend b).sampled = s.sampled ∧ (s.spend b).xlPend = s.xlPend ∧
    (s.spend b).qops = s.qops ∧ (s.spend b).nextQop = s.nextQop ∧ (s.spend b).qwrites = s.qwrites ∧
    (s.spend b).upset = s.upset ∧ (s.spend b).cur = s.cur ∧ (s.spend b).sched = s.sched ∧ (s.spend b).rr = s.rr ∧
    (s.spend b).freeCtr = s.freeCtr :=
  ⟨rfl, rfl, rfl, rfl, rfl, rfl, rfl, rfl, rfl, rfl, rfl, rfl, rfl, rfl, rfl, rfl, rfl, rfl, rfl, rfl, rfl, rfl, rfl,
    rfl, rfl, rfl, rfl, rfl, rfl, rfl, rfl, rfl, rfl, rfl, rfl, rfl, rfl, rfl, rfl, rfl, rfl, rfl, rfl, rfl, rfl,
    rfl, rfl, rfl, rfl, rfl, rfl, rfl, rfl, rfl, rfl, rfl, rfl, rfl, rfl, rfl, rfl⟩

@[simp] theorem State.setElastic_frame (b : BufId) (ts : List Token) :
    (s.setElastic b ts).cycle = s.cycle ∧ (s.setElastic b ts).tiles = s.tiles ∧ (s.setElastic b ts).ctxs = s.ctxs ∧
    (s.setElastic b ts).mem = s.mem ∧ (s.setElastic b ts).spad = s.spad ∧ (s.setElastic b ts).opnd = s.opnd ∧
    (s.setElastic b ts).memPoison = s.memPoison ∧ (s.setElastic b ts).spadPoison = s.spadPoison ∧
    (s.setElastic b ts).opndPoison = s.opndPoison ∧ (s.setElastic b ts).flights = s.flights ∧
    (s.setElastic b ts).arriving = s.arriving ∧ (s.setElastic b ts).ctlArriving = s.ctlArriving ∧
    (s.setElastic b ts).elasticCtl = s.elasticCtl ∧ (s.setElastic b ts).used = s.used ∧
    (s.setElastic b ts).returns = s.returns ∧ (s.setElastic b ts).clusters = s.clusters ∧
    (s.setElastic b ts).dies = s.dies ∧ (s.setElastic b ts).regs = s.regs ∧ (s.setElastic b ts).hwSet = s.hwSet ∧
    (s.setElastic b ts).rowActs = s.rowActs ∧ (s.setElastic b ts).completion = s.completion ∧
    (s.setElastic b ts).replays = s.replays ∧ (s.setElastic b ts).found = s.found ∧
    (s.setElastic b ts).msix = s.msix ∧ (s.setElastic b ts).l1 = s.l1 ∧ (s.setElastic b ts).llc = s.llc ∧
    (s.setElastic b ts).muTlb = s.muTlb ∧ (s.setElastic b ts).clTlb = s.clTlb ∧ (s.setElastic b ts).walks = s.walks ∧
    (s.setElastic b ts).launches = s.launches ∧ (s.setElastic b ts).ports = s.ports ∧
    (s.setElastic b ts).nextLaunch = s.nextLaunch ∧ (s.setElastic b ts).colls = s.colls ∧
    (s.setElastic b ts).nextColl = s.nextColl ∧ (s.setElastic b ts).staged = s.staged ∧
    (s.setElastic b ts).written = s.written ∧ (s.setElastic b ts).nextImage = s.nextImage ∧
    (s.setElastic b ts).retired = s.retired ∧ (s.setElastic b ts).vfs = s.vfs ∧
    (s.setElastic b ts).sensors = s.sensors ∧ (s.setElastic b ts).noPlace = s.noPlace ∧
    (s.setElastic b ts).overBudget = s.overBudget ∧ (s.setElastic b ts).tests = s.tests ∧
    (s.setElastic b ts).testFence = s.testFence ∧ (s.setElastic b ts).training = s.training ∧
    (s.setElastic b ts).attest = s.attest ∧ (s.setElastic b ts).hostUp = s.hostUp ∧
    (s.setElastic b ts).shutdown = s.shutdown ∧ (s.setElastic b ts).retMem = s.retMem ∧
    (s.setElastic b ts).retLink = s.retLink ∧ (s.setElastic b ts).cooldown = s.cooldown ∧
    (s.setElastic b ts).sampled = s.sampled ∧ (s.setElastic b ts).xlPend = s.xlPend ∧
    (s.setElastic b ts).qops = s.qops ∧ (s.setElastic b ts).nextQop = s.nextQop ∧
    (s.setElastic b ts).qwrites = s.qwrites ∧ (s.setElastic b ts).upset = s.upset ∧ (s.setElastic b ts).cur = s.cur ∧
    (s.setElastic b ts).sched = s.sched ∧ (s.setElastic b ts).rr = s.rr ∧ (s.setElastic b ts).freeCtr = s.freeCtr :=
  ⟨rfl, rfl, rfl, rfl, rfl, rfl, rfl, rfl, rfl, rfl, rfl, rfl, rfl, rfl, rfl, rfl, rfl, rfl, rfl, rfl, rfl, rfl, rfl,
    rfl, rfl, rfl, rfl, rfl, rfl, rfl, rfl, rfl, rfl, rfl, rfl, rfl, rfl, rfl, rfl, rfl, rfl, rfl, rfl, rfl, rfl,
    rfl, rfl, rfl, rfl, rfl, rfl, rfl, rfl, rfl, rfl, rfl, rfl, rfl, rfl, rfl, rfl⟩

@[simp] theorem State.setElasticCtl_frame (b : BufId) (ts : List Bool) :
    (s.setElasticCtl b ts).cycle = s.cycle ∧ (s.setElasticCtl b ts).tiles = s.tiles ∧
    (s.setElasticCtl b ts).ctxs = s.ctxs ∧ (s.setElasticCtl b ts).mem = s.mem ∧ (s.setElasticCtl b ts).spad = s.spad ∧
    (s.setElasticCtl b ts).opnd = s.opnd ∧ (s.setElasticCtl b ts).memPoison = s.memPoison ∧
    (s.setElasticCtl b ts).spadPoison = s.spadPoison ∧ (s.setElasticCtl b ts).opndPoison = s.opndPoison ∧
    (s.setElasticCtl b ts).flights = s.flights ∧ (s.setElasticCtl b ts).arriving = s.arriving ∧
    (s.setElasticCtl b ts).ctlArriving = s.ctlArriving ∧ (s.setElasticCtl b ts).elastic = s.elastic ∧
    (s.setElasticCtl b ts).used = s.used ∧ (s.setElasticCtl b ts).returns = s.returns ∧
    (s.setElasticCtl b ts).clusters = s.clusters ∧ (s.setElasticCtl b ts).dies = s.dies ∧
    (s.setElasticCtl b ts).regs = s.regs ∧ (s.setElasticCtl b ts).hwSet = s.hwSet ∧
    (s.setElasticCtl b ts).rowActs = s.rowActs ∧ (s.setElasticCtl b ts).completion = s.completion ∧
    (s.setElasticCtl b ts).replays = s.replays ∧ (s.setElasticCtl b ts).found = s.found ∧
    (s.setElasticCtl b ts).msix = s.msix ∧ (s.setElasticCtl b ts).l1 = s.l1 ∧ (s.setElasticCtl b ts).llc = s.llc ∧
    (s.setElasticCtl b ts).muTlb = s.muTlb ∧ (s.setElasticCtl b ts).clTlb = s.clTlb ∧
    (s.setElasticCtl b ts).walks = s.walks ∧ (s.setElasticCtl b ts).launches = s.launches ∧
    (s.setElasticCtl b ts).ports = s.ports ∧ (s.setElasticCtl b ts).nextLaunch = s.nextLaunch ∧
    (s.setElasticCtl b ts).colls = s.colls ∧ (s.setElasticCtl b ts).nextColl = s.nextColl ∧
    (s.setElasticCtl b ts).staged = s.staged ∧ (s.setElasticCtl b ts).written = s.written ∧
    (s.setElasticCtl b ts).nextImage = s.nextImage ∧ (s.setElasticCtl b ts).retired = s.retired ∧
    (s.setElasticCtl b ts).vfs = s.vfs ∧ (s.setElasticCtl b ts).sensors = s.sensors ∧
    (s.setElasticCtl b ts).noPlace = s.noPlace ∧ (s.setElasticCtl b ts).overBudget = s.overBudget ∧
    (s.setElasticCtl b ts).tests = s.tests ∧ (s.setElasticCtl b ts).testFence = s.testFence ∧
    (s.setElasticCtl b ts).training = s.training ∧ (s.setElasticCtl b ts).attest = s.attest ∧
    (s.setElasticCtl b ts).hostUp = s.hostUp ∧ (s.setElasticCtl b ts).shutdown = s.shutdown ∧
    (s.setElasticCtl b ts).retMem = s.retMem ∧ (s.setElasticCtl b ts).retLink = s.retLink ∧
    (s.setElasticCtl b ts).cooldown = s.cooldown ∧ (s.setElasticCtl b ts).sampled = s.sampled ∧
    (s.setElasticCtl b ts).xlPend = s.xlPend ∧ (s.setElasticCtl b ts).qops = s.qops ∧
    (s.setElasticCtl b ts).nextQop = s.nextQop ∧ (s.setElasticCtl b ts).qwrites = s.qwrites ∧
    (s.setElasticCtl b ts).upset = s.upset ∧ (s.setElasticCtl b ts).cur = s.cur ∧
    (s.setElasticCtl b ts).sched = s.sched ∧ (s.setElasticCtl b ts).rr = s.rr ∧
    (s.setElasticCtl b ts).freeCtr = s.freeCtr :=
  ⟨rfl, rfl, rfl, rfl, rfl, rfl, rfl, rfl, rfl, rfl, rfl, rfl, rfl, rfl, rfl, rfl, rfl, rfl, rfl, rfl, rfl, rfl, rfl,
    rfl, rfl, rfl, rfl, rfl, rfl, rfl, rfl, rfl, rfl, rfl, rfl, rfl, rfl, rfl, rfl, rfl, rfl, rfl, rfl, rfl, rfl,
    rfl, rfl, rfl, rfl, rfl, rfl, rfl, rfl, rfl, rfl, rfl, rfl, rfl, rfl, rfl, rfl⟩

@[simp] theorem State.setCu_frame (pt : Nat) (u : Bool) (c : Cu) :
    (s.setCu pt u c).cycle = s.cycle ∧ (s.setCu pt u c).ctxs = s.ctxs ∧ (s.setCu pt u c).mem = s.mem ∧
    (s.setCu pt u c).spad = s.spad ∧ (s.setCu pt u c).opnd = s.opnd ∧ (s.setCu pt u c).memPoison = s.memPoison ∧
    (s.setCu pt u c).spadPoison = s.spadPoison ∧ (s.setCu pt u c).opndPoison = s.opndPoison ∧
    (s.setCu pt u c).flights = s.flights ∧ (s.setCu pt u c).arriving = s.arriving ∧
    (s.setCu pt u c).ctlArriving = s.ctlArriving ∧ (s.setCu pt u c).elastic = s.elastic ∧
    (s.setCu pt u c).elasticCtl = s.elasticCtl ∧ (s.setCu pt u c).used = s.used ∧
    (s.setCu pt u c).returns = s.returns ∧ (s.setCu pt u c).clusters = s.clusters ∧ (s.setCu pt u c).dies = s.dies ∧
    (s.setCu pt u c).regs = s.regs ∧ (s.setCu pt u c).hwSet = s.hwSet ∧ (s.setCu pt u c).rowActs = s.rowActs ∧
    (s.setCu pt u c).completion = s.completion ∧ (s.setCu pt u c).replays = s.replays ∧
    (s.setCu pt u c).found = s.found ∧ (s.setCu pt u c).msix = s.msix ∧ (s.setCu pt u c).l1 = s.l1 ∧
    (s.setCu pt u c).llc = s.llc ∧ (s.setCu pt u c).muTlb = s.muTlb ∧ (s.setCu pt u c).clTlb = s.clTlb ∧
    (s.setCu pt u c).walks = s.walks ∧ (s.setCu pt u c).launches = s.launches ∧ (s.setCu pt u c).ports = s.ports ∧
    (s.setCu pt u c).nextLaunch = s.nextLaunch ∧ (s.setCu pt u c).colls = s.colls ∧
    (s.setCu pt u c).nextColl = s.nextColl ∧ (s.setCu pt u c).staged = s.staged ∧
    (s.setCu pt u c).written = s.written ∧ (s.setCu pt u c).nextImage = s.nextImage ∧
    (s.setCu pt u c).retired = s.retired ∧ (s.setCu pt u c).vfs = s.vfs ∧ (s.setCu pt u c).sensors = s.sensors ∧
    (s.setCu pt u c).noPlace = s.noPlace ∧ (s.setCu pt u c).overBudget = s.overBudget ∧
    (s.setCu pt u c).tests = s.tests ∧ (s.setCu pt u c).testFence = s.testFence ∧
    (s.setCu pt u c).training = s.training ∧ (s.setCu pt u c).attest = s.attest ∧ (s.setCu pt u c).hostUp = s.hostUp ∧
    (s.setCu pt u c).shutdown = s.shutdown ∧ (s.setCu pt u c).retMem = s.retMem ∧
    (s.setCu pt u c).retLink = s.retLink ∧ (s.setCu pt u c).cooldown = s.cooldown ∧
    (s.setCu pt u c).sampled = s.sampled ∧ (s.setCu pt u c).xlPend = s.xlPend ∧ (s.setCu pt u c).qops = s.qops ∧
    (s.setCu pt u c).nextQop = s.nextQop ∧ (s.setCu pt u c).qwrites = s.qwrites ∧ (s.setCu pt u c).upset = s.upset ∧
    (s.setCu pt u c).cur = s.cur ∧ (s.setCu pt u c).sched = s.sched ∧ (s.setCu pt u c).rr = s.rr ∧
    (s.setCu pt u c).freeCtr = s.freeCtr := by
  cases u <;> simp [State.setCu]

@[simp] theorem State.setMu_frame (pt : Nat) (u : Bool) (m : Mu) :
    (s.setMu pt u m).cycle = s.cycle ∧ (s.setMu pt u m).ctxs = s.ctxs ∧ (s.setMu pt u m).mem = s.mem ∧
    (s.setMu pt u m).spad = s.spad ∧ (s.setMu pt u m).opnd = s.opnd ∧ (s.setMu pt u m).memPoison = s.memPoison ∧
    (s.setMu pt u m).spadPoison = s.spadPoison ∧ (s.setMu pt u m).opndPoison = s.opndPoison ∧
    (s.setMu pt u m).flights = s.flights ∧ (s.setMu pt u m).arriving = s.arriving ∧
    (s.setMu pt u m).ctlArriving = s.ctlArriving ∧ (s.setMu pt u m).elastic = s.elastic ∧
    (s.setMu pt u m).elasticCtl = s.elasticCtl ∧ (s.setMu pt u m).used = s.used ∧
    (s.setMu pt u m).returns = s.returns ∧ (s.setMu pt u m).clusters = s.clusters ∧ (s.setMu pt u m).dies = s.dies ∧
    (s.setMu pt u m).regs = s.regs ∧ (s.setMu pt u m).hwSet = s.hwSet ∧ (s.setMu pt u m).rowActs = s.rowActs ∧
    (s.setMu pt u m).completion = s.completion ∧ (s.setMu pt u m).replays = s.replays ∧
    (s.setMu pt u m).found = s.found ∧ (s.setMu pt u m).msix = s.msix ∧ (s.setMu pt u m).l1 = s.l1 ∧
    (s.setMu pt u m).llc = s.llc ∧ (s.setMu pt u m).muTlb = s.muTlb ∧ (s.setMu pt u m).clTlb = s.clTlb ∧
    (s.setMu pt u m).walks = s.walks ∧ (s.setMu pt u m).launches = s.launches ∧ (s.setMu pt u m).ports = s.ports ∧
    (s.setMu pt u m).nextLaunch = s.nextLaunch ∧ (s.setMu pt u m).colls = s.colls ∧
    (s.setMu pt u m).nextColl = s.nextColl ∧ (s.setMu pt u m).staged = s.staged ∧
    (s.setMu pt u m).written = s.written ∧ (s.setMu pt u m).nextImage = s.nextImage ∧
    (s.setMu pt u m).retired = s.retired ∧ (s.setMu pt u m).vfs = s.vfs ∧ (s.setMu pt u m).sensors = s.sensors ∧
    (s.setMu pt u m).noPlace = s.noPlace ∧ (s.setMu pt u m).overBudget = s.overBudget ∧
    (s.setMu pt u m).tests = s.tests ∧ (s.setMu pt u m).testFence = s.testFence ∧
    (s.setMu pt u m).training = s.training ∧ (s.setMu pt u m).attest = s.attest ∧ (s.setMu pt u m).hostUp = s.hostUp ∧
    (s.setMu pt u m).shutdown = s.shutdown ∧ (s.setMu pt u m).retMem = s.retMem ∧
    (s.setMu pt u m).retLink = s.retLink ∧ (s.setMu pt u m).cooldown = s.cooldown ∧
    (s.setMu pt u m).sampled = s.sampled ∧ (s.setMu pt u m).xlPend = s.xlPend ∧ (s.setMu pt u m).qops = s.qops ∧
    (s.setMu pt u m).nextQop = s.nextQop ∧ (s.setMu pt u m).qwrites = s.qwrites ∧ (s.setMu pt u m).upset = s.upset ∧
    (s.setMu pt u m).cur = s.cur ∧ (s.setMu pt u m).sched = s.sched ∧ (s.setMu pt u m).rr = s.rr ∧
    (s.setMu pt u m).freeCtr = s.freeCtr := by
  cases u <;> simp [State.setMu]

@[simp] theorem State.setAg_frame (pt : Nat) (g : Bool) (a : Ag) :
    (s.setAg pt g a).cycle = s.cycle ∧ (s.setAg pt g a).ctxs = s.ctxs ∧ (s.setAg pt g a).mem = s.mem ∧
    (s.setAg pt g a).spad = s.spad ∧ (s.setAg pt g a).opnd = s.opnd ∧ (s.setAg pt g a).memPoison = s.memPoison ∧
    (s.setAg pt g a).spadPoison = s.spadPoison ∧ (s.setAg pt g a).opndPoison = s.opndPoison ∧
    (s.setAg pt g a).flights = s.flights ∧ (s.setAg pt g a).arriving = s.arriving ∧
    (s.setAg pt g a).ctlArriving = s.ctlArriving ∧ (s.setAg pt g a).elastic = s.elastic ∧
    (s.setAg pt g a).elasticCtl = s.elasticCtl ∧ (s.setAg pt g a).used = s.used ∧
    (s.setAg pt g a).returns = s.returns ∧ (s.setAg pt g a).clusters = s.clusters ∧ (s.setAg pt g a).dies = s.dies ∧
    (s.setAg pt g a).regs = s.regs ∧ (s.setAg pt g a).hwSet = s.hwSet ∧ (s.setAg pt g a).rowActs = s.rowActs ∧
    (s.setAg pt g a).completion = s.completion ∧ (s.setAg pt g a).replays = s.replays ∧
    (s.setAg pt g a).found = s.found ∧ (s.setAg pt g a).msix = s.msix ∧ (s.setAg pt g a).l1 = s.l1 ∧
    (s.setAg pt g a).llc = s.llc ∧ (s.setAg pt g a).muTlb = s.muTlb ∧ (s.setAg pt g a).clTlb = s.clTlb ∧
    (s.setAg pt g a).walks = s.walks ∧ (s.setAg pt g a).launches = s.launches ∧ (s.setAg pt g a).ports = s.ports ∧
    (s.setAg pt g a).nextLaunch = s.nextLaunch ∧ (s.setAg pt g a).colls = s.colls ∧
    (s.setAg pt g a).nextColl = s.nextColl ∧ (s.setAg pt g a).staged = s.staged ∧
    (s.setAg pt g a).written = s.written ∧ (s.setAg pt g a).nextImage = s.nextImage ∧
    (s.setAg pt g a).retired = s.retired ∧ (s.setAg pt g a).vfs = s.vfs ∧ (s.setAg pt g a).sensors = s.sensors ∧
    (s.setAg pt g a).noPlace = s.noPlace ∧ (s.setAg pt g a).overBudget = s.overBudget ∧
    (s.setAg pt g a).tests = s.tests ∧ (s.setAg pt g a).testFence = s.testFence ∧
    (s.setAg pt g a).training = s.training ∧ (s.setAg pt g a).attest = s.attest ∧ (s.setAg pt g a).hostUp = s.hostUp ∧
    (s.setAg pt g a).shutdown = s.shutdown ∧ (s.setAg pt g a).retMem = s.retMem ∧
    (s.setAg pt g a).retLink = s.retLink ∧ (s.setAg pt g a).cooldown = s.cooldown ∧
    (s.setAg pt g a).sampled = s.sampled ∧ (s.setAg pt g a).xlPend = s.xlPend ∧ (s.setAg pt g a).qops = s.qops ∧
    (s.setAg pt g a).nextQop = s.nextQop ∧ (s.setAg pt g a).qwrites = s.qwrites ∧ (s.setAg pt g a).upset = s.upset ∧
    (s.setAg pt g a).cur = s.cur ∧ (s.setAg pt g a).sched = s.sched ∧ (s.setAg pt g a).rr = s.rr ∧
    (s.setAg pt g a).freeCtr = s.freeCtr := by
  cases g <;> simp [State.setAg]

@[simp] theorem State.setMx_frame (pt : Nat) (m : Mx) :
    (s.setMx pt m).cycle = s.cycle ∧ (s.setMx pt m).ctxs = s.ctxs ∧ (s.setMx pt m).mem = s.mem ∧
    (s.setMx pt m).spad = s.spad ∧ (s.setMx pt m).opnd = s.opnd ∧ (s.setMx pt m).memPoison = s.memPoison ∧
    (s.setMx pt m).spadPoison = s.spadPoison ∧ (s.setMx pt m).opndPoison = s.opndPoison ∧
    (s.setMx pt m).flights = s.flights ∧ (s.setMx pt m).arriving = s.arriving ∧
    (s.setMx pt m).ctlArriving = s.ctlArriving ∧ (s.setMx pt m).elastic = s.elastic ∧
    (s.setMx pt m).elasticCtl = s.elasticCtl ∧ (s.setMx pt m).used = s.used ∧ (s.setMx pt m).returns = s.returns ∧
    (s.setMx pt m).clusters = s.clusters ∧ (s.setMx pt m).dies = s.dies ∧ (s.setMx pt m).regs = s.regs ∧
    (s.setMx pt m).hwSet = s.hwSet ∧ (s.setMx pt m).rowActs = s.rowActs ∧ (s.setMx pt m).completion = s.completion ∧
    (s.setMx pt m).replays = s.replays ∧ (s.setMx pt m).found = s.found ∧ (s.setMx pt m).msix = s.msix ∧
    (s.setMx pt m).l1 = s.l1 ∧ (s.setMx pt m).llc = s.llc ∧ (s.setMx pt m).muTlb = s.muTlb ∧
    (s.setMx pt m).clTlb = s.clTlb ∧ (s.setMx pt m).walks = s.walks ∧ (s.setMx pt m).launches = s.launches ∧
    (s.setMx pt m).ports = s.ports ∧ (s.setMx pt m).nextLaunch = s.nextLaunch ∧ (s.setMx pt m).colls = s.colls ∧
    (s.setMx pt m).nextColl = s.nextColl ∧ (s.setMx pt m).staged = s.staged ∧ (s.setMx pt m).written = s.written ∧
    (s.setMx pt m).nextImage = s.nextImage ∧ (s.setMx pt m).retired = s.retired ∧ (s.setMx pt m).vfs = s.vfs ∧
    (s.setMx pt m).sensors = s.sensors ∧ (s.setMx pt m).noPlace = s.noPlace ∧
    (s.setMx pt m).overBudget = s.overBudget ∧ (s.setMx pt m).tests = s.tests ∧
    (s.setMx pt m).testFence = s.testFence ∧ (s.setMx pt m).training = s.training ∧ (s.setMx pt m).attest = s.attest ∧
    (s.setMx pt m).hostUp = s.hostUp ∧ (s.setMx pt m).shutdown = s.shutdown ∧ (s.setMx pt m).retMem = s.retMem ∧
    (s.setMx pt m).retLink = s.retLink ∧ (s.setMx pt m).cooldown = s.cooldown ∧ (s.setMx pt m).sampled = s.sampled ∧
    (s.setMx pt m).xlPend = s.xlPend ∧ (s.setMx pt m).qops = s.qops ∧ (s.setMx pt m).nextQop = s.nextQop ∧
    (s.setMx pt m).qwrites = s.qwrites ∧ (s.setMx pt m).upset = s.upset ∧ (s.setMx pt m).cur = s.cur ∧
    (s.setMx pt m).sched = s.sched ∧ (s.setMx pt m).rr = s.rr ∧ (s.setMx pt m).freeCtr = s.freeCtr := by
  simp [State.setMx]

@[simp] theorem State.modCtx_frame (c : Nat) (f : Ctx → Ctx) :
    (s.modCtx c f).cycle = s.cycle ∧ (s.modCtx c f).tiles = s.tiles ∧ (s.modCtx c f).mem = s.mem ∧
    (s.modCtx c f).spad = s.spad ∧ (s.modCtx c f).opnd = s.opnd ∧ (s.modCtx c f).memPoison = s.memPoison ∧
    (s.modCtx c f).spadPoison = s.spadPoison ∧ (s.modCtx c f).opndPoison = s.opndPoison ∧
    (s.modCtx c f).flights = s.flights ∧ (s.modCtx c f).arriving = s.arriving ∧
    (s.modCtx c f).ctlArriving = s.ctlArriving ∧ (s.modCtx c f).elastic = s.elastic ∧
    (s.modCtx c f).elasticCtl = s.elasticCtl ∧ (s.modCtx c f).used = s.used ∧ (s.modCtx c f).returns = s.returns ∧
    (s.modCtx c f).clusters = s.clusters ∧ (s.modCtx c f).dies = s.dies ∧ (s.modCtx c f).regs = s.regs ∧
    (s.modCtx c f).hwSet = s.hwSet ∧ (s.modCtx c f).rowActs = s.rowActs ∧ (s.modCtx c f).completion = s.completion ∧
    (s.modCtx c f).replays = s.replays ∧ (s.modCtx c f).found = s.found ∧ (s.modCtx c f).msix = s.msix ∧
    (s.modCtx c f).l1 = s.l1 ∧ (s.modCtx c f).llc = s.llc ∧ (s.modCtx c f).muTlb = s.muTlb ∧
    (s.modCtx c f).clTlb = s.clTlb ∧ (s.modCtx c f).walks = s.walks ∧ (s.modCtx c f).launches = s.launches ∧
    (s.modCtx c f).ports = s.ports ∧ (s.modCtx c f).nextLaunch = s.nextLaunch ∧ (s.modCtx c f).colls = s.colls ∧
    (s.modCtx c f).nextColl = s.nextColl ∧ (s.modCtx c f).staged = s.staged ∧ (s.modCtx c f).written = s.written ∧
    (s.modCtx c f).nextImage = s.nextImage ∧ (s.modCtx c f).retired = s.retired ∧ (s.modCtx c f).vfs = s.vfs ∧
    (s.modCtx c f).sensors = s.sensors ∧ (s.modCtx c f).noPlace = s.noPlace ∧
    (s.modCtx c f).overBudget = s.overBudget ∧ (s.modCtx c f).tests = s.tests ∧
    (s.modCtx c f).testFence = s.testFence ∧ (s.modCtx c f).training = s.training ∧ (s.modCtx c f).attest = s.attest ∧
    (s.modCtx c f).hostUp = s.hostUp ∧ (s.modCtx c f).shutdown = s.shutdown ∧ (s.modCtx c f).retMem = s.retMem ∧
    (s.modCtx c f).retLink = s.retLink ∧ (s.modCtx c f).cooldown = s.cooldown ∧ (s.modCtx c f).sampled = s.sampled ∧
    (s.modCtx c f).xlPend = s.xlPend ∧ (s.modCtx c f).qops = s.qops ∧ (s.modCtx c f).nextQop = s.nextQop ∧
    (s.modCtx c f).qwrites = s.qwrites ∧ (s.modCtx c f).upset = s.upset ∧ (s.modCtx c f).cur = s.cur ∧
    (s.modCtx c f).sched = s.sched ∧ (s.modCtx c f).rr = s.rr ∧ (s.modCtx c f).freeCtr = s.freeCtr := by
  simp [State.modCtx]

@[simp] theorem State.touch_frame (pt : Nat) (k : Ctr) :
    (s.touch pt k).cycle = s.cycle ∧ (s.touch pt k).tiles = s.tiles ∧ (s.touch pt k).mem = s.mem ∧
    (s.touch pt k).spad = s.spad ∧ (s.touch pt k).opnd = s.opnd ∧ (s.touch pt k).memPoison = s.memPoison ∧
    (s.touch pt k).spadPoison = s.spadPoison ∧ (s.touch pt k).opndPoison = s.opndPoison ∧
    (s.touch pt k).flights = s.flights ∧ (s.touch pt k).arriving = s.arriving ∧
    (s.touch pt k).ctlArriving = s.ctlArriving ∧ (s.touch pt k).elastic = s.elastic ∧
    (s.touch pt k).elasticCtl = s.elasticCtl ∧ (s.touch pt k).used = s.used ∧ (s.touch pt k).returns = s.returns ∧
    (s.touch pt k).clusters = s.clusters ∧ (s.touch pt k).dies = s.dies ∧ (s.touch pt k).regs = s.regs ∧
    (s.touch pt k).hwSet = s.hwSet ∧ (s.touch pt k).rowActs = s.rowActs ∧ (s.touch pt k).completion = s.completion ∧
    (s.touch pt k).replays = s.replays ∧ (s.touch pt k).found = s.found ∧ (s.touch pt k).msix = s.msix ∧
    (s.touch pt k).l1 = s.l1 ∧ (s.touch pt k).llc = s.llc ∧ (s.touch pt k).muTlb = s.muTlb ∧
    (s.touch pt k).clTlb = s.clTlb ∧ (s.touch pt k).walks = s.walks ∧ (s.touch pt k).launches = s.launches ∧
    (s.touch pt k).ports = s.ports ∧ (s.touch pt k).nextLaunch = s.nextLaunch ∧ (s.touch pt k).colls = s.colls ∧
    (s.touch pt k).nextColl = s.nextColl ∧ (s.touch pt k).staged = s.staged ∧ (s.touch pt k).written = s.written ∧
    (s.touch pt k).nextImage = s.nextImage ∧ (s.touch pt k).retired = s.retired ∧ (s.touch pt k).vfs = s.vfs ∧
    (s.touch pt k).sensors = s.sensors ∧ (s.touch pt k).noPlace = s.noPlace ∧
    (s.touch pt k).overBudget = s.overBudget ∧ (s.touch pt k).tests = s.tests ∧
    (s.touch pt k).testFence = s.testFence ∧ (s.touch pt k).training = s.training ∧ (s.touch pt k).attest = s.attest ∧
    (s.touch pt k).hostUp = s.hostUp ∧ (s.touch pt k).shutdown = s.shutdown ∧ (s.touch pt k).retMem = s.retMem ∧
    (s.touch pt k).retLink = s.retLink ∧ (s.touch pt k).cooldown = s.cooldown ∧ (s.touch pt k).sampled = s.sampled ∧
    (s.touch pt k).xlPend = s.xlPend ∧ (s.touch pt k).qops = s.qops ∧ (s.touch pt k).nextQop = s.nextQop ∧
    (s.touch pt k).qwrites = s.qwrites ∧ (s.touch pt k).upset = s.upset ∧ (s.touch pt k).cur = s.cur ∧
    (s.touch pt k).sched = s.sched ∧ (s.touch pt k).rr = s.rr ∧ (s.touch pt k).freeCtr = s.freeCtr := by
  unfold State.touch; split <;> simp

@[simp] theorem State.free_frame (b : BufId) :
    (s.free b).cycle = s.cycle ∧ (s.free b).tiles = s.tiles ∧ (s.free b).mem = s.mem ∧ (s.free b).spad = s.spad ∧
    (s.free b).opnd = s.opnd ∧ (s.free b).memPoison = s.memPoison ∧ (s.free b).spadPoison = s.spadPoison ∧
    (s.free b).opndPoison = s.opndPoison ∧ (s.free b).flights = s.flights ∧ (s.free b).arriving = s.arriving ∧
    (s.free b).ctlArriving = s.ctlArriving ∧ (s.free b).elastic = s.elastic ∧ (s.free b).elasticCtl = s.elasticCtl ∧
    (s.free b).used = s.used ∧ (s.free b).clusters = s.clusters ∧ (s.free b).dies = s.dies ∧
    (s.free b).regs = s.regs ∧ (s.free b).hwSet = s.hwSet ∧ (s.free b).rowActs = s.rowActs ∧
    (s.free b).completion = s.completion ∧ (s.free b).replays = s.replays ∧ (s.free b).found = s.found ∧
    (s.free b).msix = s.msix ∧ (s.free b).l1 = s.l1 ∧ (s.free b).llc = s.llc ∧ (s.free b).muTlb = s.muTlb ∧
    (s.free b).clTlb = s.clTlb ∧ (s.free b).walks = s.walks ∧ (s.free b).launches = s.launches ∧
    (s.free b).ports = s.ports ∧ (s.free b).nextLaunch = s.nextLaunch ∧ (s.free b).colls = s.colls ∧
    (s.free b).nextColl = s.nextColl ∧ (s.free b).staged = s.staged ∧ (s.free b).written = s.written ∧
    (s.free b).nextImage = s.nextImage ∧ (s.free b).retired = s.retired ∧ (s.free b).vfs = s.vfs ∧
    (s.free b).sensors = s.sensors ∧ (s.free b).noPlace = s.noPlace ∧ (s.free b).overBudget = s.overBudget ∧
    (s.free b).tests = s.tests ∧ (s.free b).testFence = s.testFence ∧ (s.free b).training = s.training ∧
    (s.free b).attest = s.attest ∧ (s.free b).hostUp = s.hostUp ∧ (s.free b).shutdown = s.shutdown ∧
    (s.free b).retMem = s.retMem ∧ (s.free b).retLink = s.retLink ∧ (s.free b).cooldown = s.cooldown ∧
    (s.free b).sampled = s.sampled ∧ (s.free b).xlPend = s.xlPend ∧ (s.free b).qops = s.qops ∧
    (s.free b).nextQop = s.nextQop ∧ (s.free b).qwrites = s.qwrites ∧ (s.free b).upset = s.upset ∧
    (s.free b).cur = s.cur ∧ (s.free b).sched = s.sched ∧ (s.free b).rr = s.rr ∧ (s.free b).freeCtr = s.freeCtr := by
  simp [State.free]

@[simp] theorem foldl_spend_frame (bs : List BufId) :
    (bs.foldl State.spend s).cycle = s.cycle ∧ (bs.foldl State.spend s).tiles = s.tiles ∧
    (bs.foldl State.spend s).ctxs = s.ctxs ∧ (bs.foldl State.spend s).mem = s.mem ∧
    (bs.foldl State.spend s).spad = s.spad ∧ (bs.foldl State.spend s).opnd = s.opnd ∧
    (bs.foldl State.spend s).memPoison = s.memPoison ∧ (bs.foldl State.spend s).spadPoison = s.spadPoison ∧
    (bs.foldl State.spend s).opndPoison = s.opndPoison ∧ (bs.foldl State.spend s).flights = s.flights ∧
    (bs.foldl State.spend s).arriving = s.arriving ∧ (bs.foldl State.spend s).ctlArriving = s.ctlArriving ∧
    (bs.foldl State.spend s).elastic = s.elastic ∧ (bs.foldl State.spend s).elasticCtl = s.elasticCtl ∧
    (bs.foldl State.spend s).returns = s.returns ∧ (bs.foldl State.spend s).clusters = s.clusters ∧
    (bs.foldl State.spend s).dies = s.dies ∧ (bs.foldl State.spend s).regs = s.regs ∧
    (bs.foldl State.spend s).hwSet = s.hwSet ∧ (bs.foldl State.spend s).rowActs = s.rowActs ∧
    (bs.foldl State.spend s).completion = s.completion ∧ (bs.foldl State.spend s).replays = s.replays ∧
    (bs.foldl State.spend s).found = s.found ∧ (bs.foldl State.spend s).msix = s.msix ∧
    (bs.foldl State.spend s).l1 = s.l1 ∧ (bs.foldl State.spend s).llc = s.llc ∧
    (bs.foldl State.spend s).muTlb = s.muTlb ∧ (bs.foldl State.spend s).clTlb = s.clTlb ∧
    (bs.foldl State.spend s).walks = s.walks ∧ (bs.foldl State.spend s).launches = s.launches ∧
    (bs.foldl State.spend s).ports = s.ports ∧ (bs.foldl State.spend s).nextLaunch = s.nextLaunch ∧
    (bs.foldl State.spend s).colls = s.colls ∧ (bs.foldl State.spend s).nextColl = s.nextColl ∧
    (bs.foldl State.spend s).staged = s.staged ∧ (bs.foldl State.spend s).written = s.written ∧
    (bs.foldl State.spend s).nextImage = s.nextImage ∧ (bs.foldl State.spend s).retired = s.retired ∧
    (bs.foldl State.spend s).vfs = s.vfs ∧ (bs.foldl State.spend s).sensors = s.sensors ∧
    (bs.foldl State.spend s).noPlace = s.noPlace ∧ (bs.foldl State.spend s).overBudget = s.overBudget ∧
    (bs.foldl State.spend s).tests = s.tests ∧ (bs.foldl State.spend s).testFence = s.testFence ∧
    (bs.foldl State.spend s).training = s.training ∧ (bs.foldl State.spend s).attest = s.attest ∧
    (bs.foldl State.spend s).hostUp = s.hostUp ∧ (bs.foldl State.spend s).shutdown = s.shutdown ∧
    (bs.foldl State.spend s).retMem = s.retMem ∧ (bs.foldl State.spend s).retLink = s.retLink ∧
    (bs.foldl State.spend s).cooldown = s.cooldown ∧ (bs.foldl State.spend s).sampled = s.sampled ∧
    (bs.foldl State.spend s).xlPend = s.xlPend ∧ (bs.foldl State.spend s).qops = s.qops ∧
    (bs.foldl State.spend s).nextQop = s.nextQop ∧ (bs.foldl State.spend s).qwrites = s.qwrites ∧
    (bs.foldl State.spend s).upset = s.upset ∧ (bs.foldl State.spend s).cur = s.cur ∧
    (bs.foldl State.spend s).sched = s.sched ∧ (bs.foldl State.spend s).rr = s.rr ∧
    (bs.foldl State.spend s).freeCtr = s.freeCtr := by
  induction bs generalizing s with
  | nil => simp
  | cons b bs ih => simpa using ih (s.spend b)

@[simp] theorem State.emit_frame (pt code : Nat) (t : Token) :
    (s.emit pt code t).cycle = s.cycle ∧ (s.emit pt code t).tiles = s.tiles ∧ (s.emit pt code t).mem = s.mem ∧
    (s.emit pt code t).spad = s.spad ∧ (s.emit pt code t).opnd = s.opnd ∧ (s.emit pt code t).memPoison = s.memPoison ∧
    (s.emit pt code t).spadPoison = s.spadPoison ∧ (s.emit pt code t).opndPoison = s.opndPoison ∧
    (s.emit pt code t).arriving = s.arriving ∧ (s.emit pt code t).ctlArriving = s.ctlArriving ∧
    (s.emit pt code t).elastic = s.elastic ∧ (s.emit pt code t).elasticCtl = s.elasticCtl ∧
    (s.emit pt code t).returns = s.returns ∧ (s.emit pt code t).clusters = s.clusters ∧
    (s.emit pt code t).dies = s.dies ∧ (s.emit pt code t).regs = s.regs ∧ (s.emit pt code t).hwSet = s.hwSet ∧
    (s.emit pt code t).rowActs = s.rowActs ∧ (s.emit pt code t).completion = s.completion ∧
    (s.emit pt code t).replays = s.replays ∧ (s.emit pt code t).found = s.found ∧ (s.emit pt code t).msix = s.msix ∧
    (s.emit pt code t).l1 = s.l1 ∧ (s.emit pt code t).llc = s.llc ∧ (s.emit pt code t).muTlb = s.muTlb ∧
    (s.emit pt code t).clTlb = s.clTlb ∧ (s.emit pt code t).walks = s.walks ∧
    (s.emit pt code t).launches = s.launches ∧ (s.emit pt code t).ports = s.ports ∧
    (s.emit pt code t).nextLaunch = s.nextLaunch ∧ (s.emit pt code t).colls = s.colls ∧
    (s.emit pt code t).nextColl = s.nextColl ∧ (s.emit pt code t).staged = s.staged ∧
    (s.emit pt code t).written = s.written ∧ (s.emit pt code t).nextImage = s.nextImage ∧
    (s.emit pt code t).retired = s.retired ∧ (s.emit pt code t).vfs = s.vfs ∧ (s.emit pt code t).sensors = s.sensors ∧
    (s.emit pt code t).noPlace = s.noPlace ∧ (s.emit pt code t).overBudget = s.overBudget ∧
    (s.emit pt code t).tests = s.tests ∧ (s.emit pt code t).testFence = s.testFence ∧
    (s.emit pt code t).training = s.training ∧ (s.emit pt code t).attest = s.attest ∧
    (s.emit pt code t).hostUp = s.hostUp ∧ (s.emit pt code t).shutdown = s.shutdown ∧
    (s.emit pt code t).retMem = s.retMem ∧ (s.emit pt code t).retLink = s.retLink ∧
    (s.emit pt code t).cooldown = s.cooldown ∧ (s.emit pt code t).sampled = s.sampled ∧
    (s.emit pt code t).xlPend = s.xlPend ∧ (s.emit pt code t).qops = s.qops ∧ (s.emit pt code t).nextQop = s.nextQop ∧
    (s.emit pt code t).qwrites = s.qwrites ∧ (s.emit pt code t).upset = s.upset ∧ (s.emit pt code t).cur = s.cur ∧
    (s.emit pt code t).sched = s.sched ∧ (s.emit pt code t).rr = s.rr ∧ (s.emit pt code t).freeCtr = s.freeCtr := by
  simp [State.emit]

@[simp] theorem State.sendCtl_frame (pt : Nat) (bs : List BufId) (v : Bool) :
    (s.sendCtl pt bs v).cycle = s.cycle ∧ (s.sendCtl pt bs v).tiles = s.tiles ∧ (s.sendCtl pt bs v).mem = s.mem ∧
    (s.sendCtl pt bs v).spad = s.spad ∧ (s.sendCtl pt bs v).opnd = s.opnd ∧
    (s.sendCtl pt bs v).memPoison = s.memPoison ∧ (s.sendCtl pt bs v).spadPoison = s.spadPoison ∧
    (s.sendCtl pt bs v).opndPoison = s.opndPoison ∧ (s.sendCtl pt bs v).flights = s.flights ∧
    (s.sendCtl pt bs v).arriving = s.arriving ∧ (s.sendCtl pt bs v).elastic = s.elastic ∧
    (s.sendCtl pt bs v).elasticCtl = s.elasticCtl ∧ (s.sendCtl pt bs v).returns = s.returns ∧
    (s.sendCtl pt bs v).clusters = s.clusters ∧ (s.sendCtl pt bs v).dies = s.dies ∧
    (s.sendCtl pt bs v).regs = s.regs ∧ (s.sendCtl pt bs v).hwSet = s.hwSet ∧
    (s.sendCtl pt bs v).rowActs = s.rowActs ∧ (s.sendCtl pt bs v).completion = s.completion ∧
    (s.sendCtl pt bs v).replays = s.replays ∧ (s.sendCtl pt bs v).found = s.found ∧
    (s.sendCtl pt bs v).msix = s.msix ∧ (s.sendCtl pt bs v).l1 = s.l1 ∧ (s.sendCtl pt bs v).llc = s.llc ∧
    (s.sendCtl pt bs v).muTlb = s.muTlb ∧ (s.sendCtl pt bs v).clTlb = s.clTlb ∧ (s.sendCtl pt bs v).walks = s.walks ∧
    (s.sendCtl pt bs v).launches = s.launches ∧ (s.sendCtl pt bs v).ports = s.ports ∧
    (s.sendCtl pt bs v).nextLaunch = s.nextLaunch ∧ (s.sendCtl pt bs v).colls = s.colls ∧
    (s.sendCtl pt bs v).nextColl = s.nextColl ∧ (s.sendCtl pt bs v).staged = s.staged ∧
    (s.sendCtl pt bs v).written = s.written ∧ (s.sendCtl pt bs v).nextImage = s.nextImage ∧
    (s.sendCtl pt bs v).retired = s.retired ∧ (s.sendCtl pt bs v).vfs = s.vfs ∧
    (s.sendCtl pt bs v).sensors = s.sensors ∧ (s.sendCtl pt bs v).noPlace = s.noPlace ∧
    (s.sendCtl pt bs v).overBudget = s.overBudget ∧ (s.sendCtl pt bs v).tests = s.tests ∧
    (s.sendCtl pt bs v).testFence = s.testFence ∧ (s.sendCtl pt bs v).training = s.training ∧
    (s.sendCtl pt bs v).attest = s.attest ∧ (s.sendCtl pt bs v).hostUp = s.hostUp ∧
    (s.sendCtl pt bs v).shutdown = s.shutdown ∧ (s.sendCtl pt bs v).retMem = s.retMem ∧
    (s.sendCtl pt bs v).retLink = s.retLink ∧ (s.sendCtl pt bs v).cooldown = s.cooldown ∧
    (s.sendCtl pt bs v).sampled = s.sampled ∧ (s.sendCtl pt bs v).xlPend = s.xlPend ∧
    (s.sendCtl pt bs v).qops = s.qops ∧ (s.sendCtl pt bs v).nextQop = s.nextQop ∧
    (s.sendCtl pt bs v).qwrites = s.qwrites ∧ (s.sendCtl pt bs v).upset = s.upset ∧ (s.sendCtl pt bs v).cur = s.cur ∧
    (s.sendCtl pt bs v).sched = s.sched ∧ (s.sendCtl pt bs v).rr = s.rr ∧ (s.sendCtl pt bs v).freeCtr = s.freeCtr := by
  simp [State.sendCtl]

/-! ### Reads after updates -/

@[simp] theorem State.tile_setTile (pt : Nat) (t : Tile) : (s.setTile pt t).tile pt = t := by
  simp [State.tile, State.setTile]

theorem State.tile_setTile_ne {pt pt' : Nat} (t : Tile) (h : pt' ≠ pt) : (s.setTile pt t).tile pt' = s.tile pt' := by
  simp [State.tile, State.setTile, tgetD_tset_ne _ _ _ h]

@[simp] theorem State.ctx_setCtx (c : Nat) (x : Ctx) : (s.setCtx c x).ctx c = x := by
  simp [State.ctx, State.setCtx]

theorem State.ctx_setCtx_ne {c c' : Nat} (x : Ctx) (h : c' ≠ c) : (s.setCtx c x).ctx c' = s.ctx c' := by
  simp [State.ctx, State.setCtx, tgetD_tset_ne _ _ _ h]

@[simp] theorem State.die_setDie (d : Nat) (x : Die) : (s.setDie d x).die d = x := by
  simp [State.die, State.setDie]

theorem State.die_setDie_ne {d d' : Nat} (x : Die) (h : d' ≠ d) : (s.setDie d x).die d' = s.die d' := by
  simp [State.die, State.setDie, tgetD_tset_ne _ _ _ h]

@[simp] theorem State.cl_setCl (k : Nat) (x : Cluster) : (s.setCl k x).cl k = x := by
  simp [State.cl, State.setCl]

theorem State.cl_setCl_ne {k k' : Nat} (x : Cluster) (h : k' ≠ k) : (s.setCl k x).cl k' = s.cl k' := by
  simp [State.cl, State.setCl, tgetD_tset_ne _ _ _ h]

@[simp] theorem State.reg_setReg (die num inst : Nat) (v : Word64) :
    (s.setReg die num inst v).reg die num inst = v := by
  simp [State.reg, State.setReg]

/-- Keys of registers are distinct. -/
theorem regKey_inj {d n k d' n' k' : Nat} (hn : n < 256) (hn' : n' < 256) (hk : k < 4096) (hk' : k' < 4096)
    (h : regKey d n k = regKey d' n' k') : d = d' ∧ n = n' ∧ k = k' := by
  unfold regKey at h; omega

theorem State.reg_setReg_ne {d n k d' n' k' : Nat} (v : Word64) (hn : n < 256) (hn' : n' < 256) (hk : k < 4096)
    (hk' : k' < 4096) (h : (d', n', k') ≠ (d, n, k)) : (s.setReg d n k v).reg d' n' k' = s.reg d' n' k' := by
  have : regKey d' n' k' ≠ regKey d n k := fun e => h (by
    obtain ⟨rfl, rfl, rfl⟩ := regKey_inj hn' hn hk' hk e; rfl)
  simp [State.reg, State.setReg, tget_tset_ne _ _ this]

@[simp] theorem State.cu_setCu (pt : Nat) (u : Bool) (c : Cu) : (s.setCu pt u c).cu pt u = c := by
  cases u <;> simp [State.cu, State.setCu]

@[simp] theorem State.cu_setCu_other (pt : Nat) (u : Bool) (c : Cu) : (s.setCu pt u c).cu pt (!u) = s.cu pt (!u) := by
  cases u <;> simp [State.cu, State.setCu]

@[simp] theorem State.mu_setMu (pt : Nat) (u : Bool) (m : Mu) : (s.setMu pt u m).mu pt u = m := by
  cases u <;> simp [State.mu, State.setMu]

@[simp] theorem State.mu_setCu (pt : Nat) (u x : Bool) (c : Cu) : (s.setCu pt u c).mu pt x = s.mu pt x := by
  cases u <;> simp [State.mu, State.setCu]

@[simp] theorem State.ag_setCu (pt : Nat) (u x : Bool) (c : Cu) : (s.setCu pt u c).ag pt x = s.ag pt x := by
  cases u <;> simp [State.ag, State.setCu]

@[simp] theorem State.mx_setCu (pt : Nat) (u : Bool) (c : Cu) : (s.setCu pt u c).mx pt = s.mx pt := by
  cases u <;> simp [State.mx, State.setCu]

@[simp] theorem State.mx_setMx (pt : Nat) (m : Mx) : (s.setMx pt m).mx pt = m := by simp [State.mx, State.setMx]

@[simp] theorem State.cu_setMx (pt : Nat) (u : Bool) (m : Mx) : (s.setMx pt m).cu pt u = s.cu pt u := by
  cases u <;> simp [State.cu, State.setMx]

@[simp] theorem State.ag_setAg (pt : Nat) (g : Bool) (a : Ag) : (s.setAg pt g a).ag pt g = a := by
  cases g <;> simp [State.ag, State.setAg]

/-- `touch` changes nothing of a context but its change bits and its report. -/
theorem State.touch_ctx (pt : Nat) (k : Ctr) (c : Nat) : ∃ ch q,
    (s.touch pt k).ctx c = { s.ctx c with changed := ch, quiet := q } := by
  unfold State.touch
  split
  · rename_i o h
    by_cases e : c = o
    · subst e; exact ⟨(s.ctx c).changed.set k.idx true, false, by simp [State.modCtx, Ctx.touch]⟩
    · exact ⟨(s.ctx c).changed, (s.ctx c).quiet, by simp [State.modCtx, State.ctx_setCtx_ne _ _ e]⟩
  · exact ⟨_, _, rfl⟩

/-- What one `emit` adds to the tokens on their way. -/
@[simp] theorem State.emit_flights (pt code : Nat) (t : Token) :
    (s.emit pt code t).flights = s.flights ++ [Flight.mk pt code t] := by simp [State.emit]

/-- What a token sent on several outputs adds to the tokens on their way. -/
@[simp] theorem State.emitAll_flights (pt : Nat) (codes : List Nat) (t : Token) :
    (s.emitAll pt codes t).flights = s.flights ++ codes.map fun c => Flight.mk pt c t := by
  unfold State.emitAll
  induction codes generalizing s with
  | nil => simp
  | cons c cs ih => simp [ih]

end Sys2Proof.Machine
end

