-- ==== Sys2Proof/Laws/Commands.lean ====
section
/-! SUPPORT. The course of a controller command: what `runCmd` answers when a command is issued, what sending a signal
leaves of every context, and what a command that completes at issue leaves as it was. -/

namespace Sys2Proof.Machine

/-- What `runCmd` answers for a command that is issued (R268): its trap at decode, or what its own condition and issue do with
the wait field behind it. -/
theorem runCmd_of_issues {s : State} {c : Nat} {w : CtlP2} (h : Issues s c w) (d : Cmd) :
    runCmd w d s = match d.pre s c with
      | some cause => .next (s.trapCmd c cause)
      | none => d.own (s.modCtx c fun x => { x with waitDone := true }) c := by
  unfold runCmd
  rw [h.turn]
  simp only [h.runs, h.clear, Bool.not_true, Bool.false_eq_true, if_false, ne_eq, not_true_eq_false]
  cases d.pre s c with
  | some cause => rfl
  | none =>
    have hw : (s.ctx c).waitDone = true ∨ w.wthr = 0 := h.waited
    have hf : ((s.modCtx c fun x => { x with waitDone := true }).ctx c).ownDone = false := by
      simp [State.modCtx, h.fresh]
    simp only [hw, if_true]
    simp [State.condTurn, State.condMet, h.fresh]

/-- A command that completes at issue does its effect and moves on. -/
theorem runCmd_atIssue {s : State} {c : Nat} {w : CtlP2} (h : Issues s c w) (len : Nat) (f : State → Nat → State) :
    runCmd w (atIssue w len f) s =
      .next ((f (s.modCtx c fun x => { x with waitDone := true }) c).finish c w len) := runCmd_of_issues h _

/-- The fields of a context that a signal on its way out cannot change. -/
structure Ctx.Steady (x y : Ctx) : Prop where
  pc     : y.pc = x.pc
  xregs  : y.xregs = x.xregs
  st     : y.st = x.st
  hold   : y.hold = x.hold
  place  : y.place = x.place
  code   : y.code = x.code
  launch : y.launch = x.launch

theorem Ctx.Steady.refl (x : Ctx) : x.Steady x := ⟨rfl, rfl, rfl, rfl, rfl, rfl, rfl⟩

theorem State.ctx_of_ctxs {s t : State} (h : t.ctxs = s.ctxs) (e : Nat) : t.ctx e = s.ctx e := by simp [State.ctx, h]

/-- A context changed by a function, and the others. -/
theorem State.ctx_modCtx (s : State) (c e : Nat) (f : Ctx → Ctx) :
    (s.modCtx c f).ctx e = if e = c then f (s.ctx c) else s.ctx e := by
  by_cases h : e = c
  · subst h; simp [State.modCtx]
  · simp [State.modCtx, State.ctx_setCtx_ne _ _ h, h]

/-- What a release's effect leaves of every context: the others as they were, its own but for its timeline or a trap. -/
theorem State.ctx_applyRel (s : State) (c : Nat) (r : RelEff) :
    (∀ e, e ≠ c → (s.applyRel c r).ctx e = s.ctx e) ∧ (s.ctx c).Steady ((s.applyRel c r).ctx c) := by
  have hrel : ∀ ob, ∀ e, (s.raceRelease c ob).ctx e = s.ctx e := fun ob => State.ctx_of_ctxs (s.raceRelease_only c ob).ctxs
  have htrap : ∀ (b : Prop) [Decidable b] (z y : State) (i : Word64), y.ctxs = z.ctxs →
      let r := if b then y.trapAfter c causeUnassigned i else y
      (∀ e, e ≠ c → r.ctx e = z.ctx e) ∧ (z.ctx c).Steady (r.ctx c) := by
    intro b _ z y i hy
    have same : ∀ t : State, t.ctxs = z.ctxs → (∀ e, e ≠ c → t.ctx e = z.ctx e) ∧ (z.ctx c).Steady (t.ctx c) :=
      fun t ht => ⟨fun e _ => State.ctx_of_ctxs ht e, by rw [State.ctx_of_ctxs ht]; exact .refl _⟩
    dsimp only
    split
    · unfold State.trapAfter
      split
      · exact same y hy
      · have ht : ∀ (d : Nat) (q : TrapEnt) (f : Ctx → Ctx) (e : Nat), ((y.modCtx c f).raise d q).ctx e =
            if e = c then f (z.ctx c) else z.ctx e := fun d q f e => by
          have hr : ∀ (x : State), (x.raise d q).ctxs = x.ctxs := fun _ => rfl
          rw [State.ctx_of_ctxs (hr _), State.ctx_modCtx, State.ctx_of_ctxs hy, State.ctx_of_ctxs hy]
        refine ⟨fun e he => by rw [ht, if_neg he], ?_⟩
        rw [ht, if_pos rfl]
        exact ⟨rfl, rfl, rfl, rfl, rfl, rfl, rfl⟩
    · exact same y hy
  have hinc : ∀ (z : State) (cl k n : Nat) (i : Word64), (∀ e, e ≠ c → (z.semInc c cl k n i).ctx e = z.ctx e) ∧
      (z.ctx c).Steady ((z.semInc c cl k n i).ctx c) := by
    intro z cl k n i
    unfold State.semInc
    split
    · exact ⟨fun _ _ => rfl, .refl _⟩
    · split
      · unfold State.semAdd
        split
        · exact htrap _ z _ i (z.setGroup_only _ _ _).ctxs
        · exact htrap _ z _ i (State.xpulse_only (z.setSem cl k _) _ _ _).ctxs
      · exact ⟨fun _ _ => rfl, .refl _⟩
  unfold State.applyRel
  cases r with
  | inc k n i =>
    obtain ⟨h1, h2⟩ := hinc (s.raceRelease c (objSem (s.homeCl c) k)) (s.homeCl c) k n i
    exact ⟨fun e he => (h1 e he).trans (hrel _ e), by rw [← hrel (objSem (s.homeCl c) k) c]; exact h2⟩
  | advance n =>
    refine ⟨fun e he => ?_, ?_⟩
    · simp only [State.ctx_modCtx, if_neg he, hrel]
    · simp only [State.ctx_modCtx, if_true, hrel]
      exact ⟨rfl, rfl, rfl, rfl, rfl, rfl, rfl⟩

/-- What a signal leaves of every context. -/
theorem State.ctx_signal (s : State) (c : Nat) (g : Signal) :
    (∀ e, e ≠ c → (s.signal c g).ctx e = s.ctx e) ∧ (s.ctx c).Steady ((s.signal c g).ctx c) := by
  unfold State.signal
  split
  · exact ⟨fun _ _ => rfl, .refl _⟩
  · unfold State.release
    dsimp only
    split
    · exact s.ctx_applyRel c _
    · exact ⟨fun e he => s.ctx_setCtx_ne _ he, by rw [State.ctx_setCtx]; exact ⟨rfl, rfl, rfl, rfl, rfl, rfl, rfl⟩⟩

/-- Registers other than RACECTL after a register-table change of the detector. -/
theorem State.raceRelease_regs (s : State) (c : Nat) (ob : Nat × Nat) : SameRegs s (s.raceRelease c ob) [0x67] := by
  have hset : ∀ (z : State) (d k : Nat) (v : Word64), k < 4096 → SameRegs z (z.setReg d 0x67 k v) [0x67] := by
    intro z d k v hk die num inst hn hi hm
    refine z.reg_setReg_ne v (by omega) hn hk hi ?_
    intro h
    simp only [Prod.mk.injEq] at h
    exact hm (by simp [h.2.1])
  have hre : ∀ (z : State) (cl : Nat), SameRegs z (z.raceRestart cl) [0x67] := by
    intro z cl die num inst hn hi hm
    unfold State.raceRestart
    exact hset _ _ _ _ (by omega) die num inst hn hi hm
  intro die num inst hn hi hm
  unfold State.raceRelease
  dsimp only
  split
  · exact hre _ _ die num inst hn hi hm
  · rfl

/-- An increment changes no register. -/
theorem State.semInc_regs (s : State) (c cl k n : Nat) (i : Word64) : (s.semInc c cl k n i).regs = s.regs := by
  have hr : ∀ (x : State), (x.trapAfter c causeUnassigned i).regs = x.regs := fun x => by
    unfold State.trapAfter; split <;> rfl
  have trap : ∀ (b : Prop) [Decidable b] (z : State), z.regs = s.regs →
      (if b then z.trapAfter c causeUnassigned i else z).regs = s.regs := fun b _ z h => by
    split
    · rw [hr, h]
    · exact h
  unfold State.semInc
  split
  · rfl
  · split
    · unfold State.semAdd
      split
      · exact trap _ _ (by unfold State.setGroup; split <;> rfl)
      · exact trap _ _ (by unfold State.xpulse State.semNote; dsimp only; split <;> rfl)
    · rfl

/-- A signal changes no register but RACECTL, which the detector itself writes. -/
theorem State.signal_regs (s : State) (c : Nat) (g : Signal) : SameRegs s (s.signal c g) [0x67] := by
  unfold State.signal
  split
  · exact fun _ _ _ _ _ _ => rfl
  · unfold State.release
    dsimp only
    split
    · unfold State.applyRel
      dsimp only
      intro die num inst hn hi hm
      exact (congrArg (fun r => (tget r (regKey die num inst)).getD _) (State.semInc_regs _ _ _ _ _ _)).trans
        (s.raceRelease_regs c _ die num inst hn hi hm)
    · exact fun _ _ _ _ _ _ => rfl

/-- What the end of a command leaves: everything but its own context, and of that the sequencer's place and what the
command left there. -/
theorem State.finish_leaves (s : State) (c : Nat) (w : CtlP2) (len : Nat) : LeavesRest s (s.finish c w len) c := by
  obtain ⟨xs, ds, cs, ls, rs, hs, h⟩ := s.finish_only c w len
  refine ⟨by rw [h], ⟨by rw [h]; simp, by rw [h]; simp, by rw [h]; simp, by rw [h], by rw [h], by rw [h]⟩,
    ⟨by rw [h], by rw [h], by rw [h]⟩, ?_, ?_⟩
  · intro e he
    unfold State.finish
    dsimp only
    rw [(State.ctx_signal _ c _).1 e he, State.ctx_setCtx_ne _ _ he]
  · intro die num inst hn hi hm
    unfold State.finish
    exact State.signal_regs _ c _ die num inst hn hi hm

/-- A command that completes at issue with an effect on its own X registers. -/
theorem completesAt_of_setX {i : Instr} {s : State} {c : Nat} {w : CtlP2} (h : Issues s c w) (len : Nat)
    (f : Ctx → Ctx) (ws : List (XReg × Word64))
    (he : exec i s = runCmd w (atIssue w len fun s c => s.modCtx c f) s)
    (hf : ∀ x : Ctx, f { x with waitDone := true } = { f x with waitDone := true })
    (hp : (f (s.ctx c)).pc = (s.ctx c).pc) (hst : (f (s.ctx c)).st = (s.ctx c).st)
    (hx : ∀ k, (f (s.ctx c)).getX k = (s.ctx c).withX ws k) : CompletesAt i s c ((s.ctx c).pc + len) ws := by
  have hrun : (s.ctx c).st = .running := by
    have := h.runs
    simp only [Ctx.runs, Bool.and_eq_true, beq_iff_eq] at this
    exact this.1.1.1
  refine ⟨_, by rw [he, runCmd_atIssue h], ?_, ?_, ?_, ?_, trivial⟩
  all_goals
    generalize hz : (State.modCtx _ c f) = z
    have hc : z.ctx c = { f (s.ctx c) with waitDone := true } := by
      rw [← hz]; simp only [State.ctx_modCtx, if_true, hf]
  · have := ((z.setCtx c ((z.ctx c).past len)).ctx_signal c (signalOf (z.ctx c) w)).2.pc
    unfold State.finish
    rw [this, State.ctx_setCtx, hc]
    simp [Ctx.past, hp]
  · intro k
    have := ((z.setCtx c ((z.ctx c).past len)).ctx_signal c (signalOf (z.ctx c) w)).2.xregs
    unfold State.finish
    rw [Ctx.getX, this, State.ctx_setCtx, hc, ← hx k]
    rfl
  · have := ((z.setCtx c ((z.ctx c).past len)).ctx_signal c (signalOf (z.ctx c) w)).2.st
    unfold State.finish
    rw [this, State.ctx_setCtx, hc]
    simp [Ctx.past, hst, hrun]
  · obtain ⟨h1, h2, h3, h4, h5⟩ := z.finish_leaves c w len
    subst hz
    refine ⟨h1, h2, h3, fun e he => ?_, h5⟩
    rw [h4 e he]
    simp only [State.ctx_modCtx, if_neg he]

end Sys2Proof.Machine
end

