-- ==== Sys2Proof/Laws/Encoding.lean ====
section
/-! SUPPORT. Fields of words: each code decodes to what it was made from, and each field of a word that is a sum of
fields reads back. -/

namespace Sys2Proof

@[simp] theorem Decode.src_srcCode (x : Src) : Decode.src (Decode.srcCode x) = .ok x := by
  cases x with
  | inp k => simp [Decode.src, Decode.srcCode]
  | zero => rfl
  | none => rfl
  | peek k => revert k; decide
  | c k => revert k; decide
  | s k => revert k; decide

@[simp] theorem Decode.dst_dstCode (x : Dst) : Decode.dst (Decode.dstCode x) = .ok x := by
  cases x with
  | out k => simp [Decode.dst, Decode.dstCode]
  | none => rfl
  | s k => revert k; decide

theorem Decode.srcCode_lt (x : Src) : Decode.srcCode x < 32 := by
  cases x <;> simp [Decode.srcCode] <;> omega

theorem Decode.dstCode_lt (x : Dst) : Decode.dstCode x < 32 := by
  cases x <;> simp [Decode.dstCode] <;> omega

@[simp] theorem Decode.fmt_fmtCode (f : Fmt) : Decode.fmt (Decode.fmtCode f) = .ok f := by cases f <;> rfl
@[simp] theorem Decode.rnd_rndCode (r : Rnd) : Decode.rnd (Decode.rndCode r) = r := by cases r <;> rfl
@[simp] theorem Decode.abm_abmCode (a : Abm) : Decode.abm (Decode.abmCode a) = .ok a := by cases a <;> rfl
@[simp] theorem Decode.qg_qgCode (q : Qg) : Decode.qg (Decode.qgCode q) = q := by cases q <;> rfl
@[simp] theorem Decode.scope_scopeCode (s : Scope) : Decode.scope (Decode.scopeCode s) = .ok s := by cases s <;> rfl

theorem Decode.fmtCode_lt (f : Fmt) : Decode.fmtCode f < 8 := by cases f <;> decide
theorem Decode.rndCode_lt (r : Rnd) : Decode.rndCode r < 4 := by cases r <;> decide
theorem Decode.abmCode_lt (a : Abm) : Decode.abmCode a < 2 := by cases a <;> decide
theorem Decode.qgCode_lt (q : Qg) : Decode.qgCode q < 4 := by cases q <;> decide
theorem Decode.scopeCode_lt (s : Scope) : Decode.scopeCode s < 4 := by cases s <;> decide
theorem b2n_lt (b : Bool) : b2n b < 2 := by cases b <;> decide

/-- A field of a 32-bit word as a quotient and a remainder. -/
theorem fld_ofNat {n lo len m : Nat} (h : m < 2 ^ n) : fld (BitVec.ofNat n m) lo len = m / 2 ^ lo % 2 ^ len := by
  simp [fld, natBits, Nat.shiftRight_eq_div_pow, Nat.mod_eq_of_lt h]

theorem bit_ofNat {n i m : Nat} (h : m < 2 ^ n) : bit (BitVec.ofNat n m) i = decide (m / 2 ^ i % 2 = 1) := by
  rw [bit, BitVec.getLsbD_ofNat]
  by_cases hi : i < n
  · simp [hi, Nat.testBit_eq_decide_div_mod_eq]
  · have : m < 2 ^ i := Nat.lt_of_lt_of_le h (Nat.pow_le_pow_right (by omega) (by omega))
    simp [hi, Nat.div_eq_of_lt this]

theorem decide_b2n (b : Bool) : decide (b2n b = 1) = b := by cases b <;> rfl

/-- The second parcel of an element instruction decodes to what it was made from (R177). -/
@[simp] theorem Decode.mods_modsWord (m : Mods) : Decode.mods (Decode.modsWord m) = .ok m := by
  obtain ⟨ty, rnd, sat, nprop, abm, om, qg, imm⟩ := m
  have h1 := Decode.fmtCode_lt ty; have h2 := Decode.rndCode_lt rnd; have h3 := b2n_lt sat; have h4 := b2n_lt nprop
  have h5 := Decode.abmCode_lt abm; have h6 := om.isLt; have h7 := Decode.qgCode_lt qg; have h8 := imm.isLt
  have hb : Decode.fmtCode ty * 2 ^ 28 + Decode.rndCode rnd * 2 ^ 26 + b2n sat * 2 ^ 25 + b2n nprop * 2 ^ 24 +
    Decode.abmCode abm * 2 ^ 22 + om.toNat * 2 ^ 18 + Decode.qgCode qg * 2 ^ 16 + imm.toNat < 2 ^ 32 := by omega
  simp only [Decode.mods, Decode.modsWord, fld_ofNat hb, bit_ofNat hb]
  generalize hm : Decode.fmtCode ty * 2 ^ 28 + Decode.rndCode rnd * 2 ^ 26 + b2n sat * 2 ^ 25 + b2n nprop * 2 ^ 24 +
    Decode.abmCode abm * 2 ^ 22 + om.toNat * 2 ^ 18 + Decode.qgCode qg * 2 ^ 16 + imm.toNat = n
  have e1 : n / 2 ^ 28 % 2 ^ 4 = Decode.fmtCode ty := by omega
  have e2 : n / 2 ^ 26 % 2 ^ 2 = Decode.rndCode rnd := by omega
  have e3 : n / 2 ^ 25 % 2 = b2n sat := by omega
  have e4 : n / 2 ^ 24 % 2 = b2n nprop := by omega
  have e5 : n / 2 ^ 22 % 2 ^ 2 = Decode.abmCode abm := by omega
  have e6 : n / 2 ^ 18 % 2 ^ 4 = om.toNat := by omega
  have e7 : n / 2 ^ 16 % 2 ^ 2 = Decode.qgCode qg := by omega
  have e8 : n / 2 ^ 0 % 2 ^ 16 = imm.toNat := by omega
  rw [e1, e2, e3, e4, e5, e6, e7, e8]
  simp [decide_b2n, bind, Except.bind, pure, Except.pure]

/-- The second parcel of a controller command decodes to what it was made from (R180). -/
@[simp] theorem Decode.ctlP2_ctlP2Word (w : CtlP2) : Decode.ctlP2 (Decode.ctlP2Word w) = .ok w := by
  obtain ⟨wsem, wthr, wc, ssem, sinc, sc⟩ := w
  have h1 := wsem.isLt; have h2 := wthr.isLt; have h3 := b2n_lt wc; have h4 := ssem.isLt
  have h5 := sinc.isLt; have h6 := Decode.scopeCode_lt sc
  have hb : wsem.toNat * 2 ^ 24 + wthr.toNat * 2 ^ 17 + b2n wc * 2 ^ 16 + ssem.toNat * 2 ^ 8 +
    sinc.toNat * 2 ^ 4 + Decode.scopeCode sc < 2 ^ 32 := by omega
  simp only [Decode.ctlP2, Decode.ctlP2Word, fld_ofNat hb, bit_ofNat hb]
  generalize hm : wsem.toNat * 2 ^ 24 + wthr.toNat * 2 ^ 17 + b2n wc * 2 ^ 16 + ssem.toNat * 2 ^ 8 +
    sinc.toNat * 2 ^ 4 + Decode.scopeCode sc = n
  have e1 : n / 2 ^ 24 % 2 ^ 8 = wsem.toNat := by omega
  have e2 : n / 2 ^ 17 % 2 ^ 7 = wthr.toNat := by omega
  have e3 : n / 2 ^ 16 % 2 = b2n wc := by omega
  have e4 : n / 2 ^ 8 % 2 ^ 8 = ssem.toNat := by omega
  have e5 : n / 2 ^ 4 % 2 ^ 4 = sinc.toNat := by omega
  have e6 : n / 2 ^ 0 % 2 ^ 4 = Decode.scopeCode sc := by omega
  rw [e1, e2, e3, e4, e5, e6]
  simp [decide_b2n, bind, Except.bind, pure, Except.pure]

/-- The codes of an element instruction's first parcel read back (R175). -/
theorem Decode.parcel0_fields {l o f d a b c : Nat} (hl : l < 4) (ho : o < 64) (hf : f < 16) (hd : d < 32)
    (ha : a < 32) (hb : b < 32) (hc : c < 32) :
    let p : Parcel := BitVec.ofNat 32 (l * 2 ^ 30 + o * 2 ^ 24 + f * 2 ^ 20 + (d * 2 ^ 15 + a * 2 ^ 10 + b * 2 ^ 5 + c))
    fld p 30 2 = l ∧ fld p 24 6 = o ∧ fld p 20 4 = f ∧ fld p 15 5 = d ∧ fld p 10 5 = a ∧ fld p 5 5 = b ∧ fld p 0 5 = c := by
  have h : l * 2 ^ 30 + o * 2 ^ 24 + f * 2 ^ 20 + (d * 2 ^ 15 + a * 2 ^ 10 + b * 2 ^ 5 + c) < 2 ^ 32 := by omega
  simp only [fld_ofNat h]
  refine ⟨?_, ?_, ?_, ?_, ?_, ?_, ?_⟩ <;> omega

/-- The codes of a controller command's first parcel read back (R179). -/
theorem Decode.ctl0_fields {l o f d a b i : Nat} (hl : l < 4) (ho : o < 64) (hf : f < 16) (hd : d < 16) (ha : a < 16)
    (hb : b < 16) (hi : i < 256) :
    let p : Parcel := BitVec.ofNat 32 (l * 2 ^ 30 + o * 2 ^ 24 + f * 2 ^ 20 + d * 2 ^ 16 + a * 2 ^ 12 + b * 2 ^ 8 + i)
    fld p 30 2 = l ∧ fld p 24 6 = o ∧ fld p 20 4 = f ∧ fld p 16 4 = d ∧ fld p 12 4 = a ∧ fld p 8 4 = b ∧ fld p 0 8 = i := by
  have h : l * 2 ^ 30 + o * 2 ^ 24 + f * 2 ^ 20 + d * 2 ^ 16 + a * 2 ^ 12 + b * 2 ^ 8 + i < 2 ^ 32 := by omega
  simp only [fld_ofNat h]
  refine ⟨?_, ?_, ?_, ?_, ?_, ?_, ?_⟩ <;> omega

/-- The view of an element instruction gives the instruction back, constructor by constructor. -/
theorem Machine.instrOf_elim (i : Instr) : (Machine.elemView i).elim True fun v => Machine.instrOf v = i := by
  cases i
  case lpad l =>
    have h : (l.setWidth 16).setWidth 10 = l := by simp
    exact congrArg Instr.lpad h
  all_goals first | exact rfl | exact True.intro

/-- The view of an element instruction gives the instruction back. -/
theorem Machine.instrOf_elemView {i : Instr} {v : EView} (h : Machine.elemView i = some v) : Machine.instrOf v = i := by
  have := Machine.instrOf_elim i
  rwa [h] at this

/-- The opcode map has no operation twice (R197). -/
@[simp] theorem Machine.eopOf_eopCode (op : EOp) : Machine.eopOf (Machine.eopCode op).1 (Machine.eopCode op).2 = some op := by
  cases op <;> rfl

theorem Machine.eopCode_lt (op : EOp) : (Machine.eopCode op).1 < 64 ∧ (Machine.eopCode op).2 < 16 := by
  cases op <;> decide

end Sys2Proof
end

