-- ==== Sys2Proof/Laws/Firing.lean ====
section
/-! SUPPORT. A firing of an element instruction: what the shared operation `fireElem` answers when an instruction fires,
and everything that a clean DATA firing does to its unit. -/

namespace Sys2Proof.Machine

/-- Two states with the same tiles have the same units. -/
theorem State.tile_congr {s t : State} (h : t.tiles = s.tiles) (pt : Nat) : t.tile pt = s.tile pt := by
  simp [State.tile, h]

theorem State.cu_congr {s t : State} (h : t.tiles = s.tiles) (pt : Nat) (u : Bool) : t.cu pt u = s.cu pt u := by
  simp [State.cu, State.tile_congr h]

/-- A unit replaced: the unit, the other unit, and the other tiles. -/
theorem State.cu_setCu_eq (s : State) (pt : Nat) (u u' : Bool) (c : Cu) :
    (s.setCu pt u c).cu pt u' = if u' = u then c else s.cu pt u' := by
  cases u <;> cases u' <;> simp [State.cu, State.setCu]

theorem State.tile_setCu_ne (s : State) {pt pt' : Nat} (u : Bool) (c : Cu) (h : pt' ≠ pt) :
    (s.setCu pt u c).tile pt' = s.tile pt' := by
  cases u <;> simp [State.setCu, State.tile_setTile_ne _ _ h]

/-- Taking a head changes the tiles as replacing the unit does. -/
theorem State.takePort_tiles (s : State) (pt : Nat) (u : Bool) (k : Fin 6) (b : Fin 4) :
    (s.takePort pt u k b).tiles =
      (s.setCu pt u { s.cu pt u with ins := (s.cu pt u).ins.set k (takeFor b (s.cu pt u).ins[k]).1 }).tiles := by
  unfold State.takePort; dsimp only
  generalize s.setCu pt u _ = z
  have keep : ∀ (p : Prop) [Decidable p] (x y : State), y.tiles = x.tiles → (if p then y else x).tiles = x.tiles :=
    fun p _ x y h => by
      split
      · exact h
      · rfl
  rw [keep _ _ _ (State.headCheck_only _ _ _).tiles, keep _ _ _ (State.headCheck_only _ _ _).tiles, keep]
  · exact (State.touch_only _ _ _).tiles
  · simp

/-- A consumer's view of a unit once it has noted the coordinate of a head (R242). -/
theorem Cu.noteCoord_ins (c : Cu) (k : Fin 6) (t : Option Token) :
    (c.noteCoord k t).ins = c.ins ∧ (c.noteCoord k t).cfg = c.cfg := ⟨rfl, rfl⟩

/-- The units after one head is taken (R48, R49, R242). -/
theorem State.cu_take (s : State) (pt : Nat) (u u' : Bool) (k : Fin 6) :
    (s.take pt u k).cu pt u' =
      let c := if u' = u then (s.cu pt u).noteCoord k (s.head pt u k) else s.cu pt u'
      if u' = (s.portOf pt u k).1 then { c with ins := c.ins.set k (takeFor (s.portOf pt u k).2 c.ins[k]).1 } else c := by
  unfold State.take; dsimp only
  rw [State.cu_congr (State.takePort_tiles _ pt _ k _), State.cu_setCu_eq]
  simp only [State.cu_setCu_eq]
  split
  · rename_i h; subst h; rfl
  · rfl

/-- What taking a head leaves of a unit: all but its inputs and the coordinates it has noted. -/
theorem State.cu_take_rest (s : State) (pt : Nat) (u u' : Bool) (k : Fin 6) :
    { (s.take pt u k).cu pt u' with ins := (s.cu pt u').ins, lastCoord := (s.cu pt u').lastCoord } = s.cu pt u' := by
  rw [State.cu_take]; dsimp only
  by_cases h : u' = u
  · subst h; simp only [if_true]; split <;> rfl
  · simp only [h, if_false]; split <;> rfl

/-- The inputs of the units after one head is taken. -/
theorem State.ins_take (s : State) (pt : Nat) (u u' : Bool) (k : Fin 6) :
    ((s.take pt u k).cu pt u').ins = if u' = (s.portOf pt u k).1 then
      (s.cu pt u').ins.set k (takeFor (s.portOf pt u k).2 (s.cu pt u').ins[k]).1 else (s.cu pt u').ins := by
  have e : (if u' = u then (s.cu pt u).noteCoord k (s.head pt u k) else s.cu pt u').ins = (s.cu pt u').ins := by
    split
    · rename_i h; subst h; rfl
    · rfl
  rw [State.cu_take]; dsimp only
  split
  · simp only [e]
  · exact e

/-- The port of an input depends on the masks of the units alone. -/
theorem State.portOf_take (s : State) (pt : Nat) (u : Bool) (k j : Fin 6) :
    (s.take pt u k).portOf pt u j = s.portOf pt u j := by
  have : ∀ u', ((s.take pt u k).cu pt u').cfg = (s.cu pt u').cfg := fun u' => by
    have h := congrArg Cu.cfg (s.cu_take_rest pt u u' k); exact h
  simp [State.portOf, Cu.mask, this]

/-- The units after the heads of distinct inputs are taken. -/
theorem State.cu_takeAll (s : State) (pt : Nat) (u u' : Bool) (ks : List (Fin 6)) (h : ks.Nodup) :
    { (s.takeAll pt u ks).cu pt u' with ins := (s.cu pt u').ins, lastCoord := (s.cu pt u').lastCoord } = s.cu pt u' ∧
    ∀ k : Fin 6, ((s.takeAll pt u ks).cu pt u').ins[k] =
      if k ∈ ks ∧ (s.portOf pt u k).1 = u' then (takeFor (s.portOf pt u k).2 (s.cu pt u').ins[k]).1
      else (s.cu pt u').ins[k] := by
  induction ks generalizing s with
  | nil => exact ⟨rfl, fun k => by simp [State.takeAll]⟩
  | cons j ks ih =>
    obtain ⟨h1, h2⟩ := List.nodup_cons.mp h
    obtain ⟨e1, e2⟩ := ih (s.take pt u j) h2
    have e0 : s.takeAll pt u (j :: ks) = (s.take pt u j).takeAll pt u ks := rfl
    rw [e0]
    constructor
    · have hr := s.cu_take_rest pt u u' j
      generalize ((s.take pt u j).takeAll pt u ks).cu pt u' = x at *
      generalize (s.take pt u j).cu pt u' = y at *
      rw [← hr, ← e1]
    · intro k
      rw [e2 k, State.portOf_take, State.ins_take]
      by_cases hk : k = j
      · subst hk
        simp only [h1, false_and, if_false, List.mem_cons_self, true_and]
        by_cases hu : u' = (s.portOf pt u k).1
        · simp [hu]
        · simp [hu, Ne.symm hu]
      · have hset : (if u' = (s.portOf pt u j).1 then
            (s.cu pt u').ins.set j (takeFor (s.portOf pt u j).2 (s.cu pt u').ins[j]).1 else (s.cu pt u').ins)[k] =
            (s.cu pt u').ins[k] := by
          split
          · simp [Fin.val_inj, Ne.symm hk]
          · rfl
        simp only [hset, List.mem_cons, hk, false_or]

/-- The unit after a gate's control token is consumed (R235). -/
theorem State.cu_takeGate (s : State) (pt : Nat) (u u' : Bool) (q : Qg) :
    (s.takeGate pt u q).cu pt u' = if u' = u ∧ q ≠ .none then
      { s.cu pt u' with qs := (s.cu pt u').qs.set (s.cu pt u).qgport (s.cu pt u).qs[(s.cu pt u).qgport].tail }
    else s.cu pt u' := by
  have hc : ∀ k, (s.ctlTake pt u k).cu pt u' = if u' = u then
      { s.cu pt u' with qs := (s.cu pt u').qs.set k (s.cu pt u).qs[k].tail } else s.cu pt u' := by
    intro k
    unfold State.ctlTake; dsimp only
    have hf : ∀ y : State, (y.free (.cuQ pt u k)).tiles = y.tiles := fun y => by simp
    rw [State.cu_congr (hf _), State.cu_congr (State.touch_frame _ _ _).2.1, State.cu_setCu_eq]
    split
    · rename_i h; rw [h]
    · rfl
  cases q <;> simp [State.takeGate, hc]

/-- S registers after writes: the last write to each counts. -/
theorem State.cu_setS_foldl (s : State) (pt : Nat) (u u' : Bool) (ws : List (Fin 8 × BitVec 32)) :
    (ws.foldl (fun s w => s.setS pt u w.1 w.2) s).cu pt u' =
      if u' = u then { s.cu pt u with sRegs := ws.foldl (fun r w => r.set w.1 w.2) (s.cu pt u).sRegs } else s.cu pt u' := by
  induction ws generalizing s with
  | nil => by_cases h : u' = u <;> simp [h]
  | cons w ws ih =>
    rw [List.foldl_cons, ih, List.foldl_cons]
    have : (s.setS pt u w.1 w.2).cu pt u = { s.cu pt u with sRegs := (s.cu pt u).sRegs.set w.1 w.2 } := by
      simp [State.setS]
    rw [this]
    by_cases h : u' = u
    · simp [h]
    · simp [h, State.setS, State.cu_setCu_eq]

theorem State.cu_emitAll (s : State) (pt : Nat) (cs : List Nat) (t : Token) (pt' : Nat) (u : Bool) :
    (s.emitAll pt cs t).cu pt' u = s.cu pt' u := by
  refine State.cu_congr ?_ pt' u
  unfold State.emitAll
  induction cs generalizing s with
  | nil => rfl
  | cons c cs ih => rw [List.foldl_cons, ih]; simp

/-- A firing without a loop's request leaves the units as they were. -/
theorem State.cu_firedRegion (s : State) (pt : Nat) (u u' : Bool) (v : EView) (f : Fire) (h : f.req = none) :
    (s.firedRegion pt u v f).cu pt u' = s.cu pt u' := by
  unfold State.firedRegion
  rw [h]; dsimp only
  have claim : State.cu (match f.claim with
      | some k => s.setMx pt { s.mx pt with slots := (s.mx pt).slots.set k (s.mx pt).slots[k].claim }
      | none => s) pt u' = s.cu pt u' := by split <;> simp
  split
  · exact claim
  · split
    · exact (State.cu_congr rfl _ _).trans claim
    · exact claim

/-- The units after a DATA firing's effects, for a firing that moves on and sends no control token. -/
theorem State.cu_fired (s : State) (pt : Nat) (u u' : Bool) (v : EView) (f : Fire) (o : Option Token) (hq : f.req = none)
    (hc : f.ctl = none) (hj : f.jump = none) (hs : f.stay = false) :
    (s.fired pt u v f o).cu pt u' = if u' = u then
      { s.cu pt u with
        sRegs := (f.writes v).foldl (fun r w => r.set w.1 w.2) (s.cu pt u).sRegs
        flags := (s.cu pt u).flags ||| f.flags
        pos := (s.cu pt u).wrap ((s.cu pt u).pos + v.len) }
    else s.cu pt u' := by
  unfold State.fired
  simp only [hc, hj, hs, Bool.false_eq_true, if_false]
  have e : ∀ (z : State) (u' : Bool), (State.advance ((match o with
      | some tok => z.emitAll pt (v.outs.map (outCode u)) tok
      | none => z).firedRegion pt u v f) pt u v.len).cu pt u' =
      if u' = u then { z.cu pt u with pos := (z.cu pt u).wrap ((z.cu pt u).pos + v.len) } else z.cu pt u' := by
    intro z u'
    have e0 : ∀ u', ((match o with
        | some tok => z.emitAll pt (v.outs.map (outCode u)) tok
        | none => z).firedRegion pt u v f).cu pt u' = z.cu pt u' := by
      intro u'
      rw [State.cu_firedRegion _ _ _ _ _ _ hq]
      cases o with
      | none => rfl
      | some tok => exact z.cu_emitAll _ _ _ _ _
    unfold State.advance State.goto
    simp only [State.cu_setCu_eq, e0]
  refine (e _ u').trans ?_
  have hf : ∀ (y : State) (u' : Bool), (y.flag pt u f.flags).cu pt u' =
      if u' = u then { y.cu pt u with flags := (y.cu pt u).flags ||| f.flags } else y.cu pt u' := fun y u' => by
    unfold State.flag; dsimp only; split
    · exact y.cu_setCu_eq _ _ _ _
    · exact (State.cu_congr rfl _ _).trans (y.cu_setCu_eq _ _ _ _)
  simp only [hf, State.cu_setS_foldl, if_true]
  by_cases h : u' = u
  · simp only [h, if_true]; rfl
  · simp [h]

/-- A register after writes to distinct registers. -/
theorem foldl_set_getElem (ws : List (Fin 8 × BitVec 32)) (r : Vector (BitVec 32) 8) (k : Fin 8) :
    (k ∉ ws.map (·.1) → (ws.foldl (fun r w => r.set w.1 w.2) r)[k] = r[k]) ∧
    ((ws.map (·.1)).Nodup → ∀ w ∈ ws, (ws.foldl (fun r w => r.set w.1 w.2) r)[w.1] = w.2) := by
  induction ws generalizing r k with
  | nil => simp
  | cons a ws ih =>
    refine ⟨fun h => ?_, fun h w hw => ?_⟩
    · simp only [List.map_cons, List.mem_cons, not_or] at h
      rw [List.foldl_cons, (ih _ k).1 h.2]
      have : a.1.val ≠ k.val := fun e => h.1 (Fin.ext e).symm
      simp [this]
    · obtain ⟨h1, h2⟩ := List.nodup_cons.mp h
      rw [List.foldl_cons]
      rcases List.mem_cons.mp hw with rfl | hw
      · rw [(ih _ w.1).1 h1]; simp
      · exact (ih _ k).2 h2 w hw

/-- A check finds nothing while no error is injected (R399). -/
theorem State.checked_sound {s : State} (h : s.upset = 0) (pt unit : Nat) (r : Option Nat) :
    s.checked pt unit r = (s, false) := by
  simp only [State.checked, h]

/-- What `fireElem` answers when an instruction fires without poison or an injected error. -/
theorem fireElem_of_fires {s : State} {pt : Nat} {u : Bool} {v : EView} {hs : List Token} (h : Fires s pt u v hs)
    (f : Opnds → Fire) (hc : ∀ z, (f (s.opnds pt u v)).ctl = some z → s.canCtl pt u z.1.val = true) :
    fireElem v f s = .next (((s.takeAll pt u v.consumed).takeGate pt u v.m.qg).fired pt u v (f (s.opnds pt u v))
      ((f (s.opnds pt u v)).token hs)) := by
  unfold fireElem
  rw [h.turn]
  simp only [h.ready, h.heads, Option.bind_some, h.data, h.pure, h.gated, h.credits, if_true, Bool.not_false, Bool.true_and]
  have hp : hs.any (·.poison) = false := by
    simp only [List.any_eq_false]; intro t ht; simp [h.clean t ht]
  have hctl : (match (f (s.opnds pt u v)).ctl with | some z => s.canCtl pt u z.1.val | none => true) = true := by
    cases e : (f (s.opnds pt u v)).ctl with
    | none => rfl
    | some z => exact hc z e
  refine (if_pos hctl).trans ?_
  unfold State.fireData
  simp [State.checked_sound h.sound, hp]

/-- Everything that a clean DATA firing with a result does: its token, its registers and flags, and its unit. -/
theorem fireElem_delivers {i : Instr} {s : State} {pt : Nat} {u : Bool} {v : EView} {hs : List Token}
    (h : Fires s pt u v hs) (f : Opnds → Fire) (he : exec i s = fireElem v f s)
    (hq : (f (s.opnds pt u v)).req = none) (hc : (f (s.opnds pt u v)).ctl = none)
    (hj : (f (s.opnds pt u v)).jump = none) (hst : (f (s.opnds pt u v)).stay = false)
    (hn : ((f (s.opnds pt u v)).sregs.map (·.1)).Nodup) {tok : Token} (ht : (f (s.opnds pt u v)).token hs = some tok) :
    DeliversToken i s pt u v tok ((f (s.opnds pt u v)).sreg (fmtWidth v.m.ty)) (f (s.opnds pt u v)).sregs
      (f (s.opnds pt u v)).flags := by
  rw [DeliversToken, he, fireElem_of_fires h f (by simp [hc]), ht]
  generalize f (s.opnds pt u v) = r at *
  have e1 := (s.takeAll_only pt u v.consumed).flights
  have hA := fun u' => s.cu_takeAll pt u u' v.consumed (List.nodup_dedup _)
  generalize hz : s.takeAll pt u v.consumed = z at *
  have hG := fun u' => z.cu_takeGate pt u u' v.m.qg
  have e2 := (z.takeGate_only pt u v.m.qg).flights
  have hF := fun u' => (z.takeGate pt u v.m.qg).cu_fired pt u u' v r (some tok) hq hc hj hst
  have hqg : (z.cu pt u).qgport = (s.cu pt u).qgport := by
    have := congrArg Cu.qgport (hA u).1; simpa [Cu.qgport] using this
  have hcu : ∀ u', ((z.takeGate pt u v.m.qg).cu pt u') = { z.cu pt u' with
      qs := ((z.takeGate pt u v.m.qg).cu pt u').qs } := fun u' => by rw [hG u']; split <;> rfl
  have hz' : ∀ u', z.cu pt u' = { s.cu pt u' with ins := (z.cu pt u').ins, lastCoord := (z.cu pt u').lastCoord } := fun u' => by
    have := (hA u').1
    generalize z.cu pt u' = a at *
    rw [← this]
  have hfl : ((z.takeGate pt u v.m.qg).fired pt u v r (some tok)).flights = s.flights ++ sentOn pt u v.outs tok := by
    have hset : ∀ (l : List (Fin 8 × BitVec 32)) (y : State), (l.foldl (fun s w => s.setS pt u w.1 w.2) y).flights = y.flights := by
      intro l
      induction l with
      | nil => exact fun y => rfl
      | cons a l ih => intro y; rw [List.foldl_cons, ih]; simp [State.setS]
    have hfr : ∀ y : State, (y.firedRegion pt u v r).flights = y.flights := fun y => (y.firedRegion_only pt u v r).flights
    unfold State.fired
    simp only [hc, hj, hst, Bool.false_eq_true, if_false]
    unfold State.advance State.goto
    simp only [State.setCu_frame, hfr, State.emitAll_flights, (State.flag_only _ _ _ _).flights, hset]
    rw [e2, e1]
    simp [sentOn]
  refine ⟨_, rfl, hfl, ?_, ?_, ?_, ?_⟩
  · intro k hk hm
    rw [hF u, if_pos rfl]
    simp only [Fire.writes, hk, List.foldl_append, List.foldl_cons, List.foldl_nil]
    rw [(foldl_set_getElem r.sregs _ k).1 hm]
    simp
  · intro w hw
    rw [hF u, if_pos rfl]
    simp only [Fire.writes, List.foldl_append]
    exact (foldl_set_getElem r.sregs _ w.1).2 hn w hw
  · rw [hF u, if_pos rfl, hcu u, hz' u]
  · refine ⟨?_, ?_, ?_, ?_, ?_, ?_, ?_⟩
    · rw [hF u, if_pos rfl, hcu u, hz' u]; rfl
    · intro u' k
      have : ((z.takeGate pt u v.m.qg).fired pt u v r (some tok)).cu pt u' = { (z.takeGate pt u v.m.qg).cu pt u' with
          sRegs := (((z.takeGate pt u v.m.qg).fired pt u v r (some tok)).cu pt u').sRegs
          flags := (((z.takeGate pt u v.m.qg).fired pt u v r (some tok)).cu pt u').flags
          pos := (((z.takeGate pt u v.m.qg).fired pt u v r (some tok)).cu pt u').pos } := by
        rw [hF u']; split
        · rename_i h; rw [h]
        · rfl
      rw [this, hcu u']
      exact (hA u').2 k
    · intro q
      rw [hF u, if_pos rfl]
      have hq0 : (z.cu pt u).qs = (s.cu pt u).qs := by rw [hz' u]
      simp only [hG u, hq0, hqg, State.gateCtl]
      by_cases hv : v.m.qg = .none
      · simp [hv, hq0]
      · simp only [hv, ne_eq, not_false_eq_true, and_self, if_true, if_false, List.mem_singleton]
        by_cases hqk : q = (s.cu pt u).qgport
        · subst hqk; simp
        · have : (s.cu pt u).qgport.val ≠ q.val := fun e => hqk (Fin.ext e).symm
          simp [hqk, this]
    · intro k hk
      rw [hF u, if_pos rfl]
      have hw : k ∉ (r.writes v).map (·.1) := by
        simp only [Fire.writes, EView.sdest, List.map_append, List.mem_append, not_or] at hk ⊢
        refine ⟨?_, hk.2⟩
        have hk := hk.1
        clear hz' hcu hF hG hA
        cases hd : v.d <;> simp_all
      refine ((foldl_set_getElem _ _ k).1 hw).trans ?_
      rw [hcu u, hz' u]
    · rw [hF u, if_pos rfl, hcu u, hz' u]
    · rw [hF u, if_pos rfl, hcu u, hz' u]
    · rw [hF u, if_pos rfl, hcu u, hz' u]

end Sys2Proof.Machine
end

