-- ==== Sys2Proof/Laws/Memory.lean ====
section
/-! SUPPORT. Memory: a read after a write, and that every operation on a memory keeps its one form. -/

namespace Sys2Proof.Machine

theorem memOrdered_mono {lo lo' : Nat} (m : List Host.Cell) (h : memOrdered lo m = true) (hl : lo' ≤ lo) :
    memOrdered lo' m = true := by
  cases m with
  | nil => rfl
  | cons p t =>
    simp only [memOrdered, Bool.and_eq_true, decide_eq_true_eq] at *
    exact ⟨⟨Nat.le_trans hl h.1.1, h.1.2⟩, h.2⟩

/-- Below its first address a memory reads 0. -/
theorem memGet_below {lo a : Nat} (m : List Host.Cell) (h : memOrdered lo m = true) (ha : a < lo) : memGet m a = 0 := by
  induction m generalizing lo with
  | nil => rfl
  | cons p t ih =>
    obtain ⟨j, b⟩ := p
    simp [memOrdered] at h
    have : j ≠ a := by omega
    simp [memGet, this, ih h.2 (by omega)]

theorem memOrdered_memSet {lo : Nat} (m : List Host.Cell) (a : Nat) (b : Byte) (h : memOrdered lo m = true)
    (ha : lo ≤ a) : memOrdered lo (memSet m a b) = true := by
  induction m generalizing lo with
  | nil => by_cases hb : b = 0#8 <;> simp [memSet, hb, memOrdered, ha]
  | cons p t ih =>
    obtain ⟨j, c⟩ := p
    have h' := h
    simp [memOrdered] at h
    simp only [memSet]
    by_cases hb : b = 0#8
    · subst hb
      split
      · simpa using h'
      · split
        · simpa using memOrdered_mono t h.2 (show lo ≤ j + 1 by omega)
        · simp [memOrdered, h.1, ih h.2 (by omega)]
    split
    · rename_i hlt
      have : a + 1 ≤ j := hlt
      simp [memOrdered, ha, hb, h.2, h.1.2, this]
    · split
      · rename_i e; subst e
        simp [memOrdered, hb, h.2, ha]
      · simp [memOrdered, h.1, ih h.2 (by omega)]

/-- Writing a byte keeps the one form. -/
@[simp] theorem wf_memSet (m : List Host.Cell) (a : Nat) (b : Byte) (h : Memory.wf m = true) :
    Memory.wf (memSet m a b) = true := memOrdered_memSet m a b h (Nat.zero_le a)

/-- Writing bytes keeps the one form. -/
@[simp] theorem wf_memPut (m : List Host.Cell) (a : Nat) (bs : List Byte) (h : Memory.wf m = true) :
    Memory.wf (memPut m a bs) = true := by
  induction bs generalizing m a with
  | nil => exact h
  | cons b bs ih => exact ih _ _ (wf_memSet m a b h)

/-- Writing bits keeps the one form. -/
@[simp] theorem wf_memPutBits (m : List Host.Cell) (bits w v : Nat) (h : Memory.wf m = true) :
    Memory.wf (memPutBits m bits w v) = true := wf_memPut m _ _ h

/-- Reset lists nothing. -/
@[simp] theorem wf_nil : Memory.wf [] = true := rfl

theorem memGet_memSet_ordered {lo : Nat} (m : List Host.Cell) (a i : Nat) (b : Byte) (h : memOrdered lo m = true) :
    memGet (memSet m a b) i = if i = a then b else memGet m i := by
  induction m generalizing lo with
  | nil =>
    by_cases hb : b = 0#8
    · simp [memSet, hb, memGet]
    · simp [memSet, hb, memGet, eq_comm]
  | cons p t ih =>
    obtain ⟨j, c⟩ := p
    simp [memOrdered] at h
    simp only [memSet]
    split
    · rename_i hlt
      by_cases hi : i = a
      · subst hi
        by_cases hb : b = 0#8
        · have : j ≠ i := by omega
          simp [hb, memGet, this, memGet_below t h.2 (show i < j + 1 by omega)]
        · simp [hb, memGet]
      · by_cases hb : b = 0#8
        · simp [hb, hi]
        · simp [hb, memGet, Ne.symm hi, hi]
    · split
      · rename_i e; subst e
        by_cases hi : i = j
        · subst hi
          by_cases hb : b = 0#8
          · simp [hb, memGet_below t h.2 (show i < i + 1 by omega)]
          · simp [hb, memGet]
        · by_cases hb : b = 0#8
          · simp [hb, memGet, hi, Ne.symm hi]
          · simp [hb, memGet, hi, Ne.symm hi]
      · rename_i hne
        by_cases hi : i = a
        · subst hi
          have hji : ¬ j = i := hne
          simp [memGet, hji, ih h.2]
        · simp [memGet, hi, ih h.2]

/-- A read after a byte is written. -/
theorem memGet_memSet (m : List Host.Cell) (a i : Nat) (b : Byte) (h : Memory.wf m = true) :
    memGet (memSet m a b) i = if i = a then b else memGet m i := memGet_memSet_ordered m a i b h

/-- A read after bytes are written from `a` up. -/
theorem memGet_memPut (m : List Host.Cell) (a i : Nat) (bs : List Byte) (h : Memory.wf m = true) :
    memGet (memPut m a bs) i = if a ≤ i ∧ i < a + bs.length then bs.getD (i - a) 0 else memGet m i := by
  induction bs generalizing m a with
  | nil => simp [memPut]
  | cons b bs ih =>
    rw [memPut, ih _ _ (wf_memSet m a b h), memGet_memSet m a i b h]
    rcases Nat.lt_trichotomy i a with hi | hi | hi
    · have h1 : ¬ (a + 1 ≤ i ∧ i < a + 1 + bs.length) := by omega
      have h2 : ¬ (a ≤ i ∧ i < a + (b :: bs).length) := by omega
      rw [if_neg h1, if_neg h2, if_neg (by omega)]
    · subst hi
      have h1 : ¬ (i + 1 ≤ i ∧ i < i + 1 + bs.length) := by omega
      simp
    · obtain ⟨k, rfl⟩ : ∃ k, i = a + 1 + k := ⟨i - (a + 1), by omega⟩
      by_cases hk : k < bs.length
      · rw [if_pos (by omega), if_pos (by simp only [List.length_cons]; omega)]
        have e1 : a + 1 + k - (a + 1) = k := by omega
        have e2 : a + 1 + k - a = k + 1 := by omega
        rw [e1, e2]; rfl
      · have h1 : ¬ (a + 1 ≤ a + 1 + k ∧ a + 1 + k < a + 1 + bs.length) := by omega
        have h2 : ¬ (a ≤ a + 1 + k ∧ a + 1 + k < a + (b :: bs).length) := by
          simp only [List.length_cons]; omega
        rw [if_neg h1, if_neg h2, if_neg (by omega)]

/-- Bytes written from `a` up do not show below it. -/
theorem memBytes_memPut_below (m : List Host.Cell) (a i n : Nat) (bs : List Byte) (h : Memory.wf m = true)
    (hi : i + n ≤ a) : memBytes (memPut m a bs) i n = memBytes m i n := by
  refine List.map_congr_left fun k hk => ?_
  have := List.mem_range.mp hk
  rw [memGet_memPut m a _ bs h, if_neg (by omega)]

/-- Bytes written are read back. -/
theorem memBytes_memPut_self (m : List Host.Cell) (a : Nat) (bs : List Byte) (h : Memory.wf m = true) :
    memBytes (memPut m a bs) a bs.length = bs := by
  refine List.ext_getElem (by simp [memBytes]) fun k h1 h2 => ?_
  simp only [memBytes, List.getElem_map, List.getElem_range]
  rw [memGet_memPut m a _ bs h, if_pos (by omega), Nat.add_sub_cancel_left, List.getD_eq_getElem _ _ h2]

end Sys2Proof.Machine
end

