-- ==== Sys2Proof/Tests/Slice0.lean ====
section
/-! SUPPORT. Tests of the model: ill-formed terms that WellFormed refuses, words written out from the spec's encodings, one
step of some instructions with results worked out by hand, and for each obligation that has hypotheses a theorem that shows
a state and operands that meet them. -/

open Sys2Proof Sys2Proof.Machine

namespace Sys2Proof.Tests

set_option exponentiation.threshold 600
set_option Elab.async false
def goesOn (o : Out) : Bool := match o with | .next _ => true | _ => false
def falls (s : State) (x : Src) (t : Token) : Bool :=
  !t.isMark && (match x with
    | .inp k | .peek k => (match (s.cu 0 false).lastCoord[k] with | some c => decide (t.coord ≤ c) | none => false)
    | _ => false)
def tok (n : Nat) : Token := { payload := BitVec.ofNat 512 n, slot := 3, residue := residueOf (BitVec.ofNat 512 n) }
def eos : Token := { kind := .eos }
def region : Ctx := { st := .running, width := 1, height := 1 }
def unit0 : Cu :=
  { ins := Vector.replicate 6 [⟨tok 5, 1⟩], qs := Vector.replicate 4 [true], sRegs := Vector.replicate 8 7, cfg := 0, pos := 4 }
def sCu (c : Cu := unit0) : State := { ctxs := [(0, region)], tiles := [(0, { cu0 := c })], cur := .cu 0 false }
def unitF : Cu := { unit0 with qs := Vector.replicate 4 [false] }
def unitE : Cu := { unit0 with ins := Vector.replicate 6 [⟨eos, 1⟩] }
def mm (op : EOp) (imm : Nat) (qg : Qg := .none) : Mods := { Machine.defaultMods op with imm := BitVec.ofNat 16 imm, qg := qg }
def mt (op : EOp) (imm : Nat) (t : Fmt) : Mods := { Machine.defaultMods op with imm := BitVec.ofNat 16 imm, ty := t }
def xr (f : Nat → Nat) : Vector Word64 16 := Vector.ofFn fun k => BitVec.ofNat 64 (f k.val)
def w0 : CtlP2 := { wsem := 5, wthr := 0, wc := false, ssem := 6, sinc := 0, scope := .cluster }
def code0 : List Parcel := [0,0,0,0,0, 77, 12, 0x45400000+77, 3,4,5, 20, 21,22,23,24,25,26,27,28]
def ctl (x : Ctx := {}) (f : Nat → Nat := fun k => 3*k) : Ctx := {x with st := .running, code := code0, pc := 2, xregs := xr f, width := 1, height := 1}
def sX (c : Nat) (x : Ctx := ctl) (more : List (Nat × Ctx) := []) : State := { ctxs := more.foldl (fun t p => tset t p.1 p.2) [(c, x)], cur := .ctl c }

/-! ### Ill-formed terms, one for each check -/

/-- The checks that an instruction fails. -/
def fails (i : Instr) (e : WfError) : Bool := i.wfErrors.contains e

theorem test_wf_missingOperand : fails (.fadd (.out 0) .none (.inp 1)) .missingOperand = true := by decide +kernel
theorem test_wf_missingDest : fails (.fadd .none (.inp 0) (.inp 1)) .missingDest = true := by decide +kernel
theorem test_wf_badDest : fails (.qnt (.s 0) (.inp 0) .none .none (mm .qnt 0)) .badDest = true := by decide +kernel
theorem test_wf_badOperand : fails (.rotj (.out 0) (.s 1)) .badOperand = true := by decide +kernel
theorem test_wf_unusedField :
    fails (.drop2P (.inp 0) { mm .drop 0 with rnd := .rtz }) .unusedField = true := by decide +kernel
theorem test_wf_badImm : fails (.adds2P (.out 0) (.inp 0) (.inp 1) (mm .adds 32)) .badImm = true := by decide +kernel
theorem test_wf_badOmask :
    fails (.drop2P (.inp 0) { mm .drop 0 with omask := 1 }) .badOmask = true := by decide +kernel
theorem test_wf_badRnd :
    fails (.frcp2P (.out 0) (.inp 0) { mm .frcp 0 with rnd := .rtz }) .badRnd = true := by decide +kernel
theorem test_wf_badAbm : fails (.rand2P (.out 0) { mm .rand 0 with abm := .abz }) .badAbm = true := by decide +kernel
theorem test_wf_badType : fails (.cvt (.out 0) (.inp 0) .none .none (mt .cvt 0 .int4)) .badType = true := by decide +kernel
theorem test_wf_badWidth :
    ((one .fadd (.out 0) (.inp 0) (.inp 1) .none).wfWidth 8).contains .badWidth = true := by decide +kernel
theorem test_wf_sameOutput : fails (.steer2P (.out 1) (.inp 0) (mm .steer 5)) .sameOutput = true := by decide +kernel
theorem test_wf_badLiteral : fails (.mtok (.out 0) .none .none (mm .mtok 0) 0xF8000000) .badLiteral = true := by decide +kernel
theorem test_wf_badLength :
    ((two .fadd (.out 0) (.inp 0) (.inp 1) .none (mm .fadd 0)).wfErrors ++
      (three .fadd (.out 0) (.inp 0) (.inp 1) .none (mm .fadd 0) 0).wfErrors).contains .badLength = true := by decide +kernel
theorem test_wf_consumeWithoutWait : fails (.ctlNop { w0 with wsem := 0, wc := true }) .consumeWithoutWait = true := by
  decide +kernel
theorem test_wf_registerRange : fails (.iter 15 w0) .registerRange = true := by decide +kernel
theorem test_wf_badToken :
    fails (.mmaBf16 { mm1 := 31, nm1 := 16, kg := 0, koff := 0, acc := true, tile := false, dfmt := false, blk := false
                      int := false, aclm := 0, bclm := 0 }) .badToken = true := by decide +kernel
theorem test_wf_accepts : (Instr.fadd (.out 0) (.inp 0) (.inp 1)).wf = true := by decide +kernel

/-! ### Words written out from the encodings (R173 to R182, R193, R197, R198) -/

/-- FADD: LEN 0, group 2, OP 0; D o1, A i2, B i3, C unused. -/
theorem test_decode_fadd : Decode.elem [0x08008867] = .ok (.fadd (.out 1) (.inp 2) (.inp 3), 1) := by decide +kernel
/-- NOP and HALT: group 0, OP 0 and 1; every operand 0x07. -/
theorem test_decode_nop : Decode.elem [0x00039CE7] = .ok (.nop, 1) := by decide +kernel
theorem test_decode_halt : Decode.elem [0x00139CE7] = .ok (.halt, 1) := by decide +kernel
/-- ADDS with IMM 1: two parcels, TYPE INT32 in the second. -/
theorem test_decode_adds :
    Decode.elem [0x41200027, 0x20000001] = .ok (.adds2P (.out 0) (.inp 0) (.inp 1) (mm .adds 1), 2) := by decide +kernel
theorem test_decode_rnsf : (Decode.elem [0x0B300022]).toOption.isSome = true := by decide +kernel
theorem test_decode_rotj : (Decode.elem [0x240004E7]).toOption = some (.rotj (.out 0) (.inp 1), 1) := by decide +kernel
/-- LD.BF16 as INSN0 and INSN1 of a frame. -/
theorem test_decode_ld : Decode.mem 0x60039CE7 0x10000000 = .ok (.ld { ty := .bf16, rnd := .rne, imm := 0 }) := by
  decide +kernel
/-- MMA.BF16 of 32 × 16, K 64, ACC, claims 0x31 and 0x42. -/
theorem test_decode_mma : Decode.mx 0x0FDE610031420000 = .ok (.mmaBf16
    { mm1 := 31, nm1 := 15, kg := 3, koff := 0, acc := true, tile := false, dfmt := false, blk := false, int := false
      aclm := 0x31, bclm := 0x42 }) := by decide +kernel
/-- Controller ADD X1, X1, #1 that waits for semaphore 12 to reach 2 and adds 1 to semaphore 13. -/
theorem test_decode_ctlAdd : Decode.ctl [0x42011001, 0x0C050D10] = .ok (.ctlAddImm 1 1 1
    { wsem := 12, wthr := 2, wc := true, ssem := 13, sinc := 1, scope := .cluster }, 2) := by decide +kernel
theorem test_decode_li : (Decode.ctl [0x83020000, 0, 0x1234]).toOption.isSome = true := by decide +kernel
theorem test_decode_copy : Decode.ctl [0x50008005, 0x00001410] =
    .ok (.copy 0 8 5 { wsem := 0, wthr := 0, wc := false, ssem := 20, sinc := 1, scope := .cluster }, 2) := by decide +kernel
theorem test_decode_rett : (Decode.ctl [0x58201200, 0]).toOption.isSome = true := by decide +kernel
/-- An opcode that is not assigned, and LEN 3. -/
theorem test_decode_refuses : Decode.elem [0x00E39CE7] = .error .badOpcode ∧ Decode.elem [0xC0000000] = .error .badLen := by
  decide +kernel
theorem test_table_word : decodeTableWord 32 0x08008867 = some (.fadd (.out 1) (.inp 2) (.inp 3)) := by decide +kernel

/-! ### One step of some instructions; results by hand -/

/-- What holds of the state that an outcome goes on to. -/
def after (o : Out) (f : State → Bool) : Bool := match o with | .next t => f t | _ => false
/-- Element 0 of the tokens sent. -/
def sent0 (t : State) : List Nat := t.flights.map fun f => elemAt f.tok.payload 32 0
/-- Two inputs with `a` and `b` in element 0, others 0. -/
def unit2 (a b : Nat) : Cu := { unit0 with ins := #v[[⟨tok a, 1⟩], [⟨tok b, 1⟩], [⟨tok 1, 1⟩], [], [], []] }

/-- A NOP placed at reset is the first to run. -/
theorem test_step_nop : goesOn (step (State.reset.withFetchWord 32 0x00039CE7)) = true := by decide +kernel
/-- R210: 7 - 5. -/
theorem test_sub : after (exec (.sub (.out 0) (.inp 0) (.inp 1)) (sCu (unit2 7 5))) (fun t => sent0 t == [2]) = true := by
  decide +kernel
/-- R217: 1.0 + 2.0 = 3.0. -/
theorem test_fadd : after (exec (.fadd (.out 0) (.inp 0) (.inp 1)) (sCu (unit2 0x3F800000 0x40000000)))
    (fun t => sent0 t == [0x40400000]) = true := by decide +kernel
/-- R217: 2.0 · 3.0 - 1.0 = 5.0, with -1.0 in an S register. -/
theorem test_ffms : after (exec (.ffms (.out 0) (.inp 0) (.inp 1) (.s 0))
      (sCu { unit2 0x40000000 0x40400000 with sRegs := Vector.replicate 8 0x3F800000 }))
    (fun t => sent0 t == [0x40A00000]) = true := by decide +kernel
/-- R211: the upper half of -2^30 · 8 is -2. -/
theorem test_mulh : after (exec (.mulh (.out 0) (.inp 0) (.inp 1)) (sCu (unit2 0xC0000000 8)))
    (fun t => sent0 t == [0xFFFFFFFE]) = true := by decide +kernel
/-- R214: an arithmetic shift keeps the sign. -/
theorem test_sar : after (exec (.sar (.out 0) (.inp 0) (.inp 1)) (sCu (unit2 0xFFFFFF00 4)))
    (fun t => sent0 t == [0xFFFFFFF0]) = true := by decide +kernel
/-- R239: a false control token steers to the other output. -/
theorem test_steer : after (exec (.steer2P (.out 0) (.inp 0) (mm .steer 4)) (sCu unitF))
    (fun t => t.flights.map (·.code) == [0x21]) = true := by decide +kernel
/-- R248: LOOP counts its S register down. -/
theorem test_loop : after (exec (.loop2P (.s 2) (mm .loop 9)) (sCu { unit0 with store := List.replicate 48 0x00039CE7 }))
    (fun t => (t.cu 0 false).sRegs[2] == 6 && (t.cu 0 false).pos == 9) = true := by decide +kernel
/-- R274: IMM8 is sign-extended for ADD. -/
theorem test_ctlAddImm : after (exec (.ctlAddImm 1 2 0xFF { w0 with wsem := 0, sinc := 0 }) (sX 5))
    (fun t => (t.ctx 5).getX 1 == 5 && (t.ctx 5).pc == 4) = true := by decide +kernel
/-- R275: LI sign-extends its literal. -/
theorem test_li : after (exec (.li 1 { w0 with wsem := 0, sinc := 0 } 0xFFFFFFFE) (sX 5))
    (fun t => (t.ctx 5).getX 1 == 0xFFFFFFFFFFFFFFFE && (t.ctx 5).pc == 5) = true := by decide +kernel
/-- R276: BGEU compares without sign. -/
theorem test_bgeu : after (exec (.bgeu 1 2 { w0 with wsem := 0, sinc := 0 } 9)
      (sX 5 { ctl with xregs := xr fun k => if k = 1 then 2 ^ 63 else 1 })) (fun t => (t.ctx 5).pc == 9) = true := by
  decide +kernel
/-- R389: the handler is at XVEC + 4 · CAUSE. -/
theorem test_trapDelivery : after (exec (.trapDelivery 0)
      { ctxs := [(supId 0, ctl)], regs := [(regKey 0 0x40 0, 100)]
        dies := [(0, { up := true, traps := [{ cause := 3, ctx := 5, info := 77 }] })] })
    (fun t => (t.ctx (supId 0)).pc == 112 && (t.die 0).traps.isEmpty) = true := by decide +kernel
/-- R4: the byte at the lower address is the less significant. -/
theorem test_byte_order : memNat (memPut [] 16 [0x34, 0x12]) 16 2 = 0x1234 ∧ memGet (memPut [] 16 [0x34, 0x12]) 17 = 0x12 := by
  decide +kernel
/-- Writing what an unlisted byte reads as removes its entry (log entry 3). -/
theorem test_memory_form : memSet (memSet [] 5 7) 5 0 = [] := by decide +kernel
/-- R6 and R405: a 1 written to a W1C bit clears it, a 0 leaves it. -/
theorem test_w1c : after (exec (.registerWrite .host 0 0x6B 0 0x5)
      { hostUp := true, regs := [(regKey 0 0x6B 0, 0x1F)] }) (fun t => t.reg 0 0x6B 0 == 0x1A) = true := by decide +kernel
/-- R365: a request below FFLOOR is raised to it. -/
theorem test_ffloor : after (exec (.vfctlWrite .host 0 3 (BitVec.ofNat 64 (20 + 40 * 256 + 132 * 65536)))
      { hostUp := true, vfs := [(3, { fcode := 60, vcode := some 48 })], regs := [(regKey 0 0x4A 0, 0), (regKey 0 0x4B 0, 0)] })
    (fun t => (t.vf 0 3).fcode == 40) = true := by decide +kernel
/-- R145: the pair (VERSION, WRITER) is compared, FLAGS is not. -/
theorem test_tagKey : tagKey (tagOf 5 9 15) = tagKey (tagOf 5 9 0) ∧ tagKey (tagOf 5 9 0) < tagKey (tagOf 6 0 0) := by
  decide +kernel

/-! ### Witnesses written by hand -/

/-- A state for writes of registers: the curve rises. -/
def sReg : State :=
  { hostUp := true, regs := [(regKey 0 0x4A 0, 0x0807060504030201), (regKey 0 0x4B 0, 0x30302F2E2D2C2B2A)] }

theorem witness_registerWrites :
    (sReg.canWrite (.host 0x81) = true ∧ sReg.canWrite .supervisor = true ∧ WriteBy.host 0x81 ≠ .host 0) ∧
    (∀ p ∈ [(0x40, 0), (0x54, 1023), (0x58, 16), (0x4C, 0), (0x4E, 575), (0x4F, 0), (0x53, 255), (0x55, 0), (0x6B, 0), (0x68, 5),
        (0x64, 0), (0x41, 0), (0x49, 35), (0x4D, 575), (0x5C, 23), (0x5D, 7), (0x63, 109), (0x69, 5), (0x48, 35), (0x4A, 0), (0x4B, 0),
        (0x50, 5), (0x59, 0), (0x51, 31), (0x52, 15), (0x56, 1023), (0x65, 575), (0x60, 109), (0x5B, 2), (0x5B, 3), (0x6A, 1),
        (0x6C, 22)], p.2 < regCount 0 p.1 ∧ p.1 < 256 ∧ tget sReg.sampled (hostKey 0 p.1 p.2) ≠ some sReg.cycle) ∧
    sReg.merged 0 0x4E 575 0x81 0xAB000000000000CD = 0xAB0001B8019001CD ∧
    (let t0 := sReg.setReg 0 0x4A 0 0x0807060504030200
     (∀ j, j < 16 → t0.curve 0 j ≤ 48) ∧ ∀ j, j < 15 → t0.curve 0 j ≤ t0.curve 0 (j + 1)) ∧
    ¬(let t0 := sReg.setReg 0 0x4A 0 0x0807060504030210
      (∀ j, j < 16 → t0.curve 0 j ≤ 48) ∧ ∀ j, j < 15 → t0.curve 0 j ≤ t0.curve 0 (j + 1)) ∧
    (bit (0x80300420 : Word64) 31 = true ∧ fld (0x80300420 : Word64) 20 3 = 3 ∧
      ((List.range 3).map fun j => fld (0x80300420 : Word64) (4 * j) 4 / 2).Nodup) ∧
    (bit (0x80300400 : Word64) 31 = true ∧ ¬((List.range 3).map fun j => fld (0x80300400 : Word64) (4 * j) 4 / 2).Nodup) ∧
    bit (5 : Word64) 63 = false ∧
    (let s := { sReg with regs := (regKey 0 0x56 7, 0x8000000000000005) :: sReg.regs }
     bit (0x8000000000000005 : Word64) 63 = true ∧ 7 ≠ 1023 ∧ bit (s.reg 0 0x56 7) 63 = true ∧ fld (s.reg 0 0x56 7) 0 16 = 5) ∧
    tgetD sReg.testFence (0 * 576 + 575) 0 = 0 ∧
    (bit (0x8000000000000000 : Word64) 63 = true ∧ bit (0x8000000000000000 : Word64) 59 = false) ∧
    256 ≤ fld (0x100 : Word64) 0 16 ∧ fld (0xFF : Word64) 0 16 < 256 ∧ bit (0x4000000000000000 : Word64) 62 = true ∧
    bit (0xFFFF0003 : Word64) 62 = false ∧ facing 7 1 = some (6, 0) ∧
    tget { sReg with attest := [(0, [1, 2, 3, 4])] }.attest 0 = some [1, 2, 3, 4] := by
  decide +kernel

/-- An error of a class at a location of die 0. -/
def sErr (loc : ErrLoc) (cls : ErrClass) (src : Nat) : ErrFound := ⟨0, loc, cls, src, 0x05, 0x23, 0, 5⟩

/-- A state in which errors have been found and CYCLE is to count on: the banks `full` hold records of their ERSTATUS. -/
def sFound (l : List ErrFound) (full : List (Nat × Word64)) : State :=
  { found := l, sched := [.tick 1], cycle := 9, regs := full.map fun p => (regKey 0 0x60 p.1, p.2) }

/-- R406: the higher rank is placed first, then the lower SRC; the placed records stand in the lowest free banks. -/
theorem test_records_in_order : after (step (sFound [sErr (.cluster 5) .ce 3 , sErr (.cluster 5) .uc 9, sErr (.cluster 5) .uc 1] []))
    (fun t => t.reg 0 0x60 40 == 0xC001050000000000 && t.reg 0 0x60 41 == 0xC009050000000000 &&
      t.reg 0 0x60 42 == 0x9003050000000000 && t.reg 0 0x63 47 == 0x300000000 && (t.die 0).traps.length == 2) = true := by
  decide +kernel

theorem witness_errorRecords :
    let e := sErr (.cluster 5) .uc 9
    let all (w : Word64) : List (Nat × Word64) := (List.range 8).map fun k => (40 + k, if k = 3 then w else 0xC000000000000000)
    let inLoc (k : Nat) : Prop := e.loc.banks.1 ≤ k ∧ k < e.loc.banks.1 + e.loc.banks.2
    let valid (s : State) (k : Nat) : Prop := bit (s.reg e.die 0x60 k) 63 = true
    let rank (s : State) (k : Nat) : Nat := if bit (s.reg e.die 0x60 k) 62 then 2 else if bit (s.reg e.die 0x60 k) 61 then 1 else 0
    ((sFound [e] []).sched = [.tick 1] ∧ (sFound [e] []).shutdown = false ∧ (∀ p ∈ (sFound [e] []).clusters, p.2.late = []) ∧
      e.src < 256 ∧ e.type < 256 ∧ e.ctx < 65536) ∧
    (inLoc 40 ∧ ¬valid (sFound [e] []) 40) ∧
    (inLoc 47 ∧ ¬valid (sFound [e] ((all 0xC000000000000000).dropLast)) 47 ∧
      ∀ m, m < 7 → valid (sFound [e] ((all 0xC000000000000000).dropLast)) (40 + m)) ∧
    bit ((sFound [e] []).reg 0 0x64 5) 63 = true ∧ ((sFound [e] []).die 0).traps.length < 256 ∧
    (let w := (sFound [sErr (.cluster 5) .ce 9] []).reg 0 0x64 5; fld w 32 16 + 1 < 65536 ∧ fld w 0 16 = 256 ∧ fld w 32 16 + 1 ≠ 256) ∧
    (let s := { sFound [sErr (.cluster 5) .ce 9] [] with regs := [(regKey 0 0x64 5, 0x8000000000000001)] }
     fld (s.reg 0 0x64 5) 0 16 = 1 ∧ fld (s.reg 0 0x64 5) 32 16 + 1 = 1) ∧
    (let s := sFound [e] (all 0xA000000000000000)
     (∀ k, k < 8 → valid s (40 + k) ∧ rank s 43 ≤ rank s (40 + k) ∧ (40 + k < 43 → rank s 43 < rank s (40 + k))) ∧
       inLoc 43 ∧ rank s 43 < e.cls.rank) ∧
    (let s := sFound [e] (all 0xC000000000000000)
     (∀ k, k < 8 → valid s (40 + k) ∧ rank s 40 ≤ rank s (40 + k)) ∧ e.cls.rank ≤ rank s 40) ∧
    (let f := sErr (.cluster 5) .ce 3
     let s := sFound [f, e] [(40, 0xC000000000000000), (42, 0xC000000000000000)]
     f.die = e.die ∧ f.loc = e.loc ∧ f.src < 256 ∧ f.type < 256 ∧ f.ctx < 65536 ∧ f.cls.rank < e.cls.rank ∧ valid s 40 ∧
       ¬valid s 41 ∧ valid s 42 ∧ ¬valid s 43 ∧ inLoc 43) ∧
    (let f := sErr (.cluster 5) .uc 11
     f.cls = e.cls ∧ e.src < f.src) := by
  decide +kernel

/-! ### Firmware images: FIPS 180-4 and RFC 8032 -/

/-- The secret key of TEST 1 of RFC 8032. -/
def seed1 : List Byte := leBytes 32 0x607FAE1C03AC3B701969327B69C54944C42CEC92F44A84BA605AFDEF9DB1619D

/-- SHA-512 of "abc" (FIPS 180-4). -/
theorem test_sha512_abc : sha512 [0x61, 0x62, 0x63] =
    (leBytes 64 (0xDDAF35A193617ABACC417349AE20413112E6FA4E89A97EA20A9EEEE64B55D39A * 2 ^ 256 +
      0x2192992A274FC1A836BA3C23A3FEEBBD454D4423643CE80E2A9AC94FA54CA49F)).reverse := by decide +kernel

/-- The public key and the signature of the empty message of TEST 1 (RFC 8032). -/
theorem test_ed25519_rfc8032 : edPublic seed1 = leBytes 32 0x1A5107F7681A02AF2523A6DAF372E10E3A0764C9D3FE4BD5B70AB18201985AD7 ∧
    edSign seed1 [] = leBytes 64 (0x0B107A8E4341516524BE5B59F0F55BD26BB4F91C70391EC6AC3BA3901582B85F * 2 ^ 256 +
      0x5501492265E073D874D9E5B81E7F87848A826E80CCE2869072AC60C3004356E5) := by decide +kernel

/-- A supervisor's image of one byte, 0x5A, signed with that key; the digest and the signature are worked out outside the
model. -/
def image1 : List Byte :=
  leBytes 16 (2 ^ 64 + 2 ^ 32 + 0x31574643) ++
  leBytes 64 (0x24402C01D4737FD583D3E73B3888E9F5B1A0A55115DA2FCFE10A3E9D074F65F7 * 2 ^ 256 +
    0xC5252C061A45694681BE7284000C31632972CC59B1B036F7CF0CCD71F0DF2532) ++
  leBytes 64 (0x0022F4544F905A6AB3974FED44AD8805076E71175EC55C2E67DD2DEE1CC2A8C1 * 2 ^ 256 +
    0x22D00ED48C7EBD1D87C48BFCB868DEC50D44855C85F1ACA3653906A7F3DA7D4E) ++
  leBytes 32 0x1A5107F7681A02AF2523A6DAF372E10E3A0764C9D3FE4BD5B70AB18201985AD7 ++ leBytes 81 (0x5A * 2 ^ 640)

/-- SHA-512 of the key. -/
def keyHash1 : List Byte :=
  leBytes 64 (0xC3A9704714D475B52AF1831B5106781802438BA9D3EF4D53C079C49382680947 * 2 ^ 256 +
    0x0906752FC3F2C4237AE419E824172F03DCC7BFD90E47A018AABAB42502A5020E)

theorem test_image_accepted : fwOk keyHash1 image1 = true := by decide +kernel
theorem test_image_changed : fwOk keyHash1 (image1.dropLast ++ [0x5B]) = false := by decide +kernel

/-- A start at which no image is found. -/
def obs0 : StartObs :=
  { failStep := [], hbmFail := [], linkFail := [], fence := [], keyHash := [], images := [], code := [], selfCode := [] }
/-- A start at which die 3 finds its supervisor's image. -/
def obs1 : StartObs := { obs0 with keyHash := keyHash1, images := [(3, image1)] }

theorem witness_startsClear :
    (sReg.hostUp = true ∧ sReg.shutdown = false ∧ bit (1 : Word64) 0 = true ∧ bit (1 : Word64) 1 = false ∧
      bit (3 : Word64) 1 = true ∧ bit (2 : Word64) 0 = false) ∧
    (obs0.failStep = [] ∧ 0 ∈ refusedKinds obs0 3) ∧ (obs1.failStep = [] ∧ 0 ∉ refusedKinds obs1 3) ∧
    ({ sReg with shutdown := true, sched := [.tick 1] }.shutdown = true ∧
      { sReg with shutdown := true, sched := [.tick 1] }.popTurn.1.coldStart = false) ∧
    (paHbm 0 = true ∧ paFar (2 ^ 44) = true) ∧
    (sReg.start true obs0).shutdown = false ∧ ((sReg.start true obs0).die 7).up = false := by
  refine ⟨by decide +kernel, by decide +kernel, by decide +kernel, ⟨rfl, rfl⟩, by decide +kernel, by decide +kernel,
    by decide +kernel⟩

/-- A token that releases claims. -/
def relTok : MxTok :=
  { mm1 := 0, nm1 := 0, kg := 0, koff := 0, acc := false, tile := false, dfmt := false, blk := false, int := false
    aclm := 0xFF, bclm := 0 }

theorem witness_encodingRoundTrip :
    ((Instr.fadd (.out 1) (.inp 2) (.inp 3)).wf = true ∧ (elemView (.fadd (.out 1) (.inp 2) (.inp 3))).isSome = true) ∧
    ((Instr.ld { ty := .bf16, rnd := .rne, imm := 0 }).wf = true ∧
      (Decode.memFields (.ld { ty := .bf16, rnd := .rne, imm := 0 })).isSome = true) ∧
    ((Instr.matrixRelease relTok).wf = true ∧ (mxOp (.matrixRelease relTok)).isSome = true) ∧
    ((Instr.li 15 w0 0xFFFFFFFF).wf = true ∧ (Decode.ctlEnc (.li 15 w0 0xFFFFFFFF)).isSome = true) := by decide +kernel

theorem witness_stepsKeepMemoryForm :
    State.reset.memWf = true ∧ goesOn (step (State.reset.withFetchWord 32 0x08008867)) = true := by decide +kernel

/-! ### Launch images at 0x40000 and 0x80000, read through a page of 1 GiB that maps each address to itself -/

/-- Page table at 0, 0x2000 and 0x4000; at 0x40000 a header and one region record of 1 by 1, its other sections empty; at 0x80000
two region records, and group 3 with copy-engine context 5 of the cluster of either: KIND 1, REGION 0 and 1. -/
def imgMem : List Host.Cell :=
  [(0, 1), (1, 0x20), (0x2000, 1), (0x2001, 0x40), (0x4000, 0x1F), (0x400F, 0x30),
   (0x40000, 0x54), (0x40001, 0x59), (0x40002, 0x49), (0x40003, 0x31), (0x40004, 1), (0x40006, 128), (0x40010, 128),
   (0x40018, 32), (0x40080, 1), (0x40081, 1),
   (0x80000, 0x54), (0x80001, 0x59), (0x80002, 0x49), (0x80003, 0x31), (0x80004, 1), (0x80006, 128), (0x80010, 128),
   (0x80018, 64), (0x80020, 192), (0x80028, 16), (0x80080, 1), (0x80081, 1), (0x800A0, 1), (0x800A1, 1), (0x800C0, 3),
   (0x800C2, 2), (0x800CA, 5), (0x800CB, 0x40), (0x800CC, 1), (0x800CE, 5), (0x800CF, 0x40)]
def sImg (off : Word64 := 0x40000) (l : List (Nat × Bool) := []) : State :=
  { mem := imgMem, hostUp := true, ports := [(0, { st := 1, off := off })], dies := [(0, { up := true, places := true })], llc := l }
/-- The reader that the page table amounts to. -/
def rdImg (n va : Nat) : Option (List Byte) := some ((List.range' va n).map (memGet imgMem))

theorem sImg_mem (o l) : (sImg o l).mem = imgMem := rfl
theorem natBits_low (va k : Nat) (hk : 30 ≤ k) (h : va < 2 ^ 30) : natBits va k 9 = 0 := by
  have : va >>> k = 0 := by
    rw [Nat.shiftRight_eq_div_pow]
    exact Nat.div_eq_of_lt (lt_of_lt_of_le h (Nat.pow_le_pow_right (by omega) hk))
  simp [natBits, this]

theorem sImg_walk (o l) (va : Nat) (h : va < 2 ^ 30) : (sImg o l).walkVa 0 va = some ⟨0, 0, 30, 0x1F, 0x3000000000000000⟩ := by
  have h4 := natBits_low va 48 (by omega) h
  have h3 := natBits_low va 39 (by omega) h
  have h2 := natBits_low va 30 (by omega) h
  have f4 : BitVec.ofNat 64 (memNat imgMem 0 8) = 0x2001 := by decide +kernel
  have f3 : BitVec.ofNat 64 (memNat imgMem 8192 8) = 0x4001 := by decide +kernel
  have f2 : BitVec.ofNat 64 (memNat imgMem 16384 8) = 0x1F := by decide +kernel
  have f1 : BitVec.ofNat 64 (memNat imgMem 16392 8) = 0x3000000000000000 := by decide +kernel
  have e : (sImg o l).walkFrom va 4 0 = some (30, 0x1F, 0x3000000000000000) := by
    rw [State.walkFrom, if_neg (by decide)]
    simp only [levelShift, h4, show ¬(4 : Nat) = 0 from by decide, if_false, Nat.mul_zero, Nat.add_zero, sImg_mem, f4]
    rw [if_neg (by decide), if_neg (by decide), if_neg (by decide),
      show pteAddr 0x2001 = 8192 from by decide +kernel, State.walkFrom, if_neg (by decide)]
    simp only [levelShift, h3, show ¬(3 : Nat) = 0 from by decide, if_false, Nat.mul_zero, Nat.add_zero, sImg_mem, f3]
    rw [if_neg (by decide), if_neg (by decide), if_neg (by decide),
      show pteAddr 0x4001 = 16384 from by decide +kernel, State.walkFrom, if_neg (by decide)]
    simp only [levelShift, h2, show ¬(2 : Nat) = 0 from by decide, if_false, Nat.mul_zero, Nat.add_zero, sImg_mem, f2, f1]
    rw [if_neg (by decide), if_pos (by decide), if_neg (by decide)]
  have z : va / 2 ^ 30 = 0 := Nat.div_eq_of_lt h
  rw [State.walkVa, e, Option.map_some, z]
  rfl

theorem sImg_read (o l) (n va : Nat) (h : va + n ≤ 2 ^ 30) : (sImg o l).readVa 0 n va = rdImg n va := by
  induction n generalizing va with
  | zero => rfl
  | succ n ih =>
    have p : TlbEnt.pa ⟨0, 0, 30, 0x1F, 0x3000000000000000⟩ va = va := by
      rw [TlbEnt.pa, show pteAddr 0x1F = 0 from by decide +kernel, Nat.zero_add]
      exact Nat.mod_eq_of_lt (show va < 2 ^ 30 by omega)
    simp only [State.readVa, sImg_walk o l va (by omega), ih (va + 1) (by omega), rdImg, p]
    rw [if_neg (by decide)]
    simp [List.range'_succ, sImg]

/-- What a check of an image amounts to when every part of it passes. -/
theorem checkImage_of {s : State} {root : Nat} {rd : Nat → Nat → Option (List Byte)} {off : Nat} {hd : List Byte} {secs : List (Nat × Nat)}
    {ss : List (List Byte)} {regs : List RegRec} {grps : List GrpRec} {data : List DataRec} {stages : List Stage}
    (h0 : off % 64 = 0) (h1 : rd 128 off = some hd) (h2 : headerOk hd = some secs)
    (h3 : allSome (secs.map fun p => rd p.2 (off + p.1)) = some ss)
    (h4 : allSome ((pieces 32 (ss.getD 0 []).length (ss.getD 0 [])).map
      (regRec (ss.getD 3 []).length (ss.getD 4 []).length)) = some regs)
    (h5 : grpRecs regs.length (ss.getD 1 []).length none (ss.getD 1 []) = some grps)
    (h6 : dataRecs s root regs (ss.getD 2 []) (ss.getD 5 []).length (ss.getD 5 []) = some data)
    (h7 : allSome ((pieces 64 (ss.getD 6 []).length (ss.getD 6 [])).zipIdx.map
      fun p => stageRec regs p.2 (ss.getD 3 []).length p.1) = some stages)
    (h8 : (membersOk regs grps && imagesApart (ss.getD 3 []) (regs.map (·.cfgoff) ++ stages.flatMap fun st =>
      st.rungs.map (·.cfgoff)) && s.offered (BitVec.ofNat 64 (bfield hd 8 8))) = true) :
    s.checkImage root rd off = some
      { feature := BitVec.ofNat 64 (bfield hd 8 8), regs := regs, grps := grps, views := ss.getD 2 [], cfg := ss.getD 3 []
        code := ss.getD 4 [], data := data, stages := stages } := by
  simp only [State.checkImage, h0, h1, h2, h3, h4, h5, h6, h7, h8, Option.bind_eq_bind, Option.bind_some, ne_eq,
    not_true_eq_false, if_false, if_true]

theorem sImg_pas (o l) (n va : Nat) (h : va + n ≤ 2 ^ 30) : (sImg o l).pasOf 0 va n = List.range' va n := by
  have p (i : Nat) (hi : i < n) : ((sImg o l).walkVa 0 (va + i)).map (fun t => t.pa (va + i)) = some (va + i) := by
    rw [sImg_walk o l _ (by omega), Option.map_some, TlbEnt.pa, show pteAddr 0x1F = 0 from by decide +kernel, Nat.zero_add]
    exact congrArg some (Nat.mod_eq_of_lt (show va + i < 2 ^ 30 by omega))
  rw [State.pasOf, List.filterMap_congr fun i hi => p i (List.mem_range.mp hi), List.filterMap_eq_map', List.range'_eq_map_range]

/-- What the slices hold once each image has been read. -/
def llcA : List (Nat × Bool) := [(5461, false), (5462, false), (5463, false), (5464, false)]
def llcB : List (Nat × Bool) := [(10922, false), (10923, false), (10924, false), (10925, false), (10926, false)]
def img0 : LaunchImg := ⟨0, [⟨1, 1, 0, [], 0, 0, 0⟩], [], [], [], [], [], []⟩
def img2 : LaunchImg :=
  ⟨0, [⟨1, 1, 0, [], 0, 0, 0⟩, ⟨1, 1, 0, [], 0, 0, 0⟩], [⟨3, 0, [(1, 5, 0), (1, 5, 1)], []⟩], [], [], [], [], []⟩
/-- The headers' bytes and what they say of the sections. -/
def imgHd (off : Nat) : List Byte := (List.range' off 128).map (memGet imgMem)
def imgSecs : List (Nat × Nat) := [(128, 32), (0, 0), (0, 0), (0, 0), (0, 0), (0, 0), (0, 0)]
def imgSecs2 : List (Nat × Nat) := [(128, 64), (192, 16), (0, 0), (0, 0), (0, 0), (0, 0), (0, 0)]

theorem sImg_image : (sImg 0x40000 llcA).readImage 0 0x40000 = some img0 := by
  have hd : (sImg 0x40000 llcA).readVa 0 128 0x40000 = some (imgHd 0x40000) := sImg_read _ _ _ _ (by omega)
  have hs : headerOk (imgHd 0x40000) = some imgSecs := by decide +kernel
  have ss : allSome (imgSecs.map fun p => (sImg 0x40000 llcA).readVa 0 p.2 (0x40000 + p.1)) =
      some [[1, 1] ++ List.replicate 30 0, [], [], [], [], [], []] := by
    simp only [imgSecs, List.map_cons, List.map_nil]
    rw [sImg_read _ _ 32 _ (by omega), show rdImg 32 (0x40000 + 128) = some ([1, 1] ++ List.replicate 30 0) from by decide +kernel]
    rfl
  have h := checkImage_of (s := sImg 0x40000 llcA) (root := 0) (rd := (sImg 0x40000 llcA).readVa 0) (by decide) hd hs ss (regs := [⟨1, 1, 0, [], 0, 0, 0⟩])
    (grps := []) (data := []) (stages := []) (by decide +kernel) rfl rfl rfl
    (by rw [show bfield (imgHd 0x40000) 8 8 = 0 from by decide +kernel]; decide +kernel)
  rw [show bfield (imgHd 0x40000) 8 8 = 0 from by decide +kernel] at h
  exact h

theorem sImg_twice : (sImg 0x80000 llcB).readImage 0 0x80000 = some img2 := by
  have hd : (sImg 0x80000 llcB).readVa 0 128 0x80000 = some (imgHd 0x80000) := sImg_read _ _ _ _ (by omega)
  have hs : headerOk (imgHd 0x80000) = some imgSecs2 := by decide +kernel
  have ss : allSome (imgSecs2.map fun p => (sImg 0x80000 llcB).readVa 0 p.2 (0x80000 + p.1)) =
      some [[1, 1] ++ List.replicate 30 0 ++ [1, 1] ++ List.replicate 30 0,
        [3, 0, 2, 0, 0, 0, 0, 0, 0, 0, 5, 0x40, 1, 0, 5, 0x40], [], [], [], [], []] := by
    simp only [imgSecs2, List.map_cons, List.map_nil]
    rw [sImg_read _ _ 64 _ (by omega), sImg_read _ _ 16 _ (by omega),
      show rdImg 64 (0x80000 + 128) = some ([1, 1] ++ List.replicate 30 0 ++ [1, 1] ++ List.replicate 30 0) from by decide +kernel,
      show rdImg 16 (0x80000 + 192) = some [3, 0, 2, 0, 0, 0, 0, 0, 0, 0, 5, 0x40, 1, 0, 5, 0x40] from by decide +kernel]
    rfl
  have h := checkImage_of (s := sImg 0x80000 llcB) (root := 0) (rd := (sImg 0x80000 llcB).readVa 0) (by decide) hd hs ss
    (regs := [⟨1, 1, 0, [], 0, 0, 0⟩, ⟨1, 1, 0, [], 0, 0, 0⟩])
    (grps := [⟨3, 0, [(1, 5, 0), (1, 5, 1)], []⟩]) (data := []) (stages := []) (by decide +kernel) (by decide +kernel) rfl rfl
    (by rw [show bfield (imgHd 0x80000) 8 8 = 0 from by decide +kernel]; decide +kernel)
  rw [show bfield (imgHd 0x80000) 8 8 = 0 from by decide +kernel] at h
  exact h

/-- The sectors of what is read of an image stand in their slices. -/
theorem sImg_seen (o : Word64) {off : Nat} {secs : List (Nat × Nat)} {l : List (Nat × Bool)} (h0 : off + 128 ≤ 2 ^ 30)
    (h1 : (headerOk (imgHd off)).getD [] = secs) (h2 : ∀ p ∈ secs, off + p.1 + p.2 ≤ 2 ^ 30)
    (h3 : (sImg o).llcPass (List.range' off 128 ++ secs.flatMap fun p => List.range' (off + p.1) p.2) false = sImg o l) :
    (sImg o).llcPass ((sImg o).imagePas 0 off) false = sImg o l := by
  have e : (sImg o).imagePas 0 off = List.range' off 128 ++ secs.flatMap fun p => List.range' (off + p.1) p.2 := by
    have r : (sImg o).readVa 0 128 off = some (imgHd off) := sImg_read o [] 128 off h0
    have q : (secs.flatMap fun p => (sImg o).pasOf 0 (off + p.1) p.2) = secs.flatMap fun p => List.range' (off + p.1) p.2 :=
      List.flatMap_congr fun p hp => sImg_pas o [] _ _ (by have := h2 p hp; omega)
    subst h1
    rw [State.imagePas, r, Option.bind_some, ← q, sImg_pas o [] 128 off h0]
    cases headerOk (imgHd off) <;> rfl
  rw [e, h3]

/-- Two places of one cluster. -/
def places2 : List Place := [⟨0, 0, 3⟩, ⟨0, 0, 9⟩]

theorem witness_launchEvents :
    ((State.reset.port 16).inReset = false ∧ { State.reset with hostUp := true }.hostUp = true ∧ (State.reset.port 16).st = 0) ∧
    (((sImg).port 0).inReset = false ∧ (sImg).hostUp = true ∧ ((sImg).port 0).st = 1) ∧
    (∃ z, (sImg).llcPass ((sImg).imagePas 0 0x40000) false = z ∧
     ((z.die 0).up = true ∧ (z.die 0).places = true ∧ z.servedFirst 0 = false) ∧
     z.readImage 0 0x40000 = some img0 ∧
     z.placeAll z.nextLaunch img0 0 img0.regs [] = none ∧
     ∃ s1 ids, z.placeAll z.nextLaunch img0 0 img0.regs [⟨0, 0, 3⟩] = some (s1, ids) ∧ s1.membersFit ids img0.grps = true ∧
       (State.initAll ids img0.data (s1.writeLaunch z.nextLaunch 0 img0 ids)).2 = true) ∧
    (∃ z, (sImg 0x80000).llcPass ((sImg 0x80000).imagePas 0 0x80000) false = z ∧
     ((z.die 0).up = true ∧ (z.die 0).places = true ∧ z.servedFirst 0 = false) ∧
     z.readImage 0 0x80000 = some img2 ∧
     ∃ s1 ids, z.placeAll z.nextLaunch img2 0 img2.regs places2 = some (s1, ids) ∧ s1.membersFit ids img2.grps = false) ∧
    (∃ z, (sImg 0x40004).llcPass ((sImg 0x40004).imagePas 0 0x40004) false = z ∧
     ((sImg 0x40004).port 0).st = 1 ∧ (z.die 0).up = true ∧ (z.die 0).places = true ∧ z.servedFirst 0 = false ∧
     z.readImage 0 0x40004 = none) := by
  have hp : ((sImg 0x40000 llcA).placeAll 0 img0 0 img0.regs [⟨0, 0, 3⟩]).any
      (fun p => p.1.membersFit p.2 img0.grps && (State.initAll p.2 img0.data (p.1.writeLaunch 0 0 img0 p.2)).2) = true := by
    decide +kernel
  obtain ⟨⟨s1, ids⟩, h, h1⟩ := (Option.any_eq_true _ _).mp hp
  have h1 := Bool.and_eq_true_iff.mp h1
  have hq : ((sImg 0x80000 llcB).placeAll 0
      img2 0 img2.regs places2).any (fun p => p.1.membersFit p.2 img2.grps == false) = true := by decide +kernel
  obtain ⟨⟨t1, is⟩, g, g1⟩ := (Option.any_eq_true _ _).mp hq
  exact ⟨by decide +kernel, by decide +kernel,
    ⟨sImg 0x40000 llcA, sImg_seen 0x40000 (by omega) (secs := imgSecs) (by decide +kernel) (by decide)
      (by decide +kernel),
      by decide +kernel, sImg_image, by decide +kernel, s1, ids, h, h1.1, h1.2⟩,
    ⟨sImg 0x80000 llcB, sImg_seen 0x80000 (by omega) (secs := imgSecs2) (by decide +kernel) (by decide)
      (by decide +kernel),
      by decide +kernel, sImg_twice, t1, is, g, eq_of_beq g1⟩,
    ⟨sImg 0x40004 llcA, sImg_seen 0x40004 (by omega) (secs := []) (by decide +kernel) (by decide) (by decide +kernel),
      by decide +kernel⟩⟩

/-! ### A memory unit's requests -/

/-- A layout-table entry: INT8 elements in one dimension, in a space. -/
def ltOf (sp : Nat) : List Word64 :=
  [0, BitVec.ofNat 64 ((3 <<< 28) + (3 <<< 24) + (1 <<< 8) + sp), BitVec.ofNat 64 ((4096 <<< 32) + 1), 0, 0, 0, 0, 0]
/-- Memory unit 0 of tile 0 with request tokens and entry 7 of its layout table. -/
def sMem (buf : List Token) (lt : List Word64) : State :=
  { ctxs := [(0, { region with layout := [(7, lt)] })], cur := .mu 0 false
    tiles := [(0, { mu0 := { cfg := BitVec.ofNat _ (1 + (7 <<< 88) + (4 <<< 76) + (1 <<< 84)), buf := buf, next := 5 } })] }
def memM : MemMods := { ty := .int8, rnd := .rne, imm := 0 }
def poisoned : Token := { tok 3 with poison := true }
/-- What is common to the four cases: the unit's turn with instruction number `f`. -/
def muTurn (s : State) (f : MuFn) : Bool :=
  let x := s.mu 0 false
  (s.cur == .mu 0 false) && s.active 0 && (s.owner 0 == some 0) && (x.stopAt == none) && (s.muTap 0 false == none) &&
  (x.skip == 0) && decide (x.heldTo ≤ x.next) && (x.reqs.all fun r => decide (r.num < x.next)) && (decide (0 < x.need f 0)) && !(x.byAg f)
/-- The request that the four cases hand in. -/
def muReq (s : State) (f : MuFn) (n : Nat) : MuReq :=
  let x := s.mu 0 false
  let y := x.unit f (x.buf.take (x.need f 0)) x.tuples.head?
  { fn := n, ty := .int8, rnd := .rne, imm := 0, cmpl := x.cmpl, lt := (s.ctx 0).lt x.ltNo, count := x.elements f .int8
    coords := match y.coord with | some t => (List.range 16).map fun k => elemAt t.payload 32 k | none => []
    data := y.data, elems := [], st := .fresh, num := x.next, hold := replOf f 0 == 2, covers := (s.trigger 0 false).2
    step := (s.ctx 0).stepNo, came := if f.orders = true then some (s.trigger 0 false).1 else none
    routes := if ltSpace ((s.ctx 0).lt x.ltNo) = 4 then s.routesOf 0 else [] }

/-- A whole request unit stands there, there is room, and a token of it is or is not poisoned. -/
def muWhole (s : State) (f : MuFn) (bad : Bool) : Bool :=
  let x := s.mu 0 false
  let toks := x.buf.take (x.need f 0)
  (toks.length == x.need f 0) && toks.all (fun t => !t.isMark && !t.mismatch) && x.room (replOf f 0 == 2) &&
  if bad then ((x.unit f toks x.tuples.head?).strict.any (·.poison)) else toks.all (fun t => !t.poison)

theorem witness_memoryUnitsAccept :
    (let s := sMem [eos, tok 3] (ltOf 0)
     muTurn s .ld = true ∧ ∀ h ∈ ((s.mu 0 false).buf.take ((s.mu 0 false).need .ld 0)).head?, h.kind = .eos ∧ h.mismatch = false) ∧
    (let s := sMem [tok 3, tok 4] (ltOf 3)
     muTurn s .ld = true ∧ muWhole s .ld false = true ∧ s.resolve 0 false 0 (muReq s .ld 0) ≠ .bad) ∧
    (let s := sMem [poisoned, tok 4] (ltOf 0)
     muTurn s .ld = true ∧ muWhole s .ld true = true) ∧
    (let s := sMem [tok 3, tok 4] (ltOf 0)
     muTurn s .qstv = true ∧ muWhole s .qstv false = true ∧ s.resolve 0 false 0 (muReq s .qstv 9) = .bad) := by
  decide +kernel

/-! ### Sequence0 -/

namespace Sequence0

def tok (n : Nat) : Token := dataToken (BitVec.ofNat 512 n) 3 0 false
def region : Ctx := { st := .running, width := 1, height := 1 }
def unit0 : Cu := { ins := Vector.replicate 6 [⟨tok 5, 1⟩], qs := Vector.replicate 4 [true] }
def sCu (c : Cu := unit0) : State := { ctxs := [(0, region)], tiles := [(0, { cu0 := c })], cur := .cu 0 false }
def hs2 := [tok 5, tok 5]
noncomputable def i1 : Instr := .add (.out 0) (.inp 0) (.inp 1)
def v1 : EView := one .add (.out 0) (.inp 0) (.inp 1) .none
def v2 : EView := (one .jmp .none .none .none .none)

theorem witness_integerResults :
    (elemView i1 = some v1 ∧
     v1.op ∈ [EOp.add, EOp.sub, EOp.adds, EOp.subs, EOp.neg, EOp.abs, EOp.min, EOp.max, EOp.minu, EOp.maxu]) ∧
    Fires sCu 0 false v1 hs2 :=
  ⟨by decide +kernel, by constructor <;> decide +kernel⟩

theorem witness_sequencerResults :
    elemView Instr.jmp = some v2 ∧
    sCu.cur = Agent.cu 0 false ∧
    sCu.cuReady 0 false = true ∧
    v2.op = EOp.jmp := by decide +kernel

end Sequence0


/-! ### Sequence -/

namespace Sequence

def tok (n : Nat) : Token := dataToken (BitVec.ofNat 512 n) 3 0 false
def eos : Token := { kind := .eos }
def region : Ctx := { st := .running, width := 1, height := 1 }
def unit0 : Cu := { ins := Vector.replicate 6 [⟨tok 5, 1⟩], qs := Vector.replicate 4 [true], sRegs := Vector.replicate 8 7, pos := 4}
def sCu (c : Cu := unit0) : State := { ctxs := [(0, region)], tiles := [(0, { cu0 := c })], cur := .cu 0 false }
def unitE : Cu := { unit0 with ins := Vector.replicate 6 [⟨eos, 1⟩] }
def m (op : EOp) (imm : Nat) (qg : Qg := .none) : Mods := { Machine.defaultMods op with imm := BitVec.ofNat 16 imm, qg := qg }
noncomputable def i1 : Instr := .br2P (m .br 73)
def v1 : EView := two .br .none .none .none .none (m .br 73)
noncomputable def i2 : Instr := .brf2P (m .br 73)
def v2 : EView := two .brf .none .none .none .none (m .br 73)
def v3 : EView := one .halt .none .none .none .none
noncomputable def i3 : Instr := .eose (.out 2)
def v4 : EView := one .eose (.out 2) .none .none .none
noncomputable def i4 : Instr := .bare (.out 2) .none
def v5 : EView := one .bare (.out 2) .none .none .none
noncomputable def i5 : Instr := .oneos (.out 2) (.inp 1)
def v6 : EView := one .oneos (.out 2) (.inp 1) .none .none
noncomputable def i6 : Instr := .waitq .none
def v7 : EView := one .waitq .none .none .none .none
noncomputable def i7 : Instr := .emitq (.inp 0)
def v8 : EView := one .emitq .none (.inp 0) .none .none
noncomputable def i8 : Instr := .loop2P (.s 2) (m .loop 9)
def v9 : EView := two .loop (.s 2) .none .none .none (m .loop 9)
def s1 : State := sCu {unit0 with sRegs := Vector.replicate 8 0}

theorem witness_sequencerResults :
    (elemView i1 = some v1 ∧
     sCu.cur = Agent.cu 0 false ∧
     sCu.cuReady 0 false = true ∧
     v1.op = EOp.br ∧
     sCu.ctlHead 0 false (Fin.ofNat 4 (natBits v1.m.imm.toNat 6 2)) = some true) ∧
    (elemView i2 = some v2 ∧
     sCu.cur = Agent.cu 0 false ∧
     sCu.cuReady 0 false = true ∧
     v2.op = EOp.brf ∧
     sCu.ctlHead 0 false (Fin.ofNat 4 (natBits v2.m.imm.toNat 6 2)) = some true) ∧
    (elemView Instr.halt = some v3 ∧
     sCu.cur = Agent.cu 0 false ∧
     sCu.cuReady 0 false = true ∧
     v3.op = EOp.halt ∧
     gate v3.m.qg (sCu.ctlHead 0 false (sCu.cu 0 false).qgport) = Gate.fire) ∧
    ((elemView i3 = some v4 ∧
      sCu.cur = Agent.cu 0 false ∧
      sCu.cuReady 0 false = true ∧
      v4.op = EOp.eose) ∧
     Fires sCu 0 false v4 []) ∧
    (elemView i4 = some v5 ∧
     sCu.cur = Agent.cu 0 false ∧
     sCu.cuReady 0 false = true ∧
     v5.op = EOp.bare) ∧
    (elemView i5 = some v6 ∧
     (sCu unitE).cur = Agent.cu 0 false ∧
     (sCu unitE).cuReady 0 false = true ∧
     v6.op = EOp.oneos ∧
     v6.a =
       Src.inp 1 ∧
     (sCu unitE).outsReady 0 false v6 = true ∧
     (if natBits v6.m.imm.toNat 6 1 = 0 then eos.kind = Kind.eos
      else eos.kind = Kind.barrier)) ∧
    (elemView i6 = some v7 ∧
     sCu.cur = Agent.cu 0 false ∧
     sCu.cuReady 0 false = true ∧
     v7.op = EOp.waitq ∧
     sCu.ctlHead 0 false (Fin.ofNat 4 (natBits v7.m.imm.toNat 6 2)) = some true) ∧
    (elemView i7 = some v8 ∧
     sCu.cur = Agent.cu 0 false ∧
     sCu.cuReady 0 false = true ∧
     v8.op = EOp.emitq ∧
     sCu.canCtl 0 false ↑(Fin.ofNat 4 (natBits v8.m.imm.toNat 6 2)) = true) ∧
    (elemView i8 = some v9 ∧
     sCu.cur = Agent.cu 0 false ∧
     sCu.cuReady 0 false = true ∧
     v9.op = EOp.loop ∧
     (v9.d = Dst.s (2 : Fin 8)) ∧
     ((sCu.cu 0
              false).sRegs[(2 : Fin 8)] ≠
        0)) ∧
    (elemView i8 = some v9 ∧
     s1.cur = Agent.cu 0 false ∧
     s1.cuReady 0 false = true ∧
     v9.op = EOp.loop ∧
     (v9.d = Dst.s (2 : Fin 8)) ∧
     ((s1.cu 0
              false).sRegs[(2 : Fin 8)] =
        0)) :=
  ⟨by decide +kernel,
    by decide +kernel,
    by decide +kernel,
    ⟨by decide +kernel, by constructor <;> decide +kernel⟩,
    by decide +kernel,
    by decide +kernel,
    by decide +kernel,
    by decide +kernel,
    by decide +kernel,
    by decide +kernel⟩

end Sequence


/-! ### Steering -/

namespace Steering

noncomputable def i1 : Instr := .oneos (.out 2) (.inp 1)
def v1 : EView := one .oneos (.out 2) (.inp 1) .none .none
noncomputable def i2 : Instr := .merge (.out 1) (.inp 0) (.inp 1)
def v2 : EView := one .merge (.out 1) (.inp 0) (.inp 1) .none
noncomputable def i3 : Instr := .merge (.s 1) (.inp 0) (.inp 1)
def v3 : EView := one .merge (.s 1) (.inp 0) (.inp 1) .none
noncomputable def i4 : Instr := .steer2P (.out 1) (.inp 0) (mm .steer 8)
def v4 : EView := two .steer (.out 1) (.inp 0) .none .none (mm .steer 8)
noncomputable def i5 : Instr := .gate (.s 1) (.inp 0)
def v5 : EView := one .gate (.s 1) (.inp 0) .none .none
noncomputable def i6 : Instr := .gate (.out 1) (.inp 0)
def v6 : EView := one .gate (.out 1) (.inp 0) .none .none
noncomputable def i7 : Instr := .rept (.out 1) (.inp 0) (mm .rept 3)
def v7 : EView := two .rept (.out 1) (.inp 0) .none .none (mm .rept 3)
noncomputable def i8 : Instr := .reptc2P (.out 1) (.inp 0) (.zero) (mm .reptc 0 .qt)
def v8 : EView := two .reptc (.out 1) (.inp 0) (.zero) .none (mm .reptc 0 .qt)

theorem witness_sequencerResults :
    elemView i1 = some v1 ∧
    sCu.cur = Agent.cu 0 false ∧
    sCu.cuReady 0 false = true ∧
    v1.op = EOp.oneos ∧
    v1.a =
      Src.inp 1 ∧
    sCu.outsReady 0 false v1 = true ∧
    (¬if natBits v1.m.imm.toNat 6 1 = 0 then ((fun (x : Entry) => x.tok) { tok := tok 5 }).kind = Kind.eos
       else ((fun (x : Entry) => x.tok) { tok := tok 5 }).kind = Kind.barrier) := by decide +kernel

theorem witness_steeringResults :
    (elemView i2 = some v2 ∧
     sCu.cur = Agent.cu 0 false ∧
     sCu.upset = 0 ∧ (sCu unitF).upset = 0 ∧ (sCu unitE).upset = 0 ∧
     sCu.cuReady 0 false = true ∧
     0 = v2.m.imm.toNat % 4 ∧
     (tok 5).poison = false ∧
     v2.op = EOp.merge ∧
     sCu.outsReady 0 false v2 = true ∧
     (tok 5).isMark = false ∧
     (Option.any
          (fun (a : Token) => Option.any (fun (b : Token) => (commonMark [a, b]).isSome) (sCu.srcHead 0 false v2.b))
          (sCu.srcHead 0 false v2.a) =
        false) ∧
     sCu.ctlHead 0 false 0 = some true ∧
     sCu.srcHead 0 false v2.a = some (tok 5)) ∧
    (elemView i3 = some v3 ∧
     (sCu unitF).cur = Agent.cu 0 false ∧
     (sCu unitF).cuReady 0 false = true ∧
     0 = v3.m.imm.toNat % 4 ∧
     (tok 5).poison = false ∧
     v3.op = EOp.merge ∧
     (sCu unitF).outsReady 0 false v3 = true ∧
     (tok 5).isMark = false ∧
     (Option.any
          (fun (a : Token) =>
            Option.any (fun (b : Token) => (commonMark [a, b]).isSome) ((sCu unitF).srcHead 0 false v3.b))
          ((sCu unitF).srcHead 0 false v3.a) =
        false) ∧
     (sCu unitF).ctlHead 0 false 0 = some false ∧
     (sCu unitF).srcHead 0 false v3.b = some (tok 5)) ∧
    (elemView i4 = some v4 ∧
     sCu.cur = Agent.cu 0 false ∧
     sCu.cuReady 0 false = true ∧
     0 = v4.m.imm.toNat % 4 ∧
     (tok 5).poison = false ∧
     v4.op = EOp.steer ∧
     sCu.canEmit 0 (List.map (outCode false) (v4.outs ++ [natBits v4.m.imm.toNat 2 2]).dedup) = true ∧
     sCu.srcHead 0 false v4.a = some (tok 5) ∧
     (tok 5).isMark = false ∧
     sCu.ctlHead 0 false 0 = some true) ∧
    (elemView i4 = some v4 ∧
     (sCu unitF).cur = Agent.cu 0 false ∧
     (sCu unitF).cuReady 0 false = true ∧
     0 = v4.m.imm.toNat % 4 ∧
     (tok 5).poison = false ∧
     v4.op = EOp.steer ∧
     (sCu unitF).canEmit 0 (List.map (outCode false) (v4.outs ++ [natBits v4.m.imm.toNat 2 2]).dedup) = true ∧
     (sCu unitF).srcHead 0 false v4.a = some (tok 5) ∧
     (tok 5).isMark = false ∧
     (sCu unitF).ctlHead 0 false 0 = some false) ∧
    (elemView i4 = some v4 ∧
     (sCu unitE).cur = Agent.cu 0 false ∧
     (sCu unitE).cuReady 0 false = true ∧
     0 = v4.m.imm.toNat % 4 ∧
     eos.poison = false ∧
     v4.op = EOp.steer ∧
     (sCu unitE).canEmit 0 (List.map (outCode false) (v4.outs ++ [natBits v4.m.imm.toNat 2 2]).dedup) = true ∧
     (sCu unitE).srcHead 0 false v4.a = some eos ∧
     eos.isMark = true) ∧
    (elemView i5 = some v5 ∧
     sCu.cur = Agent.cu 0 false ∧
     sCu.cuReady 0 false = true ∧
     0 = v5.m.imm.toNat % 4 ∧
     (tok 5).poison = false ∧
     v5.op = EOp.gate ∧
     sCu.outsReady 0 false v5 = true ∧
     sCu.srcHead 0 false v5.a = some (tok 5) ∧
     (tok 5).isMark = false ∧
     sCu.ctlHead 0 false 0 = some true) ∧
    (elemView i5 = some v5 ∧
     (sCu unitF).cur = Agent.cu 0 false ∧
     (sCu unitF).cuReady 0 false = true ∧
     0 = v5.m.imm.toNat % 4 ∧
     (tok 5).poison = false ∧
     v5.op = EOp.gate ∧
     (sCu unitF).outsReady 0 false v5 = true ∧
     (sCu unitF).srcHead 0 false v5.a = some (tok 5) ∧
     (tok 5).isMark = false ∧
     (sCu unitF).ctlHead 0 false 0 = some false) ∧
    (elemView i6 = some v6 ∧
     (sCu unitE).cur = Agent.cu 0 false ∧
     (sCu unitE).cuReady 0 false = true ∧
     0 = v6.m.imm.toNat % 4 ∧
     eos.poison = false ∧
     v6.op = EOp.gate ∧
     (sCu unitE).outsReady 0 false v6 = true ∧
     (sCu unitE).srcHead 0 false v6.a = some eos ∧
     eos.isMark = true) ∧
    (elemView i7 = some v7 ∧
     v7.op ∈ [EOp.rept, EOp.reptc] ∧
     sCu.cur = Agent.cu 0 false ∧
     sCu.cuReady 0 false = true ∧
     sCu.heads 0 false v7 = some [tok 5] ∧
     v7.mixed [tok 5] = false ∧
     (∀ t ∈ [tok 5], t.poison = false) ∧
     (tok 5 =
       match (sCu.opnds 0 false v7).a with
       | OpVal.tok t => t
       | x => resultToken (OpVal.payload 32 x) [tok 5]) ∧
     (v7.op = EOp.rept → 3 = v7.m.imm.toNat) ∧
     (v7.op = EOp.reptc → 3 = (BitVec.ofNat 32 (sCu.opnds 0 false v7).b.scalar).toInt.toNat) ∧
     ((sCu.cu 0 false).reptDone = 0 →
        v7.markOf [tok 5] = none ∧ gate v7.m.qg (sCu.ctlHead 0 false (sCu.cu 0 false).qgport) = Gate.fire) ∧
     0 < 3 ∧
     sCu.outsReady 0 false v7 = true) ∧
    (elemView i8 = some v8 ∧
     v8.op ∈ [EOp.rept, EOp.reptc] ∧
     sCu.cur = Agent.cu 0 false ∧
     sCu.cuReady 0 false = true ∧
     sCu.heads 0 false v8 = some [tok 5] ∧
     v8.mixed [tok 5] = false ∧
     (∀ t ∈ [tok 5], t.poison = false) ∧
     (tok 5 =
       match (sCu.opnds 0 false v8).a with
       | OpVal.tok t => t
       | x => resultToken (OpVal.payload 32 x) [tok 5]) ∧
     (v8.op = EOp.rept → 0 = v8.m.imm.toNat) ∧
     (v8.op = EOp.reptc → 0 = (BitVec.ofNat 32 (sCu.opnds 0 false v8).b.scalar).toInt.toNat) ∧
     ((sCu.cu 0 false).reptDone = 0 →
        v8.markOf [tok 5] = none ∧ gate v8.m.qg (sCu.ctlHead 0 false (sCu.cu 0 false).qgport) = Gate.fire)) :=
  by refine ⟨?_, ?_, ?_, ?_, ?_, ?_, ?_, ?_, ?_, ?_⟩ <;> decide +kernel

end Steering


/-! ### Joins -/

namespace Joins

def ct (n c : Nat) : Token := { tok n with coord := BitVec.ofNat 32 c }
def bar : Token := { kind := .barrier, payload := 7, residue := 7 }
def pair (a b : Token) : Cu := { unit0 with ins := #v[[⟨a, 1⟩], [⟨b, 1⟩], [], [], [], []] }
def J (op : EOp) (t : Fmt := .int32): EView := two op (.out 1) (.inp 0) (.inp 1) .none (mt op 2 t)
def JI : Instr := .isect2P (.out 1) (.inp 0) (.inp 1) (mt .isect 2 .int32)
def JU : Instr := .union2P (.out 1) (.inp 0) (.inp 1) (mt .union 2 .int32)
def s1 : State := sCu (pair bar bar)
def s2 : State := sCu {pair (ct 1 4) (ct 2 4) with lastCoord := Vector.replicate 6 (some 4)}
def s5 : State := sCu (pair (ct 1 4) (ct 2 5))

theorem witness_coordinateJoinResults :
    (elemView JI = some (J EOp.isect) ∧
     (J EOp.isect).op ∈ [EOp.isect, EOp.union] ∧
     s1.cur = Agent.cu 0 false ∧
     s1.cuReady 0 false = true ∧ s1.upset = 0 ∧ s2.upset = 0 ∧ s5.upset = 0 ∧
     (J EOp.isect).a.isInput = true ∧
     (J EOp.isect).b.isInput = true ∧
     s1.srcHead 0 false (J EOp.isect).a = some bar ∧
     s1.srcHead 0 false (J EOp.isect).b = some bar ∧
     ((bar.isMark && bar.isMark) = true → bar.kind = bar.kind) ∧
     ((bar.isMark && bar.isMark) = false → gate (J EOp.isect).m.qg (s1.ctlHead 0 false (s1.cu 0 false).qgport) = Gate.fire) ∧
     s1.canEmit 0 (List.map (outCode false) ((J EOp.isect).outs ++ [natBits (J EOp.isect).m.imm.toNat 0 2]).dedup) = true ∧
     falls s1 (J EOp.isect).a bar = false ∧
     falls s1 (J EOp.isect).b bar = false) ∧
    (elemView JU = some (J EOp.union) ∧
     (J EOp.union).op ∈ [EOp.isect, EOp.union] ∧
     s2.cur = Agent.cu 0 false ∧
     s2.cuReady 0 false = true ∧
     (J EOp.union).a.isInput = true ∧
     (J EOp.union).b.isInput = true ∧
     s2.srcHead 0 false (J EOp.union).a = some (ct 1 4) ∧
     s2.srcHead 0 false (J EOp.union).b = some (ct 2 4) ∧
     (((ct 1 4).isMark && (ct 2 4).isMark) = true → (ct 1 4).kind = (ct 2 4).kind) ∧
     (((ct 1 4).isMark && (ct 2 4).isMark) = false →
        gate (J EOp.union).m.qg (s2.ctlHead 0 false (s2.cu 0 false).qgport) = Gate.fire) ∧
     s2.canEmit 0 (List.map (outCode false) ((J EOp.union).outs ++ [natBits (J EOp.union).m.imm.toNat 0 2]).dedup) = true ∧
     ((falls s2 (J EOp.union).a (ct 1 4) = true ∨ falls s2 (J EOp.union).b (ct 2 4) = true))) ∧
    ((∀ op ∈ [EOp.isect, .union], s5.cur = Agent.cu 0 false ∧ s5.cuReady 0 false = true ∧
       s5.srcHead 0 false (J op).a = some (ct 1 4) ∧ s5.srcHead 0 false (J op).b = some (ct 2 5) ∧
       gate (J op).m.qg (s5.ctlHead 0 false (s5.cu 0 false).qgport) = Gate.fire ∧
       s5.canEmit 0 (List.map (outCode false) ((J op).outs ++ [natBits (J op).m.imm.toNat 0 2]).dedup) = true ∧
       falls s5 (J op).a (ct 1 4) = false ∧ falls s5 (J op).b (ct 2 5) = false) ∧
     elemView (.isect (.out 1) (.inp 0) (.inp 1)) = some (one .isect (.out 1) (.inp 0) (.inp 1) .none) ∧
     elemView (.union (.out 1) (.inp 0) (.inp 1)) = some (one .union (.out 1) (.inp 0) (.inp 1) .none)) :=
  by refine ⟨?_, ?_, ?_⟩ <;> decide +kernel

end Joins


/-! ### Reductions -/

namespace Reductions

def w2 (a b : Token) (s : Nat) : Cu := { unit0 with ins := #v[[⟨a, 1⟩], [⟨b, 1⟩], [], [], [], []], sRegs := Vector.ofFn fun k => BitVec.ofNat 32 (s + k.val) }
def pl (l : List Nat) : Token := let p := payloadOf 32 l; { payload := p, residue := residueOf p }
def A := pl [3,7,1,0x80000000,9,2,2,8,0,1,5,4,0x7fffffff,3,2,1]
def B := pl [5,7,1,0x80000000,9,0x80000000,2,8,0,1,5,4,0x7fffffff,3,2,1]
abbrev st := sCu (w2 A B 40)
def R (op : EOp) (imm : Nat) (b : Src) (t : Fmt := .int32) : EView := two op (.out 1) (.inp 0) b .none (mt op imm t)
noncomputable def i1 : Instr := .redadd2P (.out 1) (.inp 0) (.inp 1) (mt .redadd 0 .int32)
def v1 : EView := R .redadd 0 (.inp 1)
noncomputable def i2 : Instr := .redadd2P (.out 1) (.inp 0) .none (mt .redadd 1 .int32)
def v2 : EView := R .redadd 1 .none
noncomputable def i3 : Instr := .redmax2P (.out 1) (.inp 0) .none (mt .redmax 10 .int32)
def v3 : EView := R .redmax 10 .none
noncomputable def i4 : Instr := .scanx2P (.out 1) (.inp 0) (.inp 1) (mt .scanx 0 .int32)
def v4 : EView := R .scanx 0 (.inp 1)
noncomputable def i5 : Instr := .scanx2P (.out 1) (.inp 0) .none (mt .scanx 14 .int32)
def v5 : EView := R .scanx 14 .none
noncomputable def i6 : Instr := .argmax2P (.out 1) (.inp 0) (.inp 1) (mt .argmax 0 .int32)
def v6 : EView := R .argmax 0 (.inp 1)
noncomputable def i7 : Instr := .argmin2P (.out 1) (.inp 0) (.s 0) (mt .argmin 1 .int32)
def v7 : EView := R .argmin 1 (.s 0)
noncomputable def i8 : Instr := .argmax2P (.out 1) (.inp 0) (.c 0) (mt .argmax 10 .fp32)
def v8 : EView := R .argmax 10 (.c 0) .fp32
noncomputable def i9 : Instr := .drain2P (.s 1) (mt .drain 8 .int32)
def v9 : EView := two .drain (.s 1) .none .none .none (mt .drain 8 .int32)

theorem witness_reductionResults :
    (elemView i1 = some v1 ∧
     Fires st 0 false v1 [A, B] ∧
     (v1.op ∈ [EOp.redadd, EOp.redmax, EOp.redmin] ∧
      v1.m.imm.toNat % 4 = 0)) ∧
    (elemView i2 = some v2 ∧
     Fires st 0 false v2 [A] ∧
     (v2.op ∈ [EOp.redadd, EOp.redmax, EOp.redmin] ∧
      v2.m.imm.toNat % 4 = 1)) ∧
    (elemView i3 = some v3 ∧
     Fires st 0 false v3 [A] ∧
     (v3.op ∈ [EOp.redadd, EOp.redmax, EOp.redmin] ∧
      v3.m.imm.toNat % 4 = 2)) ∧
    (elemView i4 = some v4 ∧
     Fires st 0 false v4 [A, B] ∧
     (v4.op = EOp.scanx ∧
      v4.m.imm.toNat % 4 = 0)) ∧
    (elemView i5 = some v5 ∧
     Fires st 0 false v5 [A] ∧
     (v5.op = EOp.scanx ∧
      v5.m.imm.toNat % 4 = 2)) ∧
    (elemView i6 = some v6 ∧
     Fires st 0 false v6 [A, B] ∧
     (v6.op ∈ [EOp.argmax, EOp.argmin] ∧
      v6.m.imm.toNat % 4 = 0)) ∧
    (elemView i7 = some v7 ∧
     Fires st 0 false v7 [A] ∧
     (v7.op ∈ [EOp.argmax, EOp.argmin] ∧
      v7.m.imm.toNat % 4 = 1)) ∧
    (elemView i8 = some v8 ∧
     Fires st 0 false v8 [A] ∧
     (v8.op ∈ [EOp.argmax, EOp.argmin] ∧
      v8.m.imm.toNat % 4 = 2)) ∧
    (elemView i9 = some v9 ∧
     Fires st 0 false v9 [] ∧
     (v9.op = EOp.drain ∧
      v9.m.imm.toNat % 4 = 0)) :=
  ⟨⟨by decide +kernel, by constructor <;> decide +kernel, by decide +kernel⟩,
    ⟨by decide +kernel, by constructor <;> decide +kernel, by decide +kernel⟩,
    ⟨by decide +kernel, by constructor <;> decide +kernel, by decide +kernel⟩,
    ⟨by decide +kernel, by constructor <;> decide +kernel, by decide +kernel⟩,
    ⟨by decide +kernel, by constructor <;> decide +kernel, by decide +kernel⟩,
    ⟨by decide +kernel, by constructor <;> decide +kernel, by decide +kernel⟩,
    ⟨by decide +kernel, by constructor <;> decide +kernel, by decide +kernel⟩,
    ⟨by decide +kernel, by constructor <;> decide +kernel, by decide +kernel⟩,
    ⟨by decide +kernel, by constructor <;> decide +kernel, by decide +kernel⟩⟩

end Reductions


/-! ### SlotsAndRotation -/

namespace SlotsAndRotation

def mlit : Parcel := 0x0FDE6100
noncomputable def i1 : Instr := .mtok (.out 0) (.inp 0) (.s 1) (mm .mtok 0) mlit
def v1 : EView := three .mtok (.out 0) (.inp 0) (.s 1) .none (mm .mtok 0) mlit
noncomputable def i2 : Instr := .orel (.out 0) (.inp 0)
def v2 : EView := one .orel (.out 0) (.inp 0) .none .none
def sl : Vector Slot 16 := (Vector.replicate 16 {st := .claimed}).set 5 { st := .filling, gen := 9, written := 3} |>.set 6 {gen := 15} |>.set 7 {}
def sMx : State := { sCu with tiles := [(0, {cu0 := unit0, mx := {slots := sl}})]}
noncomputable def i3 : Instr := .osta (.out 0) (.inp 0)
def v3 : EView := one .osta (.out 0) (.inp 0) .none .none
def loopS (n : Nat) : LoopSt := { valid := 5, hold := 4, fault := 8, queue := List.replicate n (.hold 1), count := 11, running := true, states := [(0, tok 1), (2, tok 2)] }
def cfgL : Frame := BitVec.ofNat _ ((4 <<< 7) ||| (1 <<< 27) ||| (1 <<< 26) ||| (2 <<< 23) ||| (1 <<< 16))
def sRot (n : Nat) : State := { sCu with tiles := [(0, {cu0 := unit0, cu1 := {cfg := cfgL}})], ctxs := [(0, { region with loops := [(2, loopS n)]})] }
noncomputable def i4 : Instr := .rotj2P (.out 0) (.inp 0) (mm .rotj 2)
def v4 : EView := two .rotj (.out 0) (.inp 0) .none .none (mm .rotj 2)
noncomputable def i5 : Instr := .rotx2P (.inp 0) (mm .rotx 2 .qt)
def v5 : EView := two .rotx .none (.inp 0) .none .none (mm .rotx 2 .qt)
noncomputable def i6 : Instr := .roth2P (.s 0) (mm .roth 2 )
def v6 : EView := two .roth .none (.s 0) .none .none (mm .roth 2)
noncomputable def i7 : Instr := .rotr2P (.zero) (mm .rotr 2 )
def v7 : EView := two .rotr .none (.zero) .none .none (mm .rotr 2)

theorem witness_matrixTokenAndSlotResults :
    (elemView i1 = some v1 ∧
     Fires sCu 0 false v1 [tok 5] ∧
     v1.op = EOp.mtok) ∧
    (elemView i2 = some v2 ∧
     Fires sCu 0 false v2 [tok 5] ∧
     v2.op = EOp.orel) ∧
    (elemView i3 = some v3 ∧
     Fires sMx 0 false v3 [tok 5] ∧
     (v3.op = EOp.osta ∧
      (↑(5 : Fin 16) =
         if v3.a = Src.none then v3.m.imm.toNat % 16 else (sMx.opnds 0 false v3).a.scalar % 16))) :=
  ⟨⟨by decide +kernel, by constructor <;> decide +kernel, by decide +kernel⟩,
    ⟨by decide +kernel, by constructor <;> decide +kernel, by decide +kernel⟩,
    ⟨by decide +kernel, by constructor <;> decide +kernel, by decide +kernel⟩⟩

theorem witness_rotationInstructionResults :
    (elemView i4 = some v4 ∧
     Fires (sRot 1) 0 false v4 [tok 5] ∧
     ((sRot 1).owner 0 = some 0 ∧
      v4.op = EOp.rotj ∧
      ((sRot 1).loopSt 0 (v4.m.imm.toNat % 8)).queue.length + ((sRot 1).loopSt 0 (v4.m.imm.toNat % 8)).inbound.length < 4)) ∧
    (elemView i5 = some v5 ∧
     Fires (sRot 3) 0 false v5 [tok 5] ∧
     ((sRot 3).owner 0 = some 0 ∧
      v5.op = EOp.rotx ∧
      ((sRot 3).loopSt 0 (v5.m.imm.toNat % 8)).queue.length + ((sRot 3).loopSt 0 (v5.m.imm.toNat % 8)).inbound.length < 4)) ∧
    (elemView i6 = some v6 ∧
     Fires (sRot 3) 0 false v6 [] ∧
     ((sRot 3).owner 0 = some 0 ∧
      v6.op = EOp.roth ∧
      ((sRot 3).loopSt 0 (v6.m.imm.toNat % 8)).queue.length + ((sRot 3).loopSt 0 (v6.m.imm.toNat % 8)).inbound.length < 4)) ∧
    (elemView i7 = some v7 ∧
     Fires (sRot 3) 0 false v7 [] ∧
     ((sRot 3).owner 0 = some 0 ∧
      v7.op = EOp.rotr ∧
      ((sRot 3).loopSt 0 (v7.m.imm.toNat % 8)).queue.length + ((sRot 3).loopSt 0 (v7.m.imm.toNat % 8)).inbound.length < 4)) ∧
    (elemView i7 = some v7 ∧
     Fires (sRot 4) 0 false v7 [] ∧
     ((sRot 4).owner 0 = some 0 ∧
      v7.op ∈ [EOp.rotj, EOp.rotx, EOp.roth, EOp.rotr] ∧
      4 ≤ ((sRot 4).loopSt 0 (v7.m.imm.toNat % 8)).queue.length + ((sRot 4).loopSt 0 (v7.m.imm.toNat % 8)).inbound.length)) :=
  ⟨⟨by decide +kernel, by constructor <;> decide +kernel, by decide +kernel⟩,
    ⟨by decide +kernel, by constructor <;> decide +kernel, by decide +kernel⟩,
    ⟨by decide +kernel, by constructor <;> decide +kernel, by decide +kernel⟩,
    ⟨by decide +kernel, by constructor <;> decide +kernel, by decide +kernel⟩,
    ⟨by decide +kernel, by constructor <;> decide +kernel, by decide +kernel⟩⟩

end SlotsAndRotation


/-! ### MarksAndGates -/

namespace MarksAndGates

noncomputable def i1 : Instr := .drop (.inp 0)
def v1 : EView := one .drop .none (.inp 0) .none .none
noncomputable def i2 : Instr := .add2P (.s 0) (.inp 0) (.peek 1) (mm .add 0 .qt)
def v2 : EView := two .add (.s 0) (.inp 0) (.peek 1) .none (mm .add 0 .qt)
def s1 : State := sCu {unit0 with qs := Vector.replicate 4 []}
noncomputable def i3 : Instr := .oclm2P (.out 0) (mm .oclm 0 .qf)
def v3 : EView := two .oclm (.out 0) .none .none .none (mm .oclm 0 .qf)
def po (t : Token) : Token := { t with poison := true }
def unitP : Cu := { unit0 with ins := #v[[⟨po (tok 5), 1⟩], [⟨tok 4, 1⟩], [], [], [], []] }
def v4 : EView := one .add (.s 0) (.inp 0) (.inp 1) .none

theorem witness_marksPassAndGatesSkip :
    (elemView i1 = some v1 ∧
     v1.op ∉
       [EOp.halt, EOp.merge, EOp.steer, EOp.gate, EOp.rept, EOp.reptc, EOp.isect, EOp.union, EOp.oneos, EOp.br, EOp.brf,
         EOp.jmp, EOp.waitq, EOp.loop] ∧
     (sCu unitE).cur = Agent.cu 0 false ∧
     (sCu unitE).cuReady 0 false = true ∧
     (sCu unitE).heads 0 false v1 = some [eos] ∧
     v1.consumed ≠ [] ∧
     [eos].head? = some eos ∧
     ((eos.kind = Kind.eos ∧ ∀ t ∈ [eos], t.kind = Kind.eos) ∨
        eos.kind = Kind.barrier ∧ ∀ t ∈ [eos], t.kind = Kind.barrier) ∧
     (sCu unitE).outsReady 0 false v1 = true) ∧
    (elemView i2 = some v2 ∧
     v2.op ∉
       [EOp.halt, EOp.merge, EOp.steer, EOp.gate, EOp.rept, EOp.reptc, EOp.isect, EOp.union, EOp.oneos, EOp.br, EOp.brf,
         EOp.jmp, EOp.jtab, EOp.waitq, EOp.loop] ∧
     s1.cur = Agent.cu 0 false ∧
     s1.cuReady 0 false = true ∧
     s1.heads 0 false v2 = some [tok 5, tok 5] ∧
     v2.markOf [tok 5, tok 5] = none ∧
     v2.mixed [tok 5, tok 5] = false ∧
     v2.m.qg ≠ Qg.none ∧
     s1.ctlHead 0 false (s1.cu 0 false).qgport = none) ∧
    (elemView i3 = some v3 ∧
     v3.op ∉
       [EOp.halt, EOp.merge, EOp.steer, EOp.gate, EOp.rept, EOp.reptc, EOp.isect, EOp.union, EOp.oneos, EOp.br, EOp.brf,
         EOp.jmp, EOp.jtab, EOp.waitq, EOp.loop] ∧
     sCu.cur = Agent.cu 0 false ∧
     sCu.cuReady 0 false = true ∧
     sCu.heads 0 false v3 = some [] ∧
     v3.markOf [] = none ∧
     v3.mixed [] = false ∧
     (v3.m.qg = Qg.qt ∧ sCu.ctlHead 0 false (sCu.cu 0 false).qgport = some false ∨
        v3.m.qg = Qg.qf ∧ sCu.ctlHead 0 false (sCu.cu 0 false).qgport = some true)) :=
  by refine ⟨?_, ?_, ?_⟩ <;> decide +kernel

theorem witness_poisonTravelsOrFaults :
    (Instr.add (Dst.s 0) (Src.inp 0) (Src.inp 1) = Instr.add (Dst.s 0) (Src.inp 0) (Src.inp 1) ∨
       Instr.add (Dst.s 0) (Src.inp 0) (Src.inp 1) = Instr.fadd (Dst.s 0) (Src.inp 0) (Src.inp 1) ∨
         Instr.add (Dst.s 0) (Src.inp 0) (Src.inp 1) = Instr.xor (Dst.s 0) (Src.inp 0) (Src.inp 1) ∨
           Instr.add (Dst.s 0) (Src.inp 0) (Src.inp 1) = Instr.sub (Dst.s 0) (Src.inp 0) (Src.inp 1) ∨
             Instr.add (Dst.s 0) (Src.inp 0) (Src.inp 1) = Instr.mul (Dst.s 0) (Src.inp 0) (Src.inp 1)) ∧
    elemView (Instr.add (Dst.s 0) (Src.inp 0) (Src.inp 1)) = some v4 ∧
    (sCu unitP).cur = Agent.cu 0 false ∧
    (sCu unitP).cuReady 0 false = true ∧
    (sCu unitP).owner 0 = some 0 ∧
    (sCu unitP).heads 0 false v4 = some [po (tok 5), tok 4] ∧
    v4.markOf [po (tok 5), tok 4] = none ∧
    v4.mixed [po (tok 5), tok 4] = false ∧
    (sCu unitP).outsReady 0 false v4 = true ∧
    (sCu unitP).upset = 0 ∧
    (∃ t ∈ [po (tok 5), tok 4], t.poison = true) ∧
    (Dst.s 0 =
       Dst.s
         (0 : Fin 8)) := by decide +kernel

end MarksAndGates


/-! ### StateAndMovement -/

namespace StateAndMovement

def mx3 (t : Fmt) (a b c : List Nat) : Cu := let p (l) := payloadOf (fmtWidth t) l; let k (l) : Token := { payload := p l, residue := residueOf (p l), coord := 77, slot := 9 }
  { unit0 with ins := #v[[⟨k a, 1⟩], [⟨k b, 1⟩], [⟨k c, 1⟩], [], [], []], cRegs := Vector.ofFn fun k => BitVec.ofNat 32 (1234567*k.val + 99) }
def hd (s : State) (k : Fin 6) : Token := (s.head 0 false k).getD {}
def fs : List Nat := [0x3F800000, 0x40490FDB, 0, 0x80000000, 0x7F800000, 0xFF800000, 0x7FC00001, 0x7F800001, 0x42C80000, 0xC2C80000, 0x00000001, 0x7FFFFFFF, 0xBF000000, 0x3DCCCCCD, 0x00800000, 0x4B189680]
def S1 := sCu (mx3 .fp32 fs fs.reverse fs)
noncomputable def i1 : Instr := .rand2P (.s 3) (mt .rand 0x1 .bf16)
def v1 : EView := two .rand (.s 3) .none .none .none (mt .rand 0x1 .bf16)
noncomputable def i2 : Instr := .gumb2P (.out 3) (.inp 0) (.inp 1) .none (mt .gumb 0 .fp32)
def v2 : EView := two .gumb (.out 3) (.inp 0) (.inp 1) .none (mt .gumb 0 .fp32)
noncomputable def i3 : Instr := .ldi2P (.out 3) (mt .ldi 0x8001 .int32)
def v3 : EView := two .ldi (.out 3) .none .none .none (mt .ldi 0x8001 .int32)
noncomputable def i4 : Instr := .incs2P (.s 3) (.c 1) (mt .incs 0xFFFF .int8)
def v4 : EView := two .incs (.s 3) (.c 1) .none .none (mt .incs 0xFFFF .int8)
noncomputable def i5 : Instr := .incs2P (.s 3) .zero (mt .incs 0xFFFF .int8)
def v5 : EView := two .incs (.s 3) .zero .none .none (mt .incs 0xFFFF .int8)
noncomputable def i6 : Instr := .movs (.s 3) .zero
def v6 : EView := one .movs (.s 3) .zero .none .none
noncomputable def i7 : Instr := .movs (.out 3) (.s 1)
def v7 : EView := one .movs (.out 3) (.s 1) .none .none
noncomputable def i8 : Instr := .movs (.s 3) (.inp 1)
def v8 : EView := one .movs (.s 3) (.inp 1) .none .none
noncomputable def i9 : Instr := .move (.s 3) (.inp 1)
def v9 : EView := one .move (.s 3) (.inp 1) .none .none
noncomputable def i10 : Instr := .move (.out 3) (.s 1)
def v10 : EView := one .move (.out 3) (.s 1) .none .none
noncomputable def i11 : Instr := .move (.out 3) .zero
def v11 : EView := one .move (.out 3) .zero .none .none
noncomputable def i12 : Instr := .drop (.inp 1)
def v12 : EView := one .drop .none (.inp 1) .none .none
noncomputable def i13 : Instr := .tagc (.out 1) (.inp 0) (.s 2)
def v13 : EView := one .tagc (.out 1) (.inp 0) (.s 2) .none
noncomputable def i14 : Instr := .untag (.s 1) (.inp 2)
def v14 : EView := one .untag (.s 1) (.inp 2) .none .none
noncomputable def i15 : Instr := .untag2P (.s 1) (.inp 2) (mm .untag 1)
def v15 : EView := two .untag (.s 1) (.inp 2) .none .none (mm .untag 1)
noncomputable def i16 : Instr := .frsq (.out 1) (.inp 0)
def v16 : EView := one .frsq (.out 1) (.inp 0) .none .none
noncomputable def i17 : Instr := .cvt (.out 1) (.inp 0) .none .none (mt .cvt 0x11 .fp32)
def v17 : EView := two .cvt (.out 1) (.inp 0) .none .none (mt .cvt 0x11 .fp32)
noncomputable def i18 : Instr := .dqn (.out 1) (.inp 0) (.s 1) (mt .dqn 0x147 .fp32)
def v18 : EView := two .dqn (.out 1) (.inp 0) (.s 1) .none (mt .dqn 0x147 .fp32)
noncomputable def i19 : Instr := .scale2P (.out 1) (.inp 0) .none (mt .scale 0xFFF0 .fp32)
def v19 : EView := two .scale (.out 1) (.inp 0) .none .none (mt .scale 0xFFF0 .fp32)
noncomputable def i20 : Instr := .rnsb2P (.out 1) (.inp 0) (mt .rnsb 2 .int32)
def v20 : EView := two .rnsb (.out 1) (.inp 0) .none .none (mt .rnsb 2 .int32)

theorem witness_randomAndStateResults :
    (elemView i1 = some v1 ∧
     Fires S1 0 false v1 [] ∧
     v1.op = EOp.rand) ∧
    (elemView i2 = some v2 ∧
     Fires S1 0 false v2 [hd S1 0, hd S1 1] ∧
     v2.op = EOp.gumb) ∧
    (elemView i3 = some v3 ∧
     Fires S1 0 false v3 [] ∧
     v3.op = EOp.ldi) ∧
    (elemView i4 = some v4 ∧
     Fires S1 0 false v4 [] ∧
     v4.op = EOp.incs) ∧
    (elemView i5 = some v5 ∧
     Fires S1 0 false v5 [] ∧
     (v5.op = EOp.incs ∧
      (S1.opnds 0 false v5).a = OpVal.zero)) ∧
    (elemView i6 = some v6 ∧
     Fires S1 0 false v6 [] ∧
     (v6.op = EOp.movs ∧
      (S1.opnds 0 false v6).a = OpVal.zero)) ∧
    (elemView i7 = some v7 ∧
     Fires S1 0 false v7 [] ∧
     v7.op = EOp.movs) ∧
    (elemView i8 = some v8 ∧
     Fires S1 0 false v8 [hd S1 1] ∧
     v8.op = EOp.movs) :=
  ⟨⟨by decide +kernel, by constructor <;> decide +kernel, by decide +kernel⟩,
    ⟨by decide +kernel, by constructor <;> decide +kernel, by decide +kernel⟩,
    ⟨by decide +kernel, by constructor <;> decide +kernel, by decide +kernel⟩,
    ⟨by decide +kernel, by constructor <;> decide +kernel, by decide +kernel⟩,
    ⟨by decide +kernel, by constructor <;> decide +kernel, by decide +kernel⟩,
    ⟨by decide +kernel, by constructor <;> decide +kernel, by decide +kernel⟩,
    ⟨by decide +kernel, by constructor <;> decide +kernel, by decide +kernel⟩,
    ⟨by decide +kernel, by constructor <;> decide +kernel, by decide +kernel⟩⟩

theorem witness_tokenMovementResults :
    (elemView i9 = some v9 ∧
     Fires S1 0 false v9 [hd S1 1] ∧
     v9.op = EOp.move) ∧
    (elemView i10 = some v10 ∧
     Fires S1 0 false v10 [] ∧
     v10.op = EOp.move) ∧
    (elemView i11 = some v11 ∧
     Fires S1 0 false v11 [] ∧
     (v11.op = EOp.move ∧
      (S1.opnds 0 false v11).a = OpVal.zero)) ∧
    (elemView i12 = some v12 ∧
     Fires S1 0 false v12 [hd S1 1] ∧
     v12.op ∈ [EOp.drop, EOp.nop, EOp.lpad]) ∧
    (elemView i13 = some v13 ∧
     Fires S1 0 false v13 [hd S1 0] ∧
     v13.op = EOp.tagc) ∧
    (elemView i14 = some v14 ∧
     Fires S1 0 false v14 [hd S1 2] ∧
     (v14.op = EOp.untag ∧
      v14.m.imm.toNat % 2 = 0)) ∧
    (elemView i15 = some v15 ∧
     Fires S1 0 false v15 [hd S1 2] ∧
     (v15.op = EOp.untag ∧
      v15.m.imm.toNat % 2 = 1)) :=
  ⟨⟨by decide +kernel, by constructor <;> decide +kernel, by decide +kernel⟩,
    ⟨by decide +kernel, by constructor <;> decide +kernel, by decide +kernel⟩,
    ⟨by decide +kernel, by constructor <;> decide +kernel, by decide +kernel⟩,
    ⟨by decide +kernel, by constructor <;> decide +kernel, by decide +kernel⟩,
    ⟨by decide +kernel, by constructor <;> decide +kernel, by decide +kernel⟩,
    ⟨by decide +kernel, by constructor <;> decide +kernel, by decide +kernel⟩,
    ⟨by decide +kernel, by constructor <;> decide +kernel, by decide +kernel⟩⟩

theorem witness_specialAndConversionResults :
    (elemView i16 = some v16 ∧
     Fires S1 0 false v16 [hd S1 0] ∧
     v16.op ∈ [EOp.frcp, EOp.frsq, EOp.fsqrt, EOp.flog2, EOp.fexp2, EOp.ftanh, EOp.fsigm]) ∧
    (elemView i17 = some v17 ∧
     Fires S1 0 false v17 [hd S1 0] ∧
     (v17.op = EOp.cvt ∧
      fmtWidth (ifmtOf (natBits v17.m.imm.toNat 0 4)) < fmtWidth v17.m.ty)) ∧
    (elemView i18 = some v18 ∧
     Fires S1 0 false v18 [hd S1 0] ∧
     v18.op = EOp.dqn) ∧
    (elemView i19 = some v19 ∧
     Fires S1 0 false v19 [hd S1 0] ∧
     (v19.op = EOp.scale ∧
      isFloat v19.m.ty = true)) ∧
    (elemView i20 = some v20 ∧
     Fires S1 0 false v20 [hd S1 0] ∧
     (v20.op = EOp.rnsb ∧
      natBits v20.m.imm.toNat 0 2 < 3)) :=
  ⟨⟨by decide +kernel, by constructor <;> decide +kernel, by decide +kernel⟩,
    ⟨by decide +kernel, by constructor <;> decide +kernel, by decide +kernel⟩,
    ⟨by decide +kernel, by constructor <;> decide +kernel, by decide +kernel⟩,
    ⟨by decide +kernel, by constructor <;> decide +kernel, by decide +kernel⟩,
    ⟨by decide +kernel, by constructor <;> decide +kernel, by decide +kernel⟩⟩

end StateAndMovement


/-! ### MatrixMultiply -/

namespace MatrixMultiply

def t1 : MxTok := { mm1 := 1, nm1 := 2, kg := 0, koff := 0, acc := true, tile := true, dfmt := false, blk := false, int := false, aclm := 0x31, bclm := 0x42 }
def sl : Vector Slot 16 := ((Vector.replicate 16 {}).set 3 {st := .filled, gen := 1}).set 4 {st := .inUse, gen := 2}
def od : List (Nat × BitVec 8) := (List.range 40).map (fun k => (3*16384 + 2*k, (BitVec.ofNat 8 (k*7+1)))) ++ (List.range 40).map (fun k => (4*16384 + 3*k, (BitVec.ofNat 8 (k*5+1))))
def qMx (op : Nat) (t : MxTok) : List MxEntry := [.tok (Decode.mxWord op t) false, .mark eos]
def sM (op : Nat) (t : MxTok) : State := { ctxs := [(0, region)], tiles := [(0, { mx := {queue := qMx op t, slots := sl, acc := [(0, {value := 5, count := 2}), (70, {value := 0x3F800000, count := 1})] } })], cur := .mx 0, opnd := od }
def t0 : MxTok := {t1 with acc := false, aclm := 0, bclm := 0}
def t2 : MxTok := {t1 with tile := false, int := true}

theorem witness_matrixMultiplyResults :
    (MxHead (sM 0 t0) 0 0 t0) ∧
    (MxHead (sM 1 t1) 0 1 t1 ∧
     SlotHolds ((sM 1 t1).mx 0) t1.aclm ∧
     SlotHolds ((sM 1 t1).mx 0) t1.bclm ∧
     (sM 1 t1).burstHeld 0 t1 = false ∧
     MxHead (sM 1 t1) 0 2 t1 ∧
     MxHead (sM 1 t1) 0 3 t1) ∧
    (MxHead (sM 4 t2) 0 4 t2 ∧
     SlotHolds ((sM 4 t2).mx 0) t2.aclm ∧
     SlotHolds ((sM 4 t2).mx 0) t2.bclm ∧
     (sM 4 t2).burstHeld 0 t2 = false ∧
     MxHead (sM 4 t2) 0 5 t2) :=
  ⟨by constructor <;> first | decide +kernel | exact ⟨_, _, rfl⟩,
    ⟨by constructor <;> first | decide +kernel | exact ⟨_, _, rfl⟩, by unfold SlotHolds; decide +kernel, by unfold SlotHolds; decide +kernel, by decide +kernel, by constructor <;> first | decide +kernel | exact ⟨_, _, rfl⟩, by constructor <;> first | decide +kernel | exact ⟨_, _, rfl⟩⟩,
    ⟨by constructor <;> first | decide +kernel | exact ⟨_, _, rfl⟩, by unfold SlotHolds; decide +kernel, by unfold SlotHolds; decide +kernel, by decide +kernel, by constructor <;> first | decide +kernel | exact ⟨_, _, rfl⟩⟩⟩

end MatrixMultiply


/-! ### MatrixDrain -/

namespace MatrixDrain

def t1 : MxTok := { mm1 := 1, nm1 := 2, kg := 0, koff := 0, acc := true, tile := true, dfmt := false, blk := false, int := false, aclm := 0x31, bclm := 0x42 }
def sl : Vector Slot 16 := ((Vector.replicate 16 {}).set 3 {st := .filled, gen := 1}).set 4 {st := .inUse, gen := 2}
def od : List (Nat × BitVec 8) := (List.range 40).map (fun k => (3*16384 + 2*k, (BitVec.ofNat 8 (k*7+1)))) ++ (List.range 40).map (fun k => (4*16384 + 3*k, (BitVec.ofNat 8 (k*5+1))))
def qMx (op : Nat) (t : MxTok) : List MxEntry := [.tok (Decode.mxWord op t) false, .mark eos]
def accs : List (Nat × AccEntry) := [(0, {value := 5, count := 2}), (1, {value := 0x40490fdb, count := 3, r255 := 200, r256 := 13, r257 := 256, ksteps := 4}), (2, {count := 1}), (512, {value := 0x3F800000, count := 3}), (576, {value := 0x7F800000, count := 1})]
def sM (op : Nat) (t : MxTok) : State := { ctxs := [(0, region)], tiles := [(0, { mx := {queue := qMx op t, slots := sl, acc := accs } })], cur := .mx 0, opnd := od }
def t2 : MxTok := {t1 with acc := false, tile := false, int := true}
def d0 (int dfmt tile : Bool) : MxTok := { mm1 := 1, nm1 := 2, kg := 0, koff := 0, acc := false, tile, dfmt, blk := false, int, aclm := 0, bclm := 0 }
def rl : MxTok := { mm1 := 0, nm1 := 0, kg := 0, koff := 0, acc := false, tile := false, dfmt := false, blk := false, int := false, aclm := 0x31, bclm := 0 }
def bad1 := {t1 with aclm := 0x32}
def bad3 := {t1 with dfmt := true}
def sC : State := { sM 1 t1 with tiles := [(0, { mx := {queue := qMx 1 t1, slots := sl.set 3 {st := .claimed, gen := 1}, acc := accs } })] }

theorem witness_integerMatrixSumsAreExact :
    ((Fmt.int8 = Fmt.int8 ∨ Fmt.int8 = Fmt.int4) ∧
     t2.acc = false ∧
     t2.k ≤ 256 ∧
     1 < t2.m ∧
     2 < t2.n) ∧
    MxHead (sM 4 t2) 0 (if Fmt.int8 = Fmt.int8 then 4 else 5) t2 ∧
    SlotHolds ((sM 4 t2).mx 0) t2.aclm ∧
    SlotHolds ((sM 4 t2).mx 0) t2.bclm ∧
    ((sM 4 t2).burstHeld 0 t2 = false ∧
     (goesOn (exec (if Fmt.int8 = Fmt.int8 then Instr.mmaI8 t2 else Instr.mmaI4 t2) (sM 4 t2)) = true)) :=
  ⟨by decide +kernel, by constructor <;> first | decide +kernel | exact ⟨_, _, rfl⟩, by unfold SlotHolds; decide +kernel, by unfold SlotHolds; decide +kernel, by decide +kernel⟩

theorem witness_matrixDrainResults :
    ((((sM 8 (d0 false true true)).mx 0).running = [] ∧
      ((sM 8 (d0 false true true)).mx 0).out = []) ∧
     MxHead (sM 8 (d0 false true true)) 0 8 (d0 false true true)) ∧
    ((((sM 31 rl).mx 0).running = [] ∧
      ((sM 31 rl).mx 0).out = []) ∧
     MxHead (sM 31 rl) 0 31 rl ∧
     ((∀ (k : Fin 16),
         ↑k = rl.aclm.toNat / 16 →
           ((sM 31 rl).mx 0).slots[k].gen.toNat = rl.aclm.toNat % 16 ∧
             ((sM 31 rl).mx 0).slots[k].st ∈ [SlotSt.claimed, SlotSt.filled, SlotSt.inUse]))) :=
  ⟨⟨by decide +kernel, by constructor <;> first | decide +kernel | exact ⟨_, _, rfl⟩⟩,
    ⟨by decide +kernel, by constructor <;> first | decide +kernel | exact ⟨_, _, rfl⟩, by decide +kernel⟩⟩

theorem witness_matrixTokenChecks :
    ((sM 1 bad1).cur = Agent.mx 0 ∧
     (sM 1 bad1).active 0 = true ∧
     (sM 1 bad1).owner 0 = some 0 ∧
     ((sM 1 bad1).mx 0).queue = [MxEntry.tok (Decode.mxWord 1 bad1) false, MxEntry.mark eos] ∧
     wfMxFields 1 bad1 = [] ∧
     (((sM 1 bad1).mx 0).slots[Fin.ofNat 16 (bad1.aclm.toNat / 16)].gen.toNat ≠ bad1.aclm.toNat % 16 ∨
        ((sM 1 bad1).mx 0).slots[Fin.ofNat 16 (bad1.aclm.toNat / 16)].st = SlotSt.free)) ∧
    ((sM 1 bad3).cur = Agent.mx 0 ∧
     (sM 1 bad3).active 0 = true ∧
     (sM 1 bad3).owner 0 = some 0 ∧
     ((sM 1 bad3).mx 0).queue = [MxEntry.tok (Decode.mxWord 1 bad3) false, MxEntry.mark eos] ∧
     wfMxFields 1 bad3 ≠ []) ∧
    ((sC.cur = Agent.mx 0 ∧
      sC.active 0 = true ∧
      sC.owner 0 = some 0 ∧
      (sC.mx 0).queue = [MxEntry.tok (Decode.mxWord 1 t1) false, MxEntry.mark eos] ∧
      wfMxFields 1 t1 = [] ∧
      (sC.mx 0).slots[Fin.ofNat 16 (t1.aclm.toNat / 16)].gen.toNat = t1.aclm.toNat % 16 ∧
      ((sC.mx 0).slots[Fin.ofNat 16 (t1.aclm.toNat / 16)].st = SlotSt.claimed ∨
         (sC.mx 0).slots[Fin.ofNat 16 (t1.aclm.toNat / 16)].st = SlotSt.filling)) ∧
     SlotHolds (sC.mx 0) t1.bclm) :=
  ⟨by decide +kernel,
    by decide +kernel,
    ⟨by decide +kernel, by unfold SlotHolds; decide +kernel⟩⟩

end MatrixDrain


/-! ### Iteration -/

namespace Iteration

def agf : Vector Frame 5 := #v[BitVec.ofNat _ ((2 <<< 189) ||| (2 <<< 186) ||| (1 <<< 185) ||| 3 ||| (2 <<< 32)), BitVec.ofNat _ (7 ||| (9 <<< 32)), BitVec.ofNat _ (2 ||| (0xFFFFFFFF <<< 32)), BitVec.ofNat _ (1 ||| (2 <<< 16) ||| (3 <<< 80) ||| (4 <<< 96)), 0]
def swx : Sw := { data := [(0, BitVec.ofNat 32 ((0x2D <<< 26) + 1 + (5<<<20)))] }
def agS (st : List Token) (lv : List Nat) (c : Ctx := region) : State := { ctxs := [(0, c)], tiles := [(0, { ag0 := {frames := agf, start := st, levels := lv}, sw := swx, mx := {running := [5,6], out := [tok 4, tok 6], queue := [.mark eos]} })], cur := .event }
def tk (n : Nat) : Token := dataToken (BitVec.ofNat 512 n) 0 0 false
def nodes : State := { (agS [] []) with tiles := [(0, {mx := {queue := [.mark eos]}})] }
def s1 : State := agS [tk 5, tk 3] []
def cnt : Ctx := { region with stepOn := true, next := 5, limit := 9 }
def s2 : State := agS [tk 5, tk 3] [] cnt
def s3 : State := agS [tk 5, tk 3] [] {cnt with next := 9}
def s4 : State := { agS [tk 5, tk 3] [] {cnt with steals := [(3, 7)]} with cycle := 4 }
def s5 : State := { agS [tk 5, tk 3] [] {cnt with steals := [(3, 7)], next := 8} with cycle := 4 }
def s6 : State := agS [tk 5, tk 3] [] {cnt with steals := [(0, 0)], hold := .split 15 2, stepOn := false}
def s8 : State := agS [tk 5, tk 3] [] {cnt with steals := [(0, 7)], stepOn := false}
def s9 : State := { s1 with tiles := [(0, { s1.tile 0 with mu1 := {cfg := BitVec.ofNat _ (1 <<< 86)} })] }
def s7 : State := agS [tk 5, tk 3] [] {cnt with barPend := [4], hold := .bari 4 false 3}
def sOwed : State := agS [tk 5, tk 3] [] {cnt with owed := [7]}

theorem witness_nodeAndGeneratorEvents :
    ((agS [] []).active 0 = true ∧
     (agS [] []).canEmit 0 [40] = true) ∧
    ((nodes.mx 0).running = [] ∧
     (nodes.mx 0).out = [] ∧ eos.mismatch = false ∧
     (nodes.mx 0).queue = [.mark eos] ∧
     nodes.active 0 = true ∧
     nodes.canEmit 0 [40] = true) ∧
    (s9.active 0 = true ∧
     (s9.ag 0 false).start = [tk 5, tk 3] ∧
     s9.agUsers 0 false = [true] ∧
     (s9.mu 0 true).tuples = [] ∧
     (tk 5).poison = false ∧ s9.upset = 0 ∧
     (tk 5).residue = residueOf (tk 5).payload) ∧
    (s1.active 0 = true ∧ s1.upset = 0 ∧
     (s1.ag 0 false).start = [tk 5, tk 3] ∧
     s1.agReady 0 false = true ∧
     s1.agUsers 0 false = [] ∧
     ((s1.tile 0).sw.dataOf (agOut false)).isEmpty = false ∧
     (tk 5).isMark = false ∧
     (tk 5).poison = false ∧
     (tk 5).residue = residueOf (tk 5).payload) ∧
    (((agS [] []).mx 0).running = [5, 6]) :=
  by refine ⟨?_, ?_, ?_, ?_, ?_⟩ <;> decide +kernel

theorem witness_iterationEvents :
    ((s2.fed 0).Nodup ∧
     s2.fedRoom 0 = true ∧
     (s2.ctx 0).counting = true ∧
     (s2.ctx 0).reassign = false ∧
     (s2.ctx 0).steals = [] ∧
     (s2.ctx 0).barPend = [] ∧
     s2.postDue 0 = false ∧
     (s2.ctx 0).next < (s2.ctx 0).limit) ∧
    ((s3.fed 0).Nodup ∧
     s3.fedRoom 0 = true ∧
     (s3.ctx 0).counting = true ∧
     (s3.ctx 0).reassign = false ∧
     (s3.ctx 0).steals = [] ∧
     (s3.ctx 0).barPend = [] ∧
     s3.postDue 0 = false ∧
     (s3.ctx 0).limit ≤ (s3.ctx 0).next) ∧
    ((sOwed.fed 0).Nodup ∧
     sOwed.fedRoom 0 = true ∧
     (sOwed.ctx 0).owed = [7] ∧
     sOwed.covered 0 (sOwed.ctx 0).stepNo .device = true) ∧
    ((s8.fed 0).Nodup ∧
     s8.fedRoom 0 = true ∧
     (s8.ctx 0).owed = [] ∧
     (s8.ctx 0).steals = [(0, 7)] ∧
     (s8.ctx 0).stepOn = false ∧
     s8.covered 0 (s8.ctx 0).stepNo .device = true) ∧
    ((s4.fed 0).Nodup ∧
     s4.fedRoom 0 = true ∧
     (s4.ctx 0).steals = [(3, 7)] ∧
     (s4.ctx 0).owed = [] ∧
     3 ≠ s4.cycle ∧
     (s4.ctx 0).stepOn = true ∧
     (s4.ctx 0).st ∈ [CtxSt.running, CtxSt.waiting, CtxSt.draining] ∧
     s4.covered 0 (s4.ctx 0).stepNo .device = true ∧
     (s4.ctx 0).next + 2 ≤ (s4.ctx 0).limit) ∧
    ((s5.fed 0).Nodup ∧
     s5.fedRoom 0 = true ∧
     (s5.ctx 0).steals = [(3, 7)] ∧
     (s5.ctx 0).owed = [] ∧
     3 ≠ s5.cycle ∧
     (s5.ctx 0).stepOn = true ∧
     (s5.ctx 0).st ∈ [CtxSt.running, CtxSt.waiting, CtxSt.draining] ∧
     s5.covered 0 (s5.ctx 0).stepNo .device = true ∧
     (s5.ctx 0).limit < (s5.ctx 0).next + 2) ∧
    ((s6.fed 0).Nodup ∧
     s6.fedRoom 0 = true ∧
     (s6.ctx 0).steals = [(0, 0)] ∧
     (s6.ctx 0).hold = .split 15 2 ∧
     (s6.ctx 0).st.fires = true) ∧
    ((s7.fed 0).Nodup ∧
     s7.fedRoom 0 = true ∧
     (s7.ctx 0).counting = true ∧
     (s7.ctx 0).barPend = [4] ∧
     (s7.ctx 0).steals = [] ∧
     (s7.ctx 0).hold = .bari 4 false 3) :=
  by refine ⟨?_, ?_, ?_, ?_, ?_, ?_, ?_, ?_⟩ <;> decide +kernel

end Iteration


/-! ### Travel -/

namespace Travel

def en (inp dest pat route el : Nat) : Parcel := BitVec.ofNat 32 (inp <<< 26 + dest <<< 20 + pat <<< 17 + route <<< 5 + el <<< 4 + 1)
def sw0 : Sw := { data := [(0, en 0x28 0x20 0 7 0), (1, en 0x28 8 2 9 0), (2, en 0x28 0x2D 0 5 0), (3, en 0x28 9 0 9 0), (5, en 3 0x21 0 5 0)], patterns := [(2, 0o1234567)] }
def sw1 : Sw := { data := [(0, en 24 0x20 0 7 1), (1, en 25 0x20 0 7 0)], ctl := [] }
def reg2 : Ctx := { region with width := 2 }
def T1 : Token := { tok 0x1234567 with coord := 5, slot := 7 }
def sT (f : List Flight) : State := { ctxs := [(0, reg2)], tiles := [(0, {sw := sw0, cu0 := {cfg := 0}}), (1, {sw := sw1})], flights := f }
def fl : List Flight := [⟨0, 3, tok 1⟩, ⟨0, 0x28, T1⟩, ⟨0,0x28, tok 2⟩]
def sA (a : List (BufId × Token)) : State := { sT [] with arriving := a }
def TR : Token := { tok 5 with route := 7 }
def s1 : State := sA [(.cuIn 0 false 0, TR)]
def s2 : State := sA [(.cuIn 0 false 0, {TR with route := 200})]
def s3 : State := sA [(.mu 0 false, {TR with route := 5})]
def sE : State := { sT [] with elastic := [(.elastic 1 24, [tok 3, eos])], returns := [(.elastic 1 24, 1),(.cuIn 0 false 0, 2)], used := [(.elastic 1 24, 3),(.cuIn 0 false 0, 4)], ctlArriving := [⟨.cuQ 0 false 1, true⟩, ⟨.cuQ 0 false 0, true⟩] }

theorem witness_tokensTravel :
    ((sT fl).active 0 = true ∧
     (sT fl).owner 0 = some 0 ∧
     takeFlight 0 40 (sT fl).flights =
       some (T1, [{ pt := 0, code := 3, tok := tok 1 }, { pt := 0, code := 40, tok := tok 2 }]) ∧
     (T1.mismatch = false) ∧
     (32 ≤ 40 ∨ checkToken ((sT fl).driver 0 40 true) T1 = none)) ∧
    (s1.active 0 = true ∧
     s1.owner 0 = some 0 ∧
     takeArriving (BufId.cuIn 0 false 0) s1.arriving = some (TR, []) ∧
     s1.slotPort 0 false 0 = none ∧
     checkToken (s1.driver 0 (cuCode false 0) false) TR = none ∧
     (s1.cu 0 false).ins[0].length < 4 ∧
     ((s1.cu 0 false).mask 0).getLsbD 2 = false) ∧
    (s2.active 0 = true ∧
     s2.owner 0 = some 0 ∧
     takeArriving (BufId.cuIn 0 false 0) s2.arriving =
       some
         ({ TR with route := 200 },
           []) ∧
     s2.slotPort 0 false 0 = none ∧
     checkToken (s2.driver 0 (cuCode false 0) false)
         ({ TR with route := 200 }) ≠
       none) ∧
    (s3.active 0 = true ∧
     s3.owner 0 = some 0 ∧
     takeArriving (BufId.mu 0 false) s3.arriving =
       some
         ({ TR with route := 5 },
           []) ∧
     (s3.mu 0 false).buf.length < 4 ∧
     checkToken (s3.driver 0 45 false)
         ({ TR with route := 5 }) =
       none) ∧
    (sE.elasticOf (BufId.elastic 1 24) = [tok 3, eos] ∧
     sE.canEmit 1 [24] = true) ∧
    (bufCount sE.returns (BufId.elastic 1 24) = 0 + 1) ∧
    (takeCtl (BufId.cuQ 0 false 0) sE.ctlArriving = some (true, [{ buf := BufId.cuQ 0 false 1, val := true }]) ∧
     (sE.cu 0 false).qs[0].length < 4) :=
  by refine ⟨?_, ?_, ?_, ?_, ?_, ?_, ?_⟩ <;> decide +kernel

end Travel


/-! ### Branches -/

namespace Branches

def xr (f : Nat → Nat) : Vector Word64 16 := Vector.ofFn fun k => BitVec.ofNat 64 (f k.val)
def xx (c : Ctx) : Ctx := { c with xregs := xr (fun k => 3 * k), waitDone := false }
def w0 : CtlP2 := { wsem := 5, wthr := 0, wc := false, ssem := 6, sinc := 0, scope := .cluster }
def code : List Parcel := [0,0,0,0,0, 77, 12, 0x45400000+77, 3,4,5, 20, 21,22,23,24,25,26,27,28]
def sX (c : Nat) (x : Ctx := {}) : State := { ctxs := [(c, {xx x with st := .running, code := code, pc := 2, width := 1, height := 1})], cur := .ctl c }
def s1 : State := {sX 5 with ctxs := [(5, {region with pc := 2, code := [0,0,77, 4, 0x45400000+77, 0,0], xregs := xr fun k => if k = 3 then 2^64-1 else if k = 1 then 0 else 2})]}

theorem witness_literalsAndBranches :
    (Issues (sX 5) 5 w0 ∧
     BitVec.toNat (((sX 5).ctx 5).getX 4) < 2 ^ 32) ∧
    (Issues (sX 5) 5 w0 ∧
     (BitVec.toNat (((sX 5).ctx 5).getX 2) < 2 ^ 32 ∧
      BitVec.toNat (((sX 5).ctx 5).getX 0) % 2 = 0 ∧
      isSupId 5 = false ∧
      0 ≤ BitVec.toInt (((sX 5).ctx 5).getX 2) ∧
      BitVec.toInt (((sX 5).ctx 5).getX 2) < 7 ∧
      (¬parcelAt ((sX 5).ctx 5)
             (BitVec.toNat
               (parcelAt ((sX 5).ctx 5)
                 (BitVec.toNat (((sX 5).ctx 5).getX 0) + 2 * (BitVec.toInt (((sX 5).ctx 5).getX 2)).toNat + 1))) =
           BitVec.ofNat 32
             (1161822208 +
               BitVec.toNat
                   (parcelAt ((sX 5).ctx 5)
                     (BitVec.toNat (((sX 5).ctx 5).getX 0) + 2 * (BitVec.toInt (((sX 5).ctx 5).getX 2)).toNat)) %
                 1024)))) ∧
    (Issues s1 5 w0 ∧
     (BitVec.toNat ((s1.ctx 5).getX 1) < 2 ^ 32 ∧
      BitVec.toNat ((s1.ctx 5).getX 2) % 2 = 0 ∧
      0 ≤ BitVec.toInt ((s1.ctx 5).getX 1) ∧
      BitVec.toInt ((s1.ctx 5).getX 1) < 7 ∧
      parcelAt (s1.ctx 5)
          (BitVec.toNat
            (parcelAt (s1.ctx 5) (BitVec.toNat ((s1.ctx 5).getX 2) + 2 * (BitVec.toInt ((s1.ctx 5).getX 1)).toNat + 1))) =
        BitVec.ofNat 32
          (1161822208 +
            BitVec.toNat
                (parcelAt (s1.ctx 5) (BitVec.toNat ((s1.ctx 5).getX 2) + 2 * (BitVec.toInt ((s1.ctx 5).getX 1)).toNat)) %
              1024))) ∧
    (Issues s1 5 w0 ∧
     (2 ^ 32 ≤ BitVec.toNat ((s1.ctx 5).getX 3) ∧
      isSupId 5 = false ∧
      BitVec.toNat ((s1.ctx 5).getX 2) % 2 = 0 ∧
      (BitVec.toInt ((s1.ctx 5).getX 3) < 0 ∨ 7 ≤ BitVec.toInt ((s1.ctx 5).getX 3)))) :=
  ⟨⟨by constructor <;> decide +kernel, by decide +kernel⟩,
    ⟨by constructor <;> decide +kernel, by decide +kernel⟩,
    ⟨by constructor <;> decide +kernel, by decide +kernel⟩,
    ⟨by constructor <;> decide +kernel, by decide +kernel⟩⟩

end Branches


/-! ### Waits -/

namespace Waits

def ww (wthr sinc : Nat) (wc : Bool := false) : CtlP2 := { wsem := 5, wthr := BitVec.ofNat 7 wthr, wc, ssem := 6, sinc := BitVec.ofNat 4 sinc, scope := .device }
def sS (c : Nat) (x : Ctx) : State := { sX c x with clusters := [(0, { sems := [(5, 4), (6, 65533)] })] }
def s1 : State := sS 5 {ctl with waitDone := true, starts := 2}
def s2 : State := sS 5 {ctl with waitDone := true}
def held : MuReq := { fn := 0, ty := .int8, rnd := .rne, imm := 0, cmpl := true, lt := [], count := 2, coords := [5], data := [tok 4], elems := [], st := .ready, num := 9 }
def s3 : State := { sS 5 {ctl with waitDone := true, stepNo := 1} with tiles := [(0, {mu0 := {cfg := 1, items := [.req held]}})] }
def s6 : State := { s2 with clusters := [(0, { sems := [(5, 4), (6, 65533)], semOps := [(6, semPlace 4 0)] })] }
def wt (thr : Nat) (sub : Bool) : Ctx := {ctl with st := .waiting, waitFor := .sem 5 thr sub .cluster }
def s4 : State := sS 5 (wt 4 true)
def s5 : State := sS 5 (wt 5 true)

theorem witness_waitsAndSignals :
    ((sS 5 ctl).cur = Agent.ctl 5 ∧
     ((sS 5 ctl).ctx 5).runs = true ∧
     ((sS 5 ctl).ctx 5).hold = Hold.none ∧
     ((sS 5 ctl).ctx 5).ownDone = false ∧
     ((sS 5 ctl).ctx 5).waitDone = false ∧
     (ww 6 2).wthr ≠ 0 ∧
     (sS 5 ctl).condTurn 5 (.sem 5 6 false .device) = true ∧
     (sS 5 ctl).sem ((sS 5 ctl).homeCl 5) (ww 6 2).wsem.toNat < (ww 6 2).wthr.toNat) ∧
    ((sS 5 ctl).cur = Agent.ctl 5 ∧
     ((sS 5 ctl).ctx 5).runs = true ∧
     ((sS 5 ctl).ctx 5).hold = Hold.none ∧
     ((sS 5 ctl).ctx 5).ownDone = false ∧
     ((sS 5 ctl).ctx 5).waitDone = false ∧
     (ww 0 0).wthr.toNat ≤ (sS 5 ctl).sem ((sS 5 ctl).homeCl 5) (ww 0 0).wsem.toNat ∧
     (sS 5 ctl).teamOut 5 ((sS 5 ctl).homeCl 5) (ww 0 0).wsem.toNat = none ∧
     (sS 5 ctl).condTurn 5 (.sem 5 0 false .device) = true ∧
     (ww 0 0).sinc = 0) ∧
    (s1.cur = Agent.ctl 5 ∧
     (s1.ctx 5).runs = true ∧
     (s1.ctx 5).hold = Hold.none ∧
     (s1.ctx 5).ownDone = false ∧
     (s1.ctx 5).waitDone = true ∧
     0 < (s1.ctx 5).starts) ∧
    ((s2.cur = Agent.ctl 5 ∧
      (s2.ctx 5).runs = true ∧
      (s2.ctx 5).hold = Hold.none ∧
      (s2.ctx 5).ownDone = false ∧
      (s2.ctx 5).waitDone = true ∧
      (ww 4 3 true).sinc ≠ 0) ∧
     (s2.covered 5 (s2.ctx 5).stepNo (ww 4 3 true).scope = true ∧
      s2.teamOut 5 (s2.homeCl 5) (ww 4 3 true).ssem.toNat = none ∧
      s2.semTurn (s2.homeCl 5) (ww 4 3 true).ssem.toNat (semPlace 2 0) = true ∧
      (s2.ctx 5).starts = 0)) ∧
    ((s6.cur = Agent.ctl 5 ∧
      (s6.ctx 5).runs = true ∧
      (s6.ctx 5).hold = Hold.none ∧
      (s6.ctx 5).ownDone = false ∧
      (s6.ctx 5).waitDone = true ∧
      (ww 4 3 true).sinc ≠ 0) ∧
     (s6.covered 5 (s6.ctx 5).stepNo (ww 4 3 true).scope = true ∧
      s6.semTurn (s6.homeCl 5) (ww 4 3 true).ssem.toNat (semPlace 2 0) = false)) ∧
    ((s3.cur = Agent.ctl 5 ∧
      (s3.ctx 5).runs = true ∧
      (s3.ctx 5).hold = Hold.none ∧
      (s3.ctx 5).ownDone = false ∧
      (s3.ctx 5).waitDone = true ∧
      (ww 4 2 true).sinc ≠ 0) ∧
     (s3.covered 5 (s3.ctx 5).stepNo (ww 4 2 true).scope = false ∧
      (s3.ctx 5).starts = 0)) ∧
    ((s4.ctx 5).st = CtxSt.waiting ∧
     (s4.ctx 5).trapped = none ∧
     (s4.ctx 5).waitFor = WaitCond.sem 5 4 true Scope.cluster ∧
     s4.teamOut 5 (s4.homeCl 5) 5 = none ∧
     s4.condTurn 5 (.sem 5 4 true .cluster) = true ∧
     4 ≤ s4.sem (s4.homeCl 5) 5) ∧
    ((s5.ctx 5).st = CtxSt.waiting ∧
     (s5.ctx 5).trapped = none ∧
     (s5.ctx 5).waitFor = WaitCond.sem 5 5 true Scope.cluster ∧
     s5.teamOut 5 (s5.homeCl 5) 5 = none ∧
     s5.condTurn 5 (.sem 5 5 true .cluster) = true ∧
     s5.sem (s5.homeCl 5) 5 < 5) :=
  ⟨by decide +kernel,
    by decide +kernel,
    by decide +kernel,
    ⟨by decide +kernel, by decide +kernel⟩,
    ⟨by decide +kernel, by decide +kernel⟩,
    ⟨by decide +kernel, by decide +kernel⟩,
    by decide +kernel,
    by decide +kernel⟩

end Waits


/-! ### Region -/

namespace Region

def ws (sinc : Nat) : CtlP2 := { wsem := 5, wthr := 0, wc := false, ssem := 6, sinc := BitVec.ofNat 4 sinc, scope := .device }
def la : Launch := { cfg := List.replicate 200 0, regions := [5, 6] }
def sL (c : Nat) (x : Ctx) (more : List (Nat × Ctx) := []) : State := { sX c {x with launch := some 0} with ctxs := [(c, {x with launch := some 0})] ++ more, launches := [(0, la)] }
def f40 : Nat → Nat := fun k => if k = 4 then 40 else if k = 5 then 6 else 77
def x1 := ctl {quiet := true} f40
def x2 := ctl {quiet := true, stepOn := true, next := 3, limit := 90} f40
def x3 := ctl {quiet := false, next := 3, limit := 90, mark := 2^32-1} f40
def x5 := ctl {quiet := false, stepOn := true, next := 3, limit := 90, steals := [(0, 6), (2, 7)]} f40
def s5 : State := { sL 5 x5 [(6, {})] with cycle := 2 }
def y6 : Ctx := { region with stepOn := true, launch := some 0 }
def s1 : State := sL 5 x3 [(6, y6)]
def s2 : State := sL 5 x3 [(6, {y6 with stepOn := false})]
def x4 := {ctl {quiet := true, stealSent := true, stealGot := some (4, 9)} f40 with waitDone := true}
def s3 : State := sL 5 x4 [(6, {y6 with stepOn := false})]

theorem witness_regionCommands :
    (Issues (sL 5 x1) 5 (ws 0) ∧
     isRegionId 5 = true ∧
     InLaunch (sL 5 x1) 5 0 la ∧
     (BitVec.toNat (((sL 5 x1).ctx 5).getX 4) % 40 = 0 ∧
      BitVec.toNat (((sL 5 x1).ctx 5).getX 4) ≤ la.cfg.length ∧
      ((sL 5 x1).ctx 5).stepOn = false ∧
      ((sL 5 x1).ctx 5).quiet = true)) ∧
    (Issues (sL 5 x2) 5 (ws 0) ∧
     isRegionId 5 = true ∧
     InLaunch (sL 5 x2) 5 0 la ∧
     (BitVec.toNat (((sL 5 x2).ctx 5).getX 4) % 40 = 0 ∧
      BitVec.toNat (((sL 5 x2).ctx 5).getX 4) ≤ la.cfg.length ∧
      (((sL 5 x2).ctx 5).stepOn = true ∨ ((sL 5 x2).ctx 5).quiet = false))) ∧
    (Issues (sL 5 x1) 5 (ws 3) ∧
     (isRegionId 5 = true ∧
      ((sL 5 x1).ctx 5).stepOn = false)) ∧
    (Issues (sL 5 x2) 5 (ws 3) ∧
     (isRegionId 5 = true ∧
      ((sL 5 x2).ctx 5).stepOn = true)) ∧
    (Issues s5 5 (ws 3) ∧
     InLaunch s5 5 0 la ∧
     ((s5.ctx 5).stepOn = true ∧
      (∀ q ∈ (s5.ctx 5).steals, q.1 ≤ s5.cycle ∧ q.2 ≠ 5) ∧
      BitVec.toNat ((s5.ctx 5).getX 5) ∈ la.regions ∧
      (s5.ctx 5).stealSent = false ∧
      (s5.ctx (BitVec.toNat ((s5.ctx 5).getX 5))).st = CtxSt.free)) ∧
    (Issues s1 5 (ws 3) ∧
     (isRegionId 5 = true ∧
      (s1.ctx 5).stepOn = false ∧
      (∀ q ∈ (s1.ctx (BitVec.toNat ((s1.ctx 5).getX 5))).steals, q.1 < s1.cycle) ∧
      InLaunch s1 5 0 la ∧
      BitVec.toNat ((s1.ctx 5).getX 5) ∈ la.regions ∧
      isRegionId (BitVec.toNat ((s1.ctx 5).getX 5)) = true ∧
      BitVec.toNat ((s1.ctx 5).getX 5) ≠ 5 ∧
      (s1.ctx 5).launch ≠ none ∧
      (s1.ctx (BitVec.toNat ((s1.ctx 5).getX 5))).launch = (s1.ctx 5).launch ∧
      (s1.ctx 5).stealSent = false ∧
      (s1.ctx 5).stealGot = none ∧
      (s1.ctx (BitVec.toNat ((s1.ctx 5).getX 5))).stepOn = true ∧
      (s1.ctx (BitVec.toNat ((s1.ctx 5).getX 5))).st ∉ [CtxSt.faulted, CtxSt.retired, CtxSt.free])) ∧
    (Issues s2 5 (ws 3) ∧
     (isRegionId 5 = true ∧
      (s2.ctx 5).stepOn = false ∧
      isRegionId (BitVec.toNat ((s2.ctx 5).getX 5)) = true ∧
      BitVec.toNat ((s2.ctx 5).getX 5) ≠ 5 ∧
      (s2.ctx 5).launch ≠ none ∧
      (s2.ctx (BitVec.toNat ((s2.ctx 5).getX 5))).launch = (s2.ctx 5).launch ∧
      (s2.ctx 5).stealSent = false ∧
      BitVec.toNat ((s2.ctx 5).getX 5) ∈ la.regions ∧
      (s2.ctx (BitVec.toNat ((s2.ctx 5).getX 5))).stepOn = false ∧
      s2.covered (BitVec.toNat ((s2.ctx 5).getX 5)) (s2.ctx (BitVec.toNat ((s2.ctx 5).getX 5))).stepNo .device = true)) ∧
    (Issues s3 5 (ws 3) ∧
     (isRegionId 5 = true ∧
      (s3.ctx 5).stepOn = false ∧
      isRegionId (BitVec.toNat ((s3.ctx 5).getX 5)) = true ∧
      BitVec.toNat ((s3.ctx 5).getX 5) ≠ 5 ∧
      (s3.ctx 5).launch ≠ none ∧
      (s3.ctx (BitVec.toNat ((s3.ctx 5).getX 5))).launch = (s3.ctx 5).launch ∧
      (s3.ctx 5).stealSent = true ∧
      (s3.ctx 5).stealGot = some (4, 9))) ∧
    (Issues (sL 128 x1) 128 (ws 3) ∧
     (isRegionId 128 = false ∧
      isSupId 128 = false)) :=
  ⟨⟨by constructor <;> decide +kernel, by decide +kernel, by constructor <;> decide +kernel, by decide +kernel⟩,
    ⟨by constructor <;> decide +kernel, by decide +kernel, by constructor <;> decide +kernel, by decide +kernel⟩,
    ⟨by constructor <;> decide +kernel, by decide +kernel⟩,
    ⟨by constructor <;> decide +kernel, by decide +kernel⟩,
    ⟨by constructor <;> decide +kernel, by constructor <;> decide +kernel, by decide +kernel⟩,
    ⟨by constructor <;> decide +kernel, by decide +kernel, by decide +kernel, by decide +kernel, ⟨by decide +kernel, by decide +kernel⟩, by decide +kernel⟩,
    ⟨by constructor <;> decide +kernel, by decide +kernel⟩,
    ⟨by constructor <;> decide +kernel, by decide +kernel⟩,
    ⟨by constructor <;> decide +kernel, by decide +kernel⟩⟩

end Region


/-! ### EnginesAndTimelines -/

namespace EnginesAndTimelines

def ws (sinc : Nat) : CtlP2 := { wsem := 5, wthr := 0, wc := false, ssem := 6, sinc := BitVec.ofNat 4 sinc, scope := .device }
def fcode : List Parcel := [0,0,0,0, 16, 100, 20, 101, 0, 0, 0]
def sF : State := { ctxs := [(supId 0, {ctl {} (fun k => if k = 4 then 6 else if k = 5 then 16 else k) with code := fcode})], cur := .ctl (supId 0) }
def fr : ForkRec := { number := 6, progs := [(129, true, false), (130, true, true)] }
def sR (f : ForkRec) : State := { ctxs := [(supId 0, {ctl {} (fun k => if k = 4 then 6 else if k = 5 then 16 else k) with code := fcode, forks := [f]})], cur := .ctl (supId 0) }
def fr2 : ForkRec := { number := 6, progs := [(129, true, false), (130, false, true)] }
def sN : State := { ctxs := [(129, {ctl with forker := supId 0, underFork := 6}), (supId 0, {ctl with forks := [fr2, {fr2 with number := 5}]})], cur := .ctl 129 }
def sEv (n v : Nat) : State := { ctxs := [(supId 0, ctl {} (fun k => if k = 4 then n else if k = 5 then v else k))], cur := .ctl (supId 0), clusters := [(0, {xbar := {counts := [(3, 7)]}})] }
def sEe (n v : Nat) : State := { ctxs := [(5, ctl {} (fun k => if k = 4 then n else if k = 5 then v else k))], cur := .ctl 5 }
def sSt : State := { ctxs := [(7, ctl)], clusters := [(0, {xbar := {outputs := [(2, 7 <<< 18 + 1 <<< 17)], rising := [4, 2]}})] }
def sSe (v4 v5 : Nat) (m : Nat := 3) : State := { ctxs := [(5, ctl {timeline := 9, launch := some 0} (fun k => if k = 4 then v4 else if k = 5 then v5 else k)), (6, {region with timeline := 22, launch := some 0})], cur := .ctl 5, clusters := [(0, {sems := [(7, m)]})] }

theorem witness_enginePrograms :
    (Issues sF (supId 0) (ws 0) ∧
     Released sF (supId 0) (ws 0).scope ∧
     ((sF.ctx (supId 0)).getX 4 ≠ 0 ∧
      BitVec.toNat ((sF.ctx (supId 0)).getX 5) + 8 * (sF.forkTargets (supId 0) 0 ((sF.ctx (supId 0)).getX 4)).length ≤
        (sF.codeBytes (supId 0)).length ∧
      (∀ j < (sF.forkTargets (supId 0) 0 ((sF.ctx (supId 0)).getX 4)).length,
         (fun (j o : ℕ) =>
                   natOfBytes
                     (List.take 4
                       (List.drop (BitVec.toNat ((sF.ctx (supId 0)).getX 5) + 8 * j + o) (sF.codeBytes (supId 0)))))
                 j 0 %
               4 =
             0 ∧
           (fun (j o : ℕ) =>
                 natOfBytes
                   (List.take 4
                     (List.drop (BitVec.toNat ((sF.ctx (supId 0)).getX 5) + 8 * j + o) (sF.codeBytes (supId 0)))))
               j 0 <
             (sF.codeBytes (supId 0)).length) ∧
      (∀ t ∈ sF.forkTargets (supId 0) 0 ((sF.ctx (supId 0)).getX 4), (sF.ctx t).st = CtxSt.free) ∧
      (sF.forkTargets (supId 0) 0 ((sF.ctx (supId 0)).getX 4))[0]? = some 129 ∧
      ((fun (j o : ℕ) =>
             natOfBytes
               (List.take 4 (List.drop (BitVec.toNat ((sF.ctx (supId 0)).getX 5) + 8 * j + o) (sF.codeBytes (supId 0)))))
           0 0 =
         16) ∧
      ((fun (j o : ℕ) =>
             natOfBytes
               (List.take 4 (List.drop (BitVec.toNat ((sF.ctx (supId 0)).getX 5) + 8 * j + o) (sF.codeBytes (supId 0)))))
           0 4 =
         100))) ∧
    (Issues (sR fr) (supId 0) (ws 2) ∧
     ((List.find? (fun (f : ForkRec) => f.number == BitVec.toNat (((sR fr).ctx (supId 0)).getX 4))
           ((sR fr).ctx (supId 0)).forks =
         some fr) ∧
      fr.joined = false ∧
      fr.mask ≠ none)) ∧
    (Issues (sR fr2) (supId 0) (ws 2) ∧
     ((List.find? (fun (f : ForkRec) => f.number == BitVec.toNat (((sR fr2).ctx (supId 0)).getX 4))
           ((sR fr2).ctx (supId 0)).forks =
         some fr2) ∧
      fr2.joined = false ∧
      fr2.mask = none)) ∧
    (Issues sN 129 (ws 2) ∧
     (isRegionId 129 = false ∧
      isSupId 129 = false)) :=
  ⟨⟨by constructor <;> decide +kernel, by constructor <;> decide +kernel, by decide +kernel⟩,
    ⟨by constructor <;> decide +kernel, by decide +kernel⟩,
    ⟨by constructor <;> decide +kernel, by decide +kernel⟩,
    ⟨by constructor <;> decide +kernel, by decide +kernel⟩⟩

theorem witness_eventCrossbar :
    (Issues (sEv 3 0) (supId 0) (ws 0) ∧
     ((ws 0).sinc = 0 ∧
      evtOk (BitVec.toNat (((sEv 3 0).ctx (supId 0)).getX 4)) (((sEv 3 0).ctx (supId 0)).getX 5) = true ∧
      (isSupId (supId 0) || (sEv 3 0).launchOn (supId 0) ((sEv 3 0).homeCl (supId 0))) = true)) ∧
    (Issues (sEe 200 0) 5 (ws 0) ∧
     ((ws 0).sinc = 0 ∧
      isSupId 5 = false ∧
      evtOk (BitVec.toNat (((sEe 200 0).ctx 5).getX 4)) (((sEe 200 0).ctx 5).getX 5) = false)) ∧
    (2 ∈ (sSt.cl 0).xbar.rising ∧
     tget (sSt.cl 0).xbar.outputs 2 = some 1966080) :=
  ⟨⟨by constructor <;> decide +kernel, by decide +kernel⟩,
    ⟨by constructor <;> decide +kernel, by decide +kernel⟩,
    by decide +kernel⟩

theorem witness_semaphoresAndTimelines :
    (Issues (sSe 3 6) 5 (ws 0) ∧
     ((ws 0).sinc = 0 ∧
      (sSe 3 6).teamOut 5 ((sSe 3 6).homeCl 5) 7 = none ∧
      (sSe 3 6).semFirst 5 ((sSe 3 6).homeCl 5) 7 false = true ∧
      fld (((sSe 3 6).ctx 5).getX 4) 0 16 ≠ 0 ∧
      fld (((sSe 3 6).ctx 5).getX 4) 17 47 = 0 ∧
      fld (((sSe 3 6).ctx 5).getX 4) 0 16 ≤ (sSe 3 6).sem ((sSe 3 6).homeCl 5) 7 ∧
      ((sSe 3 6).cl ((sSe 3 6).homeCl 5)).semOps = [] ∧
      BitVec.toNat (((sSe 3 6).ctx 5).getX 4) < 2 ^ 16) ∧
     (sSe 3 6).covered 5 ((sSe 3 6).ctx 5).stepNo (ws 0).scope = true ∧
     ((7 = 1 ∨
         isRegionId (if 7 = 1 then 5 else BitVec.toNat (((sSe 3 6).ctx 5).getX 5) % 2 ^ 16) = true ∧
           ((sSe 3 6).ctx (if 7 = 1 then 5 else BitVec.toNat (((sSe 3 6).ctx 5).getX 5) % 2 ^ 16)).launch ≠ none ∧
             ((sSe 3 6).ctx (if 7 = 1 then 5 else BitVec.toNat (((sSe 3 6).ctx 5).getX 5) % 2 ^ 16)).launch =
               ((sSe 3 6).ctx 5).launch) ∧
      (BitVec.toNat (((sSe 3 6).ctx 5).getX 4) ≤
         ((sSe 3 6).ctx (if 7 = 1 then 5 else BitVec.toNat (((sSe 3 6).ctx 5).getX 5) % 2 ^ 16)).timeline))) ∧
    (Issues (sSe 0 6) 5 (ws 0) ∧
     ((ws 0).sinc = 0 ∧
      (sSe 0 6).teamOut 5 ((sSe 0 6).homeCl 5) 1 = none ∧
      (sSe 0 6).semFirst 5 ((sSe 0 6).homeCl 5) 1 false = true ∧
      BitVec.toNat (((sSe 0 6).ctx 5).getX 4) < 2 ^ 16) ∧
     (sSe 0 6).covered 5 ((sSe 0 6).ctx 5).stepNo (ws 0).scope = true ∧
     ((1 = 1 ∨
         isRegionId (if 1 = 1 then 5 else BitVec.toNat (((sSe 0 6).ctx 5).getX 5) % 2 ^ 16) = true ∧
           ((sSe 0 6).ctx (if 1 = 1 then 5 else BitVec.toNat (((sSe 0 6).ctx 5).getX 5) % 2 ^ 16)).launch ≠ none ∧
             ((sSe 0 6).ctx (if 1 = 1 then 5 else BitVec.toNat (((sSe 0 6).ctx 5).getX 5) % 2 ^ 16)).launch =
               ((sSe 0 6).ctx 5).launch) ∧
      (BitVec.toNat (((sSe 0 6).ctx 5).getX 4) ≤
         ((sSe 0 6).ctx (if 1 = 1 then 5 else BitVec.toNat (((sSe 0 6).ctx 5).getX 5) % 2 ^ 16)).timeline))) ∧
    (Issues (sSe 65535 6) 5 (ws 0) ∧
     ((ws 0).sinc = 0 ∧
      (sSe 65535 6).teamOut 5 ((sSe 65535 6).homeCl 5) 0 = none ∧
      (sSe 65535 6).semFirst 5 ((sSe 65535 6).homeCl 5) 0 false = true ∧
      fld (((sSe 65535 6).ctx 5).getX 4) 0 16 ≠ 0 ∧
      fld (((sSe 65535 6).ctx 5).getX 4) 17 47 = 0 ∧
      (sSe 65535 6).sem ((sSe 65535 6).homeCl 5) 0 < fld (((sSe 65535 6).ctx 5).getX 4) 0 16 ∧
      BitVec.toNat (((sSe 65535 6).ctx 5).getX 4) < 2 ^ 16) ∧
     (sSe 65535 6).covered 5 ((sSe 65535 6).ctx 5).stepNo (ws 0).scope = true ∧
     ((0 = 1 ∨
         isRegionId (if 0 = 1 then 5 else BitVec.toNat (((sSe 65535 6).ctx 5).getX 5) % 2 ^ 16) = true ∧
           ((sSe 65535 6).ctx (if 0 = 1 then 5 else BitVec.toNat (((sSe 65535 6).ctx 5).getX 5) % 2 ^ 16)).launch ≠ none ∧
             ((sSe 65535 6).ctx (if 0 = 1 then 5 else BitVec.toNat (((sSe 65535 6).ctx 5).getX 5) % 2 ^ 16)).launch =
               ((sSe 65535 6).ctx 5).launch) ∧
      (((sSe 65535 6).ctx (if 0 = 1 then 5 else BitVec.toNat (((sSe 65535 6).ctx 5).getX 5) % 2 ^ 16)).timeline <
         BitVec.toNat (((sSe 65535 6).ctx 5).getX 4)))) :=
  ⟨⟨by constructor <;> decide +kernel, by decide +kernel⟩,
    ⟨by constructor <;> decide +kernel, by decide +kernel⟩,
    ⟨by constructor <;> decide +kernel, by decide +kernel⟩⟩

end EnginesAndTimelines


/-! ### Barriers -/

namespace Barriers

def ws (sinc : Nat) : CtlP2 := { wsem := 5, wthr := 0, wc := false, ssem := 6, sinc := BitVec.ofNat 4 sinc, scope := .device }
def gw (arr exp ph : Nat) : Word64 := BitVec.ofNat 64 (arr + exp <<< 24 + ph <<< 48)
def laG (g : Group) : Launch := { regions := [5, 6], groups := [(3, g)] }
def sG (g : Group) (x : Ctx) : State := { sX 5 {x with launch := some 0} with launches := [(0, laG g)] }
def G1 : Group := { use := 1, members := [5, 6], expect := [5, 6], arrived := [], word := gw 0 2 1 }
def G2 : Group := { use := 1, members := [5, 6], expect := [5, 6], arrived := [6], word := gw 1 2 1 }
def G5 : Group := { use := 1, members := [5, 6], expect := [6], arrived := [], word := gw 0 1 1 }
def cm : Ctx := { ctl with members := (Vector.replicate 4 none).set 1 (some 3) }
def s1 : State := sG {use := 1, members := [6]} ctl
def G3 : Group := { use := 1, members := [5, 6], expect := [5, 6], arrived := [5], word := gw 1 2 1 }
def G4 : Group := { use := 0, members := [5, 6], expect := [5, 6], arrived := [5], word := gw 1 2 1 }
def lt1 (sp : Nat) : List Word64 := [0, BitVec.ofNat 64 ((3 <<< 28) + (3 <<< 24) + (1 <<< 8) + sp), BitVec.ofNat 64 ((4096 <<< 32) + 1), 0, 0, 0, 0, 0]
def lay : Tbl (List Word64) := [(0, lt1 1), (1, lt1 1), (2, lt1 7)]
def desc (fn : Nat) : Nat → Nat := fun k => if k = 4 then (1 <<< 37) + (1 <<< 8) else if k = 5 then 15 else if k = 6 then 32 else if k = 8 then 64 else 0
def sC1 : State := sX 5 {ctl {} (desc 0) with layout := lay, st := .running}
def sP (d : Bool) : State := sX 5 (ctl {} (fun k => if k = 4 then 2 else 0)) [(0*8192+128+7, {st := .free, accepted := 2, ops := if d then [] else [{num := 2, fn := 0, desc := [], issuer := 5, src := [], dst := [], idx := [], signal := ⟨0,0,.cluster,0⟩, promise := 5}]})]

theorem witness_groupBarriers :
    (Issues s1 5 (ws 3) ∧
     InLaunch s1 5 0 (laG { use := 1, members := [6] }) ∧
     (5 ∉ ((laG { use := 1, members := [6] }).group 3).members ∧
      none ∈ (s1.ctx 5).members.toList ∧
      ((laG { use := 1, members := [6] }).group 3).members.length < 4096 ∧
      (¬(5 ∈ ((laG { use := 1, members := [6] }).group 3).members ∧
           bit (BitVec.ofNat 4 ((laG { use := 1, members := [6] }).group 3).use) 0 = true)) ∧
      isSupId 5 = false)) ∧
    (Issues (sG G1 cm) 5 (ws 0) ∧
     InLaunch (sG G1 cm) 5 0 (laG G1) ∧
     ((5 ∈ ((laG G1).group 3).members ∧ bit (BitVec.ofNat 4 ((laG G1).group 3).use) 0 = true) ∧
      5 ∈ ((laG G1).group 3).expect ∧
      5 ∉ ((laG G1).group 3).arrived) ∧
     Released (sG G1 cm) 5 (ws 0).scope ∧
     ((∀ m ∈ ((laG G1).group 3).members, ((sG G1 cm).ctx m).waitFor ≠ .expected 0 3) ∧
      fld ((laG G1).group 3).word 0 24 + 1 < fld ((laG G1).group 3).word 24 24 ∧
      fld ((laG G1).group 3).word 49 15 = 0 ∧
      fld ((laG G1).group 3).word 0 24 < fld ((laG G1).group 3).word 24 24 ∧
      (ws 0).sinc = 0 ∧
      bit ((laG G1).group 3).word 48 = bit (((sG G1 cm).ctx 5).getX 5) 0)) ∧
    (Issues (sG G2 cm) 5 (ws 0) ∧
     InLaunch (sG G2 cm) 5 0 (laG G2) ∧
     Released (sG G2 cm) 5 (ws 0).scope ∧
     ((5 ∈ ((laG G2).group 3).members ∧ bit (BitVec.ofNat 4 ((laG G2).group 3).use) 0 = true) ∧
      5 ∈ ((laG G2).group 3).expect ∧
      5 ∉ ((laG G2).group 3).arrived ∧
      fld ((laG G2).group 3).word 49 15 = 0 ∧
      fld ((laG G2).group 3).word 0 24 + 1 = fld ((laG G2).group 3).word 24 24)) ∧
    (Issues (sG G5 cm) 5 (ws 0) ∧
     InLaunch (sG G5 cm) 5 0 (laG G5) ∧
     Released (sG G5 cm) 5 (ws 0).scope ∧
     ((5 ∈ ((laG G5).group 3).members ∧ bit (BitVec.ofNat 4 ((laG G5).group 3).use) 0 = true) ∧
      5 ∉ ((laG G5).group 3).expect)) ∧
    (Issues (sG G3 cm) 5 (ws 0) ∧
     InLaunch (sG G3 cm) 5 0 (laG G3) ∧
     ((5 ∈ ((laG G3).group 3).members ∧ bit (BitVec.ofNat 4 ((laG G3).group 3).use) 0 = true) ∧
      5 ∈ ((laG G3).group 3).expect ∧
      (5 ∈ ((laG G3).group 3).arrived ∨
         fld ((laG G3).group 3).word 24 24 ≤ fld ((laG G3).group 3).word 0 24)) ∧
     Released (sG G3 cm) 5 (ws 0).scope ∧
     (isSupId 5 = false ∧
      bit ((laG G3).group 3).word 48 ≠ bit (((sG G3 cm).ctx 5).getX 4) 0)) ∧
    (Issues (sG G4 cm) 5 (ws 0) ∧
     InLaunch (sG G4 cm) 5 0 (laG G4) ∧
     ((¬(5 ∈ ((laG G4).group 3).members ∧
           bit (BitVec.ofNat 4 ((laG G4).group 3).use) 0 = true)) ∧
      isSupId 5 = false)) :=
  ⟨⟨by constructor <;> decide +kernel, by constructor <;> decide +kernel, by decide +kernel⟩,
    ⟨by constructor <;> decide +kernel, by constructor <;> decide +kernel, by decide +kernel, by constructor <;> decide +kernel, by decide +kernel⟩,
    ⟨by constructor <;> decide +kernel, by constructor <;> decide +kernel, by constructor <;> decide +kernel, by decide +kernel⟩,
    ⟨by constructor <;> decide +kernel, by constructor <;> decide +kernel, by constructor <;> decide +kernel, by decide +kernel⟩,
    ⟨by constructor <;> decide +kernel, by constructor <;> decide +kernel, by decide +kernel, by constructor <;> decide +kernel, by decide +kernel⟩,
    ⟨by constructor <;> decide +kernel, by constructor <;> decide +kernel, by decide +kernel⟩⟩

theorem witness_engineCommands :
    (Issues sC1 5 (ws 3) ∧
     Released sC1 5 (ws 3).scope ∧
     (isSupId 5 = false ∧
      copyCheck (sC1.copyOp 5 4 (Instr.copyg 3 4 7 (ws 3), 1).2 (ws 3) 7) = false ∧
      copyCheck (sC1.copyOp 5 4 (Instr.copyq 3 4 7 (ws 3), 4).2 (ws 3) 7) = false)) ∧
    (Issues (sP true) 5 (ws 3) ∧
     Released (sP true) 5 (ws 3).scope ∧
     (1 ≤ BitVec.toNat (((sP true).ctx 5).getX 4) ∧
      BitVec.toNat (((sP true).ctx 5).getX 4) ≤
        ((sP true).ctx
            ((sP true).homeCl 5 / 6 * 8192 + (sP true).homeCl 5 % 6 * 1024 + 128 + 7 % 64)).accepted ∧
      (sP true).operDone ((sP true).homeCl 5 / 6 * 8192 + (sP true).homeCl 5 % 6 * 1024 + 128 + 7 % 64)
          (BitVec.toNat (((sP true).ctx 5).getX 4)) =
        true)) ∧
    (Issues (sP false) 5 (ws 3) ∧
     Released (sP false) 5 (ws 3).scope ∧
     (1 ≤ BitVec.toNat (((sP false).ctx 5).getX 4) ∧
      BitVec.toNat (((sP false).ctx 5).getX 4) ≤
        ((sP false).ctx
            ((sP false).homeCl 5 / 6 * 8192 + (sP false).homeCl 5 % 6 * 1024 + 128 + 7 % 64)).accepted ∧
      (sP false).operDone ((sP false).homeCl 5 / 6 * 8192 + (sP false).homeCl 5 % 6 * 1024 + 128 + 7 % 64)
          (BitVec.toNat (((sP false).ctx 5).getX 4)) =
        false)) :=
  ⟨⟨by constructor <;> decide +kernel, by constructor <;> decide +kernel, by decide +kernel⟩,
    ⟨by constructor <;> decide +kernel, by constructor <;> decide +kernel, by decide +kernel⟩,
    ⟨by constructor <;> decide +kernel, by constructor <;> decide +kernel, by decide +kernel⟩⟩

end Barriers


/-! ### EngineForms -/

namespace EngineForms

def ws (sinc : Nat) : CtlP2 := { wsem := 5, wthr := 0, wc := false, ssem := 6, sinc := BitVec.ofNat 4 sinc, scope := .device }
def lt1 (sp : Nat) : List Word64 := [0, BitVec.ofNat 64 ((3 <<< 28) + (3 <<< 24) + (1 <<< 8) + sp), BitVec.ofNat 64 ((4096 <<< 32) + 1), 0, 0, 0, 0, 0]
def lay : Tbl (List Word64) := [(0, lt1 1), (1, lt1 1), (2, lt1 7)]
def desc (fn : Nat) : Nat → Nat := fun k => if k = 4 then (1 <<< 37) + (1 <<< 8) else if k = 5 then 15 else if k = 6 then 32 else if k = 8 then 64 else 0
def sC1 : State := sX 5 {ctl {} (desc 0) with layout := lay, st := .running}

theorem witness_engineCommands :
    Issues sC1 5 (ws 3) ∧
    Released sC1 5 (ws 3).scope ∧
    (copyCheck (sC1.copyOp 5 4 (Instr.copy 3 4 7 (ws 3), 0).2 (ws 3) 7) = true ∧
     (sC1.ctx (sC1.homeCl 5 / 6 * 8192 + sC1.homeCl 5 % 6 * 1024 + 128 + 7 % 64)).openOps < 16) :=
  ⟨by constructor <;> decide +kernel, by constructor <;> decide +kernel, by decide +kernel⟩

end EngineForms


/-! ### Queues -/

namespace Queues

def ws (sinc : Nat) : CtlP2 := { wsem := 5, wthr := 0, wc := false, ssem := 6, sinc := BitVec.ofNat 4 sinc, scope := .device }
def lt1 (sp : Nat) : List Word64 := [0, BitVec.ofNat 64 ((3 <<< 28) + (3 <<< 24) + (1 <<< 8) + sp), BitVec.ofNat 64 ((4096 <<< 32) + 1), 0, 0, 0, 0, 0]
def lay : Tbl (List Word64) := [(0, lt1 1), (1, lt1 1), (2, lt1 7)]
def bind (r s : Nat) : Word64 := BitVec.ofNat 64 (1 <<< 63 + s <<< 16 + r)
def qx : Ctx := ctl {} (fun k => if k = 4 then 0 else if k = 5 then 64 else 9)
def sD (b : Word64) (q : DieQueue) : State := { sX 5 {qx with layout := lay} with regs := [(regKey 0 0x52 3, b)], dies := [(0, {queues := [(3, q)]})], spad := [(70, 9)] }
def bs0 : List Byte := (List.range 256).map (BitVec.ofNat 8)
def Sp (s : State) (r : Bool) := (s.queueSpots 5 ((s.ctx 5).getX 4) ((s.ctx 5).getX 5) r).getD (.int8, [])
abbrev S1 := sD (bind 5 5) {}
def q1 : DieQueue := { entries := [(bs0, List.replicate 8 false ++ [true]), (bs0.reverse, [])] }
abbrev S2 := sD (bind 5 6) q1
def cfgL : Frame := BitVec.ofNat _ ((4 <<< 7) ||| (1 <<< 27) ||| (1 <<< 26) ||| (2 <<< 23) ||| (1 <<< 16))
def loopS : LoopSt := { valid := 5, hold := 4, count := 11, running := true, states := [(0, tok 1), (2, tok 2)] }
def sRS : State := { sX 5 (ctl {layout := lay, loops := [(2, loopS)]} (fun k => if k = 4 then 0 + (64 <<< 32) else 0)) with tiles := [(0, {cu0 := {cfg := cfgL}})] }
def LS := (sRS.recordLines 5 0 64 (64 + 72 * (2 * sRS.loopSlots 5 2 + 4)) 2).getD []
def stg : Stage := { pipeline := 0, cur := 0, region := 0, fullsem := 4, emptysem := 5, cap := 9, rungs := [⟨0,1,1,1⟩, ⟨40,1,1,1⟩] , wide := true}
def sPp (x : Ctx) : State := { sX 5 {x with launch := some 0} with launches := [(0, {regions := [5, 6], stages := [stg]})] , clusters := [(0, {sems := [(4,3)]})]}
abbrev P1 := sPp (ctl {quiet := true} (fun _ => 0))

theorem witness_dieQueues :
    (Issues S1 5 (ws 3) ∧
     (S1.raceOn (S1.homeCl 5) = false ∧
      S1.queueSpots 5 ((S1.ctx 5).getX 4) ((S1.ctx 5).getX 5) true = some ((Sp S1 true).1, (Sp S1 true).2) ∧
      bit (S1.reg (3 / 16 % 8) 82 (3 % 16)) 63 = true ∧
      fld (S1.reg (3 / 16 % 8) 82 (3 % 16)) 16 16 = 5 ∧
      (S1.dieQueue (3 / 16 % 8) (3 % 16)).entries.length +
          (S1.dieQueue (3 / 16 % 8) (3 % 16)).inbound.length <
        64) ∧
     Released S1 5 (ws 3).scope) ∧
    (Issues S1 5 (ws 3) ∧
     (S1.raceOn (S1.homeCl 5) = false ∧
      bit (S1.reg (3 / 16 % 8) 82 (3 % 16)) 63 = true ∧
      (fld (S1.reg (3 / 16 % 8) 82 (3 % 16)) 0 16 = 5 ∨
         fld (S1.reg (3 / 16 % 8) 82 (3 % 16)) 16 16 = 5))) ∧
    (Issues S2 5 (ws 3) ∧
     (S2.raceOn (S2.homeCl 5) = false ∧
      S2.queueSpots 5 ((S2.ctx 5).getX 4) ((S2.ctx 5).getX 5) false = some ((Sp S2 false).1, (Sp S2 false).2) ∧
      bit (S2.reg (3 / 16 % 8) 82 (3 % 16)) 63 = true ∧
      fld (S2.reg (3 / 16 % 8) 82 (3 % 16)) 0 16 = 5 ∧
      (S2.dieQueue (3 / 16 % 8) (3 % 16)).entries =
        [(bs0, List.replicate 8 false ++ [true]), (bs0.reverse, [])] ∧
      true ∉ List.take 8 (List.replicate 8 false ++ [true]) ∧
      S2.queueReach 5 (3 / 16 % 8) = true)) :=
  ⟨⟨by constructor <;> decide +kernel, by decide +kernel, by constructor <;> decide +kernel⟩,
    ⟨by constructor <;> decide +kernel, by decide +kernel⟩,
    ⟨by constructor <;> decide +kernel, by decide +kernel⟩⟩

theorem witness_rotationAndPipelineCommands :
    (Issues sRS 5 (ws 3) ∧
     (isRegionId 5 = true ∧
      sRS.loopEntry 5 (2 % 8) ≠ none ∧
      fld ((sRS.ctx 5).getX 4) 8 24 = 0 ∧
      sRS.recordLines 5 (fld ((sRS.ctx 5).getX 4) 0 8) (fld ((sRS.ctx 5).getX 4) 32 32)
          (64 + 72 * (2 * sRS.loopSlots 5 (2 % 8) + 4)) 2 =
        some LS)) ∧
    (Issues P1 5 (ws 3) ∧
     InLaunch P1 5 0 ({ regions := [5, 6], stages := [stg] } : Launch) ∧
     (({ regions := [5, 6], stages := [stg] } : Launch).stages[BitVec.toNat ((P1.ctx 5).getX 4)]? = some stg ∧
      BitVec.toNat ((P1.ctx 5).getX 4) < 256 ∧
      1 < stg.rungs.length ∧
      stg.target = none ∧
      (({ regions := [5, 6], stages := [stg] } : Launch).stageCtx stg = 5 → (P1.ctx 5).stepOn = false ∧ (P1.ctx 5).quiet = true))) ∧
    (Issues P1 5 (ws 3) ∧
     InLaunch P1 5 0 ({ regions := [5, 6], stages := [stg] } : Launch) ∧
     (({ regions := [5, 6], stages := [stg] } : Launch).stages[fld ((P1.ctx 5).getX 4) 0 8]? = some stg ∧
      stg.cap ≠ 0)) :=
  ⟨⟨by constructor <;> decide +kernel, by decide +kernel⟩,
    ⟨by constructor <;> decide +kernel, by constructor <;> decide +kernel, by decide +kernel⟩,
    ⟨by constructor <;> decide +kernel, by constructor <;> decide +kernel, by decide +kernel⟩⟩

end Queues


/-! ### System -/

namespace System

def ws (sinc : Nat) : CtlP2 := { wsem := 5, wthr := 0, wc := false, ssem := 6, sinc := BitVec.ofNat 4 sinc, scope := .device }
def lt1 (sp : Nat) : List Word64 := [0, BitVec.ofNat 64 ((3 <<< 28) + (3 <<< 24) + (1 <<< 8) + sp), BitVec.ofNat 64 ((4096 <<< 32) + 1), 0, 0, 0, 0, 0]
def lay : Tbl (List Word64) := [(0, lt1 1), (1, lt1 1), (2, lt1 7)]
def sY (c : Nat) (f : Nat → Nat) : State := { sX c {ctl {} f with layout := lay, lts := Vector.ofFn fun k => BitVec.ofNat 64 (7+k.val)} [(6, {region with energy := 55})] with  cycle := 1000 }
def s1 : State := sY 5 (fun _ => 6)
def s2 : State := sY (supId 0) (fun _ => 6)
def s3 : State := sY 5 (fun _ => 5)
def rdu (imm : Nat) := ((sY 5 (fun _ => 5)).readUser 5 imm)

theorem witness_systemCommands :
    (Issues s1 5 (ws 0) ∧
     ((ws 0).sinc = 0 ∧
      isSupId 5 = false)) ∧
    (Issues s1 5 (ws 0) ∧
     ((ws 0).sinc = 0 ∧
      isSupId 5 = false ∧
      s1.readUser 5 64 = none ∧
      isSupReg 64 = true)) ∧
    (Issues s2 (supId 0) (ws 0) ∧
     ((ws 0).sinc = 0 ∧
      isSupId (supId 0) = true ∧
      s2.readUser (supId 0) 64 = none ∧
      isSupReg 64 = true)) ∧
    (Issues s2 (supId 0) (ws 0) ∧
     ((ws 0).sinc = 0 ∧
      isSupId (supId 0) = true ∧
      87 ∈ [64, 68, 87] ∧
      tget s2.sampled (hostKey (idDie (supId 0)) 87 0) ≠ some s2.cycle)) ∧
    (Issues s1 5 (ws 0) ∧
     ((ws 0).sinc = 0 ∧
      isRegionId 5 = true ∧
      (26 =
         24 +
           ↑(2 : Fin 8)))) ∧
    (Issues s3 5 (ws 0) ∧
     ((ws 0).sinc = 0 ∧
      (isSupId 5 = true ∨ BitVec.toNat ((s3.ctx 5).getX 4) % 65536 = 5 ∨ BitVec.toNat ((s3.ctx 5).getX 4) % 65536 = 0))) ∧
    (Issues s3 5 (ws 0) ∧
     ((ws 0).sinc = 0 ∧
      s3.readUser 5 3 = some ((rdu 3).getD 0))) :=
  ⟨⟨by constructor <;> decide +kernel, by decide +kernel⟩,
    ⟨by constructor <;> decide +kernel, by decide +kernel⟩,
    ⟨by constructor <;> decide +kernel, by decide +kernel⟩,
    ⟨by constructor <;> decide +kernel, by decide +kernel⟩,
    ⟨by constructor <;> decide +kernel, by decide +kernel⟩,
    ⟨by constructor <;> decide +kernel, by decide +kernel⟩,
    ⟨by constructor <;> decide +kernel, by decide +kernel⟩⟩

end System


/-! ### Supervisor -/

namespace Supervisor

def ws (sinc : Nat) : CtlP2 := { wsem := 5, wthr := 0, wc := false, ssem := 6, sinc := BitVec.ofNat 4 sinc, scope := .device }
abbrev sup := supId 0
def e1 : TrapEnt := { cause := 3, ctx := 5, info := 77 }
def sT1 : State := { ctxs := [(5, ctl {trapped := some 3}), (sup, ctl {hold := .susp 6})], dies := [(0, {up := true, traps := [e1, {e1 with ctx := 6}], waiting := [{e1 with ctx := 7}]})], regs := [(regKey 0 0x40 0, 100)] }
def e1c (c : Nat) : TrapEnt := {e1 with cause := c}
def sp : SeqPos := { pc := 30, st := .waiting, waitDone := true, ownDone := false, ownVal := 0, waitFor := .start, hold := .none, holdLen := 2, holdSig := ⟨0,0,.cluster,0⟩ }
def sT2 (cause : Nat) (v : Nat) (x : Ctx) : State := { ctxs := [(5, x), (sup, ctl {} (fun k => if k = 4 then 5 else v))], cur := .ctl sup, dies := [(0, {up := true, serving := some {e1 with cause := cause}, resume := some sp })] }
def s1 : State := (sT2 0 1 (ctl {trapped := some 0}))
def s2 : State := (sT2 0 2 (ctl {trapped := some 0}))
def s3 : State := (sT2 2 0 (ctl {trapped := some 2}))
def s4 : State := (sT2 2 1 (ctl {trapped := some 2}))
def s5 : State := (sT2 1 99 (ctl {trapped := some 1, hold := .sysc 9}))
/-- Context 5 stands in entry 3 of the placement table. -/
def sS (x : Ctx) (f : Nat → Nat) : State := { ctxs := [(5, x), (sup, ctl {} f)], cur := .ctl sup, dies := [(0, {up := true})], regs := [(regKey 0 0x56 3, 0x8000000000000005)] }
def f5 (v : Nat) : Nat → Nat := fun k => if k = 4 then 5 else v
def s6 : State := sS {ctl with st := .suspended, suspBy := 1} (f5 0)
def s7 : State := {sS ctl (f5 0) with cur := .ctl 5}
def im0 : Saved := { id := 5, ctx := {ctl with st := .suspended, off := true}, tiles := [{}], spad := [[]], opnd := [[]], spadPois := [[]], opndPois := [[]], flights := [], arriving := [], ctlArr := [], elastic := [], elasticC := [], used := [], returns := [], feature := 0 }
def sI : State := { sS {ctl with st := .suspended, off := true} (f5 128) with staged := [(5, im0)] }
def head0 : List Host.Cell := [(128, 0x43), (129, 0x58), (130, 0x53), (131, 0x31), (132, 1)]
def sRe : State := { (sS {} (f5 128)) with ctxs := [(sup, ctl {} (f5 128))], written := [(0, im0)], mem := memPut head0 200 (Config.imageBody 0) }
def sNo : State := { s6 with ctxs := [(5, {ctl with st := .suspended, suspBy := 1, launch := some 0}), (sup, ctl {} (f5 0))], launches := [(0, {feature := -1})] }

/-- The image at 128 of `sRe`, whatever its body holds. -/
theorem imageAt_sRe : sRe.imageAt 128 = some im0 := by
  have hw : Memory.wf head0 = true := by decide
  have h1 : memNat sRe.mem 192 8 = 0 := by
    rw [show memNat sRe.mem 192 8 = memNat head0 192 8 by
      unfold memNat; rw [show sRe.mem = memPut head0 200 (Config.imageBody 0) from rfl, memBytes_memPut_below _ _ _ _ _ hw (by decide)]]
    decide +kernel
  have h2 : sRe.savedHeader 128 = true := by
    unfold State.savedHeader memNat
    rw [show sRe.mem = memPut head0 200 (Config.imageBody 0) from rfl, memBytes_memPut_below _ _ _ _ _ hw (by decide),
      memBytes_memPut_below _ _ _ _ _ hw (by decide)]
    decide +kernel
  have h3 : memBytes sRe.mem 200 (Config.imageBody 0).length = Config.imageBody 0 := memBytes_memPut_self _ _ _ hw
  unfold State.imageAt
  simp only [h1, h2, h3, Nat.reduceAdd, and_self, if_true]
  rfl

theorem witness_trapsAreServedAndReturned :
    (0 < 8 ∧
     (sT1.die 0).traps =
       [e1,
         { e1 with ctx := 6 }] ∧
     (sT1.die 0).up = true ∧
     (sT1.die 0).serving = none ∧
     (sT1.ctx (supId 0)).st ≠ CtxSt.free) ∧
    (0 < 8 ∧
     Issues s1 (supId 0) (ws 0) ∧
     ((ws 0).sinc = 0 ∧
      (s1.die 0).serving = some (e1c 0) ∧
      (s1.die 0).resume = some sp ∧
      BitVec.toNat ((s1.ctx (supId 0)).getX 4) % 65536 = (e1c 0).ctx ∧
      (e1c 0).ctx ≠ supId 0 ∧
      (e1c 0).unit = none ∧
      (s1.ctx (e1c 0).ctx).st = CtxSt.running ∧
      (e1c 0).cause = causeUser ∧
      BitVec.toNat ((s1.ctx (supId 0)).getX 5) < 2)) ∧
    (0 < 8 ∧
     Issues s2 (supId 0) (ws 0) ∧
     ((ws 0).sinc = 0 ∧
      (s2.die 0).serving = some (e1c 0) ∧
      (s2.die 0).resume = some sp ∧
      BitVec.toNat ((s2.ctx (supId 0)).getX 4) % 65536 = (e1c 0).ctx ∧
      (e1c 0).ctx ≠ supId 0 ∧
      (e1c 0).unit = none ∧
      (s2.ctx (e1c 0).ctx).st = CtxSt.running ∧
      (e1c 0).cause ∈ [causeUser, causeUnassigned, causePriv, causeBound, causeLpad, causePromise] ∧
      (s2.ctx (supId 0)).getX 5 = 2 ∧
      isSupId (e1c 0).ctx = false)) ∧
    (0 < 8 ∧
     Issues s3 (supId 0) (ws 0) ∧
     ((ws 0).sinc = 0 ∧
      (s3.die 0).serving = some (e1c 2) ∧
      (s3.die 0).resume = some sp ∧
      BitVec.toNat ((s3.ctx (supId 0)).getX 4) % 65536 = (e1c 2).ctx ∧
      (e1c 2).ctx ≠ supId 0 ∧
      (e1c 2).unit = none ∧
      (s3.ctx (e1c 2).ctx).st = CtxSt.running ∧
      (e1c 2).cause ∈ [causeUnassigned, causePriv, causeBound, causeLpad] ∧
      (s3.ctx (e1c 2).ctx).trapAfter = false ∧
      (s3.ctx (supId 0)).getX 5 = 0)) ∧
    (0 < 8 ∧
     Issues s4 (supId 0) (ws 0) ∧
     ((ws 0).sinc = 0 ∧
      (s4.die 0).serving = some (e1c 2) ∧
      (s4.die 0).resume = some sp ∧
      BitVec.toNat ((s4.ctx (supId 0)).getX 4) % 65536 = (e1c 2).ctx ∧
      (e1c 2).ctx ≠ supId 0 ∧
      (e1c 2).unit = none ∧
      (s4.ctx (e1c 2).ctx).st = CtxSt.running ∧
      (e1c 2).cause ∈ [causeUnassigned, causePriv, causeBound, causeLpad] ∧
      (s4.ctx (e1c 2).ctx).trapAfter = false ∧
      (s4.ctx (supId 0)).getX 5 = 1)) ∧
    (0 < 8 ∧
     Issues s5 (supId 0) (ws 0) ∧
     ((ws 0).sinc = 0 ∧
      (s5.die 0).serving = some (e1c 1) ∧
      (s5.die 0).resume = some sp ∧
      BitVec.toNat ((s5.ctx (supId 0)).getX 4) % 65536 = (e1c 1).ctx ∧
      (e1c 1).ctx ≠ supId 0 ∧
      (e1c 1).unit = none ∧
      (s5.ctx (e1c 1).ctx).st = CtxSt.running ∧
      (e1c 1).cause = causeSysc ∧
      ((s5.ctx (e1c 1).ctx).hold =
         Hold.sysc
           (9 : Fin 16)) ∧
      (s5.ctx (e1c 1).ctx).holdSig.inc = 0)) :=
  ⟨by decide +kernel,
    ⟨by decide +kernel, by constructor <;> decide +kernel, by decide +kernel⟩,
    ⟨by decide +kernel, by constructor <;> decide +kernel, by decide +kernel⟩,
    ⟨by decide +kernel, by constructor <;> decide +kernel, by decide +kernel⟩,
    ⟨by decide +kernel, by constructor <;> decide +kernel, by decide +kernel⟩,
    ⟨by decide +kernel, by constructor <;> decide +kernel, by decide +kernel⟩⟩

theorem witness_supervisorCommands :
    (Issues (sS ctl (f5 0)) sup (ws 3) ∧
     (isSupId sup = true ∧
      BitVec.toNat (((sS ctl (f5 0)).ctx sup).getX 4) = 5 ∧
      isRegionId 5 = true ∧
      ((sS ctl (f5 0)).ctx 5).st.halting = true ∧
      (sS ctl (f5 0)).finds 5 = true ∧
      BitVec.toNat (((sS ctl (f5 0)).ctx sup).getX 5) % 128 = ((sS ctl (f5 0)).ctx 5).place.anchor)) ∧
    (Issues s6 sup (ws 3) ∧
     (isSupId sup = true ∧
      BitVec.toNat ((s6.ctx sup).getX 4) = 5 ∧
      isRegionId 5 = true ∧
      (s6.ctx 5).st = CtxSt.suspended ∧
      s6.finds 5 = true ∧
      s6.resumable 5 = true ∧
      (s6.ctx 5).off = false ∧
      (s6.ctx 5).haltSt ≠ CtxSt.waiting ∧
      (s6.ctx 5).pendRett = [] ∧
      (s6.ctx 5).rel = [] ∧
      BitVec.toNat ((s6.ctx sup).getX 5) % 128 = (s6.ctx 5).place.anchor)) ∧
    (Issues sNo sup (ws 3) ∧
     (isSupId sup = true ∧
      BitVec.toNat ((sNo.ctx sup).getX 4) = 5 ∧
      isRegionId 5 = true ∧
      (sNo.ctx 5).st = CtxSt.suspended ∧
      sNo.finds 5 = true ∧
      sNo.resumable 5 = false ∧
      sNo.usedBy none 0 ((sNo.ctx sup).getX 4) true = [])) ∧
    (Issues s7 5 (ws 3) ∧
     isSupId 5 = false) ∧
    (Issues sI sup (ws 3) ∧
     (isSupId sup = true ∧
      BitVec.toNat ((sI.ctx sup).getX 4) = 5 ∧
      isRegionId 5 = true ∧
      (sI.ctx 5).st = CtxSt.suspended ∧
      (sI.ctx 5).off = true ∧
      sI.finds 5 = true ∧
      sI.imageOf 5 = some im0 ∧
      BitVec.toNat ((sI.ctx sup).getX 5) % 64 = 0)) ∧
    (Issues sRe sup (ws 3) ∧
     (isSupId sup = true ∧
      BitVec.toNat ((sRe.ctx sup).getX 4) = 5 ∧
      isRegionId 5 = true ∧
      (sRe.ctx 5).st = CtxSt.free ∧
      5 ≠ 0 ∧
      BitVec.toNat ((sRe.ctx sup).getX 5) % 64 = 0 ∧
      BitVec.toNat ((sRe.ctx sup).getX 5) = 128 ∧
      sRe.crowdOk 5 (sRe.idPlace 5) = true ∧
      sRe.rectFree none (sRe.idPlace 5) im0.ctx.width im0.ctx.height = true ∧
      sRe.l1Agrees im0.feature (some 5) ((sRe.idPlace 5).die * 6 + (sRe.idPlace 5).cluster) = true) ∧
     sRe.imageAt 128 = some im0) :=
  ⟨⟨by constructor <;> decide +kernel, by decide +kernel⟩,
    ⟨by constructor <;> decide +kernel, by decide +kernel⟩,
    ⟨by constructor <;> decide +kernel, by decide +kernel⟩,
    ⟨by constructor <;> decide +kernel, by decide +kernel⟩,
    ⟨by constructor <;> decide +kernel, by decide +kernel⟩,
    ⟨by constructor <;> decide +kernel, by decide +kernel, imageAt_sRe⟩⟩

end Supervisor


/-! ### Scheduling -/

namespace Scheduling

def im (c : Nat) (x : Ctx) : Saved := { id := c, ctx := {x with st := .suspended, off := true}, tiles := [{}], spad := [[]], opnd := [[]], spadPois := [[]], opndPois := [[]], flights := [], arriving := [], ctlArr := [], elastic := [], elasticC := [], used := [], returns := [], feature := 0 }
def sS (x : Ctx) (more : List (Nat × Ctx) := []) : State := { sX 5 x more with cycle := 5000, dies := [(0, {up := true, places := true})], launches := [(0, {regions := [5,6]})] }
def s1 : State := sS {ctl with st := .ready}
def s2 : State := sS {ctl with st := .ready, hold := .drain 7}
def s3 : State := sS {ctl with st := .ready, loading := some (40, 3, false)}
def wtr : Ctx := { ctl with place := ⟨0,0,4⟩, st := .suspended, off := true, prio := 3, logicals := [0] }
def hol : Ctx := { ctl with place := ⟨0,0,4⟩, prio := 0 }
def s4 : State := sS hol [(6, wtr)]
def s5 : State := sS {hol with preempt := some 3}
def s6 : State := {sS {hol with preempt := some 3, st := .suspended} with tiles := [(0, {cu0 := unit0})]}
def s7 : State := {sS wtr with staged := [(5, im 5 wtr)], regs := [(regKey 0 0x56 3, BitVec.ofNat 64 (1 <<< 63 + 5 + 7 <<< 27)), (regKey 0 0x57 3, 4096)]}
def sR (x : Ctx) : State := { sS x with staged := [(5, im 5 x)] }
def pl : Place := ⟨0, 0, 3⟩
def mg : Ctx := { ctl with st := .migrating, migr := some 9, logicals := [0] }
def s8 : State := sS {ctl with st := .retired, steals := [(0, 7)], owed := [8]} [(7, ctl), (8, ctl)]
def laT (o : Bool) : Launch := { regions := [5, 6], groups := [(2, { use := 4, members := [5], sems := [3], cluster := 0, out := o, image := [(3, 77)] })] }
def sT (x : Ctx) (o : Bool) (more : List (Nat × Ctx) := []) : State := { sS {x with launch := some 0} more with launches := [(0, laT o)], staged := [(5, im 5 x)] }
def s9 : State := sT hol false [(6, wtr)]
def sw : Ctx := { wtr with suspBy := 2 }

theorem witness_schedulerEvents :
    (s1.inTurn 5 = true ∧
     (s1.ctx 5).loading = none ∧
     (s1.ctx 5).hold = Hold.none) ∧
    (s2.inTurn 5 = true ∧
     (s2.ctx 5).loading = none ∧
     (s2.ctx 5).hold = Hold.drain 7) ∧
    (s3.inTurn 5 = true ∧
     (s3.ctx 5).loading = some (40, 3, false)) ∧
    (s4.mayPreempt 6 5 = true ∧
     s4.inTeam 5 = false) ∧
    ((s5.ctx 5).preempt ≠ none ∧
     (s5.ctx 5).st ∈ [CtxSt.ready, CtxSt.loading, CtxSt.running, CtxSt.waiting, CtxSt.draining]) ∧
    (isRegionId 5 = true ∧
     (s6.ctx 5).st = CtxSt.suspended ∧
     (s6.ctx 5).off = false ∧
     s6.accessesDone 5 = true ∧
     s6.tiles.wf = true) ∧
    (tget s7.staged 5 = some (im 5 wtr) ∧
     s7.staged.wf = true ∧
     (s7.ctx 5).st = CtxSt.suspended ∧
     s7.savePa (s7.ctx 5).place.die 5 ≠ 0) :=
  by refine ⟨?_, ?_, ?_, ?_, ?_, ?_, ?_⟩ <;> decide +kernel

theorem witness_contextsLeaveAndReturn :
    ((sR wtr).imageOf 5 = some (im 5 wtr) ∧
     ((sR wtr).ctx 5).waitsTiles = true ∧
     ((sR wtr).ctx 5).suspBy = 0 ∧
     (sR wtr).mayStand (im 5 wtr).feature (some 5) pl ((sR wtr).ctx 5).width ((sR wtr).ctx 5).height = true ∧
     (sR wtr).crowdOk 5 pl = true ∧
     (sR wtr).firstFor 5 (rectOf pl ((sR wtr).ctx 5).width ((sR wtr).ctx 5).height) = true ∧
     ((sR wtr).ctx 5).haltSt ≠ CtxSt.waiting ∧
     ((sR wtr).ctx 5).rel = [] ∧
     ((sR wtr).ctx 5).pendRett = []) ∧
    (((sS mg).ctx 5).st = CtxSt.migrating ∧
     ((sS mg).ctx 5).migr = some 9 ∧
     (sS mg).accessesDone 5 = true ∧
     (sS mg).touched 5 = false) ∧
    (isRegionId 5 = true ∧
     (s8.ctx 5).st = CtxSt.retired ∧
     s8.accessesDone 5 = true ∧
     s8.ctxs.wf = true ∧
     (s8.ctx 5).owed ++ (s8.ctx 5).steals.map (·.2) = [8, 7]) ∧
    (tget s9.launches 0 = some (laT false) ∧
     ((laT false).group 2).team = true ∧
     (∀ k ∈ (laT false).swapUnit 2, ((laT false).group k).out = false) ∧
     (∀ m ∈ (laT false).unitRegions ((laT false).swapUnit 2), (s9.ctx m).st ≠ CtxSt.migrating) ∧
     (∃ m ∈ (laT false).unitRegions ((laT false).swapUnit 2), ∃ w ∈ s9.ctxs, s9.mayPreempt w.1 m = true)) ∧
    (tget (sT sw true).launches 0 = some (laT true) ∧
     ((laT true).group 2).team = true ∧
     ((laT true).group 2).out = true ∧
     (∀ m ∈ (laT true).unitRegions ((laT true).swapUnit 2),
        ((sT sw true).ctx m).swapped = true →
          ∃ (im : Saved),
            (sT sw true).imageOf m = some im ∧
              ((sT sw true).ctx m).waitsTiles = true ∧
                (sT sw true).mayStand im.feature (some m) ((sT sw true).ctx m).place ((sT sw true).ctx m).width
                      ((sT sw true).ctx m).height =
                    true ∧
                  (sT sw true).crowdOk m ((sT sw true).ctx m).place = true ∧
                    (sT sw true).firstFor m ((sT sw true).ctx m).rect = true)) :=
  by refine ⟨?_, ?_, ?_, ?_, ?_⟩ <;> decide +kernel

end Scheduling


/-! ### Pipelines -/

namespace Pipelines

def stg (t : Option Nat := none) (soft : Bool := false) : Stage :=
  { pipeline := 0, cur := 0, region := 0, fullsem := 4, emptysem := 5, cap := 9, rungs := [⟨0,1,1,1⟩, ⟨40,2,1,1⟩] , wide := true
    target := t, soft := soft, mark := 8, high := 4, low := 3 }
def laP (t : Option Nat := none) (soft : Bool := false) : Launch := {cfg := List.replicate 80 0, regions := [5, 6], stages := [stg t soft]}
def sPp (x : Ctx) (t : Option Nat := none) (soft : Bool := false) (n : Nat := 4) : State := { sX 5 {x with launch := some 0, place := ⟨0,0,4⟩} with launches := [(0, laP t soft)] , clusters := [(0, {sems := [(4,n)]})], cycle := 3000, dies := [(0, {up := true, places := true})]}
def P1 := sPp ctl
def s1 : State := sPp (ctl {stepOn := true, next := 4, limit := 9, mark := 2^32-1})
def s3 : State := sPp (ctl {hold := .mapsel 0}) (some 1) true
def s2 : State := sPp (ctl {reassign := true, quiet := true}) (some 1)
/-- The region's die caps the rungs of cluster 0 at 0. -/
def capped (soft : Bool) : State :=
  { sPp (ctl {reassign := true, quiet := true}) (some 1) soft with regs := [(regKey 0 0x50 0, 0)] }

theorem witness_pipelineEvents :
    (tget P1.launches 0 = some laP ∧ laP.stages[0]? = some stg ∧ P1.goal (laP.stageCtx stg) stg = some 1 ∧
      let x := P1.ctx (laP.stageCtx stg)
      1 ≤ P1.rungCap (laP.stageCtx stg) ∧ x.reassign = false ∧ x.st.fires = true ∧ x.loopsEmpty = true ∧ x.launch = some 0 ∧
        x.stepOn = false ∧ stg.soft = false) ∧
    (tget s1.launches 0 = some laP ∧ laP.stages[0]? = some stg ∧ s1.goal (laP.stageCtx stg) stg = some 1 ∧
      let x := s1.ctx (laP.stageCtx stg)
      1 ≤ s1.rungCap (laP.stageCtx stg) ∧ x.reassign = false ∧ x.st.fires = true ∧ x.loopsEmpty = true ∧ x.launch = some 0 ∧
        x.counting = true ∧ x.steals = [] ∧ s1.fedRoom (laP.stageCtx stg) = true ∧ (s1.fed (laP.stageCtx stg)).Nodup) ∧
    (let la := laP (some 1) true
     let g := stg (some 1) true
     tget s3.launches 0 = some la ∧ la.stages[0]? = some g ∧ s3.goal (la.stageCtx g) g = some 1 ∧
      let x := s3.ctx (la.stageCtx g)
      1 ≤ s3.rungCap (la.stageCtx g) ∧ x.reassign = false ∧ x.st.fires = true ∧ x.loopsEmpty = true ∧ x.launch = some 0 ∧
        x.stepOn = false ∧ g.soft = true ∧ x.steals = [] ∧ s3.fedRoom (la.stageCtx g) = true ∧ (s3.fed (la.stageCtx g)).Nodup) ∧
    (let la := laP (some 1)
     let g := stg (some 1)
     tget s2.launches 0 = some la ∧ la.stages[0]? = some g ∧ g.target = some 1 ∧ 1 ≤ s2.rungCap (la.stageCtx g) ∧
      g.rungs[1]? = some { cfgoff := 40, w := 2, h := 1, unroll := 1 } ∧
      let x := s2.ctx (la.stageCtx g)
      x.reassign = true ∧ x.st.fires = true ∧ x.quiet = true ∧ (∀ b ∈ x.barOut, b.1 ≠ g.mark) ∧ x.loopsEmpty = true ∧
        s2.rungFree (la.stageCtx g) { cfgoff := 40, w := 2, h := 1, unroll := 1 } = true) ∧
    (∀ soft, let g := stg (some 1) soft
      tget (capped soft).launches 0 = some (laP (some 1) soft) ∧ g.target = some 1 ∧ (g.rungs[1]?).isSome = true ∧
        (capped soft).rungCap 5 < 1 ∧ ((capped soft).ctx 5).reassign = true) := by
  refine ⟨?_, ?_, ?_, ?_, ?_⟩ <;> decide +kernel

end Pipelines


/-! ### Images -/

namespace Images

def leB (w n : Nat) : List Byte := (List.range n).map fun k => BitVec.ofNat 8 (w / 256 ^ k)
def recA (tx ty unit kind idx : Nat) (f : Nat) : List Byte := leB ((tx <<< 59) ||| (ty <<< 54) ||| (unit <<< 51) ||| (kind <<< 49) ||| (idx <<< 43)) 8 ++ leB f 32
def endR (c : Nat) : List Byte := List.replicate 8 0xFF ++ leB c 32
def nop : Nat := 0x00039CE7
def sL (x : Ctx) (cfg : List Byte) : State := { sX 5 {x with launch := some 0, st := .loading, place := ⟨0,0,4⟩} with launches := [(0, {cfg := cfg, regions := [5, 6]})], dies := [(0, {up := true, places := true})], tiles := [(4, {cu0 := unit0})] }
def la (cfg : List Byte) : Launch := {cfg := cfg, regions := [5,6]}
def lx (first : Bool) (k : Nat) : Ctx := ctl {loading := some (40, k, first), hold := if first then .none else .load, holdLen := 3}
def s1 : State := sL (lx true 1) (List.replicate 100 7)
def c2 := List.replicate 40 (0 : Byte) ++ recA 0 0 1 0 63 (1 <<< 88) ++ endR 0
def ra (c : List Byte) (k : Nat) := ((recordAt c 40 k).getD (0,0))
def c3 := List.replicate 40 (0 : Byte) ++ recA 1 0 0 0 0 (nop + (0xFFFFFFFF <<< 32))
def s2 : State := sL (lx true 0) c3
def s3 : State := sL (lx false 0) c2

theorem witness_imageLoads :
    (InLaunch s1 5 0 (la (List.replicate 100 7)) ∧
     (isRegionId 5 = true ∧
      (s1.ctx 5).st = CtxSt.loading ∧
      (s1.ctx 5).preempt = none ∧
      (s1.ctx 5).loading = some (40, 1, true) ∧
      recordAt (la (List.replicate 100 7)).cfg 40 1 = none)) ∧
    (InLaunch s2 5 0 (la c3) ∧
     (isRegionId 5 = true ∧
      (s2.ctx 5).st = CtxSt.loading ∧
      (s2.ctx 5).preempt = none ∧
      (s2.ctx 5).loading = some (40, 0, true) ∧
      recordAt (la c3).cfg 40 0 = some ((ra c3 0).1, (ra c3 0).2) ∧
      BitVec.toNat (ra c3 0).1 ≠ 2 ^ 64 - 1 ∧
      recordOk (s2.ctx 5) (ra c3 0).1 (ra c3 0).2 = false)) ∧
    (InLaunch s3 5 0 (la c2) ∧
     (isRegionId 5 = true ∧
      (s3.ctx 5).st = CtxSt.loading ∧
      (s3.ctx 5).preempt = none ∧
      (s3.ctx 5).loading = some (40, 0, false) ∧
      recordAt (la c2).cfg 40 0 = some ((ra c2 0).1, (ra c2 0).2) ∧
      BitVec.toNat (ra c2 0).1 ≠ 2 ^ 64 - 1 ∧
      recordOk (s3.ctx 5) (ra c2 0).1 (ra c2 0).2 = true)) :=
  ⟨⟨by constructor <;> decide +kernel, by decide +kernel⟩,
    ⟨by constructor <;> decide +kernel, by decide +kernel⟩,
    ⟨by constructor <;> decide +kernel, by decide +kernel⟩⟩

end Images


/-! ### EnginesAndCollectives -/

namespace EnginesAndCollectives

def ws (sinc : Nat) : CtlP2 := { wsem := 5, wthr := 0, wc := false, ssem := 6, sinc := BitVec.ofNat 4 sinc, scope := .device }
def lt1 (sp : Nat) : List Word64 := [0, BitVec.ofNat 64 ((3 <<< 28) + (3 <<< 24) + (1 <<< 8) + sp), BitVec.ofNat 64 ((4096 <<< 32) + 1), 0, 0, 0, 0, 0]
def lay : Tbl (List Word64) := [(0, lt1 1), (1, lt1 1), (2, lt1 7)]
def desc (k : Nat) : Word64 := if k = 0 then (1 <<< 37) + (1 <<< 8) else if k = 1 then 95 else if k = 2 then 32 else if k = 4 then 200 else 0
def op (wr : Nat) (wh : Bool) (n : Nat := 2): EngOp := {num := n, fn := 0, desc := (List.range 6).map desc, issuer := 5, src := lt1 1, dst := lt1 1, idx := [], signal := ⟨6,2,.cluster,0⟩, promise := 5, written := wr, whole := wh, raised := [5]}
def sE (l : List EngOp) : State := { sX 5 {ctl with layout := lay, st := .waiting, launch := some 0, waitFor := .oper 135 2 .cluster} [(135, {ops := l, accepted := 4, timeline := 1})] with spad := [(35, 9), (36, 200)], cycle := 9 }
def fsd (s : State) (o : EngOp) := match s.copyPlan 135 o with | .ok x => x | _ => (none, .int8, [])
def msOf (s : State) (o : EngOp) (k : Nat) := match s.moveSpots 135 o (fsd s o).1 (fsd s o).2.1 ((fsd s o).2.2.filter fun m => m.dst.sector == k) with | .ok m => m | _ => []
abbrev S (wr : Nat) := sE [op wr false, op 0 false 3]
abbrev S2 := sE [op 1 true, op 0 false 3, {op 0 false 4 with done := true}]
abbrev S3 := sE [op 1 true]
def lc (sp el : Nat) : List Word64 := [0, BitVec.ofNat 64 ((el <<< 28) + (3 <<< 24) + (1 <<< 8) + sp), BitVec.ofNat 64 ((4096 <<< 32) + 1), 0, 0, 0, 0, 0]
def cd (cc op opr count root : Nat) (src dst : Nat) : List Word64 := [BitVec.ofNat 64 (count <<< 32 + 2 <<< 28 + opr <<< 24 + cc <<< 16 + 1 <<< 8 + 0), BitVec.ofNat 64 src, BitVec.ofNat 64 dst, BitVec.ofNat 64 root]
def cop (c cc : Nat) (fn : Nat) (n : Nat := 1) : EngOp := {num := n, fn := 16 + fn, desc := cd cc 0 0 3 5 8 40, issuer := c, src := lc 1 3, dst := lc 1 3, idx := [], signal := ⟨6,2,.cluster,0⟩, promise := 0, raised := [5]}
def co (fn : Nat) (ack : List ((Nat × Nat) × List (Nat × Bool))) : Coll := { launch := 0, group := 3, op := fn, opr := 0, count := 3, root := 5, members := [5, 6], entries := [⟨5, 7168, 1, false⟩, ⟨6, 7169, 1, false⟩], acked := ack, retries := [((1,0),2)] }
def laG : Launch := { regions := [5, 6], groups := [(3, {use := 2, members := [5,6]})] }
def sK (fn : Nat) (ack : List ((Nat × Nat) × List (Nat × Bool))) : State := { sX 5 {ctl with launch := some 0, place := ⟨0,0,4⟩} [(6, {ctl with launch := some 0, place := ⟨0,0,5⟩, st := .running}), (7168, {ops := [cop 5 0 fn], accepted := 1}), (7169, {ops := [cop 6 1 fn], accepted := 1})] with launches := [(0, laG)], colls := [(0, co fn ack)], spad := [(4*524288 + 8, 5), (4*524288 + 9, 7), (5*524288+8, 11), (5*524288+9, 250), (5*524288+10, 0x80)] , mem := [] }
def fo (s : State) (o : EngOp) : Fmt := match s.collFmt o with | .ok f => f | _ => .bf16
def sp (s : State) (o : EngOp) (b : Bool) (lo n : Nat) := match s.collSpots o b (fo s o) lo n with | .ok f => f | _ => []
def ak := [((0,1), [(5, false), (7, false), (0, false)]), ((1,0), [(11, false), (250, true), (128, false)])]
def sQ (m : Nat) : State := { sX 5 {ctl {} (fun k => if k = 4 then 3 <<< 32 + 2 <<< 28 + 1 <<< 8 else if k = 5 then 8 else if k = 6 then 40 else if k = 7 then 5 else 0) with launch := some 0, layout := [(0, lc 1 3), (1, lc 1 3)], place := ⟨0,0,4⟩} with launches := [(0, laG)]}

theorem witness_engineEvents :
    ((S 0).opOf 135 2 = some (op 0 false) ∧
     (op 0 false).done = false ∧
     (op 0 false).failed = false ∧
     (op 0 false).whole = false ∧
     (op 0 false).parked = none ∧
     (op 0 false).fn < 4 ∧
     dClaimv (op 0 false).desc = false ∧
     (S 0).opAway (op 0 false) = false ∧
     (S 0).opWaits 135 (op 0 false) = false ∧
     (S 0).copyPlan 135 (op 0 false) =
       Met.ok ((fsd (S 0) (op 0 false)).1, (fsd (S 0) (op 0 false)).2.1, (fsd (S 0) (op 0 false)).2.2) ∧
     (sectorsOf (fsd (S 0) (op 0 false)).2.2)[(op 0 false).written]? = some 3 ∧
     ((S 0).moveSpots 135 (op 0 false) (fsd (S 0) (op 0 false)).1 (fsd (S 0) (op 0 false)).2.1
          (List.filter (fun (m : Move) => m.dst.sector == 3) (fsd (S 0) (op 0 false)).2.2) =
        Met.ok (msOf (S 0) (op 0 false) 3)) ∧
     (S 0).upset = 0 ∧
     (S 0).banksTurn 135 (op 0 false) (moveSpotsOf (msOf (S 0) (op 0 false) 3)) = true ∧
     (S 0).moveFault 135 (op 0 false) (msOf (S 0) (op 0 false) 3) = none ∧
     (S 0).raceOn ((S 0).homeCl 135) = false) ∧
    (S2.opOf 135 2 = some (op 1 true) ∧
     (op 1 true).done = false ∧
     (op 1 true).failed = false ∧
     (op 1 true).whole = true) ∧
    (S3.opOf 135 2 = some (op 1 true) ∧
     isSupId 5 = false ∧
     (S3.ctx 5).st = CtxSt.waiting ∧
     (S3.ctx 5).waitFor = WaitCond.oper 135 2 Scope.cluster ∧
     (S3.ctx 5).trapped = none ∧
     (S3.ctx 5).noDeadline = false ∧
     (op 1 true).done = false ∧
     (op 1 true).promised S3.cycle ≤ S3.dieCycle (idDie 135)) := by
  refine ⟨?_, ?_, by decide +kernel, by decide +kernel, by decide +kernel, by decide +kernel, by decide +kernel,
    by decide +kernel, by decide +kernel, ?_⟩
  · decide +kernel
  · decide +kernel
  · have h1 : (op 1 true).promised S3.cycle ≤ 7 := by decide +kernel
    have h2 : S3.cycle = 9 := by decide +kernel
    have h3 := (Config.cycleSkew (idDie 135)).isLt
    unfold State.dieCycle
    omega

/-- What a try reads: the operation is there and awake, its source may be read now. -/
def reads (s : State) (co : Coll) (e : CollEntry) (o : EngOp) (lo len : Nat) : Bool :=
  (o.parked == none) && !s.opAway o && (s.upset == 0) && !s.raceOn (s.homeCl o.issuer) && !co.failed &&
  (s.collOp e == some o) &&
  match s.collFmt o with
  | .ok f => (match s.collSpots o false f lo len with
    | .ok ps => (s.spotsFault o ps == none) && s.banksTurn e.cctx o ps
    | _ => false)
  | _ => false
def e0 : CollEntry := { ctx := 5, cctx := 7168, num := 1 }
def e1 : CollEntry := { ctx := 6, cctx := 7169, num := 1 }
/-- Steps 0 to 1 and 1 to 0 have been sent at CYCLE 3. -/
def sent (s : State) (c : Nat := 3) : State :=
  { s with cycle := 12000, colls := s.colls.map fun p => (p.1, { p.2 with sent := [((0, 1), c, [(5, false)]), ((1, 0), c, [(11, false)])] }) }
def scoll (s : State) : Coll := (s.coll 0).getD (co 0 [])
/-- A layout entry of HBM space: written sector by sector. -/
def ld (sp el : Nat) : List Word64 := [0, BitVec.ofNat 64 ((el <<< 28) + (3 <<< 24) + (1 <<< 8) + sp), BitVec.ofNat 64 ((4096 <<< 32) + 1), 0, 0, 0, 0, 0]
def opV (c cc : Nat) : EngOp := { cop c cc 0 with dst := ld 3 3 }
/-- A destination that begins two bytes before the end of the first page of 64 KiB. -/
def opM (c cc : Nat) : EngOp := { cop c cc 0 with dst := 65472 :: (ld 3 3).tail, desc := cd cc 0 0 3 5 8 62 }
/-- As `sK`, the destinations in virtual memory, of which the lowest 2 ^ `bits` bytes are mapped to themselves. -/
def sV (bits : Nat) (o : Nat → Nat → EngOp) : State :=
  let s := sK 0 ak
  { s with
    ctxs := (s.ctxs.filter fun p => p.1 < 7168) ++ [(7168, {ops := [o 5 0], accepted := 1}), (7169, {ops := [o 6 1], accepted := 1})]
    clTlb := [(0, [⟨0, 0, bits, 0x1F, 0x3000000000000000⟩])] }
def plan (s : State) (o : EngOp) (dst : Bool) : List Spot :=
  (s.collElems o dst (match s.collFmt o with | .ok f => f | _ => .bf16) 0 3).getD []

theorem witness_collectiveEvents :
    (let s := sK 0 []
     s.coll 0 = some (co 0 []) ∧ (co 0 []).entryAt 0 = some e0 ∧ (co 0 []).needs 0 1 = true ∧ (co 0 []).carried 0 1 = none ∧
       (co 0 []).joined 0 1 = true ∧ s.collSame (co 0 []) = true ∧ (co 0 []).sent = [] ∧
       reads s (co 0 []) e0 (cop 5 0 0) ((co 0 []).part 1) 3 = true) ∧
    (let s := sent (sK 0 [])
     s.coll 0 = some (scoll s) ∧ (scoll s).entryAt 0 = some e0 ∧ s.collOp e0 = some (cop 5 0 0) ∧ (scoll s).failed = false ∧
       (scoll s).needs 0 1 = true ∧ (scoll s).carried 0 1 = none ∧ (scoll s).joined 0 1 = true ∧ s.collSame (scoll s) = true ∧
       (scoll s).sent.find? (fun p => p.1 = (0, 1)) = some ((0, 1), 3, [(5, false)]) ∧ s.collReach (scoll s) 0 1 = true ∧
       3 + 10000 ≤ s.cycle ∧ ((scoll s).retries.find? fun p => p.1 = (0, 1)).elim 0 (·.2) < cRetry (cop 5 0 0).desc ∧
       reads s (scoll s) e0 (cop 5 0 0) ((scoll s).part 1) 3 = true) ∧
    (let s := sent (sK 0 [])
     (scoll s).entryAt 1 = some e1 ∧ s.collOp e1 = some (cop 6 1 0) ∧
       (scoll s).sent.find? (fun p => p.1 = (1, 0)) = some ((1, 0), 3, [(11, false)]) ∧
       cRetry (cop 6 1 0).desc ≤ ((scoll s).retries.find? fun p => p.1 = (1, 0)).elim 0 (·.2)) ∧
    (let s := sK 0 ak
     s.coll 0 = some (co 0 ak) ∧ (co 0 ak).entryAt 0 = some e0 ∧ (co 0 ak).here 0 = some 0 ∧ e0.done = false ∧
       (co 0 ak).stepsDone 0 = true ∧ s.collSame (co 0 ak) = true ∧ reads s (co 0 ak) e0 (cop 5 0 0) 0 3 = true ∧
       (plan s (cop 5 0 0) true).length = 3 ∧ (∀ p ∈ plan s (cop 5 0 0) true, (match p with | .spad _ _ => true | _ => false) = true)) ∧
    (let s := sV 30 opV
     s.coll 0 = some (co 0 ak) ∧ (co 0 ak).entryAt 0 = some e0 ∧ (co 0 ak).here 0 = some 0 ∧ (co 0 ak).stepsDone 0 = true ∧
       s.collSame (co 0 ak) = true ∧ reads s (co 0 ak) e0 (opV 5 0) 0 3 = true ∧ s.collFmt (opV 5 0) = .ok .int8 ∧
       s.engPas 7168 (plan s (opV 5 0) false) = [] ∧ (plan s (opV 5 0) true).map Spot.sector = [0, 0, 0] ∧
       (match metAll (s.engSpot 5 (opV 5 0) (opV 5 0).dst .int8 true) (plan s (opV 5 0) true) with
         | .ok ps => (s.spotsFault (opV 5 0) ps == none) && s.banksTurn 7168 (opV 5 0) ps
         | _ => false) = true) ∧
    (let s := sV 16 opM
     s.coll 0 = some (co 0 ak) ∧ (co 0 ak).entryAt 0 = some e0 ∧ (co 0 ak).here 0 = some 0 ∧ (co 0 ak).stepsDone 0 = true ∧
       s.collSame (co 0 ak) = true ∧ reads s (co 0 ak) e0 (opM 5 0) 0 3 = true ∧ s.collFmt (opM 5 0) = .ok .int8 ∧
       (plan s (opM 5 0) true).map Spot.sector = [1365, 1365, 1365] ∧
       (match metAll (s.engSpot 5 (opM 5 0) (opM 5 0).dst .int8 true) (plan s (opM 5 0) true) with
         | .miss va _ => va == 65536
         | _ => false) = true) := by
  refine ⟨?_, ?_, ?_, ?_, ?_, ?_⟩ <;> decide +kernel

theorem witness_engineCommands :
    Issues (sQ 0) 5 (ws 3) ∧
    CollAllowed (sQ 0) 5 3 (Instr.collBcast 3 4 3 (ws 3), CollFn.bcast).2
      ((sQ 0).collDesc 5 4 (Instr.collBcast 3 4 3 (ws 3), CollFn.bcast).2 (ws 3)) ∧
    ((sQ 0).ctx
          ((sQ 0).homeCl 5 / 6 * 8192 + 7 * 1024 +
            cCctx ((sQ 0).collDesc 5 4 (Instr.collBcast 3 4 3 (ws 3), CollFn.bcast).2 (ws 3)).desc)).openOps <
      16 :=
  ⟨by constructor <;> decide +kernel, by constructor <;> decide +kernel, by decide +kernel⟩

end EnginesAndCollectives


/-! ### Rotation -/

namespace Rotation

def cfgE : Frame := BitVec.ofNat _ ((1 <<< 27) ||| (1 <<< 26) ||| (2 <<< 23) ||| (4 <<< 7) ||| (1 <<< 1) ||| (2 <<< 58) ||| (2 <<< 62))
def addP : Parcel := ((encode (.add (.out 0) (.inp 0) (.inp 1)))[0]?).getD 0
def cuE : Cu := { unit0 with ins := Vector.replicate 6 [], cfg := cfgE, store := addP :: List.replicate 47 0xFFFFFFFF }
def rotjP : List Parcel := encode (.rotj2P (.s 3) (.inp 0) (mm .rotj 2))
def cuJ : Cu := { unit0 with pos := 0, store := rotjP ++ List.replicate 46 0xFFFFFFFF, rotj := some 2 }
def swE : Sw := { data := [(0, BitVec.ofNat 32 ((0x20 <<< 26) + (cuCode false 0 <<< 20) + (9 <<< 5) + 1)), (1, BitVec.ofNat 32 ((0x21 <<< 26) + (0x2D <<< 20) + 1)), (2, BitVec.ofNat 32 ((0x22 <<< 26) + (0x2E <<< 20) + 1))] }
def st (n : Nat) : Token := { tok n with kind := .hold }
def lp (x : LoopSt := {}) (n : Nat) : LoopSt := {x with running := true, count := n, states := [(0, st 1), (2, st 2)]}
def sR (x : LoopSt) : State := { ctxs := [(5, {ctl with place := ⟨0,0,4⟩, loops := [(2, x)]})], tiles := [(4, {cu0 := cuE, cu1 := cuJ, sw := swE})], cur := .event }
def s1 : State := sR (lp {valid := 5, fault := 4, queue := [.hold 2, .leave 2 false, .leave 2 true]} 6)
def s2 : State := sR (lp {valid := 5, fault := 4, queue := [.hold 2, .leave 1 false]} 6)
def s3 : State := sR (lp {valid := 5, queue := [.hold 1, .leave 1 false, .join (tok 9) 4 true, .join (tok 8) 4 true]} 5)
def v1 : EView := two .rotj (.s 3) (.inp 0) .none .none (mm .rotj 2)
def s4 : State := sR (lp {valid := 5, queue := [.hold 1, .leave 1 false, .leave 0 true]} 5)
def Ent (t : Token) (q : List RotReq) (n : Nat := 6) (h : Word64 := 0): State := sR (lp {valid := 5, hold := h, entries := [(2, t)], queue := q} n)
def s5 : State := Ent eos [.hold 2]
def s6 : State := {Ent (tok 7) [.leave 2 false, .hold 2] with used := [(.mu 4 true, 4)]}
def s7 : State := sR (lp {valid := 5} 6)
def s8 : State := Ent (tok 7) [.leave 1 false, .hold 2, .release 2] 6 4
def s9 : State := sR (lp {closed := true} 4)

theorem witness_rotationArrivals :
    (RotTurn s1 5 2 2 (4, false) ∧
     (bit (s1.loopOf 5 2).fault 2 = true ∧
      ((s1.loopOf 5 2).others 2).any (RotReq.leaves 2) = true)) ∧
    (RotTurn s2 5 2 2 (4, false) ∧
     (bit (s2.loopOf 5 2).fault 2 = true ∧
      (¬((s2.loopOf 5 2).others 2).any (RotReq.leaves 2) = true))) ∧
    (RotTurn s3 5 2 1 (4, false) ∧
     (bit (s3.loopOf 5 2).valid 1 = false ∧
      bit (s3.loopOf 5 2).fault 1 = false ∧
      List.find? RotReq.joins ((s3.loopOf 5 2).others 1) = some (RotReq.join (tok 9) 4 true) ∧
      (s3.cu 4 true).viewAt (s3.cu 4 true).pos = some v1)) ∧
    (RotTurn s4 5 2 1 (4, false) ∧
     (bit (s4.loopOf 5 2).valid 1 = false ∧
      bit (s4.loopOf 5 2).fault 1 = false ∧
      ((s4.loopOf 5 2).others 1).any RotReq.joins = false)) ∧
    (RotTurn s5 5 2 2 (4, false) ∧
     ((bit (s5.loopOf 5 2).valid 2 = true ∧ bit (s5.loopOf 5 2).fault 2 = false)) ∧
     ((((s5.loopOf 5 2).others 2).any (RotReq.leaves 2) = true ∨
         ∃ (t : Token), tget (s5.loopOf 5 2).entries 2 = some t ∧ t.kind = Kind.eos)) ∧
     (s5.canEmit (s5.leavePort (4, false)).1 [(s5.leavePort (4, false)).2] = true ∧
      tget (s5.loopOf 5 2).states 2 = some (st 2))) ∧
    (RotTurn s6 5 2 2 (4, false) ∧
     ((bit (s6.loopOf 5 2).valid 2 = true ∧ bit (s6.loopOf 5 2).fault 2 = false)) ∧
     ((((s6.loopOf 5 2).others 2).any (RotReq.leaves 2) = true ∨
         ∃ (t : Token), tget (s6.loopOf 5 2).entries 2 = some t ∧ t.kind = Kind.eos)) ∧
     s6.canEmit (s6.leavePort (4, false)).1 [(s6.leavePort (4, false)).2] = false) ∧
    (RotTurn s7 5 2 2 (4, false) ∧
     ((bit (s7.loopOf 5 2).valid 2 = true ∧ bit (s7.loopOf 5 2).fault 2 = false) ∧
      (¬((s7.loopOf 5 2).others 2).any (RotReq.leaves 2) = true)) ∧
     ((¬∃ (t : Token), tget (s7.loopOf 5 2).entries 2 = some t ∧ t.kind = Kind.eos)) ∧
     ((s7.loopOf 5 2).heldAt 2 = true ∨ tget (s7.loopOf 5 2).entries 2 = none ∨ s7.exitCredits 5 2 = false ∨
        s7.stageTokens 5 2 = false)) ∧
    (RotTurn s8 5 2 2 (4, false) ∧
     ((bit (s8.loopOf 5 2).valid 2 = true ∧ bit (s8.loopOf 5 2).fault 2 = false) ∧
      (¬((s8.loopOf 5 2).others 2).any (RotReq.leaves 2) = true) ∧
      (s8.loopOf 5 2).heldAt 2 = false ∧
      tget (s8.loopOf 5 2).entries 2 = some (tok 7) ∧
      (tok 7).kind ≠ .eos ∧
      s8.exitCredits 5 2 = true ∧
      s8.stageTokens 5 2 = true ∧
      (s8.cu 4 false).stageFalls (s8.cu 4 false).loopView ((s8.cu 4 false).stageVal
        { ((tget (s8.loopOf 5 2).states 2).getD {}) with kind := .data } (some (tok 7))) = false)) ∧
    (s9.loopEntry 5 2 = some (4, false) ∧
     (s9.ctx 5).st.fires = true ∧
     (s9.loopOf 5 2).busy = .none ∧
     (s9.loopOf 5 2).running = true ∧
     (s9.loopOf 5 2).stopped = false ∧
     (s9.loopOf 5 2).parked = false ∧
     (s9.loopOf 5 2).savesNow 0 = none ∧
     (s9.loopOf 5 2).inbound.any (s9.loopOf 5 2).arrived = false ∧
     (s9.loopOf 5 2).count % s9.loopSlots 5 2 = 0 ∧
     s9.mayStop 5 2 (4, false) = true) :=
  ⟨⟨by constructor <;> decide +kernel, by decide +kernel⟩,
    ⟨by constructor <;> decide +kernel, by decide +kernel⟩,
    ⟨by constructor <;> decide +kernel, by decide +kernel⟩,
    ⟨by constructor <;> decide +kernel, by decide +kernel⟩,
    ⟨by constructor <;> decide +kernel, by decide +kernel, by exact .inr ⟨_, rfl, rfl⟩, by decide +kernel⟩,
    ⟨by constructor <;> decide +kernel, by decide +kernel, by exact .inl (by decide +kernel), by decide +kernel⟩,
    ⟨by constructor <;> decide +kernel, by decide +kernel, by rintro ⟨t, h, k⟩; have e : ((tget (s7.loopOf 5 2).entries 2).map (·.kind) == some .eos) = false := (by decide +kernel); rw [h] at e; simp [k] at e, by decide +kernel⟩,
    ⟨by constructor <;> decide +kernel, by decide +kernel⟩,
    by decide +kernel⟩

end Rotation


/-! ### Loops -/

namespace Loops

def cfgE : Frame := BitVec.ofNat _ ((1 <<< 27) ||| (1 <<< 26) ||| (2 <<< 23) ||| (4 <<< 7) ||| (1 <<< 1) ||| (2 <<< 58) ||| (2 <<< 62))
def addP : Parcel := ((encode (.add (.out 0) (.inp 0) (.inp 1)))[0]?).getD 0
def cuE : Cu := { unit0 with ins := Vector.replicate 6 [], cfg := cfgE, store := addP :: List.replicate 47 0xFFFFFFFF }
def swE : Sw := { data := [(0, BitVec.ofNat 32 ((0x20 <<< 26) + (cuCode false 0 <<< 20) + (9 <<< 5) + 1)), (1, BitVec.ofNat 32 ((0x21 <<< 26) + (0x2D <<< 20) + 1)), (2, BitVec.ofNat 32 ((0x22 <<< 26) + (0x2E <<< 20) + 1))] }
def st (n : Nat) : Token := { tok n with kind := .hold }
def lp (x : LoopSt := {}) (n : Nat) : LoopSt := {x with running := true, count := n, states := [(0, st 1), (2, st 2)]}
def sL (x : LoopSt) (f : Ctx → Ctx := id): State := { ctxs := [(5, f {ctl with place := ⟨0,0,4⟩, loops := [(2, x)], launch := some 0})], tiles := [(4, {cu0 := cuE, cu1 := {}, sw := swE})], cur := .event }
def rin (r : RotReq) : RotIn := ⟨5, 4, true, r⟩
def fq (r : RotReq) (x : LoopSt := {}): LoopSt := lp {x with inbound := [⟨8, 4, true, .hold 1⟩, rin r], queue := [.hold 2]} 6
def s1 : State := sL (fq (.hold 3))
def s2 : State := sL (fq (.hold 4))
def pv : EView := two .rotp (.out 1) .none .none .none (mm .rotp 2)
def s6 : State := { sL (fq (.probe 4 true)) with tiles := [(4, {cu0 := cuE, cu1 := { pos := 0, store := encode (.rotp2P (.out 1) (mm .rotp 2)) }, sw := swE})] }
def sb (n : Nat) : Token := {tok 9 with slot := BitVec.ofNat 6 n}
def s3 : State := sL (lp {load := [sb 3, sb 4], entries := [(2, sb 2)]} 6)
def s4 : State := { sL (lp {staging := [sb 3, sb 4], entries := [(2, sb 2)]} 6) with used := [(.cuIn 4 false 1, 2)] }
def s5 : State := sL (lp {staging := [sb 4], entries := [(2, sb 2)]} 6)
def sv (k : Nat) : State := sL (lp {valid := 5, staging := [sb 4], entries := [(2, sb 2)], busy := .saving 5 9000 0 k 4} 6) fun x => {x with hold := .rotsv 2, holdLen := 2, holdSig := ⟨3,2,.cluster,0⟩}
def sd (f : Ctx → Ctx) : State := { sL {} fun x => f {x with wasZero := true} with cycle := 128 + (Config.cycleSkew 0).val }

theorem witness_loopEventsAndQuiescence :
    (firstIn (s1.loopOf 5 2).inbound = some (rin (.hold 3)) ∧
     (s1.loopOf 5 2).arrived (rin (.hold 3)) = true ∧
     (s1.ctx 5).st.fires = true ∧
     ¬ s1.loopSlots 5 2 ≤ 3) ∧
    (firstIn (s6.loopOf 5 2).inbound = some (rin (.probe 4 true)) ∧
     (s6.loopOf 5 2).arrived (rin (.probe 4 true)) = true ∧
     (s6.ctx 5).st.fires = true ∧
     (s6.cu 4 true).viewAt (s6.cu 4 true).pos = some pv) ∧
    (firstIn (s2.loopOf 5 2).inbound = some (rin (.hold 4)) ∧
     (s2.loopOf 5 2).arrived (rin (.hold 4)) = true ∧
     (s2.ctx 5).st.fires = true ∧
     s2.loopSlots 5 2 ≤ 4 ∧
     s2.loopEntry 5 2 ≠ none ∧
     isRegionId 5 = true) ∧
    ((s3.ctx 5).st.fires = true ∧
     (s3.loopOf 5 2).load = [sb 3, sb 4] ∧
     tget (s3.loopOf 5 2).entries (sb 3).slot.toNat = none) ∧
    ((s4.ctx 5).st.fires = true ∧
     (s4.loopOf 5 2).load = [] ∧
     (s4.loopOf 5 2).staging = [sb 3, sb 4] ∧
     s4.loopEntry 5 2 = some (4, false) ∧
     (sb 3).slot.toNat < s4.loopSlots 5 2 ∧
     tget (s4.loopOf 5 2).entries (sb 3).slot.toNat = none) ∧
    ((s5.ctx 5).st.fires = true ∧
     (s5.loopOf 5 2).load = [] ∧
     (s5.loopOf 5 2).staging = [sb 4] ∧
     s5.loopEntry 5 2 = some (4, false) ∧
     s5.loopSlots 5 2 ≤ (sb 4).slot.toNat ∧
     isRegionId 5 = true) ∧
    (((sv 1).loopOf 5 2).busy = RotBusy.saving 5 9000 0 1 4 ∧
     ((sv 1).loopOf 5 2).inbound.any ((sv 1).loopOf 5 2).arrived = false ∧
     ((sv 1).loopOf 5 2).running = true ∧
     ((sv 1).loopOf 5 2).stopped = false ∧
     ((sv 1).ctx 5).st.fires = true ∧
     (sv 1).loopEntry 5 2 = some (4, false) ∧
     1 + 1 < (sv 1).loopSlots 5 2) ∧
    (((sv 3).loopOf 5 2).busy = RotBusy.saving 5 9000 0 3 4 ∧
     ((sv 3).loopOf 5 2).inbound.any ((sv 3).loopOf 5 2).arrived = false ∧
     ((sv 3).loopOf 5 2).running = true ∧
     ((sv 3).loopOf 5 2).stopped = false ∧
     ((sv 3).ctx 5).st.fires = true ∧
     (sv 3).loopEntry 5 2 = some (4, false) ∧
     (sv 3).raceOn ((sv 3).homeCl 5) = false ∧
     (sv 3).loopSlots 5 2 ≤ 3 + 1) ∧
    (isRegionId 5 = true ∧ ((sd id).ctx 5).onTiles = true ∧ (sd id).dieCycle ((sd id).ctx 5).place.die % 64 = 0 ∧
     tget (sd id).sampled 5 ≠ some (sd id).cycle) := by
  have h : (sd id).dieCycle 0 = 128 := by unfold State.dieCycle; exact Nat.add_sub_cancel _ _
  refine ⟨?_, ?_, ?_, ?_, ?_, ?_, ?_, ?_, by decide +kernel, by decide +kernel, ?_, by simp [sd, sL]⟩
  iterate 8 decide +kernel
  rw [show ((sd id).ctx 5).place.die = 0 from by decide +kernel, h]

end Loops


/-! ### MemoryAccess -/

namespace MemoryAccess

def lt1 (sp : Nat) (el : Nat := 3): List Word64 := [0, BitVec.ofNat 64 ((el <<< 28) + (3 <<< 24) + (1 <<< 8) + sp), BitVec.ofNat 64 ((4096 <<< 32) + 1), 0, 0, 0, 0, 0]
def rq (fn : Nat) (sp : Spot) (ty : Fmt := .int8) (imm : Nat := 0) (lt := lt1 0): MuReq := { fn := fn, ty := ty, rnd := .rne, imm := imm, cmpl := true, lt := lt, count := 2, coords := [5], data := [tok 0x1234, tok 0x5678], elems := [{spot := sp}, {spot := .nowhere, done := true}], st := .ready, num := 9, covers := 0 }
def sq (r : MuReq) (f : State → State := id) : State := f { ctxs := [(0, {region with layout := []})], cur := .event, tiles := [(0, {mu0 := {cfg := 1, items := [.req r]}})], spad := [(100, 5), (101, 3), (200, 1), (203, 2)], mem := [(100, 9), (5000, 7)], opnd := [(7, 9)] }
def el0 (r : MuReq) : Elem := r.elems.headD {spot := .nowhere}
def ph (b : Nat) (f : Fmt := .int8) : Spot := .phys (b * 8) f 0 false
def s1 : State := sq (rq 0 (ph 100))
def s2 : State := sq (rq 12 (ph 100))
def s3 : State := sq (rq 1 (ph 2))
def s4 : State := sq (rq 4 (.spad 0 800) .int8 0)
def r1 : MuReq := (rq 4 (.spad 0 800) .int8 0)
def s5 : State := sq (rq 10 (.spad 0 1600))
def r2 : MuReq := (rq 10 (.spad 0 1600))
def s6 : State := sq (rq 10 (.spad 0 800))
def r3 : MuReq := (rq 10 (.spad 0 800))
def s7 : State := sq (rq 8 (ph 4800) .int8 0)
def r4 : MuReq := (rq 8 (ph 4800) .int8 0)

/-- The race detector of cluster 0 watches agents 0 and 6; agent 6 has made these accesses to bytes 100 and 101 of tile 0. -/
def sRace (r : MuReq) (w : Option RaceAcc) (rs : List RaceAcc) (front : Tbl (Tbl Nat) := []) : State :=
  sq r fun s => { s with
    launches := [(0, { groups := [(1, { use := 8, members := [0, 6] })] })], regs := [(regKey 0 0x67 0, 0x8000000000000000)]
    clusters := [(0, { race := { agents := [0, 6], front := front, records := [⟨false, 1, w, rs⟩] } })] }
def acc6 : RaceAcc := ⟨6, 3, false, 0x3000000000⟩
/-- What the three cases of a watched access have in common. -/
def watched (s : State) (q : MuReq) : Bool :=
  bit (s.reg 0 0x67 0) 63 && !bit (s.reg 0 0x67 0) 62 && (s.cl 0).race.agents.contains 0 && s.isAgent 0 &&
  q.plainAt (el0 q) && (s.ctx 0).st.fires && (s.spotFault 0 (el0 q).spot q.routes == none) &&
  ((el0 q).spot.granules (q.span (el0 q) false) == [((false, 1), 0x1000000000)])

theorem witness_memoryAccesses_race :
    (let q := rq 0 (.spad 0 800)
     let s := sRace q (some acc6) []
     Reaches s 0 false 9 0 0 q (el0 q) ∧ watched s q = true ∧ q.kind ∈ [MuFn.ld, .gath, .st, .scat, .atom] ∧
       ((s.cl 0).race.record (false, 1)).write = some acc6 ∧ acc6.agent ≠ 0 ∧
       vecAt (tgetD (s.cl 0).race.front 0 []) acc6.agent < acc6.count ∧ acc6.bytes &&& 0x1000000000 ≠ 0 ∧
       bit (s.reg 0 0x68 0) 63 = false) ∧
    (let q := rq 1 (.spad 0 800)
     let s := sRace q none [{ acc6 with bytes := 1 }, acc6]
     Reaches s 0 false 9 0 0 q (el0 q) ∧ watched s q = true ∧ q.kind ∈ [MuFn.ld, .gath, .st, .scat, .atom] ∧ q.kind.writes = true ∧
       ((s.cl 0).race.record (false, 1)).write = none ∧
       ((s.cl 0).race.record (false, 1)).reads = [{ acc6 with bytes := 1 }] ++ acc6 :: [] ∧ 1 &&& 0x1000000000 = 0 ∧
       vecAt (tgetD (s.cl 0).race.front 0 []) acc6.agent < acc6.count ∧ acc6.bytes &&& 0x1000000000 ≠ 0) ∧
    (∀ fn ∈ [0, 1], let q := rq fn (.spad 0 800)
     let s := sRace q (some acc6) [acc6] [(0, [(6, 3)])]
     watched s q = true ∧ ¬vecAt (tgetD (s.cl 0).race.front 0 []) acc6.agent < acc6.count ∧ (s.cl 0).race.records.length < 32768) ∧
    Reaches (sRace (rq 1 (.spad 0 800)) (some acc6) [acc6] [(0, [(6, 3)])]) 0 false 9 0 0 (rq 1 (.spad 0 800)) (el0 (rq 1 (.spad 0 800))) :=
  ⟨⟨by constructor <;> decide +kernel, by decide +kernel⟩, ⟨by constructor <;> decide +kernel, by decide +kernel⟩,
    by decide +kernel, by constructor <;> decide +kernel⟩

/-- R436, R437: it is so: the read is not performed, the context is FAULTED with RACE, and RACEINFO names both. -/
theorem test_race : after (exec (.memoryRequestPerform 0 false 9 0 ⟨.ok, false⟩) (sRace (rq 0 (.spad 0 800)) (some acc6) []))
    (fun t => (t.ctx 0).st == .faulted && (t.ctx 0).fcode == 0x12 && t.reg 0 0x68 0 == 0xA000000000060000) = true := by
  decide +kernel

theorem witness_memoryAccesses :
    (Accesses s1 0 false 9 0 0 (rq 0 (ph 100)) (el0 (rq 0 (ph 100))) ∧
     (s1.memWf = true ∧
      s1.spotFault (ptDie 0) (el0 (rq 0 (ph 100))).spot [] = none ∧
      (rq 0 (ph 100)).kind ∈ [MuFn.ld, MuFn.gath])) ∧
    (Accesses s2 0 false 9 0 0 (rq 12 (ph 100)) (el0 (rq 12 (ph 100))) ∧
     (s2.memWf = true ∧
      (rq 12 (ph 100)).kind = MuFn.pref)) ∧
    (Accesses s3 0 false 9 0 0 (rq 1 (ph 2)) (el0 (rq 1 (ph 2))) ∧
     (s3.memWf = true ∧
      s3.spotFault (ptDie 0) (el0 (rq 1 (ph 2))).spot [] = none ∧
      (rq 1 (ph 2)).plainAt (el0 (rq 1 (ph 2))) = true ∧
      (rq 1 (ph 2)).kind ∈ [MuFn.st, MuFn.scat])) ∧
    (Accesses s4 0 false 9 0 0 r1 (el0 (rq 4 (Spot.spad 0 800))) ∧
     (s4.memWf = true ∧
      s4.spotFault (ptDie 0) (el0 (rq 4 (Spot.spad 0 800))).spot [] = none ∧
      r1.plainAt (el0 (rq 4 (Spot.spad 0 800))) = true ∧
      r1.kind = MuFn.atom ∧
      (el0 (rq 4 (Spot.spad 0 800))).drop = false ∧
      r1.imm % 8 ≤ 5 ∧
      (r1.imm % 8 = 1 → isFloat r1.ty = true))) ∧
    (Accesses s5 0 false 9 0 0 r2 (el0 (rq 10 (Spot.spad 0 1600))) ∧
     (s5.memWf = true ∧
      r2.kind = MuFn.bara ∧
      (∀ y ∈ (s5.mu 0 false).reqs, y.num < 9 → y.performed = true) ∧
      (¬(fld (BitVec.ofNat 64 (s5.bitsAt 0 (spadKey 0 0 * 8 + 1600) 64)) 49 15 ≠ 0 ∨
           fld (BitVec.ofNat 64 (s5.bitsAt 0 (spadKey 0 0 * 8 + 1600) 64)) 24 24 = 0 ∨
             fld (BitVec.ofNat 64 (s5.bitsAt 0 (spadKey 0 0 * 8 + 1600) 64)) 24 24 ≤
               fld (BitVec.ofNat 64 (s5.bitsAt 0 (spadKey 0 0 * 8 + 1600) 64)) 0 24)))) ∧
    (Accesses s6 0 false 9 0 0 r3 (el0 (rq 10 (Spot.spad 0 800))) ∧
     (s6.memWf = true ∧
      r3.kind = MuFn.bara ∧
      (∀ y ∈ (s6.mu 0 false).reqs, y.num < 9 → y.performed = true) ∧
      (fld (BitVec.ofNat 64 (s6.bitsAt 0 (spadKey 0 0 * 8 + 800) 64)) 49 15 ≠ 0 ∨
         fld (BitVec.ofNat 64 (s6.bitsAt 0 (spadKey 0 0 * 8 + 800) 64)) 24 24 = 0 ∨
           fld (BitVec.ofNat 64 (s6.bitsAt 0 (spadKey 0 0 * 8 + 800) 64)) 24 24 ≤
             fld (BitVec.ofNat 64 (s6.bitsAt 0 (spadKey 0 0 * 8 + 800) 64)) 0 24) ∧
      (s6.ctx 0).st.fires = true)) ∧
    (Accesses s7 0 false 9 0 0 r4 (el0 (rq 8 (ph 4800))) ∧
     (s7.memWf = true ∧
      s7.spotFault (ptDie 0) (el0 (rq 8 (ph 4800))).spot [] = none ∧
      r4.kind.quorum = true)) :=
  ⟨⟨⟨by constructor <;> decide +kernel, by decide +kernel⟩, by decide +kernel⟩,
    ⟨⟨by constructor <;> decide +kernel, by decide +kernel⟩, by decide +kernel⟩,
    ⟨⟨by constructor <;> decide +kernel, by decide +kernel⟩, by decide +kernel⟩,
    ⟨⟨by constructor <;> decide +kernel, by decide +kernel⟩, by decide +kernel⟩,
    ⟨⟨by constructor <;> decide +kernel, by decide +kernel⟩, by decide +kernel⟩,
    ⟨⟨by constructor <;> decide +kernel, by decide +kernel⟩, by decide +kernel⟩,
    ⟨⟨by constructor <;> decide +kernel, by decide +kernel⟩, by decide +kernel⟩⟩

end MemoryAccess


/-! ### MemoryReplies -/

namespace MemoryReplies

def lt1 (sp : Nat) (el : Nat := 3): List Word64 := [0, BitVec.ofNat 64 ((el <<< 28) + (3 <<< 24) + (1 <<< 8) + sp), BitVec.ofNat 64 ((4096 <<< 32) + 1), 0, 0, 0, 0, 0]
def rq (fn : Nat) (sp : Spot) (ty : Fmt := .int8) (imm : Nat := 0) (lt := lt1 0): MuReq := { fn := fn, ty := ty, rnd := .rne, imm := imm, cmpl := true, lt := lt, count := 2, coords := [5], data := [tok 0x1235, tok 0x5678], elems := [{spot := sp}], st := .ready, num := 9, covers := 0 }
def sw3 : Sw := { data := [(0, BitVec.ofNat 32 ((0x29 <<< 26) + (0x20 <<< 20) + 1)), (1, BitVec.ofNat 32 ((0x2A <<< 26) + (0x21 <<< 20) + 1))] }
def sq (r : MuReq) (f : State → State := id) (its : List MuItem := []): State := f { ctxs := [(0, {region with layout := []})], cur := .event, tiles := [(0, {mu0 := {cfg := BitVec.ofNat _ (1 + (1 <<< 84)), items := (if its = [] then [.req r] else its)}, sw := sw3})], spad := [(100, 5), (101, 3), (200, 1), (203, 2)], mem := [(100, 9), (5000, 7)], opnd := [(7, 9)], l1 := [⟨0, 3, [], false⟩] }
def pf (fn : Nat) (ty : Fmt) (es : List Elem) : MuReq := { rq fn .nowhere ty with elems := es, st := .done }
def s1 : State := sq (rq 0 .nowhere) id [.mark eos, .mark eos]
def s2 : State := sq (pf 1 .int8 [])
def so (fn : Nat) := sq {pf fn .int8 [] with st := .ready}
def r1 : MuReq := {pf 5 .int8 [] with st := .ready}
def bw := rq 11 (.spad 0 1600)
def bw2 := {rq 11 (.spad 0 1600) with data := [tok 2]}
def wk (r : Nat) : Walk := {die := 0, cluster := 0, root := r, va := 0x40000, ctx := 0, write := false, agent := 1, tile := 0, unit := 3, pos := 0}
def putNat (m : List Host.Cell) (a n v : Nat) : List Host.Cell := (List.range n).foldl (fun m k => memSet m (a + k) (BitVec.ofNat 8 (v / 256^k))) m
def pt (m : List Host.Cell) : List Host.Cell :=
  let m := putNat m 0x10000 8 (0x12000 + 1)
  let m := putNat m 0x12000 8 (0x14000 + 1)
  let m := putNat m 0x14000 8 (0 + 0x1F)
  putNat m 0x14008 8 (3 <<< 60)
def sWk (r : Nat) : State := { sq (rq 0 .nowhere) with walks := [wk r], mem := pt [] }
def s3 : State := {sWk 0x20000 with cooldown := [⟨1, 2, 5, false, []⟩, ⟨3, 4, 0, false, []⟩], cycle := 5000}
def fr := rq 0 (.phys ((2^44+4096*2)*8) .int8 0 false)

theorem witness_memoryEvents :
    (s1.active 0 = true ∧
     (s1.mu 0 false).items = [MuItem.mark eos, MuItem.mark eos] ∧
     s1.canEmit 0 (muOuts false (s1.mu 0 false).replies true) = true) ∧
    (s2.active 0 = true ∧
     (s2.mu 0 false).items = [MuItem.req (pf 1 Fmt.int8 [])] ∧
     (pf 1 Fmt.int8 []).performed = true ∧
     s2.upset = 0 ∧
     (pf 1 Fmt.int8 []).again = false ∧
     s2.canEmit 0 (muOuts false (pf 1 Fmt.int8 []).kind.replies (pf 1 Fmt.int8 []).cmpl) = true) ∧
    ((so 5).owner 0 = some 0 ∧
     (so 5).firstOpen 0 false MuFn.orders = some r1 ∧
     r1.st = ReqSt.ready ∧
     (∀ q ∈ ((so 5).mu 0 !false).reqs, q.num < r1.covers → q.performed = true)) ∧
    ((sq bw).owner 0 = some 0 ∧
     (((sq bw).firstOpen 0 false fun (x : MuFn) => x == MuFn.barw) = some bw) ∧
     bw.st = ReqSt.ready ∧
     bw.elems = [({ spot := Spot.spad 0 1600 } : Elem)] ∧
     ({ spot := Spot.spad 0 1600 } : Elem).spot = Spot.spad 0 1600 ∧
     ((sq bw).mu 0 false).stopAt = none ∧
     (sq bw).elemWaits 0 false bw 0 ({ spot := Spot.spad 0 1600 } : Elem) = false ∧
     (sq bw).raceOn (ptCl 0) = false ∧
     (sq bw).muReq 0 false bw.num = some bw ∧
     (memBits (sq bw).spad (spadKey 0 0 * 8 + 1600) 64).testBit 48 ≠ BitVec.getLsbD (bw.data.headD { }).payload 0) ∧
    ((sq bw2).owner 0 = some 0 ∧
     (((sq bw2).firstOpen 0 false fun (x : MuFn) => x == MuFn.barw) = some bw2) ∧
     bw2.st = ReqSt.ready ∧
     bw2.elems = [({ spot := Spot.spad 0 1600 } : Elem)] ∧
     ({ spot := Spot.spad 0 1600 } : Elem).spot = Spot.spad 0 1600 ∧
     ((sq bw2).mu 0 false).stopAt = none ∧
     (sq bw2).elemWaits 0 false bw2 0 ({ spot := Spot.spad 0 1600 } : Elem) = false ∧
     (sq bw2).raceOn (ptCl 0) = false ∧
     (sq bw2).muReq 0 false bw2.num = some bw2 ∧
     (memBits (sq bw2).spad (spadKey 0 0 * 8 + 1600) 64).testBit 48 = BitVec.getLsbD (bw2.data.headD { }).payload 0) ∧
    ((sWk 65536).walks[0]? = some (wk 65536) ∧
     (sWk 65536).walkRuns 0 (wk 65536) = true ∧ (sWk 65536).walkCut (wk 65536) = none ∧
     (sWk 65536).walkVa (wk 65536).root (wk 65536).va =
       some (((sWk 65536).walkVa 65536 262144).getD { root := 0, va := 0, size := 0, w0 := 0, w1 := 0 })) ∧
    ((sWk 131072).walks[0]? = some (wk 131072) ∧
     (sWk 131072).walkRuns 0 (wk 131072) = true ∧ (sWk 131072).walkCut (wk 131072) = none ∧
     (sWk 131072).walkVa (wk 131072).root (wk 131072).va = none ∧
     (wk 131072).agent ≠ 0) ∧
    ((∃ k ∈ s3.cooldown, s3.coolOver 3 4 k = true) ∧ (∀ k ∈ (sWk 0).cooldown, (sWk 0).coolOver 3 4 k = false)) ∧
    (paHbm 4800 = true) ∧
    ((sq fr).muReq 0 false 9 = some fr ∧
     (sq fr).owner 0 = some 0 ∧
     ((sq fr).ctx 0).st.fires = true ∧
     fr.elems[0]? = some ({ spot := Spot.phys ((2 ^ 44 + 4096 * 2) * 8) Fmt.int8 0 false } : Elem) ∧
     fr.st = ReqSt.ready ∧
     ({ spot := Spot.phys ((2 ^ 44 + 4096 * 2) * 8) Fmt.int8 0 false } : Elem).done = false ∧
     fr.hold = false ∧
     fr.kind ≠ MuFn.pref ∧
     ({ spot := Spot.phys ((2 ^ 44 + 4096 * 2) * 8) Fmt.int8 0 false } : Elem).spot =
       Spot.phys ((2 ^ 44 + 4096 * 2) * 8) Fmt.int8 0 false ∧
     paFar ((2 ^ 44 + 4096 * 2) * 8 / 8) = true) :=
  by refine ⟨?_, ?_, ?_, ?_, ?_, ?_, ?_, ?_, ?_, ?_⟩ <;> decide +kernel

end MemoryReplies


/-! ### Quorums -/

namespace Quorums

def qs3 : Word64 := BitVec.ofNat 64 ((1<<<31) + (7 <<< 26) + (3 <<< 20) + 0x420)
def qo (fn : Nat) (rep : List (Nat × Word64 × List Byte) := []) : QOp := {id := 4, fn := fn, qset := qs3, off := 960, ctx := 5, die := 0, payload := List.replicate 40 7, flags := 3, version := 9, phase := .reading, replies := rep}
def sQ (q : QOp) (mem : List Host.Cell := []) (w : List QWrite := []) : State := { ctxs := [(0, {region with layout := []})], cur := .event, tiles := [(0, {})], qops := [q], qwrites := w, mem := mem, dies := [(0, { up := true }), (1, { up := true }), (2, { up := true })], regs := [(regKey 0 0x6C 0, 0x8000000000000000), (regKey 1 0x6C 0, 0x8000000000000000), (regKey 2 0x6C 0, 0x8000000000000000)]}
def qw (tag : Word64) : QWrite := {op := some 4, copy := 1, stack := 2, off := 960, tag := tag, bytes := List.replicate 40 7}
def putNat (m : List Host.Cell) (a n v : Nat) : List Host.Cell := (List.range n).foldl (fun m k => memSet m (a + k) (BitVec.ofNat 8 (v / 256^k))) m
def mm1 : List Host.Cell := putNat [] (2*2^36+960+40) 8 (5 * 2^20 + 16*3)
def s1 : State := sQ (qo 8) mm1 [qw (BitVec.ofNat 64 (6*2^20))]
def s2 : State := sQ (qo 8) mm1 []
def q2 := qo 8 [(0, BitVec.ofNat 64 (3*2^20), [])]
def rqq : MuReq := { fn := 8, ty := .int8, rnd := .rne, imm := 0, cmpl := true, lt := [], count := 2, coords := [5], data := [tok 0x1235, tok 0x5678], elems := [{spot := .nowhere}], st := .ready, num := 9, covers := 0 }
def q3 := {qo 8 with lost := [0], who := some (0,false,9)}
def sQ3 : State := {sQ q3 with tiles := [(0, {mu0 := {cfg := BitVec.ofNat _ (1 + (1 <<< 84)), items := [.req rqq]}})]}

theorem witness_quorumEvents :
    (s1.qop 4 = some (qo 8) ∧
     s1.qwrites[0]? = some (qw (BitVec.ofNat 64 (6 * 2 ^ 20))) ∧
     (qw (BitVec.ofNat 64 (6 * 2 ^ 20))).op = some 4 ∧
     s1.stackUp (qo 8).die (qw (BitVec.ofNat 64 (6 * 2 ^ 20))).stack = true ∧
     (qw (BitVec.ofNat 64 (6 * 2 ^ 20))).bytes.length = 40 ∧
     Memory.wf s1.mem = true ∧ s1.upset = 0 ∧ s1.copyTurn (some 4) 1 (2 * 2 ^ 36 + 960) = true) ∧
    (s2.qop 4 = some (qo 8) ∧
     (qo 8).fn ≠ 9 ∧
     (qo 8).phase = QPhase.reading ∧
     (qo 8).finished = false ∧
     (qo 8).failed = 0 ∧
     (qo 8).lost = [] ∧
     1 ∈ qLive (qo 8).qset ∧
     (∀ r ∈ (qo 8).replies, r.1 ≠ 1) ∧
     s2.stackUp (qo 8).die (qStack (qo 8).qset 1) = true ∧
     s2.upset = 0 ∧ s2.copyTurn (some 4) 1 (qStack (qo 8).qset 1 * 2 ^ 36 + (qo 8).off) = true ∧
     s2.cellPoison (qStack (qo 8).qset 1 * 2 ^ 36 + (qo 8).off) = false ∧
     (qo 8).chosen = false ∧
     qCount (qo 8).qset / 2 + 1 ≤ (qLive (qo 8).qset).length ∧
     (qo 8).replies.length + 1 < qCount (qo 8).qset / 2 + 1) ∧
    ((sQ q2 mm1).qop 4 = some q2 ∧
     q2.fn ≠ 9 ∧
     q2.phase = QPhase.reading ∧
     q2.finished = false ∧
     q2.failed = 0 ∧
     q2.lost = [] ∧
     1 ∈ qLive q2.qset ∧
     (∀ r ∈ q2.replies, r.1 ≠ 1) ∧
     (sQ q2 mm1).stackUp q2.die (qStack q2.qset 1) = true ∧
     (sQ q2 mm1).upset = 0 ∧ (sQ q2 mm1).copyTurn (some 4) 1 (qStack q2.qset 1 * 2 ^ 36 + q2.off) = true ∧
     (sQ q2 mm1).cellPoison (qStack q2.qset 1 * 2 ^ 36 + q2.off) = false ∧
     q2.chosen = false ∧
     qCount q2.qset / 2 + 1 ≤ (qLive q2.qset).length ∧
     q2.fn = 8 ∧
     q2.replies.length + 1 = qCount q2.qset / 2 + 1 ∧
     (List.foldl (fun (a : ℕ) (t : BitVec 64) => a.max (fld t 20 44)) 0
            (List.map (fun (x : ℕ × Word64 × List Byte) => x.2.1) q2.replies ++
              [(sQ q2 mm1).cellTag (qStack q2.qset 1 * 2 ^ 36 + q2.off)]) +
          1 <
        2 ^ 44)) ∧
    (s2.qop 4 = some (qo 8) ∧
     (qo 8).fn ≠ 9 ∧
     (qo 8).phase = QPhase.reading ∧
     (qo 8).finished = false ∧
     (qo 8).failed = 0 ∧
     (qo 8).first.length < qCount (qo 8).qset / 2 + 1 ∧
     1 ∈ qLive (qo 8).qset ∧
     (∀ r ∈ (qo 8).replies, r.1 ≠ 1) ∧
     1 ∉ (qo 8).lost ∧
     qCount (qo 8).qset / 2 + 1 < (qo 8).avail.length) ∧
    (sQ3.qop 4 = some q3 ∧
     q3.fn ≠ 9 ∧
     q3.phase = QPhase.reading ∧
     q3.finished = false ∧
     q3.failed = 0 ∧
     q3.first.length < qCount q3.qset / 2 + 1 ∧
     1 ∈ qLive q3.qset ∧
     (∀ r ∈ q3.replies, r.1 ≠ 1) ∧
     1 ∉ q3.lost ∧
     q3.avail.length ≤ qCount q3.qset / 2 + 1 ∧
     q3.who = some (0, false, 9) ∧
     sQ3.muReq 0 false 9 = some rqq ∧
     sQ3.owner 0 = some 0 ∧
     (sQ3.ctx 0).st.fires = true) :=
  by refine ⟨?_, ?_, ?_, ?_, ?_⟩ <;> decide +kernel

end Quorums


/-! ### ElementResults -/

namespace ElementResults

def t5 : List Token := [tok 5]
noncomputable def i1 : Instr := .mul (.s 0) (.inp 0) (.inp 1)
def v1 : EView := one .mul (.s 0) (.inp 0) (.inp 1) .none
noncomputable def i2 : Instr := .dot4 (.out 0) (.inp 0) (.c 7) .zero
def v2 : EView := one .dot4 (.out 0) (.inp 0) (.c 7) .zero
noncomputable def i3 : Instr := .xor (.out 3) (.inp 0) (.s 7)
def v3 : EView := one .xor (.out 3) (.inp 0) (.s 7) .none
noncomputable def i4 : Instr := .shl (.out 0) (.inp 0) (.s 0)
def v4 : EView := one .shl (.out 0) (.inp 0) (.s 0) .none
noncomputable def i5 : Instr := .sela (.out 0) (.inp 0) .zero (.inp 2)
def v5 : EView := one .sela (.out 0) (.inp 0) .zero (.inp 2)
noncomputable def i6 : Instr := .mkab (.out 0) (.inp 0) (.inp 2)
def v6 : EView := one .mkab (.out 0) (.inp 0) (.inp 2) .none
noncomputable def i7 : Instr := .cntp (.s 1) (.inp 0) .zero
def v7 : EView := one .cntp (.s 1) (.inp 0) .zero .none
noncomputable def i8 : Instr := .cmpLtu (.out 0) (.inp 0) (.inp 1)
def v8 : EView := one .cmpLtu (.out 0) (.inp 0) (.inp 1) .none
noncomputable def i9 : Instr := .fcmpUn (.out 0) (.inp 0) .zero
def v9 : EView := one .fcmpUn (.out 0) (.inp 0) .zero .none
noncomputable def i10 : Instr := .pres (.out 0) (.inp 0)
def v10 : EView := one .pres (.out 0) (.inp 0) .none .none
noncomputable def i11 : Instr := .fadd (.out 0) (.inp 0) (.inp 1)
def v11 : EView := one .fadd (.out 0) (.inp 0) (.inp 1) .none
noncomputable def i12 : Instr := .fminp (.out 0) (.inp 0) (.s 1)
def v12 : EView := one .fminp (.out 0) (.inp 0) (.s 1) .none
noncomputable def i13 : Instr := .fcps (.out 0) (.inp 0) (.s 1)
def v13 : EView := one .fcps (.out 0) (.inp 0) (.s 1) .none
noncomputable def i14 : Instr := .cvt (.out 1) (.inp 0) .none .none (mt .cvt 0x10 .int8)
def v14 : EView := two .cvt (.out 1) (.inp 0) .none .none (mt .cvt 0x10 .int8)
noncomputable def i15 : Instr := .rnsf (.out 1) (.inp 0) (.s 1) (.s 2)
def v15 : EView := one .rnsf (.out 1) (.inp 0) (.s 1) (.s 2)
noncomputable def i16 : Instr := .qnt (.out 1) (.inp 0) (.inp 1) .none (mt .qnt 1 .mxint8)
def v16 : EView := two .qnt (.out 1) (.inp 0) (.inp 1) .none (mt .qnt 1 .mxint8)
noncomputable def i17 : Instr := .swz (.out 1) (.inp 0) .none (.s 0)
def v17 : EView := one .swz (.out 1) (.inp 0) .none (.s 0)
noncomputable def i18 : Instr := .pack2P (.out 1) (.inp 0) (.inp 1) (mt .pack 1 .int8)
def v18 : EView := two .pack (.out 1) (.inp 0) (.inp 1) .none (mt .pack 1 .int8)
noncomputable def i19 : Instr := .unpk2P (.out 1) (.inp 0) .none (mt .unpk 1 .int8)
def v19 : EView := two .unpk (.out 1) (.inp 0) .none .none (mt .unpk 1 .int8)
noncomputable def i20 : Instr := .bcast2P (.out 1) (.inp 0) (mt .bcast 63 .int8)
def v20 : EView := two .bcast (.out 1) (.inp 0) .none .none (mt .bcast 63 .int8)
def uS : Cu := { unit0 with sRegs := Vector.ofFn fun k => BitVec.ofNat 32 (k.val + 3) }
noncomputable def i21 : Instr := .drain2P (.out 1) (mt .drain 9 .int32)
def v21 : EView := two .drain (.out 1) .none .none .none (mt .drain 9 .int32)
def po (t : Token) : Token := { t with poison := true }
def unitP : Cu := { unit0 with ins := #v[[⟨po (tok 5), 1⟩], [⟨tok 4, 1⟩], [], [], [], []] }
def v22 : EView := one .add (.out 0) (.inp 0) (.inp 1) .none
noncomputable def i22 : Instr := .add (.s 2) (.inp 0) (.peek 1)
def v23 : EView := one .add (.s 2) (.inp 0) (.peek 1) .none
def mxs (k : Nat) (f : Nat → SlotSt) : State := { sCu with tiles := [(0, {cu0 := unit0, mx := {slots := Vector.ofFn fun j => {st := f j.val}}})] }
noncomputable def i23 : Instr := .oclm (.out 0)
def v24 : EView := one .oclm (.out 0) .none .none .none
def s1 : State := mxs 0 (fun k => if k = 15 then .free else .claimed)
def loopS (n : Nat) : LoopSt := { valid := 5, hold := 4, fault := 8, queue := List.replicate n (.hold 1), count := 11, running := true, states := [(0, tok 1), (2, tok 2)] }
def cfgL : Frame := BitVec.ofNat _ ((4 <<< 7) ||| (1 <<< 27) ||| (1 <<< 26) ||| (2 <<< 23) ||| (1 <<< 16))
def sRot (n : Nat) : State := { sCu with tiles := [(0, {cu0 := unit0, cu1 := {cfg := cfgL}})], ctxs := [(0, { region with loops := [(2, loopS n)]})] }
noncomputable def i24 : Instr := .rotp2P (.out 1) (mm .rotp 2)
def v25 : EView := two .rotp (.out 1) .none .none .none (mm .rotp 2)

theorem witness_integerResults :
    (elemView i1 = some v1 ∧
     Fires sCu 0 false v1 [tok 5, tok 5] ∧
     v1.op ∈ [EOp.mul, EOp.mulh, EOp.mulhu, EOp.mad]) ∧
    (elemView i2 = some v2 ∧
     Fires sCu 0 false v2 [tok 5] ∧
     v2.op = EOp.dot4) :=
  ⟨⟨by decide +kernel, by constructor <;> decide +kernel, by decide +kernel⟩,
    ⟨by decide +kernel, by constructor <;> decide +kernel, by decide +kernel⟩⟩

theorem witness_bitResults :
    ((elemView i3 = some v3 ∧
      v3.op ∈ [EOp.and, EOp.or, EOp.xor, EOp.not, EOp.andn]) ∧
     Fires sCu 0 false v3 [tok 5]) ∧
    ((elemView i4 = some v4 ∧
      v4.op ∈ [EOp.shl, EOp.shr, EOp.sar, EOp.rol, EOp.clz, EOp.popc]) ∧
     Fires sCu 0 false v4 [tok 5]) ∧
    (elemView i5 = some v5 ∧
     Fires sCu 0 false v5 [tok 5, tok 5] ∧
     v5.op ∈ [EOp.sel, EOp.sela]) ∧
    (elemView i6 = some v6 ∧
     Fires sCu 0 false v6 [tok 5, tok 5] ∧
     v6.op ∈ [EOp.fill, EOp.mkab]) ∧
    (elemView i7 = some v7 ∧
     Fires sCu 0 false v7 [tok 5] ∧
     v7.op = EOp.cntp) :=
  ⟨⟨by decide +kernel, by constructor <;> decide +kernel⟩,
    ⟨by decide +kernel, by constructor <;> decide +kernel⟩,
    ⟨by decide +kernel, by constructor <;> decide +kernel, by decide +kernel⟩,
    ⟨by decide +kernel, by constructor <;> decide +kernel, by decide +kernel⟩,
    ⟨by decide +kernel, by constructor <;> decide +kernel, by decide +kernel⟩⟩

theorem witness_conditionResults :
    (elemView i8 = some v8 ∧
     Fires sCu 0 false v8 [tok 5, tok 5] ∧
     ((natBits v8.m.imm.toNat 2 2 ≠ 0 → sCu.canCtl 0 false ↑v8.zp = true) ∧
      v8.op ∈ [EOp.cmpEq, EOp.cmpNe, EOp.cmpLt, EOp.cmpLe, EOp.cmpLtu, EOp.cmpLeu])) ∧
    (elemView i9 = some v9 ∧
     Fires sCu 0 false v9 [tok 5] ∧
     ((natBits v9.m.imm.toNat 2 2 ≠ 0 → sCu.canCtl 0 false ↑v9.zp = true) ∧
      v9.op ∈ [EOp.fcmpEq, EOp.fcmpNe, EOp.fcmpLt, EOp.fcmpLe, EOp.fcmpUn] ∧
      isFloat v9.m.ty = true)) ∧
    (elemView i10 = some v10 ∧
     Fires sCu 0 false v10 [tok 5] ∧
     ((natBits v10.m.imm.toNat 2 2 ≠ 0 → sCu.canCtl 0 false ↑v10.zp = true) ∧
      v10.op = EOp.pres)) :=
  ⟨⟨by decide +kernel, by constructor <;> decide +kernel, by decide +kernel⟩,
    ⟨by decide +kernel, by constructor <;> decide +kernel, by decide +kernel⟩,
    ⟨by decide +kernel, by constructor <;> decide +kernel, by decide +kernel⟩⟩

theorem witness_floatingPointResults :
    (elemView i11 = some v11 ∧
     Fires sCu 0 false v11 [tok 5, tok 5] ∧
     (isFloat v11.m.ty = true ∧
      v11.op ∈ [EOp.fadd, EOp.fsub, EOp.fmul, EOp.ffma, EOp.ffms, EOp.fnma])) ∧
    (elemView i12 = some v12 ∧
     Fires sCu 0 false v12 [tok 5] ∧
     (isFloat v12.m.ty = true ∧
      v12.op ∈ [EOp.fmin, EOp.fmax, EOp.fminp, EOp.fmaxp])) ∧
    (elemView i13 = some v13 ∧
     Fires sCu 0 false v13 [tok 5] ∧
     (isFloat v13.m.ty = true ∧
      v13.op ∈ [EOp.fneg, EOp.fabs, EOp.fcps])) :=
  ⟨⟨by decide +kernel, by constructor <;> decide +kernel, by decide +kernel⟩,
    ⟨by decide +kernel, by constructor <;> decide +kernel, by decide +kernel⟩,
    ⟨by decide +kernel, by constructor <;> decide +kernel, by decide +kernel⟩⟩

theorem witness_specialAndConversionResults :
    (elemView i14 = some v14 ∧
     Fires sCu 0 false v14 t5 ∧
     (v14.op = EOp.cvt ∧
      fmtWidth v14.m.ty ≤ fmtWidth (ifmtOf (natBits v14.m.imm.toNat 0 4)) ∧
      ((natBits v14.m.imm.toNat 4 3 + if (sCu.opnds 0 false v14).b.given = true then 1 else 0) <
         fmtWidth (ifmtOf (natBits v14.m.imm.toNat 0 4)) / fmtWidth v14.m.ty))) ∧
    (elemView i15 = some v15 ∧
     Fires sCu 0 false v15 t5 ∧
     v15.op = EOp.rnsf) ∧
    (elemView i16 = some v16 ∧
     Fires sCu 0 false v16 [tok 5, tok 5] ∧
     (v16.op = EOp.qnt ∧
      natBits v16.m.imm.toNat 0 2 * (32 * fmtWidth v16.m.ty) + 32 * fmtWidth v16.m.ty ≤ 512)) :=
  ⟨⟨by decide +kernel, by constructor <;> decide +kernel, by decide +kernel⟩,
    ⟨by decide +kernel, by constructor <;> decide +kernel, by decide +kernel⟩,
    ⟨by decide +kernel, by constructor <;> decide +kernel, by decide +kernel⟩⟩

theorem witness_tokenMovementResults :
    (elemView i17 = some v17 ∧
     Fires sCu 0 false v17 t5 ∧
     v17.op = EOp.swz) ∧
    (elemView i18 = some v18 ∧
     Fires sCu 0 false v18 [tok 5, tok 5] ∧
     v18.op = EOp.pack) ∧
    (elemView i19 = some v19 ∧
     Fires sCu 0 false v19 t5 ∧
     v19.op = EOp.unpk) ∧
    (elemView i20 = some v20 ∧
     Fires sCu 0 false v20 t5 ∧
     v20.op = EOp.bcast) :=
  ⟨⟨by decide +kernel, by constructor <;> decide +kernel, by decide +kernel⟩,
    ⟨by decide +kernel, by constructor <;> decide +kernel, by decide +kernel⟩,
    ⟨by decide +kernel, by constructor <;> decide +kernel, by decide +kernel⟩,
    ⟨by decide +kernel, by constructor <;> decide +kernel, by decide +kernel⟩⟩

theorem witness_reductionResults :
    (elemView i21 = some v21 ∧
     Fires (sCu uS) 0 false v21 [] ∧
     (v21.op = EOp.drain ∧
      v21.m.imm.toNat % 4 = 1)) ∧
    ((Fmt.fp32 = Fmt.fp32 ∨ Fmt.fp32 = Fmt.int32) ∧
     [(5, 1), (5, 0)].Perm [(5, 0), (5, 1)]) ∧
    ((Fmt.fp32 = Fmt.fp32 ∨ Fmt.fp32 = Fmt.int32) ∧
     [(absentOf Fmt.fp32, 1)].Perm [(absentOf Fmt.fp32, 1)]) :=
  ⟨⟨by decide +kernel, by constructor <;> decide +kernel, by decide +kernel⟩,
    by decide +kernel,
    by decide +kernel⟩

theorem witness_poisonTravelsOrFaults :
    (Instr.add (Dst.out 0) (Src.inp 0) (Src.inp 1) = Instr.add (Dst.out 0) (Src.inp 0) (Src.inp 1) ∨
       Instr.add (Dst.out 0) (Src.inp 0) (Src.inp 1) = Instr.fadd (Dst.out 0) (Src.inp 0) (Src.inp 1) ∨
         Instr.add (Dst.out 0) (Src.inp 0) (Src.inp 1) = Instr.xor (Dst.out 0) (Src.inp 0) (Src.inp 1) ∨
           Instr.add (Dst.out 0) (Src.inp 0) (Src.inp 1) = Instr.sub (Dst.out 0) (Src.inp 0) (Src.inp 1) ∨
             Instr.add (Dst.out 0) (Src.inp 0) (Src.inp 1) = Instr.mul (Dst.out 0) (Src.inp 0) (Src.inp 1)) ∧
    elemView (Instr.add (Dst.out 0) (Src.inp 0) (Src.inp 1)) = some v22 ∧
    (sCu unitP).cur = Agent.cu 0 false ∧
    (sCu unitP).cuReady 0 false = true ∧
    (sCu unitP).owner 0 = some 0 ∧
    (sCu unitP).heads 0 false v22 = some [po (tok 5), tok 4] ∧
    v22.markOf [po (tok 5), tok 4] = none ∧
    v22.mixed [po (tok 5), tok 4] = false ∧
    (sCu unitP).outsReady 0 false v22 = true ∧
    (sCu unitP).upset = 0 ∧
    (∃ t ∈ [po (tok 5), tok 4], t.poison = true) ∧
    (∀ (k : Fin 8), Dst.out 0 ≠ Dst.s k) := by decide +kernel

theorem witness_elementInstructionsFrame :
    elemView i22 = some v23 ∧
    sCu.cur = Agent.cu 0 false ∧
    goesOn (exec i22 sCu) = true ∧
    v23.op ≠ EOp.oclm := by decide +kernel

theorem witness_matrixTokenAndSlotResults :
    elemView i23 = some v24 ∧
    Fires s1 0 false v24 [] ∧
    (v24.op = EOp.oclm ∧
     ((s1.mx 0).slots[(fun (i : Fin 16) => i) ⟨15, Nat.le_refl 16⟩].st = SlotSt.free) ∧
     (∀ j < (fun (i : Fin 16) => i) ⟨15, Nat.le_refl 16⟩, (s1.mx 0).slots[j].st ≠ SlotSt.free)) :=
  ⟨by decide +kernel, by constructor <;> decide +kernel, by decide +kernel⟩

theorem witness_rotationInstructionResults :
    elemView i24 = some v25 ∧
    Fires (sRot 3) 0 false v25 [] ∧
    ((sRot 3).owner 0 = some 0 ∧
     v25.op = EOp.rotp) :=
  ⟨by decide +kernel, by constructor <;> decide +kernel, by decide +kernel⟩

end ElementResults

/-! ### More clauses of the compute units -/

namespace More

def po (t : Token) : Token := { t with poison := true }
def bar (n : Nat) : Token := { kind := .barrier, payload := BitVec.ofNat 512 n, residue := residueOf (BitVec.ofNat 512 n) }
def unitP : Cu := { unit0 with ins := #v[[⟨po (tok 5), 1⟩], [⟨tok 4, 1⟩], [], [], [], []] }
def unitB (a b : Token) : Cu := { unit0 with ins := #v[[⟨a, 1⟩], [⟨b, 1⟩], [], [], [], []] }
/-- The unit's turn with this instruction, its inputs there, a poisoned token among them. -/
def poisonTurn (i : Instr) (v : EView) (s : State) : Bool :=
  (elemView i == some v) && i.wf && (s.cur == .cu 0 false) && s.cuReady 0 false && (s.owner 0 == some 0) && (s.upset == 0) &&
  (match s.heads 0 false v with
    | some hs => (v.markOf hs == none) && !v.mixed hs && hs.any (·.poison)
    | none => false) &&
  (gate v.m.qg (s.ctlHead 0 false (s.cu 0 false).qgport) == .fire)
def badHead (s : State) (x : Src) : Bool := (s.srcHead 0 false x).any fun t => !t.isMark && t.poison

theorem witness_poisonTravelsOrFaults :
    (let i : Instr := .fadd2P (.out 0) (.inp 0) (.inp 1) (mt .fadd 0 .fp32)
     let v := two .fadd (.out 0) (.inp 0) (.inp 1) .none (mt .fadd 0 .fp32)
     poisonTurn i v (sCu unitP) = true ∧ v.op ∈ resultOps ∧ (sCu unitP).outsReady 0 false v = true ∧ writesS v = [] ∧
       ¬(v.op ∈ condOps ∧ natBits v.m.imm.toNat 2 2 ≠ 0)) ∧
    (let i : Instr := .cvt (.s 3) (.inp 0) .none .none (mt .cvt 0x11 .fp32)
     let v := two .cvt (.s 3) (.inp 0) .none .none (mt .cvt 0x11 .fp32)
     poisonTurn i v (sCu unitP) = true ∧ v.op ∈ resultOps ∧ (sCu unitP).outsReady 0 false v = true ∧ writesS v ≠ [] ∧
       ¬(v.op ∈ condOps ∧ natBits v.m.imm.toNat 2 2 ≠ 0)) ∧
    (let i : Instr := .cmpEq2P (.out 0) (.inp 0) (.inp 1) (mt .cmpEq 4 .int32)
     let v := two .cmpEq (.out 0) (.inp 0) (.inp 1) .none (mt .cmpEq 4 .int32)
     poisonTurn i v (sCu unitP) = true ∧ v.op ∈ resultOps ∧ (sCu unitP).outsReady 0 false v = true ∧
       (v.op ∈ condOps ∧ natBits v.m.imm.toNat 2 2 ≠ 0) ∧ (sCu unitP).canCtl 0 false v.zp.val = true) ∧
    (let i : Instr := .emitq (.inp 0)
     let v := one .emitq .none (.inp 0) .none .none
     poisonTurn i v (sCu unitP) = true ∧ v.op = .emitq ∧ (sCu unitP).outsReady 0 false v = true ∧
       (sCu unitP).canCtl 0 false (natBits v.m.imm.toNat 6 2) = true) ∧
    (let i : Instr := .jtab (.inp 0) (mm .jtab 4)
     let v := two .jtab .none (.inp 0) .none .none (mm .jtab 4)
     poisonTurn i v (sCu unitP) = true ∧ v.op = .jtab) ∧
    (let i : Instr := .reptc2P (.out 1) (.inp 1) (.inp 0) (mm .reptc 0)
     let v := two .reptc (.out 1) (.inp 1) (.inp 0) .none (mm .reptc 0)
     poisonTurn i v (sCu unitP) = true ∧ v.op = .reptc ∧ badHead (sCu unitP) v.b = true) ∧
    (let i : Instr := .rept (.s 1) (.inp 0) (mm .rept 3)
     let v := two .rept (.s 1) (.inp 0) .none .none (mm .rept 3)
     poisonTurn i v (sCu unitP) = true ∧ v.op = .rept ∧ badHead (sCu unitP) v.a = true ∧ v.sdest ≠ [] ∧
       (sCu unitP).outsReady 0 false v = true) ∧
    (let i : Instr := .merge (.s 1) (.inp 0) (.inp 1)
     let v := one .merge (.s 1) (.inp 0) (.inp 1) .none
     poisonTurn i v (sCu unitP) = true ∧ v.op = .merge ∧ (sCu unitP).outsReady 0 false v = true ∧ v.sdest ≠ [] ∧
       (sCu unitP).ctlHead 0 false (Fin.ofNat 4 (v.m.imm.toNat % 4)) = some true ∧ badHead (sCu unitP) v.a = true) ∧
    (let i : Instr := .steer2P (.s 1) (.inp 0) (mm .steer 8)
     let v := two .steer (.s 1) (.inp 0) .none .none (mm .steer 8)
     poisonTurn i v (sCu unitP) = true ∧ v.op = .steer ∧ v.sdest ≠ [] ∧
       (sCu unitP).canEmit 0 ((v.outs ++ [natBits v.m.imm.toNat 2 2]).dedup.map (outCode false)) = true ∧
       (sCu unitP).ctlHead 0 false (Fin.ofNat 4 (v.m.imm.toNat % 4)) = some true ∧ badHead (sCu unitP) v.a = true) ∧
    (let i : Instr := .gate (.s 1) (.inp 0)
     let v := one .gate (.s 1) (.inp 0) .none .none
     poisonTurn i v (sCu unitP) = true ∧ v.op = .gate ∧ (sCu unitP).outsReady 0 false v = true ∧ v.sdest ≠ [] ∧
       (sCu unitP).ctlHead 0 false (Fin.ofNat 4 (v.m.imm.toNat % 4)) = some true ∧ badHead (sCu unitP) v.a = true) := by
  refine ⟨?_, ?_, ?_, ?_, ?_, ?_, ?_, ?_, ?_, ?_⟩ <;> decide +kernel

/-- MERGE with one mark at both heads; REPT at its first firing with a mark, with a gate of the other value, with none. -/
theorem witness_steeringResults :
    (let s := sCu (unitB (bar 3) (po (bar 4)))
     let v := one .merge (.out 1) (.inp 0) (.inp 1) .none
     (elemView (.merge (.out 1) (.inp 0) (.inp 1)) = some v ∧ s.cur = .cu 0 false ∧ s.cuReady 0 false = true ∧
       (0 : Fin 4).val = v.m.imm.toNat % 4 ∧ (tok 5).poison = false ∧ s.upset = 0) ∧
     v.op = .merge ∧ s.outsReady 0 false v = true ∧ s.srcHead 0 false v.a = some (bar 3) ∧ s.srcHead 0 false v.b = some (po (bar 4)) ∧
       (bar 3).kind = .barrier ∧ (po (bar 4)).kind = .barrier) ∧
    (let s := sCu (unitB (bar 3) (po (bar 4)))
     let v := two .reptc (.out 1) (.inp 0) (.inp 1) .none (mm .reptc 0)
     (elemView (.reptc2P (.out 1) (.inp 0) (.inp 1) (mm .reptc 0)) = some v ∧ s.cur = .cu 0 false ∧ s.cuReady 0 false = true ∧
       (s.cu 0 false).reptDone = 0) ∧
     v.op ∈ [EOp.rept, .reptc] ∧ s.heads 0 false v = some [bar 3, po (bar 4)] ∧ v.consumed ≠ [] ∧
       (∀ t ∈ [bar 3, po (bar 4)], t.kind = .barrier) ∧ s.outsReady 0 false v = true) ∧
    (let s := sCu unitF
     let v := two .rept (.out 1) (.inp 0) .none .none (mm .rept 3 .qt)
     (elemView (.rept (.out 1) (.inp 0) (mm .rept 3 .qt)) = some v ∧ s.cur = .cu 0 false ∧ s.cuReady 0 false = true ∧
       (s.cu 0 false).reptDone = 0) ∧
     v.op ∈ [EOp.rept, .reptc] ∧ (∀ hs ∈ s.heads 0 false v, v.markOf hs = none) ∧ v.m.qg = .qt ∧
       s.ctlHead 0 false (s.cu 0 false).qgport = some false) ∧
    (let s := sCu { unit0 with qs := Vector.replicate 4 [] }
     let v := two .rept (.out 1) (.inp 0) .none .none (mm .rept 3 .qf)
     (elemView (.rept (.out 1) (.inp 0) (mm .rept 3 .qf)) = some v ∧ s.cur = .cu 0 false ∧ s.cuReady 0 false = true ∧
       (s.cu 0 false).reptDone = 0) ∧
     (∀ hs ∈ s.heads 0 false v, v.markOf hs = none) ∧ v.m.qg ≠ .none ∧ s.ctlHead 0 false (s.cu 0 false).qgport = none) ∧
    (let s := sCu { unit0 with reptDone := 2 }
     let v := two .rept (.s 1) (.inp 0) .none .none (mm .rept 3)
     elemView (.rept (.s 1) (.inp 0) (mm .rept 3)) = some v ∧ s.cuReady 0 false = true ∧ s.upset = 0 ∧
       s.heads 0 false v = some [tok 5] ∧ v.mixed [tok 5] = false ∧ v.d = .s 1 ∧ v.m.imm.toNat ≤ (s.cu 0 false).reptDone + 1 ∧
       s.outsReady 0 false v = true) := by
  refine ⟨?_, ?_, ?_, ?_, ?_⟩ <;> decide +kernel

/-- What is combined: nothing present, a NaN, plain sums, extremes with and without a value that is a number. -/
theorem witness_reductionResults :
    (let vs (t : Fmt) (xs : List Nat) : List Nat := xs.filter fun x => !(isAbsent t x)
     let nan (t : Fmt) (x : Nat) : Bool := isFloat t && isNan t x
     (∀ x ∈ [absentOf Fmt.int32], x < 2 ^ fmtWidth .int32) ∧ vs .int32 [absentOf Fmt.int32] = [] ∧
     ((∀ x ∈ [0x7FC00000, 5], x < 2 ^ fmtWidth .fp32) ∧ vs .fp32 [0x7FC00000, 5] ≠ [] ∧
       (vs .fp32 [0x7FC00000, 5]).any (nan .fp32) = true ∧ (vs .fp32 [0x7FC00000, 5]).all (nan .fp32) = false) ∧
     (vs .fp32 [0x3F800000, 5] ≠ [] ∧ (vs .fp32 [0x3F800000, 5]).any (nan .fp32) = false) ∧
     (vs .int8 [7, 255] ≠ [] ∧ isFloat .int8 = false ∧ ∀ x ∈ [7, 255], x < 2 ^ fmtWidth .int8) ∧
     (vs .fp32 [0x7FC00000] ≠ [] ∧ (vs .fp32 [0x7FC00000]).all (nan .fp32) = true)) := by
  decide +kernel

/-- JTAB with an index above its table, and with an entry that names no landing pad of its label. -/
theorem witness_sequencerResults :
    (let v := two .jtab .none (.inp 0) .none .none (mm .jtab 4)
     let s := sCu { unit0 with pos := 0 }
     elemView (.jtab (.inp 0) (mm .jtab 4)) = some v ∧ s.cur = .cu 0 false ∧ s.cuReady 0 false = true ∧ s.upset = 0 ∧
       s.heads 0 false v = some [tok 5] ∧ v.markOf [tok 5] = none ∧ v.mixed [tok 5] = false ∧ (tok 5).poison = false ∧
       (4 : Int) ≤ (BitVec.ofNat 32 (s.opVal 0 false v.a).scalar).toInt ∧ s.owner 0 = some 0) ∧
    (let v := two .jtab .none (.inp 0) .none .none (mm .jtab 6)
     let s := sCu { unit0 with pos := 0, store := List.replicate 48 0x00039CE7 }
     let x := (BitVec.ofNat 32 (s.opVal 0 false v.a).scalar).toInt
     elemView (.jtab (.inp 0) (mm .jtab 6)) = some v ∧ s.cur = .cu 0 false ∧ s.cuReady 0 false = true ∧ s.upset = 0 ∧
       s.heads 0 false v = some [tok 5] ∧ 0 ≤ x ∧ x < 6 ∧ s.owner 0 = some 0 ∧
       ¬((s.cu 0 false).startsAt (natBits (fld (s.cu 0 false).cfg (128 + 16 * x.toNat) 16) 10 6) = true ∧
         (s.cu 0 false).parcel (natBits (fld (s.cu 0 false).cfg (128 + 16 * x.toNat) 16) 10 6) =
           BitVec.ofNat 32 (0x610E7 * 2 ^ 10 + fld (s.cu 0 false).cfg (128 + 16 * x.toNat) 16 % 2 ^ 10))) := by
  refine ⟨?_, ?_⟩ <;> decide +kernel

/-- The last sink of a region's step: an input that only its unit reads, and a memory unit's request input. -/
def sSink (q : BufId) (more : Ctx → Ctx := id) : State :=
  { ctxs := [(0, more { region with sinks := [sinkKey 0 (bufCode q)], stepOn := true, stepNo := 3, timeline := 7 })]
    tiles := [(0, { cu0 := { cfg := 0 }, mu0 := { cfg := 1 } })], arriving := [(q, eos)] }
def twoSinks (x : Ctx) : Ctx :=
  { x with sinks := [sinkKey 0 (bufCode (.mu 0 false)), 5], sinksDone := [5], loops := [(2, { running := true, stopped := true }), (3, {})] }

theorem witness_tokensTravel :
    (let q : BufId := .cuIn 0 false 2
     let s := sSink q
     let x := s.ctx 0
     s.active 0 = true ∧ s.owner 0 = some 0 ∧ takeArriving q s.arriving = some (eos, []) ∧
       checkToken (s.driver 0 (bufCode q) false) eos = none ∧ s.slotPort 0 false 2 = none ∧ (s.cu 0 false).ins[2] = [] ∧
       s.portOf 0 false 2 = (false, 0) ∧ (s.cu 0 false).mask 2 = 1 ∧ sinkKey 0 (bufCode q) ∈ x.sinks ∧
       tgetD x.stale (sinkKey 0 (bufCode q)) 0 = 0 ∧ x.stepOn = true ∧
       (∀ z ∈ x.sinks, z = sinkKey 0 (bufCode q) ∨ z ∈ x.sinksDone) ∧ (∀ l ∈ x.loops, l.2.running = true → l.2.stopped = true)) ∧
    (let q : BufId := .mu 0 false
     let s := sSink q twoSinks
     let x := s.ctx 0
     s.active 0 = true ∧ s.owner 0 = some 0 ∧ takeArriving q s.arriving = some (eos, []) ∧
       checkToken (s.driver 0 (bufCode q) false) eos = none ∧ (s.mu 0 false).buf = [] ∧ sinkKey 0 (bufCode q) ∈ x.sinks ∧
       tgetD x.stale (sinkKey 0 (bufCode q)) 0 = 0 ∧ x.stepOn = true ∧
       (∀ z ∈ x.sinks, z = sinkKey 0 (bufCode q) ∨ z ∈ x.sinksDone) ∧ (∀ l ∈ x.loops, l.2.running = true → l.2.stopped = true)) := by
  refine ⟨?_, ?_⟩ <;> decide +kernel

/-- R39: it is so: the step of `sSink` ends, and the timeline steps from 7 to 8. -/
theorem test_step_ends : after (exec (.tokenArrive (.cuIn 0 false 2)) (sSink (.cuIn 0 false 2)))
    (fun t => !(t.ctx 0).stepOn && (t.ctx 0).stepNo == 4 && (t.ctx 0).timeline == 8) = true := by decide +kernel
/-- R403: poison that would reach a control token is consumed: FCODE POISON. -/
theorem test_emitq_poison : after (exec (.emitq (.inp 0)) (sCu unitP))
    (fun t => (t.ctx 0).st == .faulted && (t.ctx 0).fcode == 0x08 && t.ctlArriving.isEmpty) = true := by decide +kernel
/-- R240: the mark at both heads passes once, with the poison of either. -/
theorem test_reptc_mark : after (exec (.reptc2P (.out 1) (.inp 0) (.inp 1) (mm .reptc 0)) (sCu (unitB (bar 3) (po (bar 4)))))
    (fun t => t.flights.map (·.tok) == [po (bar 3)] && (t.cu 0 false).ins[0].isEmpty && (t.cu 0 false).ins[1].isEmpty) = true := by
  decide +kernel

end More


/-! ### Various -/

namespace Various

def sE : State := { sCu with elasticCtl := [(.elasticCtl 0 0x24, [true, false])], tiles := [(0, {sw := { ctl := [(0, BitVec.ofNat 32 ((0x24 <<< 26) + (0x24 <<< 20) + 1))] }})] }
def wz : CtlP2 := { wsem := 0, wthr := 0, wc := false, ssem := 6, sinc := 0, scope := .cluster }
def q3 : DieQueue := { inbound := [([1], [true], 8192*2+130)] }
def sQ3 : State := {dies := [(0, {queues := [(3, q3)]})], regs := [(regKey 2 0x6C 0, 0x8000000000000000), (regKey 0 0x6C 0, 0x8000000000000000)]}
abbrev sup := supId 0
def sMg : State := { ctxs := [(5, {region with place := ⟨0,0,8⟩, launch := some 0}), (sup, ctl {} (fun k => if k = 4 then 5 else 9))], cur := .ctl sup, dies := [(0, {up := true})], launches := [(0, {groups := [(1, {use := 1, members := [5]})]})], regs := [(regKey 0 0x56 3, 0x8000000000000005)] }
def stg (t : Option Nat := none) : Stage := { pipeline := 0, cur := 0, region := 0, fullsem := 4, emptysem := 5, cap := 8, rungs := [⟨0,1,1,1⟩, ⟨40,2,1,1⟩] , wide := true, target := t, mark := 8, high := 4, low := 3}
def laP (t : Option Nat := none) : Launch := {cfg := List.replicate 80 0, regions := [5, 6], stages := [stg t]}
def sPp : State := { sX 5 {ctl with launch := some 0} with launches := [(0, laP)], clusters := [(0, {sems := [(4,6)]})], cycle := 3000 + (Config.cycleSkew 0).val}

theorem witness_tokensTravel :
    sE.elasticCtlOf (BufId.elasticCtl 0 36) = [true, false] ∧
    (sE.reachCtl maxHops 0 36).all sE.credit = true := by decide +kernel

theorem witness_dieQueues :
    (sQ3.dieQueue 0 3).inbound = [([1], [true], 8192 * 2 + 130)] ∧
    sQ3.queueReach (8192 * 2 + 130) 0 = true ∧
    sQ3.homeCl (8192 * 2 + 130) / 6 ≠ 0 := by decide +kernel

theorem witness_supervisorCommands :
    Issues sMg sup wz ∧
    (isSupId sup = true ∧
     BitVec.toNat ((sMg.ctx sup).getX 4) = 5 ∧
     isRegionId 5 = true ∧
     sMg.finds 5 = true ∧
     sMg.mayMigrate 5 (BitVec.toNat ((sMg.ctx sup).getX 5) % 128) = true ∧
     BitVec.toNat ((sMg.ctx sup).getX 5) % 128 ≠ (sMg.ctx 5).place.anchor) :=
  ⟨by constructor <;> decide +kernel, by decide +kernel⟩

theorem witness_pipelineEvents :
    tget sPp.launches 0 = some laP ∧ laP.stages[0]? = some stg ∧ sPp.dieCycle (sPp.ctxDie (laP.stageCtx stg)) % 1000 = 0 ∧
    tget sPp.sampled (pipeKey 0) ≠ some sPp.cycle ∧ stg.cap ≠ 0 := by
  have h : sPp.dieCycle 0 = 3000 := by unfold State.dieCycle; exact Nat.add_sub_cancel _ _
  refine ⟨by decide +kernel, by decide +kernel, ?_, by simp [sPp, sX], by decide +kernel⟩
  rw [show sPp.ctxDie (laP.stageCtx stg) = 0 from by decide +kernel, h]

end Various


/-! ### Steps -/

namespace Steps

def wz : CtlP2 := { wsem := 0, wthr := 0, wc := false, ssem := 6, sinc := 0, scope := .cluster }
def label3 : Nat := 0x610E7 * 1024 + 3
def jtCu : Cu := { unit0 with ins := #v[[⟨tok 0, 1⟩], [], [], [], [], []], store := (List.replicate 47 0xFFFFFFFF) ++ [BitVec.ofNat 32 label3], cfg := BitVec.ofNat _ ((47 * 1024 + 3) <<< 128), pos := 0}
noncomputable def i1 : Instr := .jtab (.inp 0) (mm .jtab 15)
def v1 : EView := two .jtab .none (.inp 0) .none .none (mm .jtab 15)
def rq (fn : Nat) (sp : Spot) : MuReq := { fn := fn, ty := .int8, rnd := .rne, imm := 0, cmpl := true, lt := [], count := 2, coords := [5], data := [tok 0x1234, tok 0x5678], elems := [{spot := sp}], st := .ready, num := 9, covers := 0 }
def sq (r : MuReq) : State := { ctxs := [(0, region)], cur := .event, tiles := [(0, {mu0 := {cfg := 1, items := [.req r]}})], dies := [(0, {up := true, stackOff := [0]})] }
def s1 : State := sq (rq 0 (.phys (2^40) .int8 0 false))
def lt1 (sp : Nat) : List Word64 := [0, BitVec.ofNat 64 ((3 <<< 28) + (3 <<< 24) + (1 <<< 8) + sp), BitVec.ofNat 64 ((4096 <<< 32) + 1), 0, 0, 0, 0, 0]
def lay : Tbl (List Word64) := [(0, lt1 1)]
def cfgL : Frame := BitVec.ofNat _ ((4 <<< 7) ||| (1 <<< 27) ||| (1 <<< 26) ||| (2 <<< 23) ||| (1 <<< 16))
def sLd : State := { sX 5 (ctl {layout := lay, launch := some 0} (fun k => if k = 5 then 256 + 5 * 2^32 + 2 * 2^48 else 0)) with tiles := [(0, {cu0 := {cfg := cfgL}})], spad := [(0, 1)] }
def rm := (sLd.rotldRead 5 ((sLd.ctx 5).getX 4) ((sLd.ctx 5).getX 5)).getD (⟨[], []⟩, [])
def sSt (t : Turn) (f : State → State := id) : State := f { sCu {unit0 with store := 0x08008867 :: List.replicate 47 0xFFFFFFFF, pos := 0} with sched := [t], cur := .event }
def s2 : State := sSt (.cu 0 false)
def sMu : State := sSt (.mu 0 false) (fun s => {s with tiles := [(0, {mu0 := {cfg := BitVec.ofNat _ (0x10000000 * 2^32 + 0x60039CE7)}})]})
def sMx : State := sSt (.mx 0) (fun s => {s with tiles := [(0, {mx := {queue := [.tok 0x0FDE610031420000 false]}})]})
noncomputable def mb : Instr := .mmaBf16 { mm1 := 31, nm1 := 15, kg := 3, koff := 0, acc := true, tile := false, dfmt := false, blk := false, int := false, aclm := 0x31, bclm := 0x42 }
def sCt (c : Nat) (code : List Parcel) : State := {ctxs := [(c, {ctl with code := code, pc := 0})], sched := [.ctl c]}
def lic : List Parcel := [0x83020000, 0, 0x1234]
def s3 : State := sCt (supId 0) lic
noncomputable def s4 : State := {sCt 5 [] with sched := [.op (.hostLinkError .down)]}

theorem witness_sequencerResults :
    elemView i1 = some v1 ∧
    (sCu jtCu).cur = Agent.cu 0 false ∧
    (sCu jtCu).cuReady 0 false = true ∧
    v1.op = EOp.jtab ∧
    (sCu jtCu).heads 0 false v1 = some [tok 0] ∧
    v1.markOf [tok 0] = none ∧
    v1.mixed [tok 0] = false ∧
    (∀ t ∈ [tok 0], t.poison = false) ∧
    0 ≤ (BitVec.ofNat 32 ((sCu jtCu).opVal 0 false v1.a).scalar).toInt ∧
    (BitVec.ofNat 32 ((sCu jtCu).opVal 0 false v1.a).scalar).toInt < ↑v1.m.imm.toNat % 16 ∧
    natBits
        (fld ((sCu jtCu).cu 0 false).cfg
          (128 + 16 * (BitVec.ofNat 32 ((sCu jtCu).opVal 0 false v1.a).scalar).toInt.toNat) 16)
        10 6 <
      48 ∧
    ((sCu jtCu).cu 0 false).parcel
        (natBits
          (fld ((sCu jtCu).cu 0 false).cfg
            (128 + 16 * (BitVec.ofNat 32 ((sCu jtCu).opVal 0 false v1.a).scalar).toInt.toNat) 16)
          10 6) =
      BitVec.ofNat 32
        (397543 * 2 ^ 10 +
          fld ((sCu jtCu).cu 0 false).cfg
              (128 + 16 * (BitVec.ofNat 32 ((sCu jtCu).opVal 0 false v1.a).scalar).toInt.toNat) 16 %
            2 ^ 10) := by decide +kernel

theorem witness_memoryAccesses :
    Accesses s1 0 false 9 0 0 (rq 0 (Spot.phys (2 ^ 40) Fmt.int8 0 false))
      ({ spot := Spot.phys (2 ^ 40) Fmt.int8 0 false } : Elem) ∧
    (s1.memWf = true ∧
     s1.spotFault (ptDie 0) ({ spot := Spot.phys (2 ^ 40) Fmt.int8 0 false } : Elem).spot [] = some (2 ^ 37, 32) ∧
     (rq 0 (Spot.phys (2 ^ 40) Fmt.int8 0 false)).kind ∉ [MuFn.barw, MuFn.bara, MuFn.pref] ∧
     (rq 0 (Spot.phys (2 ^ 40) Fmt.int8 0 false)).plainAt ({ spot := Spot.phys (2 ^ 40) Fmt.int8 0 false } : Elem) = true ∧
     (s1.ctx 0).st.fires = true) :=
  ⟨⟨by constructor <;> decide +kernel, by decide +kernel⟩, by decide +kernel⟩

theorem witness_rotationAndPipelineCommands :
    Issues sLd 5 wz ∧
    (sLd.rotldRead 5 ((sLd.ctx 5).getX 4) ((sLd.ctx 5).getX 5) = some (rm.1, rm.2) ∧
     sLd.rotldTarget 5 (fld ((sLd.ctx 5).getX 5) 32 16) = true ∧
     sLd.loopEntry (fld ((sLd.ctx 5).getX 5) 32 16) (fld ((sLd.ctx 5).getX 5) 48 3) ≠ none ∧
     (sLd.loopOf (fld ((sLd.ctx 5).getX 5) 32 16) (fld ((sLd.ctx 5).getX 5) 48 3)).takesLoad = true ∧
     (sLd.loopOf (fld ((sLd.ctx 5).getX 5) 32 16) (fld ((sLd.ctx 5).getX 5) 48 3)).saves = false ∧
     rm.1.fits rm.2 (sLd.loopSlots (fld ((sLd.ctx 5).getX 5) 32 16) (fld ((sLd.ctx 5).getX 5) 48 3)) = true ∧
     sLd.raceOn (sLd.homeCl 5) = false) :=
  ⟨by constructor <;> decide +kernel, by decide +kernel⟩

theorem witness_scalarArithmetic :
    Issues (sX 5) 5 wz := by constructor <;> decide +kernel

theorem witness_stepRunsTheDecodedInstruction :
    (s2.shutdown = false ∧
     s2.sched = [Turn.cu 0 false] ∧
     s2.cuReady 0 false = true ∧
     Decode.elem (List.take 3 (List.drop (s2.cu 0 false).pos (s2.cu 0 false).store)) =
       Except.ok (Instr.fadd (Dst.out 1) (Src.inp 2) (Src.inp 3), 1)) ∧
    (sMu.shutdown = false ∧
     sMu.sched = [Turn.mu 0 false] ∧
     sMu.active 0 = true ∧
     (sMu.mu 0 false).cfg ≠ 0 ∧
     Decode.mem (BitVec.ofNat 32 (fld (sMu.mu 0 false).cfg 0 32)) (BitVec.ofNat 32 (fld (sMu.mu 0 false).cfg 32 32)) =
       Except.ok (Instr.ld { ty := Fmt.bf16, rnd := Rnd.rne, imm := 0 })) ∧
    (sMx.shutdown = false ∧
     sMx.sched = [Turn.mx 0] ∧
     sMx.active 0 = true ∧
     (sMx.mx 0).queue.head? = some (MxEntry.tok 1143458008852987904 false) ∧
     Decode.mx 1143458008852987904 = Except.ok mb) ∧
    (s3.shutdown = false ∧
     s3.sched = [Turn.ctl (supId 0)] ∧
     (s3.ctx (supId 0)).runs = true ∧
     isSupId (supId 0) = true ∧
     Decode.ctl (List.drop (s3.ctx (supId 0)).pc (s3.ctx (supId 0)).code) =
       Except.ok (Instr.li 2 { wsem := 0, wthr := 0, wc := false, ssem := 0, sinc := 0, scope := Scope.cluster } 4660, 3) ∧
     (Instr.li 2 { wsem := 0, wthr := 0, wc := false, ssem := 0, sinc := 0, scope := Scope.cluster } 4660).wf = true) ∧
    ((sCt 5 lic).shutdown = false ∧
     (sCt 5 lic).sched = [Turn.ctl 5] ∧
     ((sCt 5 lic).ctx 5).runs = true ∧
     fld (((sCt 5 lic).ctx 5).code.getD ((sCt 5 lic).ctx 5).pc 0) 24 6 ≠ 28 ∧
     Decode.ctl (List.drop ((sCt 5 lic).ctx 5).pc ((sCt 5 lic).ctx 5).code) =
       Except.ok (Instr.li 2 { wsem := 0, wthr := 0, wc := false, ssem := 0, sinc := 0, scope := Scope.cluster } 4660, 3) ∧
     (Instr.li 2 { wsem := 0, wthr := 0, wc := false, ssem := 0, sinc := 0, scope := Scope.cluster } 4660).wf = true) ∧
    ((sCt 5 []).shutdown = false ∧
     (sCt 5 []).sched = [Turn.ctl 5] ∧
     ((sCt 5 []).ctx 5).runs = true ∧
     isSupId 5 = false ∧
     fld (((sCt 5 []).ctx 5).code.getD ((sCt 5 []).ctx 5).pc 0) 24 6 ≠ 28 ∧
     Decode.ctl (List.drop ((sCt 5 []).ctx 5).pc ((sCt 5 []).ctx 5).code) = Except.error DecodeError.tooShort) ∧
    (s4.shutdown = false ∧
     s4.sched = [Turn.op (Instr.hostLinkError HostErr.down)]) :=
  by refine ⟨?_, ?_, ?_, ?_, ?_, ?_, ?_⟩ <;> decide +kernel

end Steps


/-! ### HostAndLinks -/

namespace HostAndLinks

def sR : State := { hostUp := true, ctxs := [(5, region)], tiles := [(5, {})], regs := [(regKey 0 0x6B 0, 0x1F), (regKey 0 0x60 109, 0x8800000000000000)] }
def lk (v : Word64) (k : Nat) (f : State → State := id) : State := f { sR with regs := [(regKey 0 0x6C k, v)] }
def ptm : List Host.Cell := [(0,1),(1,0x20),(0x2000,1),(0x2001,0x40),(0x4000,0x1F),(0x400F,0x30)]
def sB : State := {hostUp := true, mem := ptm}
def sF (r : Bool) : State := {sR with ports := [(1, {st := 2, inReset := r})], launches := [(3, {fn := 1, live := [5], regions := [5]})], ctxs := [(5, {region with launch := some 3})]}
def s1 : State := lk 0x80000000FFFF0001 22
def s2 : State := lk 0x0 22 (fun s => {s with training := [(0,22)]})
def tst (b : Bool) : SelfTest := {die := 0, bank := none, loc := 0, src := 10, addr := 5, started := b}
def s3 : State := {sR with tests := [tst false], ctxs := [(5, {region with place := ⟨0,0,7⟩})]}
def s4 : State := {sR with tests := [tst true]}

theorem witness_hostAndLinkEvents :
    (0 < 8 ∧
     22 < regCount 0 108 ∧
     16 < 17 ∧
     ((lk 0 22).port 16).inReset = false ∧
     (lk 0 22).hostUp = true ∧
     Memory.wf (lk 0 22).mem = true ∧
     0 + [1, 2].length ≤ 2 ^ 30 ∧
     (lk 0 22).barRun (BitVec.toNat ((lk 0 22).reg 0 88 16)) true [1, 2].length 0 = none) ∧
    ((lk 0 22).hostUp = true ∧
     2 ^ 40 < 2 ^ 40 - 1 + [1, 2].length ∧
     ((sF true).port 1).inReset = true ∧ (sF true).hostUp = true) ∧
    (facing 0 0 = some (1, 1) ∧
     (0, 0) ∈ ({ sR with training := [(0, 0)] } : State).training ∧
     liveLanes (fld (({ sR with training := [(0, 0)] } : State).reg 1 0x6C 1) 0 16) ≠ 0) ∧
    (0 < 8 ∧
     22 < regCount 0 108 ∧
     0 < 17 ∧
     (sB.port 0).inReset = false ∧
     sB.hostUp = true ∧
     Memory.wf sB.mem = true ∧
     sB.barRun (BitVec.toNat (sB.reg 0 88 0)) false [1, 2].length 32768 = some [32768, 32769] ∧
     [32768, 32769].Nodup) ∧
    (0 < 8 ∧
     22 < regCount 0 108 ∧
     1 ≤ 1 ∧
     1 < 17 ∧
     ((sF false).port 1).inReset = false) ∧
    (0 < 8 ∧
     22 < regCount 0 108 ∧
     1 ≤ 1 ∧
     1 < 17 ∧
     ((sF true).port 1).inReset = true) ∧
    (0 < 8 ∧
     22 < regCount 0 108 ∧
     sR.hostUp = true) ∧
    (0 < 8 ∧
     22 < regCount 0 108 ∧
     HostErr.correctable ∈ [HostErr.correctable, HostErr.uncorrectable]) ∧
    (0 < 8 ∧
     22 < regCount 0 108 ∧
     s1.linkUp 0 22 = true) ∧
    (0 < 8 ∧
     22 < regCount 0 108 ∧
     (0, 22) ∈ s2.training ∧
     fld (s2.reg 0 108 22) 0 16 = 0) ∧
    (0 < 8 ∧
     22 < regCount 0 108 ∧
     s3.testAt 0 0 = some (tst false) ∧
     (tst false).started = false ∧
     s3.blockFree (tst false) = true) ∧
    (0 < 8 ∧
     22 < regCount 0 108 ∧
     s4.testAt 0 0 = some (tst true) ∧
     (tst true).started = true) :=
  by refine ⟨?_, ?_, ?_, ?_, ?_, ?_, ?_, ?_, ?_, ?_, ?_, ?_⟩ <;> decide +kernel

/-- The host's worked case of R387: instance 17 of register 0x49 of die 3 stands at offset 0x01A4_8088 of BAR0. -/
theorem test_bar0_offset :
    ({ sR with vfs := [(3 * 36 + 17, { fcode := 0x5A, vcode := some 30 })] } : State).barByte 0 0 0x01A48088 = some 0x5A := by decide +kernel

end HostAndLinks


/-! ### Power -/

namespace Power

def cv : Tbl Word64 := [(regKey 0 0x4A 0, 0x0807060504030201), (regKey 0 0x4B 0, 0x30302f2e2d2c2b2a)]
def vs (x : Vf) (f : State → State := id) : State := f { State.reset with cur := .event, vfs := [(3, x)], regs := cv, hostUp := true}
def P0 := vs {}
def wv (a b c : Nat) : Word64 := BitVec.ofNat 64 (a + b*256 + c * 65536)
def P1 := vs {fcode := 60, vcode := some 30, st := 1, pend := some 100, step := some true}
def P2 : State := vs {fcode := 60} (fun s => {s with vfs := [(0, {fcode := 60, full := 40960, blocked := 10200})], cycle := 2731, tiles := [(3, {sw := {data := [(0, BitVec.ofNat 32 ((0x28 <<< 26) + (8 <<< 20) + 1)), (1, BitVec.ofNat 32 ((9 <<< 26) + (0x20 <<< 20) + 17))]}})]})
def P3 := vs {fcode := 100, vcode := some 30, want := some 5} (fun s => {s with vfs := s.vfs ++ [(4, {fcode := 100, want := some 7})] })
def P5 : State := {P3 with cycle := 4}
def P6 : State := vs {guard := true, fcode := 60} (fun s => {s with cycle := 4000})
def P7 : State := vs {} (fun s => {s with vfs := [(0, {current := true}),(3,{current := true})]})
def P4 (f : State → State := id) := vs {fcode := 60, vcode := some 30} (fun s => f {s with ctxs := [(0, {region with place := ⟨0,0,8⟩})], tiles := [(8, {})]})
def s1 : State := vs {stretch := true}
def s2 : State := vs {budget := some 40}

theorem witness_powerEvents :
    (0 < 8 ∧
     3 < 36 ∧
     tget P0.sampled (hostKey 0 72 3) ≠ some P0.cycle ∧
     (∀ b, (P0.vf 0 3).before = some b → b.1 ≠ P0.cycle) ∧
     (P0.vf 0 3).thermal = none ∧
     (P0.vf 0 3).budget = none ∧
     (P0.vf 0 3).current = false ∧
     (P0.vf 0 3).st = 0 ∧
     (P0.vf 0 3).step = none) ∧
    (0 < 8 ∧
     3 < 36 ∧
     (P1.vf 0 3).step = some true ∧
     (P1.vf 0 3).want = none) ∧
    (0 < 8 ∧
     0 < 36 ∧
     bit (P2.reg 0 72 0) 24 = true ∧
     P2.hasBorder 0 0 = true ∧
     (P2.vf 0 0).countsOk 1024 255 = true ∧
     (P2.vf 0 0).window + 4096 ≤ (P2.vf 0 0).clock P2.cycle ∧
     tget P2.sampled (freqKey 0 0) ≠ some P2.cycle) ∧
    (0 < 8 ∧
     0 < 36 ∧
     ({ P2.vf 0 0 with full := 10200, blocked := 40960 } : Vf).countsOk 255 1024 = true) ∧
    (0 < 8 ∧
     3 < 36 ∧
     (P5.vf 0 3).want = some 5 ∧
     (P5.vf 0 3).step = none ∧
     P5.guardAck 0 3 = false ∧
     (P5.vf 0 3).current = false ∧
     (P5.die 0).grants.1 ≠ P5.cycle ∧
     (∀ k < 36, P5.grantable 0 k = true → 5 ≤ (P5.vf 0 k).want.getD 0)) ∧
    (0 < 8 ∧
     3 < 36 ∧
     (P6.vf 0 3).guard = true ∧
     (P6.vf 0 3).want = none ∧
     (P6.vf 0 3).lastBurst + 256 ≤ (P6.vf 0 3).clock P6.cycle) ∧
    (0 < 8 ∧
     3 < 36 ∧
     8 < 576 ∧
     P4.cycle % 10000 = 0 ∧
     tget P4.sampled (sensKey (0 * 576 + 8)) ≠ some P4.cycle) ∧
    (0 < 8 ∧
     3 < 36 ∧
     4 + 2 < P4.vreq 0 (P4.vf 0 3).fcode) ∧
    (0 < 8 ∧
     3 < 36 ∧
     (s1.vf 0 3).stretch = true) ∧
    (0 < 8 ∧
     3 < 36 ∧
     (P4.vf 0 0).current = false) ∧
    (0 < 8 ∧
     3 < 36 ∧
     (P7.vf 0 0).current = true) ∧
    (0 < 8 ∧
     3 < 36 ∧
     P4.cycle % 1000000 = 0 ∧
     tget P4.sampled powerKey ≠ some P4.cycle ∧
     fld (P4.reg 0 79 0) 0 14 * 1000 * 105 < 9000000 * 100) ∧
    (0 < 8 ∧
     3 < 36 ∧
     s2.cycle % 1000000 = 0 ∧
     tget s2.sampled powerKey ≠ some s2.cycle ∧
     7000000 < fld (s2.reg 0 79 0) 0 14 * 1000) ∧
    (0 < 8 ∧
     3 < 36 ∧
     0 < 65536) :=
  by refine ⟨?_, ?_, ?_, ?_, ?_, ?_, ?_, ?_, ?_, ?_, ?_, ?_, ?_, ?_⟩ <;> decide +kernel

end Power

/-! ### More commands and events -/

namespace MoreCommands

/-! #### O26, O27, O29 -/

def sWk : State := Waits.sS 5 { Waits.wt 4 true with preempt := some 3 }

theorem witness_waitsAndSignals :
    (sWk.ctx 5).st = .waiting ∧ (sWk.ctx 5).trapped = none ∧ (sWk.ctx 5).preempt ≠ none ∧
    (sWk.ctx 5).waitFor = .sem 5 4 true .cluster ∧ sWk.teamOut 5 (sWk.homeCl 5) 5 = none ∧
    sWk.condTurn 5 (.sem 5 4 true .cluster) = true ∧ 4 ≤ sWk.sem (sWk.homeCl 5) 5 := by decide +kernel

/-- The victim's step has ended, and a store of that step is not performed. -/
def sOwe : State := { Region.sL 5 Region.x3 [(6, { Region.y6 with stepOn := false, stepNo := 1, place := ⟨0, 0, 1⟩ })] with
  tiles := [(1, { mu0 := { cfg := 1, items := [.req Waits.held] } })] }

theorem witness_regionCommands :
    Issues sOwe 5 (Region.ws 3) ∧ InLaunch sOwe 5 0 Region.la ∧
    (isRegionId 5 = true ∧ BitVec.toNat ((sOwe.ctx 5).getX 5) = 6 ∧ 6 ∈ Region.la.regions ∧ (sOwe.ctx 5).stealSent = false ∧
     (sOwe.ctx 5).stealGot = none ∧ (sOwe.ctx 6).stepOn = false ∧ sOwe.covered 6 (sOwe.ctx 6).stepNo .device = false ∧
     (sOwe.ctx 6).launch = some 0 ∧ (sOwe.ctx 6).st ∉ [CtxSt.faulted, .retired, .free]) :=
  ⟨by constructor <;> decide +kernel, by constructor <;> decide +kernel, by decide +kernel⟩

/-- Element `n` has been written in the present CYCLE. -/
def sXb (n : Nat) (v : Word64) : State :=
  { clusters := [(0, { xbar := { counts := [(3, 7)], writes := [(n, v, 9)] } })], sched := [.tick 1] }

theorem witness_eventCrossbar : ∀ n ∈ [0, 63, 64, 67, 95, 96, 111, 112, 175], ∀ k ∈ [0x800002, 0xF000000000000002],
    let v : Word64 := BitVec.ofNat 64 k
    (sXb n v).sched = .tick 1 :: [] ∧ (sXb n v).shutdown = false ∧ (sXb n v).found = [] ∧
    (∀ p ∈ (sXb n v).clusters, p.2.late = []) ∧ ((sXb n v).cl 0).xbar.writes = [(n, v, 9)] ∧ n < 176 := by decide +kernel

/-! #### O33, O34, O36 -/

def q2 : DieQueue := { entries := [(Queues.bs0, [false, true])] }
def sPk : State := Queues.sD (Queues.bind 5 6) q2
def sFar : State := { sPk with regs := [(regKey 3 0x52 3, Queues.bind 6 5)] }

theorem witness_dieQueues :
    (Issues sPk 5 (Queues.ws 3) ∧
     (sPk.raceOn (sPk.homeCl 5) = false ∧ bit (sPk.reg 0 0x52 3) 63 = true ∧ fld (sPk.reg 0 0x52 3) 0 16 = 5 ∧
      isSupId 5 = false ∧ sPk.queueReach 5 0 = true ∧ (sPk.dieQueue 0 3).entries = (Queues.bs0, [false, true]) :: [] ∧
      true ∈ [false, true].take 8)) ∧
    (Issues sFar 5 (Queues.ws 3) ∧
     (sFar.raceOn (sFar.homeCl 5) = false ∧ bit (sFar.reg (0x33 / 16 % 8) 0x52 (0x33 % 16)) 63 = true ∧
      fld (sFar.reg 3 0x52 3) 16 16 = 5 ∧ isSupId 5 = false ∧ sFar.queueReach 5 (0x33 / 16 % 8) = false)) :=
  ⟨⟨by constructor <;> decide +kernel, by decide +kernel⟩, ⟨by constructor <;> decide +kernel, by decide +kernel⟩⟩

/-- Stages of the issuer's own region and of region 6. -/
def sMap (x y : Ctx) : State :=
  { Queues.sPp x with
    ctxs := [(5, { x with launch := some 0 }), (6, { y with launch := some 0 })]
    launches := [(0, { regions := [5, 6], stages := [Queues.stg, { Queues.stg with region := 1 }] })] }
def laM : Launch := { regions := [5, 6], stages := [Queues.stg, { Queues.stg with region := 1 }] }
def own : Nat → Nat := fun _ => 0
def other : Nat → Nat := fun _ => 1
def sM1 : State := sMap (ctl { stepOn := true } own) region
def sM2 : State := sMap (ctl { quiet := true } other) { region with stepOn := false, quiet := true }
def sM3 : State := sMap (ctl { quiet := true } other) { region with stepOn := true }

theorem witness_rotationAndPipelineCommands :
    (Issues sM1 5 (Queues.ws 3) ∧ InLaunch sM1 5 0 laM ∧
     (laM.stages[((sM1.ctx 5).getX 4).toNat]? = some Queues.stg ∧ laM.stageCtx Queues.stg = 5 ∧ Queues.stg.target = none ∧
      1 < Queues.stg.rungs.length ∧ (sM1.ctx 5).stepOn = true)) ∧
    (Issues sM2 5 (Queues.ws 3) ∧ InLaunch sM2 5 0 laM ∧
     (laM.stages[((sM2.ctx 5).getX 4).toNat]? = some { Queues.stg with region := 1 } ∧
      laM.stageCtx { Queues.stg with region := 1 } = 6 ∧ (sM2.ctx 6).stepOn = false ∧ (sM2.ctx 6).quiet = true)) ∧
    (Issues sM3 5 (Queues.ws 3) ∧ InLaunch sM3 5 0 laM ∧
     (laM.stages[((sM3.ctx 5).getX 4).toNat]? = some { Queues.stg with region := 1 } ∧
      laM.stageCtx { Queues.stg with region := 1 } = 6 ∧ (sM3.ctx 6).stepOn = true)) :=
  ⟨⟨by constructor <;> decide +kernel, by constructor <;> decide +kernel, by decide +kernel⟩,
    ⟨by constructor <;> decide +kernel, by constructor <;> decide +kernel, by decide +kernel⟩,
    ⟨by constructor <;> decide +kernel, by constructor <;> decide +kernel, by decide +kernel⟩⟩

/-- The supervisor is to return from the trap of context `e`, with `v` in its register. -/
def sRt (cause v e : Nat) (x : Ctx) : State :=
  { ctxs := [(e, { x with launch := some 0, members := x.members.set 0 (some 1) }),
      (supId 0, ctl {} (fun k => if k = 4 then e else v))]
    cur := .ctl (supId 0)
    dies := [(0, { up := true, serving := some { cause := cause, ctx := e, info := 0 }, resume := some Supervisor.sp })]
    launches := [(0, { groups := [(1, { use := 1, members := [e] })] })]
    colls := [(7, { launch := 0, group := 1, op := 0, opr := 0, count := 4, root := 0, members := [e] })] }
def wt : Ctx := ctl { trapped := some causePromise } (fun _ => 0)
def ft : Ctx := { region with st := .faulted, fcode := 8, image := some 40, place := ⟨0, 0, 5⟩ }
def rp : Ctx := { ft with replay := some (3, {}) }

/-- What the cases of RETT have in common. -/
def returning (s : State) (cause e : Nat) : Bool :=
  (s.die 0).serving == some { cause := cause, ctx := e, info := 0 } && (s.die 0).resume == some Supervisor.sp &&
  ((s.ctx (supId 0)).getX 4).toNat % 65536 == e && !isSupId e

theorem witness_trapsAreServedAndReturned :
    (∀ v ∈ [0, 1, 2], let s := sRt causePromise v 5 { wt with st := .waiting }
      returning s causePromise 5 = true ∧ (s.ctx 5).st = .waiting ∧ (s.ctx (supId 0)).getX 5 = BitVec.ofNat 64 v) ∧
    (∀ v ∈ [0, 1, 2], let s := sRt causeFault v 5 ft
      returning s causeFault 5 = true ∧ (s.ctx 5).st = .faulted ∧ ({ cause := causeFault, ctx := 5, info := 0 } : TrapEnt).xlate = false ∧
      s.replayable 5 = false ∧ (s.ctx (supId 0)).getX 5 = BitVec.ofNat 64 v ∧ isRegionId 5 = true) ∧
    (let s := sRt causeFault 1 5 rp
     returning s causeFault 5 = true ∧ (s.ctx 5).st = .faulted ∧ s.replayable 5 = true ∧ (s.ctx (supId 0)).getX 5 = 1) ∧
    (let s := sRt causeFault 2 128 ft
     returning s causeFault 128 = true ∧ (s.ctx 128).st = .faulted ∧ isRegionId 128 = false ∧ (s.ctx (supId 0)).getX 5 = 2 ∧
     some 1 ∈ (s.ctx 128).members.toList ∧ s.coll 7 ≠ none) ∧
    Issues (sRt causePromise 1 5 wt) (supId 0) (Supervisor.ws 0) ∧ Issues (sRt causeFault 2 128 ft) (supId 0) (Supervisor.ws 0) ∧
    InLaunch (sRt causeFault 2 128 ft) 128 0 { groups := [(1, { use := 1, members := [128] })] } :=
  ⟨by decide +kernel, by decide +kernel, by decide +kernel, by decide +kernel, by constructor <;> decide +kernel,
    by constructor <;> decide +kernel, by constructor <;> decide +kernel⟩

/-- R419: a RETT that retires a FAULTED engine context takes it out of its group and fails the collective. -/
theorem test_rett_retires : after (exec (.rett 4 5 (Supervisor.ws 0)) (sRt causeFault 2 128 ft)) (fun t =>
    (t.ctx 128).st == .free && (t.group 0 1).members == [] && (t.coll 7).any (·.failed)) = true := by decide +kernel

/-! #### O42, O45, O46 -/

def fr63 : Frame := BitVec.ofNat _ (1 <<< 88)
def lxE (first : Bool) : Ctx := { Images.lx first 1 with frames := [(frameKey 0 0 0 63, fr63)] }
def sEnd (first : Bool) : State := Images.sL (lxE first) Images.c2

theorem witness_imageLoads : ∀ first ∈ [false, true], let s := sEnd first
    isRegionId 5 = true ∧ (s.ctx 5).st = .loading ∧ (s.ctx 5).preempt = none ∧ (s.ctx 5).loading = some (40, 1, first) ∧
    recordAt Images.c2 40 1 = some (BitVec.ofNat 64 (2 ^ 64 - 1), 0) ∧
    lowestUnit ((s.loadFrames 5 (s.ctx 5).frames).crossBad 5) = none ∧ (s.ctx 5).rollback = false ∧ (s.ctx 5).width ≤ 8 ∧
    (first = false → (s.ctx 5).hold = .load) := by decide +kernel

/-- ISECT as the stage, with a coordinate of 9 behind it on each input. -/
def cuF : Cu := { Rotation.cuE with
  store := encode (.isect2P (.out 0) (.inp 0) (.inp 1) (mt .isect 1 .int32)) ++ List.replicate 46 0xFFFFFFFF
  lastCoord := Vector.replicate 6 (some 9) }
def sFalls : State := { Rotation.s8 with tiles := [(4, { cu0 := cuF, cu1 := Rotation.cuJ, sw := Rotation.swE })] }

theorem witness_rotationArrivals :
    RotTurn sFalls 5 2 2 (4, false) ∧
    (bit (sFalls.loopOf 5 2).valid 2 = true ∧ bit (sFalls.loopOf 5 2).fault 2 = false ∧
     (¬((sFalls.loopOf 5 2).others 2).any (RotReq.leaves 2) = true) ∧ (sFalls.loopOf 5 2).heldAt 2 = false ∧
     tget (sFalls.loopOf 5 2).entries 2 = some (tok 7) ∧ sFalls.exitCredits 5 2 = true ∧ sFalls.stageTokens 5 2 = true) ∧
    (let u := sFalls.cu 4 false
     let state : Token := { ((tget (sFalls.loopOf 5 2).states 2).getD {}) with kind := .data }
     u.stageFalls u.loopView (u.stageVal state (some (tok 7))) = true ∧
     stageTok u.loopView (u.stageVal state (some (tok 7))) Token.mismatch = none) :=
  ⟨by constructor <;> decide +kernel, by decide +kernel, by decide +kernel⟩

def sdD : State := Loops.sd fun x => { x with hold := .drain 3, st := .draining }
def sdE : State := { (Loops.sd fun x => { x with hold := .ending false 3, st := .running }) with
  tiles := [(4, { cu0 := { Loops.cuE with qs := Vector.replicate 4 [] }, sw := Loops.swE })] }

theorem witness_loopEventsAndQuiescence :
    ((sdD.ctx 5).hold = .drain 3 ∧ (sdD.ctx 5).st = .draining ∧ (sdD.ctx 5).reassign = false ∧ (sdD.ctx 5).preempt = none ∧
     3 < sdD.cycle) ∧
    ((sdE.ctx 5).hold = .ending false 3 ∧ (sdE.ctx 5).st = .running ∧ (sdE.ctx 5).reassign = false ∧
     (sdE.ctx 5).preempt = none ∧ (sdE.ctx 5).holdSig.inc = 0 ∧ 3 < sdE.cycle ∧
     (sdE.countersZero 5 && (sdE.ctx 5).wasZero && !((sdE.ctx 5).changed.toList.any id)) = true) ∧
    (let x := (Loops.s6.loopOf 5 2)
     x.running = true ∧ x.stopped = false ∧ x.closedAt = none) := by
  have h (s : State) (k : Nat) (e : s.cycle = 128 + k) : 3 < s.cycle := by omega
  exact ⟨⟨by decide +kernel, by decide +kernel, by decide +kernel, by decide +kernel, h _ _ rfl⟩,
    ⟨by decide +kernel, by decide +kernel, by decide +kernel, by decide +kernel, by decide +kernel, h _ _ rfl, by decide +kernel⟩,
    by decide +kernel⟩

/-! #### O52, O53 -/

theorem witness_registerWrites :
    (∀ inst ∈ [1024, 1119, 1120, 1599], inst < regCount 0 0x56 ∧ ∀ o ∈ [WriteBy.host 0x81, .supervisor],
      sReg.canWrite o = true ∧ tget sReg.sampled (hostKey 0 0x56 inst) ≠ some sReg.cycle) ∧
    (∀ n ∈ [5, 6], let w : Word64 := BitVec.ofNat 64 n
      fld w 0 7 < 96 ∧ ((∃ k, k < 96 ∧ 1120 + k ≠ 1125 ∧ sReg.reg 0 0x56 (1120 + k) = BitVec.ofNat 64 (fld w 0 7)) ↔ n = 6)) ∧
    96 ≤ fld (96 : Word64) 0 7 ∧ (sReg.cl 0).raceNext = none := by decide +kernel

def sRep (k : Nat) : State := { HostAndLinks.s1 with replays := [(portKey 0 22, k)] }

theorem witness_hostAndLinkEvents :
    (22 < regCount 0 0x6C ∧ ∀ k ∈ [7, 8], (sRep k).linkUp 0 22 = true ∧ tgetD (sRep k).replays (portKey 0 22) 0 = k) ∧
    (∀ fn ∈ [0, 16], fn < 17 ∧ (sRep 0).hostUp = true ∧ Tbl.wf ((sRep 0).port fn).table = true ∧
      ((sRep 0).port fn).inReset = false) ∧
    (0x81 : BitVec 8) ≠ 0 ∧
    ({ sRep 0 with ports := [(16, { inReset := true })] } : State).hostUp = true ∧
    (({ sRep 0 with ports := [(16, { inReset := true })] } : State).port 16).inReset = true := by decide +kernel

end MoreCommands

end Sys2Proof.Tests
end

namespace Sys2Proof.Machine

/-! ## The one form of memory (O59)

Every operation of the model either leaves the three storages (`…_bytes`, an equation) or writes them in their one form
(`…_wf`).  One lemma per operation, in the order of the model; then the instructions and the step. -/

/-- The bytes of the three storages: physical memory, the scratchpads and operand memory (R4). -/
def State.bytes (s : State) : List Host.Cell × List Host.Cell × List Host.Cell := (s.mem, s.spad, s.opnd)

/-- Each of the three is in its one form. -/
def BytesWf (b : List Host.Cell × List Host.Cell × List Host.Cell) : Prop :=
  Memory.wf b.1 = true ∧ Memory.wf b.2.1 = true ∧ Memory.wf b.2.2 = true

theorem State.memWf_iff (s : State) : s.memWf = true ↔ BytesWf s.bytes := by
  simp [State.memWf, BytesWf, State.bytes, and_assoc]

@[simp] theorem State.bytes_eta (s : State) : (s.mem, s.spad, s.opnd) = s.bytes := (rfl)

@[simp] theorem State.bytes_ite (p : Prop) [Decidable p] (s t : State) :
    (if p then s else t).bytes = if p then s.bytes else t.bytes := apply_ite State.bytes p s t

/-- A fold keeps the bytes that each of its steps keeps. -/
@[simp] theorem foldl_bytes {α : Type} {f : State → α → State} (h : ∀ s a, (f s a).bytes = s.bytes) (l : List α) (s : State) :
    (l.foldl f s).bytes = s.bytes := by
  induction l generalizing s with
  | nil => rfl
  | cons a l ih => rw [List.foldl_cons, ih, h]

@[simp] theorem State.bytes_mk (cycle tiles ctxs mem spad opnd memPoison spadPoison opndPoison flights arriving ctlArriving elastic elasticCtl used returns clusters dies regs hwSet found msix l1 llc muTlb clTlb walks launches ports nextLaunch colls nextColl staged written nextImage retired vfs sensors noPlace overBudget tests testFence training attest hostUp shutdown retMem retLink cooldown rowActs completion replays sampled xlPend qops nextQop qwrites upset cur sched rr freeCtr) :
    (State.mk cycle tiles ctxs mem spad opnd memPoison spadPoison opndPoison flights arriving ctlArriving elastic elasticCtl used returns clusters dies regs hwSet found msix l1 llc muTlb clTlb walks launches ports nextLaunch colls nextColl staged written nextImage retired vfs sensors noPlace overBudget tests testFence training attest hostUp shutdown retMem retLink cooldown rowActs completion replays sampled xlPend qops nextQop qwrites upset cur sched rr freeCtr).bytes = (mem, spad, opnd) := (rfl)

@[simp] theorem bytesWf_mk (a b c : List Host.Cell) :
    BytesWf (a, b, c) ↔ Memory.wf a = true ∧ Memory.wf b = true ∧ Memory.wf c = true := Iff.rfl

@[simp] theorem State.wf_mem (s : State) (h : BytesWf s.bytes) : Memory.wf s.mem = true := h.1
@[simp] theorem State.wf_spad (s : State) (h : BytesWf s.bytes) : Memory.wf s.spad = true := h.2.1
@[simp] theorem State.wf_opnd (s : State) (h : BytesWf s.bytes) : Memory.wf s.opnd = true := h.2.2

/-- A fold keeps the one form that each of its steps keeps. -/
@[simp] theorem foldl_wf {α : Type} {f : State → α → State}
    (h : ∀ s a, BytesWf s.bytes → BytesWf (f s a).bytes) (l : List α) (s : State) (hs : BytesWf s.bytes) :
    BytesWf (l.foldl f s).bytes := by
  induction l generalizing s with
  | nil => exact hs
  | cons a l ih => exact ih _ (h s a hs)

/-- A fold over a state and an answer keeps the bytes that each of its steps keeps. -/
theorem foldl_fst_bytes {α β : Type} {f : State × β → α → State × β} (h : ∀ r a, (f r a).1.bytes = r.1.bytes)
    (l : List α) (r : State × β) : (l.foldl f r).1.bytes = r.1.bytes := by
  induction l generalizing r with
  | nil => rfl
  | cons a l ih => rw [List.foldl_cons, ih, h]

theorem memOrdered_filter {lo : Nat} (p : Host.Cell → Bool) (m : List Host.Cell) (h : memOrdered lo m = true) :
    memOrdered lo (m.filter p) = true := by
  induction m generalizing lo with
  | nil => rfl
  | cons c t ih =>
    obtain ⟨j, b⟩ := c
    simp only [memOrdered, Bool.and_eq_true, decide_eq_true_eq] at h
    obtain ⟨⟨hj, hb⟩, ht⟩ := h
    rw [List.filter_cons]
    split
    · simpa [memOrdered, hj, ih ht] using hb
    · exact memOrdered_mono _ (ih ht) (by omega)

/-- A part of a memory keeps the one form. -/
@[simp] theorem wf_filter (p : Host.Cell → Bool) (m : List Host.Cell) (h : Memory.wf m = true) :
    Memory.wf (m.filter p) = true := memOrdered_filter p m h

/-- Memories to which each step of a fold writes in the one form. -/
theorem wf_foldl {α : Type} {f : List Host.Cell → α → List Host.Cell}
    (h : ∀ m a, Memory.wf m = true → Memory.wf (f m a) = true) (l : List α) (m : List Host.Cell)
    (hm : Memory.wf m = true) : Memory.wf (l.foldl f m) = true := by
  induction l generalizing m with
  | nil => exact hm
  | cons a l ih => exact ih _ (h m a hm)

@[simp] theorem wf_memPaste (m : List Host.Cell) (lo n : Nat) (cs : List Host.Cell) (h : Memory.wf m = true) :
    Memory.wf (memPaste m lo n cs) = true :=
  wf_foldl (fun m _ hm => wf_memSet m _ _ hm) cs _ (wf_filter _ m h)

/-! ### What the operations leave of the storages: Ops -/

@[simp] theorem State.setTile_bytes (s : State) (pt t) : (s.setTile pt t).bytes = s.bytes := (rfl)

@[simp] theorem State.setCu_bytes (s : State) (pt u c) : (s.setCu pt u c).bytes = s.bytes := by simp [State.setCu]

@[simp] theorem State.setMu_bytes (s : State) (pt u m) : (s.setMu pt u m).bytes = s.bytes := by simp [State.setMu]

@[simp] theorem State.setAg_bytes (s : State) (pt g a) : (s.setAg pt g a).bytes = s.bytes := by simp [State.setAg]

@[simp] theorem State.setMx_bytes (s : State) (pt m) : (s.setMx pt m).bytes = s.bytes := (rfl)

@[simp] theorem State.setCtx_bytes (s : State) (c x) : (s.setCtx c x).bytes = s.bytes := (rfl)

@[simp] theorem State.modCtx_bytes (s : State) (c f) : (s.modCtx c f).bytes = s.bytes := (rfl)

@[simp] theorem State.touch_bytes (s : State) (pt k) : (s.touch pt k).bytes = s.bytes := by
  unfold State.touch; split <;> simp

@[simp] theorem State.spend_bytes (s : State) (b) : (s.spend b).bytes = s.bytes := (rfl)

@[simp] theorem State.free_bytes (s : State) (b) : (s.free b).bytes = s.bytes := by simp [State.free]

@[simp] theorem State.setElastic_bytes (s : State) (b ts) : (s.setElastic b ts).bytes = s.bytes := (rfl)

@[simp] theorem State.setElasticCtl_bytes (s : State) (b ts) : (s.setElasticCtl b ts).bytes = s.bytes := (rfl)

@[simp] theorem State.emit_bytes (s : State) (pt code t) : (s.emit pt code t).bytes = s.bytes := by simp [State.emit]

@[simp] theorem State.emitAll_bytes (s : State) (pt codes t) :
    (s.emitAll pt codes t).bytes = s.bytes := by simp [State.emitAll]

@[simp] theorem State.sendCtl_bytes (s : State) (pt bs v) :
    (s.sendCtl pt bs v).bytes = s.bytes := by simp [State.sendCtl]

@[simp] theorem State.emitCtl_bytes (s : State) (pt u k v) :
    (s.emitCtl pt u k v).bytes = s.bytes := by simp [State.emitCtl]

@[simp] theorem State.setReg_bytes (s : State) (die num inst v) : (s.setReg die num inst v).bytes = s.bytes := (rfl)

@[simp] theorem State.stamp_bytes (s : State) (key bits) : (s.stamp key bits).bytes = s.bytes := (rfl)

@[simp] theorem State.setDie_bytes (s : State) (d x) : (s.setDie d x).bytes = s.bytes := (rfl)

@[simp] theorem State.setCl_bytes (s : State) (k x) : (s.setCl k x).bytes = s.bytes := (rfl)

@[simp] theorem State.raise_bytes (s : State) (die t) : (s.raise die t).bytes = s.bytes := (rfl)

@[simp] theorem State.faultCtx_bytes (s : State) (c fcode tile unit pos) :
    (s.faultCtx c fcode tile unit pos).bytes = s.bytes := by
  unfold State.faultCtx; dsimp only; (repeat' split) <;> simp

@[simp] theorem State.unitFault_bytes (s : State) (pt unit fcode pos) :
    (s.unitFault pt unit fcode pos).bytes = s.bytes := by
  unfold State.unitFault; split <;> simp

@[simp] theorem State.errIrq_bytes (s : State) (die ctlInst inst ctx) :
    (s.errIrq die ctlInst inst ctx).bytes = s.bytes := by simp [State.errIrq]

@[simp] theorem State.askTest_bytes (s : State) (die bank loc src addr) :
    (s.askTest die bank loc src addr).bytes = s.bytes := by simp [State.askTest]

@[simp] theorem State.errCount_bytes (s : State) (die loc) :
    (s.errCount die loc).bytes = s.bytes := by simp [State.errCount]

@[simp] theorem State.recordGone_bytes (s : State) (die i) : (s.recordGone die i).bytes = s.bytes := (rfl)

@[simp] theorem State.errPlace_bytes (s : State) (die loc cls src type addr syn ctx) :
    (s.errPlace die loc cls src type addr syn ctx).bytes = s.bytes := by simp [State.errPlace]

@[simp] theorem State.errSignal_bytes (s : State) (die loc cls i ctx) :
    (s.errSignal die loc cls i ctx).bytes = s.bytes := by
  unfold State.errSignal; split <;> simp

@[simp] theorem State.errRecord_bytes (s : State) (die loc cls src type addr syn ctx) :
    (s.errRecord die loc cls src type addr syn ctx).bytes = s.bytes := (rfl)

@[simp] theorem State.errPut_bytes (s : State) (e) : (s.errPut e).bytes = s.bytes := by simp [State.errPut]

@[simp] theorem State.placeErrs_bytes (s : State) : (s.placeErrs).bytes = s.bytes := by simp [State.placeErrs]

@[simp] theorem State.tileRecord_bytes (s : State) (pt cls src type port syn elem) :
    (s.tileRecord pt cls src type port syn elem).bytes = s.bytes := (rfl)

@[simp] theorem State.consumePoison_bytes (s : State) (pt unit pos port) :
    (s.consumePoison pt unit pos port).bytes = s.bytes := by simp [State.consumePoison]

@[simp] theorem State.fresh_bytes (s : State) (w) : (s.fresh w).2.bytes = s.bytes := (rfl)

@[simp] theorem State.eccRecord_bytes (s : State) (die loc cls src type addr ctx) :
    (s.eccRecord die loc cls src type addr ctx).bytes = s.bytes := (rfl)

@[simp] theorem State.checkRecord_bytes (s : State) (pt cls src port predicted) :
    (s.checkRecord pt cls src port predicted).bytes = s.bytes := (rfl)

@[simp] theorem State.checked_bytes (s : State) (pt unit predicted) :
    (s.checked pt unit predicted).1.bytes = s.bytes := by
  unfold State.checked; split <;> simp

@[simp] theorem State.checkedOnce_bytes (s : State) (pt unit predicted) :
    (s.checkedOnce pt unit predicted).1.bytes = s.bytes := by
  unfold State.checkedOnce; split <;> simp

@[simp] theorem State.setVf_bytes (s : State) (die v x) : (s.setVf die v x).bytes = s.bytes := (rfl)

/-! ### What the operations leave of the storages: Sync -/

@[simp] theorem State.setGroup_bytes (s : State) (l g x) : (s.setGroup l g x).bytes = s.bytes := by
  unfold State.setGroup; split <;> simp

@[simp] theorem State.raceRestart_bytes (s : State) (cl) : (s.raceRestart cl).bytes = s.bytes := (rfl)

@[simp] theorem State.track_bytes (s : State) (cl c) : (s.track cl c).bytes = s.bytes := by simp [State.track]

@[simp] theorem State.raceAll_bytes (s : State) (f) : (s.raceAll f).bytes = s.bytes := (rfl)

@[simp] theorem State.raceRelease_bytes (s : State) (c o) :
    (s.raceRelease c o).bytes = s.bytes := by simp [State.raceRelease]

@[simp] theorem State.raceAcquire_bytes (s : State) (c o) : (s.raceAcquire c o).bytes = s.bytes := (rfl)

@[simp] theorem State.dropL1_bytes (s : State) (c sc) : (s.dropL1 c sc).bytes = s.bytes := (rfl)

@[simp] theorem State.acquire_bytes (s : State) (c sc o) : (s.acquire c sc o).bytes = s.bytes := (rfl)

@[simp] theorem State.xpulse_bytes (s : State) (cl src sel) :
    (s.xpulse cl src sel).bytes = s.bytes := by simp [State.xpulse]

@[simp] theorem State.setSem_bytes (s : State) (cl k n) : (s.setSem cl k n).bytes = s.bytes := (rfl)

@[simp] theorem State.trapAfter_bytes (s : State) (c cause info) :
    (s.trapAfter c cause info).bytes = s.bytes := by simp [State.trapAfter]

@[simp] theorem State.semNote_bytes (s : State) (cl k place) : (s.semNote cl k place).bytes = s.bytes := (rfl)

@[simp] theorem State.semAdd_bytes (s : State) (c cl k inc info) : (s.semAdd c cl k inc info).bytes = s.bytes := by
  unfold State.semAdd; split <;> simp

@[simp] theorem State.semInc_bytes (s : State) (c cl k inc info) :
    (s.semInc c cl k inc info).bytes = s.bytes := by simp [State.semInc]

@[simp] theorem State.monitor_bytes (s : State) (n) : (s.monitor n).bytes = s.bytes := by simp [State.monitor]

@[simp] theorem State.tick_bytes (s : State) (n) : (s.tick n).bytes = s.bytes := by simp [State.tick]

@[simp] theorem State.applyRel_bytes (s : State) (c e) : (s.applyRel c e).bytes = s.bytes := by
  unfold State.applyRel; split <;> simp

@[simp] theorem State.release_bytes (s : State) (c sc e) : (s.release c sc e).bytes = s.bytes := by simp [State.release]

@[simp] theorem State.releases_bytes (s : State) (c) : (s.releases c).bytes = s.bytes := by simp [State.releases]

@[simp] theorem State.signal_bytes (s : State) (c g) : (s.signal c g).bytes = s.bytes := by simp [State.signal]

@[simp] theorem State.complete_bytes (s : State) (c) : (s.complete c).bytes = s.bytes := by simp [State.complete]

@[simp] theorem State.completeBari_bytes (s : State) (c d m) :
    (s.completeBari c d m).bytes = s.bytes := by simp [State.completeBari]

@[simp] theorem State.snapMark_bytes (s : State) (pt u t) : (s.snapMark pt u t).bytes = s.bytes := by
  unfold State.snapMark; dsimp only; (repeat' split) <;> simp

@[simp] theorem State.stepEnd_bytes (s : State) (c) : (s.stepEnd c).bytes = s.bytes := by
  unfold State.stepEnd; dsimp only; split <;> simp

@[simp] theorem State.stepCheck_bytes (s : State) (c) : (s.stepCheck c).bytes = s.bytes := by simp [State.stepCheck]

@[simp] theorem State.headCheck_bytes (s : State) (pt code) : (s.headCheck pt code).bytes = s.bytes := by
  unfold State.headCheck; dsimp only; (repeat' split) <;> simp

/-! ### What the operations leave of the storages: Ports -/

@[simp] theorem State.takePort_bytes (s : State) (pt u k b) :
    (s.takePort pt u k b).bytes = s.bytes := by simp [State.takePort]

@[simp] theorem State.take_bytes (s : State) (pt u k) : (s.take pt u k).bytes = s.bytes := by simp [State.take]

@[simp] theorem State.ctlTake_bytes (s : State) (pt u k) : (s.ctlTake pt u k).bytes = s.bytes := by simp [State.ctlTake]

/-! ### What the operations leave of the storages: Operands -/

@[simp] theorem State.takeAll_bytes (s : State) (pt u ks) :
    (s.takeAll pt u ks).bytes = s.bytes := by simp [State.takeAll]

@[simp] theorem State.goto_bytes (s : State) (pt u i) : (s.goto pt u i).bytes = s.bytes := by simp [State.goto]

@[simp] theorem State.advance_bytes (s : State) (pt u len) :
    (s.advance pt u len).bytes = s.bytes := by simp [State.advance]

@[simp] theorem State.setS_bytes (s : State) (pt u k x) : (s.setS pt u k x).bytes = s.bytes := by simp [State.setS]

@[simp] theorem State.flag_bytes (s : State) (pt u f) : (s.flag pt u f).bytes = s.bytes := by simp [State.flag]

@[simp] theorem State.takeGate_bytes (s : State) (pt u q) : (s.takeGate pt u q).bytes = s.bytes := by
  unfold State.takeGate; split <;> simp

@[simp] theorem State.firedRegion_bytes (s : State) (pt u v f) : (s.firedRegion pt u v f).bytes = s.bytes := by
  unfold State.firedRegion; dsimp only; (repeat' split) <;> simp

@[simp] theorem State.fired_bytes (s : State) (pt u v f t) : (s.fired pt u v f t).bytes = s.bytes := by
  unfold State.fired; dsimp only; (repeat' split) <;> simp

@[simp] theorem State.fireData_bytes (s : State) (pt u v hs f) :
    (s.fireData pt u v hs f).bytes = s.bytes := by simp [State.fireData]

@[simp] theorem State.fireMark_bytes (s : State) (pt u v t) :
    (s.fireMark pt u v t).bytes = s.bytes := by simp [State.fireMark]

/-! ### What the operations leave of the storages: Fabric -/

@[simp] theorem State.residueError_bytes (s : State) (pt src port t) :
    (s.residueError pt src port t).bytes = s.bytes := (rfl)

@[simp] theorem State.checkFault_bytes (s : State) (pt src port type syn) :
    (s.checkFault pt src port type syn).bytes = s.bytes := by simp [State.checkFault]

@[simp] theorem State.land_bytes (s : State) (pt dest t) : (s.land pt dest t).bytes = s.bytes := by
  unfold State.land; dsimp only; (repeat' split) <;> simp

@[simp] theorem State.mxPull_bytes (s : State) (pt) : (s.mxPull pt).bytes = s.bytes := by
  unfold State.mxPull
  split
  · rfl
  · refine foldl_bytes (fun t _ => ?_) _ _
    split
    · split <;> simp
    · rfl

@[simp] theorem State.setLoop_bytes (s : State) (c l x) : (s.setLoop c l x).bytes = s.bytes := (rfl)

@[simp] theorem State.muSeen_bytes (s : State) (pt u) : (s.muSeen pt u).bytes = s.bytes := by simp [State.muSeen]

@[simp] theorem State.newHead_bytes (s s0 : State) (pt code) : (s.newHead s0 pt code).bytes = s.bytes := by
  simp [State.newHead]

theorem State.enter_bytes {s t : State} {b tok} (e : s.enter b tok = some t) : t.bytes = s.bytes := by
  cases b with
  | cuIn pt u k =>
    simp only [State.enter] at e
    split at e
    · split at e
      · rw [← Option.some.inj e]; simp
      · cases e
    · split at e
      · rw [← Option.some.inj e]; (repeat' split) <;> simp
      · cases e
  | mx pt =>
    simp only [State.enter] at e
    split at e
    · rw [← Option.some.inj e]; simp
    · cases e
  | mu pt u =>
    simp only [State.enter] at e
    split at e
    · rw [← Option.some.inj e]; split <;> simp
    · cases e
  | ag pt g =>
    simp only [State.enter] at e
    split at e
    · rw [← Option.some.inj e]; simp
    · cases e
  | elastic _ _ =>
    simp only [State.enter] at e
    split at e
    · rw [← Option.some.inj e]; simp
    · cases e
  | cuQ _ _ _ => cases e
  | elasticCtl _ _ => cases e

/-! ### What the operations leave of the storages: Command -/

@[simp] theorem State.trapCmd_bytes (s : State) (c cause) :
    (s.trapCmd c cause).bytes = s.bytes := by simp [State.trapCmd]

theorem State.condMet_bytes {s t : State} {c k v} (h : s.condMet c k = some (t, v)) : t.bytes = s.bytes := by
  cases k with
  | sem sm thr sub sc =>
    simp only [State.condMet, Option.ite_none_left_eq_some, Option.some.injEq, Prod.mk.injEq] at h
    obtain ⟨-, rfl, -⟩ := h
    simp
  | joined n sc =>
    simp only [State.condMet] at h
    split at h
    · obtain ⟨m, -, h⟩ := Option.map_eq_some_iff.mp h
      rw [← (Prod.mk.inj h).1]
      simp
    · exact absurd h (by simp)
  | none | replied w =>
    simp only [State.condMet, Option.some.injEq, Prod.mk.injEq] at h
    obtain ⟨rfl, -⟩ := h
    rfl
  | _ =>
    simp only [State.condMet, Option.ite_none_left_eq_some, Option.ite_none_right_eq_some, Option.some.injEq,
      Prod.mk.injEq] at h
    obtain ⟨-, rfl, -⟩ := h
    simp

@[simp] theorem State.waits_bytes (s : State) (c k) : (s.waits c k).bytes = s.bytes := (rfl)

@[simp] theorem State.finish_bytes (s : State) (c w len) : (s.finish c w len).bytes = s.bytes := by simp [State.finish]

@[simp] theorem State.holdCmd_bytes (s : State) (c w len h) : (s.holdCmd c w len h).bytes = s.bytes := (rfl)

@[simp] theorem State.branch_bytes (s : State) (c w target) :
    (s.branch c w target).bytes = s.bytes := by simp [State.branch]

@[simp] theorem State.unhold_bytes (s : State) (die) : (s.unhold die).bytes = s.bytes := (rfl)

@[simp] theorem State.retryFaults_bytes (s : State) (die) : (s.retryFaults die).bytes = s.bytes := (rfl)

/-! ### What the operations leave of the storages: Groups -/

@[simp] theorem State.heldArrivals_bytes (s : State) (l g) : (s.heldArrivals l g).bytes = s.bytes := by
  refine foldl_bytes (fun t m => ?_) _ _
  split
  · split <;> simp
  · rfl

@[simp] theorem State.leaveGroup_bytes (s : State) (c g) : (s.leaveGroup c g).bytes = s.bytes := by
  unfold State.leaveGroup; split <;> simp

@[simp] theorem State.collFail_bytes (s : State) (k fcode) : (s.collFail k fcode).bytes = s.bytes := by
  unfold State.collFail; split <;> simp

@[simp] theorem State.failColls_bytes (s : State) (c fcode) :
    (s.failColls c fcode).bytes = s.bytes := by simp [State.failColls]

@[simp] theorem State.lstat_bytes (s : State) (fn f) : (s.lstat fn f).bytes = s.bytes := (rfl)

@[simp] theorem State.leaveAll_bytes (s : State) (c) : (s.leaveAll c).bytes = s.bytes := by simp [State.leaveAll]

@[simp] theorem State.launchRetired_bytes (s : State) (c) : (s.launchRetired c).bytes = s.bytes := by
  unfold State.launchRetired; split <;> simp

@[simp] theorem State.retire_bytes (s : State) (c fcode) : (s.retire c fcode).bytes = s.bytes := by simp [State.retire]

@[simp] theorem State.endProgram_bytes (s : State) (c halt) :
    (s.endProgram c halt).bytes = s.bytes := by simp [State.endProgram]

@[simp] theorem State.bargaDone_bytes (s : State) (c d w w0) :
    (s.bargaDone c d w w0).bytes = s.bytes := by simp [State.bargaDone]

/-! ### What the operations leave of the storages: Space -/

@[simp] theorem State.tlbFill_bytes (s : State) (mu t) : (s.tlbFill mu t).bytes = s.bytes := by
  unfold State.tlbFill; split <;> simp

@[simp] theorem State.llcFill_bytes (s : State) (sector write) : (s.llcFill sector write).bytes = s.bytes := by
  unfold State.llcFill; dsimp only; (repeat' split) <;> simp

@[simp] theorem State.l1Room_bytes (s : State) (pt sector) :
    (s.l1Room pt sector).bytes = s.bytes := by simp [State.l1Room]

@[simp] theorem State.l1Load_bytes (s : State) (pt sector) : (s.l1Load pt sector).bytes = s.bytes := by
  unfold State.l1Load; split <;> simp

@[simp] theorem State.rawLoad_bytes (s : State) (w width p llc) : (s.rawLoad w width p llc).2.2.bytes = s.bytes := by
  unfold State.rawLoad; dsimp only; (repeat' split) <;> simp

@[simp] theorem State.l1Write_bytes (s : State) (w b width v track poison) :
    (s.l1Write w b width v track poison).bytes = s.bytes := by
  unfold State.l1Write; split <;> simp

@[simp] theorem State.rawStore_wf (s : State) (w width v poison p) (h : BytesWf s.bytes) :
    BytesWf (s.rawStore w width v poison p).bytes := by
  unfold State.rawStore; split <;> simp [h]

@[simp] theorem State.llcRead_bytes (s : State) (ps) : (s.llcRead ps).bytes = s.bytes :=
  foldl_bytes (fun t p => by split <;> simp) _ _

@[simp] theorem State.scaleRead_bytes (s : State) (a) : (s.scaleRead a).2.2.bytes = s.bytes := by simp [State.scaleRead]

@[simp] theorem State.scalePut_wf (s : State) (a v poison) (h : BytesWf s.bytes) :
    BytesWf (s.scalePut a v poison).bytes := by simp [State.scalePut, h]

@[simp] theorem State.load_bytes (s : State) (w el ty p llc) : (s.load w el ty p llc).2.2.bytes = s.bytes := by
  unfold State.load; dsimp only; split <;> simp

@[simp] theorem State.store_wf (s : State) (w el ty v poison p) (h : BytesWf s.bytes) :
    BytesWf (s.store w el ty v poison p).bytes := by simp [State.store, h]

@[simp] theorem State.eccPhys_bytes (s : State) (w b track cached o) :
    (s.eccPhys w b track cached o).bytes = s.bytes := by
  unfold State.eccPhys; dsimp only; (repeat' split) <;> simp

@[simp] theorem State.eccAt_bytes (s : State) (w p cached o elem) : (s.eccAt w p cached o elem).bytes = s.bytes := by
  unfold State.eccAt; dsimp only; (repeat' split) <;> simp

@[simp] theorem State.cool_bytes (s : State) (stack bank) : (s.cool stack bank).bytes = s.bytes := (rfl)

@[simp] theorem State.rowAct_bytes (s : State) (w pa act) : (s.rowAct w pa act).bytes = s.bytes := by
  unfold State.rowAct; split <;> simp

@[simp] theorem State.bankWait_bytes (s : State) (id pa) : (s.bankWait id pa).bytes = s.bytes := by
  unfold State.bankWait; split <;> simp

@[simp] theorem State.bankGone_bytes (s : State) (id) : (s.bankGone id).bytes = s.bytes := by simp [State.bankGone]

@[simp] theorem State.raceInfo_bytes (s : State) (cl a k y addr) :
    (s.raceInfo cl a k y addr).bytes = s.bytes := by simp [State.raceInfo]

@[simp] theorem State.raceAgain_bytes (s : State) (cl) : (s.raceAgain cl).bytes = s.bytes := by
  unfold State.raceAgain; split <;> simp

@[simp] theorem State.raceGranule_bytes (s : State) (a cl k lt g bytes) :
    (s.raceGranule a cl k lt g bytes).1.bytes = s.bytes := by
  unfold State.raceGranule; dsimp only; (repeat' split) <;> simp

@[simp] theorem State.raceAccess_bytes (s : State) (a cl k lt p w) :
    (s.raceAccess a cl k lt p w).1.bytes = s.bytes := by
  unfold State.raceAccess
  split
  · rfl
  · split
    · rfl
    · exact foldl_fst_bytes (fun r g => by split <;> simp) _ _

@[simp] theorem State.raceHand_bytes (s : State) (a e) : (s.raceHand a e).bytes = s.bytes := by simp [State.raceHand]

@[simp] theorem State.raceSpots_bytes (s : State) (a cl write lt w ps) :
    (s.raceSpots a cl write lt w ps).1.bytes = s.bytes :=
  foldl_fst_bytes (fun r p => by split <;> simp) _ _

@[simp] theorem State.readThrough_bytes (s : State) (pa n) :
    (s.readThrough pa n).bytes = s.bytes := by simp [State.readThrough]

@[simp] theorem State.llcPass_bytes (s : State) (ps wr) : (s.llcPass ps wr).bytes = s.bytes := by simp [State.llcPass]

/-! ### What the operations leave of the storages: Request -/

@[simp] theorem State.muTake_bytes (s : State) (pt u) : (s.muTake pt u).bytes = s.bytes := by
  unfold State.muTake; split <;> simp

@[simp] theorem State.muTakes_bytes (s : State) (pt u n) : (s.muTakes pt u n).bytes = s.bytes := by simp [State.muTakes]

@[simp] theorem State.tupleTake_bytes (s : State) (pt u) :
    (s.tupleTake pt u).bytes = s.bytes := by simp [State.tupleTake]

@[simp] theorem State.setReq_bytes (s : State) (pt u r) : (s.setReq pt u r).bytes = s.bytes := by simp [State.setReq]

@[simp] theorem State.askWalk_bytes (s : State) (w) : (s.askWalk w).bytes = s.bytes := by simp [State.askWalk]

@[simp] theorem State.xlTrap_bytes (s : State) (w fcode) : (s.xlTrap w fcode).bytes = s.bytes := (rfl)

@[simp] theorem State.permFault_bytes (s : State) (w) : (s.permFault w).bytes = s.bytes := by simp [State.permFault]

@[simp] theorem State.fillFor_bytes (s : State) (pt u c lt es) : (s.fillFor pt u c lt es).bytes = s.bytes :=
  foldl_bytes (fun t va => by split <;> simp) _ _

@[simp] theorem State.tryReq_bytes (s : State) (pt u n) : (s.tryReq pt u n).bytes = s.bytes := by
  unfold State.tryReq; dsimp only; (repeat' split) <;> simp

@[simp] theorem State.retryParked_bytes (s : State) (cl root) :
    (s.retryParked cl root).bytes = s.bytes := by simp [State.retryParked]

@[simp] theorem State.fillWaiting_bytes (s : State) (cl t) :
    (s.fillWaiting cl t).bytes = s.bytes := by simp [State.fillWaiting]

@[simp] theorem State.dropPrefs_bytes (s : State) (cl root va) : (s.dropPrefs cl root va).bytes = s.bytes :=
  foldl_bytes (fun t p => by split <;> simp) _ _

@[simp] theorem State.farRecord_bytes (s : State) (pa ctx) : (s.farRecord pa ctx).bytes = s.bytes := (rfl)

@[simp] theorem State.cleared_bytes (s : State) (w el es) : (s.cleared w el es).bytes = s.bytes := (rfl)

@[simp] theorem State.reqCheck_bytes (s : State) (pt u n) : (s.reqCheck pt u n).bytes = s.bytes := by
  unfold State.reqCheck; dsimp only; (repeat' split) <;> simp

/-! ### What the operations leave of the storages: Quorum -/

@[simp] theorem State.cellPut_wf (s : State) (pa payload tag) (h : BytesWf s.bytes) :
    BytesWf (s.cellPut pa payload tag).bytes := by simp [State.cellPut, h]

@[simp] theorem State.qNotify_bytes (s : State) (q) : (s.qNotify q).bytes = s.bytes := by
  unfold State.qNotify; dsimp only; (repeat' split) <;> simp

@[simp] theorem State.qGo_bytes (s : State) (q) : (s.qGo q).bytes = s.bytes := by simp [State.qGo]

@[simp] theorem State.qStart_bytes (s : State) (fn die ctx set off payload flags version who used) :
    (s.qStart fn die ctx set off payload flags version who used).bytes = s.bytes := by simp [State.qStart]

@[simp] theorem State.qSweep_bytes (s : State) : (s.qSweep).bytes = s.bytes := (rfl)

@[simp] theorem State.copyWait_bytes (s : State) (op copy pa) : (s.copyWait op copy pa).bytes = s.bytes := by
  unfold State.copyWait; split <;> simp

@[simp] theorem State.copyMeets_bytes (s : State) (q op copy stack pa) :
    (s.copyMeets q op copy stack pa).bytes = s.bytes := by
  unfold State.copyMeets; dsimp only; (repeat' split) <;> simp

@[simp] theorem State.copyRecord_bytes (s : State) (q j type) : (s.copyRecord q j type).bytes = s.bytes := (rfl)

/-! ### What the operations leave of the storages: Memory -/

@[simp] theorem State.muSnap_bytes (s : State) (pt u t) : (s.muSnap pt u t).bytes = s.bytes := by
  unfold State.muSnap; dsimp only; (repeat' split) <;> simp

@[simp] theorem State.muMark_bytes (s : State) (pt u useIn useAg t) :
    (s.muMark pt u useIn useAg t).bytes = s.bytes := by simp [State.muMark]

@[simp] theorem State.modOwner_bytes (s : State) (pt f) : (s.modOwner pt f).bytes = s.bytes := by
  unfold State.modOwner; split <;> simp

@[simp] theorem State.sameCycle_bytes (s : State) (pt u next) :
    (s.sameCycle pt u next).bytes = s.bytes := by simp [State.sameCycle]

@[simp] theorem State.doLoad_bytes (s : State) (pt u r i p) :
    (s.doLoad pt u r i p).bytes = s.bytes := by simp [State.doLoad]

@[simp] theorem State.putBlock_wf (s : State) (w f b scale track xs poison) (h : BytesWf s.bytes) :
    BytesWf (s.putBlock w f b scale track xs poison).bytes :=
  State.scalePut_wf _ _ _ _ (foldl_wf (fun t _ ht => t.rawStore_wf _ _ _ _ _ ht) _ _ h)

@[simp] theorem State.doStore_wf (s : State) (pt u r i p) (h : BytesWf s.bytes) :
    BytesWf (s.doStore pt u r i p).bytes := by
  unfold State.doStore
  dsimp only
  split
  · split <;> simp [h]
  · simp [h]

@[simp] theorem State.doAtom_wf (s : State) (pt u r i e) (h : BytesWf s.bytes) :
    BytesWf (s.doAtom pt u r i e).bytes := by
  unfold State.doAtom; split <;> simp [h]

@[simp] theorem State.muReturn_bytes (s : State) (pt u r) : (s.muReturn pt u r).bytes = s.bytes := by
  unfold State.muReturn; split <;> simp

@[simp] theorem State.doBara_wf (s : State) (pt u r c p) (h : BytesWf s.bytes) :
    BytesWf (s.doBara pt u r c p).bytes := by
  unfold State.doBara
  split
  · dsimp only
    split <;> simp [h]
  · exact h

@[simp] theorem State.doPref_bytes (s : State) (pt u r i p) : (s.doPref pt u r i p).bytes = s.bytes := by
  unfold State.doPref; dsimp only; (repeat' split) <;> simp

@[simp] theorem State.doQuorum_bytes (s : State) (pt u r c p) : (s.doQuorum pt u r c p).bytes = s.bytes := by
  unfold State.doQuorum; split <;> simp

@[simp] theorem State.doElem_wf (s : State) (pt u r i c e) (h : BytesWf s.bytes) :
    BytesWf (s.doElem pt u r i c e).bytes := by
  unfold State.doElem
  split <;> simp [h]

@[simp] theorem State.linkFault_bytes (s : State) (pt u r pa fcode c) :
    (s.linkFault pt u r pa fcode c).bytes = s.bytes := by simp [State.linkFault]

@[simp] theorem State.muSend_bytes (s : State) (pt code t) :
    (s.muSend pt code t).bytes = s.bytes := by simp [State.muSend]

@[simp] theorem State.muEmit_bytes (s : State) (pt code t) :
    (s.muEmit pt code t).bytes = s.bytes := by simp [State.muEmit]

@[simp] theorem State.muPop_bytes (s : State) (pt u done) : (s.muPop pt u done).bytes = s.bytes := by simp [State.muPop]

/-! ### What the operations leave of the storages: Semaphores -/

@[simp] theorem State.semSet_bytes (s : State) (c cl k n) : (s.semSet c cl k n).bytes = s.bytes := by
  unfold State.semSet; split <;> simp

/-! ### What the operations leave of the storages: Engine -/

@[simp] theorem State.startProgram_bytes (s : State) (c e number off arg) :
    (s.startProgram c e number off arg).bytes = s.bytes := by
  unfold State.startProgram; split <;> simp

@[simp] theorem State.scaleOf_bytes (s : State) (p) : (s.scaleOf p).2.2.bytes = s.bytes := by
  unfold State.scaleOf; split <;> simp

@[simp] theorem State.doMove_wf (s : State) (eng o fs fd bad m) (h : BytesWf s.bytes) :
    BytesWf (s.doMove eng o fs fd bad m).bytes := by
  unfold State.doMove
  dsimp only
  split <;> simp [h]

@[simp] theorem State.fillScales_wf (s : State) (pt slot k ms) (h : BytesWf s.bytes) :
    BytesWf (s.fillScales pt slot k ms).bytes := by
  refine foldl_wf (fun t m ht => ?_) _ _ h
  split
  · split <;> simp [ht]
  · exact ht

@[simp] theorem State.modSlot_bytes (s : State) (pt k f) : (s.modSlot pt k f).bytes = s.bytes := (rfl)

@[simp] theorem State.setOp_bytes (s : State) (eng o) : (s.setOp eng o).bytes = s.bytes := (rfl)

@[simp] theorem State.opFail_bytes (s : State) (eng o fcode) :
    (s.opFail eng o fcode).bytes = s.bytes := by simp [State.opFail]

@[simp] theorem State.opPark_bytes (s : State) (eng o va) : (s.opPark eng o va).bytes = s.bytes := (rfl)

@[simp] theorem State.opCut_bytes (s : State) (eng o pa fcode) :
    (s.opCut eng o pa fcode).bytes = s.bytes := by simp [State.opCut]

theorem State.opMet_wf {α : Type} (s : State) (eng o) (x : Met α) (f : α → State) (h : BytesWf s.bytes)
    (hf : ∀ a, BytesWf (f a).bytes) : BytesWf (s.opMet eng o x f).bytes := by
  unfold State.opMet
  split <;> simp [h, hf]

@[simp] theorem State.opCools_bytes (s : State) (eng o) : (s.opCools eng o).bytes = s.bytes := by
  unfold State.opCools; split <;> simp

@[simp] theorem State.raceMoves_bytes (s : State) (eng o fs fd ms) : (s.raceMoves eng o fs fd ms).1.bytes = s.bytes :=
  foldl_fst_bytes (fun r m => by dsimp only; split; · rfl
                                 · split <;> simp) _ _

@[simp] theorem State.raceIndex_bytes (s : State) (eng o) : (s.raceIndex eng o).1.bytes = s.bytes := by
  unfold State.raceIndex
  split
  · rfl
  · split <;> simp

@[simp] theorem State.clearMoves_bytes (s : State) (eng fd ms) : (s.clearMoves eng fd ms).bytes = s.bytes := (rfl)

@[simp] theorem State.engUpset_bytes (s : State) (eng src ctx p) : (s.engUpset eng src ctx p).1.bytes = s.bytes := by
  unfold State.engUpset; split <;> simp

@[simp] theorem State.banksWait_bytes (s : State) (eng o ps) :
    (s.banksWait eng o ps).bytes = s.bytes := by simp [State.banksWait]

@[simp] theorem State.banksGone_bytes (s : State) (eng o pas act) :
    (s.banksGone eng o pas act).bytes = s.bytes := by simp [State.banksGone]

@[simp] theorem State.doSector_wf (s : State) (eng o fs fd ms ob) (h : BytesWf s.bytes) :
    BytesWf (s.doSector eng o fs fd ms ob).bytes := by
  unfold State.doSector
  split
  · simp [h]
  · extract_lets ri ra who first k s1 bad s2
    have hra : ra.1.bytes = s.bytes := by simp only [ra, ri]; split <;> simp
    have hk : k.1.bytes = s.bytes := by simp [k, hra]
    have h2 : BytesWf s2.bytes := foldl_wf (fun t m ht => t.doMove_wf eng o fs fd k.2 m ht) ms _ (by rw [hk]; exact h)
    clear_value ra k s2
    split
    · simp [hra, h]
    · split <;> simp [h2]

@[simp] theorem State.fillSector_wf (s : State) (eng o fs fd ms all ob) (h : BytesWf s.bytes) :
    BytesWf (s.fillSector eng o fs fd ms all ob).bytes := by
  unfold State.fillSector
  extract_lets pt k j blank s1 failed s2 s3
  have hb : BytesWf blank.bytes := by
    simp only [blank, State.bytes_mk, bytesWf_mk]
    exact ⟨s.wf_mem h, s.wf_spad h, wf_memPut _ _ _ (s.wf_opnd h)⟩
  have h1 : BytesWf s1.bytes := blank.doSector_wf eng o fs fd ms ob hb
  clear_value s1
  split
  · exact h1
  · simp [s3, s2, h1]

@[simp] theorem State.recordPut_wf (s : State) (eng f v ps) (h : BytesWf s.bytes) :
    BytesWf (s.recordPut eng f v ps).bytes := by
  simp +contextual [State.recordPut, h]

@[simp] theorem State.recordMeets_bytes (s : State) (eng o f write ps ob) :
    (s.recordMeets eng o f write ps ob).1.bytes = s.bytes := by
  unfold State.recordMeets
  split
  · simp
  · extract_lets r
    have hr : r.1.bytes = s.bytes := by simp [r]
    split <;> simp [hr]

@[simp] theorem State.copyqBegin_bytes (s : State) (eng o cell set recd f ob) :
    (s.copyqBegin eng o cell set recd f ob).bytes = s.bytes := by
  unfold State.copyqBegin
  extract_lets begin m k rd
  have hb : ∀ (t : State) fn bs, (begin t fn bs).bytes = t.bytes := fun t fn bs => by simp [begin]
  split
  · exact hb _ _ _
  split
  · simp [m]
  · split <;> simp [hb, k, m]

@[simp] theorem State.engAccept_bytes (s : State) (c eng d o) :
    (s.engAccept c eng d o).bytes = s.bytes := by simp [State.engAccept]

/-! ### What the operations leave of the storages: Streams -/

@[simp] theorem State.takeSrc_bytes (s : State) (pt u x) : (s.takeSrc pt u x).bytes = s.bytes := by
  unfold State.takeSrc; split <;> simp

@[simp] theorem State.passS_bytes (s : State) (pt u v t) : (s.passS pt u v t).bytes = s.bytes := by
  unfold State.passS; split <;> simp

@[simp] theorem State.passOn_bytes (s : State) (pt u v x q outs t) :
    (s.passOn pt u v x q outs t).bytes = s.bytes := by simp [State.passOn]

@[simp] theorem State.reptOnce_bytes (s : State) (pt u v n t) :
    (s.reptOnce pt u v n t).bytes = s.bytes := by simp [State.reptOnce]

@[simp] theorem State.joinFired_bytes (s : State) (pt u v ob j) : (s.joinFired pt u v ob j).bytes = s.bytes := by
  unfold State.joinFired
  extract_lets mark k j' s1 s2 s3 s4 s5
  have hk : k.1.bytes = s.bytes := by simp only [k]; split <;> simp
  have h2 : s2.bytes = s.bytes := by simp [s2, s1, hk]
  have h3 : s3.bytes = s.bytes := by simp only [s3]; split <;> simp [h2]
  have h4 : s4.bytes = s.bytes := by simp only [s4]; split <;> simp [h3]
  split
  · simp [hk]
  · split <;> simp [s5, h4]

@[simp] theorem State.jtabTrap_bytes (s : State) (pt u cause x) :
    (s.jtabTrap pt u cause x).bytes = s.bytes := by simp [State.jtabTrap]

/-! ### What the operations leave of the storages: Collective -/

theorem State.collMet_wf {α : Type} (s : State) (k e o) (x : Met α) (f : α → State) (h : BytesWf s.bytes)
    (hf : ∀ a, BytesWf (f a).bytes) : BytesWf (s.collMet k e o x f).bytes := by
  unfold State.collMet
  dsimp only
  split
  · exact hf _
  all_goals simp [h]

theorem State.collMeets_wf (s : State) (k e o write f ps) (go : State → Bool → State) (h : BytesWf s.bytes)
    (hg : ∀ t b, BytesWf t.bytes → BytesWf (go t b).bytes) : BytesWf (s.collMeets k e o write f ps go).bytes := by
  unfold State.collMeets
  split
  · split <;> simp [h]
  · split
    · simp [h]
    · extract_lets r y
      have hr : r.1.bytes = s.bytes := by simp [r]
      have hy : y.1.bytes = s.bytes := by simp [y, hr]
      clear_value r y
      split
      · simp [hr, h]
      · exact hg _ _ (by simp [hy, h])

theorem State.collFetch_wf (s : State) (k e o lo len) (f : State → Fmt → List (Nat × Bool) → State)
    (h : BytesWf s.bytes) (hf : ∀ t x vs, BytesWf t.bytes → BytesWf (f t x vs).bytes) :
    BytesWf (s.collFetch k e o lo len f).bytes :=
  s.collMet_wf k e o _ _ h fun p =>
    s.collMeets_wf k e o false p.1 p.2 _ h fun t _ ht => hf _ _ _ (by rw [State.llcRead_bytes]; exact ht)

@[simp] theorem State.collSend_wf (s : State) (k co i j) (h : BytesWf s.bytes) :
    BytesWf (s.collSend k co i j).bytes := by
  unfold State.collSend
  extract_lets sent
  have hs : ∀ (t : State) co vs, (sent t co vs).bytes = t.bytes := fun t co vs => by simp [sent]
  split
  · simp [hs, h]
  · split
    · exact h
    · split
      · exact h
      · exact s.collFetch_wf _ _ _ _ _ _ h fun t x vs ht => by simp [hs, ht]

@[simp] theorem State.collWrite_wf (s : State) (cctx o f ps vs) (h : BytesWf s.bytes) :
    BytesWf (s.collWrite cctx o f ps vs).bytes := by
  unfold State.collWrite
  extract_lets put clean
  have hp : ∀ t p, BytesWf t.bytes → BytesWf (put t p).bytes := fun t p ht => by
    simp only [put]
    split
    · exact ht
    · split <;> simp [ht]
  simp [foldl_wf hp, h]

@[simp] theorem State.collDone_bytes (s : State) (k co e o) :
    (s.collDone k co e o).bytes = s.bytes := by simp [State.collDone]

@[simp] theorem State.collSectors_wf (s : State) (k co e o f pv qs n) (h : BytesWf s.bytes) :
    BytesWf (s.collSectors k co e o f pv qs n).bytes := by
  induction qs generalizing s n with
  | nil => unfold State.collSectors; simp [h]
  | cons q t ih =>
    unfold State.collSectors
    refine State.collMet_wf _ _ _ _ _ _ (by simp [h]) fun ps => ?_
    have h1 := State.collMeets_wf (s.setOp e.cctx { o with written := n }) k e { o with written := n } true f ps
      (fun s2 _ => s2.collWrite e.cctx o f ps ((pv.filter fun p => p.1.sector == q).map (·.2))) (by simp [h])
      fun z b hz => by simp [hz]
    dsimp only
    split
    · exact ih _ _ h1
    · exact h1

@[simp] theorem State.collAccept_bytes (s : State) (c g d op o) : (s.collAccept c g d op o).bytes = s.bytes := by
  unfold State.collAccept; dsimp only; split <;> simp

/-! ### What the operations leave of the storages: Rect -/

@[simp] theorem State.takeL1_bytes (s : State) (mask c cl) :
    (s.takeL1 mask c cl).bytes = s.bytes := by simp [State.takeL1]

@[simp] theorem State.writeEntry_bytes (s : State) (c p) : (s.writeEntry c p).bytes = s.bytes := by
  unfold State.writeEntry
  split
  · simp
  · split <;> simp

@[simp] theorem State.clearEntry_bytes (s : State) (d c) : (s.clearEntry d c).bytes = s.bytes := by
  unfold State.clearEntry; split <;> simp

@[simp] theorem State.mapTile_bytes (s : State) (cl l n) : (s.mapTile cl l n).bytes = s.bytes := (rfl)

@[simp] theorem State.mapRect_bytes (s : State) (c ls pts) : (s.mapRect c ls pts).bytes = s.bytes := by
  unfold State.mapRect; split <;> simp

/-! ### What the operations leave of the storages: Image -/

@[simp] theorem State.dropTiles_bytes (s : State) (x) : (s.dropTiles x).bytes = s.bytes := (rfl)

@[simp] theorem State.putTiles_wf (s : State) (c im p) (h : BytesWf s.bytes) : BytesWf (s.putTiles c im p).bytes := by
  unfold State.putTiles
  extract_lets pts at' s1 s2
  have h1 : BytesWf s1.bytes := by simp [s1, h]
  have h2 : BytesWf s2.bytes := ⟨s1.wf_mem h1, wf_foldl (fun m _ hm => wf_memPaste m _ _ _ hm) _ _ (s1.wf_spad h1),
    wf_foldl (fun m _ hm => wf_memPaste m _ _ _ hm) _ _ (s1.wf_opnd h1)⟩
  simpa using h2

@[simp] theorem State.writeImage_wf (s : State) (im pa) (h : BytesWf s.bytes) :
    BytesWf (s.writeImage im pa).bytes := by simp [State.writeImage, h]

/-! ### What the operations leave of the storages: Iterate -/

@[simp] theorem State.agEmit_bytes (s : State) (pt g t) : (s.agEmit pt g t).bytes = s.bytes := by simp [State.agEmit]

@[simp] theorem State.agNext_bytes (s : State) (pt g) : (s.agNext pt g).bytes = s.bytes := by simp [State.agNext]

@[simp] theorem State.feedAll_bytes (s : State) (c t) : (s.feedAll c t).bytes = s.bytes := by simp [State.feedAll]

@[simp] theorem State.stealReply_bytes (s : State) (victim thief lo hi) :
    (s.stealReply victim thief lo hi).bytes = s.bytes := by simp [State.stealReply]

/-! ### What the operations leave of the storages: Region -/

@[simp] theorem State.startLoad_bytes (s : State) (c off first) : (s.startLoad c off first).bytes = s.bytes := (rfl)

@[simp] theorem State.stealAsk_bytes (s : State) (c v) : (s.stealAsk c v).bytes = s.bytes := by simp [State.stealAsk]

/-! ### What the operations leave of the storages: Rotation -/

@[simp] theorem State.emitExits_bytes (s : State) (pt u ports p t second) :
    (s.emitExits pt u ports p t second).bytes = s.bytes :=
  foldl_bytes (fun z k => by dsimp only; split <;> simp) _ _

theorem State.stageTaken_bytes (s : State) (pt u) (k : Option (Fin 4)) :
    (match k with | some k => s.ctlTake pt u k | none => s).bytes = s.bytes := by
  cases k <;> simp

@[simp] theorem State.stageFire_bytes (s : State) (c l p m tok entry) :
    (s.stageFire c l p m tok entry).1.bytes = s.bytes := by
  unfold State.stageFire
  extract_lets +onlyGivenNames z u v val o toks frozen pass taken
  have hz : z.bytes = s.bytes := rfl
  have hf : ∀ x, (frozen x).1.bytes = x.bytes := fun x => by simp [frozen]
  have ht : ∀ x, (taken x).bytes = x.bytes := fun x => x.stageTaken_bytes m.1 m.2 _
  clear_value frozen taken pass toks o val v u z
  cases stageTok v val Token.mismatch with
  | some q => simp [hf, hz]
  | none =>
    dsimp only
    split
    · simp [hf, hz]
    · cases pass with
      | passes => simp [ht, hz]
      | takes x ports => simp [apply_ite Prod.fst, hf, ht, hz]
      | fires ports =>
        dsimp only
        split
        · simp [hf, hz]
        · split
          · simp [hf, hz]
          · split <;> simp [ht, hz]

@[simp] theorem State.rotate_bytes (s : State) (c l p e fuel m tok entry) :
    (s.rotate c l p e fuel m tok entry).bytes = s.bytes := by
  induction fuel generalizing s m tok entry with
  | zero => rfl
  | succ fuel ih =>
    have hf := s.stageFire_bytes c l p m tok entry
    unfold State.rotate
    split
    · next s1 h => rw [h] at hf; exact hf
    · next s1 t h =>
      rw [h] at hf
      split
      · simpa using hf
      · split
        · simpa using hf
        · rw [ih]; exact hf

@[simp] theorem State.rotResult_bytes (s : State) (pt u r slot) : (s.rotResult pt u r slot).bytes = s.bytes := by
  unfold State.rotResult; dsimp only; split <;> simp

@[simp] theorem State.placeJoin_bytes (s : State) (c l p x) : (s.placeJoin c l p x).bytes = s.bytes := by
  unfold State.placeJoin; split <;> simp

@[simp] theorem State.arrive_bytes (s : State) (c l p e) : (s.arrive c l p e).bytes = s.bytes := by
  unfold State.arrive
  extract_lets +onlyGivenNames x0 h x leave entry eos port
  clear_value eos entry
  split
  · simp
  split
  · split <;> simp
  split
  · split <;> simp
  split
  · simp
  cases entry with
  | none => simp
  | some t => dsimp only; split <;> simp

@[simp] theorem State.loopStop_bytes (s : State) (c l e) :
    (s.loopStop c l e).bytes = s.bytes := by simp [State.loopStop]

@[simp] theorem State.linesPut_wf (s : State) (ls bs) (h : BytesWf s.bytes) : BytesWf (s.linesPut ls bs).bytes := by
  induction ls generalizing s bs with
  | nil => exact h
  | cons q t ih => exact ih _ _ (by simp [h])

@[simp] theorem State.raceLines_bytes (s : State) (c write lt n lines) :
    (s.raceLines c write lt n lines).1.bytes = s.bytes :=
  foldl_fst_bytes (fun r q => by split <;> simp) _ _

@[simp] theorem State.saveDone_wf (s : State) (c l saver lt0 c0 phase0 e) (h : BytesWf s.bytes) :
    BytesWf (s.saveDone c l saver lt0 c0 phase0 e).bytes := by
  unfold State.saveDone; dsimp only; split <;> simp [h]

@[simp] theorem State.tickLoop_bytes (s : State) (c l) : (s.tickLoop c l).bytes = s.bytes := (rfl)

@[simp] theorem State.arrival_bytes (s : State) (c l p e) : (s.arrival c l p e).bytes = s.bytes := by
  unfold State.arrival
  dsimp only
  split
  · split
    · simp
    · split <;> simp
  · split <;> simp

/-! ### What the operations leave of the storages: Load -/

@[simp] theorem State.loadFrames_bytes (s : State) (c fs) :
    (s.loadFrames c fs).bytes = s.bytes := by simp [State.loadFrames]

@[simp] theorem State.flush_bytes (s : State) (x) : (s.flush x).bytes = s.bytes := by simp [State.flush]

@[simp] theorem State.rollbackMus_bytes (s : State) (x r) :
    (s.rollbackMus x r).bytes = s.bytes := by simp [State.rollbackMus]

@[simp] theorem State.rollback_bytes (s : State) (c) : (s.rollback c).bytes = s.bytes := by
  unfold State.rollback; dsimp only; split <;> simp

@[simp] theorem State.replayTile_bytes (s : State) (r pt) : (s.replayTile r pt).bytes = s.bytes := (rfl)

@[simp] theorem State.replayAll_bytes (s : State) (c) : (s.replayAll c).bytes = s.bytes := by
  unfold State.replayAll; dsimp only; split <;> simp

@[simp] theorem State.stageDone_bytes (s : State) (c) : (s.stageDone c).bytes = s.bytes := by
  unfold State.stageDone; split <;> simp

@[simp] theorem State.dropJoins_bytes (s : State) (c) : (s.dropJoins c).bytes = s.bytes :=
  foldl_bytes (fun t pt => foldl_bytes (fun z u => by dsimp only; split <;> simp) _ _) _ _

@[simp] theorem State.clearFrames_bytes (s : State) (c) :
    (s.clearFrames c).bytes = s.bytes := by simp [State.clearFrames]

@[simp] theorem State.freshUnits_bytes (s : State) (c) : (s.freshUnits c).bytes = s.bytes := by simp [State.freshUnits]

@[simp] theorem State.endLoad_bytes (s : State) (c off first) : (s.endLoad c off first).bytes = s.bytes := by
  unfold State.endLoad; dsimp only; (repeat' split) <;> simp

@[simp] theorem State.stageDrop_bytes (s : State) (c) : (s.stageDrop c).bytes = s.bytes := by
  unfold State.stageDrop; split <;> simp

@[simp] theorem State.refuseLoad_bytes (s : State) (c k tile unit) :
    (s.refuseLoad c k tile unit).bytes = s.bytes := by simp [State.refuseLoad]

/-! ### What the operations leave of the storages: Walks -/

@[simp] theorem State.walkError_bytes (s : State) (w o) : (s.walkError w o).bytes = s.bytes := by
  unfold State.walkError; split <;> simp

@[simp] theorem State.engFail_bytes (s : State) (eng o fcode) : (s.engFail eng o fcode).bytes = s.bytes := by
  unfold State.engFail
  split
  · split <;> simp
  · simp

@[simp] theorem State.ownWalk_bytes (s : State) (w p) : (s.ownWalk w p).bytes = s.bytes := by
  unfold State.ownWalk; dsimp only; (repeat' split) <;> simp

@[simp] theorem State.failOne_bytes (s : State) (fcode p) : (s.failOne fcode p).bytes = s.bytes := by
  unfold State.failOne
  cases p with
  | req pt u n => dsimp only; split <;> simp
  | op eng o => simp

theorem State.onParked_bytes (s : State) (w f) (h : ∀ s p, (f s p).bytes = s.bytes) :
    (s.onParked w f).bytes = s.bytes := foldl_bytes (fun t p => by split <;> simp [h]) _ _

@[simp] theorem State.failParked_bytes (s : State) (w) : (s.failParked w).bytes = s.bytes :=
  s.onParked_bytes w _ fun t p => by simp

@[simp] theorem State.holdParked_bytes (s : State) (w) : (s.holdParked w).bytes = s.bytes :=
  s.onParked_bytes w _ fun t p => by
    split
    · split <;> simp
    · simp

@[simp] theorem State.cxlDown_bytes (s : State) (port) : (s.cxlDown port).bytes = s.bytes := (rfl)

/-! ### What the operations leave of the storages: Rett -/

@[simp] theorem State.untrap_bytes (s : State) (c) : (s.untrap c).bytes = s.bytes := (rfl)

@[simp] theorem State.faultCtl_bytes (s : State) (c fcode) :
    (s.faultCtl c fcode).bytes = s.bytes := by simp [State.faultCtl]

@[simp] theorem State.freeJtab_bytes (s : State) (pt u) : (s.freeJtab pt u).bytes = s.bytes := by simp [State.freeJtab]

@[simp] theorem State.skipJtab_bytes (s : State) (pt u) : (s.skipJtab pt u).bytes = s.bytes := by
  unfold State.skipJtab; dsimp only; (repeat' split) <;> simp

@[simp] theorem State.rettCommand_bytes (s : State) (t k) : (s.rettCommand t k).bytes = s.bytes := by
  unfold State.rettCommand; split <;> simp

@[simp] theorem State.rettXlate_bytes (s : State) (t k) : (s.rettXlate t k).bytes = s.bytes := by
  unfold State.rettXlate; split <;> simp

@[simp] theorem State.rettFault_bytes (s : State) (c k) : (s.rettFault c k).bytes = s.bytes := by
  unfold State.rettFault
  split
  · rfl
  · split <;> simp

@[simp] theorem State.rettEffect_bytes (s : State) (t b) : (s.rettEffect t b).bytes = s.bytes := by
  unfold State.rettEffect
  extract_lets c k
  split
  · rfl
  iterate 4 split; · simp
  split
  · split <;> simp
  · simp

@[simp] theorem State.rettApply_bytes (s : State) (t b) : (s.rettApply t b).bytes = s.bytes := by simp [State.rettApply]

@[simp] theorem State.rettPending_bytes (s : State) (c) :
    (s.rettPending c).bytes = s.bytes := by simp [State.rettPending]

@[simp] theorem State.reparkOne_bytes (s : State) (c old pt u r) : (s.reparkOne c old pt u r).bytes = s.bytes := by
  unfold State.reparkOne
  split
  · split
    · rfl
    · dsimp only
      split <;> simp
  · simp
  · rfl

@[simp] theorem State.repark_bytes (s : State) (c old) : (s.repark c old).bytes = s.bytes := by simp [State.repark]

/-! ### What the operations leave of the storages: Sched -/

@[simp] theorem State.recordWait_bytes (s : State) (c) : (s.recordWait c).bytes = s.bytes := by
  unfold State.recordWait
  dsimp only
  split
  · rfl
  · split
    · rfl
    · rename_i h; simpa using State.condMet_bytes h

@[simp] theorem State.swapEnds_bytes (s : State) (l) : (s.swapEnds l).bytes = s.bytes := by
  unfold State.swapEnds; split <;> simp

@[simp] theorem State.followMap_bytes (s : State) (c old p) :
    (s.followMap c old p).bytes = s.bytes := by simp [State.followMap]

@[simp] theorem State.testWait_bytes (s : State) (c) : (s.testWait c).bytes = s.bytes := by simp [State.testWait]

@[simp] theorem State.narrowPost_bytes (s : State) (c) : (s.narrowPost c).bytes = s.bytes := by
  unfold State.narrowPost; split <;> simp

@[simp] theorem State.resumeAt_wf (s : State) (c im p) (h : BytesWf s.bytes) :
    BytesWf (s.resumeAt c im p).bytes := by simp [State.resumeAt, h]

@[simp] theorem State.engineBack_bytes (s : State) (e) : (s.engineBack e).bytes = s.bytes := by simp [State.engineBack]

@[simp] theorem State.saveSems_bytes (s : State) (l g) : (s.saveSems l g).bytes = s.bytes := by simp [State.saveSems]

@[simp] theorem State.loadSems_bytes (s : State) (l g) : (s.loadSems l g).bytes = s.bytes := by simp [State.loadSems]

@[simp] theorem State.emptyReplies_bytes (s : State) (c) :
    (s.emptyReplies c).bytes = s.bytes := by simp [State.emptyReplies]

/-! ### What the operations leave of the storages: Launch -/

theorem State.placeRegion_bytes {s t : State} {l i im r p id} (e : s.placeRegion l i im r p = some (t, id)) :
    t.bytes = s.bytes := by
  unfold State.placeRegion at e
  simp only [Option.ite_none_right_eq_some, Option.some.injEq, Prod.mk.injEq] at e
  obtain ⟨-, rfl, -⟩ := e
  simp

theorem State.placeAll_bytes {s t : State} {l im i rs ps ids} (e : s.placeAll l im i rs ps = some (t, ids)) :
    t.bytes = s.bytes := by
  induction rs generalizing s t i ps ids with
  | nil =>
    cases ps with
    | nil => simp only [State.placeAll, Option.some.injEq, Prod.mk.injEq] at e; rw [← e.1]
    | cons p ps => simp [State.placeAll] at e
  | cons r rs ih =>
    cases ps with
    | nil => simp [State.placeAll] at e
    | cons p ps =>
      simp only [State.placeAll] at e
      split at e
      · cases e
      · next s1 id h1 =>
        obtain ⟨⟨x, xs⟩, hx, h⟩ := Option.map_eq_some_iff.mp e
        obtain ⟨h2, -⟩ := Prod.mk.inj h
        rw [← h2, ih hx, State.placeRegion_bytes h1]

@[simp] theorem State.writeGroups_wf (s : State) (die l) (h : BytesWf s.bytes) :
    BytesWf (s.writeGroups die l).bytes := by simp [State.writeGroups, h]

@[simp] theorem State.trackAll_bytes (s : State) (gs) : (s.trackAll gs).bytes = s.bytes := by simp [State.trackAll]

@[simp] theorem State.writeLaunch_wf (s : State) (l fn im ids) (h : BytesWf s.bytes) :
    BytesWf (s.writeLaunch l fn im ids).bytes := by simp [State.writeLaunch, h]

theorem State.initElem_wf {s t : State} {c d cs x} (e : s.initElem c d cs x = some t) (h : BytesWf s.bytes) :
    BytesWf t.bytes := by
  unfold State.initElem at e
  dsimp only at e
  split at e
  · split at e
    · cases e
    split at e
    · cases e
    split at e
    · cases e
    split at e
    · split at e
      · cases e
      split at e
      · cases e
      split at e
      · cases e
      rw [← Option.some.inj e]; simp [h]
    · cases e
  · obtain ⟨p, -, rfl⟩ := Option.map_eq_some_iff.mp e
    simp [h]

@[simp] theorem State.initRun_wf (s : State) (d c i l) (h : BytesWf s.bytes) :
    BytesWf (State.initRun d c i l s).1.bytes := by
  induction l generalizing s i with
  | nil => exact h
  | cons cs t ih =>
    unfold State.initRun
    split
    · exact h
    · next s1 e => exact ih _ _ (State.initElem_wf e h)

@[simp] theorem State.initAll_wf (s : State) (ids ds) (h : BytesWf s.bytes) :
    BytesWf (State.initAll ids ds s).1.bytes := by
  induction ds generalizing s with
  | nil => exact h
  | cons d t ih =>
    unfold State.initAll
    dsimp only
    split
    · exact ih _ (s.initRun_wf d _ 0 _ h)
    · exact s.initRun_wf d _ 0 _ h

@[simp] theorem State.refuseLaunch_bytes (s : State) (fn) : (s.refuseLaunch fn).bytes = s.bytes := (rfl)

/-! ### What the operations leave of the storages: Pipe -/

@[simp] theorem State.modStage_bytes (s : State) (l k f) : (s.modStage l k f).bytes = s.bytes := by
  unfold State.modStage; split <;> simp

@[simp] theorem State.takeRung_bytes (s : State) (c r) : (s.takeRung c r).bytes = s.bytes := (rfl)

/-! ### What the operations leave of the storages: Power -/

@[simp] theorem State.ramp_bytes (s : State) (die v) : (s.ramp die v).bytes = s.bytes := by
  unfold State.ramp; dsimp only; (repeat' split) <;> simp

@[simp] theorem State.request_bytes (s : State) (die v f) :
    (s.request die v f).bytes = s.bytes := by simp [State.request]

@[simp] theorem State.reclamp_bytes (s : State) (die v) : (s.reclamp die v).bytes = s.bytes := by simp [State.reclamp]

@[simp] theorem State.overrule_bytes (s : State) (die v) : (s.overrule die v).bytes = s.bytes := by
  unfold State.overrule; dsimp only; split <;> simp

theorem State.onRamp_bytes (s : State) (die v f) (h : ∀ s, (f s).bytes = s.bytes) :
    (s.onRamp die v f).bytes = s.bytes := by
  unfold State.onRamp
  dsimp only
  split
  · simp [h]
  · exact h s

@[simp] theorem State.stepDone_bytes (s : State) (die v) : (s.stepDone die v).bytes = s.bytes := by
  unfold State.stepDone; dsimp only; split <;> simp

@[simp] theorem State.writeLimits_bytes (s : State) (die v w) :
    (s.writeLimits die v w).bytes = s.bytes := by simp [State.writeLimits]

@[simp] theorem State.writeVfctl_bytes (s : State) (die v w) :
    (s.writeVfctl die v w).bytes = s.bytes := by simp [State.writeVfctl]

@[simp] theorem State.monitorRequest_bytes (s : State) (die v f) :
    (s.monitorRequest die v f).bytes = s.bytes := by simp [State.monitorRequest]

@[simp] theorem State.holdVoltage_bytes (s t : State) (die v) : (s.holdVoltage t die v).bytes = t.bytes :=
  t.onRamp_bytes die v _ fun z => by simp

@[simp] theorem State.writeCurve_bytes (s : State) (die num w) :
    (s.writeCurve die num w).bytes = s.bytes := by simp [State.writeCurve]

@[simp] theorem State.postNarrow_bytes (s : State) (cl) : (s.postNarrow cl).bytes = s.bytes := (rfl)

@[simp] theorem State.writeRungcap_bytes (s : State) (die k w) : (s.writeRungcap die k w).bytes = s.bytes := (rfl)

@[simp] theorem State.tripped_bytes (s : State) (die k cls type) : (s.tripped die k cls type).bytes = s.bytes := (rfl)

@[simp] theorem State.thermalTrip_bytes (s : State) (die v) :
    (s.thermalTrip die v).bytes = s.bytes := by simp [State.thermalTrip]

@[simp] theorem State.shutDown_bytes (s : State) : (s.shutDown).bytes = s.bytes := (rfl)

@[simp] theorem State.coolRegion_bytes (s : State) (die v thr t) : (s.coolRegion die v thr t).bytes = s.bytes := by
  unfold State.coolRegion; dsimp only; (repeat' split) <;> simp

/-! ### What the operations leave of the storages: Queues -/

@[simp] theorem State.setQueue_bytes (s : State) (die q x) : (s.setQueue die q x).bytes = s.bytes := (rfl)

@[simp] theorem State.ctlFault_bytes (s : State) (c fcode) :
    (s.ctlFault c fcode).bytes = s.bytes := by simp [State.ctlFault]

@[simp] theorem State.queueWrite_wf (s : State) (c f ps e) (h : BytesWf s.bytes) :
    BytesWf (s.queueWrite c f ps e).bytes := by
  simp +contextual [State.queueWrite, h]

@[simp] theorem State.ctlPoison_bytes (s : State) (c) : (s.ctlPoison c).bytes = s.bytes := by simp [State.ctlPoison]

/-! ### What the operations leave of the storages: Registers -/

@[simp] theorem State.writeDqt_bytes (s : State) (die q w) : (s.writeDqt die q w).bytes = s.bytes := (rfl)

@[simp] theorem State.writePlace_bytes (s : State) (die i w) :
    (s.writePlace die i w).bytes = s.bytes := by simp [State.writePlace]

@[simp] theorem State.writeTile_bytes (s : State) (die i w) :
    (s.writeTile die i w).bytes = s.bytes := by simp [State.writeTile]

@[simp] theorem State.raiseMsix_bytes (s : State) (fn vec) :
    (s.raiseMsix fn vec).bytes = s.bytes := by simp [State.raiseMsix]

@[simp] theorem State.writeNonce_bytes (s : State) (die i w) :
    (s.writeNonce die i w).bytes = s.bytes := by simp [State.writeNonce]

@[simp] theorem State.clearBank_bytes (s : State) (die i w) :
    (s.clearBank die i w).bytes = s.bytes := by simp [State.clearBank]

@[simp] theorem State.writeTfence_bytes (s : State) (die i w) : (s.writeTfence die i w).bytes = s.bytes := (rfl)

@[simp] theorem State.setPort_bytes (s : State) (die inst up) : (s.setPort die inst up).bytes = s.bytes := (rfl)

@[simp] theorem State.setLink_bytes (s : State) (die inst up) : (s.setLink die inst up).bytes = s.bytes := by
  unfold State.setLink; split <;> simp

@[simp] theorem State.writeLink_bytes (s : State) (die i w) :
    (s.writeLink die i w).bytes = s.bytes := by simp [State.writeLink]

@[simp] theorem State.writeReg_bytes (s : State) (die num inst w) : (s.writeReg die num inst w).bytes = s.bytes := by
  unfold State.writeReg
  split
  · rfl
  · split <;> simp

@[simp] theorem State.hostRegWrite_bytes (s : State) (die num inst be w) :
    (s.hostRegWrite die num inst be w).bytes = s.bytes := by simp [State.hostRegWrite]

@[simp] theorem State.regWrite_bytes (s : State) (o die num inst w) :
    (s.regWrite o die num inst w).bytes = s.bytes := by
  unfold State.regWrite; split <;> simp

/-! ### What the operations leave of the storages: System -/

@[simp] theorem State.ltWrite_bytes (s : State) (c v) : (s.ltWrite c v).bytes = s.bytes := by simp [State.ltWrite]

@[simp] theorem State.ltFetch_bytes (s : State) (c v) : (s.ltFetch c v).bytes = s.bytes := by simp [State.ltFetch]

@[simp] theorem State.writeUser_bytes (s : State) (c num v) : (s.writeUser c num v).bytes = s.bytes := by
  unfold State.writeUser; dsimp only; (repeat' split) <;> simp

@[simp] theorem State.endHandler_bytes (s : State) (die c) : (s.endHandler die c).bytes = s.bytes := by
  unfold State.endHandler; dsimp only; split <;> simp

/-! ### What the operations leave of the storages: Supervise -/

@[simp] theorem State.resumeHere_bytes (s : State) (c) : (s.resumeHere c).bytes = s.bytes := by simp [State.resumeHere]

@[simp] theorem State.resume_wf (s : State) (c t d w) (h : BytesWf s.bytes) : BytesWf (s.resume c t d w).bytes := by
  unfold State.resume; dsimp only; (repeat' split) <;> simp [h]

@[simp] theorem State.restore_wf (s : State) (t im) (h : BytesWf s.bytes) :
    BytesWf (s.restore t im).bytes := by simp [State.restore, h]

@[simp] theorem State.invalidate_bytes (s : State) (die range v) : (s.invalidate die range v).bytes = s.bytes := (rfl)

@[simp] theorem State.retranslate_bytes (s : State) (p) : (s.retranslate p).bytes = s.bytes := by
  unfold State.retranslate; split <;> simp

/-! ### What the operations leave of the storages: HostLink -/

@[simp] theorem State.hostWrite_wf (s : State) (ps bs) (h : BytesWf s.bytes) : BytesWf (s.hostWrite ps bs).bytes :=
  ⟨wf_foldl (fun m _ hm => wf_memSet m _ _ hm) _ _ (s.wf_mem h), s.wf_spad h, s.wf_opnd h⟩

@[simp] theorem State.resetLaunch_bytes (s : State) (l) : (s.resetLaunch l).bytes = s.bytes := by
  unfold State.resetLaunch
  split
  · rfl
  · simp

@[simp] theorem State.resetFunction_bytes (s : State) (fn) :
    (s.resetFunction fn).bytes = s.bytes := by simp [State.resetFunction]

@[simp] theorem State.narrowLink_bytes (s : State) (die inst lanes) :
    (s.narrowLink die inst lanes).bytes = s.bytes := by simp [State.narrowLink]

@[simp] theorem State.testResult_bytes (s : State) (t r) : (s.testResult t r).bytes = s.bytes := by
  unfold State.testResult; split <;> simp

@[simp] theorem State.fenceTile_bytes (s : State) (pt bits) : (s.fenceTile pt bits).bytes = s.bytes := (rfl)

@[simp] theorem State.fenceBlock_bytes (s : State) (t) : (s.fenceBlock t).bytes = s.bytes := by simp [State.fenceBlock]

/-! ### What the operations leave of the storages: Matrix -/

@[simp] theorem State.mxPop_bytes (s : State) (pt) : (s.mxPop pt).bytes = s.bytes := by
  unfold State.mxPop; dsimp only; split <;> simp

@[simp] theorem State.mxLose_bytes (s : State) (pt t claims) : (s.mxLose pt t claims).bytes = s.bytes := by
  unfold State.mxLose; split <;> simp

@[simp] theorem State.mxUpset_bytes (s : State) (pt t claims) : (s.mxUpset pt t claims).bytes = s.bytes := by
  unfold State.mxUpset; split <;> simp

@[simp] theorem State.askGuard_bytes (s : State) (pt) : (s.askGuard pt).bytes = s.bytes := by simp [State.askGuard]

/-! ### What the operations leave of the storages: RotSave -/

@[simp] theorem State.rotldRace_bytes (s : State) (c a b) : (s.rotldRace c a b).1.bytes = s.bytes := by
  unfold State.rotldRace; dsimp only; split <;> simp

/-! ### What the operations leave of the storages: Start -/

@[simp] theorem State.scrubbed_wf (s : State) (cold keep links) (h : BytesWf s.bytes) :
    BytesWf (s.scrubbed cold keep links).bytes := by
  unfold State.scrubbed
  cases keep <;> simp [h, wf_filter, State.reset]

@[simp] theorem State.setMeas_bytes (s : State) (die m) : (s.setMeas die m).bytes = s.bytes := by simp [State.setMeas]

@[simp] theorem State.trainLinks_bytes (s : State) (die keep down stops) :
    (s.trainLinks die keep down stops).bytes = s.bytes := by simp [State.trainLinks]

@[simp] theorem State.joinRings_bytes (s : State) : s.joinRings.bytes = s.bytes := by
  refine foldl_bytes (fun t p => ?_) _ _
  split
  · rfl
  · split <;> simp

@[simp] theorem State.startSystem_bytes (s : State) (code) :
    (s.startSystem code).bytes = s.bytes := by simp [State.startSystem]

@[simp] theorem State.startDie_bytes (s : State) (o cold keep links die) :
    (s.startDie o cold keep links die).bytes = s.bytes := by simp [State.startDie]

@[simp] theorem State.startFence_bytes (s : State) (fence) :
    (s.startFence fence).bytes = s.bytes := by simp [State.startFence]

@[simp] theorem State.start_wf (s : State) (cold o) (h : BytesWf s.bytes) :
    BytesWf (s.start cold o).bytes := by simp [State.start, h]

/-! ### What the operations leave of the storages: Fetch -/

@[simp] theorem State.popTurn_bytes (s : State) : (s.popTurn).2.bytes = s.bytes := by
  unfold State.popTurn; split <;> simp

/-! ### What an element instruction runs -/

/-- What an element operation that fires by `fireElem` computes. -/
def elemFire (s : State) (v : EView) : Opnds → Fire :=
  match v.op with
  | .add | .sub | .adds | .subs | .neg | .abs | .min | .max | .minu | .maxu => fireIadd v
  | .mul | .mulh | .mulhu | .mad => fireImul v
  | .dot4 => fireDot4 v
  | .and | .or | .xor | .not | .andn => fireLogic v
  | .shl | .shr | .sar | .rol | .clz | .popc => fireShift v
  | .cmpEq | .cmpNe | .cmpLt | .cmpLe | .cmpLtu | .cmpLeu => fireIcmp v
  | .sel | .sela => fireSelect v
  | .fadd | .fsub | .fmul | .ffma | .ffms | .fnma => fireFarith v
  | .fmin | .fmax | .fminp | .fmaxp => fireFminmax v
  | .fneg | .fabs | .fcps => fireFsign v
  | .fcmpEq | .fcmpNe | .fcmpLt | .fcmpLe | .fcmpUn => fireFcmp v
  | .frcp | .frsq | .fsqrt | .flog2 | .fexp2 | .ftanh | .fsigm => fireSfu v
  | .cvt => fireCvt v
  | .qnt => fireQnt v
  | .dqn => fireDqn v
  | .rnsf => fireRnsf v
  | .rnsb => fireRnsb v
  | .scale => fireScale v
  | .pres => firePres v
  | .fill | .mkab => fireFill v
  | .cntp => fireCntp v
  | .rand => fireRand v
  | .gumb => fireGumb v
  | .ldi => fireLdi v
  | .movs => fireMovs v
  | .incs => fireIncs v
  | .move => fireMove v
  | .swz => fireSwz v
  | .pack => firePack v
  | .unpk => fireUnpk v
  | .bcast => fireBcast v
  | .tagc | .untag => fireTag v
  | .redadd | .redmax | .redmin => fireReduce v
  | .argmax | .argmin => fireArg v
  | .scanx => fireScan v
  | .drain => fireDrain s v
  | .eose => fireEose v
  | .bare => fireBare v
  | .emitq => fireEmitq v
  | .mtok => fireMtok v
  | .orel => fireOrel v
  | .osta => fireOsta s v
  | _ => fireNothing v

/-- What an element instruction does, by its view: the one operation that each of its forms runs. -/
def elemRun (v : EView) (s : State) : Out :=
  match v.op with
  | .halt => haltUnit v s
  | .merge => doMerge v s
  | .steer => doSteer v s
  | .gate => doGate v s
  | .rept | .reptc => doRept v s
  | .isect | .union => doJoin v s
  | .oneos => doOneos v s
  | .br => doBranch true v s
  | .brf => doBranch false v s
  | .jmp => doJmp v s
  | .jtab => doJtab v s
  | .waitq => doWaitq v s
  | .loop => doLoop v s
  | .oclm => doOclm v s
  | .rotj => doRotReq v joinReq s
  | .rotx => doRotReq v leaveReq s
  | .roth => doRotReq v holdReq s
  | .rotr => doRotReq v releaseReq s
  | .rotp => doRotReq v probeReq s (queued := false)
  | .eose | .bare => fireElem (noS v) (elemFire s v) s
  | _ => fireElem v (elemFire s v) s

/-- An element instruction of any form runs the operation of its view (R45, R160, R161). -/
theorem exec_elem {i : Instr} {v : EView} (h : elemView i = some v) (s : State) : exec i s = elemRun v s := by
  revert v
  cases i <;> rintro v ⟨⟩ <;> rfl

/-- A next state, where the outcome is one, keeps the one form. -/
def OutWf (o : Out) : Prop := ∀ t, o = .next t → BytesWf t.bytes

@[simp] theorem outWf_next (t : State) : OutWf (.next t) ↔ BytesWf t.bytes :=
  ⟨fun h => h t rfl, fun h _ e => by cases e; exact h⟩

@[simp] theorem outWf_stall (s : State) : OutWf (stall s) ↔ BytesWf s.bytes := outWf_next s

@[simp] theorem outWf_fault (f : Fault) : OutWf (.fault f) := fun _ e => by cases e

@[simp] theorem outWf_refused (r : Refusal) : OutWf (.refused r) := fun _ e => by cases e

theorem fireElem_wf (v : EView) (f : Opnds → Fire) (s : State) (ready : Bool) (h : BytesWf s.bytes) :
    OutWf (fireElem v f s ready) := by
  unfold fireElem
  dsimp only
  (repeat' split) <;> simp [h]

theorem haltUnit_wf (v : EView) (s : State) (h : BytesWf s.bytes) : OutWf (haltUnit v s) := by
  unfold haltUnit
  dsimp only
  (repeat' split) <;> simp [h]

theorem onUnit_wf (s : State) (f : Nat → Bool → Out) (h : BytesWf s.bytes) (hf : ∀ pt u, OutWf (f pt u)) :
    OutWf (onUnit s f) := by
  unfold onUnit
  split
  · split
    · exact hf _ _
    · simpa using h
  · simp

theorem doMerge_wf (v : EView) (s : State) (h : BytesWf s.bytes) : OutWf (doMerge v s) := by
  unfold doMerge
  refine onUnit_wf s _ h fun pt u => ?_
  dsimp only
  (repeat' split) <;> simp [h]

theorem doSteer_wf (v : EView) (s : State) (h : BytesWf s.bytes) : OutWf (doSteer v s) := by
  unfold doSteer
  refine onUnit_wf s _ h fun pt u => ?_
  dsimp only
  (repeat' split) <;> simp [h]

theorem doGate_wf (v : EView) (s : State) (h : BytesWf s.bytes) : OutWf (doGate v s) := by
  unfold doGate
  refine onUnit_wf s _ h fun pt u => ?_
  dsimp only
  (repeat' split) <;> simp [h]

theorem State.reptFire_wf (s : State) (pt u v hs) (h : BytesWf s.bytes) : OutWf (s.reptFire pt u v hs) := by
  unfold State.reptFire
  dsimp only
  (repeat' split) <;> simp [h]

theorem doRept_wf (v : EView) (s : State) (h : BytesWf s.bytes) : OutWf (doRept v s) := by
  unfold doRept
  refine onUnit_wf s _ h fun pt u => ?_
  dsimp only
  (repeat' split) <;> simp [h, State.reptFire_wf]

theorem doJoin_wf (v : EView) (s : State) (h : BytesWf s.bytes) : OutWf (doJoin v s) := by
  unfold doJoin
  refine onUnit_wf s _ h fun pt u => ?_
  dsimp only
  (repeat' split) <;> simp [h]

theorem doOneos_wf (v : EView) (s : State) (h : BytesWf s.bytes) : OutWf (doOneos v s) := by
  unfold doOneos
  refine onUnit_wf s _ h fun pt u => ?_
  dsimp only
  (repeat' split) <;> simp [h]

theorem doBranch_wf (want : Bool) (v : EView) (s : State) (h : BytesWf s.bytes) : OutWf (doBranch want v s) := by
  unfold doBranch
  refine onUnit_wf s _ h fun pt u => ?_
  dsimp only
  (repeat' split) <;> simp [h]

theorem doJmp_wf (v : EView) (s : State) (h : BytesWf s.bytes) : OutWf (doJmp v s) :=
  onUnit_wf s _ h fun pt u => by simp [h]

theorem doWaitq_wf (v : EView) (s : State) (h : BytesWf s.bytes) : OutWf (doWaitq v s) := by
  unfold doWaitq
  refine onUnit_wf s _ h fun pt u => ?_
  dsimp only
  (repeat' split) <;> simp [h]

theorem doLoop_wf (v : EView) (s : State) (h : BytesWf s.bytes) : OutWf (doLoop v s) := by
  unfold doLoop
  refine onUnit_wf s _ h fun pt u => ?_
  dsimp only
  (repeat' split) <;> simp [h]

theorem doJtab_wf (v : EView) (s : State) (h : BytesWf s.bytes) : OutWf (doJtab v s) := by
  unfold doJtab
  refine onUnit_wf s _ h fun pt u => ?_
  dsimp only
  (repeat' split) <;> simp [h]

theorem doOclm_wf (v : EView) (s : State) (h : BytesWf s.bytes) : OutWf (doOclm v s) := by
  unfold doOclm
  split
  · dsimp only
    split
    · exact fireElem_wf _ _ _ _ h
    · exact fireElem_wf _ _ _ _ h
  · simp

theorem doRotReq_wf (v : EView) (req) (s : State) (queued : Bool) (h : BytesWf s.bytes) :
    OutWf (doRotReq v req s queued) := by
  unfold doRotReq
  split
  · exact fireElem_wf _ _ _ _ h
  · simp

theorem elemRun_wf (v : EView) (s : State) (h : BytesWf s.bytes) : OutWf (elemRun v s) := by
  unfold elemRun
  split
  · exact haltUnit_wf v s h
  · exact doMerge_wf v s h
  · exact doSteer_wf v s h
  · exact doGate_wf v s h
  · exact doRept_wf v s h
  · exact doRept_wf v s h
  · exact doJoin_wf v s h
  · exact doJoin_wf v s h
  · exact doOneos_wf v s h
  · exact doBranch_wf true v s h
  · exact doBranch_wf false v s h
  · exact doJmp_wf v s h
  · exact doJtab_wf v s h
  · exact doWaitq_wf v s h
  · exact doLoop_wf v s h
  · exact doOclm_wf v s h
  · exact doRotReq_wf v joinReq s true h
  · exact doRotReq_wf v leaveReq s true h
  · exact doRotReq_wf v holdReq s true h
  · exact doRotReq_wf v releaseReq s true h
  · exact doRotReq_wf v probeReq s false h
  · exact fireElem_wf _ _ _ _ h
  · exact fireElem_wf _ _ _ _ h
  · exact fireElem_wf _ _ _ _ h

/-! ### Controller commands -/

theorem State.poll_wf (s : State) (c : Nat) (k : Hold) (h : BytesWf s.bytes) : OutWf (s.poll c k) := by
  cases k <;> simp only [State.poll] <;> (repeat' split) <;> simp [h]

/-- The parts of a command that give a state keep the one form. -/
structure Cmd.KeepsForm (d : Cmd) : Prop where
  begin : ∀ s c, BytesWf s.bytes → BytesWf (d.begin s c).bytes
  act : ∀ s c v, BytesWf s.bytes → OutWf (d.act s c v)

theorem Cmd.issue_wf {d : Cmd} (hd : d.KeepsForm) (s : State) (c v : Nat) (h : BytesWf s.bytes) : OutWf (d.issue s c v) := by
  unfold Cmd.issue
  split
  · simp [h]
  · exact hd.act s c v h

theorem Cmd.own_wf {d : Cmd} (hd : d.KeepsForm) (s : State) (c : Nat) (h : BytesWf s.bytes) : OutWf (d.own s c) := by
  have h1 := hd.begin s c h
  unfold Cmd.own
  split
  · simp [h]
  split
  · simpa using h
  dsimp only
  split
  · simpa using h1
  split
  · simpa using h1
  · next e => exact Cmd.issue_wf hd _ _ _ (by rw [State.condMet_bytes e]; exact h1)

theorem runCmd_wf {d : Cmd} (hd : d.KeepsForm) (w : CtlP2) (s : State) (h : BytesWf s.bytes) : OutWf (runCmd w d s) := by
  unfold runCmd
  split
  · extract_lets +onlyGivenNames x k
    clear_value k
    split
    · simpa using h
    split
    · exact s.poll_wf _ _ h
    split
    · simp [h]
    split
    · simpa using h
    split
    · simp [h]
    · next e =>
      have h1 := State.condMet_bytes e
      split
      · exact Cmd.issue_wf hd _ _ _ (by simp [h1, h])
      · exact Cmd.own_wf hd _ _ (by simp [h1, h])
  · simp

theorem atIssue_keepsForm (w : CtlP2) (len : Nat) (f : State → Nat → State)
    (hf : ∀ s c, BytesWf s.bytes → BytesWf (f s c).bytes) : (atIssue w len f).KeepsForm where
  begin _ _ h := h
  act s c _ h := by simp [atIssue, hf s c h]

/-! ### The instructions and events: Fabric -/

theorem execSwitchHop_wf (t : Nat) (i : BitVec 6) (s : State) (h : BytesWf s.bytes) : OutWf (execSwitchHop t i s) := by
  unfold execSwitchHop
  dsimp only
  (repeat' split) <;> simp [h]

theorem execTokenArrive_wf (q : BufId) (s : State) (h : BytesWf s.bytes) : OutWf (execTokenArrive q s) := by
  unfold execTokenArrive
  split
  · simpa using h
  · extract_lets +onlyGivenNames pt src track
    split
    · simp [h]
    · extract_lets +onlyGivenNames bad tok1
      clear_value tok1 bad
      split
      · simpa using h
      · next e =>
        have h1 := State.enter_bytes e
        simp only [State.bytes_mk, State.bytes_eta] at h1
        simp [h1, h]

theorem execElasticBufferPass_wf (q : BufId) (s : State) (h : BytesWf s.bytes) : OutWf (execElasticBufferPass q s) := by
  unfold execElasticBufferPass
  dsimp only
  (repeat' split) <;> simp [h]

theorem execBufferSlotReturn_wf (q : BufId) (s : State) (h : BytesWf s.bytes) : OutWf (execBufferSlotReturn q s) := by
  unfold execBufferSlotReturn
  (repeat' split) <;> simp [h]

theorem execControlTokenArrive_wf (q : BufId) (s : State) (h : BytesWf s.bytes) : OutWf (execControlTokenArrive q s) := by
  unfold execControlTokenArrive
  dsimp only
  (repeat' split) <;> simp [h]

/-! ### The instructions and events: Command -/

theorem execContextWake_wf (c : Nat) (s : State) (h : BytesWf s.bytes) : OutWf (execContextWake c s) := by
  unfold execContextWake
  dsimp only
  split
  · simpa using h
  split
  · simpa using h
  · next e => simp [State.condMet_bytes e, h]

/-! ### The instructions and events: Groups -/

theorem execGrpj_wf (imm : BitVec 8) (w : CtlP2) (s : State) (h : BytesWf s.bytes) : OutWf (execGrpj imm w s) := by
  unfold execGrpj
  dsimp only
  refine runCmd_wf ⟨fun s c h => h, fun s c v h => ?_⟩ w s h
  dsimp only
  (repeat' split) <;> simp [h]

theorem execGrpl_wf (imm : BitVec 8) (w : CtlP2) (s : State) (h : BytesWf s.bytes) : OutWf (execGrpl imm w s) :=
  runCmd_wf (atIssue_keepsForm _ _ _ fun _ _ h => by simp [h]) w s h

theorem execBarga_wf (d : XReg) (imm : BitVec 8) (w : CtlP2) (s : State) (h : BytesWf s.bytes) : OutWf (execBarga d imm w s) := by
  unfold execBarga
  dsimp only
  refine runCmd_wf ⟨fun s c h => h, fun s c v h => ?_⟩ w s h
  dsimp only
  (repeat' split) <;> simp [h]

theorem execBargw_wf (a : XReg) (imm : BitVec 8) (w : CtlP2) (s : State) (h : BytesWf s.bytes) : OutWf (execBargw a imm w s) := by
  unfold execBargw
  exact runCmd_wf ⟨fun _ _ h => h, fun _ _ _ h => by simp [h]⟩ w s h

/-! ### The instructions and events: Quorum -/

theorem execQuorumCopyWrite_wf (k : Nat) (s : State) (h : BytesWf s.bytes) : OutWf (execQuorumCopyWrite k s) := by
  unfold execQuorumCopyWrite
  dsimp only
  (repeat' split) <;> simp [h]

theorem execQuorumReply_wf (op copy : Nat) (s : State) (h : BytesWf s.bytes) : OutWf (execQuorumReply op copy s) := by
  unfold execQuorumReply
  dsimp only
  (repeat' split) <;> simp [h]

theorem execQuorumCopyTimeout_wf (op copy : Nat) (s : State) (h : BytesWf s.bytes) : OutWf (execQuorumCopyTimeout op copy s) := by
  unfold execQuorumCopyTimeout
  dsimp only
  (repeat' split) <;> simp [h]

/-! ### The instructions and events: Memory -/

theorem State.muAccept_wf (s : State) (pt : Nat) (u : Bool) (f : MuFn) (fn : Nat) (w : MemMods) (n : Nat) (x : MuUnit)
    (toks : List Token) (tuple : Option Token) (h : BytesWf s.bytes) : OutWf (s.muAccept pt u f fn w n x toks tuple) := by
  unfold State.muAccept
  dsimp only
  (repeat' split) <;> simp [h]

theorem fireMem_wf (fn : Nat) (w : MemMods) (s : State) (h : BytesWf s.bytes) : OutWf (fireMem fn w s) := by
  unfold fireMem
  dsimp only
  split
  · split
    · simpa using h
    split
    · simpa using h
    split
    · simp [h]
    split
    · simpa using h
    · exact s.muAccept_wf _ _ _ _ _ _ _ _ _ h
  · simp

theorem execLd_wf (m : MemMods) (s : State) (h : BytesWf s.bytes) : OutWf (execLd m s) := fireMem_wf _ _ _ h

theorem execSt_wf (m : MemMods) (s : State) (h : BytesWf s.bytes) : OutWf (execSt m s) := fireMem_wf _ _ _ h

theorem execGath_wf (m : MemMods) (s : State) (h : BytesWf s.bytes) : OutWf (execGath m s) := fireMem_wf _ _ _ h

theorem execScat_wf (m : MemMods) (s : State) (h : BytesWf s.bytes) : OutWf (execScat m s) := fireMem_wf _ _ _ h

theorem execAtom_wf (m : MemMods) (s : State) (h : BytesWf s.bytes) : OutWf (execAtom m s) := fireMem_wf _ _ _ h

theorem execOrd_wf (m : MemMods) (s : State) (h : BytesWf s.bytes) : OutWf (execOrd m s) := fireMem_wf _ _ _ h

theorem execFence_wf (m : MemMods) (s : State) (h : BytesWf s.bytes) : OutWf (execFence m s) := fireMem_wf _ _ _ h

theorem execQld_wf (m : MemMods) (s : State) (h : BytesWf s.bytes) : OutWf (execQld m s) := fireMem_wf _ _ _ h

theorem execQst_wf (m : MemMods) (s : State) (h : BytesWf s.bytes) : OutWf (execQst m s) := fireMem_wf _ _ _ h

theorem execQstv_wf (m : MemMods) (s : State) (h : BytesWf s.bytes) : OutWf (execQstv m s) := fireMem_wf _ _ _ h

theorem execBara_wf (m : MemMods) (s : State) (h : BytesWf s.bytes) : OutWf (execBara m s) := fireMem_wf _ _ _ h

theorem execBarw_wf (m : MemMods) (s : State) (h : BytesWf s.bytes) : OutWf (execBarw m s) := fireMem_wf _ _ _ h

theorem execPref_wf (m : MemMods) (s : State) (h : BytesWf s.bytes) : OutWf (execPref m s) := fireMem_wf _ _ _ h

theorem execMemoryRequestPerform_wf (t : Nat) (u : Bool) (r e : Nat) (o : Obs) (s : State) (h : BytesWf s.bytes) : OutWf (execMemoryRequestPerform t u r e o s) := by
  unfold execMemoryRequestPerform
  dsimp only
  (repeat' split) <;> simp [h]

theorem execMuReplyDeliver_wf (t : Nat) (u : Bool) (s : State) (h : BytesWf s.bytes) : OutWf (execMuReplyDeliver t u s) := by
  unfold execMuReplyDeliver
  dsimp only
  (repeat' split) <;> simp [h]

theorem execOrdFenceComplete_wf (t : Nat) (u : Bool) (s : State) (h : BytesWf s.bytes) : OutWf (execOrdFenceComplete t u s) := by
  unfold execOrdFenceComplete
  dsimp only
  (repeat' split) <;> simp [h]

theorem execBarwComplete_wf (t : Nat) (u : Bool) (s : State) (h : BytesWf s.bytes) : OutWf (execBarwComplete t u s) := by
  unfold execBarwComplete
  dsimp only
  (repeat' split) <;> simp [h]

theorem execBankCooldownEnd_wf (stack bank : Nat) (s : State) (h : BytesWf s.bytes) : OutWf (execBankCooldownEnd stack bank s) := by
  unfold execBankCooldownEnd
  (repeat' split) <;> simp [h]

theorem execPatrolScrub_wf (pa : Nat) (o : Ecc) (s : State) (h : BytesWf s.bytes) : OutWf (execPatrolScrub pa o s) := by
  unfold execPatrolScrub
  dsimp only
  (repeat' split) <;> simp [h]

/-! ### The instructions and events: Semaphores -/

theorem execSemw_wf (d a : XReg) (imm : BitVec 8) (w : CtlP2) (s : State) (h : BytesWf s.bytes) : OutWf (execSemw d a imm w s) := by
  unfold execSemw
  exact runCmd_wf ⟨fun _ _ h => h, fun _ _ _ h => by simp [h]⟩ w s h

theorem execSems_wf (a : XReg) (imm : BitVec 8) (w : CtlP2) (s : State) (h : BytesWf s.bytes) : OutWf (execSems a imm w s) :=
  runCmd_wf ⟨fun _ _ h => h, fun _ _ _ h => by simp [h]⟩ w s h

theorem execSemset_wf (a : XReg) (imm : BitVec 8) (w : CtlP2) (s : State) (h : BytesWf s.bytes) : OutWf (execSemset a imm w s) :=
  runCmd_wf ⟨fun _ _ h => h, fun _ _ _ h => by simp [atIssue, h]⟩ w s h

theorem execSemrd_wf (d : XReg) (imm : BitVec 8) (w : CtlP2) (s : State) (h : BytesWf s.bytes) : OutWf (execSemrd d imm w s) :=
  runCmd_wf (atIssue_keepsForm _ _ _ fun _ _ h => by simp [h]) w s h

theorem execTlw_wf (a b : XReg) (imm : BitVec 8) (w : CtlP2) (s : State) (h : BytesWf s.bytes) : OutWf (execTlw a b imm w s) :=
  runCmd_wf ⟨fun _ _ h => h, fun _ _ _ h => by simp [h]⟩ w s h

theorem execTla_wf (imm : BitVec 8) (w : CtlP2) (s : State) (h : BytesWf s.bytes) : OutWf (execTla imm w s) :=
  runCmd_wf ⟨fun _ _ h => h, fun _ _ _ h => by simp [h]⟩ w s h

theorem execTlrd_wf (d b : XReg) (imm : BitVec 8) (w : CtlP2) (s : State) (h : BytesWf s.bytes) : OutWf (execTlrd d b imm w s) :=
  runCmd_wf ⟨fun _ _ h => h, fun _ _ _ h => by simp [atIssue, h]⟩ w s h

theorem execEvtc_wf (a b : XReg) (imm : BitVec 8) (w : CtlP2) (s : State) (h : BytesWf s.bytes) : OutWf (execEvtc a b imm w s) :=
  runCmd_wf ⟨fun _ _ h => h, fun _ _ _ h => by simp [h]⟩ w s h

theorem execEventStart_wf (cl out : Nat) (s : State) (h : BytesWf s.bytes) : OutWf (execEventStart cl out s) := by
  unfold execEventStart
  dsimp only
  (repeat' split) <;> simp [h]

/-! ### The instructions and events: Engine -/

theorem execFork_wf (d a b : XReg) (imm : BitVec 8) (w : CtlP2) (s : State) (h : BytesWf s.bytes) : OutWf (execFork d a b imm w s) := by
  refine runCmd_wf ⟨fun s c h => h, fun s c v h => ?_⟩ w s h
  dsimp only
  (repeat' split) <;> simp [h]

theorem execRdv_wf (d a : XReg) (w : CtlP2) (s : State) (h : BytesWf s.bytes) : OutWf (execRdv d a w s) := by
  unfold execRdv
  exact runCmd_wf ⟨fun _ _ h => h, fun _ _ _ h => by simp [h]⟩ w s h

theorem State.copySector_wf (s : State) (eng : Nat) (o : EngOp) (ob : Obs) (h : BytesWf s.bytes) :
    OutWf (s.copySector eng o ob) := by
  have hm {α : Type} (x : Met α) : BytesWf (s.opMet eng o x fun _ => s).bytes := s.opMet_wf eng o x _ h fun _ => h
  unfold State.copySector
  extract_lets +onlyGivenNames plan
  clear_value plan
  split
  · simpa using h
  split
  · simp [h]
  split
  · next fs fd all =>
    have h1 ms := s.doSector_wf eng o fs fd ms ob h
    dsimp only
    split
    · simp [h]
    split
    · next ms1 sc1 _ _ =>
      split
      · simp [h]
      split
      · simp [h]
      · simp [h1]
    · simpa using hm _
    · simpa using hm _
  · simpa using hm _

theorem State.copyqCell_wf (s : State) (eng : Nat) (o : EngOp) (ob : Obs) (h : BytesWf s.bytes) :
    OutWf (s.copyqCell eng o ob) := by
  unfold State.copyqCell
  dsimp only
  split
  · simp [h]
  split
  · split
    · (repeat' split) <;> simp [h]
    · split
      · simpa using h
      · (repeat' split) <;> simp [h]
  · simpa using s.opMet_wf eng o _ _ h fun _ => h

theorem execCopySectorWrite_wf (c op : Nat) (o : Obs) (s : State) (h : BytesWf s.bytes) :
    OutWf (execCopySectorWrite c op o s) := by
  unfold execCopySectorWrite
  split
  · simpa using h
  split
  · simpa using h
  split
  · exact s.copyqCell_wf _ _ _ h
  · exact s.copySector_wf _ _ _ h

theorem execCopyOperationComplete_wf (c op : Nat) (s : State) (h : BytesWf s.bytes) : OutWf (execCopyOperationComplete c op s) := by
  unfold execCopyOperationComplete
  dsimp only
  (repeat' split) <;> simp [h]

theorem copyCommand_wf (fn : Nat) (d a : XReg) (imm : BitVec 8) (w : CtlP2) (s : State) (h : BytesWf s.bytes) : OutWf (copyCommand fn d a imm w s) := by
  refine runCmd_wf ⟨fun s c h => h, fun s c v h => ?_⟩ w s h
  dsimp only
  (repeat' split) <;> simp [h]

theorem execCopy_wf (d a : XReg) (imm : BitVec 8) (w : CtlP2) (s : State) (h : BytesWf s.bytes) : OutWf (execCopy d a imm w s) :=
  copyCommand_wf _ _ _ _ _ _ h

theorem execCopyg_wf (d a : XReg) (imm : BitVec 8) (w : CtlP2) (s : State) (h : BytesWf s.bytes) : OutWf (execCopyg d a imm w s) :=
  copyCommand_wf _ _ _ _ _ _ h

theorem execCopyf_wf (d a : XReg) (imm : BitVec 8) (w : CtlP2) (s : State) (h : BytesWf s.bytes) : OutWf (execCopyf d a imm w s) :=
  copyCommand_wf _ _ _ _ _ _ h

theorem execCopyq_wf (d a : XReg) (imm : BitVec 8) (w : CtlP2) (s : State) (h : BytesWf s.bytes) : OutWf (execCopyq d a imm w s) :=
  copyCommand_wf _ _ _ _ _ _ h

theorem execProm_wf (a : XReg) (imm : BitVec 8) (w : CtlP2) (s : State) (h : BytesWf s.bytes) : OutWf (execProm a imm w s) := by
  unfold execProm
  exact runCmd_wf ⟨fun _ _ h => h, fun _ _ _ h => by simp [h]⟩ w s h

theorem execPromiseExpiry_wf (c : Nat) (s : State) (h : BytesWf s.bytes) : OutWf (execPromiseExpiry c s) := by
  unfold execPromiseExpiry
  dsimp only
  (repeat' split) <;> simp [h]

/-! ### The instructions and events: Collective -/

theorem execCollectiveStep_wf (k i j : Nat) (s : State) (h : BytesWf s.bytes) : OutWf (execCollectiveStep k i j s) := by
  unfold execCollectiveStep
  dsimp only
  (repeat' split) <;> simp [h]

theorem execCollectiveStepTimeout_wf (k i j : Nat) (s : State) (h : BytesWf s.bytes) : OutWf (execCollectiveStepTimeout k i j s) := by
  unfold execCollectiveStepTimeout
  dsimp only
  (repeat' split) <;> simp [h]

theorem execCollectiveComplete_wf (k i : Nat) (s : State) (h : BytesWf s.bytes) :
    OutWf (execCollectiveComplete k i s) := by
  unfold execCollectiveComplete
  split
  · simpa using h
  split
  · simpa using h
  split
  · simpa using h
  dsimp only
  split
  · simpa using h
  split
  · simp [h]
  · exact (outWf_next _).mpr (s.collFetch_wf _ _ _ _ _ _ h fun t f vs ht =>
      t.collMet_wf _ _ _ _ _ ht fun ps => t.collSectors_wf _ _ _ _ _ _ _ _ ht)

theorem collCommand_wf (op : CollFn) (d a : XReg) (imm : BitVec 8) (w : CtlP2) (s : State) (h : BytesWf s.bytes) : OutWf (collCommand op d a imm w s) := by
  unfold collCommand
  dsimp only
  refine runCmd_wf ⟨fun s c h => h, fun s c v h => ?_⟩ w s h
  dsimp only
  (repeat' split) <;> simp [h]

theorem execCollAllred_wf (d a : XReg) (imm : BitVec 8) (w : CtlP2) (s : State) (h : BytesWf s.bytes) : OutWf (execCollAllred d a imm w s) :=
  collCommand_wf _ _ _ _ _ _ h

theorem execCollAllgath_wf (d a : XReg) (imm : BitVec 8) (w : CtlP2) (s : State) (h : BytesWf s.bytes) : OutWf (execCollAllgath d a imm w s) :=
  collCommand_wf _ _ _ _ _ _ h

theorem execCollRedscat_wf (d a : XReg) (imm : BitVec 8) (w : CtlP2) (s : State) (h : BytesWf s.bytes) : OutWf (execCollRedscat d a imm w s) :=
  collCommand_wf _ _ _ _ _ _ h

theorem execCollBcast_wf (d a : XReg) (imm : BitVec 8) (w : CtlP2) (s : State) (h : BytesWf s.bytes) : OutWf (execCollBcast d a imm w s) :=
  collCommand_wf _ _ _ _ _ _ h

theorem execCollScan_wf (d a : XReg) (imm : BitVec 8) (w : CtlP2) (s : State) (h : BytesWf s.bytes) : OutWf (execCollScan d a imm w s) :=
  collCommand_wf _ _ _ _ _ _ h

theorem execCollMaxidx_wf (d a : XReg) (imm : BitVec 8) (w : CtlP2) (s : State) (h : BytesWf s.bytes) : OutWf (execCollMaxidx d a imm w s) :=
  collCommand_wf _ _ _ _ _ _ h

/-! ### The instructions and events: Iterate -/

theorem execAgTupleEmit_wf (t : Nat) (g : Bool) (s : State) (h : BytesWf s.bytes) : OutWf (execAgTupleEmit t g s) := by
  unfold execAgTupleEmit
  dsimp only
  (repeat' split) <;> simp [h]

theorem execStealRequestHandle_wf (c : Nat) (s : State) (h : BytesWf s.bytes) : OutWf (execStealRequestHandle c s) := by
  unfold execStealRequestHandle
  dsimp only
  (repeat' split) <;> simp [h]

theorem execSplitApply_wf (c : Nat) (s : State) (h : BytesWf s.bytes) : OutWf (execSplitApply c s) := by
  unfold execSplitApply
  dsimp only
  (repeat' split) <;> simp [h]

theorem execBariInject_wf (c : Nat) (s : State) (h : BytesWf s.bytes) : OutWf (execBariInject c s) := by
  unfold execBariInject
  dsimp only
  (repeat' split) <;> simp [h]

/-! ### The instructions and events: Region -/

theorem execDetectorSample_wf (c : Nat) (s : State) (h : BytesWf s.bytes) : OutWf (execDetectorSample c s) := by
  unfold execDetectorSample
  dsimp only
  (repeat' split) <;> simp [h]

theorem endCommand_wf (halt : Bool) (w : CtlP2) (s : State) (h : BytesWf s.bytes) : OutWf (endCommand halt w s) := by
  refine runCmd_wf ⟨fun s c h => h, fun s c v h => ?_⟩ w s h
  dsimp only
  (repeat' split) <;> simp [h]

theorem execEndCmd_wf (w : CtlP2) (s : State) (h : BytesWf s.bytes) : OutWf (execEndCmd w s) := endCommand_wf _ _ _ h

theorem execCtlHalt_wf (w : CtlP2) (s : State) (h : BytesWf s.bytes) : OutWf (execCtlHalt w s) := endCommand_wf _ _ _ h

theorem execCfg_wf (a : XReg) (w : CtlP2) (s : State) (h : BytesWf s.bytes) : OutWf (execCfg a w s) :=
  runCmd_wf ⟨fun _ _ h => h, fun _ _ _ h => by simp [h]⟩ w s h

theorem execRun_wf (a b : XReg) (w : CtlP2) (s : State) (h : BytesWf s.bytes) : OutWf (execRun a b w s) :=
  runCmd_wf ⟨fun _ _ h => h, fun _ _ _ h => by simp [h]⟩ w s h

theorem execSteal_wf (d a : XReg) (w : CtlP2) (s : State) (h : BytesWf s.bytes) : OutWf (execSteal d a w s) := by
  refine runCmd_wf ⟨fun s c h => ?_, fun s c v h => ?_⟩ w s h
  · simp [h]
  · dsimp only
    simp [h]

theorem execSplit_wf (d a : XReg) (w : CtlP2) (s : State) (h : BytesWf s.bytes) : OutWf (execSplit d a w s) := by
  refine runCmd_wf ⟨fun s c h => h, fun s c v h => ?_⟩ w s h
  dsimp only
  (repeat' split) <;> simp [h]

theorem execIter_wf (d : XReg) (w : CtlP2) (s : State) (h : BytesWf s.bytes) : OutWf (execIter d w s) :=
  runCmd_wf ⟨fun _ _ h => h, fun _ _ _ h => by simp [atIssue, h]⟩ w s h

theorem execCtlDrain_wf (w : CtlP2) (s : State) (h : BytesWf s.bytes) : OutWf (execCtlDrain w s) :=
  runCmd_wf ⟨fun _ _ h => h, fun _ _ _ h => by simp [h]⟩ w s h

theorem execBari_wf (d : XReg) (imm : BitVec 8) (w : CtlP2) (s : State) (h : BytesWf s.bytes) : OutWf (execBari d imm w s) :=
  runCmd_wf ⟨fun _ _ h => h, fun _ _ _ h => by simp [h]⟩ w s h

/-! ### The instructions and events: Rotation -/

theorem execRotationArrival_wf (c : Nat) (l : Fin 8) (s : State) (h : BytesWf s.bytes) : OutWf (execRotationArrival c l s) := by
  unfold execRotationArrival
  dsimp only
  (repeat' split) <;> simp [h]

theorem execRotRequestEnqueue_wf (c : Nat) (l : Fin 8) (s : State) (h : BytesWf s.bytes) : OutWf (execRotRequestEnqueue c l s) := by
  unfold execRotRequestEnqueue
  dsimp only
  (repeat' split) <;> simp [h]

theorem execSlotEntryMove_wf (c : Nat) (l : Fin 8) (s : State) (h : BytesWf s.bytes) : OutWf (execSlotEntryMove c l s) := by
  unfold execSlotEntryMove
  dsimp only
  (repeat' split) <;> simp [h]

/-! ### The instructions and events: Load -/

theorem execImageRecordLoad_wf (c : Nat) (s0 : State) (h : BytesWf s0.bytes) : OutWf (execImageRecordLoad c s0) := by
  unfold execImageRecordLoad
  dsimp only
  (repeat' split) <;> simp [h]

/-! ### The instructions and events: Walks -/

theorem execPageWalkComplete_wf (k : Nat) (o : Ecc) (s : State) (h : BytesWf s.bytes) : OutWf (execPageWalkComplete k o s) := by
  unfold execPageWalkComplete
  dsimp only
  (repeat' split) <;> simp [h]

theorem execFarMemoryTimeout_wf (a : Requester) (u : Bool) (r e : Nat) (s : State) (h : BytesWf s.bytes) : OutWf (execFarMemoryTimeout a u r e s) := by
  unfold execFarMemoryTimeout
  (repeat' split) <;> simp [h]

/-! ### The instructions and events: Sched -/

theorem execSchedulerDispatch_wf (c : Nat) (s : State) (h : BytesWf s.bytes) : OutWf (execSchedulerDispatch c s) := by
  unfold execSchedulerDispatch
  dsimp only
  (repeat' split) <;> simp [h]

theorem execPreemptDecision_wf (waiter holder : Nat) (s : State) (h : BytesWf s.bytes) : OutWf (execPreemptDecision waiter holder s) := by
  unfold execPreemptDecision
  (repeat' split) <;> simp [h]

theorem execContextHalt_wf (c : Nat) (s : State) (h : BytesWf s.bytes) : OutWf (execContextHalt c s) := by
  unfold execContextHalt
  dsimp only
  (repeat' split) <;> simp [h]

theorem execSaveStaged_wf (c : Nat) (s : State) (h : BytesWf s.bytes) : OutWf (execSaveStaged c s) := by
  unfold execSaveStaged
  dsimp only
  (repeat' split) <;> simp [h]

theorem execSaveWritten_wf (c : Nat) (s : State) (h : BytesWf s.bytes) : OutWf (execSaveWritten c s) := by
  unfold execSaveWritten
  dsimp only
  (repeat' split) <;> simp [h]

theorem execContextResume_wf (c : Nat) (p : Place) (s : State) (h : BytesWf s.bytes) : OutWf (execContextResume c p s) := by
  unfold execContextResume
  dsimp only
  (repeat' split) <;> simp [h]

theorem execTeamSwapOut_wf (l g : Nat) (s : State) (h : BytesWf s.bytes) : OutWf (execTeamSwapOut l g s) := by
  unfold execTeamSwapOut
  dsimp only
  (repeat' split) <;> simp [h]

theorem execTeamSwapIn_wf (l g : Nat) (s : State) (h : BytesWf s.bytes) : OutWf (execTeamSwapIn l g s) := by
  unfold execTeamSwapIn
  split
  · simpa using h
  · extract_lets +onlyGivenNames gs ms ready
    split
    · simpa using h
    · refine (outWf_next _).mpr ?_
      rw [foldl_bytes State.engineBack_bytes]
      exact foldl_wf (fun t m ht => by split <;> simp [ht]) ms _ (by simp [h])

theorem execMigrationComplete_wf (c : Nat) (s : State) (h : BytesWf s.bytes) : OutWf (execMigrationComplete c s) := by
  unfold execMigrationComplete
  dsimp only
  (repeat' split) <;> simp [h]

theorem execContextReclaim_wf (c : Nat) (s : State) (h : BytesWf s.bytes) : OutWf (execContextReclaim c s) := by
  unfold execContextReclaim
  dsimp only
  (repeat' split) <;> simp [h]

/-! ### The instructions and events: Launch -/

theorem execLaunch_wf (fn : Nat) (off : Word64) (s : State) (h : BytesWf s.bytes) : OutWf (execLaunch fn off s) := by
  unfold execLaunch
  dsimp only
  (repeat' split) <;> simp [h]

theorem execLaunchPlace_wf (fn : Nat) (ps : List Place) (s0 : State) (h : BytesWf s0.bytes) :
    OutWf (execLaunchPlace fn ps s0) := by
  unfold execLaunchPlace
  extract_lets +onlyGivenNames d p root s
  have hs : BytesWf s.bytes := by simp [s, h]
  clear_value s
  dsimp only
  split
  · simpa using h
  split
  · simp [hs]
  · next im _ =>
    split
    · simp [hs]
    · next s1 ids e =>
      split
      · simp [hs]
      · have h1 : BytesWf s1.bytes := by rw [State.placeAll_bytes e]; exact hs
        have hr := State.initAll_wf _ ids im.data (s1.writeLaunch_wf s.nextLaunch fn im ids h1)
        split
        · simpa using hr
        · refine (outWf_next _).mpr ?_
          rw [State.refuseLaunch_bytes]
          exact ⟨State.wf_mem _ hr, State.wf_spad _ hr, State.wf_opnd _ hs⟩

/-! ### The instructions and events: Pipe -/

theorem execMapsel_wf (a : XReg) (imm : BitVec 8) (w : CtlP2) (s : State) (h : BytesWf s.bytes) : OutWf (execMapsel a imm w s) := by
  unfold execMapsel
  dsimp only
  refine runCmd_wf ⟨fun s c h => h, fun s c v h => ?_⟩ w s h
  dsimp only
  (repeat' split) <;> simp [h]

theorem execPipe_wf (d a : XReg) (w : CtlP2) (s : State) (h : BytesWf s.bytes) : OutWf (execPipe d a w s) := by
  unfold execPipe
  dsimp only
  refine runCmd_wf ⟨fun s c h => h, fun s c v h => ?_⟩ w s h
  dsimp only [atIssue]
  (repeat' split) <;> simp [h]

theorem execPipeSample_wf (l : Nat) (s : State) (h : BytesWf s.bytes) : OutWf (execPipeSample l s) := by
  unfold execPipeSample
  (repeat' split) <;> simp [h]

theorem execIterIndexIssue_wf (c : Nat) (s : State) (h : BytesWf s.bytes) : OutWf (execIterIndexIssue c s) := by
  unfold execIterIndexIssue
  dsimp only
  (repeat' split) <;> simp [h]

theorem execIterEosSend_wf (c : Nat) (s : State) (h : BytesWf s.bytes) : OutWf (execIterEosSend c s) := by
  unfold execIterEosSend
  dsimp only
  (repeat' split) <;> simp [h]

theorem execStageReassign_wf (l st : Nat) (s : State) (h : BytesWf s.bytes) : OutWf (execStageReassign l st s) := by
  unfold execStageReassign
  dsimp only
  (repeat' split) <;> simp [h]

theorem execStageReassignLoad_wf (l st : Nat) (s : State) (h : BytesWf s.bytes) : OutWf (execStageReassignLoad l st s) := by
  unfold execStageReassignLoad
  dsimp only
  (repeat' split) <;> simp [h]

/-! ### The instructions and events: Power -/

theorem execVoltageStepEnd_wf (die v : Nat) (s : State) (h : BytesWf s.bytes) : OutWf (execVoltageStepEnd die v s) := by
  unfold execVoltageStepEnd
  split
  · simpa using h
  · simpa [State.onRamp_bytes] using h

theorem execMonitorWindowEnd_wf (die v full blk : Nat) (s : State) (h : BytesWf s.bytes) : OutWf (execMonitorWindowEnd die v full blk s) := by
  unfold execMonitorWindowEnd
  dsimp only
  (repeat' split) <;> simp [h]

theorem execGuardGrant_wf (die v : Nat) (s : State) (h : BytesWf s.bytes) : OutWf (execGuardGrant die v s) := by
  unfold execGuardGrant
  extract_lets +onlyGivenNames x d n older
  clear_value n older
  split
  · simpa using h
  · simpa [State.onRamp_bytes] using h

theorem execGuardRelease_wf (die v : Nat) (s : State) (h : BytesWf s.bytes) : OutWf (execGuardRelease die v s) := by
  unfold execGuardRelease
  dsimp only
  split
  · simpa using h
  · simpa [State.onRamp_bytes] using h

theorem execThermalSample_wf (die tile : Nat) (reading : BitVec 16) (s : State) (h : BytesWf s.bytes) : OutWf (execThermalSample die tile reading s) := by
  unfold execThermalSample
  dsimp only
  (repeat' split) <;> simp [h]

theorem execUndervoltage_wf (die v supply : Nat) (s : State) (h : BytesWf s.bytes) : OutWf (execUndervoltage die v supply s) := by
  unfold execUndervoltage
  dsimp only
  (repeat' split) <;> simp [h]

theorem execSupplyReachesVreq_wf (die v : Nat) (s : State) (h : BytesWf s.bytes) : OutWf (execSupplyReachesVreq die v s) := by
  unfold execSupplyReachesVreq
  dsimp only
  (repeat' split) <;> simp [h]

theorem execOvercurrent_wf (die : Nat) (s : State) (h : BytesWf s.bytes) : OutWf (execOvercurrent die s) := by
  unfold execOvercurrent
  dsimp only
  (repeat' split) <;> simp [h]

theorem execOvercurrentClear_wf (die : Nat) (s : State) (h : BytesWf s.bytes) : OutWf (execOvercurrentClear die s) := by
  unfold execOvercurrentClear
  dsimp only
  (repeat' split) <;> simp [h]

theorem execPowerAverageWindow_wf (mw : Nat) (s : State) (h : BytesWf s.bytes) :
    OutWf (execPowerAverageWindow mw s) := by
  unfold execPowerAverageWindow
  extract_lets +onlyGivenNames b
  clear_value b
  split
  · exact (outWf_stall s).mpr h
  extract_lets +onlyGivenNames s0 start
  have h0 : s0.bytes = s.bytes := rfl
  clear_value s0
  split
  · split <;> simp [h0, h]
  · refine (outWf_next _).mpr ?_
    rw [foldl_bytes fun t r => by dsimp only; split <;> simp]
    simpa [h0] using h

theorem execEnergyChargePost_wf (c nj : Nat) (s : State) (h : BytesWf s.bytes) : OutWf (execEnergyChargePost c nj s) := by
  unfold execEnergyChargePost
  (repeat' split) <;> simp [h]

/-! ### The instructions and events: Queues -/

theorem execQsend_wf (a b : XReg) (imm : BitVec 8) (w : CtlP2) (s : State) (h : BytesWf s.bytes) : OutWf (execQsend a b imm w s) := by
  unfold execQsend
  dsimp only
  refine runCmd_wf ⟨fun s c h => h, fun s c v h => ?_⟩ w s h
  dsimp only
  (repeat' split) <;> simp [h]

theorem execDieQueueEntryArrive_wf (die q : Nat) (bad : Bool) (s : State) (h : BytesWf s.bytes) :
    OutWf (execDieQueueEntryArrive die q bad s) := by
  unfold execDieQueueEntryArrive
  extract_lets +onlyGivenNames x
  clear_value x
  split
  · simpa using h
  split
  · simpa using h
  · extract_lets +onlyGivenNames marks
    clear_value marks
    cases bad <;> simp [h]

theorem execQrecv_wf (d a b : XReg) (imm : BitVec 8) (w : CtlP2) (s : State) (h : BytesWf s.bytes) : OutWf (execQrecv d a b imm w s) := by
  unfold execQrecv
  dsimp only
  refine runCmd_wf ⟨fun s c h => h, fun s c v h => ?_⟩ w s h
  dsimp only
  (repeat' split) <;> simp [h]

theorem execQpeek_wf (d : XReg) (imm : BitVec 8) (w : CtlP2) (s : State) (h : BytesWf s.bytes) : OutWf (execQpeek d imm w s) := by
  unfold execQpeek
  dsimp only
  refine runCmd_wf ⟨fun s c h => h, fun s c v h => ?_⟩ w s h
  dsimp only
  (repeat' split) <;> simp [h]

/-! ### The instructions and events: Registers -/

theorem regStep_wf (o : WriteBy) (die num inst : Nat) (w : Word64) (s : State) (h : BytesWf s.bytes) :
    OutWf (regStep o die num inst w s) := by
  unfold regStep
  split <;> simp [h]

theorem execVfctlWrite_wf (o : WriteBy) (die inst : Nat) (w : Word64) (s : State) (h : BytesWf s.bytes) : OutWf (execVfctlWrite o die inst w s) :=
  regStep_wf _ _ _ _ _ _ h

theorem execCurveWrite_wf (o : WriteBy) (die num : Nat) (w : Word64) (s : State) (h : BytesWf s.bytes) :
    OutWf (execCurveWrite o die num w s) := by
  unfold execCurveWrite
  split
  · exact regStep_wf _ _ _ _ _ _ h
  · simpa using h

theorem execRungcapWrite_wf (o : WriteBy) (die inst : Nat) (w : Word64) (s : State) (h : BytesWf s.bytes) : OutWf (execRungcapWrite o die inst w s) :=
  regStep_wf _ _ _ _ _ _ h

theorem execHostirq_wf (o : WriteBy) (die : Nat) (w : Word64) (s : State) (h : BytesWf s.bytes) : OutWf (execHostirq o die w s) :=
  regStep_wf _ _ _ _ _ _ h

theorem execQsetWrite_wf (o : WriteBy) (die inst : Nat) (w : Word64) (s : State) (h : BytesWf s.bytes) : OutWf (execQsetWrite o die inst w s) :=
  regStep_wf _ _ _ _ _ _ h

theorem execDqtWrite_wf (o : WriteBy) (die inst : Nat) (w : Word64) (s : State) (h : BytesWf s.bytes) : OutWf (execDqtWrite o die inst w s) :=
  regStep_wf _ _ _ _ _ _ h

theorem execPlaceWrite_wf (o : WriteBy) (die inst : Nat) (w : Word64) (s : State) (h : BytesWf s.bytes) : OutWf (execPlaceWrite o die inst w s) :=
  regStep_wf _ _ _ _ _ _ h

theorem execRhctlWrite_wf (o : WriteBy) (die inst : Nat) (w : Word64) (s : State) (h : BytesWf s.bytes) : OutWf (execRhctlWrite o die inst w s) :=
  regStep_wf _ _ _ _ _ _ h

theorem execTfenceWrite_wf (o : WriteBy) (die inst : Nat) (w : Word64) (s : State) (h : BytesWf s.bytes) : OutWf (execTfenceWrite o die inst w s) :=
  regStep_wf _ _ _ _ _ _ h

theorem execErstatusClear_wf (o : WriteBy) (die inst : Nat) (w : Word64) (s : State) (h : BytesWf s.bytes) : OutWf (execErstatusClear o die inst w s) :=
  regStep_wf _ _ _ _ _ _ h

theorem execAttnonce_wf (o : WriteBy) (die inst : Nat) (w : Word64) (s : State) (h : BytesWf s.bytes) : OutWf (execAttnonce o die inst w s) :=
  regStep_wf _ _ _ _ _ _ h

theorem execLinkctlRetrain_wf (o : WriteBy) (die inst : Nat) (w : Word64) (s : State) (h : BytesWf s.bytes) : OutWf (execLinkctlRetrain o die inst w s) :=
  regStep_wf _ _ _ _ _ _ h

theorem tableWrite_wf (inst : Nat) (be : BitVec 8) (w : Word64) (s : State) (h : BytesWf s.bytes) : OutWf (tableWrite inst be w s) := by
  unfold tableWrite
  dsimp only
  (repeat' split) <;> simp [h]

theorem lstatWrite_wf (fn : Nat) (be : BitVec 8) (w : Word64) (s : State) (h : BytesWf s.bytes) : OutWf (lstatWrite fn be w s) := by
  unfold lstatWrite
  dsimp only
  (repeat' split) <;> simp [h]

theorem execRegisterWrite_wf (o : WriteBy) (die num inst : Nat) (w : Word64) (s : State) (h : BytesWf s.bytes) :
    OutWf (execRegisterWrite o die num inst w s) := by
  unfold execRegisterWrite
  split
  · simpa using h
  split
  · split
    · exact lstatWrite_wf _ _ _ _ h
    split
    · exact tableWrite_wf _ _ _ _ h
    · exact regStep_wf _ _ _ _ _ _ h
  · exact regStep_wf _ _ _ _ _ _ h

theorem execAttestReportReady_wf (die : Nat) (s : State) (h : BytesWf s.bytes) : OutWf (execAttestReportReady die s) := by
  unfold execAttestReportReady
  dsimp only
  (repeat' split) <;> simp [h]

/-! ### The instructions and events: System -/

theorem execTrap_wf (imm : BitVec 8) (w : CtlP2) (s : State) (h : BytesWf s.bytes) : OutWf (execTrap imm w s) :=
  runCmd_wf ⟨fun _ _ h => h, fun _ _ _ h => by simp [h]⟩ w s h

theorem execSysc_wf (d a : XReg) (b : BitVec 8) (w : CtlP2) (s : State) (h : BytesWf s.bytes) :
    OutWf (execSysc d a b w s) :=
  runCmd_wf ⟨fun _ _ h => h, fun _ _ _ h => by simp [h]⟩ w s h

theorem execRds_wf (d : XReg) (imm : BitVec 8) (w : CtlP2) (s : State) (h : BytesWf s.bytes) : OutWf (execRds d imm w s) := by
  unfold execRds
  dsimp only
  exact runCmd_wf ⟨fun _ _ h => h, fun _ _ _ h => by simp [atIssue, h]⟩ w s h

theorem execWrs_wf (a : XReg) (imm : BitVec 8) (w : CtlP2) (s : State) (h : BytesWf s.bytes) : OutWf (execWrs a imm w s) := by
  unfold execWrs
  dsimp only
  exact runCmd_wf ⟨fun _ _ h => h, fun _ _ _ h => by simp [atIssue, h]⟩ w s h

theorem execLtwrite_wf (a : XReg) (w : CtlP2) (s : State) (h : BytesWf s.bytes) : OutWf (execLtwrite a w s) :=
  runCmd_wf (atIssue_keepsForm _ _ _ fun _ _ h => by simp [h]) w s h

theorem execLtfetch_wf (a : XReg) (w : CtlP2) (s : State) (h : BytesWf s.bytes) : OutWf (execLtfetch a w s) :=
  runCmd_wf (atIssue_keepsForm _ _ _ fun _ _ h => by simp [h]) w s h

theorem execEnrd_wf (d a : XReg) (w : CtlP2) (s : State) (h : BytesWf s.bytes) : OutWf (execEnrd d a w s) := by
  unfold execEnrd
  dsimp only
  exact runCmd_wf ⟨fun _ _ h => h, fun _ _ _ h => by simp [atIssue, h]⟩ w s h

theorem execCyc_wf (d : XReg) (w : CtlP2) (s : State) (h : BytesWf s.bytes) : OutWf (execCyc d w s) :=
  runCmd_wf (atIssue_keepsForm _ _ _ fun _ _ h => by simp [h]) w s h

theorem execTrapDelivery_wf (die : Nat) (s : State) (h : BytesWf s.bytes) : OutWf (execTrapDelivery die s) := by
  unfold execTrapDelivery
  dsimp only
  (repeat' split) <;> simp [h]

theorem execRett_wf (a b : XReg) (w : CtlP2) (s : State) (h : BytesWf s.bytes) : OutWf (execRett a b w s) := by
  refine runCmd_wf ⟨fun s c h => h, fun s c v h => ?_⟩ w s h
  dsimp only
  (repeat' split) <;> simp [h]

/-! ### The instructions and events: Supervise -/

theorem execSusp_wf (a : XReg) (w : CtlP2) (s : State) (h : BytesWf s.bytes) : OutWf (execSusp a w s) := by
  refine runCmd_wf ⟨fun s c h => h, fun s c v h => ?_⟩ w s h
  dsimp only
  (repeat' split) <;> simp [h]

theorem execResm_wf (d a : XReg) (w : CtlP2) (s : State) (h : BytesWf s.bytes) : OutWf (execResm d a w s) := by
  refine runCmd_wf ⟨fun s c h => h, fun s c v h => ?_⟩ w s h
  dsimp only
  (repeat' split) <;> simp [h]

theorem execMigr_wf (a b : XReg) (w : CtlP2) (s : State) (h : BytesWf s.bytes) : OutWf (execMigr a b w s) := by
  refine runCmd_wf ⟨fun s c h => h, fun s c v h => ?_⟩ w s h
  dsimp only
  (repeat' split) <;> simp [h]

theorem execSave_wf (a b : XReg) (w : CtlP2) (s : State) (h : BytesWf s.bytes) : OutWf (execSave a b w s) := by
  refine runCmd_wf ⟨fun s c h => h, fun s c v h => ?_⟩ w s h
  dsimp only
  (repeat' split) <;> simp [h]

theorem execRest_wf (a b : XReg) (w : CtlP2) (s : State) (h : BytesWf s.bytes) : OutWf (execRest a b w s) := by
  refine runCmd_wf ⟨fun s c h => h, fun s c v h => ?_⟩ w s h
  dsimp only
  (repeat' split) <;> simp [h]

theorem execTlbi_wf (a : XReg) (imm : BitVec 8) (w : CtlP2) (s : State) (h : BytesWf s.bytes) : OutWf (execTlbi a imm w s) :=
  runCmd_wf ⟨fun _ _ h => h, fun _ _ _ h => by simp [h]⟩ w s h

/-! ### The instructions and events: HostLink -/

theorem execBar4Access_wf (fn : Nat) (off : Word64) (wr : Bool) (data : List Byte) (s : State) (h : BytesWf s.bytes) : OutWf (execBar4Access fn off wr data s) := by
  unfold execBar4Access
  dsimp only
  (repeat' split) <;> simp [h]

theorem execHostLinkError_wf (o : HostErr) (s : State) (h : BytesWf s.bytes) : OutWf (execHostLinkError o s) := by
  unfold execHostLinkError
  (repeat' split) <;> simp [h]

theorem execLinkCrcError_wf (die inst : Nat) (o : CrcObs) (s : State) (h : BytesWf s.bytes) : OutWf (execLinkCrcError die inst o s) := by
  unfold execLinkCrcError
  dsimp only
  (repeat' split) <;> simp [h]

theorem execLinkTrainComplete_wf (die inst : Nat) (ok : Bool) (s : State) (h : BytesWf s.bytes) : OutWf (execLinkTrainComplete die inst ok s) := by
  unfold execLinkTrainComplete
  dsimp only
  (repeat' split) <;> simp [h]

theorem execSelfTestStart_wf (die k : Nat) (s : State) (h : BytesWf s.bytes) : OutWf (execSelfTestStart die k s) := by
  unfold execSelfTestStart
  (repeat' split) <;> simp [h]

theorem execSelfTestComplete_wf (die k : Nat) (o : TestObs) (s : State) (h : BytesWf s.bytes) : OutWf (execSelfTestComplete die k o s) := by
  unfold execSelfTestComplete
  dsimp only
  (repeat' split) <;> simp [h]

/-! ### The instructions and events: Matrix -/

theorem onToken_wf (op : Nat) (t : MxTok) (claims : List Nat) (s : State) (f : Nat → State → Out) (h : BytesWf s.bytes)
    (hf : ∀ pt, OutWf (f pt s)) : OutWf (onToken op t claims s f) := by
  unfold onToken
  split
  · split
    · simpa using h
    split
    · dsimp only
      split
      · simp [h]
      split
      · simp [h]
      split
      · simpa using h
      split
      · simp [h]
      · exact hf _
    · simpa using h
  · simp

theorem fireMma_wf (op : Nat) (t : MxTok) (wa wb : Nat) (scaled : Bool) (f : State → Nat → Bool → Mx) (s : State)
    (h : BytesWf s.bytes) : OutWf (fireMma op t wa wb scaled f s) := by
  unfold fireMma
  refine onToken_wf _ _ _ _ _ h fun pt => ?_
  dsimp only
  split
  · simp [h]
  · split <;> simp [h]

theorem execMzero_wf (t : MxTok) (s : State) (h : BytesWf s.bytes) : OutWf (execMzero t s) :=
  onToken_wf _ _ _ _ _ h fun pt => by simp [h]

theorem execMmaBf16_wf (t : MxTok) (s : State) (h : BytesWf s.bytes) : OutWf (execMmaBf16 t s) :=
  fireMma_wf _ _ _ _ _ _ _ h

theorem execMmaW4i_wf (t : MxTok) (s : State) (h : BytesWf s.bytes) : OutWf (execMmaW4i t s) :=
  fireMma_wf _ _ _ _ _ _ _ h

theorem execMmaW4f_wf (t : MxTok) (s : State) (h : BytesWf s.bytes) : OutWf (execMmaW4f t s) :=
  fireMma_wf _ _ _ _ _ _ _ h

theorem execMmaI8_wf (t : MxTok) (s : State) (h : BytesWf s.bytes) : OutWf (execMmaI8 t s) := fireMma_wf _ _ _ _ _ _ _ h

theorem execMmaI4_wf (t : MxTok) (s : State) (h : BytesWf s.bytes) : OutWf (execMmaI4 t s) := fireMma_wf _ _ _ _ _ _ _ h

theorem fireDrainMx_wf (op : Nat) (t : MxTok) (s : State) (h : BytesWf s.bytes) : OutWf (fireDrainMx op t s) := by
  unfold fireDrainMx
  refine onToken_wf _ _ _ _ _ h fun pt => ?_
  dsimp only
  split <;> simp [h]

theorem execMdrain_wf (t : MxTok) (s : State) (h : BytesWf s.bytes) : OutWf (execMdrain t s) := fireDrainMx_wf _ _ _ h

theorem execMdrainMean_wf (t : MxTok) (s : State) (h : BytesWf s.bytes) : OutWf (execMdrainMean t s) :=
  fireDrainMx_wf _ _ _ h

theorem execMcount_wf (t : MxTok) (s : State) (h : BytesWf s.bytes) : OutWf (execMcount t s) := fireDrainMx_wf _ _ _ h

theorem execMatrixRelease_wf (t : MxTok) (s : State) (h : BytesWf s.bytes) : OutWf (execMatrixRelease t s) := by
  unfold execMatrixRelease
  dsimp only
  (repeat' split) <;> simp [h]

theorem execMatrixEntryComplete_wf (t : Nat) (s : State) (h : BytesWf s.bytes) : OutWf (execMatrixEntryComplete t s) := by
  unfold execMatrixEntryComplete
  dsimp only
  (repeat' split) <;> simp [h]

theorem execMatrixDrainToken_wf (t : Nat) (s : State) (h : BytesWf s.bytes) : OutWf (execMatrixDrainToken t s) := by
  unfold execMatrixDrainToken
  dsimp only
  (repeat' split) <;> simp [h]

theorem execMatrixMarkPass_wf (t : Nat) (s : State) (h : BytesWf s.bytes) : OutWf (execMatrixMarkPass t s) := by
  unfold execMatrixMarkPass
  dsimp only
  (repeat' split) <;> simp [h]

/-! ### The instructions and events: RotSave -/

theorem execRotsv_wf (a : XReg) (imm : BitVec 8) (w : CtlP2) (s : State) (h : BytesWf s.bytes) : OutWf (execRotsv a imm w s) := by
  refine runCmd_wf ⟨fun s c h => h, fun s c v h => ?_⟩ w s h
  dsimp only
  (repeat' split) <;> simp [h]

theorem execRotld_wf (a b : XReg) (w : CtlP2) (s : State) (h : BytesWf s.bytes) : OutWf (execRotld a b w s) := by
  unfold execRotld
  dsimp only
  refine runCmd_wf ⟨fun s c h => h, fun s c v h => ?_⟩ w s h
  dsimp only
  (repeat' split) <;> simp [h]

/-! ### The instructions and events: Scalar -/

theorem aluReg_wf (op : AluOp) (d a b : XReg) (w : CtlP2) (s : State) (h : BytesWf s.bytes) : OutWf (aluReg op d a b w s) :=
  runCmd_wf (atIssue_keepsForm _ _ _ fun _ _ h => by simp [h]) w s h

theorem aluLit_wf (op : AluOp) (d a : XReg) (imm : BitVec 8) (w : CtlP2) (s : State) (h : BytesWf s.bytes) : OutWf (aluLit op d a imm w s) :=
  runCmd_wf (atIssue_keepsForm _ _ _ fun _ _ h => by simp [h]) w s h

theorem branchIf_wf (t : Word64 → Word64 → Bool) (a b : XReg) (w : CtlP2) (lit : Parcel) (s : State) (h : BytesWf s.bytes) : OutWf (branchIf t a b w lit s) := by
  refine runCmd_wf ⟨fun s c h => h, fun s c v h => ?_⟩ w s h
  dsimp only
  (repeat' split) <;> simp [h]

theorem execCtlAdd_wf (d a b : XReg) (w : CtlP2) (s : State) (h : BytesWf s.bytes) : OutWf (execCtlAdd d a b w s) :=
  aluReg_wf _ _ _ _ _ _ h

theorem execCtlAddImm_wf (d a : XReg) (imm : BitVec 8) (w : CtlP2) (s : State) (h : BytesWf s.bytes) : OutWf (execCtlAddImm d a imm w s) :=
  aluLit_wf _ _ _ _ _ _ h

theorem execCtlSub_wf (d a b : XReg) (w : CtlP2) (s : State) (h : BytesWf s.bytes) : OutWf (execCtlSub d a b w s) :=
  aluReg_wf _ _ _ _ _ _ h

theorem execCtlSubImm_wf (d a : XReg) (imm : BitVec 8) (w : CtlP2) (s : State) (h : BytesWf s.bytes) : OutWf (execCtlSubImm d a imm w s) :=
  aluLit_wf _ _ _ _ _ _ h

theorem execCtlAnd_wf (d a b : XReg) (w : CtlP2) (s : State) (h : BytesWf s.bytes) : OutWf (execCtlAnd d a b w s) :=
  aluReg_wf _ _ _ _ _ _ h

theorem execCtlAndImm_wf (d a : XReg) (imm : BitVec 8) (w : CtlP2) (s : State) (h : BytesWf s.bytes) : OutWf (execCtlAndImm d a imm w s) :=
  aluLit_wf _ _ _ _ _ _ h

theorem execCtlOr_wf (d a b : XReg) (w : CtlP2) (s : State) (h : BytesWf s.bytes) : OutWf (execCtlOr d a b w s) :=
  aluReg_wf _ _ _ _ _ _ h

theorem execCtlOrImm_wf (d a : XReg) (imm : BitVec 8) (w : CtlP2) (s : State) (h : BytesWf s.bytes) : OutWf (execCtlOrImm d a imm w s) :=
  aluLit_wf _ _ _ _ _ _ h

theorem execCtlXor_wf (d a b : XReg) (w : CtlP2) (s : State) (h : BytesWf s.bytes) : OutWf (execCtlXor d a b w s) :=
  aluReg_wf _ _ _ _ _ _ h

theorem execCtlXorImm_wf (d a : XReg) (imm : BitVec 8) (w : CtlP2) (s : State) (h : BytesWf s.bytes) : OutWf (execCtlXorImm d a imm w s) :=
  aluLit_wf _ _ _ _ _ _ h

theorem execCtlShl_wf (d a b : XReg) (w : CtlP2) (s : State) (h : BytesWf s.bytes) : OutWf (execCtlShl d a b w s) :=
  aluReg_wf _ _ _ _ _ _ h

theorem execCtlShlImm_wf (d a : XReg) (imm : BitVec 8) (w : CtlP2) (s : State) (h : BytesWf s.bytes) : OutWf (execCtlShlImm d a imm w s) :=
  aluLit_wf _ _ _ _ _ _ h

theorem execCtlShr_wf (d a b : XReg) (w : CtlP2) (s : State) (h : BytesWf s.bytes) : OutWf (execCtlShr d a b w s) :=
  aluReg_wf _ _ _ _ _ _ h

theorem execCtlShrImm_wf (d a : XReg) (imm : BitVec 8) (w : CtlP2) (s : State) (h : BytesWf s.bytes) : OutWf (execCtlShrImm d a imm w s) :=
  aluLit_wf _ _ _ _ _ _ h

theorem execCtlSar_wf (d a b : XReg) (w : CtlP2) (s : State) (h : BytesWf s.bytes) : OutWf (execCtlSar d a b w s) :=
  aluReg_wf _ _ _ _ _ _ h

theorem execCtlSarImm_wf (d a : XReg) (imm : BitVec 8) (w : CtlP2) (s : State) (h : BytesWf s.bytes) : OutWf (execCtlSarImm d a imm w s) :=
  aluLit_wf _ _ _ _ _ _ h

theorem execCtlMul_wf (d a b : XReg) (w : CtlP2) (s : State) (h : BytesWf s.bytes) : OutWf (execCtlMul d a b w s) :=
  aluReg_wf _ _ _ _ _ _ h

theorem execCtlMulImm_wf (d a : XReg) (imm : BitVec 8) (w : CtlP2) (s : State) (h : BytesWf s.bytes) : OutWf (execCtlMulImm d a imm w s) :=
  aluLit_wf _ _ _ _ _ _ h

theorem execCtlMin_wf (d a b : XReg) (w : CtlP2) (s : State) (h : BytesWf s.bytes) : OutWf (execCtlMin d a b w s) :=
  aluReg_wf _ _ _ _ _ _ h

theorem execCtlMinImm_wf (d a : XReg) (imm : BitVec 8) (w : CtlP2) (s : State) (h : BytesWf s.bytes) : OutWf (execCtlMinImm d a imm w s) :=
  aluLit_wf _ _ _ _ _ _ h

theorem execCtlMax_wf (d a b : XReg) (w : CtlP2) (s : State) (h : BytesWf s.bytes) : OutWf (execCtlMax d a b w s) :=
  aluReg_wf _ _ _ _ _ _ h

theorem execCtlMaxImm_wf (d a : XReg) (imm : BitVec 8) (w : CtlP2) (s : State) (h : BytesWf s.bytes) : OutWf (execCtlMaxImm d a imm w s) :=
  aluLit_wf _ _ _ _ _ _ h

theorem execBeq_wf (a b : XReg) (w : CtlP2) (lit : Parcel) (s : State) (h : BytesWf s.bytes) : OutWf (execBeq a b w lit s) :=
  branchIf_wf _ _ _ _ _ _ h

theorem execBne_wf (a b : XReg) (w : CtlP2) (lit : Parcel) (s : State) (h : BytesWf s.bytes) : OutWf (execBne a b w lit s) :=
  branchIf_wf _ _ _ _ _ _ h

theorem execBlt_wf (a b : XReg) (w : CtlP2) (lit : Parcel) (s : State) (h : BytesWf s.bytes) : OutWf (execBlt a b w lit s) :=
  branchIf_wf _ _ _ _ _ _ h

theorem execBge_wf (a b : XReg) (w : CtlP2) (lit : Parcel) (s : State) (h : BytesWf s.bytes) : OutWf (execBge a b w lit s) :=
  branchIf_wf _ _ _ _ _ _ h

theorem execBltu_wf (a b : XReg) (w : CtlP2) (lit : Parcel) (s : State) (h : BytesWf s.bytes) : OutWf (execBltu a b w lit s) :=
  branchIf_wf _ _ _ _ _ _ h

theorem execBgeu_wf (a b : XReg) (w : CtlP2) (lit : Parcel) (s : State) (h : BytesWf s.bytes) : OutWf (execBgeu a b w lit s) :=
  branchIf_wf _ _ _ _ _ _ h

theorem execLi_wf (d : XReg) (w : CtlP2) (lit : Parcel) (s : State) (h : BytesWf s.bytes) : OutWf (execLi d w lit s) :=
  runCmd_wf (atIssue_keepsForm _ _ _ fun _ _ h => by simp [h]) w s h

theorem execLiHigh_wf (d : XReg) (w : CtlP2) (lit : Parcel) (s : State) (h : BytesWf s.bytes) : OutWf (execLiHigh d w lit s) :=
  runCmd_wf (atIssue_keepsForm _ _ _ fun _ _ h => by simp [h]) w s h

theorem execB_wf (w : CtlP2) (lit : Parcel) (s : State) (h : BytesWf s.bytes) : OutWf (execB w lit s) :=
  runCmd_wf ⟨fun _ _ h => h, fun _ _ _ h => by simp [h]⟩ w s h

theorem execCall_wf (d : XReg) (w : CtlP2) (lit : Parcel) (s : State) (h : BytesWf s.bytes) : OutWf (execCall d w lit s) :=
  runCmd_wf ⟨fun _ _ h => h, fun _ _ _ h => by simp [h]⟩ w s h

theorem execRet_wf (a : XReg) (w : CtlP2) (s : State) (h : BytesWf s.bytes) : OutWf (execRet a w s) :=
  runCmd_wf ⟨fun _ _ h => h, fun _ _ _ h => by simp [h]⟩ w s h

theorem execCtlJtab_wf (a b : XReg) (imm : BitVec 8) (w : CtlP2) (s : State) (h : BytesWf s.bytes) : OutWf (execCtlJtab a b imm w s) :=
  runCmd_wf ⟨fun _ _ h => h, fun _ _ _ h => by simp [h]⟩ w s h

theorem execCtlLpad_wf (label : BitVec 10) (w : CtlP2) (s : State) (h : BytesWf s.bytes) : OutWf (execCtlLpad label w s) :=
  runCmd_wf (atIssue_keepsForm _ _ _ fun _ _ h => by simp [h]) w s h

theorem execCtlNop_wf (w : CtlP2) (s : State) (h : BytesWf s.bytes) : OutWf (execCtlNop w s) :=
  runCmd_wf (atIssue_keepsForm _ _ _ fun _ _ h => by simp [h]) w s h

theorem execCtlNopEventWait_wf (w : CtlP2) (s : State) (h : BytesWf s.bytes) : OutWf (execCtlNopEventWait w s) :=
  runCmd_wf ⟨fun _ _ h => h, fun _ _ _ h => by simp [h]⟩ w s h

/-! ### The instructions and events: Start -/

theorem execColdStart_wf (o : StartObs) (s : State) (h : BytesWf s.bytes) : OutWf (execColdStart o s) := by
  simp [execColdStart, h]

theorem execRstctlWarm_wf (v : Word64) (o : StartObs) (s : State) (h : BytesWf s.bytes) : OutWf (execRstctlWarm v o s) := by
  unfold execRstctlWarm
  dsimp only
  (repeat' split) <;> simp [h]

theorem execFunctionLevelReset_wf (r : FlrOf) (s : State) (h : BytesWf s.bytes) : OutWf (execFunctionLevelReset r s) := by
  unfold execFunctionLevelReset
  (repeat' split) <;> simp [h]

/-! ### Every instruction -/

theorem exec_wf_of_not_elem (i : Instr) (s : State) (hv : elemView i = none) (h : BytesWf s.bytes) : OutWf (exec i s) := by
  cases i
  case ld m => exact execLd_wf m s h
  case st m => exact execSt_wf m s h
  case gath m => exact execGath_wf m s h
  case scat m => exact execScat_wf m s h
  case atom m => exact execAtom_wf m s h
  case ord m => exact execOrd_wf m s h
  case fence m => exact execFence_wf m s h
  case qld m => exact execQld_wf m s h
  case qst m => exact execQst_wf m s h
  case qstv m => exact execQstv_wf m s h
  case bara m => exact execBara_wf m s h
  case barw m => exact execBarw_wf m s h
  case pref m => exact execPref_wf m s h
  case pageWalkComplete k o => exact execPageWalkComplete_wf k o s h
  case memoryRequestPerform t u r e o => exact execMemoryRequestPerform_wf t u r e o s h
  case bankCooldownEnd stack bank => exact execBankCooldownEnd_wf stack bank s h
  case muReplyDeliver t u => exact execMuReplyDeliver_wf t u s h
  case ordFenceComplete t u => exact execOrdFenceComplete_wf t u s h
  case barwComplete t u => exact execBarwComplete_wf t u s h
  case quorumCopyWrite k => exact execQuorumCopyWrite_wf k s h
  case quorumReply op copy => exact execQuorumReply_wf op copy s h
  case quorumCopyTimeout op copy => exact execQuorumCopyTimeout_wf op copy s h
  case farMemoryTimeout a u r e => exact execFarMemoryTimeout_wf a u r e s h
  case patrolScrub pa o => exact execPatrolScrub_wf pa o s h
  case mzero t => exact execMzero_wf t s h
  case mmaBf16 t => exact execMmaBf16_wf t s h
  case mmaW4i t => exact execMmaW4i_wf t s h
  case mmaW4f t => exact execMmaW4f_wf t s h
  case mmaI8 t => exact execMmaI8_wf t s h
  case mmaI4 t => exact execMmaI4_wf t s h
  case mdrain t => exact execMdrain_wf t s h
  case mdrainMean t => exact execMdrainMean_wf t s h
  case mcount t => exact execMcount_wf t s h
  case matrixRelease t => exact execMatrixRelease_wf t s h
  case matrixEntryComplete t => exact execMatrixEntryComplete_wf t s h
  case matrixDrainToken t => exact execMatrixDrainToken_wf t s h
  case matrixMarkPass t => exact execMatrixMarkPass_wf t s h
  case agTupleEmit t g => exact execAgTupleEmit_wf t g s h
  case iterIndexIssue c => exact execIterIndexIssue_wf c s h
  case iterEosSend c => exact execIterEosSend_wf c s h
  case stealRequestHandle c => exact execStealRequestHandle_wf c s h
  case splitApply c => exact execSplitApply_wf c s h
  case bariInject c => exact execBariInject_wf c s h
  case tokenArrive q => exact execTokenArrive_wf q s h
  case switchHop t n => exact execSwitchHop_wf t n s h
  case elasticBufferPass q => exact execElasticBufferPass_wf q s h
  case bufferSlotReturn q => exact execBufferSlotReturn_wf q s h
  case controlTokenArrive q => exact execControlTokenArrive_wf q s h
  case rotRequestEnqueue c l => exact execRotRequestEnqueue_wf c l s h
  case slotEntryMove c l => exact execSlotEntryMove_wf c l s h
  case rotationArrival c l => exact execRotationArrival_wf c l s h
  case detectorSample c => exact execDetectorSample_wf c s h
  case eventStart cl out => exact execEventStart_wf cl out s h
  case ctlNop w => exact execCtlNop_wf w s h
  case ctlNopEventWait w => exact execCtlNopEventWait_wf w s h
  case ctlHalt w => exact execCtlHalt_wf w s h
  case endCmd w => exact execEndCmd_wf w s h
  case ctlAdd d a b w => exact execCtlAdd_wf d a b w s h
  case ctlSub d a b w => exact execCtlSub_wf d a b w s h
  case ctlAnd d a b w => exact execCtlAnd_wf d a b w s h
  case ctlOr d a b w => exact execCtlOr_wf d a b w s h
  case ctlXor d a b w => exact execCtlXor_wf d a b w s h
  case ctlShl d a b w => exact execCtlShl_wf d a b w s h
  case ctlShr d a b w => exact execCtlShr_wf d a b w s h
  case ctlSar d a b w => exact execCtlSar_wf d a b w s h
  case ctlMul d a b w => exact execCtlMul_wf d a b w s h
  case ctlMin d a b w => exact execCtlMin_wf d a b w s h
  case ctlMax d a b w => exact execCtlMax_wf d a b w s h
  case ctlAddImm d a imm w => exact execCtlAddImm_wf d a imm w s h
  case ctlSubImm d a imm w => exact execCtlSubImm_wf d a imm w s h
  case ctlAndImm d a imm w => exact execCtlAndImm_wf d a imm w s h
  case ctlOrImm d a imm w => exact execCtlOrImm_wf d a imm w s h
  case ctlXorImm d a imm w => exact execCtlXorImm_wf d a imm w s h
  case ctlShlImm d a imm w => exact execCtlShlImm_wf d a imm w s h
  case ctlShrImm d a imm w => exact execCtlShrImm_wf d a imm w s h
  case ctlSarImm d a imm w => exact execCtlSarImm_wf d a imm w s h
  case ctlMulImm d a imm w => exact execCtlMulImm_wf d a imm w s h
  case ctlMinImm d a imm w => exact execCtlMinImm_wf d a imm w s h
  case ctlMaxImm d a imm w => exact execCtlMaxImm_wf d a imm w s h
  case li d w lit => exact execLi_wf d w lit s h
  case liHigh d w lit => exact execLiHigh_wf d w lit s h
  case beq a b w lit => exact execBeq_wf a b w lit s h
  case bne a b w lit => exact execBne_wf a b w lit s h
  case blt a b w lit => exact execBlt_wf a b w lit s h
  case bge a b w lit => exact execBge_wf a b w lit s h
  case bltu a b w lit => exact execBltu_wf a b w lit s h
  case bgeu a b w lit => exact execBgeu_wf a b w lit s h
  case b w lit => exact execB_wf w lit s h
  case call d w lit => exact execCall_wf d w lit s h
  case ret a w => exact execRet_wf a w s h
  case ctlJtab a b imm w => exact execCtlJtab_wf a b imm w s h
  case ctlLpad label w => exact execCtlLpad_wf label w s h
  case cfg a w => exact execCfg_wf a w s h
  case run a b w => exact execRun_wf a b w s h
  case steal d a w => exact execSteal_wf d a w s h
  case split d a w => exact execSplit_wf d a w s h
  case iter d w => exact execIter_wf d w s h
  case ctlDrain w => exact execCtlDrain_wf w s h
  case fork d a b imm w => exact execFork_wf d a b imm w s h
  case rdv d a w => exact execRdv_wf d a w s h
  case evtc a b imm w => exact execEvtc_wf a b imm w s h
  case semw d a imm w => exact execSemw_wf d a imm w s h
  case sems a imm w => exact execSems_wf a imm w s h
  case semset a imm w => exact execSemset_wf a imm w s h
  case semrd d imm w => exact execSemrd_wf d imm w s h
  case tlw a b imm w => exact execTlw_wf a b imm w s h
  case tla imm w => exact execTla_wf imm w s h
  case tlrd d b imm w => exact execTlrd_wf d b imm w s h
  case bari d imm w => exact execBari_wf d imm w s h
  case barga d imm w => exact execBarga_wf d imm w s h
  case bargw a imm w => exact execBargw_wf a imm w s h
  case copy d a imm w => exact execCopy_wf d a imm w s h
  case copyg d a imm w => exact execCopyg_wf d a imm w s h
  case copyf d a imm w => exact execCopyf_wf d a imm w s h
  case prom a imm w => exact execProm_wf a imm w s h
  case copyq d a imm w => exact execCopyq_wf d a imm w s h
  case collAllred d a imm w => exact execCollAllred_wf d a imm w s h
  case collAllgath d a imm w => exact execCollAllgath_wf d a imm w s h
  case collRedscat d a imm w => exact execCollRedscat_wf d a imm w s h
  case collBcast d a imm w => exact execCollBcast_wf d a imm w s h
  case collScan d a imm w => exact execCollScan_wf d a imm w s h
  case collMaxidx d a imm w => exact execCollMaxidx_wf d a imm w s h
  case qsend a b imm w => exact execQsend_wf a b imm w s h
  case qrecv d a b imm w => exact execQrecv_wf d a b imm w s h
  case qpeek d imm w => exact execQpeek_wf d imm w s h
  case rotsv a imm w => exact execRotsv_wf a imm w s h
  case rotld a b w => exact execRotld_wf a b w s h
  case grpj imm w => exact execGrpj_wf imm w s h
  case grpl imm w => exact execGrpl_wf imm w s h
  case mapsel a imm w => exact execMapsel_wf a imm w s h
  case pipe d a w => exact execPipe_wf d a w s h
  case trap imm w => exact execTrap_wf imm w s h
  case sysc d a imm w => exact execSysc_wf d a imm w s h
  case rett a b w => exact execRett_wf a b w s h
  case rds d imm w => exact execRds_wf d imm w s h
  case wrs a imm w => exact execWrs_wf a imm w s h
  case enrd d a w => exact execEnrd_wf d a w s h
  case cyc d w => exact execCyc_wf d w s h
  case susp a w => exact execSusp_wf a w s h
  case resm d a w => exact execResm_wf d a w s h
  case migr a b w => exact execMigr_wf a b w s h
  case save a b w => exact execSave_wf a b w s h
  case rest a b w => exact execRest_wf a b w s h
  case tlbi a imm w => exact execTlbi_wf a imm w s h
  case ltwrite a w => exact execLtwrite_wf a w s h
  case ltfetch a w => exact execLtfetch_wf a w s h
  case contextWake c => exact execContextWake_wf c s h
  case schedulerDispatch c => exact execSchedulerDispatch_wf c s h
  case preemptDecision waiter holder => exact execPreemptDecision_wf waiter holder s h
  case contextHalt c => exact execContextHalt_wf c s h
  case saveStaged c => exact execSaveStaged_wf c s h
  case saveWritten c => exact execSaveWritten_wf c s h
  case contextResume c p => exact execContextResume_wf c p s h
  case teamSwapOut l g => exact execTeamSwapOut_wf l g s h
  case teamSwapIn l g => exact execTeamSwapIn_wf l g s h
  case migrationComplete c => exact execMigrationComplete_wf c s h
  case contextReclaim c => exact execContextReclaim_wf c s h
  case pipeSample l => exact execPipeSample_wf l s h
  case stageReassign l st => exact execStageReassign_wf l st s h
  case stageReassignLoad l st => exact execStageReassignLoad_wf l st s h
  case launch fn off => exact execLaunch_wf fn off s h
  case launchPlace fn ps => exact execLaunchPlace_wf fn ps s h
  case imageRecordLoad c => exact execImageRecordLoad_wf c s h
  case copySectorWrite c op o => exact execCopySectorWrite_wf c op o s h
  case copyOperationComplete c op => exact execCopyOperationComplete_wf c op s h
  case collectiveStep k n j => exact execCollectiveStep_wf k n j s h
  case collectiveStepTimeout k n j => exact execCollectiveStepTimeout_wf k n j s h
  case collectiveComplete k n => exact execCollectiveComplete_wf k n s h
  case dieQueueEntryArrive die q bad => exact execDieQueueEntryArrive_wf die q bad s h
  case promiseExpiry c => exact execPromiseExpiry_wf c s h
  case energyChargePost c nj => exact execEnergyChargePost_wf c nj s h
  case trapDelivery die => exact execTrapDelivery_wf die s h
  case vfctlWrite o die inst v => exact execVfctlWrite_wf o die inst v s h
  case voltageStepEnd die v => exact execVoltageStepEnd_wf die v s h
  case monitorWindowEnd die v full blk => exact execMonitorWindowEnd_wf die v full blk s h
  case guardGrant die v => exact execGuardGrant_wf die v s h
  case guardRelease die v => exact execGuardRelease_wf die v s h
  case thermalSample die tile reading => exact execThermalSample_wf die tile reading s h
  case curveWrite o die num v => exact execCurveWrite_wf o die num v s h
  case rungcapWrite o die inst v => exact execRungcapWrite_wf o die inst v s h
  case undervoltage die v supply => exact execUndervoltage_wf die v supply s h
  case overcurrent die => exact execOvercurrent_wf die s h
  case overcurrentClear die => exact execOvercurrentClear_wf die s h
  case powerAverageWindow milliwatts => exact execPowerAverageWindow_wf milliwatts s h
  case bar4Access fn off wr data => exact execBar4Access_wf fn off wr data s h
  case hostirq o die v => exact execHostirq_wf o die v s h
  case qsetWrite o die inst v => exact execQsetWrite_wf o die inst v s h
  case dqtWrite o die inst v => exact execDqtWrite_wf o die inst v s h
  case placeWrite o die inst v => exact execPlaceWrite_wf o die inst v s h
  case rhctlWrite o die inst v => exact execRhctlWrite_wf o die inst v s h
  case tfenceWrite o die inst v => exact execTfenceWrite_wf o die inst v s h
  case erstatusClear o die inst v => exact execErstatusClear_wf o die inst v s h
  case attnonce o die inst v => exact execAttnonce_wf o die inst v s h
  case attestReportReady die => exact execAttestReportReady_wf die s h
  case rstctlWarm v o => exact execRstctlWarm_wf v o s h
  case coldStart o => exact execColdStart_wf o s h
  case functionLevelReset r => exact execFunctionLevelReset_wf r s h
  case hostLinkError o => exact execHostLinkError_wf o s h
  case linkCrcError die port o => exact execLinkCrcError_wf die port o s h
  case linkctlRetrain o die inst v => exact execLinkctlRetrain_wf o die inst v s h
  case linkTrainComplete die inst ok => exact execLinkTrainComplete_wf die inst ok s h
  case selfTestStart die k => exact execSelfTestStart_wf die k s h
  case selfTestComplete die k o => exact execSelfTestComplete_wf die k o s h
  case registerWrite o die num inst v => exact execRegisterWrite_wf o die num inst v s h
  case supplyReachesVreq die v => exact execSupplyReachesVreq_wf die v s h
  all_goals exact absurd hv (Option.some_ne_none _)

/-- Whatever an instruction does keeps the one form. -/
theorem exec_wf (i : Instr) (s : State) (h : BytesWf s.bytes) : OutWf (exec i s) := by
  cases hv : elemView i with
  | some v => rw [exec_elem hv]; exact elemRun_wf v s h
  | none => exact exec_wf_of_not_elem i s hv h

/-! ### The step -/

/-- What is fetched in a state of the one form keeps it. -/
def Fetched.Wf : Fetched → Prop
  | .run _ s => BytesWf s.bytes
  | .done o => OutWf o

theorem fetchCu_wf (pt : Nat) (u : Bool) (s : State) (h : BytesWf s.bytes) : (fetchCu pt u s).Wf := by
  unfold fetchCu
  dsimp only
  (repeat' split) <;> simp [Fetched.Wf, h]

theorem fetchMu_wf (pt : Nat) (u : Bool) (s : State) (h : BytesWf s.bytes) : (fetchMu pt u s).Wf := by
  unfold fetchMu
  dsimp only
  (repeat' split) <;> simp [Fetched.Wf, h]

theorem fetchMx_wf (pt : Nat) (s : State) (h : BytesWf s.bytes) : (fetchMx pt s).Wf := by
  unfold fetchMx
  dsimp only
  split
  · split <;> simp [Fetched.Wf, h]
  · simp [Fetched.Wf, h]

theorem fetchCtl_wf (c : Nat) (s : State) (h : BytesWf s.bytes) : (fetchCtl c s).Wf := by
  unfold fetchCtl
  dsimp only
  (repeat' split) <;> simp [Fetched.Wf, h]

theorem fetch_wf (t : Turn) (s : State) (h : BytesWf s.bytes) : (fetch t s).Wf := by
  unfold fetch
  split
  · simpa [Fetched.Wf] using h
  cases t with
  | cu pt u => exact fetchCu_wf pt u s h
  | mu pt u => exact fetchMu_wf pt u s h
  | mx pt => exact fetchMx_wf pt s h
  | ctl c => exact fetchCtl_wf c s h
  | op i => exact h
  | tick n => dsimp only; split <;> simp [Fetched.Wf, h]
  | evictL1 k => exact (outWf_next _).mpr h
  | evictLlc k => exact (outWf_next _).mpr h
  | evictTlb k => dsimp only; split <;> simp [Fetched.Wf, h]

theorem step_wf (s : State) (h : BytesWf s.bytes) : OutWf (step s) := by
  have hf := fetch_wf s.popTurn.1 s.popTurn.2 (by rw [State.popTurn_bytes]; exact h)
  unfold step
  split
  · next i s1 e => rw [e] at hf; exact exec_wf i s1 hf
  · next o e => rw [e] at hf; exact hf

/-- Settles O59: each operation either leaves the three storages or writes them by `memPut` and `memSet`, which keep their one
form, and so does every instruction and every turn. -/
theorem stepsKeepMemoryForm : Obligations.StepsKeepMemoryForm := by
  intro s t hs e
  rw [State.memWf_iff] at hs ⊢
  exact step_wf s hs t e

end Sys2Proof.Machine

namespace Sys2Proof.Machine

/-! ## An element instruction that completes a BARI (O16) -/

/-- CU0 of tile 1 with a DATA token at the head of I0 and barrier 5 behind it.  I0 is the one sink of the region, whose
controller is held in BARI of mark 5 into X1. -/
def barrierBehind : State :=
  let c : Ctx := { fetchCtx with sinks := [sinkKey 1 (cuCode false 0)], hold := .bari 5 true 1, barOut := [(5, [])] }
  let unit : Cu := { fetchUnit [] with ins := (Vector.replicate 6 []).set 0 [⟨{}, 1⟩, ⟨barrierToken 5, 1⟩] }
  { (State.reset.setCtx 1 c).setCu 1 false unit with cur := .cu 1 false }

/-- DROP takes the token, the barrier stands at the sink, and BARI completes: its mark is in X1 (R39, R269, R286). -/
theorem drop_barrierBehind : ∃ t, exec (.drop (.inp 0)) barrierBehind = .next t ∧ (t.ctx 1).xregs[1] = 5 :=
  ⟨_, rfl, by decide +kernel⟩

/-- Refutes O16: a token that an element instruction consumes may bring a barrier to a sink of its region, and a BARI that
waits for it completes and writes its X register. -/
theorem not_elementInstructionsFrame : ¬ Obligations.ElementInstructionsFrame := by
  intro h
  obtain ⟨t, ht, h5⟩ := drop_barrierBehind
  obtain ⟨-, -, hx, -⟩ := h (.drop (.inp 0)) _ barrierBehind t 1 false rfl rfl ht
  have h0 : (barrierBehind.ctx 1).xregs[1] = 0 := by decide +kernel
  rw [hx 1, h0] at h5
  exact absurd h5 (by decide)

end Sys2Proof.Machine

namespace Sys2Proof.Machine

/-! ## A restored region that faults at once (O37) -/

/-- A load that looks for its places, with a layout entry that holds an unassigned code. -/
def lostLoad : MuReq :=
  { fn := 0, ty := .int8, rnd := .rne, imm := 0, cmpl := true, lt := [], count := 1, coords := [0], data := []
    elems := [], st := .fresh, num := 0 }

/-- An image of one tile whose MU0 holds `lostLoad`. -/
def lostImage : Saved :=
  { id := 5, ctx := { st := .suspended, off := true, width := 1, height := 1 }
    tiles := [{ mu0 := { items := [.req lostLoad] } }]
    spad := [[]], opnd := [[]], spadPois := [[]], opndPois := [[]], flights := [], arriving := [], ctlArr := []
    elastic := [], elasticC := [], used := [], returns := [], feature := 0 }

/-- The first bytes of an image's header at 128. -/
def lostHeader : List Host.Cell := [(128, 0x43), (129, 0x58), (130, 0x53), (131, 0x31), (132, 1)]

/-- The supervisor of die 0 issues REST of context 5 from the image at 128. -/
def restsLost : State :=
  let c : Ctx := { st := .running, xregs := (Vector.replicate 16 0).set 4 5 |>.set 5 128 }
  { ctxs := [(supId 0, c)], cur := .ctl (supId 0), dies := [(0, { up := true })], written := [(0, lostImage)]
    mem := memPut lostHeader 200 (Config.imageBody 0) }

/-- The wait field and the signal of that REST, both empty. -/
def restWait : CtlP2 := { wsem := 0, wthr := 0, wc := false, ssem := 0, sinc := 0, scope := .device }

theorem restsLost_issues : Issues restsLost (supId 0) restWait := by constructor <;> decide +kernel

theorem imageAt_restsLost : restsLost.imageAt 128 = some lostImage := by
  have hm : restsLost.mem = memPut lostHeader 200 (Config.imageBody 0) := rfl
  have hw : Memory.wf lostHeader = true := by decide
  have below (i n : Nat) (h : i + n ≤ 200) : memNat restsLost.mem i n = memNat lostHeader i n := by
    unfold memNat
    rw [hm, memBytes_memPut_below _ _ _ _ _ hw h]
  have hn : memNat restsLost.mem 192 8 = 0 := by rw [below _ _ (by decide)]; decide +kernel
  have hh : restsLost.savedHeader 128 = true := by
    unfold State.savedHeader
    rw [below _ _ (by decide), below _ _ (by decide)]
    decide +kernel
  have hb : memBytes restsLost.mem 200 (Config.imageBody 0).length = Config.imageBody 0 :=
    memBytes_memPut_self _ _ _ hw
  unfold State.imageAt
  simp only [hn, hh, hb, Nat.reduceAdd, and_self, if_true]
  rfl

/-- The state in which REST is issued: its wait is over. -/
def restsLostIssued : State := restsLost.modCtx (supId 0) fun x => { x with waitDone := true }

theorem exec_rest_restsLost : exec (.rest 4 5 restWait) restsLost =
    .next ((restsLostIssued.restore 5 lostImage).finish (supId 0) restWait 2) := by
  have hissued : (restsLost.modCtx (supId 0) fun x => { x with waitDone := true }) = restsLostIssued := rfl
  have himage : (if ((restsLostIssued.ctx (supId 0)).getX 5).toNat % 64 = 0
      then restsLostIssued.imageAt ((restsLostIssued.ctx (supId 0)).getX 5).toNat else none) = some lostImage := by
    rw [show ((restsLostIssued.ctx (supId 0)).getX 5).toNat = 128 by decide +kernel]
    exact imageAt_restsLost
  have htarget : restsLostIssued.targetId (supId 0) 4 = some 5 := by decide +kernel
  have hcheck : ((restsLostIssued.ctx 5).st == .free && (5 : Nat) != 0 &&
      restsLostIssued.rectFree none (restsLostIssued.idPlace 5) lostImage.ctx.width lostImage.ctx.height) = true := by
    decide +kernel
  have hroom : (restsLostIssued.crowdOk 5 (restsLostIssued.idPlace 5) &&
      restsLostIssued.l1Agrees lostImage.feature (some 5)
        ((restsLostIssued.idPlace 5).die * 6 + (restsLostIssued.idPlace 5).cluster)) = true := by decide +kernel
  change execRest 4 5 restWait restsLost = _
  unfold execRest
  have hpriv : supOnly restsLost (supId 0) = none := by decide +kernel
  rw [runCmd_of_issues restsLost_issues, hissued]
  simp only [hpriv, Cmd.own, Cmd.issue, State.condTurn, State.condMet, htarget, himage, hcheck, hroom, trapUnless,
    if_true, Bool.not_true, Bool.false_eq_true, if_false]

/-- The load has no place (R414): the region that REST has just restored is FAULTED. -/
theorem restsLost_faults :
    (((restsLostIssued.restore 5 lostImage).finish (supId 0) restWait 2).ctx 5).st = .faulted := by decide +kernel

/-- Refutes O37: REST lets the held requests of the image look for their places at once, and one that has none faults the
region, which then is not SUSPENDED. -/
theorem not_supervisorCommands : ¬ Obligations.SupervisorCommands := by
  intro h
  have h5 := (h.1 restsLost (supId 0) 5 restWait 0 4 5 0 restsLost_issues (by decide +kernel) (by decide +kernel)
    (by decide +kernel)).2.1 lostImage
  obtain ⟨t, ht, hst, -⟩ := h5 (by decide +kernel) (by decide) (by decide +kernel) imageAt_restsLost (by decide +kernel)
    (by decide +kernel) (by decide +kernel)
  rw [exec_rest_restsLost] at ht
  rw [← Host.Outcome.next.inj ht, restsLost_faults] at hst
  cases hst
end Sys2Proof.Machine

namespace Sys2Proof.Machine

/-! ## What a start leaves (O54) -/

/-- At most registers differ, and no TRIPSTAT (R453). -/
def TripKept (s t : State) : Prop := (∃ rs, t = { s with regs := rs }) ∧ ∀ d, t.reg d 0x6B 0 = s.reg d 0x6B 0

theorem TripKept.refl (s : State) : TripKept s s := ⟨⟨_, rfl⟩, fun _ => rfl⟩

theorem TripKept.trans {s t u : State} (h : TripKept s t) (k : TripKept t u) : TripKept s u := by
  obtain ⟨⟨_, rfl⟩, h⟩ := h
  obtain ⟨⟨_, rfl⟩, k⟩ := k
  exact ⟨⟨_, rfl⟩, fun d => (k d).trans (h d)⟩

theorem TripKept.fold {α : Type} {f : State → α → State} (l : List α) (h : ∀ s, ∀ a ∈ l, TripKept s (f s a)) (s : State) :
    TripKept s (l.foldl f s) :=
  List.foldlRecOn (motive := TripKept s) l f (.refl s) fun t ht a ha => ht.trans (h t a ha)

theorem State.setReg_tripKept (s : State) (die num inst : Nat) (v : Word64) (hn : num < 256) (h6 : num ≠ 0x6B)
    (hi : inst < 4096) : TripKept s (s.setReg die num inst v) :=
  ⟨⟨_, rfl⟩, fun d => s.reg_setReg_ne v hn (by decide) hi (by decide) fun e => h6 (by simpa using (Prod.ext_iff.mp
    (Prod.ext_iff.mp e).2).1.symm)⟩

theorem State.setPort_tripKept (s : State) (die inst : Nat) (up : Bool) (hi : inst < 4096) :
    TripKept s (s.setPort die inst up) := s.setReg_tripKept die 0x6C inst _ (by decide) (by decide) hi

theorem regCount_ports_le (die : Nat) : regCount die 0x6C ≤ 23 := by
  show (if die = 0 then 23 else 3) ≤ 23
  split <;> decide

theorem State.trainLinks_tripKept (s : State) (die : Nat) (keep : Bool) (down : List Nat) (stops : Bool) :
    TripKept s (s.trainLinks die keep down stops) := by
  refine TripKept.fold _ (fun t i hi => t.setPort_tripKept die i _ ?_) s
  have := List.mem_range.mp (List.mem_filter.mp hi).1
  have := regCount_ports_le die
  omega

theorem State.setMeas_tripKept (s : State) (die : Nat) (m : List Byte) : TripKept s (s.setMeas die m) := by
  refine TripKept.fold _ (fun t k hk => t.setReg_tripKept die 0x5D k _ (by decide) (by decide) ?_) s
  have := List.mem_range.mp hk
  omega

theorem facing_lt {d i : Nat} {p : Nat × Nat} (h : facing d i = some p) : p.2 < 2 := by
  unfold facing at h
  split at h
  · rw [← Option.some.inj h]; exact Nat.lt_succ_self 1
  · split at h
    · rw [← Option.some.inj h]; exact Nat.two_pos
    · cases h

theorem State.joinRings_tripKept (s : State) : TripKept s s.joinRings := by
  refine TripKept.fold _ (fun t p _ => ?_) s
  split
  · exact .refl t
  · split
    · next d i h => exact t.setPort_tripKept d i false (Nat.lt_trans (facing_lt h) (by decide))
    · exact .refl t

/-! ### The start of one die -/

/-- What a die is after its start. -/
def startedDie (d : DieStart) : Die :=
  { up := !d.stops, places := !d.stops && !d.kinds.contains 1, noTiles := d.kinds.contains 2, stackOff := d.offs }

/-- The supervisor that a start leaves on a die. -/
def startedSup (o : StartObs) (die : Nat) : Ctx :=
  { st := .running, code := ((o.code.find? fun p => p.1 == die).map (·.2)).getD [] }

/-- At most dies, contexts, registers, found errors and self-test's fences differ. -/
def StartOnly (s t : State) : Prop := ∃ ds xs rs es fs,
  t = { s with dies := ds, ctxs := xs, regs := rs, found := es, testFence := fs }

theorem StartOnly.refl (s : State) : StartOnly s s := ⟨_, _, _, _, _, rfl⟩

theorem StartOnly.trans {s t u : State} (h : StartOnly s t) (k : StartOnly t u) : StartOnly s u := by
  obtain ⟨_, _, _, _, _, rfl⟩ := h
  obtain ⟨_, _, _, _, _, rfl⟩ := k
  exact ⟨_, _, _, _, _, rfl⟩

theorem TripKept.startOnly {s t : State} (h : TripKept s t) : StartOnly s t := by
  obtain ⟨⟨_, rfl⟩, -⟩ := h
  exact ⟨_, _, _, _, _, rfl⟩

theorem StartOnly.fold {α : Type} {f : State → α → State} (h : ∀ s a, StartOnly s (f s a)) (l : List α) (s : State) :
    StartOnly s (l.foldl f s) :=
  List.foldlRecOn (motive := StartOnly s) l f (.refl s) fun t ht a _ => ht.trans (h t a)

/-- The records of a start are found errors. -/
theorem foldl_errRecord (die : Nat) (l : List Nat) (s : State) :
    ∃ es, l.foldl (fun s k => s.errRecord die .global .uc 28 (0x37 + k) 0 0 0) s = { s with found := es } := by
  induction l generalizing s with
  | nil => exact ⟨_, rfl⟩
  | cons k l ih => exact (ih (s.errRecord die .global .uc 28 (0x37 + k) 0 0 0)).imp fun _ h => h

/-- The start of a die, with its registers and records left open. -/
theorem State.startDie_eq (s : State) (o : StartObs) (cold keep links : Bool) (die : Nat) :
    ∃ z es, TripKept (s.setDie die (startedDie (dieStart o cold keep links die))) z ∧
      s.startDie o cold keep links die = if (dieStart o cold keep links die).stops then { z with found := es }
        else { z with found := es }.setCtx (supId die) (startedSup o die) := by
  unfold State.startDie
  dsimp only
  generalize dieStart o cold keep links die = d
  obtain ⟨es, he⟩ := foldl_errRecord die d.steps (if d.steps.any fun k => decide (k ≤ 3)
    then (((s.setDie die (startedDie d)).setReg die 0x6D 0 d.stat).trainLinks die links d.links d.stops)
    else (((s.setDie die (startedDie d)).setReg die 0x6D 0 d.stat).trainLinks die links d.links d.stops).setMeas die
      (measure (imageDigests o die) d.kinds))
  refine ⟨_, es, ?_, by rw [← he]; rfl⟩
  have h2 := ((s.setDie die (startedDie d)).setReg_tripKept die 0x6D 0 d.stat (by decide) (by decide) (by decide)).trans
    (State.trainLinks_tripKept _ die links d.links d.stops)
  split
  · exact h2
  · exact h2.trans (State.setMeas_tripKept _ _ _)

theorem State.startDie_only (s : State) (o : StartObs) (cold keep links : Bool) (die : Nat) :
    StartOnly s (s.startDie o cold keep links die) := by
  obtain ⟨_, es, ⟨⟨rs, rfl⟩, -⟩, e⟩ := s.startDie_eq o cold keep links die
  rw [e]
  split <;> exact ⟨_, _, _, _, _, rfl⟩

theorem State.die_startDie (s : State) (o : StartObs) (cold keep links : Bool) (die d : Nat) :
    (s.startDie o cold keep links die).die d =
      if d = die then startedDie (dieStart o cold keep links die) else s.die d := by
  obtain ⟨_, es, ⟨⟨rs, rfl⟩, -⟩, e⟩ := s.startDie_eq o cold keep links die
  have hd : (s.startDie o cold keep links die).dies = (s.setDie die (startedDie (dieStart o cold keep links die))).dies := by
    rw [e]
    split <;> rfl
  unfold State.die
  rw [hd]
  split
  · next h => subst h; simp [State.setDie]
  · next h => exact tgetD_tset_ne _ _ _ h

theorem State.ctx_startDie (s : State) (o : StartObs) (cold keep links : Bool) (die c : Nat) :
    (s.startDie o cold keep links die).ctx c =
      if c = supId die ∧ (dieStart o cold keep links die).stops = false then startedSup o die else s.ctx c := by
  obtain ⟨_, es, ⟨⟨rs, rfl⟩, -⟩, e⟩ := s.startDie_eq o cold keep links die
  rw [e]
  cases (dieStart o cold keep links die).stops with
  | true => simp; rfl
  | false =>
    by_cases hc : c = supId die
    · subst hc; simp
    · simp only [hc, Bool.false_eq_true, if_false, false_and]
      exact State.ctx_setCtx_ne _ _ hc

theorem State.trip_startDie (s : State) (o : StartObs) (cold keep links : Bool) (die d : Nat) :
    (s.startDie o cold keep links die).reg d 0x6B 0 = s.reg d 0x6B 0 := by
  obtain ⟨z, es, ⟨-, h⟩, e⟩ := s.startDie_eq o cold keep links die
  rw [e]
  split <;> exact h d

/-! ### The start of every die -/

/-- The dies of a list start one after another. -/
def State.startDies (s : State) (o : StartObs) (cold keep links : Bool) (l : List Nat) : State :=
  l.foldl (fun s d => s.startDie o cold keep links d) s

theorem State.startDies_only (s : State) (o : StartObs) (cold keep links : Bool) (l : List Nat) :
    StartOnly s (s.startDies o cold keep links l) := StartOnly.fold (fun t d => t.startDie_only o cold keep links d) l s

theorem State.die_startDies (s : State) (o : StartObs) (cold keep links : Bool) (l : List Nat) (d : Nat) :
    (s.startDies o cold keep links l).die d =
      if d ∈ l then startedDie (dieStart o cold keep links d) else s.die d := by
  induction l generalizing s with
  | nil => simp [State.startDies]
  | cons a l ih =>
    have := ih (s.startDie o cold keep links a)
    rw [State.die_startDie] at this
    by_cases h : d = a
    · subst h; simpa [State.startDies] using this
    · simpa [State.startDies, h] using this

/-- A context that is no supervisor is as it was. -/
theorem State.ctx_startDies_ne (s : State) (o : StartObs) (cold keep links : Bool) (l : List Nat) (c : Nat)
    (h : ∀ d ∈ l, c ≠ supId d) : (s.startDies o cold keep links l).ctx c = s.ctx c := by
  induction l generalizing s with
  | nil => rfl
  | cons a l ih =>
    have := ih (s.startDie o cold keep links a) fun d hd => h d (by simp [hd])
    rw [State.ctx_startDie, if_neg fun e => h a (by simp) e.1] at this
    exact this

theorem supId_inj {d e : Nat} (h : supId d = supId e) : d = e := by
  simp only [supId, idOf] at h
  omega

/-- The supervisor of a die that does not stop. -/
theorem State.ctx_startDies_sup (s : State) (o : StartObs) (cold keep links : Bool) (l : List Nat) {d : Nat} (hd : d ∈ l)
    (h : (dieStart o cold keep links d).stops = false) :
    (s.startDies o cold keep links l).ctx (supId d) = startedSup o d := by
  induction l generalizing s with
  | nil => cases hd
  | cons a l ih =>
    by_cases hl : d ∈ l
    · exact ih _ hl
    · obtain rfl : d = a := by simpa [hl] using hd
      have := State.ctx_startDies_ne (s.startDie o cold keep links d) o cold keep links l (supId d) fun e he hs => hl
        (supId_inj hs ▸ he)
      rw [State.ctx_startDie, if_pos ⟨rfl, h⟩] at this
      exact this

theorem State.trip_startDies (s : State) (o : StartObs) (cold keep links : Bool) (l : List Nat) (d : Nat) :
    (s.startDies o cold keep links l).reg d 0x6B 0 = s.reg d 0x6B 0 := by
  induction l generalizing s with
  | nil => rfl
  | cons a l ih => exact (ih _).trans (s.trip_startDie o cold keep links a d)

/-! ### The whole start -/

/-- Everything that a start clears, cleared, with the host link as the start leaves it. -/
def State.wiped (s : State) (cold : Bool) (o : StartObs) : State :=
  let links := !cold && s.retLink
  { s.scrubbed cold (!cold && s.retMem) links with
    hostUp := (s.hostUp && !cold) || (!links && !o.linkFail.contains (0, 32)) }

/-- The state in which the dies' starts begin: wiped, and TRIPSTAT set by a thermal shutdown (R453). -/
def State.startBase (s : State) (cold : Bool) (o : StartObs) : State :=
  if s.shutdown then (List.range 8).foldl (fun s d => s.setReg d 0x6B 0 0x10) (s.wiped cold o) else s.wiped cold o

theorem State.startBase_only (s : State) (cold : Bool) (o : StartObs) : StartOnly (s.wiped cold o) (s.startBase cold o) := by
  unfold State.startBase
  split
  · exact StartOnly.fold (fun t d => ⟨_, _, _, _, _, rfl⟩) _ _
  · exact .refl _

/-- TRIPSTAT shows a thermal shutdown on each die of a list once it has been set there. -/
theorem State.trip_foldl (s : State) (l : List Nat) {d : Nat} (hd : d ∈ l ∨ s.reg d 0x6B 0 = 0x10) :
    (l.foldl (fun s d => s.setReg d 0x6B 0 0x10) s).reg d 0x6B 0 = 0x10 := by
  induction l generalizing s with
  | nil => simpa using hd
  | cons a l ih =>
    refine ih _ ?_
    by_cases h : d = a
    · subst h; exact .inr (by simp)
    · rcases hd with hd | hd
      · exact .inl (by simpa [h] using hd)
      · right
        rw [s.reg_setReg_ne _ (by decide) (by decide) (by decide) (by decide) fun e => h (congrArg Prod.fst e), hd]

theorem State.trip_startBase (s : State) (cold : Bool) (o : StartObs) (h : s.shutdown = true) (d : Nat) (hd : d < 8) :
    (s.startBase cold o).reg d 0x6B 0 = 0x10 := by
  unfold State.startBase
  rw [if_pos h]
  exact State.trip_foldl _ _ (.inl (List.mem_range.mpr hd))

/-- The state in which every die has started. -/
def State.diesStarted (s : State) (cold : Bool) (o : StartObs) : State :=
  ((s.startBase cold o).startDies o cold (!cold && s.retMem) (!cold && s.retLink) (List.range 8)).joinRings

theorem State.startFence_eq (s : State) (l : List (Nat × Nat)) : ∃ fs, s.startFence l = { s with testFence := fs } := by
  unfold State.startFence
  refine List.foldlRecOn (motive := fun t : State => ∃ fs, t = { s with testFence := fs }) l _ ⟨s.passedFence, rfl⟩ ?_
  rintro _ ⟨fs, rfl⟩ p -
  split
  · exact ⟨_, rfl⟩
  · exact ⟨fs, rfl⟩

theorem State.start_eq (s : State) (cold : Bool) (o : StartObs) :
    ∃ fs, s.start cold o = { (s.diesStarted cold o).startSystem o.selfCode with testFence := fs } :=
  State.startFence_eq _ o.fence

theorem State.startSystem_only (s : State) (code : List Parcel) : StartOnly s (s.startSystem code) := by
  unfold State.startSystem
  split
  · exact ⟨_, _, _, _, _, rfl⟩
  · exact .refl s

/-- What is wiped stays wiped but for dies, contexts, registers, found errors and fences. -/
theorem State.start_only (s : State) (cold : Bool) (o : StartObs) : StartOnly (s.wiped cold o) (s.start cold o) := by
  obtain ⟨fs, e⟩ := s.start_eq cold o
  rw [e]
  exact (((s.startBase_only cold o).trans (State.startDies_only _ o cold _ _ _)).trans
    (State.joinRings_tripKept _).startOnly).trans ((State.startSystem_only _ _).trans ⟨_, _, _, _, _, rfl⟩)

/-- Joining the rings changes registers alone. -/
theorem State.diesStarted_eq (s : State) (cold : Bool) (o : StartObs) : ∃ rs, s.diesStarted cold o =
    { (s.startBase cold o).startDies o cold (!cold && s.retMem) (!cold && s.retLink) (List.range 8) with regs := rs } :=
  (State.joinRings_tripKept _).1

theorem State.die_diesStarted (s : State) (cold : Bool) (o : StartObs) (d : Nat) (hd : d < 8) :
    (s.diesStarted cold o).die d = startedDie (dieStart o cold (!cold && s.retMem) (!cold && s.retLink) d) := by
  obtain ⟨rs, e⟩ := s.diesStarted_eq cold o
  have h := (s.startBase cold o).die_startDies o cold (!cold && s.retMem) (!cold && s.retLink) (List.range 8) d
  rw [if_pos (List.mem_range.mpr hd)] at h
  rw [e, ← h]
  rfl

/-- A die after a start. -/
theorem State.die_start (s : State) (cold : Bool) (o : StartObs) (d : Nat) (hd : d < 8) :
    (s.start cold o).die d = startedDie (dieStart o cold (!cold && s.retMem) (!cold && s.retLink) d) := by
  obtain ⟨fs, e⟩ := s.start_eq cold o
  rw [e, ← s.die_diesStarted cold o d hd]
  unfold State.startSystem
  split <;> rfl

theorem State.ctx_diesStarted (s : State) (cold : Bool) (o : StartObs) (c : Nat) : (s.diesStarted cold o).ctx c =
    ((s.startBase cold o).startDies o cold (!cold && s.retMem) (!cold && s.retLink) (List.range 8)).ctx c := by
  obtain ⟨rs, e⟩ := s.diesStarted_eq cold o
  rw [e]
  rfl

/-- A context other than the system context, after a start. -/
theorem State.ctx_start (s : State) (cold : Bool) (o : StartObs) (c : Nat) (hc : c ≠ 0) :
    (s.start cold o).ctx c = (s.diesStarted cold o).ctx c := by
  obtain ⟨fs, e⟩ := s.start_eq cold o
  rw [e]
  unfold State.startSystem
  split
  · exact State.ctx_setCtx_ne _ _ hc
  · rfl

/-- The system context, on a die that may run it. -/
theorem State.ctx_start_system (s : State) (cold : Bool) (o : StartObs) (hup : ((s.start cold o).die 0).up = true)
    (ht : ((s.start cold o).die 0).noTiles = false) : (s.start cold o).ctx 0 =
      { st := .running, code := o.selfCode, width := 1, height := 1, place := ⟨0, 0, 0⟩, logicals := [0] } := by
  rw [s.die_start cold o 0 (by decide), ← s.die_diesStarted cold o 0 (by decide)] at hup ht
  obtain ⟨fs, e⟩ := s.start_eq cold o
  rw [e]
  unfold State.startSystem
  rw [if_pos ⟨hup, by simp [ht]⟩]
  exact State.ctx_setCtx _ _ _

theorem isSupId_supId : ∀ d < 8, isSupId (supId d) = true := by decide

/-- A context that is neither a supervisor nor the system context. -/
theorem State.ctx_start_free (s : State) (cold : Bool) (o : StartObs) (c : Nat) (hc : c ≠ 0) (hs : isSupId c = false) :
    (s.start cold o).ctx c = {} := by
  obtain ⟨_, _, _, _, _, hb⟩ := s.startBase_only cold o
  have hbase : (s.startBase cold o).ctxs = [] := by
    unfold State.startBase
    split
    · exact List.foldlRecOn (motive := fun t : State => t.ctxs = []) _ _ rfl fun t ht _ _ => ht
    · rfl
  rw [s.ctx_start cold o c hc, s.ctx_diesStarted, State.ctx_startDies_ne]
  · rw [State.ctx, hbase]; rfl
  · rintro d hd rfl
    rw [isSupId_supId d (List.mem_range.mp hd)] at hs
    cases hs

/-- The supervisor of a die that is up. -/
theorem State.ctx_start_sup (s : State) (cold : Bool) (o : StartObs) (d : Nat) (hd : d < 8)
    (hup : ((s.start cold o).die d).up = true) : (s.start cold o).ctx (supId d) = startedSup o d := by
  rw [s.die_start cold o d hd] at hup
  have h0 : supId d ≠ 0 := by simp [supId, idOf]
  rw [s.ctx_start cold o _ h0, s.ctx_diesStarted]
  exact State.ctx_startDies_sup _ o cold _ _ _ (List.mem_range.mpr hd) (by simpa [startedDie] using hup)

/-- TRIPSTAT after the start that follows a thermal shutdown. -/
theorem State.trip_start (s : State) (cold : Bool) (o : StartObs) (h : s.shutdown = true) (d : Nat) (hd : d < 8) :
    (s.start cold o).reg d 0x6B 0 = 0x10 := by
  obtain ⟨fs, e⟩ := s.start_eq cold o
  have hj : (s.diesStarted cold o).reg d 0x6B 0 = 0x10 := by
    exact ((State.joinRings_tripKept _).2 d).trans ((State.trip_startDies _ o cold _ _ _ d).trans
      (s.trip_startBase cold o h d hd))
  rw [e, ← hj]
  unfold State.startSystem
  split <;> rfl

/-- Whether a die whose steps 1 to 3 succeed starts: its supervisor's image decides (R384, R455). -/
theorem dieStart_stops (o : StartObs) (cold keep links : Bool) (d : Nat) (h : o.failStep = []) :
    (dieStart o cold keep links d).stops = decide (0 ∈ refusedKinds o d) := by
  by_cases h0 : 0 ∈ refusedKinds o d <;> simp [dieStart, foundAt, h, h0]

/-! ### Memory -/

/-- A byte at an address that a filter leaves out. -/
theorem memGet_filter_out (p : Nat → Bool) (m : List Host.Cell) (a : Nat) (h : p a = false) :
    memGet (m.filter fun c => p c.1) a = 0 := by
  induction m with
  | nil => rfl
  | cons c m ih =>
    rw [List.filter_cons]
    split
    · next hc => rw [memGet, if_neg (by rintro rfl; simp [h] at hc), ih]
    · exact ih

/-- What a start leaves of the machine's storages and of the launch. -/
theorem State.start_cleared (s : State) (cold : Bool) (o : StartObs) :
    let t := s.start cold o
    t.cycle = 0 ∧ t.tiles = [] ∧ t.spad = [] ∧ t.opnd = [] ∧ t.l1 = [] ∧ t.launches = [] ∧ (∀ fn, t.port fn = {}) ∧
      (∀ cl k, t.sem cl k = 0) ∧ t.shutdown = false ∧ t.retMem = (!cold && s.retMem) ∧ t.retLink = (!cold && s.retLink) := by
  obtain ⟨_, _, _, _, _, e⟩ := s.start_only cold o
  dsimp only
  rw [e]
  exact ⟨rfl, rfl, rfl, rfl, rfl, rfl, fun _ => rfl, fun _ _ => rfl, rfl, rfl, rfl⟩

/-- Memory after a start: what the package holds is 0 unless the start keeps it (R172, R452). -/
theorem State.mem_start (s : State) (cold : Bool) (o : StartObs) :
    (s.start cold o).mem = if (!cold && s.retMem) then s.mem else s.mem.filter fun c => keptByte c.1 := by
  obtain ⟨_, _, _, _, _, e⟩ := s.start_only cold o
  rw [e]
  rfl

theorem State.memGet_start_lost (s : State) (cold : Bool) (o : StartObs) {a : Nat} (hk : (!cold && s.retMem) = false)
    (ha : paHbm a = true ∨ paFar a = true) : memGet (s.start cold o).mem a = 0 := by
  rw [s.mem_start, hk]
  refine memGet_filter_out keptByte s.mem a ?_
  unfold keptByte
  rcases ha with ha | ha <;> simp [ha]

/-- A supervisor after a start of a die. -/
theorem State.start_supervisor (s : State) (cold : Bool) (o : StartObs) (d : Nat) (hd : d < 8) :
    let t := s.start cold o
    ((t.die d).up = true → (t.ctx (supId d)).st = .running ∧ (t.ctx (supId d)).pc = 0) ∧
      (o.failStep = [] → 0 ∉ refusedKinds o d → (t.die d).up = true) ∧
      (o.failStep = [] → 0 ∈ refusedKinds o d → (t.die d).up = false) := by
  refine ⟨fun h => by rw [s.ctx_start_sup cold o d hd h]; exact ⟨rfl, rfl⟩, fun hf h0 => ?_, fun hf h0 => ?_⟩ <;>
    simp [s.die_start cold o d hd, startedDie, dieStart_stops, hf, h0]

/-- After a thermal shutdown only a cold start's turn does anything (R453). -/
theorem step_of_shutdown (s : State) (h : s.shutdown = true) (hc : s.popTurn.1.coldStart = false) :
    step s = .next s.popTurn.2 := by
  have hs : s.popTurn.2.shutdown = true := by
    unfold State.popTurn
    split <;> exact h
  unfold step fetch
  rw [if_pos ⟨hs, by simp [hc]⟩]
  rfl

/-- A turn's fetch takes the schedule alone. -/
theorem State.popTurn_leaves (s : State) : let t := s.popTurn.2
    t.cycle = s.cycle ∧ t.mem = s.mem ∧ t.ctxs = s.ctxs ∧ t.tiles = s.tiles := by
  unfold State.popTurn
  split <;> exact ⟨rfl, rfl, rfl, rfl⟩

/-- A start of any kind that runs is `State.start` of a state whose memory and shutdown are as before. -/
theorem exec_start {s : State} {i : Instr} {o : StartObs} {cold keep : Bool}
    (h : (i = .coldStart o ∧ cold = true ∧ keep = false) ∨
      (s.shutdown = false ∧ cold = false ∧ i = .functionLevelReset (.physical o) ∧ keep = s.retMem) ∨
      (s.shutdown = false ∧ cold = false ∧ s.hostUp = true ∧
        ∃ v : Word64, bit v 0 = true ∧ i = .rstctlWarm v o ∧ keep = bit v 1)) :
    ∃ z : State, exec i s = .next (z.start cold o) ∧ z.mem = s.mem ∧ z.shutdown = s.shutdown ∧
      keep = (!cold && z.retMem) := by
  rcases h with ⟨rfl, rfl, rfl⟩ | ⟨hs, rfl, rfl, rfl⟩ | ⟨hs, rfl, hu, v, hv, rfl, rfl⟩
  · exact ⟨s, rfl, rfl, rfl, rfl⟩
  · refine ⟨s, ?_, rfl, rfl, rfl⟩
    show execFunctionLevelReset (.physical o) s = _
    simp [execFunctionLevelReset, hs]
  · refine ⟨{ s with retMem := bit v 1, retLink := bit v 2 }, ?_, rfl, rfl, rfl⟩
    show execRstctlWarm v o s = _
    simp [execRstctlWarm, hs, hu, hv]

/-- A write of RSTCTL without the reset's bit keeps what the next reset shall keep, and does nothing else (R452). -/
theorem exec_rstctlWarm_of_bit_false {s : State} {v : Word64} (o : StartObs) (hu : s.hostUp = true) (hs : s.shutdown = false)
    (hv : bit v 0 = false) : exec (.rstctlWarm v o) s = .next { s with retMem := bit v 1, retLink := bit v 2 } := by
  show execRstctlWarm v o s = _
  simp [execRstctlWarm, hs, hu, hv]

/-- Settles O54, by what a start wipes and by what its dies' starts put back. -/
theorem startsClear : Obligations.StartsClear := by
  intro s
  refine ⟨fun i o cold keep h => ?_, fun v o hu hs hv => ⟨_, exec_rstctlWarm_of_bit_false o hu hs hv, rfl⟩, fun hs hc =>
    ⟨_, step_of_shutdown s hs hc, s.popTurn_leaves⟩⟩
  obtain ⟨z, hz, hmem, hshut, hkeep⟩ := exec_start h
  obtain ⟨h1, h2, h3, h4, h5, h6, h7, h8, h9, hret, hlink⟩ := z.start_cleared cold o
  refine ⟨_, hz, h1, h2, h3, h4, h5, h6, ?_, ?_, h7, h8, h9, ?_, fun d hd => z.start_supervisor cold o d hd, ?_, ?_, ?_⟩
  · intro c _ h0 hs
    rw [z.ctx_start_free cold o c h0 hs]
  · intro hup ht
    rw [z.ctx_start_system cold o hup ht]
    exact ⟨rfl, rfl, rfl⟩
  · rintro rfl
    exact ⟨hret, hlink⟩
  · exact fun a hk ha => z.memGet_start_lost cold o (hkeep ▸ hk) ha
  · intro a hk
    rw [z.mem_start, ← hkeep, hk, if_pos rfl, hmem]
  · intro hs d hd
    rw [z.trip_start cold o (hshut ▸ hs) d hd]
    decide

end Sys2Proof.Machine

namespace Sys2Proof.Machine

/-! ## The event crossbar (O29) -/

/-! ### A command that traps at its operands -/

/-- A raised trap enters its die's queue in the order of R417. -/
theorem State.raise_trapEntered (s : State) (die : Nat) (e : TrapEnt) : TrapEntered s (s.raise die e) die e := by
  intro hroom
  obtain ⟨p, q, hl, he, hp, hq⟩ := enterTrap_splits { e with cyc := s.cycle } (s.die die).traps
  have hy : ∀ x : TrapEnt, x.yields { e with cyc := s.cycle } = true ↔ x.cyc = s.cycle ∧
      (e.cause < x.cause ∨ e.cause = x.cause ∧ e.cause ≠ 9 ∧ e.ctx < x.ctx) := by
    intro x
    simp [TrapEnt.yields, causeError, and_assoc]
  refine ⟨p, q, hl, ?_, fun x hx hb => ?_, fun x hx => (hy x).mp (hq x hx)⟩
  · rw [← he]
    simp [State.raise, State.die, State.setDie, Die.enter, show (tgetD s.dies die {}).traps.length < 256 from hroom]
  · have := (hy x).mpr hb
    rw [hp x hx] at this
    cases this

/-- A trap that entered a die's queue after a change of contexts alone. -/
theorem TrapEntered.of_ctxs {s z t : State} {die : Nat} {e : TrapEnt} (hd : z.dies = s.dies) (hc : z.cycle = s.cycle)
    (h : TrapEntered z t die e) : TrapEntered s t die e := by
  unfold TrapEntered State.die at *
  rwa [hd, hc] at h

/-- The state of a command whose wait field has been passed (R268 step 2). -/
def State.pastWait (s : State) (c : Nat) : State := s.modCtx c fun x => { x with waitDone := true }

theorem State.ctx_pastWait (s : State) (c e : Nat) :
    (s.pastWait c).ctx e = if e = c then { s.ctx c with waitDone := true } else s.ctx e := s.ctx_modCtx c e _

@[simp] theorem State.ctx_pastWait_self (s : State) (c : Nat) : (s.pastWait c).ctx c = { s.ctx c with waitDone := true } := by
  rw [State.ctx_pastWait, if_pos rfl]

theorem State.pastWait_leaves (s : State) (c : Nat) : LeavesRest s (s.pastWait c) c :=
  ⟨rfl, ⟨fun _ => rfl, fun _ => rfl, fun _ => rfl, rfl, rfl, rfl⟩, ⟨rfl, rfl, rfl⟩,
    fun e he => by rw [State.ctx_pastWait, if_neg he], fun _ _ _ _ _ _ => rfl⟩

@[simp] theorem State.homeCl_pastWait (s : State) (c : Nat) : (s.pastWait c).homeCl c = s.homeCl c := by
  simp [State.homeCl]

@[simp] theorem State.ctxDie_pastWait (s : State) (c : Nat) : (s.pastWait c).ctxDie c = s.ctxDie c := by
  simp [State.ctxDie]

@[simp] theorem State.launchOf_pastWait (s : State) (c : Nat) : (s.pastWait c).launchOf c = s.launchOf c := by
  unfold State.launchOf
  rw [State.ctx_pastWait_self]
  rfl

/-- What a trap of a context that is no supervisor does to every context. -/
theorem State.ctx_trapCmd (s : State) (c cause e : Nat) (hs : isSupId c = false) : (s.trapCmd c cause).ctx e =
    if e = c then { s.ctx c with trapped := some cause, trapAfter := false } else s.ctx e := by
  unfold State.trapCmd
  rw [if_neg (by simp [hs])]
  exact (State.ctx_of_ctxs (s := s.setCtx c _) rfl e).trans (s.ctx_modCtx c e fun x =>
    { x with trapped := some cause, trapAfter := false })

theorem State.trapCmd_leaves (s : State) (c cause : Nat) (hs : isSupId c = false) : LeavesRest s (s.trapCmd c cause) c := by
  have hr : (s.trapCmd c cause).regs = s.regs := by
    unfold State.trapCmd
    rw [if_neg (by simp [hs])]
    rfl
  refine ⟨(s.trapCmd_only c cause).tiles, ?_, ?_, fun e he => by rw [s.ctx_trapCmd c cause e hs, if_neg he],
    fun _ _ _ _ _ _ => by rw [State.reg, hr]; rfl⟩
  all_goals
    obtain ⟨xs, ds, cs, ls, rs, hs', e⟩ := s.trapCmd_only c cause
    rw [e]
  · exact ⟨fun _ => rfl, fun _ => rfl, fun _ => rfl, rfl, rfl, rfl⟩
  · exact ⟨rfl, rfl, rfl⟩

theorem State.trapCmd_trapEntered (s : State) (c cause : Nat) (hs : isSupId c = false) :
    TrapEntered s (s.trapCmd c cause) (s.ctxDie c) { cause := cause, ctx := c, info := (s.ctx c).info } := by
  unfold State.trapCmd
  rw [if_neg (by simp [hs])]
  exact TrapEntered.of_ctxs rfl rfl (State.raise_trapEntered _ _ _)

theorem LeavesRest.trans {s t u : State} {c : Nat} (h : LeavesRest s t c) (k : LeavesRest t u c) : LeavesRest s u c := by
  obtain ⟨h1, ⟨m1, m2, m3, m4, m5, m6⟩, ⟨f1, f2, f3⟩, h4, h5⟩ := h
  obtain ⟨k1, ⟨n1, n2, n3, n4, n5, n6⟩, ⟨g1, g2, g3⟩, k4, k5⟩ := k
  exact ⟨k1.trans h1, ⟨fun a => (n1 a).trans (m1 a), fun a => (n2 a).trans (m2 a), fun a => (n3 a).trans (m3 a),
    n4.trans m4, n5.trans m5, n6.trans m6⟩, ⟨g1.trans f1, g2.trans f2, g3.trans f3⟩, fun e he => (k4 e he).trans (h4 e he),
    fun d n i hn hi hm => (k5 d n i hn hi hm).trans (h5 d n i hn hi hm)⟩

/-- A command of a context other than a supervisor whose operands fail its check traps. -/
theorem trapsWith_of_check {i : Instr} {s : State} {c cause : Nat} {w : CtlP2} (h : Issues s c w) (d : Cmd)
    (he : exec i s = runCmd w d s) (hs : isSupId c = false) (hp : d.pre s c = none)
    (hd : d.check (s.pastWait c) c = some cause) : TrapsWith i s c cause := by
  have hrun : exec i s = .next ((s.pastWait c).trapCmd c cause) := by
    rw [he, runCmd_of_issues h, hp]
    show d.own (s.pastWait c) c = _
    rw [Cmd.own, hd]
  have hx := (s.pastWait c).ctx_trapCmd c cause c hs
  rw [if_pos rfl, State.ctx_pastWait_self] at hx
  refine ⟨_, hrun, by rw [hx], by rw [hx], by rw [hx], (s.pastWait_leaves c).trans (State.trapCmd_leaves _ c cause hs), ?_⟩
  have := (s.pastWait c).trapCmd_trapEntered c cause hs
  rw [State.ctxDie_pastWait, State.ctx_pastWait_self] at this
  exact TrapEntered.of_ctxs rfl rfl this

/-! ### EVTC -/

/-- An empty signal field signals nothing. -/
theorem State.finish_of_sinc (s : State) (c : Nat) (w : CtlP2) (len : Nat) (h : w.sinc = 0) :
    s.finish c w len = s.setCtx c ((s.ctx c).past len) := by
  simp [State.finish, State.signal, signalOf, h]

theorem Issues.running {s : State} {c : Nat} {w : CtlP2} (h : Issues s c w) : (s.ctx c).st = .running := by
  have := h.runs
  simp only [Ctx.runs, Bool.and_eq_true, beq_iff_eq] at this
  exact this.1.1.1

/-- A write of a crossbar's element is noted, to act when the CYCLE ends (R282). -/
def State.noteXbar (s : State) (cl : Nat) (e : Nat × Word64 × BitVec 8) : State :=
  s.setCl cl { s.cl cl with xbar := { (s.cl cl).xbar with writes := (s.cl cl).xbar.writes ++ [e] } }

/-- The operands of EVTC pass its check (R282, R416). -/
def evtcOk (s : State) (c : Nat) (a b : XReg) : Bool :=
  evtOk ((s.ctx c).getX a).toNat ((s.ctx c).getX b) && (isSupId c || s.launchOn c (s.homeCl c))

/-- EVTC as a command: its check, and the write that it notes. -/
def evtcCmd (a b : XReg) (imm : BitVec 8) (w : CtlP2) : Cmd where
  check s c := trapUnless (evtcOk s c a b)
  act s c _ := .next ((s.noteXbar (s.homeCl c) (((s.ctx c).getX a).toNat, (s.ctx c).getX b, imm)).finish c w 2)

theorem exec_evtc_eq (a b : XReg) (imm : BitVec 8) (w : CtlP2) (s : State) :
    exec (.evtc a b imm w) s = runCmd w (evtcCmd a b imm w) s := rfl

theorem evtcOk_pastWait (s : State) (c : Nat) (a b : XReg) : evtcOk (s.pastWait c) c a b = evtcOk s c a b := by
  have hl : ∀ cl, (s.pastWait c).launchOn c cl = s.launchOn c cl := by
    intro cl
    have hh : ∀ r, (s.pastWait c).homeCl r = s.homeCl r := by
      intro r
      by_cases hr : r = c
      · rw [hr]; simp
      · simp [State.homeCl, State.ctx_pastWait, hr]
    simp [State.launchOn, hh]
  simp [evtcOk, hl, Ctx.getX]

theorem exec_evtc {s : State} {c : Nat} {a b : XReg} {imm : BitVec 8} {w : CtlP2} (h : Issues s c w)
    (hok : evtcOk s c a b = true) : exec (.evtc a b imm w) s = .next (((s.pastWait c).noteXbar (s.homeCl c)
      (((s.ctx c).getX a).toNat, (s.ctx c).getX b, imm)).finish c w 2) := by
  rw [exec_evtc_eq, runCmd_of_issues h]
  show (evtcCmd a b imm w).own (s.pastWait c) c = _
  simp [Cmd.own, evtcCmd, evtcOk_pastWait, hok, trapUnless, State.condTurn, State.condMet, Cmd.issue, Ctx.getX]

/-- EVTC completes at issue, and its write is noted (R282). -/
theorem completesAt_evtc {s : State} {c : Nat} {a b : XReg} {imm : BitVec 8} {w : CtlP2} (h : Issues s c w)
    (h0 : w.sinc = 0) (hok : evtcOk s c a b = true) : CompletesAt (.evtc a b imm w) s c ((s.ctx c).pc + 2) [] fun t =>
      (t.cl (s.homeCl c)).xbar = { (s.cl (s.homeCl c)).xbar with
        writes := (s.cl (s.homeCl c)).xbar.writes ++ [(((s.ctx c).getX a).toNat, (s.ctx c).getX b, imm)] } := by
  refine ⟨_, exec_evtc h hok, ?_⟩
  have hc : ∀ cl e, ((s.pastWait c).noteXbar cl e).ctx c = { s.ctx c with waitDone := true } :=
    fun _ _ => s.ctx_pastWait_self c
  have hl : ∀ cl e, LeavesRest (s.pastWait c) ((s.pastWait c).noteXbar cl e) c := fun _ _ =>
    ⟨rfl, ⟨fun _ => rfl, fun _ => rfl, fun _ => rfl, rfl, rfl, rfl⟩, ⟨rfl, rfl, rfl⟩, fun _ _ => rfl, fun _ _ _ _ _ _ => rfl⟩
  refine ⟨?_, ?_, ?_, ((s.pastWait_leaves c).trans (hl _ _)).trans (State.finish_leaves _ c w 2), ?_⟩
  all_goals rw [State.finish_of_sinc _ c w 2 h0]
  · rw [State.ctx_setCtx, hc]
    rfl
  · intro k
    rw [State.ctx_setCtx, hc]
    rfl
  · rw [State.ctx_setCtx, hc]
    exact h.running
  · exact congrArg Cluster.xbar (State.cl_setCl (s.pastWait c) _ _)

/-! ### The end of a CYCLE -/

/-- A table whose values are mapped. -/
theorem tget_map {α β : Type} (f : α → β) (l : Tbl α) (k : Nat) :
    tget (l.map fun p => (p.1, f p.2)) k = (tget l k).map f := by
  induction l with
  | nil => rfl
  | cons p l ih =>
    obtain ⟨j, v⟩ := p
    by_cases h : j = k
    · simp [tget, h]
    · simpa [tget, h] using ih

/-- A cluster when one CYCLE ends (R64, R271). -/
def Cluster.cycleEnd (x : Cluster) : Cluster := { x with xbar := x.xbar.endCycle, late := [], semOps := [] }

/-- CYCLE counts on by one while no error waits for its record and no increment for its semaphore. -/
theorem State.tick_of_calm (s : State) (hf : s.found = []) (hl : ∀ p ∈ s.clusters, p.2.late = []) : s.tick 1 =
    { s.monitor 1 with cycle := s.cycle + 1, hwSet := [], clusters := s.clusters.map fun p => (p.1, p.2.cycleEnd) } := by
  have hp : s.placeErrs = s := by
    unfold State.placeErrs State.foundOrder
    rw [hf]
    show ({ s with found := [] } : State) = s
    rw [← hf]
  have hc : ∀ (l : Tbl Cluster) (t : State), (∀ p ∈ l, p.2.late = []) →
      l.foldl (fun t p => p.2.late.foldl (fun t i => t.semAdd i.2.2.1 p.1 i.1 i.2.1 i.2.2.2) t) t = t := by
    intro l
    induction l with
    | nil => exact fun _ _ => rfl
    | cons p l ih =>
      intro t h
      rw [List.foldl_cons, h p (by simp)]
      exact ih t fun q hq => h q (by simp [hq])
  unfold State.tick
  rw [hc _ _ hl, hp]
  rfl

/-- The cluster of a listed number after that CYCLE. -/
theorem State.cl_tick_of_calm (s : State) (hf : s.found = []) (hl : ∀ p ∈ s.clusters, p.2.late = []) {cl : Nat} {x : Cluster}
    (hx : tget s.clusters cl = some x) : (s.tick 1).cl cl = x.cycleEnd := by
  rw [s.tick_of_calm hf hl]
  show tgetD (s.clusters.map fun p => (p.1, p.2.cycleEnd)) cl {} = _
  rw [tgetD, tget_map, hx]
  rfl

/-- The turn of a CYCLE's end. -/
theorem step_tick {s : State} {rest : List Turn} (hs : s.sched = .tick 1 :: rest) (hd : s.shutdown = false) :
    step s = .next ({ s with sched := rest, cur := .event }.tick 1) := by
  simp [step, fetch, State.popTurn, hs, hd]

theorem State.tget_of_writes {s : State} {cl : Nat} (h : (s.cl cl).xbar.writes ≠ []) :
    tget s.clusters cl = some (s.cl cl) := by
  unfold State.cl tgetD at *
  cases hx : tget s.clusters cl with
  | none => rw [hx] at h; exact absurd rfl h
  | some x => rfl

/-- One write that acts at the end of the CYCLE: what it leaves in the crossbar (R8, R282). -/
theorem Crossbar.endCycle_write (x : Crossbar) {n : Nat} {v : Word64} {imm : BitVec 8} (h : x.writes = [(n, v, imm)]) :
    let y := x.endCycle
    let kept (k : Nat) : Word64 := v &&& BitVec.ofNat 64 (2 ^ k - 1)
    y.writes = [] ∧ (n < 64 → tget y.inputs n = some (kept 11)) ∧
      (64 ≤ n → n < 96 → tget y.counters (n - 64) = some (kept 24) ∧ tgetD y.counts (n - 64) 0 =
        if bit v 23 then 0 else tgetD x.counts (n - 64) 0) ∧
      (96 ≤ n → n < 112 → tget y.terms (n - 96) = some (v, imm)) ∧ (112 ≤ n → tget y.outputs (n - 112) = some (kept 25)) := by
  unfold Crossbar.endCycle
  rw [h]
  simp only [List.foldl_cons, List.foldl_nil]
  unfold Crossbar.write
  by_cases h1 : n < 64
  · simp [h1, show ¬64 ≤ n by omega, show ¬96 ≤ n by omega, show ¬112 ≤ n by omega]
  by_cases h2 : n < 96
  · cases hb : bit v 23 <;>
      simp [h1, h2, show 64 ≤ n by omega, show ¬96 ≤ n by omega, show ¬112 ≤ n by omega, Crossbar.eval]
  by_cases h3 : n < 112
  · simp [h1, h2, h3, show 96 ≤ n by omega, show ¬112 ≤ n by omega]
  · simp [h1, h2, h3, show 112 ≤ n by omega]

/-! ### A start -/

/-- A start that has risen reaches its target (R64, R273, R282). -/
theorem exec_eventStart {s : State} {cl out : Nat} {v : Word64} (hr : out ∈ (s.cl cl).xbar.rising)
    (hv : tget (s.cl cl).xbar.outputs out = some v) : exec (.eventStart cl out) s =
      .next ((s.setCl cl { s.cl cl with xbar := { (s.cl cl).xbar with rising := (s.cl cl).xbar.rising.erase out } }).modCtx
        (startTarget cl v) fun x => { x with starts := if x.starts < 255 then x.starts + 1 else x.starts }) := by
  show execEventStart cl out s = _
  simp [execEventStart, hr, tgetD, hv]

/-- Settles O29, by the write that EVTC notes, the CYCLE's end that performs it, and the start's count. -/
theorem eventCrossbar : Obligations.EventCrossbar := by
  refine ⟨fun s c w a b imm h h0 => ⟨fun hok hon => ?_, fun hs hbad => ?_⟩, ?_, ?_⟩
  · exact completesAt_evtc h h0 (by simp only [evtcOk, hok, hon, Bool.and_self])
  · have hno : evtcOk s c a b = false := by simp only [evtcOk, hbad, Bool.false_and]
    refine trapsWith_of_check h (evtcCmd a b imm w) (exec_evtc_eq a b imm w s) hs rfl ?_
    show trapUnless (evtcOk (s.pastWait c) c a b) = _
    rw [evtcOk_pastWait, hno]
    rfl
  · intro s rest cl n v imm hs hd hf hl hw _
    have hx := s.tget_of_writes (cl := cl) (by rw [hw]; exact List.cons_ne_nil _ _)
    obtain ⟨h1, h2⟩ := (s.cl cl).xbar.endCycle_write hw
    have hcl := State.cl_tick_of_calm { s with sched := rest, cur := .event } hf hl hx
    refine ⟨_, step_tick hs hd, ?_⟩
    rw [hcl]
    exact ⟨h1, h2⟩
  · intro s cl out v hr hv
    have hc := State.ctx_modCtx (s.setCl cl { s.cl cl with
      xbar := { (s.cl cl).xbar with rising := (s.cl cl).xbar.rising.erase out } }) (startTarget cl v)
    refine ⟨_, exec_eventStart hr hv, ?_, ?_, fun k hk => ?_, rfl⟩
    · exact congrArg (fun x => x.xbar.rising) (State.cl_setCl s cl _)
    · rw [show cl / 6 * 8192 + cl % 6 * 1024 + _ = startTarget cl v from rfl, hc, if_pos rfl]
      rfl
    · exact (hc k _).trans (if_neg hk)

end Sys2Proof.Machine

namespace Sys2Proof.Machine

/-! ## The launch port and the placement of a launch (O41) -/

/-! ### The port (R375, R376) -/

@[simp] theorem State.port_lstat (s : State) (fn : Nat) (f : Port → Port) : (s.lstat fn f).port fn = f (s.port fn) := by
  simp [State.lstat, State.port]

@[simp] theorem State.port_stamp (s : State) (fn key bits : Nat) : (s.stamp key bits).port fn = s.port fn := rfl

/-- LSTAT of a port that becomes PENDING is another word (R375). -/
theorem Port.lstat_pending_ne (p : Port) (h : p.st = 0) (off : Word64) :
    ({ p with st := 1, off := off, tried := none } : Port).lstat ≠ p.lstat := by
  have hb : ∀ b, b2n b < 2 := b2n_lt
  have h1 := hb p.drop
  have h2 := hb p.refused
  intro e
  have := congrArg BitVec.toNat e
  simp only [Port.lstat, BitVec.toNat_ofNat, h] at this
  omega

/-- A write to an IDLE port makes it PENDING and signals the change (R375 to R377). -/
theorem exec_launch_idle {s : State} {fn : Nat} (off : Word64) (hf : fn < 17) (hr : (s.port fn).inReset = false)
    (hu : s.hostUp = true) (h0 : (s.port fn).st = 0) : exec (.launch fn off) s =
      .next (s.lstat fn fun p => { p with st := 1, off := off, tried := none }) := by
  show execLaunch fn off s = _
  simp [execLaunch, hr, hu, h0, Nat.not_le.mpr hf]

theorem State.msix_lstat_pending (s : State) {fn : Nat} (off : Word64) (hu : s.hostUp = true) (h0 : (s.port fn).st = 0) :
    (s.lstat fn fun p => { p with st := 1, off := off, tried := none }).msix = s.msix ++ [(fn, 0)] :=
  if_pos ⟨hu, (s.port fn).lstat_pending_ne h0 off⟩

/-- A write to a port that is not IDLE sets DROP (R375). -/
theorem exec_launch_busy {s : State} {fn : Nat} (off : Word64) (hf : fn < 17) (hr : (s.port fn).inReset = false)
    (hu : s.hostUp = true) (h0 : (s.port fn).st ≠ 0) :
    ∃ t, exec (.launch fn off) s = .next t ∧ t.port fn = { s.port fn with drop := true } := by
  have he : exec (.launch fn off) s = .next ((if (s.port fn).drop then s else
      s.lstat fn fun p => { p with drop := true }).stamp (lstatKey fn) (2 ^ 7)) := by
    show execLaunch fn off s = _
    simp [execLaunch, hr, hu, h0, Nat.not_le.mpr hf]
  refine ⟨_, he, ?_⟩
  rw [State.port_stamp]
  split
  · next hd => rw [← hd]
  · exact s.port_lstat fn _

/-- The byte enable of byte 0 covers bits 6 and 7 (R6). -/
theorem bit_byteMask (be : BitVec 8) : bit (byteMask be) 7 = be.getLsbD 0 ∧ bit (byteMask be) 6 = be.getLsbD 0 := by
  revert be
  decide

/-- A bit of what a host writes to LSTAT: within its byte enables, and not set in this CYCLE (R6, R7). -/
theorem bit_lstatWrite (w m x : Word64) (k : Nat) (hk : k < 64) : bit (w &&& m &&& ~~~x) k = (bit w k && bit m k && !x.getLsbD k) := by
  simp [bit, hk]

/-- A host's write to LSTAT (R6, R7, R375). -/
theorem exec_lstatWrite {s : State} {fn : Nat} (be : BitVec 8) (w : Word64) (hf : fn < 17) (hr : (s.port fn).inReset = false)
    (hu : s.hostUp = true) :
    let one (k : Nat) : Bool := bit w k && be.getLsbD 0 && !(BitVec.ofNat 64 (s.stamped (lstatKey fn))).getLsbD k
    let q : Port := { s.port fn with drop := (s.port fn).drop && !one 7, refused := (s.port fn).refused && !one 6 }
    exec (.registerWrite (.host be) 0 0x101 fn w) s = .next (if q = s.port fn then s else s.lstat fn fun _ => q) := by
  show lstatWrite fn be w s = _
  obtain ⟨h7, h6⟩ := bit_byteMask be
  simp only [lstatWrite, bit_lstatWrite _ _ _ 7 (by decide), bit_lstatWrite _ _ _ 6 (by decide), h7, h6]
  rw [if_neg (by simp [hr, hu, Nat.not_le.mpr hf])]

/-! ### Reading the image (R141, R374) -/

/-- A pass of accesses through an LLC slice changes the slice alone. -/
theorem State.llcPass_eq (s : State) (ps : List Nat) (wr : Bool) : ∃ lc, s.llcPass ps wr = { s with llc := lc } := by
  refine List.foldlRecOn (motive := fun t : State => ∃ lc, t = { s with llc := lc }) _ _ ⟨_, rfl⟩ ?_
  rintro _ ⟨lc, rfl⟩ g -
  unfold State.llcFill
  split
  · exact ⟨lc, rfl⟩
  · split <;> exact ⟨_, rfl⟩

/-! ### Placing the regions (R331, R388) -/

theorem State.takeL1_ctxs (s : State) (mask : Word64) (c cl : Nat) : (s.takeL1 mask c cl).ctxs = s.ctxs := by
  unfold State.takeL1
  split <;> rfl

theorem State.writeEntry_ctxs (s : State) (c : Nat) (p : Place) : (s.writeEntry c p).ctxs = s.ctxs := by
  unfold State.writeEntry
  split
  · rfl
  · split <;> rfl

/-- A region is placed in a context that was FREE, which is LOADING then (R331). -/
theorem State.placeRegion_some {s t : State} {l i id : Nat} {im : LaunchImg} {r : RegRec} {p : Place}
    (h : s.placeRegion l i im r p = some (t, id)) : (s.ctx id).st = .free ∧ (t.ctx id).st = .loading ∧
      (t.ctx id).launch = some l ∧ ∀ e, e ≠ id → t.ctx e = s.ctx e := by
  unfold State.placeRegion at h
  extract_lets pts cl id' at h
  split at h
  · next hok =>
    simp only [Bool.and_eq_true, beq_iff_eq] at hok
    obtain ⟨⟨⟨-, hfree⟩, -⟩, -⟩ := hok
    obtain ⟨rfl, rfl⟩ := Prod.mk.inj (Option.some.inj h)
    have hctx : ∀ (z : State) (e : Nat), (z.writeEntry id' p).ctx e = z.ctx e := fun z e =>
      State.ctx_of_ctxs (z.writeEntry_ctxs id' p) e
    refine ⟨hfree, ?_, ?_, fun e he => ?_⟩
    · rw [hctx, State.ctx_setCtx]
    · rw [hctx, State.ctx_setCtx]
    · rw [hctx, State.ctx_setCtx_ne _ _ he]
      exact State.ctx_of_ctxs (s.takeL1_ctxs _ _ _) e
  · cases h

/-- Every region of a launch that is placed is LOADING; a context that was not FREE is as it was. -/
theorem State.placeAll_some {l : Nat} {im : LaunchImg} (rs : List RegRec) {s t : State} {i : Nat} {ps : List Place}
    {ids : List Nat} (h : s.placeAll l im i rs ps = some (t, ids)) :
    (∀ id ∈ ids, (t.ctx id).st = .loading ∧ (t.ctx id).launch = some l) ∧ ∀ e, (s.ctx e).st ≠ .free → t.ctx e = s.ctx e := by
  induction rs generalizing s i ps ids with
  | nil =>
    cases ps with
    | nil =>
      obtain ⟨rfl, rfl⟩ := Prod.mk.inj (Option.some.inj h)
      exact ⟨by simp, fun _ _ => rfl⟩
    | cons p ps => cases h
  | cons r rs ih =>
    cases ps with
    | nil => cases h
    | cons p ps =>
      unfold State.placeAll at h
      split at h
      · cases h
      · next s1 id hp =>
        obtain ⟨⟨t', ids'⟩, h', hout⟩ := Option.map_eq_some_iff.mp h
        obtain ⟨rfl, rfl⟩ := Prod.mk.inj hout
        obtain ⟨hfree, hload, hl, hrest⟩ := State.placeRegion_some hp
        obtain ⟨hin, hkeep⟩ := ih h'
        refine ⟨fun e he => ?_, fun e he => ?_⟩
        · rcases List.mem_cons.mp he with rfl | he
          · rw [hkeep _ (by rw [hload]; decide)]
            exact ⟨hload, hl⟩
          · exact hin e he
        · have hne : e ≠ id := by rintro rfl; exact he hfree
          rw [hkeep e (by rwa [hrest e hne]), hrest e hne]

/-! ### Writing the launch (R456) -/

/-- Every context stands in the same launch at the same state of its life, and the launches count on from the same number. -/
def SameRun (s t : State) : Prop :=
  (∀ e, (t.ctx e).st = (s.ctx e).st ∧ (t.ctx e).launch = (s.ctx e).launch) ∧ t.nextLaunch = s.nextLaunch

theorem SameRun.of_eq {s t : State} (h : t.ctxs = s.ctxs) (hn : t.nextLaunch = s.nextLaunch) : SameRun s t :=
  ⟨fun e => by rw [State.ctx_of_ctxs h]; exact ⟨rfl, rfl⟩, hn⟩

theorem SameRun.trans {s t u : State} (h : SameRun s t) (k : SameRun t u) : SameRun s u :=
  ⟨fun e => ⟨(k.1 e).1.trans (h.1 e).1, (k.1 e).2.trans (h.1 e).2⟩, k.2.trans h.2⟩

theorem SameRun.fold {α : Type} {f : State → α → State} (h : ∀ s a, SameRun s (f s a)) (l : List α) (s : State) :
    SameRun s (l.foldl f s) :=
  List.foldlRecOn (motive := SameRun s) l f (.of_eq rfl rfl) fun t ht a _ => ht.trans (h t a)

theorem SyncOnly.sameRun {s t : State} (h : SyncOnly s t) : SameRun s t := by
  obtain ⟨_, _, _, _, rfl⟩ := h
  exact .of_eq rfl rfl

theorem State.modCtx_sameRun (s : State) (c : Nat) (f : Ctx → Ctx) (hs : ∀ x, (f x).st = x.st) (hl : ∀ x, (f x).launch = x.launch) :
    SameRun s (s.modCtx c f) := by
  refine ⟨fun e => ?_, rfl⟩
  rw [State.ctx_modCtx]
  split
  · next h => subst h; exact ⟨hs _, hl _⟩
  · exact ⟨rfl, rfl⟩

theorem State.writeGroups_sameRun (s : State) (die l : Nat) : SameRun s (s.writeGroups die l) := by
  unfold State.writeGroups
  obtain ⟨lc, e⟩ := State.llcPass_eq { s with mem := memPut s.mem (s.reg die 0x57 0).toNat (Config.groupTable l) }
    ((List.range (Config.groupTable l).length).map ((s.reg die 0x57 0).toNat + ·)) true
  dsimp only
  rw [e]
  exact .of_eq rfl rfl

/-- A launch that is written takes the next number; its contexts live on as they were placed (R331, R456). -/
theorem State.writeLaunch_run (s : State) (l fn : Nat) (im : LaunchImg) (ids : List Nat) :
    (∀ e, ((s.writeLaunch l fn im ids).ctx e).st = (s.ctx e).st ∧
      ((s.writeLaunch l fn im ids).ctx e).launch = (s.ctx e).launch) ∧ (s.writeLaunch l fn im ids).nextLaunch = l + 1 := by
  unfold State.writeLaunch
  extract_lets +onlyGivenNames gs la s0 src s1 s2
  have h0 : SameRun s s0 := by
    refine SameRun.fold (fun t c => ?_) ids s
    exact .of_eq rfl rfl
  have h1 : ∀ e, (s1.ctx e).st = (s.ctx e).st ∧ (s1.ctx e).launch = (s.ctx e).launch := (h0.trans (s0.writeGroups_sameRun _ l)).1
  have h2 : SameRun s1 s2 := by
    refine SameRun.fold (fun t p => ?_) _ _
    exact t.modCtx_sameRun _ _ (fun _ => rfl) (fun _ => rfl)
  have h3 : SameRun s2 (s2.trackAll gs) := .fold (fun t c => (t.track_only _ _).sameRun) _ _
  have h4 := h2.trans (h3.trans (.fold (f := fun (s : State) (st : Stage) =>
    let cl := s.homeCl (ids.getD st.region 0)
    if st.cap = 0 then s else (s.setSem cl st.fullsem 0).setSem cl st.emptysem st.cap) (fun t st => by
      dsimp only
      split <;> exact .of_eq rfl rfl) im.stages _))
  exact ⟨fun e => ⟨(h4.1 e).1.trans (h1 e).1, (h4.1 e).2.trans (h1 e).2⟩, h4.2⟩

/-! ### Writing the initial data (R172, R457) -/

theorem State.rawStore_sameRun (s : State) (w : Who) (width v : Nat) (poison : Bool) (p : Spot) :
    SameRun s (s.rawStore w width v poison p) := by
  have hl1 : ∀ (z : State) (b : Nat) (tr : Bool), SameRun z (z.l1Write w b width v tr poison) := fun z b tr => by
    unfold State.l1Write
    split <;> exact .of_eq rfl rfl
  have hllc : ∀ (z : State) (g : Nat), SameRun z (z.llcFill g true) := fun z g => by
    unfold State.llcFill
    split
    · exact .of_eq rfl rfl
    · split <;> exact .of_eq rfl rfl
  cases p with
  | phys b f q tr =>
    unfold State.rawStore
    dsimp only
    refine SameRun.trans (SameRun.trans ?_ (hllc _ _)) (hl1 _ _ _)
    exact .of_eq rfl rfl
  | spad pt b => exact .of_eq rfl rfl
  | slot pt n b => exact .of_eq rfl rfl
  | nowhere => exact .of_eq rfl rfl
  | virt b => exact .of_eq rfl rfl

theorem State.cleared_sameRun (s : State) (w : Who) (el : Fmt) (es : List Elem) : SameRun s (s.cleared w el es) :=
  .of_eq rfl rfl

theorem State.initElem_sameRun {s t : State} {c : Nat} {d : DataRec} {cs : List Nat} {v : Nat}
    (h : s.initElem c d cs v = some t) : SameRun s t := by
  unfold State.initElem at h
  extract_lets x cl who e at h
  split at h
  · split at h
    · cases h
    · split at h
      · cases h
      · split at h
        · cases h
        · split at h
          · split at h
            · cases h
            · split at h
              · cases h
              · extract_lets p at h
                split at h
                · cases h
                · obtain rfl := Option.some.inj h
                  exact (State.rawStore_sameRun _ _ _ _ _ _).trans (State.cleared_sameRun _ _ _ _)
          · cases h
  · obtain ⟨p, -, rfl⟩ := Option.map_eq_some_iff.mp h
    exact (State.rawStore_sameRun _ _ _ _ _ _).trans (State.cleared_sameRun _ _ _ _)

theorem State.initRun_sameRun (d : DataRec) (c : Nat) (l : List (List Nat)) (i : Nat) (s : State) :
    SameRun s (State.initRun d c i l s).1 := by
  induction l generalizing i s with
  | nil => exact .of_eq rfl rfl
  | cons cs l ih =>
    unfold State.initRun
    split
    · exact .of_eq rfl rfl
    · next s1 h => exact (State.initElem_sameRun h).trans (ih _ _)

theorem State.initAll_sameRun (ids : List Nat) (l : List DataRec) (s : State) : SameRun s (State.initAll ids l s).1 := by
  induction l generalizing s with
  | nil => exact .of_eq rfl rfl
  | cons d l ih =>
    unfold State.initAll
    dsimp only
    have h := State.initRun_sameRun d (ids.getD d.reg 0) d.run 0 s
    split
    · exact h.trans (ih _)
    · exact h

/-! ### The launch controller (R331, R376, R412) -/

/-- A refused launch leaves the port IDLE with REFUSED, and no context and no memory as it was not. -/
theorem State.refuseLaunch_leaves (s z : State) (fn : Nat) (hz : ∃ lc, z = { s with llc := lc }) :
    (z.refuseLaunch fn).port fn = { s.port fn with st := 0, refused := true } ∧ (z.refuseLaunch fn).ctxs = s.ctxs ∧
      SameMemory s (z.refuseLaunch fn) := by
  obtain ⟨lc, rfl⟩ := hz
  refine ⟨?_, rfl, fun _ => rfl, fun _ => rfl, fun _ => rfl, rfl, rfl, rfl⟩
  unfold State.refuseLaunch
  rw [State.port_stamp, State.port_lstat]
  rfl

/-- What the launch controller answers for a pending launch whose turn it is (R376), in the state that the image's bytes
have passed through the LLC. -/
def State.placed (s : State) (fn root : Nat) (ps : List Place) : State :=
  match s.readImage root (s.port fn).off.toNat with
  | none => s.refuseLaunch fn
  | some im =>
    match s.placeAll s.nextLaunch im 0 im.regs ps with
    | none => { s with ports := tset s.ports fn { s.port fn with tried := some s.cycle } }
    | some (s1, ids) =>
      if !s1.membersFit ids im.grps then s.refuseLaunch fn
      else
        let r := State.initAll ids im.data (s1.writeLaunch s.nextLaunch fn im ids)
        if r.2 then r.1.lstat fn fun q => { q with st := 2 }
        else { s with
          mem := r.1.mem, spad := r.1.spad, memPoison := r.1.memPoison, spadPoison := r.1.spadPoison }.refuseLaunch fn

theorem State.port_of_llc {s z : State} (hz : ∃ lc, z = { s with llc := lc }) (fn : Nat) : z.port fn = s.port fn := by
  obtain ⟨lc, rfl⟩ := hz
  rfl

/-- LAUNCH_PLACE of a port whose launch is PENDING and whose turn it is. -/
theorem exec_launchPlace {s z : State} {fn : Nat} {ps : List Place} {root d : Nat}
    (hd : d = (ps.headD ⟨0, 0, 0⟩).die) (hroot : root = (s.reg d 0x58 fn).toNat)
    (hz : z = s.llcPass (s.imagePas root (s.port fn).off.toNat) false) (h1 : (s.port fn).st = 1)
    (hup : (z.die d).up = true) (hpl : (z.die d).places = true) (hsv : z.servedFirst fn = false) : exec (.launchPlace fn ps) s = .next (z.placed fn root ps) := by
  have hp : z.port fn = s.port fn := State.port_of_llc (hz ▸ s.llcPass_eq _ _) fn
  show execLaunchPlace fn ps s = _
  unfold execLaunchPlace State.placed
  extract_lets +onlyGivenNames d' p root' z'
  obtain rfl : d' = d := hd.symm
  obtain rfl : root' = root := hroot.symm
  obtain rfl : z' = z := hz.symm
  rw [if_neg (by simp [p, h1, hup, hpl, hsv]), hp]
  cases z'.readImage root' p.off.toNat with
  | none => rfl
  | some im =>
    dsimp only
    cases z'.placeAll z'.nextLaunch im 0 im.regs ps with
    | none => rfl
    | some r =>
      dsimp only
      split
      · rfl
      · split <;> rfl

theorem State.placed_of_unread {s : State} {fn root : Nat} (ps : List Place)
    (hi : s.readImage root (s.port fn).off.toNat = none) : s.placed fn root ps = s.refuseLaunch fn := by
  simp [State.placed, hi]

/-- A launch that finds no room waits (R331). -/
theorem State.placed_of_noRoom {s : State} {fn root : Nat} {ps : List Place} {im : LaunchImg}
    (hi : s.readImage root (s.port fn).off.toNat = some im) (ha : s.placeAll s.nextLaunch im 0 im.regs ps = none) :
    s.placed fn root ps = { s with ports := tset s.ports fn { s.port fn with tried := some s.cycle } } := by
  simp [State.placed, hi, ha]

/-- One engine context twice in a group (R456). -/
theorem State.placed_of_misfit {s s1 : State} {fn root : Nat} {ps : List Place} {im : LaunchImg} {ids : List Nat}
    (hi : s.readImage root (s.port fn).off.toNat = some im)
    (ha : s.placeAll s.nextLaunch im 0 im.regs ps = some (s1, ids)) (hm : s1.membersFit ids im.grps = false) :
    s.placed fn root ps = s.refuseLaunch fn := by
  simp [State.placed, hi, ha, hm]

theorem State.placed_of_fit {s s1 : State} {fn root : Nat} {ps : List Place} {im : LaunchImg} {ids : List Nat}
    (hi : s.readImage root (s.port fn).off.toNat = some im)
    (ha : s.placeAll s.nextLaunch im 0 im.regs ps = some (s1, ids)) (hm : s1.membersFit ids im.grps = true)
    (hd : (State.initAll ids im.data (s1.writeLaunch s.nextLaunch fn im ids)).2 = true) : s.placed fn root ps =
      (State.initAll ids im.data (s1.writeLaunch s.nextLaunch fn im ids)).1.lstat fn fun q => { q with st := 2 } := by
  simp [State.placed, hi, ha, hm, hd]

/-- A launch that waits leaves every context and the memory as they were. -/
theorem State.noRoom_leaves {s z : State} {fn : Nat} (hz : ∃ lc, z = { s with llc := lc }) (h1 : (s.port fn).st = 1) :
    let t : State := { z with ports := tset z.ports fn { z.port fn with tried := some z.cycle } }
    (t.port fn).st = 1 ∧ t.ctxs = s.ctxs ∧ SameMemory s t := by
  obtain ⟨lc, rfl⟩ := hz
  refine ⟨?_, rfl, fun _ => rfl, fun _ => rfl, fun _ => rfl, rfl, rfl, rfl⟩
  exact (congrArg Port.st (tgetD_tset_self s.ports fn _ {})).trans h1

/-- The regions of a launch that is placed whole are LOADING in that launch, and the next launch has another number. -/
theorem State.placed_whole {s s1 : State} {fn l : Nat} {im : LaunchImg} {ids : List Nat} {ps : List Place}
    (ha : s.placeAll l im 0 im.regs ps = some (s1, ids)) :
    let t := (State.initAll ids im.data (s1.writeLaunch l fn im ids)).1
    t.nextLaunch = l + 1 ∧ ∀ id ∈ ids, (t.ctx id).st = .loading ∧ (t.ctx id).launch = some l := by
  obtain ⟨hwrite, hnext⟩ := s1.writeLaunch_run l fn im ids
  obtain ⟨hinit, hnext'⟩ := State.initAll_sameRun ids im.data (s1.writeLaunch l fn im ids)
  refine ⟨hnext'.trans hnext, fun id hid => ?_⟩
  obtain ⟨hst, hl⟩ := (State.placeAll_some _ ha).1 id hid
  exact ⟨((hinit id).1.trans (hwrite id).1).trans hst, ((hinit id).2.trans (hwrite id).2).trans hl⟩

/-- Settles O41, by what each write to the port and each answer of the launch controller leaves. -/
theorem launchEvents : Obligations.LaunchEvents := by
  intro s fn
  refine ⟨fun off hf hr hu => ⟨fun h0 => ?_, fun h0 => exec_launch_busy off hf hr hu h0⟩, fun w be hf hr hu => ?_, ?_⟩
  · exact ⟨_, exec_launch_idle off hf hr hu h0, s.port_lstat fn _, rfl, s.msix_lstat_pending off hu h0⟩
  · refine ⟨_, exec_lstatWrite be w hf hr hu, ?_⟩
    split
    · next hq => exact ⟨hq.symm, rfl, fun _ => rfl, fun _ => rfl, fun _ => rfl, rfl, rfl, rfl⟩
    · exact ⟨s.port_lstat fn _, rfl, fun _ => rfl, fun _ => rfl, fun _ => rfl, rfl, rfl, rfl⟩
  · intro ps d root z h1 hup hpl hsv refused
    have hz : ∃ lc, z = { s with llc := lc } := s.llcPass_eq _ _
    have hp : z.port fn = s.port fn := State.port_of_llc hz fn
    have hex := exec_launchPlace (s := s) (ps := ps) rfl rfl (z := z) rfl h1 hup hpl hsv
    have hn : z.nextLaunch = s.nextLaunch := by
      obtain ⟨lc, e⟩ := hz
      rw [e]
    have href := s.refuseLaunch_leaves z fn hz
    have hread : z.readImage root (z.port fn).off.toNat = z.readImage root (s.port fn).off.toNat := by rw [hp]
    refine ⟨fun hi => ?_, fun im hi => ⟨fun hno => ?_, fun s1 ids hs1 hfit => ?_, fun s1 ids hs1 hfit hall => ?_⟩⟩
    · exact ⟨_, hex.trans (congrArg _ (State.placed_of_unread ps (hread.trans hi))), href⟩
    · exact ⟨_, hex.trans (congrArg _ (State.placed_of_noRoom (hread.trans hi) hno)), State.noRoom_leaves hz h1⟩
    · exact ⟨_, hex.trans (congrArg _ (State.placed_of_misfit (hread.trans hi) hs1 hfit)), href⟩
    · obtain ⟨hnext, hids⟩ := State.placed_whole (fn := fn) hs1
      refine ⟨_, hex.trans (congrArg _ (State.placed_of_fit (hread.trans hi) hs1 hfit hall)), by rw [State.port_lstat], ?_⟩
      rw [← hn]
      exact ⟨hnext, hids⟩

end Sys2Proof.Machine

namespace Sys2Proof.Machine

/-! ## Traps, system calls and registers (O35) -/

/-! ### A command that completes at issue with an effect on its own context -/

theorem Ctx.getX_setX (x : Ctx) (d k : XReg) (v : Word64) : (x.setX d v).getX k = if d = k then v else x.getX k := by
  simp [Ctx.setX, Ctx.getX, Vector.getElem_set, Fin.ext_iff]

/-- One written X register. -/
theorem Ctx.withX_singleton (x : Ctx) (d k : XReg) (v : Word64) : x.withX [(d, v)] k = (x.setX d v).getX k := by
  rw [Ctx.getX_setX]
  by_cases h : d = k <;> simp [Ctx.withX, h]

theorem State.modCtx_leaves (s : State) (c : Nat) (f : Ctx → Ctx) : LeavesRest s (s.modCtx c f) c :=
  ⟨rfl, ⟨fun _ => rfl, fun _ => rfl, fun _ => rfl, rfl, rfl, rfl⟩, ⟨rfl, rfl, rfl⟩,
    fun e he => by rw [State.ctx_modCtx, if_neg he], fun _ _ _ _ _ _ => rfl⟩

/-- `runCmd_atIssue`, with the state past the wait field under its name. -/
theorem runCmd_unchecked {s : State} {c : Nat} {w : CtlP2} (h : Issues s c w) (len : Nat) (f : State → Nat → State) :
    runCmd w (atIssue w len f) s = .next ((f (s.pastWait c) c).finish c w len) := runCmd_atIssue h len f

/-- A command with a check of its operands, which finds nothing, and with no condition of its own issues. -/
theorem runCmd_issues {s : State} {c : Nat} {w : CtlP2} (h : Issues s c w) (f : State → Nat → Nat → Out)
    {k : State → Nat → Option Nat} (hk : k (s.pastWait c) c = none) :
    runCmd w { check := k, act := f } s = f (s.pastWait c) c 0 := by
  rw [runCmd_of_issues h]
  show Cmd.own _ (s.pastWait c) c = _
  simp [Cmd.own, hk, State.condTurn, State.condMet, Cmd.issue]

/-- Such a command that completes at issue with an effect on the state. -/
theorem runCmd_checked {s : State} {c : Nat} {w : CtlP2} (h : Issues s c w) (len : Nat) (f : State → Nat → State)
    {k : State → Nat → Option Nat} (hk : k (s.pastWait c) c = none) :
    runCmd w { atIssue w len f with check := k } s = .next ((f (s.pastWait c) c).finish c w len) :=
  runCmd_issues h _ hk

/-- A checked command of a context other than a supervisor, whose check finds a cause. -/
theorem trapsWith_of_checked {i : Instr} {s : State} {c cause : Nat} {w : CtlP2} (h : Issues s c w) (len : Nat)
    (f : State → Nat → State) (k : State → Nat → Option Nat) (he : exec i s = runCmd w { atIssue w len f with check := k } s)
    (hs : isSupId c = false) (hk : k (s.pastWait c) c = some cause) : TrapsWith i s c cause :=
  trapsWith_of_check h _ he hs rfl hk

theorem State.ctx_finish_of_sinc (s : State) (c len : Nat) {w : CtlP2} (h : w.sinc = 0) :
    (s.finish c w len).ctx c = (s.ctx c).past len := by
  rw [State.finish_of_sinc s c w len h, State.ctx_setCtx]

/-- A command that signals nothing and completes at issue with an effect `f` on its own context. -/
theorem completesAt_of_own {i : Instr} {s : State} {c : Nat} {w : CtlP2} (h : Issues s c w) (h0 : w.sinc = 0) (f : Ctx → Ctx)
    {ws : List (XReg × Word64)} {P : State → Prop} (he : exec i s = .next (((s.pastWait c).modCtx c f).finish c w 2))
    (hpc : ∀ x, (f x).pc = x.pc) (hst : ∀ x, (f x).st = x.st)
    (hx : ∀ k, (f { s.ctx c with waitDone := true }).getX k = (s.ctx c).withX ws k)
    (hP : ∀ t : State, t.ctx c = (f { s.ctx c with waitDone := true }).past 2 → P t) :
    CompletesAt i s c ((s.ctx c).pc + 2) ws P := by
  have hc : (((s.pastWait c).modCtx c f).finish c w 2).ctx c = (f { s.ctx c with waitDone := true }).past 2 := by
    rw [State.ctx_finish_of_sinc _ c 2 h0, State.ctx_modCtx, if_pos rfl, State.ctx_pastWait_self]
  refine ⟨_, he, ?_, fun k => ?_, ?_, ?_, hP _ hc⟩
  · rw [hc]
    exact congrArg (· + 2) (hpc _)
  · rw [hc, ← hx k]
    rfl
  · rw [hc]
    exact (hst _).trans h.running
  · exact ((s.pastWait_leaves c).trans (State.modCtx_leaves _ c f)).trans (State.finish_leaves _ c w 2)

/-- Such a command whose effect is to write one X register. -/
theorem completesAt_of_setOne {i : Instr} {s : State} {c : Nat} {w : CtlP2} (h : Issues s c w) (h0 : w.sinc = 0) {d : XReg}
    {v : Word64} (he : exec i s = .next (((s.pastWait c).modCtx c fun x => x.setX d v).finish c w 2)) :
    CompletesAt i s c ((s.ctx c).pc + 2) [(d, v)] :=
  completesAt_of_own h h0 (fun x => x.setX d v) he (fun _ => rfl) (fun _ => rfl)
    (fun k => ((s.ctx c).withX_singleton d k v).symm) fun _ _ => trivial

theorem State.getX_pastWait (s : State) (c : Nat) (a : XReg) : ((s.pastWait c).ctx c).getX a = (s.ctx c).getX a := by
  rw [State.ctx_pastWait_self]
  rfl

/-! ### TRAP and SYSC -/

theorem State.ctx_holdCmd (s : State) (c len : Nat) (w : CtlP2) (k : Hold) : (s.holdCmd c w len k).ctx c =
    { s.ctx c with hold := k, holdLen := len, holdSig := signalOf (s.ctx c) w } :=
  (s.ctx_modCtx c c _).trans (if_pos rfl)

/-- A context is changed and a trap of its is raised: what that leaves, and where the trap stands. -/
theorem State.raise_modCtx (s z : State) (c die : Nat) (f : Ctx → Ctx) (e : TrapEnt) (hz : LeavesRest s z c)
    (hd : z.dies = s.dies) (hc : z.cycle = s.cycle) : let t := (z.modCtx c f).raise die e
    t.ctx c = f (z.ctx c) ∧ LeavesRest s t c ∧ TrapEntered s t die e := by
  refine ⟨(z.ctx_modCtx c c f).trans (if_pos rfl), hz.trans ?_, .of_ctxs hd hc (State.raise_trapEntered _ die e)⟩
  obtain ⟨h1, h2, h3, h4, h5⟩ := z.modCtx_leaves c f
  exact ⟨h1, h2, h3, h4, h5⟩

theorem exec_trap {s : State} {c : Nat} {w : CtlP2} (imm : BitVec 8) (h : Issues s c w) (hs : isSupId c = false) :
    exec (.trap imm w) s = .next ((((s.pastWait c).finish c w 2).modCtx c fun x =>
      { x with trapped := some causeUser, trapAfter := true }).raise (s.ctxDie c)
        { cause := causeUser, ctx := c, info := imm.zeroExtend 64 }) := by
  refine (runCmd_issues h _ (by simp [hs, trapUnless])).trans ?_
  simp only [s.ctxDie_pastWait]

theorem exec_sysc {s : State} {c : Nat} {w : CtlP2} (d a : XReg) (imm : BitVec 8) (h : Issues s c w) (hs : isSupId c = false) :
    exec (.sysc d a imm w) s = .next ((((s.pastWait c).holdCmd c w 2 (.sysc d)).modCtx c fun x =>
      { x with trapped := some causeSysc, trapAfter := false }).raise (s.ctxDie c)
        { cause := causeSysc, ctx := c, info := (s.ctx c).getX a }) := by
  refine (runCmd_issues h _ (by simp [hs, trapUnless])).trans ?_
  simp only [s.ctxDie_pastWait, s.getX_pastWait]

/-! ### The user view (R305) -/

theorem State.flagUnit_pastWait (s : State) (c : Nat) : (s.pastWait c).flagUnit c = s.flagUnit c := by
  simp only [State.flagUnit, State.ctx_pastWait_self]
  rfl

theorem State.flany_pastWait (s : State) (c : Nat) : (s.pastWait c).flany c = s.flany c := by
  simp only [State.flany, State.ctx_pastWait_self]
  rfl

@[simp] theorem State.cycleOf_pastWait (s : State) (c : Nat) : (s.pastWait c).cycleOf c = s.cycleOf c := by
  simp only [State.cycleOf, State.ctxDie_pastWait]
  rfl

@[simp] theorem State.readUser_pastWait (s : State) (c n : Nat) : (s.pastWait c).readUser c n = s.readUser c n := by
  have hcu : ∀ pt u, (s.pastWait c).cu pt u = s.cu pt u := fun _ _ => rfl
  simp only [State.readUser, State.ctx_pastWait_self, State.cycleOf_pastWait, State.flagUnit_pastWait,
    State.flany_pastWait, hcu]

/-- A register of the user view is checked by its presence in it, one of the supervisor view by who asks (R304, R416). -/
theorem State.regCheck_user {s : State} {c n : Nat} {u : Word64} (h : s.readUser c n = some u) : s.regCheck c n = none := by
  simp [State.regCheck, h]

theorem State.regCheck_sup {s : State} {c n : Nat} (h : s.readUser c n = none) (hn : isSupReg n = true) :
    s.regCheck c n = trapUnless (isSupId c) causePriv := by
  simp [State.regCheck, h, hn]

theorem State.regCheck_pastWait (s : State) (c n : Nat) : (s.pastWait c).regCheck c n = s.regCheck c n := by
  simp only [State.regCheck, State.readUser_pastWait]

theorem exec_rds {s : State} {c : Nat} {w : CtlP2} (d : XReg) {imm : BitVec 8} (h : Issues s c w)
    (hk : s.regCheck c imm.toNat = none) : exec (.rds d imm w) s = .next (((s.pastWait c).modCtx c fun x => x.setX d
      ((s.readUser c imm.toNat).getD (s.readReg (idDie c) imm.toNat (s.selected (idDie c) imm.toNat)))).finish c w 2) := by
  refine (runCmd_checked h 2 _ ((s.regCheck_pastWait c imm.toNat).trans hk)).trans ?_
  rw [State.readUser_pastWait]
  rfl

/-- A write of a register of the user view. -/
theorem exec_wrs_user {s : State} {c : Nat} {w : CtlP2} (a : XReg) {imm : BitVec 8} (h : Issues s c w) {u : Word64}
    (hu : s.readUser c imm.toNat = some u) :
    exec (.wrs a imm w) s = .next (((s.pastWait c).writeUser c imm.toNat ((s.ctx c).getX a)).finish c w 2) := by
  have hz := (s.readUser_pastWait c imm.toNat).trans hu
  refine (runCmd_checked h 2 _ ?_).trans ?_
  · simp [State.regCheck_user hz, hz]
  · simp only [hz, s.getX_pastWait]
    rfl

/-- The registers that a supervisor writes whole, each of which a die has one of (R387). -/
theorem State.wholeReg (s : State) (c die : Nat) (v : Word64) {n : Nat} (hn : n ∈ [0x40, 0x44, 0x57]) :
    s.readUser c n = none ∧ isSupReg n = true ∧ s.selected die n = 0 ∧ s.refusesWrite die n 0 v = false ∧
      s.writeReg die n 0 v = s.setReg die n 0 v := by
  simp only [List.mem_cons, List.not_mem_nil, or_false] at hn
  obtain rfl | rfl | rfl := hn
  all_goals exact ⟨rfl, rfl, rfl, rfl, rfl⟩

theorem exec_wrs_whole {s : State} {c : Nat} {w : CtlP2} (a : XReg) {imm : BitVec 8} (h : Issues s c w) (hs : isSupId c = true)
    (hn : imm.toNat ∈ [0x40, 0x44, 0x57]) (hh : tget s.sampled (hostKey (idDie c) imm.toNat 0) ≠ some s.cycle) :
    exec (.wrs a imm w) s =
      .next (((s.pastWait c).setReg (idDie c) imm.toNat 0 ((s.ctx c).getX a)).finish c w 2) := by
  obtain ⟨hu, hsup, hsel, href, hw⟩ := (s.pastWait c).wholeReg c (idDie c) ((s.ctx c).getX a) hn
  have hz : ¬tget (s.pastWait c).sampled (hostKey (idDie c) imm.toNat 0) = some (s.pastWait c).cycle := hh
  refine (runCmd_checked h 2 _ ?_).trans ?_
  · simp only [State.regCheck_sup hu hsup, hs, hu, s.getX_pastWait, hsel, href]
    rfl
  · simp only [hu, s.getX_pastWait, hsel, State.regWrite, hw, if_neg hz]
    rfl

/-! ### The staging words and the layout view (R122, R305) -/

/-- The staging words have numbers 0x18 to 0x1F of the user view. -/
theorem State.readUser_lts (s : State) (c : Nat) (k : Fin 8) : ∃ u, s.readUser c (0x18 + k.val) = some u := by
  fin_cases k <;> exact ⟨_, rfl⟩

theorem State.writeUser_lts (s : State) {c : Nat} (hr : isRegionId c = true) (k : Fin 8) (v : Word64) :
    s.writeUser c (0x18 + k.val) v = s.modCtx c fun x => { x with lts := x.lts.set k v } := by
  unfold State.writeUser
  rw [if_neg (by omega), if_neg (by omega), if_neg (by omega), if_neg (by omega), if_neg (by omega),
    if_pos ⟨by omega, by omega, hr⟩]
  simp

/-- The fields of a word of a layout entry that are kept (R119). -/
theorem ltMasked_eq (k : Fin 8) (w : Word64) : ltMasked k.val w = w &&&
    (if k = 0 then 0x01FFFFFFFFFFFFFF else if k = 1 then 0x0FF00000FF000707 else if k = 7 then 0 else -1) := by
  fin_cases k <;> rfl

theorem getD_ltClean (xs : Vector Word64 8) (k : Fin 8) : (ltClean xs.toList).getD k.val 0 = ltMasked k.val xs[k] := by
  simp [ltClean, List.getD]

theorem fld_low8 (v : Word64) : fld v 0 8 = v.toNat % 256 := rfl

theorem exec_ltwrite {s : State} {c : Nat} {w : CtlP2} (a : XReg) (h : Issues s c w) (hr : isRegionId c = true) :
    exec (.ltwrite a w) s = .next (((s.pastWait c).modCtx c fun x => { x with
      layout := tset x.layout (((s.ctx c).getX a).toNat % 256) (ltClean x.lts.toList) }).finish c w 2) := by
  refine (runCmd_unchecked h 2 _).trans ?_
  simp only [s.getX_pastWait, State.ltWrite, hr, if_true, fld_low8]

theorem exec_ltfetch {s : State} {c : Nat} {w : CtlP2} (a : XReg) (h : Issues s c w) (hr : isRegionId c = true) :
    exec (.ltfetch a w) s = .next (((s.pastWait c).modCtx c fun x => { x with
      lts := Vector.ofFn fun k => (x.lt (((s.ctx c).getX a).toNat % 256)).getD k.val 0 }).finish c w 2) := by
  refine (runCmd_unchecked h 2 _).trans ?_
  simp only [s.getX_pastWait, State.ltFetch, hr, if_true, fld_low8]

/-! ### ENRD and CYC (R32, R304, R372) -/

theorem State.energy_pastWait (s : State) (c e : Nat) : ((s.pastWait c).ctx e).energy = (s.ctx e).energy := by
  rw [State.ctx_pastWait]
  split
  · next he => rw [he]
  · rfl

theorem exec_enrd {s : State} {c : Nat} {w : CtlP2} (d a : XReg) (h : Issues s c w)
    (hm : let e := ((s.ctx c).getX a).toNat % 65536; isSupId c = true ∨ e = c ∨ e = 0) :
    exec (.enrd d a w) s = .next (((s.pastWait c).modCtx c fun x => x.setX d
      (BitVec.ofNat 64 (s.ctx (((s.ctx c).getX a).toNat % 65536)).energy)).finish c w 2) := by
  have hf : fld ((s.ctx c).getX a) 0 16 = ((s.ctx c).getX a).toNat % 65536 := rfl
  refine (runCmd_checked h 2 _ ?_).trans ?_
  · simp only [s.getX_pastWait, hf, State.mayMeter, trapUnless]
    obtain hs | he | he := hm <;> simp [*]
  · simp only [s.getX_pastWait, hf, State.energy_pastWait]

theorem exec_cyc {s : State} {c : Nat} {w : CtlP2} (d : XReg) (h : Issues s c w) :
    exec (.cyc d w) s = .next (((s.pastWait c).modCtx c fun x => x.setX d (s.cycleOf c)).finish c w 2) := by
  refine (runCmd_unchecked h 2 _).trans ?_
  simp only [State.cycleOf_pastWait]

/-! ### What the commands leave -/

/-- TRAP traps behind the command (R304, R416, R418). -/
theorem trap_leaves {s : State} {c : Nat} {w : CtlP2} (imm : BitVec 8) (h : Issues s c w) (h0 : w.sinc = 0)
    (hs : isSupId c = false) : ∃ t, exec (.trap imm w) s = .next t ∧ (t.ctx c).pc = (s.ctx c).pc + 2 ∧
      (t.ctx c).trapped = some 0 ∧ (t.ctx c).xregs = (s.ctx c).xregs ∧ LeavesRest s t c ∧
      TrapEntered s t (s.ctxDie c) { cause := 0, ctx := c, info := imm.zeroExtend 64 } := by
  have hf := State.finish_of_sinc (s.pastWait c) c w 2 h0
  have hc := (s.pastWait c).ctx_finish_of_sinc c 2 h0
  obtain ⟨hx, hl, ht⟩ := s.raise_modCtx ((s.pastWait c).finish c w 2) c (s.ctxDie c)
    (fun x => { x with trapped := some causeUser, trapAfter := true })
    { cause := causeUser, ctx := c, info := imm.zeroExtend 64 }
    ((s.pastWait_leaves c).trans (State.finish_leaves _ c w 2)) (by rw [hf]; rfl) (by rw [hf]; rfl)
  rw [hc, State.ctx_pastWait_self] at hx
  exact ⟨_, exec_trap imm h hs, (congrArg Ctx.pc hx).trans rfl, congrArg Ctx.trapped hx, (congrArg Ctx.xregs hx).trans rfl, hl, ht⟩

/-- SYSC traps at the command, which holds its sequencer (R304, R418). -/
theorem sysc_leaves {s : State} {c : Nat} {w : CtlP2} (d a : XReg) (imm : BitVec 8) (h : Issues s c w)
    (hs : isSupId c = false) : Holds (.sysc d a imm w) s c w (.sysc d) fun t => (t.ctx c).trapped = some 1 ∧
      (t.ctx c).xregs = (s.ctx c).xregs ∧ LeavesRest s t c ∧
      TrapEntered s t (s.ctxDie c) { cause := 1, ctx := c, info := (s.ctx c).getX a } := by
  obtain ⟨hx, hl, ht⟩ := s.raise_modCtx ((s.pastWait c).holdCmd c w 2 (.sysc d)) c (s.ctxDie c)
    (fun x => { x with trapped := some causeSysc, trapAfter := false })
    { cause := causeSysc, ctx := c, info := (s.ctx c).getX a }
    ((s.pastWait_leaves c).trans (State.modCtx_leaves _ c _)) rfl rfl
  rw [State.ctx_holdCmd, State.ctx_pastWait_self] at hx
  exact ⟨_, exec_sysc d a imm h hs, congrArg Ctx.hold hx, (congrArg Ctx.pc hx).trans rfl, congrArg Ctx.holdLen hx,
    congrArg Ctx.holdSig hx, congrArg Ctx.trapped hx, (congrArg Ctx.xregs hx).trans rfl, hl, ht⟩

/-- RDS and WRS of a register of the supervisor view trap in user mode (R304, R416). -/
theorem rds_wrs_trap {s : State} {c : Nat} {w : CtlP2} (d a : XReg) {imm : BitVec 8} (h : Issues s c w)
    (hs : isSupId c = false) (hu : s.readUser c imm.toNat = none) (hn : isSupReg imm.toNat = true) :
    TrapsWith (.rds d imm w) s c causePriv ∧ TrapsWith (.wrs a imm w) s c causePriv := by
  have hk : (s.pastWait c).regCheck c imm.toNat = some causePriv := by
    rw [State.regCheck_pastWait, State.regCheck_sup hu hn, hs]
    rfl
  refine ⟨trapsWith_of_checked h 2 _ _ rfl hs hk, trapsWith_of_checked h 2 _ _ rfl hs ?_⟩
  simp only [hk]

/-- A supervisor's WRS of a register that it writes whole (R304, R387). -/
theorem wrs_whole_leaves {s : State} {c : Nat} {w : CtlP2} (a : XReg) {imm : BitVec 8} (h : Issues s c w) (h0 : w.sinc = 0)
    (hs : isSupId c = true) (hn : imm.toNat ∈ [0x40, 0x44, 0x57])
    (hh : tget s.sampled (hostKey (idDie c) imm.toNat 0) ≠ some s.cycle) :
    ∃ t, exec (.wrs a imm w) s = .next t ∧ (t.ctx c).pc = (s.ctx c).pc + 2 ∧
      t.reg (idDie c) imm.toNat 0 = (s.ctx c).getX a ∧ t.tiles = s.tiles ∧ SameMemory s t ∧
      ∀ die num inst, num < 256 → inst < 4096 → (die, num, inst) ≠ (idDie c, imm.toNat, 0) →
        t.reg die num inst = s.reg die num inst := by
  refine ⟨_, exec_wrs_whole a h hs hn hh, ?_⟩
  rw [State.finish_of_sinc _ c w 2 h0]
  refine ⟨?_, State.reg_setReg (s.pastWait c) _ _ _ _, rfl, ⟨fun _ => rfl, fun _ => rfl, fun _ => rfl, rfl, rfl, rfl⟩,
    fun die num inst hnum hinst hne => ?_⟩
  · rw [State.ctx_setCtx]
    show ((s.pastWait c).ctx c).pc + 2 = _
    rw [State.ctx_pastWait_self]
  · exact State.reg_setReg_ne (s.pastWait c) _ imm.isLt hnum (by omega) hinst hne

/-- WRS of a staging word (R305). -/
theorem completesAt_wrs_lts {s : State} {c : Nat} {w : CtlP2} (a : XReg) {imm : BitVec 8} (h : Issues s c w)
    (h0 : w.sinc = 0) (hr : isRegionId c = true) (k : Fin 8) (hk : imm.toNat = 0x18 + k.val) :
    CompletesAt (.wrs a imm w) s c ((s.ctx c).pc + 2) [] fun t =>
      (t.ctx c).lts[k] = (s.ctx c).getX a ∧ ∀ j : Fin 8, j ≠ k → (t.ctx c).lts[j] = (s.ctx c).lts[j] := by
  obtain ⟨u, hu⟩ := s.readUser_lts c k
  rw [← hk] at hu
  refine completesAt_of_own h h0 (fun x => { x with lts := x.lts.set k ((s.ctx c).getX a) }) ?_ (fun _ => rfl) (fun _ => rfl)
    (fun _ => rfl) fun t ht => ?_
  · rw [exec_wrs_user a h hu, hk, State.writeUser_lts _ hr]
  · rw [ht]
    exact ⟨Vector.getElem_set_self k.isLt, fun j hj => Vector.getElem_set_ne k.isLt j.isLt fun e => hj (Fin.ext e.symm)⟩

/-- LTWRITE stores the staging words whole, and no other entry of the view (R122, R305). -/
theorem completesAt_ltwrite {s : State} {c : Nat} {w : CtlP2} (a : XReg) (h : Issues s c w) (h0 : w.sinc = 0)
    (hr : isRegionId c = true) : let n := ((s.ctx c).getX a).toNat % 256
    CompletesAt (.ltwrite a w) s c ((s.ctx c).pc + 2) [] fun t =>
      (∀ k : Fin 8, ((t.ctx c).lt n).getD k.val 0 = (s.ctx c).lts[k] &&&
        (if k = 0 then 0x01FFFFFFFFFFFFFF else if k = 1 then 0x0FF00000FF000707 else if k = 7 then 0 else -1)) ∧
      ∀ m, m ≠ n → (t.ctx c).lt m = (s.ctx c).lt m := by
  intro n
  refine completesAt_of_own h h0 (fun x => { x with layout := tset x.layout n (ltClean x.lts.toList) }) (exec_ltwrite a h hr)
    (fun _ => rfl) (fun _ => rfl) (fun _ => rfl) fun t ht => ?_
  rw [ht]
  refine ⟨fun k => ?_, fun m hm => tgetD_tset_ne _ _ _ hm⟩
  have hl : tgetD (tset (s.ctx c).layout n (ltClean (s.ctx c).lts.toList)) n [] = _ := tgetD_tset_self _ _ _ _
  exact (congrArg (List.getD · k.val 0) hl).trans ((getD_ltClean _ k).trans (ltMasked_eq k _))

/-- LTFETCH copies an entry of the view into the staging words (R305). -/
theorem completesAt_ltfetch {s : State} {c : Nat} {w : CtlP2} (a : XReg) (h : Issues s c w) (h0 : w.sinc = 0)
    (hr : isRegionId c = true) : CompletesAt (.ltfetch a w) s c ((s.ctx c).pc + 2) [] fun t =>
      ∀ k : Fin 8, (t.ctx c).lts[k] = ((s.ctx c).lt (((s.ctx c).getX a).toNat % 256)).getD k.val 0 := by
  refine completesAt_of_own h h0 (fun x => { x with
    lts := Vector.ofFn fun k => (x.lt (((s.ctx c).getX a).toNat % 256)).getD k.val 0 }) (exec_ltfetch a h hr)
    (fun _ => rfl) (fun _ => rfl) (fun _ => rfl) fun t ht k => ?_
  rw [ht]
  exact Vector.getElem_ofFn k.isLt

/-- Settles O35, command by command: each is what it issues, and what that leaves. -/
theorem systemCommands : Obligations.SystemCommands := by
  intro s c w d a imm h h0 x v raised
  refine ⟨fun hs => ⟨trap_leaves imm h h0 hs, sysc_leaves d a imm h hs⟩, fun u hu => ?_, fun hs hu hn => ?_,
    fun hs hu hn => rds_wrs_trap d a h hs hu hn, fun hs hn hh => wrs_whole_leaves a h h0 hs hn hh, fun hr => ⟨fun k hk => ?_, ?_, ?_⟩,
    fun hm => ?_, ?_⟩
  · refine completesAt_of_setOne h h0 ((exec_rds d h (State.regCheck_user hu)).trans ?_)
    rw [hu]
    rfl
  · refine completesAt_of_setOne h h0 ((exec_rds d h ?_).trans ?_)
    · rw [State.regCheck_sup hu hn, hs]
      rfl
    · rw [hu]
      rfl
  · exact completesAt_wrs_lts a h h0 hr k hk
  · exact completesAt_ltwrite a h h0 hr
  · exact completesAt_ltfetch a h h0 hr
  · exact completesAt_of_setOne h h0 (exec_enrd d a h hm)
  · exact ⟨_, Nat.le_of_lt_succ (Config.cycleSkew (s.ctxDie c)).isLt, completesAt_of_setOne h h0 (exec_cyc d h)⟩

end Sys2Proof.Machine

namespace Sys2Proof.Machine

/-! ## Stage samples and reassignment (O40) -/

/-! ### Samples of a stage's queue (R337) -/

/-- What a sample leaves of a stage with a declared queue: its rung, and its counts of samples at or above three quarters and
at or below one quarter of the capacity. -/
theorem State.sampleStage_counts (s : State) (la : Launch) {g : Stage} (hcap : g.cap ≠ 0) :
    let n := s.occ (la.stageCtx g) g
    (s.sampleStage la g).cur = g.cur ∧ (s.sampleStage la g).high = (if 3 * g.cap ≤ 4 * n then g.high + 1 else 0) ∧
      (s.sampleStage la g).low = if 4 * n ≤ g.cap then g.low + 1 else 0 := by
  intro n
  have hhi : (3 * g.cap + 3) / 4 ≤ n ↔ 3 * g.cap ≤ 4 * n := by omega
  have hlo : n ≤ g.cap / 4 ↔ 4 * n ≤ g.cap := by omega
  unfold State.sampleStage
  rw [if_neg hcap]
  exact ⟨rfl, if_congr hhi rfl rfl, if_congr hlo rfl rfl⟩

/-- PIPE_SAMPLE at a CYCLE at which the die of one of the launch's stages samples. -/
theorem exec_pipeSample {s : State} {l k : Nat} {la : Launch} {g : Stage} (hl : tget s.launches l = some la)
    (hg : la.stages[k]? = some g) (hn : s.sampleNow la g = true) (hs : tget s.sampled (pipeKey l) ≠ some s.cycle) :
    exec (.pipeSample l) s = .next { s with
      sampled := tset s.sampled (pipeKey l) s.cycle
      launches := tset s.launches l { la with
        stages := la.stages.map fun st => if s.sampleNow la st then s.sampleStage la st else st } } := by
  have hany : la.stages.any (s.sampleNow la) = true := List.any_eq_true.mpr ⟨g, List.mem_of_getElem? hg, hn⟩
  show execPipeSample l s = _
  simp [execPipeSample, hl, hany, hs]

/-! ### A change of one stage -/

/-- The launch whose stage `k` is changed. -/
theorem State.tget_modStage {s : State} {l k : Nat} {la : Launch} {g : Stage} (f : Stage → Stage)
    (hl : tget s.launches l = some la) (hg : la.stages[k]? = some g) :
    ∃ la', tget (s.modStage l k f).launches l = some la' ∧ la'.stages[k]? = some (f g) := by
  refine ⟨_, by rw [State.modStage, hl]; exact tget_tset_self _ _ _, ?_⟩
  simp [List.getElem?_map, List.getElem?_zipIdx, hg]

/-- A change of a stage is one of the launches alone. -/
theorem State.modStage_eq (s : State) (l k : Nat) (f : Stage → Stage) :
    ∃ ls, s.modStage l k f = { s with launches := ls } := by
  unfold State.modStage
  split <;> exact ⟨_, rfl⟩

/-! ### A token to every generator that the counter feeds (R38) -/

/-- The fields of a context that a token sent by its counter leaves: those that a reassignment writes. -/
structure Ctx.KeepsReassign (x y : Ctx) : Prop where
  reassign : y.reassign = x.reassign
  mark     : y.mark = x.mark
  barOut   : y.barOut = x.barOut

theorem Ctx.KeepsReassign.trans {x y z : Ctx} (h : x.KeepsReassign y) (k : y.KeepsReassign z) : x.KeepsReassign z :=
  ⟨k.reassign.trans h.reassign, k.mark.trans h.mark, k.barOut.trans h.barOut⟩

theorem Ctx.keepsReassign_recordIn (x : Ctx) (key : Nat) (t : Token) : x.KeepsReassign (x.recordIn key t) := by
  unfold Ctx.recordIn
  dsimp only
  split
  · split <;> exact ⟨rfl, rfl, rfl⟩
  · exact ⟨rfl, rfl, rfl⟩

theorem State.tiles_touch (s : State) (pt : Nat) (k : Ctr) : (s.touch pt k).tiles = s.tiles := by
  unfold State.touch
  split <;> rfl

theorem State.ag_of_tiles {s t : State} (h : t.tiles = s.tiles) (pt : Nat) (g : Bool) : t.ag pt g = s.ag pt g := by
  simp [State.ag, State.tile, h]

theorem State.ag_setAg_ne (s : State) {pt pt' : Nat} {g g' : Bool} (a : Ag) (h : (pt', g') ≠ (pt, g)) :
    (s.setAg pt g a).ag pt' g' = s.ag pt' g' := by
  by_cases hp : pt' = pt
  · subst hp
    cases g <;> cases g' <;> simp_all [State.ag, State.setAg]
  · cases g <;> simp [State.ag, State.setAg, State.tile_setTile_ne _ _ hp]

/-- The counter of region `c` sends a token to one generator. -/
def State.feedOne (c : Nat) (t : Token) (s : State) (p : Nat × Bool) : State :=
  ((s.setAg p.1 p.2 { s.ag p.1 p.2 with start := (s.ag p.1 p.2).start ++ [t] }).touch p.1 .tok).modCtx c
    fun x => x.recordIn (unitKey p.1 (if p.2 then 6 else 5)) t

theorem State.feedAll_eq (s : State) (c : Nat) (t : Token) : s.feedAll c t = (s.fed c).foldl (State.feedOne c t) s := rfl

theorem State.keepsReassign_feedOne (s : State) (c : Nat) (t : Token) (p : Nat × Bool) :
    (s.ctx c).KeepsReassign ((s.feedOne c t p).ctx c) := by
  obtain ⟨ch, q, h⟩ := (s.setAg p.1 p.2 { s.ag p.1 p.2 with start := (s.ag p.1 p.2).start ++ [t] }).touch_ctx p.1 .tok c
  unfold State.feedOne
  rw [State.ctx_modCtx, if_pos rfl, h]
  refine Ctx.KeepsReassign.trans ?_ (Ctx.keepsReassign_recordIn _ _ _)
  cases p.2 <;> exact ⟨rfl, rfl, rfl⟩

theorem State.ag_feedOne (s : State) (c : Nat) (t : Token) (p : Nat × Bool) (pt : Nat) (g : Bool) :
    ((s.feedOne c t p).ag pt g).start = (s.ag pt g).start ++ if p = (pt, g) then [t] else [] := by
  unfold State.feedOne
  refine (congrArg Ag.start (State.ag_of_tiles (State.tiles_touch _ p.1 .tok) pt g)).trans ?_
  split
  · next h => subst h; rw [State.ag_setAg]
  · next h => rw [State.ag_setAg_ne _ _ (Ne.symm h), List.append_nil]

/-- What the counter's token leaves: the generators it names have it once each, and the region's reassignment stands. -/
theorem State.feed_leaves (c : Nat) (t : Token) (ps : List (Nat × Bool)) (s : State) (hn : ps.Nodup) :
    (s.ctx c).KeepsReassign ((ps.foldl (State.feedOne c t) s).ctx c) ∧ ∀ pt g,
      ((ps.foldl (State.feedOne c t) s).ag pt g).start = (s.ag pt g).start ++ if (pt, g) ∈ ps then [t] else [] := by
  induction ps generalizing s with
  | nil => exact ⟨⟨rfl, rfl, rfl⟩, fun _ _ => (List.append_nil _).symm⟩
  | cons p ps ih =>
    obtain ⟨hp, hps⟩ := List.nodup_cons.mp hn
    obtain ⟨hk, ha⟩ := ih (s.feedOne c t p) hps
    refine ⟨(s.keepsReassign_feedOne c t p).trans hk, fun pt g => ?_⟩
    rw [List.foldl_cons, ha, State.ag_feedOne, List.append_assoc]
    congr 1
    by_cases h : p = (pt, g)
    · subst h
      simp [hp]
    · simp [h, Ne.symm h]

/-! ### The mark of a reassignment (R338 step 1) -/

/-- The state in which a region's counter stands behind a new mark `n`, which goes towards rung `m`. -/
def State.marked (s : State) (l k c m n : Nat) : State :=
  (s.modStage l k fun g => { g with target := some m, mark := n }).setCtx c { s.ctx c with
    reassign := true, mark := n, barOut := (s.ctx c).barOut ++ [(n, [])], marks := tset (s.ctx c).marks n {} }

theorem State.ctx_marked (s : State) (l k c m n : Nat) : (s.marked l k c m n).ctx c = { s.ctx c with
    reassign := true, mark := n, barOut := (s.ctx c).barOut ++ [(n, [])], marks := tset (s.ctx c).marks n {} } :=
  State.ctx_setCtx _ c _

/-- The mark changes no tile, and so no generator. -/
theorem State.ag_marked (s : State) (l k c m n pt : Nat) (g : Bool) : (s.marked l k c m n).ag pt g = s.ag pt g := by
  obtain ⟨ls, e⟩ := s.modStage_eq l k fun g => { g with target := some m, mark := n }
  unfold State.marked
  rw [e]
  rfl

theorem State.fed_marked (s : State) (l k c m n : Nat) : (s.marked l k c m n).fed c = s.fed c := by
  have ht : ((s.marked l k c m n).ctx c).tiles = (s.ctx c).tiles := by
    rw [State.ctx_marked]
    rfl
  simp only [State.fed, ht, State.ag_marked]

/-- The load of a rung into its rectangle begins; a region that is not RUNNING stays in its state (R338). -/
def State.loadRung (s : State) (c : Nat) (r : Rung) : State :=
  ((s.takeRung c r).startLoad c r.cfgoff false).modCtx c fun y =>
    if (s.ctx c).st = .running then y else { y with st := (s.ctx c).st }

section
variable {s : State} {l k m : Nat} {c : Nat} {la : Launch} {g : Stage} (hl : tget s.launches l = some la)
  (hg : la.stages[k]? = some g) (hc : la.stageCtx g = c)
include hl hg hc

/-- A reassignment that is not MAPSEL's waits between two steps for the next RUN (log entry 22). -/
theorem exec_stageReassign_stepless (hgoal : s.goal c g = some m) (hoff : (s.ctx c).stepOn = false)
    (hsoft : g.soft = false) : exec (.stageReassign l k) s = .next s := by
  show execStageReassign l k s = _
  simp [execStageReassign, hl, hg, hc, hgoal, Ctx.counting, hoff, hsoft, stall]

/-- A reassignment that may begin injects its mark (R338 step 1). -/
theorem exec_stageReassign_mark (hgoal : s.goal c g = some m) (hcap : m ≤ s.rungCap c)
    (hre : (s.ctx c).reassign = false) (hfires : (s.ctx c).st.fires = true)
    (hloops : (s.ctx c).loopsEmpty = true) (hlaunch : (s.ctx c).launch = some l)
    (hgo : (s.ctx c).counting = true ∨ ((s.ctx c).stepOn = false ∧ g.soft = true))
    (hsteals : (s.ctx c).steals = []) (hroom : s.fedRoom c = true) :
    let n := ((s.ctx c).mark + 1) % 2 ^ 32
    exec (.stageReassign l k) s =
      .next ((s.marked l k c m n).feedAll c (barrierToken n)) := by
  have hgo' : ((s.ctx c).counting || (!(s.ctx c).stepOn && g.soft)) = true := by
    obtain h | ⟨h, h'⟩ := hgo <;> simp [*]
  show execStageReassign l k s = _
  unfold execStageReassign
  simp only [hl, hg, hc, hgoal]
  rw [if_neg (by simp [hre, hfires, hloops, hlaunch, hcap]), if_pos (by simp [hgo', hsteals, hroom])]
  rfl

/-! ### The load of the rung (R338 steps 2 and 3) -/

/-- The rung is loaded once the mark has reached every sink and the region is quiescent (R338). -/
theorem exec_stageReassignLoad {r : Rung} (ht : g.target = some m) (hr : g.rungs[m]? = some r)
    (hcap : m ≤ s.rungCap c) (hre : (s.ctx c).reassign = true)
    (hfires : (s.ctx c).st.fires = true) (hq : (s.ctx c).quiet = true)
    (hb : ∀ b ∈ (s.ctx c).barOut, b.1 ≠ g.mark) (hloops : (s.ctx c).loopsEmpty = true)
    (hfree : s.rungFree c r = true) : exec (.stageReassignLoad l k) s =
      .next (s.loadRung c r) := by
  have hnone : (s.ctx c).barOut.any (fun p => p.1 == g.mark) = false := by simpa using hb
  show execStageReassignLoad l k s = _
  unfold execStageReassignLoad
  simp only [hl, hg, hc, ht, hr, Option.map_some]
  rw [if_neg (by omega), if_neg (by simp [hcap, hre, hfires, hq, hnone, hloops, hfree])]
  rfl

/-- A rung that RUNGCAP no longer permits: a MAPSEL waits (log entry 22). -/
theorem exec_stageReassignLoad_waits {r : Rung} (ht : g.target = some m) (hr : g.rungs[m]? = some r)
    (hcap : s.rungCap c < m) (hsoft : g.soft = true) : exec (.stageReassignLoad l k) s = .next s := by
  show execStageReassignLoad l k s = _
  simp [execStageReassignLoad, hl, hg, hc, ht, hr, hcap, hsoft, stall]

/-- A rung that RUNGCAP no longer permits: a post is dropped (R370). -/
theorem exec_stageReassignLoad_drops {r : Rung} (ht : g.target = some m) (hr : g.rungs[m]? = some r)
    (hcap : s.rungCap c < m) (hre : (s.ctx c).reassign = true) (hsoft : g.soft = false) :
    exec (.stageReassignLoad l k) s = .next ((s.modStage l k fun g => { g with target := none }).modCtx c
      fun x => { x with reassign := false }) := by
  show execStageReassignLoad l k s = _
  simp [execStageReassignLoad, hl, hg, hc, ht, hr, hcap, hre, hsoft]

end

/-- The region's context in that load: LOADING where it was RUNNING, with the rung's rectangle (R338). -/
theorem State.ctx_loadRung (s : State) (c : Nat) (r : Rung) : let t := s.loadRung c r
    (t.ctx c).st = (if (s.ctx c).st = .running then .loading else (s.ctx c).st) ∧
      (t.ctx c).loading = some (r.cfgoff, 0, false) ∧ (t.ctx c).width = r.w ∧ (t.ctx c).height = r.h := by
  have hrung : ((s.takeRung c r).ctx c).width = r.w ∧ ((s.takeRung c r).ctx c).height = r.h := by
    unfold State.takeRung
    rw [State.ctx_setCtx]
    exact ⟨rfl, rfl⟩
  have hload : ((s.takeRung c r).startLoad c r.cfgoff false).ctx c =
      { (s.takeRung c r).ctx c with st := .loading, loading := some (r.cfgoff, 0, false), frames := [] } :=
    (State.ctx_modCtx _ c c _).trans (if_pos rfl)
  intro t
  unfold t State.loadRung
  rw [State.ctx_modCtx, if_pos rfl, hload]
  split
  · exact ⟨rfl, rfl, hrung⟩
  · exact ⟨rfl, rfl, hrung⟩


/-- Settles O40, event by event: the sample, the mark, and the load of the rung or its refusal. -/
theorem pipelineEvents : Obligations.PipelineEvents := by
  intro s l k la g hl hg c x
  refine ⟨fun hcyc hs hcap => ?_, fun m hgoal hcap hre hfires hloops hlaunch => ⟨fun hoff hsoft => ?_,
    fun hgo hsteals hroom hnodup => ?_⟩, fun m r ht hr hcap hre hfires hq hb hloops hfree => ?_,
    fun m r ht hr hcap hre => ⟨fun hsoft => ?_, fun hsoft => ?_⟩⟩
  · have hn : s.sampleNow la g = true := beq_iff_eq.mpr hcyc
    obtain ⟨hcur, hhi, hlo⟩ := s.sampleStage_counts la hcap
    exact ⟨_, _, s.sampleStage la g, exec_pipeSample hl hg hn hs, tget_tset_self _ _ _,
      by simp [hg, hn], hcur, hhi, hlo, rfl⟩
  · exact exec_stageReassign_stepless hl hg rfl hgoal hoff hsoft
  · intro n
    have hfed := s.fed_marked l k c m n
    obtain ⟨⟨hr, hm, hb⟩, hag⟩ := State.feed_leaves c (barrierToken n) (s.fed c) (s.marked l k c m n) hnodup
    refine ⟨_, exec_stageReassign_mark hl hg rfl hgoal hcap hre hfires hloops hlaunch hgo hsteals hroom, ?_⟩
    rw [State.feedAll_eq, hfed]
    rw [State.ctx_marked] at hr hm hb
    refine ⟨hr, hm, hb, fun p hp => ?_⟩
    rw [hag, State.ag_marked, if_pos hp]
  · refine ⟨_, exec_stageReassignLoad hl hg rfl ht hr hcap hre hfires hq hb hloops hfree, s.ctx_loadRung c r⟩
  · exact exec_stageReassignLoad_waits hl hg rfl ht hr hcap hsoft
  · obtain ⟨la', hla, hst⟩ := State.tget_modStage (fun g => { g with target := none }) hl hg
    refine ⟨_, la', exec_stageReassignLoad_drops hl hg rfl ht hr hcap hre hsoft, ?_, hla, hst, ?_⟩
    all_goals rw [State.ctx_modCtx, if_pos rfl]
    obtain ⟨ls, e⟩ := s.modStage_eq l k fun g => { g with target := none }
    rw [e]
    rfl

end Sys2Proof.Machine

namespace Sys2Proof.Machine

/-! ## One step runs the decoded instruction (O57) -/

section
variable {s : State} {rest : List Turn} {t : Turn}

/-- A step with a schedule takes its first turn (log entry 1) and runs what the turn fetches. -/
theorem step_of_fetch_run {i : Instr} {s1 : State} (hs : s.sched = t :: rest)
    (hf : fetch t { s with sched := rest } = .run i s1) : step s = exec i s1 := by
  simp only [step, State.popTurn, hs, hf]

/-- A turn that fetches no instruction is over with the fetch. -/
theorem step_of_fetch_done {r : Out} (hs : s.sched = t :: rest)
    (hf : fetch t { s with sched := rest } = .done r) : step s = r := by
  simp only [step, State.popTurn, hs, hf]

end

/-! While the package is not shut down by heat, a turn is fetched as its agent's (R453). -/
section
variable {s : State} (hd : s.shutdown = false)
include hd

theorem fetch_cu (pt : Nat) (u : Bool) : fetch (.cu pt u) s = fetchCu pt u s := by simp [fetch, hd]
theorem fetch_mu (pt : Nat) (u : Bool) : fetch (.mu pt u) s = fetchMu pt u s := by simp [fetch, hd]
theorem fetch_mx (pt : Nat) : fetch (.mx pt) s = fetchMx pt s := by simp [fetch, hd]
theorem fetch_ctl (c : Nat) : fetch (.ctl c) s = fetchCtl c s := by simp [fetch, hd]
theorem fetch_op (i : Instr) : fetch (.op i) s = .run i { s with cur := .event } := by simp [fetch, hd]

end

/-- A ready compute unit runs what its parcels decode to (R45). -/
theorem fetchCu_of_decode {s : State} {pt : Nat} {u : Bool} {i : Instr} {n : Nat} (hr : s.cuReady pt u = true)
    (hd : Decode.elem (s.cu pt u).parcels = .ok (i, n)) : fetchCu pt u s = .run i { s with cur := .cu pt u } := by
  simp [fetchCu, hr, hd]

/-- A configured memory unit of an active tile runs what its frame decodes to (R193). -/
theorem fetchMu_of_decode {s : State} {pt : Nat} {u : Bool} {i : Instr} (ha : s.active pt = true) (hc : (s.mu pt u).cfg ≠ 0)
    (hd : Decode.mem (BitVec.ofNat 32 (fld (s.mu pt u).cfg 0 32)) (BitVec.ofNat 32 (fld (s.mu pt u).cfg 32 32)) = .ok i) :
    fetchMu pt u s = .run i { s with cur := .mu pt u } := by
  simp [fetchMu, ha, hd]
  exact hc

/-- The matrix node of an active tile runs what its head token decodes to (R252). -/
theorem fetchMx_of_decode {s : State} {pt : Nat} {i : Instr} {w : Word64} {q : Bool} (ha : s.active pt = true)
    (hh : (s.mx pt).queue.head? = some (.tok w q)) (hd : Decode.mx w = .ok i) :
    fetchMx pt s = .run i { s with cur := .mx pt } := by
  simp [fetchMx, ha, hh, hd]

section
variable {s : State} {c n : Nat} {i : Instr} (hr : (s.ctx c).runs = true)
  (hg : ¬((s.ctx c).atSupGroup = true ∧ isSupId c = false))
include hr hg

/-- A controller that may issue runs what its parcels decode to (R267). -/
theorem fetchCtl_of_decode (hd : Decode.ctl ((s.ctx c).code.drop (s.ctx c).pc) = .ok (i, n)) (hw : i.wf = true) :
    fetchCtl c s = .run i { s with cur := .ctl c } := by
  unfold fetchCtl
  dsimp only
  rw [if_neg (by simp [hr]), if_neg (by simpa using hg), hd]
  simp [hw]

/-- Parcels that do not decode trap (R416). -/
theorem fetchCtl_of_error {e : DecodeError} (hd : Decode.ctl ((s.ctx c).code.drop (s.ctx c).pc) = .error e) :
    fetchCtl c s = .done (.next ({ s with cur := .ctl c }.trapCmd c causeUnassigned)) := by
  unfold fetchCtl
  dsimp only
  rw [if_neg (by simp [hr]), if_neg (by simpa using hg), hd]

end

/-- A command outside the supervisor's group is none of that group (R12). -/
theorem Ctx.atSupGroup_of_ne {x : Ctx} (h : fld (x.code.getD x.pc 0) 24 6 ≠ 0x1C) : x.atSupGroup = false := by
  simp only [Ctx.atSupGroup, h, decide_false]

/-- Settles O57, turn by turn: the step takes the schedule's first turn, whose fetch gives the decoded instruction. -/
theorem stepRunsTheDecodedInstruction : Obligations.StepRunsTheDecodedInstruction := by
  intro s rest hd at_
  let s0 : State := { s with sched := rest }
  have hd0 : s0.shutdown = false := hd
  have outside : ∀ c, fld ((s.ctx c).code.getD (s.ctx c).pc 0) 24 6 ≠ 0x1C →
      ¬((s0.ctx c).atSupGroup = true ∧ isSupId c = false) := fun c hg h => by
    simp [show (s0.ctx c).atSupGroup = false from Ctx.atSupGroup_of_ne hg] at h
  refine ⟨fun pt u i n hs hr hi => ?_, fun pt u i hs ha hc hi => ?_, fun pt i w q hs ha hh hi => ?_,
    fun c i n hs hr hsup hi hw => ?_, fun c i n hs hr hg hi hw => ?_, fun c e hs hr hsup hg hi => ?_, fun i hs => ?_⟩
  · exact step_of_fetch_run hs ((fetch_cu hd0 pt u).trans (fetchCu_of_decode (s := s0) hr hi))
  · exact step_of_fetch_run hs ((fetch_mu hd0 pt u).trans (fetchMu_of_decode (s := s0) ha hc hi))
  · exact step_of_fetch_run hs ((fetch_mx hd0 pt).trans (fetchMx_of_decode (s := s0) ha hh hi))
  · exact step_of_fetch_run hs ((fetch_ctl hd0 c).trans
      (fetchCtl_of_decode (s := s0) hr (fun h => by simp [hsup] at h) hi hw))
  · exact step_of_fetch_run hs ((fetch_ctl hd0 c).trans (fetchCtl_of_decode (s := s0) hr (outside c hg) hi hw))
  · have hx := State.ctx_trapCmd { s0 with cur := .ctl c } c causeUnassigned c hsup
    rw [if_pos rfl] at hx
    refine ⟨_, step_of_fetch_done hs ((fetch_ctl hd0 c).trans (fetchCtl_of_error (s := s0) hr (outside c hg) hi)), ?_, ?_⟩
    · rw [hx]
      rfl
    · rw [hx]
      rfl
  · exact step_of_fetch_run hs (fetch_op hd0 i)

end Sys2Proof.Machine

namespace Sys2Proof.Machine

/-! ## An abandoned load is dispatched with the record that it had reached (O38) -/

/-- A READY region context whose load stands at record 1. The halt puts an abandoned load back to record 0 (`Ctx.halt`),
so no run that starts at reset holds this state; the statement is about every state. -/
def atSecondRecord : State :=
  State.reset.setCtx 1 { st := .ready, loading := some (0, 1, true) }

/-- Dispatch leaves an abandoned load at the record that it had reached. -/
theorem schedulerDispatch_keeps_record {s : State} {c : Nat} {p : Nat × Nat × Bool} (ht : s.inTurn c = true)
    (hl : (s.ctx c).loading = some p) :
    ∃ t, exec (.schedulerDispatch c) s = .next t ∧ (t.ctx c).loading = some p := by
  change ∃ t, execSchedulerDispatch c s = .next t ∧ _
  unfold execSchedulerDispatch
  rw [if_neg (by simp [ht])]
  refine ⟨_, rfl, ?_⟩
  rw [State.ctx_setCtx, hl]

/-- Refutes O38: the third clause of dispatch says that a load starts again at record 0, but dispatch keeps the record that
the context holds; it is the halt that sets it to 0. In `atSecondRecord` the load goes on from record 1. -/
theorem not_schedulerEvents : ¬ Obligations.SchedulerEvents := by
  intro h
  have hl : (atSecondRecord.ctx 1).loading = some (0, 1, true) := by decide +kernel
  have ht : atSecondRecord.inTurn 1 = true := by decide +kernel
  obtain ⟨dispatch, -⟩ := h atSecondRecord 1
  obtain ⟨-, -, starts⟩ := dispatch ht
  obtain ⟨t, ht1, -, h0⟩ := starts 0 1 true hl
  obtain ⟨t', ht2, h1⟩ := schedulerDispatch_keeps_record ht hl
  have e : t = t' := Host.Outcome.next.inj (ht1.symm.trans ht2)
  rw [e, h1] at h0
  exact absurd h0 (by decide)

end Sys2Proof.Machine

namespace Sys2Proof.Machine

/-! ## A signal of GRPJ reaches a second group of the same number (O31) -/

/-- A group of number 0, and behind it one of the same number that is swapped out and owns semaphore 0. No run from reset
holds two groups of one number; the statement is about every launch table. -/
def twoGroupsOfOneNumber : Launch := { groups := [(0, {}), (0, { out := true, sems := [0] })] }

/-- Region 1 of a launch with two groups of number 0 is to issue a command. -/
def withTwoGroups : State :=
  { State.reset.setCtx 1 { st := .running, launch := some 0 } with
    launches := [(0, twoGroupsOfOneNumber)], cur := .ctl 1 }

/-- The common field of a command that signals semaphore 0. -/
def signalsSem0 : CtlP2 := { wsem := 0, wthr := 0, wc := false, ssem := 0, sinc := 1, scope := .cluster }

/-- The members of a group after a step. -/
def membersAfter (l g : Nat) (o : Out) : Option (List Nat) :=
  match o with
  | .next t => some (t.group l g).members
  | _ => none

/-- Refutes O31: its first clause says that the issuer of GRPJ is a member of the group then, but the command's signal goes to
the semaphore of a swapped-out team of that number (R345), whose image is written back under the number: where the launch
holds two groups of one number (`withTwoGroups`), the group that the issuer joined is lost. -/
theorem not_groupBarriers : ¬ Obligations.GroupBarriers := by
  intro h
  have hi : Issues withTwoGroups 1 signalsSem0 :=
    ⟨rfl, by decide +kernel, by decide +kernel, .inr (by decide), by decide +kernel⟩
  obtain ⟨joins, -⟩ := h withTwoGroups 1 0 twoGroupsOfOneNumber signalsSem0 0 0 0 hi
    ⟨by decide +kernel, rfl⟩ (by decide +kernel)
  obtain ⟨t, ht, -, -, -, -, hm, -⟩ := joins (by decide +kernel) (by decide +kernel) (by decide +kernel)
  have hl : membersAfter 0 0 (exec (.grpj 0 signalsSem0) withTwoGroups) = some [] := by decide +kernel
  rw [ht] at hl
  have e : (t.group 0 (0 : BitVec 8).toNat).members = [] := Option.some.inj hl
  rw [e] at hm
  exact absurd hm (by decide +kernel)

end Sys2Proof.Machine

namespace Sys2Proof.Machine

/-! ## Marks pass and closed gates skip (O14) -/

/-- The operations that treat a mark, or no head, in a way of their own (R233, R235 to R249). -/
def ownMark : List EOp :=
  [.halt, .merge, .steer, .gate, .rept, .reptc, .isect, .union, .oneos, .br, .brf, .jmp, .waitq, .loop]

/-- Every other operation but JTAB fires by `fireElem`, some without their S-register destination. -/
theorem elemRun_eq_fireElem {v : EView} {s : State} {pt : Nat} {u : Bool} (hop : v.op ∉ ownMark) (hj : v.op ≠ .jtab)
    (hc : s.cur = .cu pt u) : ∃ v' f r, (v' = v ∨ v' = noS v) ∧ elemRun v s = fireElem v' f s r := by
  have rot : ∀ req q, ∃ v' f r, (v' = v ∨ v' = noS v) ∧ doRotReq v req s q = fireElem v' f s r := fun req q => by
    unfold doRotReq
    rw [hc]
    exact ⟨_, _, _, .inr rfl, rfl⟩
  have oclm : ∃ v' f r, (v' = v ∨ v' = noS v) ∧ doOclm v s = fireElem v' f s r := by
    unfold doOclm
    rw [hc]
    dsimp only
    split <;> exact ⟨_, _, _, .inl rfl, rfl⟩
  unfold elemRun
  split
  case h_13 h => exact absurd h hj
  case h_16 => exact oclm
  case h_17 | h_18 | h_19 | h_20 | h_21 => exact rot _ _
  case h_22 | h_23 => exact ⟨_, _, _, .inr rfl, rfl⟩
  case h_24 => exact ⟨_, _, _, .inl rfl, rfl⟩
  all_goals
    next h => exact absurd (by rw [h]; decide) hop

/-- Without its S-register destination an instruction reads, sends and is gated as with it. -/
theorem noS_keeps (v : EView) : (noS v).inputs = v.inputs ∧ (noS v).consumed = v.consumed ∧ (noS v).outs = v.outs ∧
    (noS v).m = v.m ∧ (noS v).len = v.len := by
  unfold noS
  split
  · next h =>
    refine ⟨rfl, rfl, List.filter_congr fun k _ => ?_, rfl, rfl⟩
    cases hd : v.d with
    | s j => rfl
    | _ => simp [hd, Dst.isS] at h
  · exact ⟨rfl, rfl, rfl, rfl, rfl⟩

/-- A gate waits for its control token (R235). -/
theorem gate_none {q : Qg} (h : q ≠ .none) : gate q none = .wait := by
  cases q with
  | none => exact absurd rfl h
  | _ => rfl

section
variable {s : State} {pt : Nat} {u : Bool} {v v' : EView}

/-- What a firing decides from its view: heads, mark, credits, and what a mark leaves. -/
theorem noS_same (s : State) (pt : Nat) (u : Bool) (v : EView) (h : v' = v ∨ v' = noS v) :
    s.heads pt u v' = s.heads pt u v ∧ v'.markOf = v.markOf ∧ s.outsReady pt u v' = s.outsReady pt u v ∧
    s.fireMark pt u v' = s.fireMark pt u v ∧ v'.m = v.m ∧ v'.len = v.len := by
  rcases h with rfl | rfl
  · exact ⟨rfl, rfl, rfl, rfl, rfl, rfl⟩
  · obtain ⟨hi, hk, ho, hm, hl⟩ := noS_keeps v
    refine ⟨?_, funext fun _ => ?_, ?_, funext fun _ => ?_, hm, hl⟩
    · simp only [State.heads, hi]
    · simp only [EView.markOf, hk]
    · simp only [State.outsReady, ho]
    · simp only [State.fireMark, hk, ho, hl]

section
variable (hc : s.cur = .cu pt u) (hr : s.cuReady pt u = true)
include hc hr

/-- A firing on stream marks (R52, R54). -/
theorem fireElem_of_mark (f : Opnds → Fire) (r : Bool) {hs : List Token} {m : Token} (hh : s.heads pt u v = some hs)
    (hm : v.markOf hs = some m) (ho : s.outsReady pt u v = true) :
    fireElem v f s r = .next (s.fireMark pt u v m) := by
  simp [fireElem, hc, hr, hh, hm, ho]

/-- A closed gate skips (R235). -/
theorem fireElem_of_skip (f : Opnds → Fire) (r : Bool) (hm : (s.heads pt u v).bind v.markOf = none)
    (hg : gate v.m.qg (s.ctlHead pt u (s.cu pt u).qgport) = .skip) :
    fireElem v f s r = .next ((s.takeGate pt u v.m.qg).advance pt u v.len) := by
  simp [fireElem, hc, hr, hm, hg]

/-- A gate without a token waits (R235). -/
theorem fireElem_of_wait (f : Opnds → Fire) (r : Bool) (hm : (s.heads pt u v).bind v.markOf = none)
    (hg : gate v.m.qg (s.ctlHead pt u (s.cu pt u).qgport) = .wait) : fireElem v f s r = .next s := by
  simp [fireElem, hc, hr, hm, hg, stall]

/-- JTAB passes a mark as the others do, whatever its gate. -/
theorem doJtab_of_mark {hs : List Token} {m : Token} (hh : s.heads pt u v = some hs) (hm : v.markOf hs = some m) :
    doJtab v s = .next (s.fireMark pt u v m) := by
  simp [doJtab, onUnit, hc, hr, hh, hm]

end

/-- A snapshot changes contexts alone (R421). -/
theorem State.snapMark_ctxs (s : State) (pt : Nat) (u : Bool) (t : Token) : ∃ xs, s.snapMark pt u t = { s with ctxs := xs } := by
  unfold State.snapMark
  split
  · split
    · exact ⟨_, rfl⟩
    · dsimp only
      split <;> exact ⟨_, rfl⟩
  · exact ⟨_, rfl⟩

/-- The unit after it has moved on. -/
theorem State.cu_advance (s : State) (pt : Nat) (u u' : Bool) (n : Nat) : (s.advance pt u n).cu pt u' =
    if u' = u then { s.cu pt u with pos := (s.cu pt u).wrap ((s.cu pt u).pos + n) } else s.cu pt u' :=
  s.cu_setCu_eq _ _ _ _

/-- Everything that a mark's firing leaves (R52, R54). -/
theorem State.fireMark_leaves (s : State) (pt : Nat) (u : Bool) (v : EView) (m : Token) : let t := s.fireMark pt u v m
    t.flights = s.flights ++ sentOn pt u v.outs m ∧ (t.cu pt u).flags = (s.cu pt u).flags ∧
      LeavesUnit s t pt u v.consumed [] (s.nextPos pt u v) [] := by
  intro t
  have hA := fun u' => s.cu_takeAll pt u u' v.consumed (List.nodup_dedup _)
  have hf := (s.takeAll_only pt u v.consumed).flights
  generalize hz : s.takeAll pt u v.consumed = z at hA hf
  obtain ⟨xs, hx⟩ := ((z.emitAll pt (v.outs.map (outCode u)) m).advance pt u v.len).snapMark_ctxs pt u m
  have ht : t = { (z.emitAll pt (v.outs.map (outCode u)) m).advance pt u v.len with ctxs := xs } := by
    rw [← hx, ← hz]
    rfl
  have hcu : ∀ u', t.cu pt u' = if u' = u then { z.cu pt u with pos := (z.cu pt u).wrap ((z.cu pt u).pos + v.len) }
      else z.cu pt u' := fun u' => by
    rw [ht]
    refine (State.cu_advance _ pt u u' v.len).trans ?_
    simp only [State.cu_emitAll]
  have hkeep : z.cu pt u = { s.cu pt u with ins := (z.cu pt u).ins, lastCoord := (z.cu pt u).lastCoord } := by
    have h := (hA u).1
    generalize z.cu pt u = a at *
    rw [← h]
  have hu : t.cu pt u = { s.cu pt u with
      ins := (z.cu pt u).ins, lastCoord := (z.cu pt u).lastCoord, pos := s.nextPos pt u v } := by
    rw [hcu, if_pos rfl, hkeep]
    rfl
  have hin : ∀ u', (t.cu pt u').ins = (z.cu pt u').ins := fun u' => by
    rw [hcu]
    split
    · next h => rw [h]
    · rfl
  refine ⟨?_, by rw [hu], by rw [hu], fun u' k => ?_, fun q => by simp [hu], fun k _ => by rw [hu], by rw [hu], by rw [hu],
    by rw [hu]⟩
  · rw [ht]
    unfold State.advance State.goto
    simp [hf, sentOn]
  · rw [hin u']
    exact (hA u').2 k

/-- Everything that a skip leaves (R235). -/
theorem State.skip_leaves (s : State) (pt : Nat) (u : Bool) (v : EView) (hg : v.m.qg ≠ .none) :
    let t := (s.takeGate pt u v.m.qg).advance pt u v.len
    t.flights = s.flights ∧ (t.cu pt u).flags = (s.cu pt u).flags ∧
      LeavesUnit s t pt u [] [(s.cu pt u).qgport] (s.nextPos pt u v) [] := by
  intro t
  have hu : t.cu pt u = { s.cu pt u with
      qs := (s.cu pt u).qs.set (s.cu pt u).qgport (s.cu pt u).qs[(s.cu pt u).qgport].tail, pos := s.nextPos pt u v } := by
    refine (State.cu_advance _ pt u u v.len).trans ?_
    rw [if_pos rfl, State.cu_takeGate, if_pos ⟨rfl, hg⟩]
    rfl
  refine ⟨?_, by rw [hu], by rw [hu], fun u' k => ?_, fun q => ?_, fun k _ => by rw [hu], by rw [hu], by rw [hu], by rw [hu]⟩
  · have h := (s.takeGate_only pt u v.m.qg).flights
    unfold t State.advance State.goto
    simp [h]
  · have hin : (t.cu pt u').ins = (s.cu pt u').ins := by
      by_cases h : u' = u
      · rw [h, hu]
      · refine (congrArg Cu.ins (State.cu_advance _ pt u u' v.len)).trans ?_
        rw [if_neg h, State.cu_takeGate, if_neg fun e => h e.1]
    simp [hin]
  · rw [hu]
    by_cases h : q = (s.cu pt u).qgport
    · subst h
      simp
    · have : (s.cu pt u).qgport.val ≠ q.val := fun e => h (Fin.ext e).symm
      simp [h, this]

/-- One kind of mark at every head is the mark that passes, with the POISON of any of them. -/
theorem EView.markOf_of_kind {hs : List Token} {m : Token} (hne : v.consumed ≠ []) (hm : hs.head? = some m)
    (h : (m.kind = .eos ∧ ∀ t ∈ hs, t.kind = .eos) ∨ (m.kind = .barrier ∧ ∀ t ∈ hs, t.kind = .barrier)) :
    v.markOf hs = some { m with poison := hs.any (·.poison) } := by
  have hall : ((hs.all fun h => h.kind == .eos) || (hs.all fun h => h.kind == .barrier)) = true := by
    rw [Bool.or_eq_true, List.all_eq_true, List.all_eq_true]
    exact h.imp (fun h t ht => by simp [h.2 t ht]) (fun h t ht => by simp [h.2 t ht])
  obtain ⟨ts, rfl⟩ : ∃ ts, hs = m :: ts := List.head?_eq_some_iff.mp hm
  unfold EView.markOf commonMark
  rw [if_neg hne]
  dsimp only
  rw [if_pos hall]

end

/-- Settles O14: an operation without a rule of its own for marks fires by `fireElem`, JTAB passes a mark as they do, and what a
mark's firing and a skip leave is said once for all of them. -/
theorem marksPassAndGatesSkip : Obligations.MarksPassAndGatesSkip := by
  refine ⟨fun i v s pt u hs m hv hop hc hr hh hne hm hk ho => ?_, fun i v s pt u hv hop hc hr hn => ?_⟩
  · have hmark := EView.markOf_of_kind hne hm hk
    refine ⟨_, ?_, s.fireMark_leaves pt u v _⟩
    rw [exec_elem hv]
    by_cases hj : v.op = .jtab
    · unfold elemRun
      rw [hj]
      exact doJtab_of_mark hc hr hh hmark
    · obtain ⟨v', f, r, hv', e⟩ := elemRun_eq_fireElem hop hj hc
      obtain ⟨eh, em, eo, ef, -, -⟩ := noS_same s pt u v hv'
      rw [e, fireElem_of_mark hc hr f r (eh.trans hh) ((congrFun em hs).trans hmark) (eo.trans ho), ef]
  · intro q
    have hmark : (s.heads pt u v).bind v.markOf = none := by
      cases hh : s.heads pt u v with
      | none => rfl
      | some hs => exact hn hs hh
    have hop' : v.op ∉ ownMark ∧ v.op ≠ .jtab := by
      simp only [ownMark, List.mem_cons, List.not_mem_nil, or_false, not_or] at hop ⊢
      tauto
    obtain ⟨v', f, r, hv', e⟩ := elemRun_eq_fireElem (s := s) (pt := pt) (u := u) hop'.1 hop'.2 hc
    obtain ⟨eh, em, -, -, ev, el⟩ := noS_same s pt u v hv'
    have hmark' : (s.heads pt u v').bind v'.markOf = none := by rw [eh, em, hmark]
    refine ⟨fun hq => ?_, fun hg hq => ?_⟩
    · have hskip : gate v'.m.qg q = .skip := by
        rw [ev]
        rcases hq with ⟨h1, h2⟩ | ⟨h1, h2⟩ <;> rw [h1, h2] <;> rfl
      have hg : v.m.qg ≠ .none := by
        rcases hq with ⟨h1, -⟩ | ⟨h1, -⟩ <;> rw [h1] <;> decide
      refine ⟨_, ?_, s.skip_leaves pt u v hg⟩
      rw [exec_elem hv, e, fireElem_of_skip hc hr f r hmark' hskip, ev, el]
    · have hwait : gate v'.m.qg q = .wait := by rw [ev, hq, gate_none hg]
      rw [exec_elem hv, e, fireElem_of_wait hc hr f r hmark' hwait]

end Sys2Proof.Machine

namespace Sys2Proof.Machine

/-! ## What a signal changes -/

/-- Of a context, at most its held-back releases and its trap differ. -/
def Ctx.SignalOnly (x y : Ctx) : Prop := ∃ rl tr ta, y = { x with rel := rl, trapped := tr, trapAfter := ta }

theorem Ctx.SignalOnly.refl (x : Ctx) : x.SignalOnly x := ⟨_, _, _, rfl⟩

/-- At most the clusters' detectors, and the registers that they write, differ. -/
def RaceOnly (s t : State) : Prop := (∃ cs rs hs, t = { s with clusters := cs, regs := rs, hwSet := hs }) ∧
  ∀ k, ∃ r, t.cl k = { s.cl k with race := r }

theorem RaceOnly.trans {s t u : State} (h : RaceOnly s t) (k : RaceOnly t u) : RaceOnly s u := by
  obtain ⟨⟨_, _, _, rfl⟩, h⟩ := h
  obtain ⟨⟨_, _, _, rfl⟩, k⟩ := k
  refine ⟨⟨_, _, _, rfl⟩, fun i => ?_⟩
  obtain ⟨r, hr⟩ := h i
  obtain ⟨q, hq⟩ := k i
  exact ⟨q, by rw [hq, hr]⟩

section
variable {s t : State} (h : RaceOnly s t)
include h

theorem RaceOnly.ctx (c : Nat) : t.ctx c = s.ctx c := by
  obtain ⟨⟨_, _, _, rfl⟩, -⟩ := h
  rfl

theorem RaceOnly.sem (cl k : Nat) : t.sem cl k = s.sem cl k := by
  obtain ⟨r, hr⟩ := h.2 cl
  simp only [State.sem, hr]

theorem RaceOnly.late (cl : Nat) : (t.cl cl).late = (s.cl cl).late := by
  obtain ⟨r, hr⟩ := h.2 cl
  rw [hr]

theorem RaceOnly.semTurn (cl k p : Nat) : t.semTurn cl k p = s.semTurn cl k p := by
  obtain ⟨r, hr⟩ := h.2 cl
  have hc : t.cycle = s.cycle := by
    obtain ⟨⟨_, _, _, rfl⟩, -⟩ := h
    rfl
  simp only [State.semTurn, hr, hc]

theorem RaceOnly.teamOut (c cl k : Nat) : t.teamOut c cl k = s.teamOut c cl k := by
  obtain ⟨⟨_, _, _, rfl⟩, -⟩ := h
  rfl

end

theorem State.cl_raceAll (s : State) (f : RaceDet → RaceDet) : RaceOnly s (s.raceAll f) := by
  refine ⟨⟨_, _, _, rfl⟩, fun k => ?_⟩
  have hmap : s.clusters.map (fun p => if p.2.race.agents = [] then p else (p.1, { p.2 with race := f p.2.race })) =
      s.clusters.map fun p => (p.1, if p.2.race.agents = [] then p.2 else { p.2 with race := f p.2.race }) :=
    List.map_congr_left fun p _ => by split <;> rfl
  unfold State.cl State.raceAll tgetD
  rw [hmap, tget_map fun x : Cluster => if x.race.agents = [] then x else { x with race := f x.race }]
  cases tget s.clusters k with
  | none => exact ⟨_, rfl⟩
  | some x =>
    simp only [Option.map_some, Option.getD_some]
    split
    · exact ⟨x.race, rfl⟩
    · exact ⟨_, rfl⟩

theorem State.raceRestart_race (s : State) (cl : Nat) : RaceOnly s (s.raceRestart cl) := by
  refine ⟨⟨_, _, _, rfl⟩, fun k => ?_⟩
  by_cases hk : k = cl
  · subst hk
    exact ⟨_, s.cl_setCl k _⟩
  · exact ⟨(s.cl k).race, s.cl_setCl_ne _ hk⟩

theorem State.raceRelease_race (s : State) (c : Nat) (o : Nat × Nat) : RaceOnly s (s.raceRelease c o) := by
  unfold State.raceRelease
  dsimp only
  split
  · exact (s.cl_raceAll _).trans (State.raceRestart_race _ _)
  · exact s.cl_raceAll _

/-- An acquire changes the detectors, and drops lines of the L1s. -/
theorem State.acquire_eq (s : State) (c : Nat) (sc : Scope) (o : Nat × Nat) :
    ∃ z l, RaceOnly s z ∧ s.acquire c sc o = { z with l1 := l } := ⟨_, _, s.cl_raceAll _, rfl⟩

/-- The trap of a command that had completed holds its context alone (R416). -/
theorem State.ctx_trapAfter (s : State) (c cause e : Nat) (i : Word64) : (s.trapAfter c cause i).ctx e =
    if e = c ∧ isSupId c = false then { s.ctx c with trapped := some cause, trapAfter := true } else s.ctx e := by
  unfold State.trapAfter
  cases hs : isSupId c with
  | true => simp
  | false =>
    rw [if_neg Bool.false_ne_true]
    refine (State.ctx_of_ctxs (s := s.modCtx c fun x => { x with trapped := some cause, trapAfter := true }) rfl e).trans ?_
    rw [State.ctx_modCtx]
    simp

theorem State.cl_trapAfter (s : State) (c cause cl : Nat) (i : Word64) : (s.trapAfter c cause i).cl cl = s.cl cl := by
  unfold State.trapAfter
  split <;> rfl

theorem State.ctx_semInc (s : State) (c cl k n : Nat) (i : Word64) :
    (∀ e, e ≠ c → (s.semInc c cl k n i).ctx e = s.ctx e) ∧ (s.ctx c).SignalOnly ((s.semInc c cl k n i).ctx c) := by
  have trap : ∀ (b : Prop) [Decidable b] (z : State), z.ctxs = s.ctxs →
      let t := if b then z.trapAfter c causeUnassigned i else z
      (∀ e, e ≠ c → t.ctx e = s.ctx e) ∧ (s.ctx c).SignalOnly (t.ctx c) := fun b _ z hz => by
    have hx := State.ctx_of_ctxs hz
    dsimp only
    split
    · refine ⟨fun e he => by rw [State.ctx_trapAfter, if_neg fun h => he h.1, hx], ?_⟩
      rw [State.ctx_trapAfter, hx]
      split
      · exact ⟨_, _, _, rfl⟩
      · exact .refl _
    · exact ⟨fun e _ => hx e, by rw [hx]; exact .refl _⟩
  unfold State.semInc
  split
  · exact ⟨fun _ _ => rfl, .refl _⟩
  · split
    · unfold State.semAdd
      split
      · exact trap _ _ (s.setGroup_only _ _ _).ctxs
      · exact trap _ _ (State.xpulse_only (s.setSem cl k _) _ _ _).ctxs
    · exact ⟨fun _ _ => rfl, .refl _⟩

theorem State.signal_ctx (s : State) (c : Nat) (g : Signal) : (s.ctx c).SignalOnly ((s.signal c g).ctx c) := by
  unfold State.signal
  split
  · exact .refl _
  · unfold State.release
    dsimp only
    split
    · rw [← (s.raceRelease_race c (objSem (s.homeCl c) g.sem)).ctx c]
      exact (State.ctx_semInc _ _ _ _ _ _).2
    · rw [State.ctx_setCtx]
      exact ⟨_, _, _, rfl⟩

theorem State.finish_ctx (s : State) (c len : Nat) (w : CtlP2) : ((s.ctx c).past len).SignalOnly ((s.finish c w len).ctx c) := by
  have h := (s.setCtx c ((s.ctx c).past len)).signal_ctx c (signalOf (s.ctx c) w)
  rwa [State.ctx_setCtx] at h

theorem State.ctx_finish_ne (s : State) {c e : Nat} (len : Nat) (w : CtlP2) (h : e ≠ c) : (s.finish c w len).ctx e = s.ctx e :=
  (s.finish_leaves c w len).others e h

/-- A command that ends with `finish` completes at issue, with what its effect `z` has left. -/
theorem completesAt_of_finish {i : Instr} {s z : State} {c len : Nat} {w : CtlP2} {ws : List (XReg × Word64)}
    {P : State → Prop} (he : exec i s = .next (z.finish c w len)) (hz : LeavesRest s z c)
    (hpc : (z.ctx c).pc = (s.ctx c).pc) (hst : (z.ctx c).st = .running) (hx : ∀ k, (z.ctx c).getX k = (s.ctx c).withX ws k)
    (hP : P (z.finish c w len)) : CompletesAt i s c ((s.ctx c).pc + len) ws P := by
  obtain ⟨_, _, _, hc⟩ := z.finish_ctx c len w
  refine ⟨_, he, ?_, fun k => ?_, ?_, hz.trans (z.finish_leaves c w len), hP⟩
  · rw [hc]
    exact congrArg (· + len) hpc
  · rw [hc]
    exact hx k
  · rw [hc]
    exact hst

theorem Ctx.withX_nil (x : Ctx) (k : XReg) : x.withX [] k = x.getX k := rfl

end Sys2Proof.Machine

namespace Sys2Proof.Machine

/-! ## Waits and signals of a command (O26) -/

/-! ### A semaphore's count -/

theorem State.cl_xpulse (s : State) (cl src sel k : Nat) : ∃ xb, (s.xpulse cl src sel).cl k = { s.cl k with xbar := xb } := by
  unfold State.xpulse
  dsimp only
  split
  · exact ⟨_, rfl⟩
  · by_cases hk : k = cl
    · subst hk
      exact ⟨_, s.cl_setCl k _⟩
    · exact ⟨(s.cl k).xbar, s.cl_setCl_ne _ hk⟩

theorem State.sem_setSem (s : State) (cl k n : Nat) : (s.setSem cl k n).sem cl k = n := by
  unfold State.sem State.setSem
  rw [State.cl_setCl]
  exact tgetD_tset_self _ _ _ _

theorem State.sem_semNote (s : State) (cl k p k' : Nat) : (s.semNote cl k p).sem cl k' = s.sem cl k' := by
  unfold State.sem State.semNote
  rw [State.cl_setCl]

theorem State.sem_xpulse (s : State) (cl src sel k : Nat) : (s.xpulse cl src sel).sem cl k = s.sem cl k := by
  obtain ⟨xb, h⟩ := s.cl_xpulse cl src sel cl
  simp only [State.sem, h]

theorem State.sem_trapAfter (s : State) (c cause cl k : Nat) (i : Word64) : (s.trapAfter c cause i).sem cl k = s.sem cl k := by
  simp only [State.sem, State.cl_trapAfter]

/-- A semaphore's count raised, up to its greatest value. -/
def State.semCounted (s : State) (cl k n : Nat) : State :=
  ((s.setSem cl k (Nat.min (s.sem cl k + n) 0xFFFF)).xpulse cl 3 k).semNote cl k (semPlace 2 0)

theorem State.sem_semCounted (s : State) (cl k n : Nat) : (s.semCounted cl k n).sem cl k = min (s.sem cl k + n) 0xFFFF := by
  unfold State.semCounted
  rw [State.sem_semNote, State.sem_xpulse]
  exact s.sem_setSem _ _ _

section
variable {s : State} {c cl k n : Nat} (i : Word64) (hn : n ≠ 0)
include hn

/-- An increment whose turn has come (R271, R345, R416). -/
theorem State.semInc_now (ht : s.semTurn cl k (semPlace 2 0) = true) (ho : s.teamOut c cl k = none) :
    let t := s.semInc c cl k n i
    t.sem cl k = min (s.sem cl k + n) 0xFFFF ∧ (0xFFFF < s.sem cl k + n → isSupId c = false →
      (t.ctx c).trapped = some causeUnassigned ∧ (t.ctx c).trapAfter = true) := by
  intro t
  have ht' : t = if 0xFFFF < s.sem cl k + n then (s.semCounted cl k n).trapAfter c causeUnassigned i
      else s.semCounted cl k n := by
    unfold t State.semInc State.semAdd
    rw [if_neg hn, if_pos ht, ho]
    rfl
  rw [ht']
  split
  · refine ⟨by rw [State.sem_trapAfter, State.sem_semCounted], fun _ hs => ?_⟩
    rw [State.ctx_trapAfter, if_pos ⟨rfl, hs⟩]
    exact ⟨rfl, rfl⟩
  · next hle => exact ⟨s.sem_semCounted _ _ _, fun h => absurd h hle⟩

/-- An increment behind a wait of this CYCLE is applied when the CYCLE ends (R271). -/
theorem State.semInc_late (ht : s.semTurn cl k (semPlace 2 0) = false) : let t := s.semInc c cl k n i
    t.sem cl k = s.sem cl k ∧ (t.cl cl).late = (s.cl cl).late ++ [(k, n, c, i)] := by
  intro t
  have ht' : t = s.setCl cl { s.cl cl with late := (s.cl cl).late ++ [(k, n, c, i)] } := by
    unfold t State.semInc
    rw [if_neg hn, if_neg (by simp [ht])]
  rw [ht']
  simp only [State.sem, State.cl_setCl, and_self]

end

/-! ### The signal field -/

/-- At most contexts differ, and of `c` only what a command that completes or waits leaves behind. -/
structure Behind (s a : State) (c : Nat) : Prop where
  only   : ∃ xs, a = { s with ctxs := xs }
  launch : (a.ctx c).launch = (s.ctx c).launch
  home   : a.homeCl c = s.homeCl c
  step   : (a.ctx c).stepNo = (s.ctx c).stepNo
  rel    : (a.ctx c).rel = (s.ctx c).rel
  off    : (a.ctx c).off = (s.ctx c).off
  tiles  : (a.ctx c).tiles = (s.ctx c).tiles

section
variable {s a : State} {c : Nat} (h : Behind s a c)
include h

theorem Behind.covered (n : Nat) (sc : Scope) : a.covered c n sc = s.covered c n sc := by
  obtain ⟨xs, e⟩ := h.only
  have hmu : ∀ pt u, a.mu pt u = s.mu pt u := fun pt u => by rw [e]; rfl
  simp only [State.covered, h.off, h.tiles, hmu]

theorem Behind.teamOut (cl k : Nat) : a.teamOut c cl k = s.teamOut c cl k := by
  obtain ⟨xs, e⟩ := h.only
  have hl : a.launches = s.launches := by rw [e]
  have hof : a.launchOf c = s.launchOf c := by
    unfold State.launchOf
    rw [h.launch, hl]
  have hown : a.ownsIn c cl k = s.ownsIn c cl k := by
    unfold State.ownsIn
    rw [hof]
  unfold State.teamOut
  rw [hown, h.launch, hl]

theorem Behind.cl (k : Nat) : a.cl k = s.cl k := by
  obtain ⟨xs, e⟩ := h.only
  rw [e]
  rfl

theorem Behind.semTurn (cl k p : Nat) : a.semTurn cl k p = s.semTurn cl k p := by
  have hcl := h.cl
  obtain ⟨xs, e⟩ := h.only
  have hc : a.cycle = s.cycle := by rw [e]
  simp only [State.semTurn, hcl, hc]

theorem Behind.sem (cl k : Nat) : a.sem cl k = s.sem cl k := by
  simp only [State.sem, h.cl]

end

/-- The state in which a command's signal is sent, when nothing but its wait field and its place has changed. -/
theorem State.past_behind (s : State) (c len : Nat) :
    Behind s ((s.pastWait c).setCtx c (((s.pastWait c).ctx c).past len)) c := by
  have hx : (((s.pastWait c).setCtx c (((s.pastWait c).ctx c).past len))).ctx c = (s.ctx c).past len := by
    rw [State.ctx_setCtx, State.ctx_pastWait_self]
    rfl
  refine ⟨⟨_, rfl⟩, ?_, ?_, ?_, ?_, ?_, ?_⟩
  case refine_2 =>
    unfold State.homeCl
    rw [hx]
    rfl
  all_goals
    rw [hx]
    rfl

section
variable {s : State} {c : Nat} {g : Signal} (hg : g.inc ≠ 0)
include hg

/-- A signal whose scope covers nothing that is still to be done is sent at once (R314). -/
theorem State.signal_of_covered (hc : s.covered c (s.ctx c).stepNo g.scope = true) : s.signal c g =
    (s.raceRelease c (objSem (s.homeCl c) g.sem)).semInc c (s.homeCl c) g.sem g.inc g.info := by
  unfold State.signal State.release
  rw [if_neg hg]
  dsimp only
  rw [if_pos hc]
  rfl

/-- A signal is held back until what its scope covers is done (R314). -/
theorem State.signal_of_uncovered (hc : s.covered c (s.ctx c).stepNo g.scope = false) : s.signal c g =
    s.setCtx c { s.ctx c with rel := (s.ctx c).rel ++ [⟨(s.ctx c).stepNo, g.scope, .inc g.sem g.inc g.info⟩] } := by
  unfold State.signal State.release
  rw [if_neg hg]
  dsimp only
  rw [if_neg (by simp [hc])]

end

theorem signalOf_inc {x : Ctx} {w : CtlP2} (h : w.sinc ≠ 0) : (signalOf x w).inc ≠ 0 := fun e =>
  h (BitVec.eq_of_toNat_eq e)

/-! ### The wait field -/

section
variable {s : State} {c k thr : Nat} (sub : Bool) (sc : Scope)

/-- A wait on a semaphore that has reached its threshold (R268, R271). -/
theorem State.condMet_sem (hn : thr ≤ s.sem (s.homeCl c) k) (ho : s.teamOut c (s.homeCl c) k = none) :
    ∃ t cs l, s.condMet c (.sem k thr sub sc) = some (t, s.sem (s.homeCl c) k) ∧ t = { s with clusters := cs, l1 := l } ∧
      t.sem (s.homeCl c) k = if sub then s.sem (s.homeCl c) k - thr else s.sem (s.homeCl c) k := by
  let z := (if sub then s.setSem (s.homeCl c) k (s.sem (s.homeCl c) k - thr) else s).semNote (s.homeCl c) k
    (if sub then semPlace 3 c else semPlace 4 0)
  have hz : ∃ cs, z = { s with clusters := cs } := by
    unfold z
    split <;> exact ⟨_, rfl⟩
  have eq : ∀ y : State, (∃ cs, y = { s with clusters := cs }) → ∀ o, y.acquire c sc o =
      { s with clusters := (y.acquire c sc o).clusters, l1 := (y.acquire c sc o).l1 } := by
    rintro _ ⟨_, rfl⟩ _
    rfl
  have hsem : z.sem (s.homeCl c) k = if sub then s.sem (s.homeCl c) k - thr else s.sem (s.homeCl c) k := by
    unfold z
    rw [State.sem_semNote]
    split
    · exact s.sem_setSem _ _ _
    · rfl
  have hmet : s.condMet c (.sem k thr sub sc) = some (z.acquire c sc (objSem (s.homeCl c) k), s.sem (s.homeCl c) k) := by
    simp only [State.condMet, ho, Option.isSome_none, Bool.false_eq_true, Nat.not_lt.mpr hn, or_self, if_false]
    rfl
  have hacq : (z.acquire c sc (objSem (s.homeCl c) k)).sem (s.homeCl c) k = z.sem (s.homeCl c) k :=
    (z.cl_raceAll fun r => r.acquire c (objSem (s.homeCl c) k)).sem (s.homeCl c) k
  exact ⟨_, _, _, hmet, eq z hz _, hacq.trans hsem⟩

/-- A wait on a semaphore below its threshold. -/
theorem State.condMet_sem_below (hn : s.sem (s.homeCl c) k < thr) : s.condMet c (.sem k thr sub sc) = none := by
  simp only [State.condMet, hn, or_true, if_true]

end

section
variable {s : State} {c : Nat} {w : CtlP2} {d : Cmd} (turn : s.cur = .ctl c) (runs : (s.ctx c).runs = true)
  (clear : (s.ctx c).hold = .none) (hpre : d.pre s c = none)
include turn runs clear hpre

/-- A command's wait field, tested for the first time (R268 step 2). -/
theorem runCmd_of_wait (hw : (s.ctx c).waitDone = false) (h0 : w.wthr ≠ 0) :
    let k : WaitCond := .sem w.wsem.toNat w.wthr.toNat w.wc w.scope
    s.condTurn c k = true → (s.condMet c k = none → runCmd w d s = .next (s.waits c k)) ∧
      ∀ t v, s.condMet c k = some (t, v) → (s.ctx c).ownDone = false → runCmd w d s = d.own (t.pastWait c) c := by
  intro k hk
  unfold runCmd
  rw [turn]
  simp only [runs, clear, hpre, hw, h0, Bool.not_true, Bool.false_eq_true, or_self, if_false, ne_eq, not_true_eq_false]
  have hk' : (!s.condTurn c (.sem w.wsem.toNat w.wthr.toNat w.wc w.scope)) = false := by rw [hk]; rfl
  refine ⟨fun hm => ?_, fun t v hm ho => ?_⟩
  · rw [if_neg (by simp [hk']), hm]
  · rw [if_neg (by simp [hk']), hm]
    simp only [ho, Bool.false_eq_true, if_false]
    rfl

end

theorem own_atIssue (w : CtlP2) (len : Nat) (f : State → Nat → State) (s : State) (c : Nat) :
    (atIssue w len f).own s c = .next ((f s c).finish c w len) := rfl

/-- Two tables and the contexts of others apart, a change of clusters and of the L1s leaves the rest. -/
theorem LeavesRest.of_clusters (s : State) (c : Nat) (cs : Tbl Cluster) (l : List L1Sector) :
    LeavesRest s { s with clusters := cs, l1 := l } c :=
  ⟨rfl, ⟨fun _ => rfl, fun _ => rfl, fun _ => rfl, rfl, rfl, rfl⟩, ⟨rfl, rfl, rfl⟩, fun _ _ => rfl, fun _ _ _ _ _ _ => rfl⟩

theorem Ctx.runs_st {x : Ctx} (h : x.runs = true) : x.st = .running := by
  simp only [Ctx.runs, Bool.and_eq_true, beq_iff_eq] at h
  exact h.1.1.1

/-! ### The commands -/

section
variable {s : State} {c : Nat} {w : CtlP2} (h : Issues s c w)
include h

/-- A NOP completes and sends its signal. -/
theorem completesAt_ctlNop {P : State → Prop} (hP : P ((s.pastWait c).finish c w 2)) :
    CompletesAt (.ctlNop w) s c ((s.ctx c).pc + 2) [] P :=
  completesAt_of_finish (runCmd_unchecked h 2 fun s _ => s) (s.pastWait_leaves c) (by simp) (by simp [h.running])
    (fun k => s.getX_pastWait c k) hP

/-- An event wait takes one start (R273). -/
theorem completesAt_eventWait (hs : 0 < (s.ctx c).starts) : CompletesAt (.ctlNopEventWait w) s c ((s.ctx c).pc + 2) []
    fun t => (t.ctx c).starts = (s.ctx c).starts - 1 := by
  let z := (s.pastWait c).setCtx c { (s.pastWait c).ctx c with starts := ((s.pastWait c).ctx c).starts - 1 }
  have hz : z.ctx c = { s.ctx c with waitDone := true, starts := (s.ctx c).starts - 1 } := by
    unfold z
    rw [State.ctx_setCtx, State.ctx_pastWait_self]
  have hs0 : (s.ctx c).starts ≠ 0 := by omega
  have he : exec (.ctlNopEventWait w) s = .next (z.finish c w 2) := by
    show execCtlNopEventWait w s = _
    unfold execCtlNopEventWait
    rw [runCmd_of_issues h]
    show Cmd.own _ (s.pastWait c) c = _
    simp [Cmd.own, Cmd.issue, State.condTurn, State.condMet, hs0, z]
  obtain ⟨_, _, _, hf⟩ := z.finish_ctx c 2 w
  refine completesAt_of_finish he ((s.pastWait_leaves c).trans (State.modCtx_leaves _ c fun x =>
    { x with starts := x.starts - 1 })) (by rw [hz]) (by rw [hz]; exact h.running) (fun k => by rw [hz]; rfl) ?_
  rw [hf, hz]
  rfl

/-- An event wait without a start waits for one (R65, R273). -/
theorem waitsFor_eventWait (hs : (s.ctx c).starts = 0) : WaitsFor (.ctlNopEventWait w) s c .start := by
  refine ⟨(s.pastWait c).waits c .start, ?_, ?_, (s.pastWait_leaves c).trans (State.modCtx_leaves _ c _)⟩
  · show execCtlNopEventWait w s = _
    unfold execCtlNopEventWait
    rw [runCmd_of_issues h]
    show Cmd.own _ (s.pastWait c) c = _
    simp [Cmd.own, State.condTurn, State.condMet, hs]
  · unfold State.waits
    rw [State.ctx_modCtx, if_pos rfl, State.ctx_pastWait_self]

end

/-- The wake of a context that waits at a semaphore (R65, R66, R268). -/
theorem exec_contextWake {s : State} {c : Nat} {k : WaitCond} (hst : (s.ctx c).st = .waiting) (htr : (s.ctx c).trapped = none)
    (hk : (s.ctx c).waitFor = k) (h0 : k ≠ .none) (ht : s.condTurn c k = true) :
    (s.condMet c k = none → exec (.contextWake c) s = .next s) ∧
    ∀ z v, s.condMet c k = some (z, v) → exec (.contextWake c) s = .next (z.modCtx c fun x =>
      if x.preempt.isSome then x.satisfied v else if isRegionId c then x.woken v s.cycle
        else { x.satisfied v with st := .running }) := by
  have hgo : ¬((s.ctx c).st ≠ .waiting ∨ (s.ctx c).trapped.isSome = true ∨ (s.ctx c).waitFor = .none ∨
      (!s.condTurn c (s.ctx c).waitFor) = true) := by
    simp [hst, htr, hk, h0, ht]
  refine ⟨fun hm => ?_, fun z v hm => ?_⟩
  all_goals
    show execContextWake c s = _
    unfold execContextWake
    dsimp only
    rw [if_neg hgo, hk, hm]
  rfl

/-- What a wake leaves of its context. -/
theorem Ctx.satisfied_leaves (x : Ctx) (v : Nat) : (x.satisfied v).waitFor = .none ∧ (x.satisfied v).pc = x.pc ∧
    (x.satisfied v).st = x.st ∧ (x.satisfied v).waitDone = true ∧
    (x.waitDone = true → (x.satisfied v).ownDone = true ∧ (x.satisfied v).ownVal = v) := by
  unfold Ctx.satisfied
  cases h : x.waitDone with
  | true => exact ⟨rfl, rfl, rfl, rfl, fun _ => ⟨rfl, rfl⟩⟩
  | false => exact ⟨rfl, rfl, rfl, rfl, fun h => absurd h (by decide)⟩

theorem Ctx.woken_of_sem {x : Ctx} {k thr : Nat} {sub : Bool} {sc : Scope} (h : x.waitFor = .sem k thr sub sc) (v n : Nat) :
    x.woken v n = { x.satisfied v with st := .ready, readyAt := n } := by
  unfold Ctx.woken
  rw [h]

/-- Settles O26: the wait field, the signal in its four cases, the event wait, and the wake. -/
theorem waitsAndSignals : Obligations.WaitsAndSignals := by
  refine ⟨fun s c w hturn hruns hclear hfresh => ?_, fun s c k thr sub sc hst htr hk ho ht => ?_⟩
  · intro x cl n m k
    have hst := Ctx.runs_st hruns
    have issues : x.waitDone = true → Issues s c w := fun h => ⟨hturn, hruns, hclear, .inl h, hfresh⟩
    have hb := s.past_behind c 2
    have hinfo : (signalOf ((s.pastWait c).ctx c) w) = ⟨w.ssem.toNat, w.sinc.toNat, w.scope, x.info⟩ := by
      rw [State.ctx_pastWait_self]
      rfl
    generalize hy : (s.pastWait c).setCtx c (((s.pastWait c).ctx c).past 2) = y at hb
    have hfin : (s.pastWait c).finish c w 2 = y.signal c ⟨w.ssem.toNat, w.sinc.toNat, w.scope, x.info⟩ := by
      rw [← hinfo, ← hy]
      rfl
    have hcov : y.covered c (y.ctx c).stepNo w.scope = s.covered c x.stepNo w.scope := by rw [hb.covered, hb.step]
    have hrace := y.raceRelease_race c (objSem (y.homeCl c) w.ssem.toNat)
    have sent : w.sinc ≠ 0 → s.covered c x.stepNo w.scope = true → (s.pastWait c).finish c w 2 =
        (y.raceRelease c (objSem (y.homeCl c) w.ssem.toNat)).semInc c cl w.ssem.toNat w.sinc.toNat x.info := fun h0 hc => by
      rw [hfin, State.signal_of_covered (g := ⟨w.ssem.toNat, w.sinc.toNat, w.scope, x.info⟩)
        (signalOf_inc (x := x) h0) (hcov.trans hc), hb.home]
    refine ⟨fun hw h0 hn hk => ?_, fun hw hn ho hk h0 => ?_, fun hw h0 hc ho ht => ?_, fun hw h0 hc ht => ?_,
      fun hw h0 hc => ?_, fun hw hs => completesAt_eventWait (issues hw) hs, fun hw hs => waitsFor_eventWait (issues hw) hs⟩
    · obtain ⟨hwait, -⟩ := runCmd_of_wait (d := atIssue w 2 fun s _ => s) hturn hruns hclear rfl hw h0 hk
      exact ⟨s.waits c k, hwait (State.condMet_sem_below w.wc w.scope hn), (s.ctx_modCtx c c _).trans (if_pos rfl),
        s.modCtx_leaves c _, rfl⟩
    · have hend : ∀ z : State, (z.pastWait c).finish c w 2 = (z.pastWait c).setCtx c (((z.pastWait c).ctx c).past 2) :=
        fun z => State.finish_of_sinc _ c w 2 h0
      by_cases hthr : w.wthr = 0
      · refine completesAt_ctlNop ⟨hturn, hruns, hclear, .inr hthr, hfresh⟩ ?_
        rw [hend, hthr]
        exact (ite_self _).symm
      · obtain ⟨t, cs, l, hm, ht, hsem⟩ := State.condMet_sem w.wc w.scope hn ho
        obtain ⟨-, hmet⟩ := runCmd_of_wait (d := atIssue w 2 fun s _ => s) hturn hruns hclear rfl hw hthr hk
        have hctx : ∀ e, t.ctx e = s.ctx e := fun e => by
          rw [ht]
          rfl
        have hleaves : LeavesRest s t c := by
          rw [ht]
          exact .of_clusters s c cs l
        refine completesAt_of_finish (z := t.pastWait c) (hmet t _ hm hfresh) (hleaves.trans (t.pastWait_leaves c)) ?_ ?_ (fun k => ?_) ?_
        · rw [State.ctx_pastWait_self, hctx]
        · rw [State.ctx_pastWait_self, hctx]
          exact hst
        · rw [State.getX_pastWait, hctx]
          rfl
        · rw [hend]
          exact hsem
    · refine completesAt_ctlNop (issues hw) ?_
      rw [sent h0 hc]
      obtain ⟨h1, h2⟩ := State.semInc_now (s := y.raceRelease c (objSem (y.homeCl c) w.ssem.toNat)) (c := c) (cl := cl)
        x.info (signalOf_inc (x := x) h0) ((hrace.semTurn _ _ _).trans ((hb.semTurn _ _ _).trans ht))
        ((hrace.teamOut _ _ _).trans ((hb.teamOut _ _).trans ho))
      rw [hrace.sem, hb.sem] at h1 h2
      exact ⟨h1, h2⟩
    · refine completesAt_ctlNop (issues hw) ?_
      rw [sent h0 hc]
      obtain ⟨h1, h2⟩ := State.semInc_late (s := y.raceRelease c (objSem (y.homeCl c) w.ssem.toNat)) (c := c) (cl := cl)
        x.info (signalOf_inc (x := x) h0) ((hrace.semTurn _ _ _).trans ((hb.semTurn _ _ _).trans ht))
      rw [hrace.sem, hb.sem] at h1
      rw [hrace.late, hb.cl] at h2
      exact ⟨h1, h2⟩
    · refine completesAt_ctlNop (issues hw) ?_
      rw [hfin, State.signal_of_uncovered (g := ⟨w.ssem.toNat, w.sinc.toNat, w.scope, x.info⟩)
        (signalOf_inc (x := x) h0) (hcov.trans hc)]
      refine ⟨hb.sem _ _, ?_⟩
      rw [State.ctx_setCtx, hb.rel, hb.step]
  · intro x n
    have h0 : (WaitCond.sem k thr sub sc) ≠ .none := by simp
    obtain ⟨hbelow, hmet⟩ := exec_contextWake hst htr hk h0 ht
    refine ⟨fun hn => ?_, fun hn => hbelow (State.condMet_sem_below sub sc hn)⟩
    obtain ⟨z, cs, l, hm, hz, hsem⟩ := State.condMet_sem sub sc hn ho
    have hctx : ∀ e, z.ctx e = s.ctx e := fun e => by
      rw [hz]
      rfl
    obtain ⟨hwait, hpc, hsame, hdone, hown⟩ := x.satisfied_leaves n
    refine ⟨_, hmet z n hm, ?_⟩
    rw [State.ctx_modCtx, if_pos rfl, hctx, Ctx.woken_of_sem hk]
    refine ⟨?_, ?_, ?_, ?_, ?_, hsem, fun e he => by rw [State.ctx_modCtx, if_neg he, hctx]⟩
    · cases hp : (s.ctx c).preempt with
      | some p => simpa [hp] using hsame.trans hst
      | none =>
        simp only [Option.isSome_none, Bool.false_eq_true, if_false, ne_eq, not_true_eq_false]
        split <;> rfl
    all_goals
      split
      · assumption
      · split <;> assumption

end Sys2Proof.Machine

namespace Sys2Proof.Machine

/-! ## Programs of engine contexts (O28) -/

/-! ### FORK (R280) -/

theorem State.forkTargets_nodup (s : State) (c : Nat) (m : Word64) : (s.forkTargets c 0 m).Nodup := by
  unfold State.forkTargets
  rw [if_pos rfl]
  refine (List.Nodup.filter _ List.nodup_range).map fun i j h => ?_
  simp only [idOf] at h
  omega

/-- The section that a context forks from is that of its launch, or a supervisor's own code. -/
theorem State.codeBytes_congr {s t : State} {c : Nat} (hx : (t.ctx c).code = (s.ctx c).code)
    (hl : (t.launchOf c).map (·.2.code) = (s.launchOf c).map (·.2.code)) : t.codeBytes c = s.codeBytes c := by
  unfold State.codeBytes
  rw [hx]
  split
  · rfl
  · cases ht : t.launchOf c <;> cases hs : s.launchOf c <;> simp_all

/-- What a context that has accepted a program holds (R280). -/
structure Started (x : Ctx) (c : Nat) (code : List Parcel) (arg : Nat) : Prop where
  st     : x.st = .running
  pc     : x.pc = 0
  code   : x.code = code
  xregs  : x.xregs = ((Vector.replicate 16 (0 : Word64)).set 0 (BitVec.ofNat 64 c)).set 1 (BitVec.ofNat 64 arg)
  forker : x.forker = c

/-- The X registers with which a program starts: the forker, its argument, and zeros. -/
theorem Started.getX {x : Ctx} {c arg : Nat} {code : List Parcel} (h : Started x c code arg) :
    x.getX 0 = BitVec.ofNat 64 c ∧ x.getX 1 = BitVec.ofNat 64 arg ∧ ∀ r : XReg, 2 ≤ r.val → x.getX r = 0 := by
  unfold Ctx.getX
  rw [h.xregs]
  refine ⟨rfl, rfl, fun r hr => ?_⟩
  have h0 : (0 : Nat) ≠ r.val := by omega
  have h1 : (1 : Nat) ≠ r.val := by omega
  simp [h0, h1]

theorem State.tget_of_launchOf {s : State} {c l : Nat} {la : Launch} (h : s.launchOf c = some (l, la)) :
    tget s.launches l = some la := by
  unfold State.launchOf at h
  split at h
  · obtain ⟨la', h1, h2⟩ := Option.map_eq_some_iff.mp h
    cases h2
    exact h1
  · cases h

/-- What the acceptance of a program changes: the context, and its launch's list of those that were forked. -/
theorem State.startProgram_eq (s : State) (c e n off arg : Nat) : ∃ y ls,
    s.startProgram c e n off arg = { s with launches := ls }.setCtx e y ∧
      (∀ l, (tget ls l).map (·.code) = (tget s.launches l).map (·.code)) ∧
      Started y c (codeFrom (s.codeBytes c) off) arg := by
  unfold State.startProgram
  cases hl : s.launchOf c with
  | none => exact ⟨_, s.launches, rfl, fun _ => rfl, rfl, rfl, rfl, rfl, rfl⟩
  | some p =>
    obtain ⟨l, la⟩ := p
    refine ⟨_, tset s.launches l { la with forked := markAdd la.forked e }, rfl, fun k => ?_, rfl, rfl, rfl, rfl, rfl⟩
    rw [tget_tset]
    split
    · next h => rw [h, State.tget_of_launchOf hl]; rfl
    · rfl

/-- One context that a FORK names accepts its program: entry `p.2` of the table at `tbl`. -/
def State.forkOne (c n tbl : Nat) (bs : List Byte) (s : State) (p : Nat × Nat) : State :=
  let q := bs.drop (tbl + 8 * p.2)
  (s.raceHand c p.1).startProgram c p.1 n (natOfBytes (q.take 4)) (natOfBytes ((q.drop 4).take 4))

/-- The state of a FORK while the contexts that it names accept their programs, and none of them is the issuer. -/
structure Forking (s z : State) (c : Nat) : Prop where
  ctx   : z.ctx c = s.ctx c
  code  : z.codeBytes c = s.codeBytes c
  tiles : z.tiles = s.tiles

theorem State.raceHand_race (s : State) (a e : Nat) : RaceOnly s (s.raceHand a e) :=
  (s.raceRelease_race a (5, e)).trans ((s.raceRelease a (5, e)).cl_raceAll fun r => r.acquire e (5, e))

section
variable {s z : State} {c n tbl : Nat} {bs : List Byte} {p : Nat × Nat} (hf : Forking s z c) (hp : p.1 ≠ c)
include hf hp

theorem Forking.forkOne : Forking s (z.forkOne c n tbl bs p) c ∧ (∀ e, e ≠ p.1 → (z.forkOne c n tbl bs p).ctx e = z.ctx e) ∧
    Started ((z.forkOne c n tbl bs p).ctx p.1) c (codeFrom (s.codeBytes c) (natOfBytes ((bs.drop (tbl + 8 * p.2)).take 4)))
      (natOfBytes (((bs.drop (tbl + 8 * p.2)).drop 4).take 4)) := by
  have hr := z.raceHand_race c p.1
  have hcode : (z.raceHand c p.1).codeBytes c = s.codeBytes c := by
    rw [← hf.code]
    refine State.codeBytes_congr (by rw [hr.ctx]) ?_
    obtain ⟨⟨_, _, _, e⟩, -⟩ := hr
    rw [e]
    rfl
  obtain ⟨y, ls, e, hls, hy⟩ := (z.raceHand c p.1).startProgram_eq c p.1 n (natOfBytes ((bs.drop (tbl + 8 * p.2)).take 4))
    (natOfBytes (((bs.drop (tbl + 8 * p.2)).drop 4).take 4))
  have e' : z.forkOne c n tbl bs p = { z.raceHand c p.1 with launches := ls }.setCtx p.1 y := e
  have hctx : ∀ k, k ≠ p.1 → (z.forkOne c n tbl bs p).ctx k = z.ctx k := fun k hk => by
    rw [e', State.ctx_setCtx_ne _ _ hk]
    exact hr.ctx k
  rw [hcode] at hy
  refine ⟨⟨(hctx c hp.symm).trans hf.ctx, ?_, ?_⟩, hctx, by rw [e', State.ctx_setCtx]; exact hy⟩
  · rw [← hcode]
    refine State.codeBytes_congr (by rw [hctx c hp.symm, hr.ctx]) ?_
    unfold State.launchOf
    rw [hctx c hp.symm, hr.ctx, e']
    cases (z.ctx c).launch with
    | none => rfl
    | some l =>
      have h := hls l
      simp only [State.setCtx_frame, Option.map_map] at h ⊢
      exact h
  · rw [e']
    obtain ⟨⟨_, _, _, e⟩, -⟩ := hr
    rw [e]
    exact hf.tiles

end

/-- Every context that a FORK names has accepted the program of its own entry. -/
theorem Forking.foldl {s : State} {c n tbl : Nat} {bs : List Byte} (l : List (Nat × Nat)) (hc : c ∉ l.map (·.1))
    (hn : (l.map (·.1)).Nodup) (z : State) (hz : Forking s z c) : let t := l.foldl (State.forkOne c n tbl bs) z
    Forking s t c ∧ (∀ e, e ∉ l.map (·.1) → t.ctx e = z.ctx e) ∧ ∀ p ∈ l, Started (t.ctx p.1) c
      (codeFrom (s.codeBytes c) (natOfBytes ((bs.drop (tbl + 8 * p.2)).take 4)))
      (natOfBytes (((bs.drop (tbl + 8 * p.2)).drop 4).take 4)) := by
  induction l generalizing z with
  | nil => exact ⟨hz, fun _ _ => rfl, fun _ h => absurd h List.not_mem_nil⟩
  | cons q l ih =>
    simp only [List.map_cons, List.mem_cons, not_or, List.nodup_cons] at hc hn
    obtain ⟨h1, h2, h3⟩ := hz.forkOne (n := n) (tbl := tbl) (bs := bs) (p := q) (Ne.symm hc.1)
    obtain ⟨k1, k2, k3⟩ := ih hc.2 hn.2 _ h1
    refine ⟨k1, fun e he => ?_, fun p hp => ?_⟩
    · simp only [List.map_cons, List.mem_cons, not_or] at he
      exact (k2 e he.2).trans (h2 e he.1)
    · rcases List.mem_cons.mp hp with rfl | hp
      · rw [List.foldl_cons, k2 p.1 hn.1]
        exact h3
      · exact k3 p hp

/-! ### The commands -/

/-- The state of a FORK once every named context has its program. -/
def State.forked (s : State) (c : Nat) (a b : XReg) : State :=
  (s.forkTargets c 0 ((s.ctx c).getX a)).zipIdx.foldl
    (State.forkOne c ((s.ctx c).forkNo + 1) ((s.ctx c).getX b).toNat (s.codeBytes c)) s

theorem State.codeBytes_pastWait (s : State) (c : Nat) : (s.pastWait c).codeBytes c = s.codeBytes c :=
  State.codeBytes_congr (by simp) (by simp)

theorem State.forkTargets_pastWait (s : State) (c : Nat) (i : BitVec 8) (m : Word64) :
    (s.pastWait c).forkTargets c i m = s.forkTargets c i m := by
  simp only [State.forkTargets, State.homeCl_pastWait, State.ctxDie_pastWait]

theorem State.covered_pastWait (s : State) (c n : Nat) (sc : Scope) : (s.pastWait c).covered c n sc = s.covered c n sc := by
  simp only [State.covered, State.ctx_pastWait_self]
  rfl

section
variable {s : State} {c : Nat} {w : CtlP2} (h : Issues s c w)
include h

/-- FORK of contexts that are free (R280). -/
theorem exec_fork {d a b : XReg} (hr : Released s c w.scope) (hm : (s.ctx c).getX a ≠ 0)
    (htbl : ((s.ctx c).getX b).toNat + 8 * (s.forkTargets c 0 ((s.ctx c).getX a)).length ≤ (s.codeBytes c).length)
    (hoff : ∀ j, j < (s.forkTargets c 0 ((s.ctx c).getX a)).length →
      natOfBytes (((s.codeBytes c).drop (((s.ctx c).getX b).toNat + 8 * j)).take 4) % 4 = 0 ∧
      natOfBytes (((s.codeBytes c).drop (((s.ctx c).getX b).toNat + 8 * j)).take 4) < (s.codeBytes c).length)
    (hfree : ∀ t ∈ s.forkTargets c 0 ((s.ctx c).getX a), (s.ctx t).st = .free) :
    exec (.fork d a b 0 w) s = .next ((((s.pastWait c).forked c a b).modCtx c fun x =>
      Ctx.setX { x with
        forkNo := (s.ctx c).forkNo + 1
        forks := x.forks ++ [{ number := (s.ctx c).forkNo + 1
                               progs := (s.forkTargets c 0 ((s.ctx c).getX a)).map fun e => (e, false, false) }] }
        d (BitVec.ofNat 64 ((s.ctx c).forkNo + 1))).finish c w 2) := by
  have hready : (s.pastWait c).mayRelease c w.scope = true := by
    unfold State.mayRelease
    rw [State.covered_pastWait, State.ctx_pastWait_self]
    exact hr
  have hall : ((List.range (s.forkTargets c 0 ((s.ctx c).getX a)).length).map fun i =>
      natOfBytes (((s.codeBytes c).drop (((s.ctx c).getX b).toNat + 8 * i)).take 4)).all
      (fun o => decide (o % 4 = 0 ∧ o < (s.codeBytes c).length)) = true := by
    simp only [List.all_map, List.all_eq_true, List.mem_range, Function.comp_apply, decide_eq_true_eq]
    exact hoff
  have hnone : ((s.forkTargets c 0 ((s.ctx c).getX a)).any fun e => ((s.pastWait c).ctx e).st != .free) = false := by
    rw [List.any_eq_false]
    intro e he
    have hne : e ≠ c := fun hec => by
      have := hfree e he
      rw [hec, h.running] at this
      cases this
    simp [State.ctx_pastWait, hne, hfree e he]
  show execFork d a b 0 w s = _
  unfold execFork
  rw [runCmd_of_issues h]
  show Cmd.own _ (s.pastWait c) c = _
  have hmask : ((s.ctx c).getX a != 0) = true := bne_iff_ne.mpr hm
  simp only [Cmd.own, Cmd.issue, State.getX_pastWait, State.codeBytes_pastWait, State.forkTargets_pastWait, hall, hready,
    htbl, hnone, hmask, trapUnless, State.condTurn, State.condMet, beq_self_eq_true, Bool.true_or, decide_true, Bool.and_true,
    if_true, Bool.not_true, Bool.false_eq_true, if_false]
  simp only [State.ctx_pastWait_self]
  unfold State.forked
  rw [State.forkTargets_pastWait, State.codeBytes_pastWait, State.ctx_pastWait_self]
  rfl

/-- What the FORK of a context leaves, target by target. -/
theorem fork_leaves {d a b : XReg} {e k off arg : Nat} (hr : Released s c w.scope) (hm : (s.ctx c).getX a ≠ 0)
    (htbl : ((s.ctx c).getX b).toNat + 8 * (s.forkTargets c 0 ((s.ctx c).getX a)).length ≤ (s.codeBytes c).length)
    (hoffs : ∀ j, j < (s.forkTargets c 0 ((s.ctx c).getX a)).length →
      natOfBytes (((s.codeBytes c).drop (((s.ctx c).getX b).toNat + 8 * j)).take 4) % 4 = 0 ∧
      natOfBytes (((s.codeBytes c).drop (((s.ctx c).getX b).toNat + 8 * j)).take 4) < (s.codeBytes c).length)
    (hfree : ∀ t ∈ s.forkTargets c 0 ((s.ctx c).getX a), (s.ctx t).st = .free)
    (hk : (s.forkTargets c 0 ((s.ctx c).getX a))[k]? = some e)
    (hoff : natOfBytes (((s.codeBytes c).drop (((s.ctx c).getX b).toNat + 8 * k)).take 4) = off)
    (harg : natOfBytes (((s.codeBytes c).drop (((s.ctx c).getX b).toNat + 8 * k + 4)).take 4) = arg) :
    ∃ t, exec (.fork d a b 0 w) s = .next t ∧ (t.ctx c).pc = (s.ctx c).pc + 2 ∧ (t.ctx c).forkNo = (s.ctx c).forkNo + 1 ∧
      (t.ctx c).getX d = BitVec.ofNat 64 ((s.ctx c).forkNo + 1) ∧ t.tiles = s.tiles ∧
      Started (t.ctx e) c (codeFrom (s.codeBytes c) off) arg := by
  have hfst : (s.forkTargets c 0 ((s.ctx c).getX a)).zipIdx.map (·.1) = s.forkTargets c 0 ((s.ctx c).getX a) :=
    List.zipIdx_map_fst _ _
  have hc : c ∉ s.forkTargets c 0 ((s.ctx c).getX a) := fun hmem => by
    have := hfree c hmem
    rw [h.running] at this
    cases this
  have hmem : (e, k) ∈ (s.forkTargets c 0 ((s.ctx c).getX a)).zipIdx := by
    rw [List.mem_zipIdx_iff_getElem?]
    exact hk
  have hne : e ≠ c := by
    rintro rfl
    exact hc (List.mem_of_getElem? hk)
  obtain ⟨hf, -, hst⟩ := Forking.foldl (s := s.pastWait c) (n := (s.ctx c).forkNo + 1)
    (tbl := ((s.ctx c).getX b).toNat) (bs := s.codeBytes c) _ (by rw [hfst]; exact hc) (by rw [hfst]; exact s.forkTargets_nodup c _) (s.pastWait c) ⟨rfl, rfl, rfl⟩
  have hz : (s.pastWait c).forked c a b = (s.forkTargets c 0 ((s.ctx c).getX a)).zipIdx.foldl (State.forkOne c
      ((s.ctx c).forkNo + 1) ((s.ctx c).getX b).toNat (s.codeBytes c)) (s.pastWait c) := by
    unfold State.forked
    rw [State.forkTargets_pastWait, State.codeBytes_pastWait, State.getX_pastWait, State.getX_pastWait,
      State.ctx_pastWait_self]
  rw [← hz] at hf hst
  have hstart := hst (e, k) hmem
  rw [State.codeBytes_pastWait, List.drop_drop, hoff, harg] at hstart
  refine ⟨_, exec_fork h hr hm htbl hoffs hfree, ?_⟩
  generalize hy : State.modCtx _ c _ = y
  have hyc : (y.ctx c).pc = (s.ctx c).pc ∧ (y.ctx c).forkNo = (s.ctx c).forkNo + 1 ∧
      (y.ctx c).getX d = BitVec.ofNat 64 ((s.ctx c).forkNo + 1) := by
    rw [← hy, State.ctx_modCtx, if_pos rfl, hf.ctx, State.ctx_pastWait_self]
    exact ⟨rfl, rfl, by rw [Ctx.getX_setX, if_pos rfl]⟩
  have hye : y.ctx e = ((s.pastWait c).forked c a b).ctx e := by rw [← hy, State.ctx_modCtx, if_neg hne]
  have hyt : y.tiles = s.tiles := by
    rw [← hy]
    exact hf.tiles
  obtain ⟨_, _, _, hfin⟩ := y.finish_ctx c 2 w
  refine ⟨?_, ?_, ?_, (y.finish_only c w 2).tiles.trans hyt, ?_⟩
  · rw [hfin]
    exact congrArg (· + 2) hyc.1
  · rw [hfin]
    exact hyc.2.1
  · rw [hfin]
    exact hyc.2.2
  · rw [y.ctx_finish_ne 2 w hne, hye]
    exact hstart

end

/-! ### RDV (R63, R281) -/

/-- Acquires change no more than the clusters and the L1s. -/
theorem State.acquires_eq {α : Type} (c : Nat) (sc : Scope) (o : α → Nat × Nat) (l : List α) (s : State) :
    ∃ cs l1, l.foldl (fun s p => s.acquire c sc (o p)) s = { s with clusters := cs, l1 := l1 } := by
  induction l generalizing s with
  | nil => exact ⟨_, _, rfl⟩
  | cons p l ih => exact ih (s.acquire c sc (o p))

section
variable {d : Cmd} {s : State} {c : Nat} {k : WaitCond} (hcheck : d.check s c = none) (hready : d.ready s c = true)
  (hk : d.cond (d.begin s c) c = k) (hturn : (d.begin s c).condTurn c k = true)
include hcheck hready hk hturn

/-- A command whose own condition is not met waits (R268 step 3). -/
theorem Cmd.own_waits (hm : (d.begin s c).condMet c k = none) : d.own s c = .next ((d.begin s c).waits c k) := by
  unfold Cmd.own
  rw [hcheck]
  dsimp only
  rw [if_neg (by simp [hready]), hk, if_neg (by simp [hturn]), hm]

/-- A command whose own condition is met issues (R268 step 4). -/
theorem Cmd.own_issues {z : State} {v : Nat} (hm : (d.begin s c).condMet c k = some (z, v)) (hlate : d.late z c = none) :
    d.own s c = d.act z c v := by
  unfold Cmd.own
  rw [hcheck]
  dsimp only
  rw [if_neg (by simp [hready]), hk, if_neg (by simp [hturn]), hm]
  dsimp only
  unfold Cmd.issue
  rw [hlate]

end

section
variable {s : State} {c : Nat} {w : CtlP2} (h : Issues s c w) {a : XReg} {f : ForkRec}
  (hf : (s.ctx c).forks.find? (fun f => f.number == ((s.ctx c).getX a).toNat) = some f) (hj : f.joined = false)
include hf hj

/-- RDV of a fork that stands in the issuer's table and has not been joined (R281). -/
theorem rdv_check : trapUnless (((s.pastWait c).ctx c).forks.any fun f =>
    f.number == (((s.pastWait c).ctx c).getX a).toNat && !f.joined) = none := by
  have hnum := List.find?_some hf
  have hany : (((s.pastWait c).ctx c).forks.any fun f => f.number == (((s.pastWait c).ctx c).getX a).toNat && !f.joined) =
      true := by
    rw [State.getX_pastWait, State.ctx_pastWait_self, List.any_eq_true]
    exact ⟨f, List.mem_of_find?_eq_some hf, by rw [hj, Bool.not_false, Bool.and_true]; exact hnum⟩
  rw [hany]
  rfl

include h

/-- RDV of a fork whose programs have ended (R281). -/
theorem completesAt_rdv (d : XReg) {m : Nat} (hm : f.mask = some m) :
    CompletesAt (.rdv d a w) s c ((s.ctx c).pc + 2) [(d, BitVec.ofNat 64 m)] := by
  obtain ⟨cs, l1, hz⟩ := State.acquires_eq c w.scope (fun p : Nat × Bool × Bool => objTimeline p.1) f.progs (s.pastWait c)
  have hmet : (s.pastWait c).condMet c (.joined ((s.ctx c).getX a).toNat w.scope) =
      some ({ s.pastWait c with clusters := cs, l1 := l1 }, m) := by
    rw [← hz]
    simp [State.condMet, hf, hm]
  have hleaves := (s.pastWait_leaves c).trans (.of_clusters (s.pastWait c) c cs l1)
  have hx : ({ s.pastWait c with clusters := cs, l1 := l1 } : State).ctx c = (s.pastWait c).ctx c := rfl
  generalize ({ s.pastWait c with clusters := cs, l1 := l1 } : State) = z at hmet hleaves hx
  have he : exec (.rdv d a w) s = .next ((z.modCtx c fun x => Ctx.setX { x with forks := x.forks.map fun f =>
      if f.number = ((z.ctx c).getX a).toNat then { f with joined := true } else f } d (BitVec.ofNat 64 m)).finish c w 2) := by
    show execRdv d a w s = _
    unfold execRdv
    rw [runCmd_of_issues h]
    exact Cmd.own_issues (s := s.pastWait c) (rdv_check hf hj) rfl
      (congrArg (WaitCond.joined · w.scope) (congrArg BitVec.toNat (s.getX_pastWait c a))) rfl hmet rfl
  refine completesAt_of_finish he (hleaves.trans (State.modCtx_leaves _ c _)) ?_ ?_ (fun k => ?_) trivial
  all_goals rw [State.ctx_modCtx, if_pos rfl, hx, State.ctx_pastWait_self]
  · rfl
  · exact h.running
  · rw [Ctx.getX_setX, Ctx.withX_singleton, Ctx.getX_setX]
    rfl

/-- RDV of a fork with a program that runs waits for it (R65, R281). -/
theorem waitsFor_rdv (d : XReg) (hm : f.mask = none) :
    WaitsFor (.rdv d a w) s c (.joined ((s.ctx c).getX a).toNat w.scope) := by
  have hmet : (s.pastWait c).condMet c (.joined ((s.ctx c).getX a).toNat w.scope) = none := by
    simp [State.condMet, hf, hm]
  refine ⟨(s.pastWait c).waits c (.joined ((s.ctx c).getX a).toNat w.scope), ?_, ?_,
    (s.pastWait_leaves c).trans (State.modCtx_leaves _ c _)⟩
  · show execRdv d a w s = _
    unfold execRdv
    rw [runCmd_of_issues h]
    exact Cmd.own_waits (s := s.pastWait c) (rdv_check hf hj) rfl
      (congrArg (WaitCond.joined · w.scope) (congrArg BitVec.toNat (s.getX_pastWait c a))) rfl hmet
  · unfold State.waits
    rw [State.ctx_modCtx, if_pos rfl, State.ctx_pastWait_self]

end

/-! ### END and HALT of a forked program (R273, R281) -/

/-- The record of a fork once its program in `c` has ended. -/
theorem State.endProgram_leaves (s : State) (c : Nat) (halt : Bool) : let t := s.endProgram c halt
    (t.ctx c).st = .free ∧ (t.ctx c).halted = halt ∧ t.tiles = s.tiles ∧
      ∀ f ∈ (t.ctx (s.ctx c).forker).forks, f.number = (s.ctx c).underFork → ∀ r ∈ f.progs, r.1 = c → r.2 = (true, halt) := by
  intro t
  have hz := s.raceRelease_race c (objTimeline c)
  let z := (s.raceRelease c (objTimeline c)).setCtx c
    { s.ctx c with st := .free, halted := halt, hold := .none, waitFor := .none }
  let rec1 (r : ForkRec) : ForkRec := if r.number = (s.ctx c).underFork then
    { r with progs := r.progs.map fun p => if p.1 = c then (c, true, halt) else p } else r
  have ht : t = z.modCtx (s.ctx c).forker fun f => { f with forks := f.forks.map rec1 } := rfl
  have hzc : z.ctx c = { s.ctx c with st := .free, halted := halt, hold := .none, waitFor := .none } := State.ctx_setCtx _ c _
  have hc : (t.ctx c).st = (z.ctx c).st ∧ (t.ctx c).halted = (z.ctx c).halted := by
    rw [ht, State.ctx_modCtx]
    split
    · next e => rw [← e]; exact ⟨rfl, rfl⟩
    · exact ⟨rfl, rfl⟩
  refine ⟨by rw [hc.1, hzc], by rw [hc.2, hzc], ?_, fun f hf hn r hr hrc => ?_⟩
  · obtain ⟨⟨_, _, _, e⟩, -⟩ := hz
    rw [ht]
    show (s.raceRelease c (objTimeline c)).tiles = _
    rw [e]
  · rw [ht, State.ctx_modCtx, if_pos rfl] at hf
    obtain ⟨g, -, rfl⟩ := List.mem_map.mp hf
    by_cases hg : g.number = (s.ctx c).underFork
    · rw [show rec1 g = { g with progs := g.progs.map fun p => if p.1 = c then (c, true, halt) else p } from if_pos hg] at hr
      obtain ⟨p, -, rfl⟩ := List.mem_map.mp hr
      split
      · rfl
      · next hp => exact absurd (by rwa [if_neg hp] at hrc) hp
    · rw [show rec1 g = g from if_neg hg] at hn
      exact absurd hn hg

theorem exec_endCommand {s : State} {c : Nat} {w : CtlP2} (h : Issues s c w) (hr : isRegionId c = false) (hs : isSupId c = false)
    (halt : Bool) : endCommand halt w s = .next (((s.pastWait c).finish c w 2).endProgram c halt) := by
  unfold endCommand
  rw [runCmd_of_issues h]
  show Cmd.own _ (s.pastWait c) c = _
  simp [Cmd.own, Cmd.issue, State.condTurn, State.condMet, hr, hs]

/-- Settles O28: FORK by induction over the contexts that it names, RDV by its condition, END and HALT by what the end of a
program leaves. -/
theorem enginePrograms : Obligations.EnginePrograms := by
  intro s c w d a b h x
  refine ⟨fun e off arg k => ?_,
    fun f hf hj => ⟨fun m hm => completesAt_rdv h hf hj d hm, fun hm => waitsFor_rdv h hf hj d hm⟩,
    fun hr hs p hp => ?_⟩
  · intro ts bs tbl entry hr hm htbl hoffs hfree hk hoff harg
    obtain ⟨t, ht, hpc, hno, hx, htl, hst⟩ := fork_leaves (d := d) h hr hm htbl hoffs hfree hk hoff harg
    obtain ⟨h0, h1, h2⟩ := hst.getX
    exact ⟨t, ht, hpc, hno, hx, htl, hst.st, hst.pc, hst.code, h0, h1, h2, hst.forker⟩
  · obtain ⟨_, _, _, hfin⟩ := (s.pastWait c).finish_ctx c 2 w
    have hexec : exec p.1 s = .next (((s.pastWait c).finish c w 2).endProgram c p.2) := by
      simp only [List.mem_cons, List.not_mem_nil, or_false] at hp
      rcases hp with rfl | rfl
      · exact exec_endCommand h hr hs false
      · exact exec_endCommand h hr hs true
    obtain ⟨h1, h2, h3, h4⟩ := ((s.pastWait c).finish c w 2).endProgram_leaves c p.2
    rw [hfin, State.ctx_pastWait_self] at h4
    exact ⟨_, hexec, h1, h2, h3.trans ((s.pastWait c).finish_only c w 2).tiles, h4⟩

end Sys2Proof.Machine

namespace Sys2Proof.Machine

/-! ## The counter of a region (O22) -/

/-! ### What a token that the counter sends leaves of its region's context -/

/-- Of a context, at most what records the tokens of its region differs: the change bits, the report, the snapshots. -/
def Ctx.FedOnly (x y : Ctx) : Prop := ∃ ch q ms rp, y = { x with changed := ch, quiet := q, marks := ms, replay := rp }

theorem Ctx.FedOnly.refl (x : Ctx) : x.FedOnly x := ⟨_, _, _, _, rfl⟩

theorem Ctx.FedOnly.trans {x y z : Ctx} (h : x.FedOnly y) (k : y.FedOnly z) : x.FedOnly z := by
  obtain ⟨_, _, _, _, rfl⟩ := h
  obtain ⟨_, _, _, _, rfl⟩ := k
  exact ⟨_, _, _, _, rfl⟩

theorem Ctx.fedOnly_recordIn (x : Ctx) (key : Nat) (t : Token) : x.FedOnly (x.recordIn key t) := by
  unfold Ctx.recordIn
  dsimp only
  split
  · split <;> exact ⟨_, _, _, _, rfl⟩
  · exact ⟨_, _, _, _, rfl⟩

theorem State.fedOnly_feedOne (s : State) (c : Nat) (t : Token) (p : Nat × Bool) :
    (s.ctx c).FedOnly ((s.feedOne c t p).ctx c) := by
  obtain ⟨ch, q, h⟩ := (s.setAg p.1 p.2 { s.ag p.1 p.2 with start := (s.ag p.1 p.2).start ++ [t] }).touch_ctx p.1 .tok c
  have hset : (s.setAg p.1 p.2 { s.ag p.1 p.2 with start := (s.ag p.1 p.2).start ++ [t] }).ctx c = s.ctx c := by
    cases p.2 <;> rfl
  unfold State.feedOne
  rw [State.ctx_modCtx, if_pos rfl, h, hset]
  exact Ctx.FedOnly.trans ⟨ch, q, _, _, rfl⟩ (Ctx.fedOnly_recordIn _ _ _)

/-- What the counter's token leaves: its region's context, and the token at every generator that it feeds (R38). -/
theorem State.feedAll_leaves (s : State) (c : Nat) (t : Token) (hn : (s.fed c).Nodup) :
    (s.ctx c).FedOnly ((s.feedAll c t).ctx c) ∧
    ∀ p ∈ s.fed c, ((s.feedAll c t).ag p.1 p.2).start = (s.ag p.1 p.2).start ++ [t] := by
  rw [State.feedAll_eq]
  refine ⟨?_, fun p hp => ?_⟩
  · generalize s.fed c = ps
    clear hn
    induction ps generalizing s with
    | nil => exact .refl _
    | cons p ps ih => exact (s.fedOnly_feedOne c t p).trans (ih _)
  · rw [(State.feed_leaves c t (s.fed c) s hn).2, if_pos hp]

/-- Generators are fed by the tiles of the region's context. -/
theorem State.fed_congr {s t : State} {c : Nat} (hx : (t.ctx c).tiles = (s.ctx c).tiles) (ht : t.tiles = s.tiles) :
    t.fed c = s.fed c := by
  simp only [State.fed, hx, State.ag_of_tiles ht]

section
variable {s : State} {c : Nat}

/-! ### NEXT and EOS (R38) -/

section
variable (hn : (s.fed c).Nodup) (hroom : s.fedRoom c = true) (hcount : (s.ctx c).counting = true)
  (hre : (s.ctx c).reassign = false) (hst : (s.ctx c).steals = []) (hbar : (s.ctx c).barPend = []) (hpost : s.postDue c = false)
include hn hroom hcount hre hst hbar hpost

theorem iterIndexIssue_leaves (hlim : (s.ctx c).next < (s.ctx c).limit) : ∃ u, exec (.iterIndexIssue c) s = .next u ∧
    (u.ctx c).next = (s.ctx c).next + 1 ∧ (u.ctx c).limit = (s.ctx c).limit ∧ ∀ p ∈ s.fed c, (u.ag p.1 p.2).start =
      (s.ag p.1 p.2).start ++ [dataToken (BitVec.ofNat 512 ((s.ctx c).next % 2 ^ 64)) 0 0 false] := by
  obtain ⟨⟨ch, q, ms, rp, hx⟩, hag⟩ :=
    s.feedAll_leaves c (dataToken (BitVec.ofNat 512 ((s.ctx c).next % 2 ^ 64)) 0 0 false) hn
  have he := show execIterIndexIssue c s = _ from
    if_pos (by simp [hcount, hre, hpost, hroom, hlim, Ctx.atBoundary, hst, hbar])
  refine ⟨_, he, ?_, ?_, hag⟩
  all_goals rw [State.ctx_modCtx, if_pos rfl, hx]

theorem iterEosSend_leaves (hlim : (s.ctx c).limit ≤ (s.ctx c).next) : ∃ u, exec (.iterEosSend c) s = .next u ∧
    (u.ctx c).eosSent = true ∧ (u.ctx c).next = (s.ctx c).next ∧
    ∀ p ∈ s.fed c, (u.ag p.1 p.2).start = (s.ag p.1 p.2).start ++ [{ kind := .eos }] := by
  obtain ⟨⟨ch, q, ms, rp, hx⟩, hag⟩ := s.feedAll_leaves c eosToken hn
  have he := show execIterEosSend c s = _ from
    if_pos (by simp [hcount, hre, hpost, hroom, hlim, Ctx.atBoundary, hst, hbar])
  refine ⟨_, he, ?_, ?_, hag⟩
  all_goals rw [State.ctx_modCtx, if_pos rfl, hx]

end

/-! ### Steal requests (R68, R69) -/

/-- The reply reaches the thief, and the victim's context is as it was. -/
theorem State.stealReply_leaves (z : State) {thief : Nat} (lo hi : Nat) (ht : thief ≠ c) :
    (z.stealReply c thief lo hi).ctx c = z.ctx c ∧ ((z.stealReply c thief lo hi).ctx thief).stealGot = some (lo, hi) := by
  have hr := z.raceRelease_race c (objReply thief)
  unfold State.stealReply
  refine ⟨by rw [State.ctx_modCtx, if_neg ht.symm, hr.ctx], by rw [State.ctx_modCtx, if_pos rfl]⟩

/-- A request that came while no step ran is answered first, with the empty range. -/
theorem exec_stealRequestHandle_owed {thief : Nat} {rest : List Nat} (ho : (s.ctx c).owed = thief :: rest)
    (hgo : (s.ctx c).st.dead = true ∨ s.covered c (s.ctx c).stepNo .device = true) : exec (.stealRequestHandle c) s =
      .next ((s.setCtx c { s.ctx c with owed := rest }).stealReply c thief 0 0) := by
  show execStealRequestHandle c s = _
  unfold execStealRequestHandle
  simp only [ho]
  exact if_pos hgo

section
variable {came thief : Nat} {rest : List (Nat × Nat)} (ho : (s.ctx c).owed = []) (hs : (s.ctx c).steals = (came, thief) :: rest)
  (ht : thief ≠ c)
include ho hs ht

/-- A region without a step, or one that runs no more, answers with the empty range. -/
theorem exec_stealRequestHandle_empty (hgo : (s.ctx c).st.dead = true ∨
      ((s.ctx c).stepOn = false ∧ s.covered c (s.ctx c).stepNo .device = true)) : exec (.stealRequestHandle c) s =
      .next ((s.setCtx c { s.ctx c with steals := rest }).stealReply c thief 0 0) := by
  show execStealRequestHandle c s = _
  unfold execStealRequestHandle
  simp only [ho, hs, ht, if_false]
  cases hd : (s.ctx c).st.dead with
  | true => rfl
  | false =>
    obtain ⟨hstep, hcov⟩ := hgo.resolve_left (by simp [hd])
    simp [hstep, hcov]

/-- At a boundary of its step, a victim gives away the upper half of what remains, if that is two indices or more. -/
theorem exec_stealRequestHandle_live (hcame : came ≠ s.cycle) (hstep : (s.ctx c).stepOn = true)
    (hst : (s.ctx c).st ∈ [CtxSt.running, .waiting, .draining]) (hcov : s.covered c (s.ctx c).stepNo .device = true) :
    let z := s.setCtx c { s.ctx c with steals := rest }
    let mid := (s.ctx c).next + ((s.ctx c).limit - (s.ctx c).next + 1) / 2
    exec (.stealRequestHandle c) s = if (s.ctx c).next + 2 ≤ (s.ctx c).limit
      then .next ((z.modCtx c fun y => { y with limit := mid }).stealReply c thief mid (s.ctx c).limit)
      else .next (z.stealReply c thief 0 0) := by
  intro z mid
  have hn : (s.ctx c).limit - (s.ctx c).next ≥ 2 ↔ (s.ctx c).next + 2 ≤ (s.ctx c).limit := by omega
  show execStealRequestHandle c s = _
  unfold execStealRequestHandle z mid
  simp only [ho, hs, ht, if_false]
  simp only [List.mem_cons, List.not_mem_nil, or_false] at hst
  rcases hst with h | h | h <;> simp only [h, CtxSt.dead, hcov, hstep, hcame, hn, Bool.not_true, Bool.false_eq_true, or_self,
    if_false]

end

/-! ### SPLIT and BARI (R279, R286) -/

theorem xnext_one_ne (d : XReg) : xnext d 1 ≠ d := fun h => by
  have := congrArg Fin.val h
  have hd := d.isLt
  simp only [xnext, Fin.ofNat] at this
  omega

/-- A command that held its sequencer has completed: of its context, what `past` leaves, and what a signal may change. -/
theorem State.complete_ctx (s : State) (c : Nat) :
    ((s.ctx c).past (s.ctx c).holdLen).SignalOnly ((s.complete c).ctx c) := by
  have h := (s.setCtx c ((s.ctx c).past (s.ctx c).holdLen)).signal_ctx c (s.ctx c).holdSig
  rwa [State.ctx_setCtx] at h

theorem splitApply_leaves {came p : Nat} {rest : List (Nat × Nat)} {d : XReg} (hs : (s.ctx c).steals = (came, c) :: rest)
    (hh : (s.ctx c).hold = .split d p) (hf : (s.ctx c).st.fires = true) :
    let mid := if (s.ctx c).stepOn then Nat.min (Nat.max p (s.ctx c).next) (s.ctx c).limit else (s.ctx c).limit
    ∃ u, exec (.splitApply c) s = .next u ∧ (u.ctx c).limit = mid ∧ (u.ctx c).steals = rest ∧
      (u.ctx c).hold = .none ∧ (u.ctx c).getX d = BitVec.ofNat 64 mid ∧
      (u.ctx c).getX (xnext d 1) = BitVec.ofNat 64 (s.ctx c).limit := by
  intro mid
  let y := (Ctx.setX { s.ctx c with steals := rest, limit := mid } d (BitVec.ofNat 64 mid)).setX (xnext d 1)
    (BitVec.ofNat 64 (s.ctx c).limit)
  have he : exec (.splitApply c) s = .next ((s.setCtx c y).complete c) := by
    show execSplitApply c s = _
    have hgo : ¬(c ≠ c ∨ (!(s.ctx c).st.fires) = true) := by simp [hf]
    unfold execSplitApply y mid
    simp only [hs, hh]
    exact if_neg hgo
  obtain ⟨_, _, _, hu⟩ := (s.setCtx c y).complete_ctx c
  rw [State.ctx_setCtx] at hu
  refine ⟨_, he, ?_, ?_, ?_, ?_, ?_⟩
  all_goals rw [hu]
  · rfl
  · rfl
  · rfl
  · show y.getX d = _
    rw [Ctx.getX_setX, if_neg (xnext_one_ne d), Ctx.getX_setX, if_pos rfl]
  · show y.getX (xnext d 1) = _
    rw [Ctx.getX_setX, if_pos rfl]

/-- The counter sends a barrier token; a BARI that waits for no sink completes (R286). -/
theorem bariInject_leaves {m : Nat} {rest : List Nat} (hn : (s.fed c).Nodup) (hroom : s.fedRoom c = true)
    (hb : (s.ctx c).barPend = m :: rest) (hcount : (s.ctx c).counting = true) (hst : (s.ctx c).steals = []) :
    ∃ u, exec (.bariInject c) s = .next u ∧ (u.ctx c).barPend = rest ∧ (u.ctx c).next = (s.ctx c).next ∧
      (u.ctx c).barOut = (s.ctx c).barOut ++ [(m, [])] ∧
      (∀ p ∈ s.fed c, (u.ag p.1 p.2).start = (s.ag p.1 p.2).start ++ [barrierToken m]) ∧
      ∀ d, (s.ctx c).hold = .bari m false d → (u.ctx c).hold = .none ∧ (u.ctx c).getX d = BitVec.ofNat 64 m ∧
        (u.ctx c).pc = (s.ctx c).pc + (s.ctx c).holdLen := by
  let y := { s.ctx c with
    barPend := rest, barOut := (s.ctx c).barOut ++ [(m, [])], marks := tset (s.ctx c).marks m {} }
  let z := (s.setCtx c y).feedAll c (barrierToken m)
  have hfed : (s.setCtx c y).fed c = s.fed c := State.fed_congr (by rw [State.ctx_setCtx]; rfl) rfl
  obtain ⟨⟨ch, q, ms, rp, hx⟩, hag⟩ := (s.setCtx c y).feedAll_leaves c (barrierToken m) (by rw [hfed]; exact hn)
  rw [State.ctx_setCtx] at hx
  rw [hfed] at hag
  have hag' : ∀ p ∈ s.fed c, (z.ag p.1 p.2).start = (s.ag p.1 p.2).start ++ [barrierToken m] := hag
  have hgo : ((s.ctx c).counting && (s.ctx c).steals.isEmpty && s.fedRoom c) = true := by simp [hcount, hst, hroom]
  by_cases hh : ∃ d, (s.ctx c).hold = .bari m false d
  · obtain ⟨d, hd⟩ := hh
    have he : exec (.bariInject c) s = .next (z.completeBari c d m) := by
      show execBariInject c s = _
      unfold execBariInject z y
      simp only [hb, hgo, if_true, hd]
    obtain ⟨_, _, _, hu⟩ := (z.modCtx c fun x => x.setX d (BitVec.ofNat 64 m)).complete_ctx c
    rw [State.ctx_modCtx, if_pos rfl, hx] at hu
    have htl : (z.completeBari c d m).tiles = z.tiles := (z.completeBari_only c d m).tiles
    refine ⟨_, he, ?_, ?_, ?_, fun p hp => ?_, fun d' hd' => ?_⟩
    case refine_4 => rw [State.ag_of_tiles htl]; exact hag' p hp
    case refine_5 =>
      cases hd.symm.trans hd'
      unfold State.completeBari
      rw [hu]
      refine ⟨rfl, ?_, rfl⟩
      show (Ctx.setX _ d _).getX d = _
      rw [Ctx.getX_setX, if_pos rfl]
    all_goals
      unfold State.completeBari
      rw [hu]
      rfl
  · have he : exec (.bariInject c) s = .next z := by
      show execBariInject c s = _
      unfold execBariInject
      simp only [hb, hgo, if_true]
      split
      · next n d hd =>
        rw [if_neg]
        rintro rfl
        exact hh ⟨d, hd⟩
      · rfl
    refine ⟨z, he, ?_, ?_, ?_, hag', fun d hd => absurd ⟨d, hd⟩ hh⟩
    all_goals
      unfold z
      rw [hx]

end

theorem CtxSt.dead_of_mem {k : CtxSt} (h : k ∈ [CtxSt.faulted, .retired, .free]) : k.dead = true := by
  simp only [List.mem_cons, List.not_mem_nil, or_false] at h
  rcases h with rfl | rfl | rfl <;> rfl

/-- Settles O22, event by event. -/
theorem iterationEvents : Obligations.IterationEvents := by
  intro s c x fedWith hn hroom
  refine ⟨iterIndexIssue_leaves hn hroom, iterEosSend_leaves hn hroom, fun thief rest ho ht hgo => ?_,
    fun came thief rest ho hs ht hgo => ?_, fun came thief rest ho hs ht hcame hstep hst hcov => ⟨fun hl => ?_, fun hl => ?_⟩,
    fun came rest d p hs hh hf => splitApply_leaves hs hh hf, fun m rest hb hcount hst => bariInject_leaves hn hroom hb hcount hst⟩
  · obtain ⟨h1, h2⟩ := State.stealReply_leaves (s.setCtx c { s.ctx c with owed := rest }) 0 0 ht
    refine ⟨_, exec_stealRequestHandle_owed ho (hgo.imp_left CtxSt.dead_of_mem), ?_, ?_, ?_, h2⟩
    all_goals rw [h1, State.ctx_setCtx]
  · obtain ⟨h1, h2⟩ := State.stealReply_leaves (s.setCtx c { s.ctx c with steals := rest }) 0 0 ht
    refine ⟨_, exec_stealRequestHandle_empty ho hs ht (hgo.imp_left CtxSt.dead_of_mem), ?_, ?_, h2⟩
    all_goals rw [h1, State.ctx_setCtx]
  · have he := (exec_stealRequestHandle_live ho hs ht hcame hstep hst hcov).trans (if_pos hl)
    obtain ⟨h1, h2⟩ := State.stealReply_leaves ((s.setCtx c { s.ctx c with steals := rest }).modCtx c fun y =>
      { y with limit := (s.ctx c).next + ((s.ctx c).limit - (s.ctx c).next + 1) / 2 })
      ((s.ctx c).next + ((s.ctx c).limit - (s.ctx c).next + 1) / 2) (s.ctx c).limit ht
    rw [State.ctx_modCtx, if_pos rfl, State.ctx_setCtx] at h1
    refine ⟨_, he, ?_, ?_, ?_, ?_⟩
    case refine_4 => rw [h2, h1]
    all_goals rw [h1]
  · have he := (exec_stealRequestHandle_live ho hs ht hcame hstep hst hcov).trans (if_neg (Nat.not_le.mpr hl))
    obtain ⟨h1, h2⟩ := State.stealReply_leaves (s.setCtx c { s.ctx c with steals := rest }) 0 0 ht
    refine ⟨_, he, ?_, ?_, h2⟩
    all_goals rw [h1, State.ctx_setCtx]

end Sys2Proof.Machine

namespace Sys2Proof.Machine

/-! ## Turns of the matrix node and of the generators (O21) -/

/-! ### Elements of a payload (R94) -/

/-- The number that a payload of elements stands for. -/
def packed (w : Nat) (es : List Nat) : Nat := es.foldr (fun e acc => e % 2 ^ w + acc * 2 ^ w) 0

theorem packed_cons (w e : Nat) (es : List Nat) : packed w (e :: es) = e % 2 ^ w + packed w es * 2 ^ w := rfl

theorem packed_lt (w : Nat) (es : List Nat) : packed w es < 2 ^ (w * es.length) := by
  induction es with
  | nil => exact Nat.one_pos
  | cons e es ih =>
    have he : e % 2 ^ w < 2 ^ w := Nat.mod_lt _ (Nat.two_pow_pos w)
    rw [packed_cons, List.length_cons, Nat.mul_succ, Nat.pow_add]
    calc e % 2 ^ w + packed w es * 2 ^ w < 2 ^ w + packed w es * 2 ^ w := Nat.add_lt_add_right he _
      _ = (packed w es + 1) * 2 ^ w := by ring
      _ ≤ 2 ^ (w * es.length) * 2 ^ w := Nat.mul_le_mul_right _ ih

theorem natBits_packed (w : Nat) (es : List Nat) (k : Nat) : natBits (packed w es) (w * k) w = es.getD k 0 % 2 ^ w := by
  induction es generalizing k with
  | nil => simp [packed, natBits]
  | cons e es ih =>
    have hpos : 0 < 2 ^ w := Nat.two_pow_pos w
    cases k with
    | zero => simp [natBits, packed_cons]
    | succ k =>
      rw [List.getD_cons_succ, ← ih k]
      unfold natBits
      have hdiv : packed w (e :: es) / 2 ^ w = packed w es := by
        rw [packed_cons, Nat.add_mul_div_right _ _ hpos, Nat.div_eq_of_lt (Nat.mod_lt _ hpos), Nat.zero_add]
      rw [Nat.mul_succ, Nat.add_comm, Nat.shiftRight_add, Nat.shiftRight_eq_div_pow _ w, hdiv]

/-- Element `k` of a payload that holds all the elements. -/
theorem elemAt_payloadOf {w : Nat} {es : List Nat} (h : w * es.length ≤ 512) (k : Nat) :
    elemAt (payloadOf w es) w k = es.getD k 0 % 2 ^ w := by
  have hlt : packed w es < 2 ^ 512 := (packed_lt w es).trans_le (Nat.pow_le_pow_right Nat.two_pos h)
  rw [← natBits_packed]
  show natBits (BitVec.ofNat 512 (packed w es)).toNat _ _ = _
  rw [BitVec.toNat_ofNat, Nat.mod_eq_of_lt hlt]

/-- A 32-bit pattern of an integer is its word. -/
theorem patternOf_eq_toNat (z : Int) : patternOf 32 z = (BitVec.ofInt 32 z).toNat := by
  rw [BitVec.toNat_ofInt]
  rfl

theorem patternOf_lt (z : Int) : patternOf 32 z < 2 ^ 32 := by
  rw [patternOf_eq_toNat]
  exact BitVec.isLt _

/-! ### The matrix node (R252, R254, R255) -/

theorem State.mx_of_tiles {s t : State} (h : t.tiles = s.tiles) (pt : Nat) : t.mx pt = s.mx pt := by
  simp [State.mx, State.tile, h]

/-- A queue that stands on a tapped port takes its head, while it has room. -/
def State.mxPullOne (pt : Nat) (u : Bool) (k : Fin 6) (s : State) : State :=
  if (s.mx pt).queue.length < 4 then
    match headFor (s.cu pt u).ins[k] 2 with
    | some t => (s.setMx pt { s.mx pt with queue := (s.mx pt).queue ++ [mxEntry t] }).takePort pt u k 2
    | none => s
  else s

/-- Nothing of a matrix node but its queue differs, to which entries were added; and no token has left. -/
def QueueGrown (s t : State) (pt : Nat) : Prop := t.flights = s.flights ∧
  ∃ new, t.mx pt = { s.mx pt with queue := (s.mx pt).queue ++ new }

theorem QueueGrown.refl (s : State) (pt : Nat) : QueueGrown s s pt := ⟨rfl, [], by rw [List.append_nil]⟩

theorem QueueGrown.trans {s t u : State} {pt : Nat} (h : QueueGrown s t pt) (k : QueueGrown t u pt) : QueueGrown s u pt := by
  obtain ⟨hf, new, h⟩ := h
  obtain ⟨kf, more, k⟩ := k
  exact ⟨kf.trans hf, new ++ more, by rw [k, h, List.append_assoc]⟩

theorem State.mxPullOne_grows (s : State) (pt : Nat) (u : Bool) (k : Fin 6) : QueueGrown s (s.mxPullOne pt u k) pt := by
  unfold State.mxPullOne
  split
  · split
    · next t _ =>
      refine ⟨(State.takePort_only _ pt u k 2).flights, [mxEntry t], ?_⟩
      rw [State.mx_of_tiles (State.takePort_tiles _ pt u k 2), State.mx_setCu, State.mx_setMx]
    · exact .refl s pt
  · exact .refl s pt

theorem State.mxPull_grows (s : State) (pt : Nat) : QueueGrown s (s.mxPull pt) pt := by
  unfold State.mxPull
  split
  · exact .refl s pt
  · next u k _ =>
    exact List.foldlRecOn (motive := fun t => QueueGrown s t pt) (List.range 4) (fun s _ => s.mxPullOne pt u k) (.refl s pt)
      fun t ht _ _ => ht.trans (t.mxPullOne_grows pt u k)

/-- The head of a matrix node's queue has gone, and more may have come. -/
theorem State.mxPop_leaves (s : State) (pt : Nat) : (s.mxPop pt).flights = s.flights ∧
    ∃ new, (s.mxPop pt).mx pt = { s.mx pt with queue := (s.mx pt).queue.tail ++ new } := by
  let z := (s.setMx pt { s.mx pt with queue := (s.mx pt).queue.tail }).touch pt .tok
  have hz : z.mx pt = { s.mx pt with queue := (s.mx pt).queue.tail } :=
    (State.mx_of_tiles (State.tiles_touch _ pt .tok) pt).trans (State.mx_setMx _ _ _)
  have hf : z.flights = s.flights := by simp [z, State.setMx]
  have main : ∀ y, QueueGrown z y pt → y.flights = s.flights ∧
      ∃ new, y.mx pt = { s.mx pt with queue := (s.mx pt).queue.tail ++ new } := fun y ⟨h1, new, h2⟩ =>
    ⟨h1.trans hf, new, by rw [h2, hz]⟩
  unfold State.mxPop
  dsimp only
  split
  · exact main _ (z.mxPull_grows pt)
  · have hfree : (z.free (.mx pt)).tiles = z.tiles := by simp
    exact main _ ⟨(z.free_only _).flights, [], by rw [State.mx_of_tiles hfree pt, List.append_nil]⟩

section
variable {s : State} {pt : Nat}

theorem exec_matrixEntryComplete {w : Word64} {rest : List Word64} (h : (s.mx pt).running = w :: rest) :
    exec (.matrixEntryComplete pt) s = .next ((s.setMx pt { s.mx pt with running := rest }).touch pt .tok) := by
  show execMatrixEntryComplete pt s = _
  unfold execMatrixEntryComplete
  simp only [h]

theorem exec_matrixDrainToken {tok : Token} {rest : List Token} (h : (s.mx pt).out = tok :: rest) (ha : s.active pt = true)
    (hc : s.canEmit pt [0x28] = true) :
    exec (.matrixDrainToken pt) s = .next ((s.setMx pt { s.mx pt with out := rest }).emit pt 0x28 tok) := by
  have hc' : s.canEmit pt [mxOut] = true := hc
  show execMatrixDrainToken pt s = _
  unfold execMatrixDrainToken
  simp only [h, ha, hc', Bool.and_self, if_true]
  rfl

/-- A mark at the head passes; of contexts at most a mark's record of the accumulators differs (R255, R421). -/
theorem matrixMarkPass_ctxs {tok : Token} {rest : List MxEntry} (hq : (s.mx pt).queue = .mark tok :: rest)
    (hr : (s.mx pt).running = []) (ho : (s.mx pt).out = []) (hm : tok.mismatch = false) (ha : s.active pt = true)
    (hc : s.canEmit pt [0x28] = true) : ∃ xs,
    exec (.matrixMarkPass pt) s = .next { (s.emit pt 0x28 tok).mxPop pt with ctxs := xs } := by
  have hc' : s.canEmit pt [mxOut] = true := hc
  show ∃ xs, execMatrixMarkPass pt s = _
  unfold execMatrixMarkPass
  simp only [hq, hr, ho, hm, ha, hc', List.isEmpty_nil, Bool.and_self, Bool.false_eq_true, and_false, if_false, if_true]
  split
  · exact ⟨_, rfl⟩
  · split <;> exact ⟨_, rfl⟩

end

/-! ### An address generator (R193 to R195) -/

theorem State.mu_setMu_eq (s : State) (pt : Nat) (u x : Bool) (m : Mu) :
    (s.setMu pt u m).mu pt x = if x = u then m else s.mu pt x := by
  cases u <;> cases x <;> simp [State.mu, State.setMu]

theorem State.mu_of_tiles {s t : State} (h : t.tiles = s.tiles) (pt : Nat) (u : Bool) : t.mu pt u = s.mu pt u := by
  simp [State.mu, State.tile, h]

theorem State.mu_setAg (s : State) (pt : Nat) (g u : Bool) (a : Ag) : (s.setAg pt g a).mu pt u = s.mu pt u := by
  cases g <;> cases u <;> simp [State.mu, State.setAg]

/-- The memory units that take a generator's token straight hold it. -/
theorem mu_foldl_tuples (pt : Nat) (t : Token) (us : List Bool) (hn : us.Nodup) (s : State) (x : Bool) :
    ((us.foldl (fun s u => s.setMu pt u { s.mu pt u with tuples := (s.mu pt u).tuples ++ [t] }) s).mu pt x).tuples =
      (s.mu pt x).tuples ++ if x ∈ us then [t] else [] := by
  induction us generalizing s with
  | nil => exact (List.append_nil _).symm
  | cons u us ih =>
    obtain ⟨hu, hus⟩ := List.nodup_cons.mp hn
    rw [List.foldl_cons, ih hus, State.mu_setMu_eq]
    by_cases h : x = u
    · subst h
      simp [hu]
    · simp [h]

section
variable {s : State} {pt : Nat} {g : Bool}

/-- A generator without memory units that name it sends its token through the switch. -/
theorem State.agEmit_switch (t : Token) (hu : s.agUsers pt g = []) (hsw : ((s.tile pt).sw.dataOf (agOut g)).isEmpty = false) :
    s.agEmit pt g t = s.emit pt (agOut g) t := by
  unfold State.agEmit
  dsimp only
  rw [if_pos hu, if_neg (by simp [hsw])]

/-- A generator that memory units name passes its token to each of them (R193). -/
theorem State.agEmit_straight (t : Token) (hu : s.agUsers pt g ≠ []) (he : ∀ x ∈ s.agUsers pt g, (s.mu pt x).tuples = []) :
    (s.agEmit pt g t).flights = s.flights ∧ ∀ x ∈ s.agUsers pt g, ((s.agEmit pt g t).mu pt x).tuples = [t] := by
  have hn : (s.agUsers pt g).Nodup := List.Nodup.filter _ (by decide)
  have hfl : ∀ (us : List Bool) (z : State),
      (us.foldl (fun s u => s.setMu pt u { s.mu pt u with tuples := (s.mu pt u).tuples ++ [t] }) z).flights = z.flights :=
    fun us z => List.foldlRecOn (motive := fun y : State => y.flights = z.flights) us _ rfl fun y hy u _ => by
      cases u <;> exact hy
  unfold State.agEmit
  dsimp only
  rw [if_neg hu]
  refine ⟨?_, fun x hx => ?_⟩
  · simpa using hfl _ s
  · rw [State.mu_of_tiles (State.tiles_touch _ pt .tok), mu_foldl_tuples pt t _ hn, he x hx, if_pos hx, List.nil_append]

/-- The head start token of a generator is consumed: its start buffer, its counters, and what stays. -/
theorem State.agNext_leaves (s : State) (pt : Nat) (g : Bool) :
    (s.agNext pt g).ag pt g = { s.ag pt g with start := (s.ag pt g).start.tail, levels := [] } ∧
    (s.agNext pt g).flights = s.flights ∧ ∀ u, (s.agNext pt g).mu pt u = s.mu pt u := by
  let z := (s.setAg pt g { s.ag pt g with start := (s.ag pt g).start.tail, levels := [] }).touch pt .tok
  have ht := State.tiles_touch (s.setAg pt g { s.ag pt g with start := (s.ag pt g).start.tail, levels := [] }) pt .tok
  have hz : z.ag pt g = { s.ag pt g with start := (s.ag pt g).start.tail, levels := [] } ∧ z.flights = s.flights ∧
      ∀ u, z.mu pt u = s.mu pt u := by
    refine ⟨(State.ag_of_tiles ht pt g).trans (State.ag_setAg _ _ _ _), ?_,
      fun u => (State.mu_of_tiles ht pt u).trans (State.mu_setAg _ _ _ _ _)⟩
    simp [z]
  unfold State.agNext
  dsimp only
  split
  · exact hz
  · have hfree : (z.free (.ag pt g)).tiles = z.tiles := by simp
    exact ⟨(State.ag_of_tiles hfree pt g).trans hz.1, ((z.free_only _).flights).trans hz.2.1,
      fun u => (State.mu_of_tiles hfree pt u).trans (hz.2.2 u)⟩

/-- The tuple of a start token and the level counters. -/
def State.agTuple (s : State) (pt : Nat) (g : Bool) (tok : Token) (js : List Nat) : Token :=
  { tupleToken ((s.ag pt g).tuple (elemAt tok.payload 64 0) js) with poison := false }

section
variable {tok : Token} {rest : List Token} (ha : s.active pt = true) (hst : (s.ag pt g).start = tok :: rest)
  (hready : s.agReady pt g = true) (hres : tok.residue = residueOf tok.payload)
include ha hst hready hres

/-- A mark passes a generator (R195). -/
theorem exec_agTupleEmit_mark (hm : tok.isMark = true) :
    exec (.agTupleEmit pt g) s = .next ((s.agEmit pt g tok).agNext pt g) := by
  have hmis : tok.mismatch = false := by simp [Token.mismatch, hres]
  show execAgTupleEmit pt g s = _
  unfold execAgTupleEmit
  simp [hst, ha, hmis, hready, hm]

/-- A start index gives its next tuple, and the counters step (R195). -/
theorem exec_agTupleEmit_data (hm : tok.isMark = false) (hp : tok.poison = false) (hup : s.upset = 0) :
    let js := if (s.ag pt g).levels = [] then List.replicate (s.ag pt g).nlevels 0 else (s.ag pt g).levels
    let z := s.agEmit pt g (s.agTuple pt g tok js)
    (∀ js', nextLevels (s.ag pt g).bound 0 js = some js' →
      exec (.agTupleEmit pt g) s = .next (z.setAg pt g { z.ag pt g with levels := js' })) ∧
    (nextLevels (s.ag pt g).bound 0 js = none → exec (.agTupleEmit pt g) s = .next (z.agNext pt g)) := by
  intro js z
  have hmis : tok.mismatch = false := by simp [Token.mismatch, hres]
  have hcheck : ∀ u r, s.checkedOnce pt u r = (s, false) := fun u r => by simp only [State.checkedOnce, hup]
  refine ⟨fun js' h => ?_, fun h => ?_⟩
  all_goals
    show execAgTupleEmit pt g s = _
    unfold execAgTupleEmit
    simp only [hst, ha, hmis, hready, hm, hp, hcheck, Bool.not_true, Bool.not_false, Bool.and_false, Bool.or_self,
      Bool.false_eq_true, if_false]
    rw [h]
    rfl

end

end

/-- The tuple's coordinates, and the token's COORD, which is the first of them (R195). -/
theorem State.agTuple_coords (s : State) (pt : Nat) (g : Bool) (tok : Token) (js : List Nat) :
    let a := s.ag pt g
    let coord (k : Nat) : BitVec 32 := BitVec.ofInt 32 (a.origin k + elemAt tok.payload 64 0 * a.istep k +
      ((List.range a.nlevels).map fun l => (js.getD l 0 : Int) * a.stepOf l k).sum)
    (0 < a.rank → (s.agTuple pt g tok js).coord = coord 0) ∧
    ∀ k, k < a.rank → elemAt (s.agTuple pt g tok js).payload 32 k = (coord k).toNat := by
  intro a coord
  let cs := a.tuple (elemAt tok.payload 64 0) js
  have hlen : cs.length = a.rank := by simp [cs, Ag.tuple]
  have hrank : a.rank < 8 := Nat.mod_lt _ (by decide)
  have hget : ∀ k, k < a.rank → cs.getD k 0 = (coord k).toNat := fun k hk => by
    have hk' : k < cs.length := by omega
    rw [List.getD_eq_getElem?_getD, List.getElem?_eq_getElem hk', Option.getD_some, ← patternOf_eq_toNat]
    simp [cs, Ag.tuple]
  refine ⟨fun h => ?_, fun k hk => ?_⟩
  · have h0 : cs.headD 0 = cs.getD 0 0 := by cases cs <;> rfl
    show BitVec.ofNat 32 (cs.headD 0) = _
    rw [h0, hget 0 h, BitVec.ofNat_toNat, BitVec.setWidth_eq]
  · show elemAt (payloadOf 32 cs) 32 k = _
    rw [elemAt_payloadOf (by omega), hget k hk, Nat.mod_eq_of_lt (BitVec.isLt _)]

/-- Settles O21: the node's turns by what its queue, its entries and its tokens become, the generator's by where its token goes. -/
theorem nodeAndGeneratorEvents : Obligations.NodeAndGeneratorEvents := by
  intro s pt
  refine ⟨fun w rest h => ?_, fun tok rest h ha hc => ?_, fun tok rest hq hr ho hm ha hc => ?_,
    fun g tok rest ha hst hu he hres hgo => ?_, fun g tok rest ha hst hready hu hsw hres => ⟨fun hm => ?_, fun hm hp hup => ?_⟩⟩
  · have hz := (State.mx_of_tiles (State.tiles_touch (s.setMx pt { s.mx pt with running := rest }) pt .tok) pt).trans
      (s.mx_setMx pt _)
    refine ⟨_, exec_matrixEntryComplete h, ?_, ?_, ?_⟩
    all_goals rw [hz]
  · have hz : ((s.setMx pt { s.mx pt with out := rest }).emit pt 0x28 tok).mx pt = { s.mx pt with out := rest } :=
      (State.mx_of_tiles (by simp) pt).trans (s.mx_setMx pt _)
    exact ⟨_, exec_matrixDrainToken h ha hc, by rw [hz], by simp [State.setMx]⟩
  · obtain ⟨xs, he⟩ := matrixMarkPass_ctxs hq hr ho hm ha hc
    obtain ⟨hf, new, hx⟩ := (s.emit pt 0x28 tok).mxPop_leaves pt
    rw [State.mx_of_tiles (s.emit_frame pt 0x28 tok).2.1 pt] at hx
    refine ⟨_, he, ⟨_, rest, new, hq, ?_⟩, ?_, ?_⟩
    · show (((s.emit pt 0x28 tok).mxPop pt).mx pt).queue = _
      rw [hx, hq]
      rfl
    · show ((s.emit pt 0x28 tok).mxPop pt).flights = _
      rw [hf, State.emit_flights]
    · show (((s.emit pt 0x28 tok).mxPop pt).mx pt).acc = _
      rw [hx]
  · have hready : s.agReady pt g = true := by
      unfold State.agReady
      rw [if_neg hu, List.all_eq_true]
      exact fun x hx => by rw [he x hx]; rfl
    have straight : ∀ t, ((s.agEmit pt g t).agNext pt g).flights = s.flights ∧
        ∀ x ∈ s.agUsers pt g, (((s.agEmit pt g t).agNext pt g).mu pt x).tuples = [t] := fun t => by
      obtain ⟨h1, h2⟩ := State.agEmit_straight t hu he
      obtain ⟨-, k1, k2⟩ := (s.agEmit pt g t).agNext_leaves pt g
      exact ⟨k1.trans h1, fun x hx => by rw [k2, h2 x hx]⟩
    by_cases hm : tok.isMark = true
    · obtain ⟨h1, h2⟩ := straight tok
      exact ⟨_, tok, exec_agTupleEmit_mark ha hst hready hres hm, h1, h2, fun _ => rfl⟩
    · obtain ⟨hp, hup⟩ := hgo.resolve_left hm
      obtain ⟨hsome, hnone⟩ := exec_agTupleEmit_data ha hst hready hres (by simpa using hm) hp hup
      generalize s.agTuple pt g tok _ = out at hsome hnone
      cases hn : nextLevels (s.ag pt g).bound 0
          (if (s.ag pt g).levels = [] then List.replicate (s.ag pt g).nlevels 0 else (s.ag pt g).levels) with
      | none =>
        obtain ⟨h1, h2⟩ := straight out
        exact ⟨_, out, hnone hn, h1, h2, fun h => absurd h hm⟩
      | some js' =>
        obtain ⟨h1, h2⟩ := State.agEmit_straight out hu he
        refine ⟨_, out, hsome js' hn, ?_, fun x hx => ?_, fun h => absurd h hm⟩
        · cases g <;> exact h1
        · rw [State.mu_setAg]
          exact h2 x hx
  · obtain ⟨h1, h2, -⟩ := (s.agEmit pt g tok).agNext_leaves pt g
    rw [State.agEmit_switch tok hu hsw] at h1 h2
    have hag : (s.emit pt (agOut g) tok).ag pt g = s.ag pt g := State.ag_of_tiles (s.emit_frame pt (agOut g) tok).2.1 pt g
    have he := exec_agTupleEmit_mark ha hst hready hres hm
    rw [State.agEmit_switch tok hu hsw] at he
    exact ⟨_, he, by rw [h1, hag, hst]; rfl, by rw [h1], by rw [h2, State.emit_flights]⟩
  · intro a js coord
    obtain ⟨hsome, hnone⟩ := exec_agTupleEmit_data ha hst hready hres hm hp hup
    obtain ⟨hcoord, hpay⟩ := s.agTuple_coords pt g tok js
    have hkind : (s.agTuple pt g tok js).kind = .data := rfl
    generalize hout : s.agTuple pt g tok js = out at hcoord hpay hkind
    have hz : s.agEmit pt g (s.agTuple pt g tok js) = s.emit pt (agOut g) out := by
      rw [hout]
      exact State.agEmit_switch out hu hsw
    have hag : (s.emit pt (agOut g) out).ag pt g = s.ag pt g := State.ag_of_tiles (s.emit_frame pt (agOut g) out).2.1 pt g
    cases hn : nextLevels a.bound 0 js with
    | none =>
      have he := hnone hn
      rw [show s.agEmit pt g _ = s.emit pt (agOut g) out from hz] at he
      obtain ⟨h1, h2, -⟩ := (s.emit pt (agOut g) out).agNext_leaves pt g
      rw [hag] at h1
      refine ⟨_, out, he, by rw [h2, State.emit_flights], hkind, hcoord, hpay, (fun _ h => nomatch h), fun _ => ?_⟩
      rw [h1, hst]
      exact ⟨rfl, rfl⟩
    | some js' =>
      have he := hsome js' hn
      rw [show s.agEmit pt g _ = s.emit pt (agOut g) out from hz, hag] at he
      refine ⟨_, out, he, ?_, hkind, hcoord, hpay, fun js2 h => ?_, (fun h => nomatch h)⟩
      · rw [← State.emit_flights]
        cases g <;> rfl
      · cases h
        rw [State.ag_setAg]
        exact ⟨rfl, rfl⟩

end Sys2Proof.Machine

namespace Sys2Proof.Machine

/-! ## Commands of loops and of pipelines (O34) -/

/-! ### What a wait field that is passed leaves to read -/

/-- Every context in the state past a wait field: at most that its wait is done. -/
theorem State.ctx_pastWait_any (s : State) (c k : Nat) :
    (s.pastWait c).ctx k = { s.ctx k with waitDone := if k = c then true else (s.ctx k).waitDone } := by
  rw [State.ctx_pastWait]
  split
  · next h => rw [h]
  · rfl

section
variable (s : State) (c : Nat)

theorem State.chainHead_pastWait (k : Nat) : (s.pastWait c).chainHead k = s.chainHead k := by
  simp only [State.chainHead, State.ctx_pastWait_any]

theorem State.viewLt_pastWait (k n : Nat) : (s.pastWait c).viewLt k n = s.viewLt k n := by
  simp only [State.viewLt, State.chainHead_pastWait, State.ctx_pastWait_any]
  rfl

theorem State.anchorOf_pastWait (k : Nat) : (s.pastWait c).anchorOf k = s.anchorOf k := by
  simp only [State.anchorOf, State.anchorAt, State.chainHead_pastWait, State.ctx_pastWait_any]
  rfl

theorem State.homeCl_pastWait_any (k : Nat) : (s.pastWait c).homeCl k = s.homeCl k := by
  simp only [State.homeCl, State.ctx_pastWait_any]

theorem State.launchOf_pastWait_any (k : Nat) : (s.pastWait c).launchOf k = s.launchOf k := by
  unfold State.launchOf
  rw [State.ctx_pastWait_any]
  rfl

theorem State.recordLines_pastWait (k lt0 c0 n need : Nat) :
    (s.pastWait c).recordLines k lt0 c0 n need = s.recordLines k lt0 c0 n need := by
  have hp : ∀ cl t, (s.pastWait c).ptile cl t = s.ptile cl t := fun _ _ => rfl
  unfold State.recordLines
  simp only [State.viewLt_pastWait, State.anchorOf_pastWait, State.homeCl_pastWait_any, hp]

theorem State.loopEntry_pastWait (k l : Nat) : (s.pastWait c).loopEntry k l = s.loopEntry k l := by
  unfold State.loopEntry
  rw [State.ctx_pastWait_any]
  rfl

theorem State.loopSlots_pastWait (k l : Nat) : (s.pastWait c).loopSlots k l = s.loopSlots k l := by
  unfold State.loopSlots
  rw [State.loopEntry_pastWait]
  rfl

theorem State.loopOf_pastWait (k l : Nat) : (s.pastWait c).loopOf k l = s.loopOf k l := by
  unfold State.loopOf
  rw [State.ctx_pastWait_any]

theorem State.rotldRead_pastWait (k : Nat) (a b : Word64) : (s.pastWait c).rotldRead k a b = s.rotldRead k a b := by
  have hl : ∀ ls, (s.pastWait c).lineBytes ls = s.lineBytes ls := fun _ => rfl
  have hp : (s.pastWait c).spadPoison = s.spadPoison := rfl
  unfold State.rotldRead
  simp only [State.recordLines_pastWait, hl, hp]

theorem State.rotldTarget_pastWait (k e : Nat) : (s.pastWait c).rotldTarget k e = s.rotldTarget k e := by
  simp only [State.rotldTarget, State.homeCl_pastWait_any, State.ctx_pastWait_any]

theorem State.teamOut_pastWait (e cl k : Nat) : (s.pastWait c).teamOut e cl k = s.teamOut e cl k := by
  have hown : (s.pastWait c).ownsIn e cl k = s.ownsIn e cl k := by
    unfold State.ownsIn
    rw [State.launchOf_pastWait_any]
  unfold State.teamOut
  rw [hown, State.ctx_pastWait_any]
  rfl

theorem State.occ_pastWait (e : Nat) (st : Stage) : (s.pastWait c).occ e st = s.occ e st := by
  unfold State.occ State.semRead
  rw [State.homeCl_pastWait_any, State.teamOut_pastWait]
  rfl

end

/-! ### The course of a command that is issued (R268) -/

section
variable {s : State} {c : Nat} {w : CtlP2} (h : Issues s c w) {d : Cmd} {k : WaitCond} (hpre : d.pre s c = none)
  (hcheck : d.check (s.pastWait c) c = none) (hready : d.ready (s.pastWait c) c = true)
  (hk : d.cond (d.begin (s.pastWait c) c) c = k) (hturn : (d.begin (s.pastWait c) c).condTurn c k = true)
include h hpre hcheck hready hk hturn

theorem runCmd_acts {z : State} {v : Nat} (hm : (d.begin (s.pastWait c) c).condMet c k = some (z, v))
    (hlate : d.late z c = none) : runCmd w d s = d.act z c v := by
  rw [runCmd_of_issues h, hpre]
  exact Cmd.own_issues hcheck hready hk hturn hm hlate

theorem runCmd_waits (hm : (d.begin (s.pastWait c) c).condMet c k = none) :
    runCmd w d s = .next ((d.begin (s.pastWait c) c).waits c k) := by
  rw [runCmd_of_issues h, hpre]
  exact Cmd.own_waits hcheck hready hk hturn hm

end

section
variable {s : State} {c : Nat} {w : CtlP2}

/-! ### ROTSV (R87, R300) -/

/-- A command that holds its sequencer, after an effect `z` that leaves what the hold is made of. -/
theorem holds_of_holdCmd {i : Instr} {z : State} {k : Hold} {P : State → Prop} (he : exec i s = .next (z.holdCmd c w 2 k))
    (hpc : (z.ctx c).pc = (s.ctx c).pc) (hcode : (z.ctx c).code = (s.ctx c).code) (hP : P (z.holdCmd c w 2 k)) :
    Holds i s c w k P := by
  have hx := z.ctx_holdCmd c 2 w k
  refine ⟨_, he, ?_, ?_, ?_, ?_, hP⟩
  all_goals rw [hx]
  · exact hpc
  · unfold signalOf Ctx.info
    rw [hcode, hpc]

theorem State.loopOf_setLoop (z : State) (e l : Nat) (x : LoopSt) : (z.setLoop e l x).loopOf e l = x := by
  unfold State.setLoop State.loopOf
  rw [State.ctx_modCtx, if_pos rfl]
  exact tgetD_tset_self _ _ _ _

theorem holds_rotsv {a : XReg} {imm : BitVec 8} {ls : List Nat} (h : Issues s c w) (hr : isRegionId c = true)
    (he : s.loopEntry c (imm.toNat % 8) ≠ none) (hf : fld ((s.ctx c).getX a) 8 24 = 0)
    (hl : s.recordLines c (fld ((s.ctx c).getX a) 0 8) (fld ((s.ctx c).getX a) 32 32)
      (recordLen (s.loopSlots c (imm.toNat % 8))) 2 = some ls) :
    Holds (.rotsv a imm w) s c w (.rotsv (imm.toNat % 8)) fun t =>
      t.loopOf c (imm.toNat % 8) = { s.loopOf c (imm.toNat % 8) with
        save := some (c, fld ((s.ctx c).getX a) 0 8, fld ((s.ctx c).getX a) 32 32) } ∧ t.tiles = s.tiles := by
  let z := (s.pastWait c).setLoop c (imm.toNat % 8) { s.loopOf c (imm.toNat % 8) with
    save := some (c, fld ((s.ctx c).getX a) 0 8, fld ((s.ctx c).getX a) 32 32) }
  have hz : (z.ctx c).pc = (s.ctx c).pc ∧ (z.ctx c).code = (s.ctx c).code := by
    unfold z State.setLoop
    rw [State.ctx_modCtx, if_pos rfl, State.ctx_pastWait_self]
    exact ⟨rfl, rfl⟩
  have hrun : exec (.rotsv a imm w) s = .next (z.holdCmd c w 2 (.rotsv (imm.toNat % 8))) := by
    show execRotsv a imm w s = _
    unfold execRotsv
    refine Eq.trans (runCmd_acts h (k := .none) (if_pos hr) ?_ rfl rfl rfl rfl rfl) ?_
    · simp only [State.getX_pastWait, State.recordLines_pastWait, State.loopSlots_pastWait, State.loopEntry_pastWait, hf, hl,
        ne_eq, not_true_eq_false, if_false, Option.isSome_iff_ne_none.mpr he, Option.isSome_some, Bool.and_self]
      rfl
    · simp only [State.getX_pastWait, State.recordLines_pastWait, State.loopSlots_pastWait, State.loopOf_pastWait, hf, hl,
        ne_eq, not_true_eq_false, if_false]
      rfl
  refine holds_of_holdCmd hrun hz.1 hz.2 ⟨?_, rfl⟩
  have hloop : (z.holdCmd c w 2 (.rotsv (imm.toNat % 8))).loopOf c (imm.toNat % 8) = z.loopOf c (imm.toNat % 8) := by
    unfold State.loopOf
    rw [State.ctx_holdCmd]
  rw [hloop]
  exact State.loopOf_setLoop _ _ _ _

/-! ### ROTLD (R90, R91, R301) -/

/-- Where the detector is off, ROTLD's reads race with nothing (R435). -/
theorem State.rotldRace_off (z : State) (a b : Word64) (hoff : z.raceOn (z.homeCl c) = false) : z.rotldRace c a b = (z, false) := by
  have lines : ∀ wr lt n ls, z.raceLines c wr lt n ls = (z, false) := fun wr lt n ls => by
    unfold State.raceLines
    refine List.foldlRecOn (motive := fun r => r = (z, false)) _ _ rfl ?_
    rintro _ rfl q _
    simp [State.raceAccess, hoff]
  unfold State.rotldRace
  simp only [lines, Bool.false_eq_true, if_false]

theorem rotld_leaves {a b : XReg} {r : RotRecord} {m : List Byte} (h : Issues s c w)
    (hread : s.rotldRead c ((s.ctx c).getX a) ((s.ctx c).getX b) = some (r, m)) :
    let e := fld ((s.ctx c).getX b) 32 16
    let l := fld ((s.ctx c).getX b) 48 3
    s.rotldTarget c e = true → s.loopEntry e l ≠ none → (s.loopOf e l).takesLoad = true → (s.loopOf e l).saves = false →
    r.fits m (s.loopSlots e l) = true → s.raceOn (s.homeCl c) = false →
    ∃ t, exec (.rotld a b w) s = .next t ∧ (t.ctx c).pc = (s.ctx c).pc + 2 ∧ (t.ctx c).xregs = (s.ctx c).xregs ∧
      t.loopOf e l = (s.loopOf e l).loaded r m (s.loopSlots e l) ∧ t.tiles = s.tiles ∧ SameMemory s t := by
  intro e l htarget hentry htakes hsaves hfits hoff
  let z := (s.pastWait c).setLoop e l ((s.loopOf e l).loaded r m (s.loopSlots e l))
  have hrace := State.rotldRace_off (c := c) (s.pastWait c) ((s.ctx c).getX a) ((s.ctx c).getX b)
    (by rw [State.homeCl_pastWait]; exact hoff)
  have hcheck : (s.rotldTarget c e && (s.loopEntry e l).isSome && (s.loopOf e l).takesLoad &&
      r.fits m (s.loopSlots e l)) = true := by
    rw [htarget, Option.isSome_iff_ne_none.mpr hentry, htakes, hfits]
    rfl
  have hrun : exec (.rotld a b w) s = .next (z.finish c w 2) := by
    show execRotld a b w s = _
    unfold execRotld
    refine Eq.trans (runCmd_acts h (k := .none) rfl ?_ ?_ rfl rfl rfl rfl) ?_
    · simp only [State.getX_pastWait, State.rotldRead_pastWait, State.rotldTarget_pastWait, State.loopEntry_pastWait,
        State.loopOf_pastWait, State.loopSlots_pastWait, hread]
      exact if_pos hcheck
    · simp only [State.getX_pastWait, State.loopOf_pastWait]
      exact congrArg Bool.not hsaves
    · simp only [State.getX_pastWait, State.rotldRead_pastWait, State.loopOf_pastWait, State.loopSlots_pastWait, hread, hrace,
        Bool.false_eq_true, if_false]
      rfl
  have hzc : (z.ctx c).pc = (s.ctx c).pc ∧ (z.ctx c).xregs = (s.ctx c).xregs := by
    unfold z State.setLoop
    rw [State.ctx_modCtx, State.ctx_pastWait_self]
    split
    · next hce =>
      rw [← hce, State.ctx_pastWait_self]
      exact ⟨rfl, rfl⟩
    · exact ⟨rfl, rfl⟩
  have hfin := z.finish_ctx c 2 w
  have hleaves := z.finish_leaves c w 2
  have hloops : ((z.finish c w 2).ctx e).loops = (z.ctx e).loops := by
    by_cases hec : e = c
    · rw [hec]
      obtain ⟨_, _, _, hx⟩ := hfin
      rw [hx]
      rfl
    · rw [z.ctx_finish_ne 2 w hec]
  obtain ⟨_, _, _, hx⟩ := hfin
  refine ⟨_, hrun, ?_, ?_, ?_, hleaves.tiles, hleaves.memory⟩
  · rw [hx]
    exact congrArg (· + 2) hzc.1
  · rw [hx]
    exact hzc.2
  · unfold State.loopOf at hloops ⊢
    rw [hloops]
    exact State.loopOf_setLoop _ _ _ _

end

/-! ### MAPSEL and PIPE (R303) -/

theorem InLaunch.launchOf {s : State} {c l : Nat} {la : Launch} (h : InLaunch s c l la) : s.launchOf c = some (l, la) := by
  unfold State.launchOf
  rw [h.1]
  exact congrArg (Option.map fun x => (l, x)) h.2

theorem InLaunch.stageOf {s : State} {c l : Nat} {la : Launch} (h : InLaunch s c l la) (k : Nat) :
    s.stageOf c k = la.stages[k]? := by
  unfold State.stageOf
  rw [h.launchOf]

theorem State.stageOf_pastWait (s : State) (c k : Nat) : (s.pastWait c).stageOf c k = s.stageOf c k := by
  unfold State.stageOf
  rw [State.launchOf_pastWait]

/-- What MAPSEL waits for (R41, R303). -/
def mapselCond (la : Launch) (st : Stage) (c : Nat) : WaitCond :=
  if la.stageCtx st = c then .idle true else .idleAt (la.stageCtx st)

theorem condTurn_mapselCond (s : State) (c e : Nat) (la : Launch) (st : Stage) : s.condTurn c (mapselCond la st e) = true := by
  unfold mapselCond
  split <;> rfl

/-- MAPSEL's condition is that the stage's region has no step and is quiescent. -/
theorem condMet_mapselCond (s : State) (c : Nat) (la : Launch) (st : Stage) :
    ((s.ctx (la.stageCtx st)).stepOn = false → (s.ctx (la.stageCtx st)).quiet = true →
      s.condMet c (mapselCond la st c) = some (s, 0)) ∧
    ((s.ctx (la.stageCtx st)).stepOn = true ∨ (s.ctx (la.stageCtx st)).quiet = false →
      s.condMet c (mapselCond la st c) = none) := by
  unfold mapselCond
  split
  · next e =>
    rw [e]
    exact ⟨fun h1 h2 => by simp [State.condMet, h1, h2],
      fun h => by rcases h with h | h <;> simp [State.condMet, h]⟩
  · exact ⟨fun h1 h2 => by simp [State.condMet, h1, h2],
      fun h => by rcases h with h | h <;> simp [State.condMet, h]⟩

section
variable {s : State} {c : Nat} {w : CtlP2} (h : Issues s c w) {l : Nat} {la : Launch} (hin : InLaunch s c l la)
include hin

section
variable {a : XReg} {imm : BitVec 8} {st : Stage} (hst : la.stages[((s.ctx c).getX a).toNat]? = some st)
include hst

/-- MAPSEL names a stage of the issuer's launch. -/
theorem mapsel_stage : (s.pastWait c).launchOf c = some (l, la) ∧
    (s.pastWait c).stageOf c (stageNo ((s.ctx c).getX a)) = some st := by
  rw [State.stageOf_pastWait, State.launchOf_pastWait]
  exact ⟨hin.launchOf, (hin.stageOf _).trans hst⟩

include h

theorem holds_mapsel (hk : ((s.ctx c).getX a).toNat < 256) (hi : imm.toNat < st.rungs.length) (ht : st.target = none)
    (hstep : (s.ctx (la.stageCtx st)).stepOn = false) (hq : (s.ctx (la.stageCtx st)).quiet = true) :
    Holds (.mapsel a imm w) s c w (.mapsel ((s.ctx c).getX a).toNat) fun t =>
      (∃ la', tget t.launches l = some la' ∧
        la'.stages[((s.ctx c).getX a).toNat]? = some { st with target := some imm.toNat, soft := true }) ∧
      LeavesRest s t c := by
  let f : Stage → Stage := fun st => { st with target := some imm.toNat, soft := true }
  let z := (s.pastWait c).modStage l ((s.ctx c).getX a).toNat f
  obtain ⟨hlaunch, hstage⟩ := mapsel_stage hin hst
  have hmet := (condMet_mapselCond (s.pastWait c) c la st).1 (by rw [State.ctx_pastWait_any]; exact hstep)
    (by rw [State.ctx_pastWait_any]; exact hq)
  have hno : (s.pastWait c).launchNo c = l := by
    unfold State.launchNo
    rw [State.ctx_pastWait_self]
    exact congrArg (Option.getD · 0) hin.1
  have hrun : exec (.mapsel a imm w) s = .next (z.holdCmd c w 2 (.mapsel ((s.ctx c).getX a).toNat)) := by
    show execMapsel a imm w s = _
    unfold execMapsel
    refine Eq.trans (runCmd_acts h (k := mapselCond la st c) rfl rfl rfl ?_ (condTurn_mapselCond _ _ _ _ _) hmet ?_) ?_
    · simp only [State.getX_pastWait, hlaunch, hstage]
      rfl
    · simp only [hstage, State.getX_pastWait]
      exact if_pos (decide_eq_true (p := _ ∧ _) ⟨hk, hi⟩)
    · simp only [hstage, State.getX_pastWait, ht, Option.isSome_none, Bool.false_eq_true, if_false, hno]
      rfl
  obtain ⟨ls, hz⟩ := (s.pastWait c).modStage_eq l ((s.ctx c).getX a).toNat f
  have hleaves : LeavesRest s z c := (s.pastWait_leaves c).trans (by
    unfold z
    rw [hz]
    exact ⟨rfl, ⟨fun _ => rfl, fun _ => rfl, fun _ => rfl, rfl, rfl, rfl⟩, ⟨rfl, rfl, rfl⟩, fun _ _ => rfl,
      fun _ _ _ _ _ _ => rfl⟩)
  have hzc : z.ctx c = { s.ctx c with waitDone := true } := by
    rw [← State.ctx_pastWait_self]
    unfold z
    rw [hz]
    rfl
  refine holds_of_holdCmd hrun (by rw [hzc]) (by rw [hzc]) ⟨?_, hleaves.trans (z.modCtx_leaves c _)⟩
  exact State.tget_modStage f hin.2 hst

theorem waitsFor_mapsel (hgo : (s.ctx (la.stageCtx st)).stepOn = true ∨ (s.ctx (la.stageCtx st)).quiet = false) :
    WaitsFor (.mapsel a imm w) s c (if la.stageCtx st = c then .idle true else .idleAt (la.stageCtx st)) := by
  obtain ⟨hlaunch, hstage⟩ := mapsel_stage hin hst
  have hmet := (condMet_mapselCond (s.pastWait c) c la st).2 (by rw [State.ctx_pastWait_any]; exact hgo)
  refine ⟨(s.pastWait c).waits c (mapselCond la st c), ?_, ?_, (s.pastWait_leaves c).trans (State.modCtx_leaves _ c _)⟩
  · show execMapsel a imm w s = _
    unfold execMapsel
    refine runCmd_waits h (k := mapselCond la st c) rfl rfl rfl ?_ (condTurn_mapselCond _ _ _ _ _) hmet
    simp only [State.getX_pastWait, hlaunch, hstage]
    rfl
  · refine (State.ctx_modCtx _ c c _).trans ?_
    rw [if_pos rfl]
    exact congrArg (fun x : Ctx => { x with st := .waiting, waitFor := mapselCond la st c }) (s.ctx_pastWait_self c)

end

include h

/-- PIPE reads the state of a declared queue (R303). -/
theorem completesAt_pipe {a d : XReg} {st : Stage} (hst : la.stages[fld ((s.ctx c).getX a) 0 8]? = some st)
    (hcap : st.cap ≠ 0) : CompletesAt (.pipe d a w) s c ((s.ctx c).pc + 2) [(d, BitVec.ofNat 64 (s.occ (la.stageCtx st) st +
      st.cap * 2 ^ 16 + st.cur * 2 ^ 32 + b2n st.wide * 2 ^ 34 + b2n st.narrow * 2 ^ 35))] := by
  have hstage : (s.pastWait c).stageOf c (fld (((s.pastWait c).ctx c).getX a) 0 8) = some st := by
    rw [State.stageOf_pastWait, State.getX_pastWait]
    exact (hin.stageOf _).trans hst
  have hlaunch := (s.launchOf_pastWait c).trans hin.launchOf
  let v : Word64 := BitVec.ofNat 64 (s.occ (la.stageCtx st) st + st.cap * 2 ^ 16 + st.cur * 2 ^ 32 + b2n st.wide * 2 ^ 34 +
    b2n st.narrow * 2 ^ 35)
  have hrun : exec (.pipe d a w) s = .next (((s.pastWait c).modCtx c fun x => x.setX d v).finish c w 2) := by
    show execPipe d a w s = _
    unfold execPipe
    refine Eq.trans (runCmd_acts h (k := .none) rfl ?_ rfl rfl rfl rfl rfl) ?_
    · simp only [hstage]
      exact if_pos (by simpa using hcap)
    · simp only [atIssue, hstage, hlaunch, State.occ_pastWait]
      rfl
  refine completesAt_of_finish hrun ((s.pastWait_leaves c).trans (State.modCtx_leaves _ c _)) ?_ ?_ (fun k => ?_) trivial
  all_goals rw [State.ctx_modCtx, if_pos rfl, State.ctx_pastWait_self]
  · rfl
  · exact h.running
  · exact ((s.ctx c).withX_singleton d k v).symm

end

/-- Settles O34, command by command. -/
theorem rotationAndPipelineCommands : Obligations.RotationAndPipelineCommands := by
  intro s c w d a b imm h x p q
  refine ⟨fun ls hr he hf hl => holds_rotsv h hr he hf hl, fun r m hread => rotld_leaves h hread,
    fun l la st hin hst hk hi ht => ?_, fun l la st hin hst hcap => completesAt_pipe h hin hst hcap⟩
  intro y
  exact ⟨holds_mapsel h hin hst hk hi ht, waitsFor_mapsel h hin hst⟩

end Sys2Proof.Machine


namespace Sys2Proof.Machine

/-! ## A held-back release of a team's member reaches a second group of the team's number (O39) -/

/-- A swapped-out team of number 2, and behind it a swapped-out group of the same number that owns semaphore 3. No run from reset
holds two groups of one number; the statement is about every launch table. -/
def teamAndItsDouble : Launch :=
  { regions := [5], groups := [(2, { use := 4, members := [5], out := true }), (2, { out := true, sems := [3] })] }

/-- The team's member: swapped out with its team, and with a held-back increment of semaphore 3. -/
def swappedWithRelease : Ctx :=
  { st := .suspended, off := true, suspBy := 2, width := 1, height := 1, place := ⟨0, 0, 4⟩, launch := some 0,
    rel := [⟨0, .cluster, .inc 3 1 0⟩] }

/-- The member's image. -/
def swappedImage : Saved :=
  { id := 5, ctx := swappedWithRelease, tiles := [{}], spad := [[]], opnd := [[]], spadPois := [[]], opndPois := [[]],
    flights := [], arriving := [], ctlArr := [], elastic := [], elasticC := [], used := [], returns := [], feature := 0 }

/-- The team stands off the tiles, and its place is free. -/
def teamIsOut : State :=
  { ctxs := [(5, swappedWithRelease)], cycle := 5000, dies := [(0, { up := true, places := true })],
    launches := [(0, teamAndItsDouble)], staged := [(5, swappedImage)] }

/-- Whether a group is swapped out after a step. -/
def outAfter (l g : Nat) (o : Out) : Option Bool :=
  match o with
  | .next t => some (t.group l g).out
  | _ => none

/-- Every member of the team may come back where it stood. -/
theorem teamIsOut_returns (m : Nat) (hm : m ∈ teamAndItsDouble.unitRegions (teamAndItsDouble.swapUnit 2)) :
    ∃ im, teamIsOut.imageOf m = some im ∧ (teamIsOut.ctx m).waitsTiles = true ∧
      teamIsOut.mayStand im.feature (some m) (teamIsOut.ctx m).place (teamIsOut.ctx m).width (teamIsOut.ctx m).height = true ∧
      teamIsOut.crowdOk m (teamIsOut.ctx m).place = true ∧ teamIsOut.firstFor m (teamIsOut.ctx m).rect = true := by
  have e : teamAndItsDouble.unitRegions (teamAndItsDouble.swapUnit 2) = [5] := by decide +kernel
  rw [e, List.mem_singleton] at hm
  subst hm
  exact ⟨swappedImage, by decide +kernel, by decide +kernel, by decide +kernel, by decide +kernel, by decide +kernel⟩

/-- Refutes O39: its last clause says that a team that comes back is swapped out no more, but a member's held-back release takes
effect at the return, and R345 directs it to the swapped-out group that owns its semaphore, whose image is written back under
the group's number: where the launch holds two groups of one number (`teamIsOut`), the team is swapped out again. -/
theorem not_contextsLeaveAndReturn : ¬ Obligations.ContextsLeaveAndReturn := by
  intro h
  obtain ⟨-, teams⟩ := h
  obtain ⟨-, swapIn⟩ := teams teamIsOut 0 2 teamAndItsDouble rfl (by decide +kernel)
  obtain ⟨t, ht, hout, -⟩ := swapIn (by decide +kernel) fun m hm _ => teamIsOut_returns m hm
  have hl : outAfter 0 2 (exec (.teamSwapIn 0 2) teamIsOut) = some true := by decide +kernel
  rw [ht] at hl
  exact Bool.noConfusion (hout.symm.trans (Option.some.inj hl))

end Sys2Proof.Machine

namespace Sys2Proof.Machine

/-! ## The load of a configuration image (O42) -/

variable {s : State} {c : Nat}

/-- A region's context is no supervisor. -/
theorem isSupId_of_isRegionId (h : isRegionId c = true) : isSupId c = false := by
  simp only [isRegionId, isSupId, decide_eq_true_eq, decide_eq_false_iff_not] at h ⊢
  omega

/-! ### A pass over tiles, each named once -/

section TilePass

variable {α : Type} (key : α → Nat) (f : α → Tile → Tile)

/-- One step of a pass over tiles. -/
def State.passTile (s : State) (a : α) : State := s.setTile (key a) (f a (s.tile (key a)))

theorem State.passTiles_ctxs (l : List α) (s : State) : (l.foldl (State.passTile key f) s).ctxs = s.ctxs :=
  List.foldlRecOn (motive := fun t : State => t.ctxs = s.ctxs) l _ rfl fun _ h _ _ => h

theorem State.tile_passTiles_other {pt : Nat} {l : List α} (h : pt ∉ l.map key) (s : State) :
    (l.foldl (State.passTile key f) s).tile pt = s.tile pt := by
  induction l generalizing s with
  | nil => rfl
  | cons b l ih =>
    simp only [List.map_cons, List.mem_cons, not_or] at h
    rw [List.foldl_cons, ih h.2]
    exact s.tile_setTile_ne _ h.1

theorem State.tile_passTiles {a : α} {l : List α} (hn : (l.map key).Nodup) (ha : a ∈ l) (s : State) :
    (l.foldl (State.passTile key f) s).tile (key a) = f a (s.tile (key a)) := by
  induction l generalizing s with
  | nil => cases ha
  | cons b l ih =>
    rw [List.map_cons, List.nodup_cons] at hn
    obtain ⟨hb, hl⟩ := hn
    rw [List.foldl_cons]
    rcases List.mem_cons.1 ha with rfl | ha
    · rw [State.tile_passTiles_other key f hb]
      exact s.tile_setTile _ _
    · rw [ih hl ha]
      have hne : key a ≠ key b := fun e => hb (e ▸ List.mem_map_of_mem ha)
      exact congrArg (f a) (s.tile_setTile_ne _ hne)

end TilePass

/-! ### The tiles of a rectangle -/

/-- The relative positions of a rectangle, by row. -/
def Ctx.spots (x : Ctx) : List (Nat × Nat) := List.range x.height ×ˢ List.range x.width

theorem Ctx.mem_spots {x : Ctx} {tx ty : Nat} : (ty, tx) ∈ x.spots ↔ ty < x.height ∧ tx < x.width := by
  simp [Ctx.spots]

theorem Ctx.tiles_eq_map_spots (x : Ctx) : x.tiles = x.spots.map fun p => x.pt p.2 p.1 := by
  simp only [Ctx.tiles, Ctx.spots, SProd.sprod, List.product, List.map_flatMap, List.map_map, Function.comp_def]

/-- A rectangle that is not wider than a cluster names each of its tiles once. -/
theorem Ctx.tiles_nodup {x : Ctx} (hw : x.width ≤ 8) : (x.spots.map fun p => x.pt p.2 p.1).Nodup := by
  refine List.Nodup.map_on ?_ (List.nodup_range.product List.nodup_range)
  rintro ⟨ty, tx⟩ hp ⟨ty', tx'⟩ hq h
  obtain ⟨-, hx⟩ := Ctx.mem_spots.1 hp
  obtain ⟨-, hx'⟩ := Ctx.mem_spots.1 hq
  simp only [Ctx.pt, ptOf] at h
  have hrow : 8 * ty + tx = 8 * ty' + tx' := by omega
  simp only [Prod.mk.injEq]
  omega

/-! ### What the passes of a load do -/

theorem State.loadFrames_eq (s : State) (c : Nat) (fs : Tbl Frame) : s.loadFrames c fs =
    (s.ctx c).spots.foldl (State.passTile (fun p => (s.ctx c).pt p.2 p.1) fun p t => t.load fs p.2 p.1) s := by
  simp only [State.loadFrames, Ctx.spots, SProd.sprod, List.product, List.foldl_flatMap, List.foldl_map, State.passTile]

theorem State.ctx_loadFrames (s : State) (c e : Nat) (fs : Tbl Frame) : (s.loadFrames c fs).ctx e = s.ctx e := by
  rw [State.loadFrames_eq]
  exact State.ctx_of_ctxs (State.passTiles_ctxs _ _ _ s) e

/-- A tile of the region with its frames. -/
theorem State.tile_loadFrames {tx ty : Nat} (hw : (s.ctx c).width ≤ 8) (hx : tx < (s.ctx c).width) (hy : ty < (s.ctx c).height)
    (fs : Tbl Frame) : (s.loadFrames c fs).tile ((s.ctx c).pt tx ty) = (s.tile ((s.ctx c).pt tx ty)).load fs tx ty := by
  rw [State.loadFrames_eq]
  exact State.tile_passTiles (fun p => (s.ctx c).pt p.2 p.1) (fun p t => t.load fs p.2 p.1) (Ctx.tiles_nodup hw)
    (Ctx.mem_spots.2 ⟨hy, hx⟩) s

/-- A tile after a load that is no rollback. -/
def Tile.fresh (t : Tile) : Tile := { t with cu0 := t.cu0.freshS, cu1 := t.cu1.freshS, mu0 := t.mu0.anew, mu1 := t.mu1.anew }

theorem State.freshUnits_eq (s : State) (c : Nat) :
    s.freshUnits c = (s.ctx c).tiles.foldl (State.passTile id fun _ t => t.fresh) s := rfl

theorem State.ctx_freshUnits (s : State) (c e : Nat) : (s.freshUnits c).ctx e = s.ctx e :=
  State.ctx_of_ctxs (State.passTiles_ctxs id (fun _ t => t.fresh) (s.ctx c).tiles s) e

theorem State.tile_freshUnits {tx ty : Nat} (hw : (s.ctx c).width ≤ 8) (hx : tx < (s.ctx c).width)
    (hy : ty < (s.ctx c).height) : (s.freshUnits c).tile ((s.ctx c).pt tx ty) = (s.tile ((s.ctx c).pt tx ty)).fresh := by
  have hm : (s.ctx c).pt tx ty ∈ (s.ctx c).tiles := by
    rw [Ctx.tiles_eq_map_spots]
    exact List.mem_map.2 ⟨(ty, tx), Ctx.mem_spots.2 ⟨hy, hx⟩, rfl⟩
  have hn : ((s.ctx c).tiles.map id).Nodup := by
    rw [List.map_id, Ctx.tiles_eq_map_spots]
    exact Ctx.tiles_nodup hw
  rw [State.freshUnits_eq]
  exact State.tile_passTiles id (fun _ t => t.fresh) hn hm s

theorem State.dropJoins_ctxs (s : State) (c : Nat) : (s.dropJoins c).ctxs = s.ctxs := by
  unfold State.dropJoins
  refine List.foldlRecOn (motive := fun t : State => t.ctxs = s.ctxs) _ _ rfl fun t ht pt _ => ?_
  refine List.foldlRecOn (motive := fun t : State => t.ctxs = s.ctxs) _ _ ht fun t ht u _ => ?_
  dsimp only
  split
  · exact List.foldlRecOn (motive := fun t : State => t.ctxs = s.ctxs) _ _ ht fun _ h _ _ => h
  · exact ht

/-- Where the frames return to their reset values, the region's context keeps all but its loops. -/
theorem State.ctx_clearFrames (s : State) (c : Nat) : ∃ ls, (s.clearFrames c).ctx c = { s.ctx c with loops := ls } := by
  refine ⟨(s.ctx c).loops.map fun l => (l.1, { stopped := l.2.stopped }), ?_⟩
  unfold State.clearFrames
  rw [State.ctx_modCtx, if_pos rfl, State.ctx_loadFrames, State.ctx_of_ctxs (s.dropJoins_ctxs c)]

/-! ### The end of a load -/

theorem State.stageDone_leaves (s : State) (c : Nat) : (s.stageDone c).ctxs = s.ctxs ∧ (s.stageDone c).tiles = s.tiles := by
  unfold State.stageDone
  split
  · exact ⟨rfl, rfl⟩
  · exact ⟨rfl, rfl⟩

theorem State.stageDrop_leaves (s : State) (c : Nat) : (s.stageDrop c).ctxs = s.ctxs ∧ (s.stageDrop c).tiles = s.tiles := by
  unfold State.stageDrop
  split
  · exact ⟨rfl, rfl⟩
  · exact ⟨rfl, rfl⟩

/-- The region's context when its load ends. -/
def State.loadedCtx (s : State) (c off : Nat) (first : Bool) (y : Ctx) : Ctx :=
  { y with
    st := y.afterLoad first, loading := none, frames := [], image := some off, loops := s.freshLoops c, sinks := s.sinksOf c
    readyAt := s.cycle }

/-- The state when a load that is no rollback has ended, before the command that asked for it completes. -/
def State.loadedUnits (s : State) (c off : Nat) (first : Bool) : State :=
  (((s.modCtx c (s.loadedCtx c off first)).modCtx c (·.touch .tok)).freshUnits c).modCtx c
    fun y => { y with replay := none, marks := [] }

variable {off : Nat} {first : Bool}

theorem State.ctx_modCtx_self (s : State) (c : Nat) (f : Ctx → Ctx) : (s.modCtx c f).ctx c = f (s.ctx c) :=
  s.ctx_setCtx c _

theorem State.ctx_loadedUnits : (s.loadedUnits c off first).ctx c =
    { (s.loadedCtx c off first (s.ctx c)).touch .tok with replay := none, marks := [] } := by
  unfold State.loadedUnits
  rw [State.ctx_modCtx_self, State.ctx_freshUnits, State.ctx_modCtx_self, State.ctx_modCtx_self]

theorem State.tile_loadedUnits {tx ty : Nat} (hw : (s.ctx c).width ≤ 8) (hx : tx < (s.ctx c).width)
    (hy : ty < (s.ctx c).height) :
    (s.loadedUnits c off first).tile ((s.ctx c).pt tx ty) = (s.tile ((s.ctx c).pt tx ty)).fresh := by
  have h := State.tile_freshUnits (s := (s.modCtx c (s.loadedCtx c off first)).modCtx c (·.touch .tok)) (c := c) (tx := tx)
    (ty := ty)
  rw [State.ctx_modCtx_self, State.ctx_modCtx_self] at h
  exact h hw hx hy

theorem State.endLoad_of_load (hr : (s.ctx c).rollback = false) (hh : (s.ctx c).hold = .load) :
    s.endLoad c off first = (s.loadedUnits c off first).complete c := by
  have h1 : (((s.modCtx c (s.loadedCtx c off first)).modCtx c (·.touch .tok)).ctx c).rollback ≠ true := by
    rw [State.ctx_modCtx_self, State.ctx_modCtx_self]
    exact ne_true_of_eq_false hr
  have h2 : ((s.loadedUnits c off first).ctx c).hold = .load := by rw [State.ctx_loadedUnits]; exact hh
  refine Eq.trans (if_neg h1) ?_
  split
  · rfl
  · exact absurd h2 ‹_›

theorem State.endLoad_of_other (hr : (s.ctx c).rollback = false) (hh : (s.ctx c).hold ≠ .load) :
    s.endLoad c off first = ((s.loadedUnits c off first).modCtx c fun y => { y with reassign := false }).stageDone c := by
  have h1 : (((s.modCtx c (s.loadedCtx c off first)).modCtx c (·.touch .tok)).ctx c).rollback ≠ true := by
    rw [State.ctx_modCtx_self, State.ctx_modCtx_self]
    exact ne_true_of_eq_false hr
  have h2 : ((s.loadedUnits c off first).ctx c).hold ≠ .load := by rw [State.ctx_loadedUnits]; exact hh
  refine Eq.trans (if_neg h1) ?_
  split
  · exact absurd ‹_› h2
  · rfl

/-- The end of a load that is no rollback: the state of the region's context, its loops, where its sequencer stands after a
command that held it for the load, and its tiles. -/
theorem State.endLoad_leaves (hr : (s.ctx c).rollback = false) :
    ((s.endLoad c off first).ctx c).st = (s.ctx c).afterLoad first ∧
    ((s.endLoad c off first).ctx c).loops = s.freshLoops c ∧
    ((s.ctx c).hold = .load → ((s.endLoad c off first).ctx c).pc = (s.ctx c).pc + (s.ctx c).holdLen) ∧
    (s.endLoad c off first).tiles = (s.loadedUnits c off first).tiles := by
  by_cases hh : (s.ctx c).hold = .load
  · rw [State.endLoad_of_load hr hh]
    obtain ⟨_, _, _, hy⟩ := (s.loadedUnits c off first).complete_ctx c
    rw [State.ctx_loadedUnits] at hy
    refine ⟨?_, ?_, fun _ => ?_, (State.complete_only _ c).tiles⟩ <;> rw [hy] <;> rfl
  · obtain ⟨hx, ht⟩ := ((s.loadedUnits c off first).modCtx c fun y => { y with reassign := false }).stageDone_leaves c
    rw [State.endLoad_of_other hr hh, State.ctx_of_ctxs hx, State.ctx_modCtx_self, State.ctx_loadedUnits]
    exact ⟨rfl, rfl, fun h => absurd h hh, ht⟩

/-! ### The loops and the units that a load leaves -/

/-- A table made of a list of keys holds, at a key of the list, what its entry says. -/
theorem tget_map_keys {α : Type} (f : Nat → α) (l : List Nat) (k : Nat) :
    tget (l.map fun i => (i, f i)) k = if k ∈ l then some (f k) else none := by
  induction l with
  | nil => rfl
  | cons i l ih =>
    by_cases h : i = k
    · simp [tget, h]
    · simp [tget, h, Ne.symm h, ih]

theorem State.tget_freshLoops {n : Nat} (hn : n < 8) : tget (s.freshLoops c) n =
    if (s.loopEntry c n).isSome then some (LoopSt.reloaded (tget (s.ctx c).loops n) (s.ctx c).stepOn) else none := by
  unfold State.freshLoops
  rw [tget_map_keys]
  simp [hn]

theorem Cu.srst_load (k : Cu) (fs : Tbl Frame) (tx ty unit : Nat) (q : Fin 8) : (k.load fs tx ty unit).srst q =
    let code := fld (frameAt fs tx ty unit 63) (96 + 4 * q.val) 4
    if code < 8 then 0 else BitVec.ofNat 32 (fld (frameAt fs tx ty unit 62) (32 * (code - 8)) 32) := by
  have hc : fld (frameAt fs tx ty unit 63) (96 + 4 * q.val) 4 < 16 := Nat.mod_lt _ (by decide)
  refine if_congr Iff.rfl rfl ?_
  refine (Vector.getElem_ofFn (Fin.is_lt _)).trans ?_
  have hn : (fld (k.load fs tx ty unit).cfg (96 + 4 * q.val) 4 - 8) % 8 =
      fld (frameAt fs tx ty unit 63) (96 + 4 * q.val) 4 - 8 := Nat.mod_eq_of_lt (by show fld (frameAt fs tx ty unit 63) _ 4 - 8 < 8; omega)
  rw [Fin.val_ofNat, hn]

/-- S registers take SRST. -/
theorem Cu.sRegs_freshS (k : Cu) (q : Fin 8) : k.freshS.sRegs[q] = k.srst q := Vector.getElem_ofFn q.is_lt

/-- A compute unit of a loaded region. -/
theorem State.cu_endLoad {tx ty : Nat} (fs : Tbl Frame) (u : Bool) (hr : (s.ctx c).rollback = false)
    (hw : (s.ctx c).width ≤ 8) (hx : tx < (s.ctx c).width) (hy : ty < (s.ctx c).height) :
    ((s.loadFrames c fs).endLoad c off first).cu ((s.ctx c).pt tx ty) u =
      ((s.cu ((s.ctx c).pt tx ty) u).load fs tx ty (cuUnit u)).freshS := by
  have hz := s.ctx_loadFrames c c fs
  obtain ⟨-, -, -, ht⟩ := State.endLoad_leaves (s := s.loadFrames c fs) (c := c) (off := off) (first := first) (by rw [hz, hr])
  have hl := State.tile_loadedUnits (s := s.loadFrames c fs) (c := c) (off := off) (first := first) (tx := tx) (ty := ty)
  rw [hz, State.tile_loadFrames hw hx hy] at hl
  unfold State.cu
  rw [State.tile_congr ht, hl hw hx hy]
  cases u <;> rfl

/-! ### The next record of a load -/

section Record

variable {k l : Nat} {la : Launch}

/-- The state in which a record is taken: before the first one every frame returns to its reset value. -/
def State.atRecord (s : State) (c k : Nat) : State := if k = 0 then s.clearFrames c else s

/-- The region's context there: all but its loops is what it was. -/
theorem State.ctx_atRecord (s : State) (c k : Nat) : ∃ ls, (s.atRecord c k).ctx c = { s.ctx c with loops := ls } := by
  unfold State.atRecord
  split
  · exact s.ctx_clearFrames c
  · exact ⟨_, rfl⟩

theorem State.ctx_faultCtx_loading (hc : isSupId c = false) (hs : (s.ctx c).st = .loading) (fcode tile unit pos : Nat) :
    (s.faultCtx c fcode tile unit pos).ctx c = { s.ctx c with st := .faulted, fcode := fcode, preempt := none } := by
  unfold State.faultCtx
  simp only [hc, hs, Bool.false_eq_true, if_false]
  exact s.ctx_setCtx c _

/-- A refused load: FCODE FRAME, and the tiles as they were. -/
theorem State.refuseLoad_leaves (hr : isRegionId c = true) (hs : (s.ctx c).st = .loading) (k tile unit : Nat) :
    ((s.refuseLoad c k tile unit).ctx c).st = .faulted ∧ ((s.refuseLoad c k tile unit).ctx c).fcode = 0x01 ∧
    (s.refuseLoad c k tile unit).tiles = s.tiles := by
  obtain ⟨hc, ht⟩ := s.stageDrop_leaves c
  have hx : ((s.stageDrop c).ctx c).st = .loading := by rw [State.ctx_of_ctxs hc, hs]
  have hf := State.ctx_faultCtx_loading (isSupId_of_isRegionId hr)
    (s := (s.stageDrop c).modCtx c fun y => { y with loading := none, frames := [], rollback := false, reassign := false })
    (by rw [State.ctx_modCtx_self]; exact hx) fcFrame tile unit (k % 1024)
  refine ⟨congrArg Ctx.st hf, congrArg Ctx.fcode hf, ?_⟩
  exact (CtlOnly.tiles (State.faultCtx_only _ _ _ _ _ _)).trans ht

theorem Ctx.mayLoad_of_loading {x : Ctx} (hs : x.st = .loading) (hp : x.preempt = none) : ¬(!x.mayLoad) = true := by
  simp [Ctx.mayLoad, hs, hp]

variable (h : InLaunch s c l la) (hs : (s.ctx c).st = .loading) (hp : (s.ctx c).preempt = none)
  (hl : (s.ctx c).loading = some (off, k, first))

include h hs hp hl

theorem exec_record_none (hn : recordAt la.cfg off k = none) :
    exec (.imageRecordLoad c) s = .next ((s.atRecord c k).refuseLoad c k (ptTile ((s.ctx c).pt 0 0)) 0) := by
  show execImageRecordLoad c s = _
  unfold execImageRecordLoad
  have hm := Ctx.mayLoad_of_loading hs hp
  simp only [hl, h.launchOf, if_neg hm, hn]
  rfl

variable {a : Word64} {f : Frame} (ha : recordAt la.cfg off k = some (a, f))

include ha

theorem exec_record_bad (hn : a.toNat ≠ 2 ^ 64 - 1) (ho : recordOk (s.ctx c) a f = false) :
    exec (.imageRecordLoad c) s = .next ((s.atRecord c k).refuseLoad c k
      (ptTile ((s.ctx c).pt (fld a 59 5) (fld a 54 5))) (fld a 51 3)) := by
  show execImageRecordLoad c s = _
  unfold execImageRecordLoad
  have hm := Ctx.mayLoad_of_loading hs hp
  simp only [hl, h.launchOf, if_neg hm, ha, if_neg hn, ho, Bool.false_eq_true, if_false]
  rfl

theorem exec_record_ok (hn : a.toNat ≠ 2 ^ 64 - 1) (ho : recordOk (s.ctx c) a f = true) :
    exec (.imageRecordLoad c) s = .next ((s.atRecord c k).modCtx c fun x => { x with
      frames := tset x.frames (frameKey (fld a 59 5) (fld a 54 5) (fld a 51 3) (fld a 43 6)) f
      loading := some (off, k + 1, first) }) := by
  show execImageRecordLoad c s = _
  unfold execImageRecordLoad
  have hm := Ctx.mayLoad_of_loading hs hp
  simp only [hl, h.launchOf, if_neg hm, ha, if_neg hn, if_pos ho]
  rfl

theorem exec_record_end (hn : a.toNat = 2 ^ 64 - 1)
    (hb : lowestUnit (((s.atRecord c k).loadFrames c (s.ctx c).frames).crossBad c) = none) :
    exec (.imageRecordLoad c) s = .next (((s.atRecord c k).loadFrames c (s.ctx c).frames).endLoad c off first) := by
  show execImageRecordLoad c s = _
  unfold execImageRecordLoad
  have hm := Ctx.mayLoad_of_loading hs hp
  simp only [hl, h.launchOf, if_neg hm, ha, if_pos hn]
  unfold State.atRecord at hb ⊢
  rw [hb]

end Record

/-- Settles O42: the steps that take a record (`exec_record_none`, `exec_record_bad`, `exec_record_ok` and `exec_record_end`), and
what a refused load and the end of a load leave. -/
theorem imageLoads : Obligations.ImageLoads := by
  unfold Obligations.ImageLoads
  intro s c off k l first la h hr hs hp hl x b refused
  obtain ⟨ls, hb⟩ := s.ctx_atRecord c k
  have hbs : ((s.atRecord c k).ctx c).st = .loading := by rw [hb]; exact hs
  refine ⟨fun hn => ?_, fun a f ha => ⟨fun hn ho => ?_, fun hn ho => ?_, fun hn hx hro hw => ?_⟩⟩
  · exact ⟨_, exec_record_none h hs hp hl hn, State.refuseLoad_leaves hr hbs _ _ _⟩
  · exact ⟨_, exec_record_bad h hs hp hl ha hn ho, State.refuseLoad_leaves hr hbs _ _ _⟩
  · refine ⟨_, exec_record_ok h hs hp hl ha hn ho, ?_⟩
    rw [State.ctx_modCtx_self]
    exact ⟨rfl, hbs, rfl, tget_tset_self _ _ _⟩
  · have hz : ((s.atRecord c k).loadFrames c x.frames).ctx c = { x with loops := ls } := by rw [State.ctx_loadFrames, hb]
    obtain ⟨hst, hloops, hpc, -⟩ := State.endLoad_leaves (s := (s.atRecord c k).loadFrames c x.frames) (c := c) (off := off)
      (first := first) (by rw [hz]; exact hro)
    rw [hz] at hst hpc
    replace hst := hst.trans (if_neg (not_not_intro hs))
    refine ⟨_, exec_record_end h hs hp hl ha hn hx, fun hf => ?_, fun hf hh => ⟨?_, hpc hh⟩, fun n hn => ?_, ?_⟩
    · exact hst.trans (if_pos hf)
    · exact hst.trans (if_neg (ne_true_of_eq_false hf))
    · have hstep : ((s.atRecord c k).ctx c).stepOn = x.stepOn := by rw [hb]
      rw [hloops, State.tget_freshLoops hn, State.ctx_loadFrames, hstep]
      rfl
    · intro tx ty hx hy u
      have hu := State.cu_endLoad (s := s.atRecord c k) (c := c) (off := off) (first := first) (tx := tx) (ty := ty) x.frames u
      rw [hb] at hu
      rw [show State.cu _ (x.pt tx ty) u = _ from hu hro hw hx hy]
      exact ⟨fun q => (Cu.sRegs_freshS _ q).trans (Cu.srst_load _ _ tx ty _ q), rfl, rfl, rfl, rfl⟩

end Sys2Proof.Machine

namespace Sys2Proof.Machine

/-! ## Operations of a copy engine (O43) -/

variable {s t : State} {c n : Nat} {o : EngOp}

/-! ### What a move reads and writes -/

/-- Memory, scratchpads and operand slots hold the same bytes. -/
def SameData (s t : State) : Prop := t.mem = s.mem ∧ t.spad = s.spad ∧ t.opnd = s.opnd

theorem State.llcFill_eq (s : State) (g : Nat) (wr : Bool) : ∃ lc, s.llcFill g wr = { s with llc := lc } := by
  unfold State.llcFill
  split
  · exact ⟨_, rfl⟩
  · split <;> exact ⟨_, rfl⟩

theorem State.llcRead_eq (s : State) (ps : List Spot) : ∃ lc, s.llcRead ps = { s with llc := lc } := by
  refine List.foldlRecOn (motive := fun t : State => ∃ lc, t = { s with llc := lc }) _ _ ⟨_, rfl⟩ ?_
  rintro _ ⟨lc, rfl⟩ p -
  cases p with
  | phys b f q tr => exact State.llcFill_eq _ _ _
  | _ => exact ⟨lc, rfl⟩

theorem State.rawLoad_data (h : SameData s t) (w w' : Who) (width : Nat) (p : Spot) :
    (t.rawLoad w' width p true).1 = (s.rawLoad w width p true).1 := by
  obtain ⟨hm, hs, ho⟩ := h
  cases p <;> simp [State.rawLoad, hm, hs, ho]

theorem State.l1Write_eq (s : State) (w : Who) (b width v : Nat) (tr p : Bool) :
    ∃ ls, s.l1Write w b width v tr p = { s with l1 := ls } := by
  unfold State.l1Write
  split <;> exact ⟨_, rfl⟩

/-- A store to memory: its bits, its mark, and the copies in the caches. -/
theorem State.rawStore_phys (s : State) (w : Who) (width v : Nat) (p : Bool) (b : Nat) (f : Fmt) (q : Nat) (tr : Bool) :
    ∃ mp lc ls, s.rawStore w width v p (.phys b f q tr) =
      { s with mem := memPutBits s.mem b width v, memPoison := mp, llc := lc, l1 := ls } := by
  unfold State.rawStore
  dsimp only
  generalize (if p then markAdd s.memPoison (b / 384) else s.memPoison) = mp
  obtain ⟨lc, e⟩ := State.llcFill_eq { s with mem := memPutBits s.mem b width v, memPoison := mp } (b / 384) true
  obtain ⟨ls, e'⟩ := State.l1Write_eq { s with mem := memPutBits s.mem b width v, memPoison := mp, llc := lc } w b width v tr p
  exact ⟨mp, lc, ls, by rw [e, e']⟩

theorem State.rawStore_data (h : SameData s t) (w w' : Who) (width v : Nat) (b b' : Bool) (p : Spot) :
    SameData (s.rawStore w width v b p) (t.rawStore w' width v b' p) := by
  obtain ⟨hm, hs, ho⟩ := h
  cases p with
  | phys k f q tr =>
    obtain ⟨_, _, _, e⟩ := s.rawStore_phys w width v b k f q tr
    obtain ⟨_, _, _, e'⟩ := t.rawStore_phys w' width v b' k f q tr
    rw [e, e']
    exact ⟨congrArg (memPutBits · k width v) hm, hs, ho⟩
  | spad pt k => exact ⟨hm, congrArg (memPutBits · (spadKey pt 0 * 8 + k) width v) hs, ho⟩
  | slot pt i k => exact ⟨hm, hs, congrArg (memPutBits · (opndKey pt i 0 * 8 + k) width v) ho⟩
  | nowhere => exact ⟨hm, hs, ho⟩
  | virt k => exact ⟨hm, hs, ho⟩

theorem State.rawStore_ctxs (s : State) (w : Who) (width v : Nat) (b : Bool) (p : Spot) :
    (s.rawStore w width v b p).ctxs = s.ctxs := by
  cases p with
  | phys k f q tr =>
    obtain ⟨_, _, _, e⟩ := s.rawStore_phys w width v b k f q tr
    rw [e]
  | _ => rfl

theorem State.scalePut_eq (s : State) (a : Nat) (v : Byte) (p : Bool) :
    ∃ mp lc, s.scalePut a v p = { s with mem := memSet s.mem a v, memPoison := mp, llc := lc } := by
  unfold State.scalePut
  generalize (if p then markAdd s.memPoison (a / 48) else s.memPoison) = mp
  obtain ⟨lc, e⟩ := State.llcFill_eq { s with mem := memSet s.mem a v, memPoison := mp } (a / 48) true
  exact ⟨mp, lc, e⟩

/-- A scale is read in memory, through its LLC slice. -/
theorem State.scaleOf_data (h : SameData s t) (p : Option Spot) : (t.scaleOf p).1 = (s.scaleOf p).1 := by
  obtain ⟨hm, -, -⟩ := h
  unfold State.scaleOf
  split
  · simp only [State.scaleRead, hm]
  · rfl

theorem State.scaleOf_eq (s : State) (p : Option Spot) : ∃ lc, (s.scaleOf p).2.2 = { s with llc := lc } := by
  unfold State.scaleOf
  split
  · exact s.llcFill_eq _ _
  · exact ⟨_, rfl⟩

theorem State.moveValue_data (h : SameData s t) (eng : Nat) (fs : Option Fmt) (fd : Fmt) (src : Option Spot) :
    (t.moveValue eng o fs fd src).1 = (s.moveValue eng o fs fd src).1 := by
  unfold State.moveValue
  split
  · split
    · rfl
    · exact congrArg (convertPlain _ fd) (State.rawLoad_data h _ _ _ _)
  · rfl

/-- The element of a move. -/
def State.moveElem (s : State) (eng : Nat) (o : EngOp) (fs : Option Fmt) (fd : Fmt) (b : Bool) (m : Move) : State :=
  let v := s.moveValue eng o fs fd m.src
  (s.llcRead m.src.toList).rawStore (s.engWho eng) (fmtWidth fd) v.1 (v.2 || b) m.dst

/-- The scale that goes with a block's first element. -/
def State.moveScale (s : State) (a : Nat) (b : Bool) (m : Move) : State :=
  let r := s.scaleOf m.src
  r.2.2.scalePut a r.1 (r.2.1 || b)

/-- A move moves its element, and then a scale or nothing. -/
theorem State.doMove_cases (eng : Nat) (o : EngOp) (fs : Option Fmt) (fd : Fmt) (b : Bool) (m : Move) :
    (∀ s : State, s.doMove eng o fs fd b m = s.moveElem eng o fs fd b m) ∨
    ∃ a, ∀ s : State, s.doMove eng o fs fd b m = (s.moveElem eng o fs fd b m).moveScale a b m := by
  rcases hb : m.blk with _ | k
  · exact .inl fun s => by simp only [State.doMove, hb]; rfl
  · cases hd : m.dst with
    | phys i f a tr => exact .inr ⟨a, fun s => by simp only [State.doMove, hb, hd, State.moveElem, State.moveScale]⟩
    | _ => exact .inl fun s => by simp only [State.doMove, hb, hd, State.moveElem]

theorem State.moveElem_data (h : SameData s t) (eng : Nat) (fs : Option Fmt) (fd : Fmt) (b : Bool) (m : Move) :
    SameData (s.moveElem eng o fs fd b m) (t.moveElem eng o fs fd b m) := by
  unfold State.moveElem
  obtain ⟨_, e⟩ := s.llcRead_eq m.src.toList
  obtain ⟨_, e'⟩ := t.llcRead_eq m.src.toList
  dsimp only
  rw [State.moveValue_data h, e, e']
  exact State.rawStore_data (by exact h) _ _ _ _ _ _ _

theorem State.moveScale_data (h : SameData s t) (a : Nat) (b : Bool) (m : Move) :
    SameData (s.moveScale a b m) (t.moveScale a b m) := by
  unfold State.moveScale
  dsimp only
  obtain ⟨_, e⟩ := s.scaleOf_eq m.src
  obtain ⟨_, e'⟩ := t.scaleOf_eq m.src
  rw [State.scaleOf_data h, e, e']
  obtain ⟨_, _, p⟩ := State.scalePut_eq { s with llc := _ } a (s.scaleOf m.src).1 ((s.scaleOf m.src).2.1 || b)
  obtain ⟨_, _, p'⟩ := State.scalePut_eq { t with llc := _ } a (s.scaleOf m.src).1 ((t.scaleOf m.src).2.1 || b)
  rw [p, p']
  obtain ⟨hm, hs, ho⟩ := h
  exact ⟨congrArg (memSet · a (s.scaleOf m.src).1) hm, hs, ho⟩

theorem State.moveScale_ctxs (s : State) (a : Nat) (b : Bool) (m : Move) : (s.moveScale a b m).ctxs = s.ctxs := by
  obtain ⟨_, e⟩ := s.scaleOf_eq m.src
  obtain ⟨_, _, p⟩ := State.scalePut_eq { s with llc := _ } a (s.scaleOf m.src).1 ((s.scaleOf m.src).2.1 || b)
  unfold State.moveScale
  dsimp only
  rw [e, p]

theorem State.doMove_data (h : SameData s t) (eng : Nat) (fs : Option Fmt) (fd : Fmt) (b : Bool) (m : Move) :
    SameData (s.doMove eng o fs fd b m) (t.doMove eng o fs fd b m) := by
  rcases State.doMove_cases eng o fs fd b m with e | ⟨a, e⟩
  · rw [e, e]
    exact State.moveElem_data h eng fs fd b m
  · rw [e, e]
    exact State.moveScale_data (State.moveElem_data h eng fs fd b m) a b m

theorem State.doMove_ctxs (s : State) (eng : Nat) (fs : Option Fmt) (fd : Fmt) (b : Bool) (m : Move) :
    (s.doMove eng o fs fd b m).ctxs = s.ctxs := by
  have he : (s.moveElem eng o fs fd b m).ctxs = s.ctxs := by
    obtain ⟨_, e⟩ := s.llcRead_eq m.src.toList
    unfold State.moveElem
    rw [State.rawStore_ctxs, e]
  rcases State.doMove_cases eng o fs fd b m with e | ⟨a, e⟩
  · rw [e, he]
  · rw [e, State.moveScale_ctxs, he]

theorem State.doMoves_data (h : SameData s t) (eng : Nat) (fs : Option Fmt) (fd : Fmt) (b : Bool) (ms : List Move) :
    SameData (ms.foldl (fun s m => s.doMove eng o fs fd b m) s) (ms.foldl (fun s m => s.doMove eng o fs fd b m) t) := by
  induction ms generalizing s t with
  | nil => exact h
  | cons m ms ih => exact ih (State.doMove_data h eng fs fd b m)

/-! ### The next sector of a copy -/

theorem State.raceSpots_off {cl : Nat} (h : s.raceOn cl = false) (a : Nat) (wr : Bool) (lt : List Word64) (w : Nat)
    (ps : List Spot) : s.raceSpots a cl wr lt w ps = (s, false) := by
  refine List.foldlRecOn (motive := fun r => r = (s, false)) _ _ rfl ?_
  rintro _ rfl p -
  simp [State.raceAccess, h]

theorem State.raceMoves_off (h : s.raceOn (s.homeCl c) = false) (fs : Option Fmt) (fd : Fmt) (ms : List Move) :
    s.raceMoves c o fs fd ms = (s, false) := by
  refine List.foldlRecOn (motive := fun r => r = (s, false)) _ _ rfl ?_
  rintro _ rfl m -
  simp [State.raceSpots_off h]

theorem State.raceIndex_off (h : s.raceOn (s.homeCl c) = false) : ∃ lc, s.raceIndex c o = ({ s with llc := lc }, false) := by
  unfold State.raceIndex
  split
  · exact ⟨_, rfl⟩
  · split
    · next qs _ =>
      obtain ⟨lc, e⟩ := s.llcRead_eq (qs.filterMap (·.2))
      refine ⟨lc, ?_⟩
      dsimp only
      rw [e]
      exact State.raceSpots_off (s := { s with llc := lc }) h _ _ _ _ _
    · exact ⟨_, rfl⟩

theorem State.banksGone_eq (s : State) (eng : Nat) (o : EngOp) (pas : List Nat) :
    ∃ cd, s.banksGone eng o pas false = { s with cooldown := cd } := by
  have hr : s.rowAct (s.engWho eng) pas.head? false = s := by
    unfold State.rowAct
    split
    · rfl
    · rfl
  unfold State.banksGone State.bankGone
  rw [hr]
  split <;> exact ⟨_, rfl⟩

/-- A sector whose access meets no error, no race and no broken link: its moves are performed, and no context changes. -/
theorem State.doSector_moves {fs : Option Fmt} {fd : Fmt} {ms : List Move} (hf : s.moveFault c o ms = none) (hu : s.upset = 0)
    (hr : s.raceOn (s.homeCl c) = false) :
    (s.doSector c o fs fd ms ⟨.ok, false⟩).ctxs = s.ctxs ∧
    SameData (ms.foldl (fun s m => s.doMove c o fs fd false m) s) (s.doSector c o fs fd ms ⟨.ok, false⟩) := by
  obtain ⟨lc, hi⟩ := s.raceIndex_off (o := o) hr
  let z : State := { s with llc := lc }
  have hz : z.raceMoves c o fs fd ms = (z, false) := State.raceMoves_off (s := z) hr fs fd ms
  have hk : ∀ p, z.engUpset c 12 o.issuer p = (z, false) := fun p => by
    unfold State.engUpset
    simp only [show z.upset = 0 from hu]
  let u : State := ms.foldl (fun s m => s.doMove c o fs fd false m) z
  have hux : u.ctxs = s.ctxs := List.foldlRecOn (motive := fun t : State => t.ctxs = s.ctxs) _ _ rfl
    fun t ht m _ => (t.doMove_ctxs c fs fd false m).trans ht
  have hud : SameData (ms.foldl (fun s m => s.doMove c o fs fd false m) s) u :=
    State.doMoves_data (s := s) (t := z) ⟨rfl, rfl, rfl⟩ c fs fd false ms
  have he : ∃ (b : Bool) (pas : List Nat), s.doSector c o fs fd ms ⟨.ok, false⟩ =
      (if b then u else u.clearMoves c fd ms).banksGone c o pas false := by
    unfold State.doSector
    simp only [hf, hi, Bool.false_eq_true, if_false]
    rw [hz]
    simp only [Bool.false_eq_true, if_false, State.eccAt, hk]
    exact ⟨_, _, rfl⟩
  obtain ⟨b, pas, he⟩ := he
  obtain ⟨cd, hg⟩ := State.banksGone_eq (if b then u else u.clearMoves c fd ms) c o pas
  rw [he, hg]
  cases b
  · exact ⟨hux, hud⟩
  · exact ⟨hux, hud⟩

/-- An operation that a context holds has the number by which it is found. -/
theorem State.num_of_opOf (h : s.opOf c n = some o) : o.num = n := by
  have := List.find?_some h
  simpa using this

/-- An operation replaced is the one that its number names. -/
theorem State.opOf_setOp {o' : EngOp} (h : s.opOf c n = some o) (hn : o'.num = n) : (s.setOp c o').opOf c n = some o' := by
  have hx : (s.setOp c o').ctx c = { s.ctx c with ops := (s.ctx c).ops.map fun y => if y.num = o'.num then o' else y } :=
    s.ctx_setCtx c _
  unfold State.opOf at h ⊢
  have hp : ((fun q : EngOp => q.num == n) ∘ fun y => if y.num = o'.num then o' else y) = fun y => y.num == n := by
    funext y
    show ((if y.num = o'.num then o' else y).num == n) = _
    split
    · next hy => rw [hy]
    · rfl
  rw [hx, List.find?_map, hp, h, hn]
  exact congrArg some (if_pos (State.num_of_opOf h))

theorem EngOp.warm_num (o : EngOp) (k : Nat) : (o.warm k).num = o.num := by
  unfold EngOp.warm
  split <;> rfl

/-- The next sector of a copy that no claim names, with nothing in its way. -/
theorem exec_copySectorWrite {fs : Option Fmt} {fd : Fmt} {all ms : List Move} {k : Nat} (ho : s.opOf c n = some o)
    (hd : o.done = false) (hf : o.failed = false) (hw : o.whole = false) (hp : o.parked = none) (hfn : o.fn < 4)
    (hcl : dClaimv o.desc = false) (haw : s.opAway o = false) (hwt : s.opWaits c o = false)
    (hplan : s.copyPlan c o = .ok (fs, fd, all)) (hu : s.upset = 0) (hk : (sectorsOf all)[o.written]? = some k)
    (hms : s.moveSpots c o fs fd (all.filter fun m => m.dst.sector == k) = .ok ms)
    (hb : s.banksTurn c o (moveSpotsOf ms) = true) (hmf : s.moveFault c o ms = none)
    (hr : s.raceOn (s.homeCl c) = false) :
    exec (.copySectorWrite c n ⟨.ok, false⟩) s = .next ((s.doSector c o fs fd ms ⟨.ok, false⟩).setOp c
      { o.warm s.cycle with written := o.written + 1, whole := decide (o.written + 1 = (sectorsOf all).length) }) := by
  have hs1 : (s.doSector c o fs fd ms ⟨.ok, false⟩).opOf c o.num = some o := by
    unfold State.opOf
    rw [State.ctx_of_ctxs (State.doSector_moves hmf hu hr).1, State.num_of_opOf ho]
    exact ho
  have hgo : ¬(o.done = true ∨ o.failed = true ∨ o.whole = true ∨ o.parked.isSome = true ∨ o.fn ≥ 16 ∨ s.opAway o = true) := by
    simp [hd, hf, hw, hp, haw]
    omega
  have hsc : s.moveSpots c o fs fd [] = .ok [] := rfl
  show execCopySectorWrite c n ⟨.ok, false⟩ s = _
  unfold execCopySectorWrite
  simp only [ho, if_neg hgo, if_neg (show ¬o.fn = 4 by omega)]
  unfold State.copySector
  simp only [hwt, hcl, hplan, hk, hms, hsc, hb, hs1, hf, Bool.false_eq_true, false_and, if_false, Bool.not_true]

/-! ### Completion -/

theorem foldl_min_le {α : Type} (f : α → Nat) (l : List α) (a : Nat) : l.foldl (fun a p => Nat.min a (f p)) a ≤ a := by
  induction l generalizing a with
  | nil => exact Nat.le_refl _
  | cons q l ih => exact (ih _).trans (Nat.min_le_left _ _)

/-- The least of a list of numbers and a bound: no more than each, and one of them or the bound. -/
theorem foldl_min_spec {α : Type} (f : α → Nat) (l : List α) (a : Nat) :
    (∀ p ∈ l, l.foldl (fun a p => Nat.min a (f p)) a ≤ f p) ∧
    (l.foldl (fun a p => Nat.min a (f p)) a = a ∨ ∃ p ∈ l, l.foldl (fun a p => Nat.min a (f p)) a = f p) := by
  induction l generalizing a with
  | nil => exact ⟨by simp, .inl rfl⟩
  | cons q l ih =>
    obtain ⟨hle, hat⟩ := ih (Nat.min a (f q))
    simp only [List.foldl_cons, List.mem_cons, forall_eq_or_imp, exists_eq_or_imp]
    have hq : l.foldl (fun a p => Nat.min a (f p)) (Nat.min a (f q)) ≤ Nat.min a (f q) := foldl_min_le f l _
    refine ⟨⟨hq.trans (Nat.min_le_right _ _), hle⟩, ?_⟩
    rcases hat with e | e
    · rcases Nat.le_total a (f q) with h | h
      · exact .inl (e.trans (Nat.min_eq_left h))
      · exact .inr (.inl (e.trans (Nat.min_eq_right h)))
    · exact .inr (.inr e)

/-- The timeline stands before every operation that has not completed, and at the last accepted or right before one of them. -/
theorem Ctx.engTimeline_spec (x : Ctx) :
    (∀ p ∈ x.ops, p.done = false → x.opBase < p.num → x.opBase + x.engTimeline < p.num) ∧
    (x.engTimeline = x.accepted - x.opBase ∨ ∃ p ∈ x.ops, p.done = false ∧ p.num = x.opBase + x.engTimeline + 1) := by
  obtain ⟨hle, hat⟩ := foldl_min_spec (fun o : EngOp => o.num - 1 - x.opBase)
    (x.ops.filter fun o => !o.done && decide (x.opBase < o.num)) (x.accepted - x.opBase)
  refine ⟨fun p hp hd hb => ?_, hat.imp id ?_⟩
  · have h := hle p (List.mem_filter.2 ⟨hp, by simp [hd, hb]⟩)
    unfold Ctx.engTimeline
    omega
  · rintro ⟨p, hp, he⟩
    obtain ⟨hm, hq⟩ := List.mem_filter.1 hp
    simp only [Bool.and_eq_true, Bool.not_eq_true', decide_eq_true_eq] at hq
    refine ⟨p, hm, hq.1, ?_⟩
    unfold Ctx.engTimeline
    omega

/-- A context without an operation, and with the timeline that it then has. -/
def Ctx.opGone (x : Ctx) (n : Nat) : Ctx :=
  let y := { x with ops := x.ops.filter fun o => o.num != n }
  { y with timeline := y.engTimeline }

/-- The counters that are raised leave operations and timelines. -/
theorem State.touchAll_ops (l : List Nat) (k : Ctr) (s : State) (e : Nat) :
    let t := l.foldl (fun s r => s.modCtx r (·.touch k)) s
    (t.ctx e).ops = (s.ctx e).ops ∧ (t.ctx e).timeline = (s.ctx e).timeline := by
  refine List.foldlRecOn (motive := fun t : State => (t.ctx e).ops = (s.ctx e).ops ∧ (t.ctx e).timeline = (s.ctx e).timeline)
    _ _ ⟨rfl, rfl⟩ fun t ht r _ => ?_
  rw [State.ctx_modCtx]
  split
  · next h => subst h; exact ht
  · exact ht

theorem State.touchAll_only (l : List Nat) (k : Ctr) (s : State) : CtlOnly s (l.foldl (fun s r => s.modCtx r (·.touch k)) s) :=
  .fold (fun z r => z.setCtx_only r _) l s

/-- What a change of contexts and of synchronisation leaves. -/
theorem CtlOnly.sameMemory (h : CtlOnly s t) : SameMemory s t := by
  obtain ⟨_, _, _, _, _, _, rfl⟩ := h
  exact ⟨fun _ => rfl, fun _ => rfl, fun _ => rfl, rfl, rfl, rfl⟩

/-- The signal of an operation of an engine context, which goes to a cluster in its issuer's name. -/
def State.opSignal (s : State) (c cl : Nat) (o : EngOp) : State :=
  if o.signal.inc = 0 then s
  else (s.raceRelease c (objSem cl o.signal.sem)).semInc o.issuer cl o.signal.sem o.signal.inc o.signal.info

theorem State.opSignal_only (s : State) (c cl : Nat) (o : EngOp) : CtlOnly s (s.opSignal c cl o) := by
  unfold State.opSignal
  split
  · exact .refl
  · exact (State.raceRelease_only s _ _).ctl.trans (State.semInc_only _ _ _ _ _ _)

theorem State.opSignal_ops (s : State) (c cl : Nat) (o : EngOp) (e : Nat) :
    ((s.opSignal c cl o).ctx e).ops = (s.ctx e).ops ∧ ((s.opSignal c cl o).ctx e).timeline = (s.ctx e).timeline := by
  unfold State.opSignal
  split
  · exact ⟨rfl, rfl⟩
  · have hr := State.ctx_of_ctxs (State.raceRelease_only s c (objSem cl o.signal.sem)).ctxs
    obtain ⟨hne, hself⟩ := (s.raceRelease c (objSem cl o.signal.sem)).ctx_semInc o.issuer cl o.signal.sem o.signal.inc
      o.signal.info
    by_cases he : e = o.issuer
    · subst he
      obtain ⟨_, _, _, hx⟩ := hself
      rw [hx, hr]
      exact ⟨rfl, rfl⟩
    · rw [hne e he, hr]
      exact ⟨rfl, rfl⟩

theorem copyOperationComplete_leaves (ho : s.opOf c n = some o) (hd : o.done = false) (hf : o.failed = false)
    (hw : o.whole = true) : ∃ t, exec (.copyOperationComplete c n) s = .next t ∧
      (t.ctx c).ops = ((s.ctx c).opGone n).ops ∧ (t.ctx c).timeline = ((s.ctx c).opGone n).timeline ∧ SameMemory s t := by
  let s1 := s.raceRelease c (objTimeline c)
  let s2 := s1.modCtx c (·.opGone n)
  let s3 := o.raised.foldl (fun s r => s.modCtx r (·.touch .eng)) s2
  let s4 := s3.opSignal c (s.homeCl o.issuer) o
  have h1 : SyncOnly s s1 := State.raceRelease_only s c _
  have h2 : s2.ctx c = (s.ctx c).opGone n := (s1.ctx_setCtx c _).trans (by rw [State.ctx_of_ctxs h1.ctxs])
  have h5 : SyncOnly s4 (s4.xpulse (s.homeCl c) 1 (idLocal c - 128)) := State.xpulse_only s4 _ _ _
  have hgo : ¬(o.done = true ∨ o.failed = true ∨ (!o.whole) = true) := by simp [hd, hf, hw]
  have he : exec (.copyOperationComplete c n) s = .next (s4.xpulse (s.homeCl c) 1 (idLocal c - 128)) := by
    show execCopyOperationComplete c n s = _
    unfold execCopyOperationComplete
    simp only [ho, if_neg hgo]
    rfl
  obtain ⟨ho3, ht3⟩ := s2.touchAll_ops o.raised .eng c
  obtain ⟨ho4, ht4⟩ := s3.opSignal_ops c (s.homeCl o.issuer) o c
  refine ⟨_, he, ?_, ?_, ?_⟩
  · rw [State.ctx_of_ctxs h5.ctxs, ho4, ho3, h2]
  · rw [State.ctx_of_ctxs h5.ctxs, ht4, ht3, h2]
  · exact ((h1.ctl.trans (State.setCtx_only s1 c _)).trans ((State.touchAll_only _ _ s2).trans
      ((State.opSignal_only s3 _ _ o).trans h5.ctl))).sameMemory

/-! ### A promise that passes -/

theorem promiseExpiry_traps {e : Nat} {sc : Scope} (he : isSupId e = false) (hs : (s.ctx e).st = .waiting)
    (hw : (s.ctx e).waitFor = .oper c n sc) (ht : (s.ctx e).trapped = none) (hn : (s.ctx e).noDeadline = false)
    (ho : s.opOf c n = some o) (hd : o.done = false) (hp : o.promised s.cycle ≤ s.dieCycle (idDie c)) :
    exec (.promiseExpiry e) s = .next ((s.modCtx e fun y => { y with trapped := some causePromise, trapAfter := false }).raise
      (s.ctxDie e) { cause := causePromise, ctx := e,
                     info := BitVec.ofNat 64 ((n - (s.ctx c).opBase) % 2 ^ 32 + c * 2 ^ 32) }) := by
  have h1 : ¬((s.ctx e).st ≠ .waiting ∨ (s.ctx e).trapped.isSome = true ∨ (s.ctx e).noDeadline = true) := by simp [hs, ht, hn]
  have h2 : ¬(o.done = true ∨ s.dieCycle (idDie c) < o.promised s.cycle) := by simp [hd, hp]
  show execPromiseExpiry e s = _
  unfold execPromiseExpiry
  simp only [hw, if_neg h1, ho, if_neg h2, he, Bool.false_eq_true, if_false]

/-- Settles O43: a sector of a copy (`exec_copySectorWrite`), the completion of an operation with its timeline, and a promise
that passes. -/
theorem engineEvents : Obligations.EngineEvents := by
  unfold Obligations.EngineEvents
  intro s c n o ho
  refine ⟨?_, fun hd hf hw => ?_, fun e sc he hs hw ht hn hd hp => ?_⟩
  · intro fs fd all k ms hd hf hw hp hfn hcl haw hwt hplan hu hk hms hb hmf hr
    obtain ⟨hx, hdata⟩ := State.doSector_moves (fs := fs) (fd := fd) hmf hu hr
    have ho1 : (s.doSector c o fs fd ms ⟨.ok, false⟩).opOf c n = some o := by
      unfold State.opOf
      rw [State.ctx_of_ctxs hx]
      exact ho
    refine ⟨_, exec_copySectorWrite ho hd hf hw hp hfn hcl haw hwt hplan hu hk hms hb hmf hr,
      ⟨_, State.opOf_setOp ho1 ?_, rfl, rfl⟩, hdata, fun e he => ?_⟩
    · exact (EngOp.warm_num o s.cycle).trans (State.num_of_opOf ho)
    · exact (State.ctx_setCtx_ne _ _ he).trans (State.ctx_of_ctxs hx e)
  · obtain ⟨t, het, hops, htl, hm⟩ := copyOperationComplete_leaves ho hd hf hw
    obtain ⟨hlt, hat⟩ := Ctx.engTimeline_spec { s.ctx c with ops := (s.ctx c).ops.filter fun o => o.num != n }
    refine ⟨t, het, hops, ?_, ?_, hm⟩ <;> rw [hops, htl]
    · exact hlt
    · exact hat
  · have hx := s.ctx_setCtx e { s.ctx e with trapped := some causePromise, trapAfter := false }
    exact ⟨_, promiseExpiry_traps he hs hw ht hn ho hd hp, congrArg Ctx.trapped hx, (congrArg Ctx.st hx).trans hs,
      .of_ctxs rfl rfl (State.raise_trapEntered _ _ _)⟩

end Sys2Proof.Machine

namespace Sys2Proof.Machine

/-! ## What an operation leaves of a region: its place, its state and its rotating loops -/

/-- Two views of a context with the same place, state and rotating loops. -/
structure Ctx.SameRegion (x y : Ctx) : Prop where
  loops  : y.loops = x.loops
  place  : y.place = x.place
  width  : y.width = x.width
  height : y.height = x.height
  st     : y.st = x.st
  off    : y.off = x.off

theorem Ctx.SameRegion.refl (x : Ctx) : x.SameRegion x := ⟨rfl, rfl, rfl, rfl, rfl, rfl⟩

theorem Ctx.SameRegion.trans {x y z : Ctx} (h : x.SameRegion y) (k : y.SameRegion z) : x.SameRegion z :=
  ⟨k.loops.trans h.loops, k.place.trans h.place, k.width.trans h.width, k.height.trans h.height, k.st.trans h.st,
    k.off.trans h.off⟩

/-- Of the contexts at most `c` differs, and keeps its place, its state and its loops. -/
def State.Retouched (s t : State) (c : Nat) : Prop :=
  t.ctxs = s.ctxs ∨ ∃ x, (s.ctx c).SameRegion x ∧ t.ctxs = tset s.ctxs c x

/-- The second of two writes to one key counts. -/
theorem tset_tset {α : Type} (t : Tbl α) (k : Nat) (v w : α) : tset (tset t k v) k w = tset t k w := by
  induction t with
  | nil => simp [tset]
  | cons p t ih =>
    obtain ⟨j, x⟩ := p
    simp only [tset]
    split
    · simp [tset]
    · split
      · simp [tset]
      · next hlt hne => simp [tset, hlt, hne, ih]

section
variable {s t u : State} {c : Nat}

theorem State.Retouched.of_ctxs (h : t.ctxs = s.ctxs) : s.Retouched t c := .inl h

theorem State.Retouched.refl (s : State) (c : Nat) : s.Retouched s c := .inl rfl

theorem State.Retouched.of_setCtx {x : Ctx} (h : (s.ctx c).SameRegion x) : s.Retouched (s.setCtx c x) c := .inr ⟨x, h, rfl⟩

theorem State.Retouched.ctx (h : s.Retouched t c) (e : Nat) : (s.ctx e).SameRegion (t.ctx e) := by
  rcases h with h | ⟨x, hx, h⟩
  · rw [State.ctx_of_ctxs h]
    exact .refl _
  · rw [State.ctx_of_ctxs (s := s.setCtx c x) h]
    by_cases he : e = c
    · subst he
      rwa [State.ctx_setCtx]
    · rw [State.ctx_setCtx_ne _ _ he]
      exact .refl _

theorem State.Retouched.after (k : t.Retouched u c) (h : s.Retouched t c) : s.Retouched u c := by
  have hc := h.ctx c
  rcases k with k | ⟨y, hy, k⟩
  · rcases h with h | ⟨x, hx, h⟩
    · exact .inl (k.trans h)
    · exact .inr ⟨x, hx, k.trans h⟩
  · refine .inr ⟨y, hc.trans hy, ?_⟩
    rcases h with h | ⟨x, hx, h⟩
    · rw [k, h]
    · rw [k, h, tset_tset]

/-- A change of fields that the region of a tile does not turn on leaves the first region that holds the tile. -/
theorem find?_tset {l : Tbl Ctx} {c : Nat} {x : Ctx} {p : Nat × Ctx → Bool} (h : (l.find? p).map (·.1) = some c)
    (hx : ∀ w, tget l c = some w → p (c, x) = p (c, w)) : ((tset l c x).find? p).map (·.1) = some c := by
  induction l with
  | nil => simp at h
  | cons q l ih =>
    obtain ⟨j, w⟩ := q
    simp only [tset]
    split
    · rw [List.find?_cons]
      split
      · rfl
      · exact h
    · split
      · next hj =>
        subst hj
        rw [List.find?_cons, hx w (by simp [tget])]
        rw [List.find?_cons] at h
        split at h <;> exact h
      · next hj =>
        rw [List.find?_cons] at h ⊢
        split at h
        · exact absurd (Option.some.inj h) hj
        · exact ih h fun w hw => hx w (by simpa [tget, hj] using hw)

/-- The region that holds a tile holds it still. -/
theorem State.Retouched.owner (h : s.Retouched t c) {pt : Nat} (ho : s.owner pt = some c) : t.owner pt = some c := by
  rcases h with h | ⟨x, hx, h⟩
  · unfold State.owner
    rwa [h]
  · unfold State.owner
    rw [h]
    refine find?_tset ho fun w hw => ?_
    have hcx : s.ctx c = w := by simp [State.ctx, tgetD, hw]
    rw [hcx] at hx
    simp [Ctx.onTiles, Ctx.holds, hx.place, hx.width, hx.height, hx.st, hx.off]

end

/-! ### Signals, steps and heads -/

section
variable (s : State) (c : Nat)

theorem State.trapAfter_retouched (cause : Nat) (i : Word64) : s.Retouched (s.trapAfter c cause i) c := by
  unfold State.trapAfter
  split
  · exact .refl s c
  · exact .inr ⟨{ s.ctx c with trapped := some cause, trapAfter := true }, ⟨rfl, rfl, rfl, rfl, rfl, rfl⟩, rfl⟩

theorem State.semInc_retouched (cl k n : Nat) (i : Word64) : s.Retouched (s.semInc c cl k n i) c := by
  have trap : ∀ (b : Prop) [Decidable b] (z : State), z.ctxs = s.ctxs →
      s.Retouched (if b then z.trapAfter c causeUnassigned i else z) c := fun b _ z hz => by
    split
    · exact (z.trapAfter_retouched c _ _).after (.inl hz)
    · exact .inl hz
  unfold State.semInc
  split
  · exact .refl s c
  · split
    · unfold State.semAdd
      split
      · exact trap _ _ (s.setGroup_only _ _ _).ctxs
      · exact trap _ _ (State.xpulse_only (s.setSem cl k _) _ _ _).ctxs
    · exact .inl rfl

theorem State.signal_retouched (g : Signal) : s.Retouched (s.signal c g) c := by
  unfold State.signal
  split
  · exact .refl s c
  · unfold State.release
    dsimp only
    split
    · exact (State.semInc_retouched _ c _ _ _ _).after (.inl (s.raceRelease_only c _).ctxs)
    · exact .of_setCtx ⟨rfl, rfl, rfl, rfl, rfl, rfl⟩

theorem State.completeBari_retouched (d : XReg) (m : Nat) : s.Retouched (s.completeBari c d m) c := by
  refine (State.signal_retouched _ c _).after (.after (t := s.modCtx c _) (.of_setCtx ?_) (.of_setCtx ?_)) <;>
    exact ⟨rfl, rfl, rfl, rfl, rfl, rfl⟩

theorem State.stepCheck_retouched : s.Retouched (s.stepCheck c) c := by
  unfold State.stepCheck
  dsimp only
  split
  · unfold State.stepEnd
    dsimp only
    refine .after (.inl (State.xpulse_only _ _ _ _).ctxs) ?_
    split
    · exact (State.signal_retouched _ c _).after (.of_setCtx ⟨rfl, rfl, rfl, rfl, rfl, rfl⟩)
    · exact .of_setCtx ⟨rfl, rfl, rfl, rfl, rfl, rfl⟩
  · exact .refl s c

/-- What a mark at a sink changes of its context (R54). -/
theorem Ctx.markHit_sameRegion (x : Ctx) (m key : Nat) : x.SameRegion (x.markHit m key) := by
  unfold Ctx.markHit
  split
  · exact .refl x
  · dsimp only
    split <;> exact ⟨rfl, rfl, rfl, rfl, rfl, rfl⟩

end

section
variable {s : State} {pt c : Nat}

theorem State.touch_retouched (ho : s.owner pt = some c) (k : Ctr) : s.Retouched (s.touch pt k) c := by
  unfold State.touch
  rw [ho]
  exact .of_setCtx ⟨rfl, rfl, rfl, rfl, rfl, rfl⟩

theorem State.headCheck_retouched (ho : s.owner pt = some c) (code : Nat) : s.Retouched (s.headCheck pt code) c := by
  unfold State.headCheck
  rw [ho]
  dsimp only
  split
  case isFalse => exact .refl s c
  split
  case h_2 => exact .refl s c
  split
  · split
    · exact .of_setCtx ⟨rfl, rfl, rfl, rfl, rfl, rfl⟩
    · split
      · exact (State.stepCheck_retouched _ c).after (.of_setCtx ⟨rfl, rfl, rfl, rfl, rfl, rfl⟩)
      · exact .refl s c
  · split
    · have hm : ∀ m key, s.Retouched (s.setCtx c ((s.ctx c).markHit m key)) c := fun m key =>
        .of_setCtx (Ctx.markHit_sameRegion _ m key)
      split
      · split
        · exact (State.completeBari_retouched _ c _ _).after (hm _ _)
        · exact hm _ _
      · exact hm _ _
    · exact .refl s c

end

/-- While the region `c` holds the tile `pt`, the operation changes no other context, and nothing of `c`'s region. -/
def State.KeepsRegion (s t : State) (pt c : Nat) : Prop := s.owner pt = some c → s.Retouched t c

section
variable {s t u : State} {pt c : Nat}

theorem State.KeepsRegion.of_ctxs (h : t.ctxs = s.ctxs) : s.KeepsRegion t pt c := fun _ => .inl h

theorem State.KeepsRegion.trans (h : s.KeepsRegion t pt c) (k : t.KeepsRegion u pt c) : s.KeepsRegion u pt c :=
  fun ho => (k ((h ho).owner ho)).after (h ho)

theorem State.KeepsRegion.ite {p : Prop} [Decidable p] (h : s.KeepsRegion t pt c) (k : t.KeepsRegion u pt c) :
    s.KeepsRegion (if p then u else t) pt c := by
  split
  · exact h.trans k
  · exact h

end

section
variable (s : State) (pt c : Nat) (u : Bool)

theorem State.touch_keepsRegion (k : Ctr) : s.KeepsRegion (s.touch pt k) pt c := fun ho => State.touch_retouched ho k

theorem State.headCheck_keepsRegion (code : Nat) : s.KeepsRegion (s.headCheck pt code) pt c :=
  fun ho => State.headCheck_retouched ho code

theorem State.free_keepsRegion {b : BufId} (hb : bufPt b = pt) : s.KeepsRegion (s.free b) pt c := by
  unfold State.free
  rw [hb]
  intro ho
  refine .after (State.touch_retouched ?_ .ret) (.inl ?_)
  · exact ho
  · rfl

theorem State.setCu_keepsRegion (x : Cu) : s.KeepsRegion (s.setCu pt u x) pt c := .of_ctxs (by simp)

theorem State.takePort_keepsRegion (k : Fin 6) (b : Fin 4) : s.KeepsRegion (s.takePort pt u k b) pt c := by
  have hset := (s.setCu_keepsRegion pt c u { s.cu pt u with ins := (s.cu pt u).ins.set k (takeFor b (s.cu pt u).ins[k]).1 }).trans
    (State.touch_keepsRegion _ pt c .tok)
  unfold State.takePort
  exact .ite (.ite (.ite hset (State.free_keepsRegion _ pt c rfl)) (State.headCheck_keepsRegion _ pt c _))
    (State.headCheck_keepsRegion _ pt c _)

theorem State.takeAll_keepsRegion (ks : List (Fin 6)) : s.KeepsRegion (s.takeAll pt u ks) pt c := by
  induction ks generalizing s with
  | nil => exact .of_ctxs rfl
  | cons k ks ih =>
    exact ((s.setCu_keepsRegion pt c u _).trans (State.takePort_keepsRegion _ pt c _ k _)).trans (ih (s.take pt u k))

theorem State.takeGate_keepsRegion (q : Qg) : s.KeepsRegion (s.takeGate pt u q) pt c := by
  cases q with
  | none => exact .of_ctxs rfl
  | _ =>
    exact ((s.setCu_keepsRegion pt c u _).trans (State.touch_keepsRegion _ pt c _)).trans (State.free_keepsRegion _ pt c rfl)

end

end Sys2Proof.Machine

namespace Sys2Proof.Machine

/-! ## Requests to a rotating loop (O13) -/

/-! ### The heads and the control token of a firing are taken -/

/-- The state once the inputs and the gate of a firing have been consumed. -/
def State.taken (s : State) (pt : Nat) (u : Bool) (v : EView) : State := (s.takeAll pt u v.consumed).takeGate pt u v.m.qg

/-- Every unit's configuration is as before. -/
def State.SameCfgs (s t : State) : Prop := ∀ pt u, (t.cu pt u).cfg = (s.cu pt u).cfg

theorem State.SameCfgs.of_tiles {s t : State} (h : t.tiles = s.tiles) : s.SameCfgs t := fun pt u => by rw [State.cu_congr h]

theorem State.SameCfgs.trans {s t u : State} (h : s.SameCfgs t) (k : t.SameCfgs u) : s.SameCfgs u :=
  fun pt x => (k pt x).trans (h pt x)

theorem State.setCu_sameCfgs (s : State) (pt : Nat) (u : Bool) {c : Cu} (h : c.cfg = (s.cu pt u).cfg) :
    s.SameCfgs (s.setCu pt u c) := fun pt' u' => by
  by_cases hp : pt' = pt
  · subst hp
    rw [State.cu_setCu_eq]
    split
    · next hu => rw [hu, h]
    · rfl
  · simp only [State.cu, State.tile_setCu_ne _ _ _ hp]

theorem State.SameCfgs.of_setCu {s t : State} {pt : Nat} {u : Bool} {c : Cu} (h : t.tiles = (s.setCu pt u c).tiles)
    (hc : c.cfg = (s.cu pt u).cfg) : s.SameCfgs t := (s.setCu_sameCfgs pt u hc).trans (.of_tiles h)

theorem State.takeAll_sameCfgs (s : State) (pt : Nat) (u : Bool) (ks : List (Fin 6)) : s.SameCfgs (s.takeAll pt u ks) := by
  induction ks generalizing s with
  | nil => exact fun _ _ => rfl
  | cons k ks ih =>
    have hnote : s.SameCfgs (s.setCu pt u ((s.cu pt u).noteCoord k (s.head pt u k))) := s.setCu_sameCfgs pt u rfl
    have hport : ∀ (z : State) (x : Bool) (b : Fin 4), z.SameCfgs (z.takePort pt x k b) := fun z x b =>
      .of_setCu (z.takePort_tiles pt x k b) rfl
    exact (hnote.trans (hport _ _ _)).trans (ih (s.take pt u k))

theorem State.takeGate_sameCfgs (s : State) (pt : Nat) (u : Bool) (q : Qg) : s.SameCfgs (s.takeGate pt u q) := by
  have htake : ∀ k, s.SameCfgs (s.ctlTake pt u k) := fun k =>
    .of_setCu ((State.free_frame _ _).2.1.trans (State.touch_frame _ _ _).2.1) rfl
  cases q with
  | none => exact fun _ _ => rfl
  | _ => exact htake _

section
variable (s : State) (pt : Nat) (u : Bool) (v : EView)

theorem State.taken_keepsRegion (c : Nat) : s.KeepsRegion (s.taken pt u v) pt c :=
  (s.takeAll_keepsRegion pt c u v.consumed).trans (State.takeGate_keepsRegion _ pt c u v.m.qg)

theorem State.taken_only : TakeOnly s (s.taken pt u v) :=
  (s.takeAll_only pt u v.consumed).trans (State.takeGate_only _ pt u v.m.qg)

theorem State.taken_sameCfgs : s.SameCfgs (s.taken pt u v) :=
  (s.takeAll_sameCfgs pt u v.consumed).trans (State.takeGate_sameCfgs _ pt u v.m.qg)

/-- What the consumption of a firing leaves of its unit: all but inputs, noted coordinates and control inputs. -/
theorem State.cu_taken (u' : Bool) : (s.taken pt u v).cu pt u' = { s.cu pt u' with
    ins := ((s.taken pt u v).cu pt u').ins, lastCoord := ((s.taken pt u v).cu pt u').lastCoord
    qs := ((s.taken pt u v).cu pt u').qs } := by
  have hA := (s.cu_takeAll pt u u' v.consumed (List.nodup_dedup _)).1
  have hG := (s.takeAll pt u v.consumed).cu_takeGate pt u u' v.m.qg
  unfold State.taken
  generalize (s.takeAll pt u v.consumed).cu pt u' = a at *
  rw [hG, ← hA]
  split <;> rfl

/-- The consumption of a firing leaves its unit where it stands (R45, R235). -/
theorem State.taken_leaves :
    LeavesUnit s (s.taken pt u v) pt u v.consumed (s.gateCtl pt u v) (s.cu pt u).pos [] := by
  have hA := fun u' => s.cu_takeAll pt u u' v.consumed (List.nodup_dedup _)
  have hc := s.cu_taken pt u v u
  have ht : s.taken pt u v = (s.takeAll pt u v.consumed).takeGate pt u v.m.qg := rfl
  generalize s.takeAll pt u v.consumed = z at hA ht
  have hG := fun u' => z.cu_takeGate pt u u' v.m.qg
  refine ⟨by rw [hc], fun u' k => ?_, fun q => ?_, fun k _ => by rw [hc], by rw [hc], by rw [hc], by rw [hc]⟩
  · have hins : ((s.taken pt u v).cu pt u').ins = (z.cu pt u').ins := by
      rw [ht, hG u']
      split <;> rfl
    rw [hins]
    exact (hA u').2 k
  · have hqs : (z.cu pt u).qs = (s.cu pt u).qs := by
      have h := congrArg Cu.qs (hA u).1
      exact h
    have hport : (z.cu pt u).qgport = (s.cu pt u).qgport := by
      have h := congrArg Cu.qgport (hA u).1
      exact h
    simp only [ht, hG u, hport, State.gateCtl]
    by_cases hv : v.m.qg = .none
    · simp [hv, hqs]
    · by_cases hq : q = (s.cu pt u).qgport
      · subst hq
        simp [hv, hqs]
      · have : (s.cu pt u).qgport.val ≠ q.val := fun e => hq (Fin.ext e).symm
        simp [hv, hqs, hq, this]

end

/-- What follows the consumption of a firing and touches only position, flags and the loop that the unit waits on. -/
theorem LeavesUnit.moved {s z t : State} {pt : Nat} {u : Bool} {ks : List (Fin 6)} {qs : List (Fin 4)} {p : Nat}
    {rs : List (Fin 8)} (h : LeavesUnit s z pt u ks qs p rs) {n : Nat} {fl : FlagWord} {r : Option (Fin 8)}
    (hu : t.cu pt u = { z.cu pt u with pos := n, flags := fl, rotj := r }) (ho : t.cu pt (!u) = z.cu pt (!u)) :
    LeavesUnit s t pt u ks qs n rs := by
  refine ⟨by rw [hu], fun u' k => ?_, fun q => ?_, fun k hk => ?_, ?_, ?_, ?_⟩
  · have hins : (t.cu pt u').ins = (z.cu pt u').ins := by
      by_cases he : u' = u
      · rw [he, hu]
      · rw [Bool.eq_not_of_ne he, ho]
    rw [hins]
    exact h.inputs u' k
  · rw [hu]
    exact h.ctls q
  · rw [hu]
    exact h.sregs k hk
  · rw [hu]
    exact h.cregs
  · rw [hu]
    exact h.store
  · rw [hu]
    exact h.cfg

/-! ### When a request reaches its queue (R79) -/

theorem Ctx.SameRegion.units {x y : Ctx} (h : x.SameRegion y) : y.units = x.units := by
  simp [Ctx.units, Ctx.tiles, Ctx.pt, h.place, h.width, h.height]

/-- The count at which a request is due turns on the loop, the configuration of the units and the clocks. -/
theorem State.requestDue_congr {s t : State} {c : Nat} (hx : (s.ctx c).SameRegion (t.ctx c)) (hg : s.SameCfgs t)
    (hv : t.vfs = s.vfs) (l pt : Nat) : t.requestDue c l pt = s.requestDue c l pt := by
  have he : t.loopEntry c l = s.loopEntry c l := by
    unfold State.loopEntry
    rw [hx.units]
    exact congrArg (List.find? · _) (funext fun p => by rw [hg])
  unfold State.requestDue State.vf
  rw [he, hx.loops, hv]

/-! ### A firing that asks a loop -/

/-- The unit that sends the request waits at its instruction for the loop's answer (R80, R266). -/
def RotReq.waits : RotReq → Bool
  | .join _ _ _ | .probe _ _ => true
  | _ => false

theorem State.loopSt_of_ctxs {s t : State} (h : t.ctxs = s.ctxs) (c l : Nat) : t.loopSt c l = s.loopSt c l := by
  unfold State.loopSt
  rw [State.ctx_of_ctxs h]

section
variable {s : State} {pt c : Nat}

/-- The request is behind those that are on their way to the loop; a unit that waits is marked as waiting. -/
theorem State.firedRegion_request (ho : s.owner pt = some c) (u : Bool) (v : EView) (l : Nat) (r : RotReq) (b : Bool) :
    let t := s.firedRegion pt u v { req := some (l, r), stay := b }
    (t.loopSt c l).inbound = (s.loopSt c l).inbound ++ [⟨s.requestDue c l pt, pt, u, r⟩] ∧
    t.cu pt (!u) = s.cu pt (!u) ∧
    t.cu pt u = { s.cu pt u with rotj := if r.waits then some (Fin.ofNat 8 l) else (s.cu pt u).rotj } := by
  have hin : ∀ x, (s.setCtx c { s.ctx c with loops := tset (s.ctx c).loops l x }).loopSt c l = x := fun x => by
    unfold State.loopSt
    rw [State.ctx_setCtx]
    exact tgetD_tset_self _ _ _ _
  have hcu : ∀ (x : Ctx) (u' : Bool), (s.setCtx c x).cu pt u' = s.cu pt u' := fun x u' => State.cu_congr (by simp) _ _
  have hspend : ∀ (bs : List BufId) (z : State) (u' : Bool), (bs.foldl State.spend z).cu pt u' = z.cu pt u' :=
    fun bs z u' => State.cu_congr (foldl_spend_frame z bs).2.1 _ _
  unfold State.firedRegion
  simp only [ho, Bool.false_eq_true, if_false]
  cases r with
  | join | probe =>
    refine ⟨?_, ?_, ?_⟩
    · exact congrArg LoopSt.inbound ((State.loopSt_of_ctxs
        ((State.setCu_frame _ _ _ _).2.1.trans (foldl_spend_frame _ _).2.2.1) c l).trans (hin _))
    · rw [State.cu_setCu_other, hspend, hcu]
    · rw [State.cu_setCu, hspend, hcu]
      rfl
  | _ =>
    exact ⟨congrArg LoopSt.inbound (hin _), hcu _ _, hcu _ u⟩

/-- Flags that are set leave the units but for them, and every context. -/
theorem State.flag_leaves (s : State) (pt : Nat) (u : Bool) (f : FlagWord) : (s.flag pt u f).ctxs = s.ctxs ∧
    ∀ pt' u', (s.flag pt u f).cu pt' u' = (s.setCu pt u { s.cu pt u with flags := (s.cu pt u).flags ||| f }).cu pt' u' := by
  unfold State.flag
  dsimp only
  split
  · exact ⟨by simp, fun _ _ => rfl⟩
  · exact ⟨(State.setCu_frame s pt u _).2.1, fun _ _ => rfl⟩

/-- Everything that a firing does that asks a loop. -/
theorem State.fired_request (ho : s.owner pt = some c) (u : Bool) {v : EView} (hd : v.sdest = []) (l : Nat) (r : RotReq) :
    let t := s.fired pt u v { req := some (l, r), stay := r.waits } none
    t.flights = s.flights ∧
    (t.loopSt c l).inbound = (s.loopSt c l).inbound ++ [⟨s.requestDue c l pt, pt, u, r⟩] ∧
    t.cu pt (!u) = s.cu pt (!u) ∧
    t.cu pt u = { s.cu pt u with
      pos := if r.waits then (s.cu pt u).pos else s.nextPos pt u v, flags := (s.cu pt u).flags ||| 0
      rotj := if r.waits then some (Fin.ofNat 8 l) else (s.cu pt u).rotj } := by
  have hw : Fire.writes { req := some (l, r), stay := r.waits } v = [] := by
    unfold EView.sdest at hd
    unfold Fire.writes
    cases hv : v.d with
    | s k => simp [hv] at hd
    | _ => rfl
  have hz := s.flag_only pt u 0
  have hzu : ∀ u', (s.flag pt u 0).cu pt u' = if u' = u then { s.cu pt u with flags := (s.cu pt u).flags ||| 0 } else s.cu pt u' :=
    fun u' => ((s.flag_leaves pt u 0).2 pt u').trans (s.cu_setCu_eq _ _ _ _)
  have hzc : (s.flag pt u 0).ctxs = s.ctxs := (s.flag_leaves pt u 0).1
  have hzo : (s.flag pt u 0).owner pt = some c := (State.Retouched.of_ctxs hzc).owner ho
  have hzg : s.SameCfgs (s.flag pt u 0) := fun pt' u' => by
    rw [(s.flag_leaves pt u 0).2]
    exact s.setCu_sameCfgs pt u (c := { s.cu pt u with flags := (s.cu pt u).flags ||| 0 }) rfl pt' u'
  have hzv : (s.flag pt u 0).vfs = s.vfs := by
    obtain ⟨_, _, _, _, _, _, _, _, _, h⟩ := hz
    rw [h]
  have hdue : (s.flag pt u 0).requestDue c l pt = s.requestDue c l pt :=
    State.requestDue_congr (by rw [State.ctx_of_ctxs hzc]; exact .refl _) hzg hzv l pt
  have hzl : (s.flag pt u 0).loopSt c l = s.loopSt c l := State.loopSt_of_ctxs hzc c l
  obtain ⟨hin, hother, hown⟩ := State.firedRegion_request hzo u v l r r.waits
  have hfl := (State.firedRegion_only (s.flag pt u 0) pt u v { req := some (l, r), stay := r.waits }).flights
  rw [hdue, hzl] at hin
  rw [hzu, if_neg (by simp)] at hother
  rw [hzu, if_pos rfl] at hown
  unfold State.fired
  simp only [hw, List.foldl_nil]
  generalize State.firedRegion _ pt u v _ = y at *
  cases hr : r.waits with
  | true =>
    simp only [hr, if_true] at hown ⊢
    exact ⟨hfl.trans hz.flights, hin, hother, hown⟩
  | false =>
    simp only [hr, Bool.false_eq_true, if_false] at hown ⊢
    have hadv : (y.advance pt u v.len).ctxs = y.ctxs := by simp [State.advance, State.goto]
    refine ⟨?_, ?_, ?_, ?_⟩
    · simpa [State.advance, State.goto] using hfl.trans hz.flights
    · rwa [State.loopSt_of_ctxs hadv]
    · rw [State.cu_advance, if_neg (by simp), hother]
    · rw [State.cu_advance, if_pos rfl, hown]
      rfl

end

/-! ### The rotation instructions -/

theorem noS_operands (s : State) (pt : Nat) (u : Bool) (v : EView) :
    (noS v).sdest = [] ∧ s.opnds pt u (noS v) = s.opnds pt u v ∧ vLoopNo (noS v) = vLoopNo v := by
  unfold noS EView.sdest
  cases hd : v.d <;> simp [Dst.isS, hd, State.opnds, vLoopNo]

/-- Without its S-register destination an instruction fires when it fires with it. -/
theorem Fires.noS {s : State} {pt : Nat} {u : Bool} {v : EView} {hs : List Token} (h : Fires s pt u v hs) :
    Fires s pt u (noS v) hs := by
  obtain ⟨hh, hm, ho, -, hmods, -⟩ := noS_same s pt u v (.inr rfl)
  refine ⟨h.turn, h.ready, hh.trans h.heads, (congrFun hm hs).trans h.data, ?_, ?_, ho.trans h.credits, h.sound, h.clean⟩
  · have hp := h.pure
    unfold EView.mixed at hp ⊢
    rwa [(noS_keeps v).2.1]
  · rw [hmods]
    exact h.gated

section
variable {i : Instr} {s : State} {pt : Nat} {u : Bool} {v : EView} {hs : List Token} {c : Nat}

/-- A rotation instruction fires while its request finds a place, and sends it (R79, R80, R266). -/
theorem sendsRequest_of_doRotReq (h : Fires s pt u v hs) (ho : s.owner pt = some c) {req : Nat → Bool → Opnds → RotReq}
    {queued : Bool} (he : exec i s = doRotReq v req s queued) {r : RotReq} (hr : req pt u (s.opnds pt u v) = r)
    (hroom : (s.loopSt c (vLoopNo v)).room = true ∨ queued = false) :
    SendsRequest i s pt u v c (vLoopNo v) r (if r.waits then (s.cu pt u).pos else s.nextPos pt u v) r.waits := by
  obtain ⟨hd, hop, -⟩ := noS_operands s pt u v
  obtain ⟨-, hcons, -, hmods, hlen⟩ := noS_keeps v
  have hready : ((s.loopSt c (vLoopNo v)).room || !queued) = true := by simpa using hroom
  have hfire : exec i s = .next ((s.taken pt u (noS v)).fired pt u (noS v)
      { req := some (vLoopNo v, r), stay := r.waits } none) := by
    rw [he]
    unfold doRotReq
    simp only [h.turn, ho, hready]
    rw [fireElem_of_fires h.noS _ (by simp)]
    simp only [hop, hr]
    cases r <;> rfl
  have hkeep := s.taken_keepsRegion pt u (noS v) c ho
  obtain ⟨hfl, hin, hother, hown⟩ := State.fired_request (hkeep.owner ho) u hd (vLoopNo v) r
  have hvfs : (s.taken pt u (noS v)).vfs = s.vfs := by
    obtain ⟨_, _, _, _, _, _, _, _, _, hz⟩ := s.taken_only pt u (noS v)
    rw [hz]
  have hdue := State.requestDue_congr (hkeep.ctx c) (s.taken_sameCfgs pt u (noS v)) hvfs (vLoopNo v) pt
  have hloop : (s.taken pt u (noS v)).loopSt c (vLoopNo v) = s.loopSt c (vLoopNo v) := by
    unfold State.loopSt
    rw [(hkeep.ctx c).loops]
  have hcu := s.cu_taken pt u (noS v) u
  have hleft : LeavesUnit s (s.taken pt u (noS v)) pt u v.consumed (s.gateCtl pt u v) (s.cu pt u).pos [] := by
    have hl := s.taken_leaves pt u (noS v)
    unfold State.gateCtl at hl ⊢
    rwa [hcons, hmods] at hl
  rw [hdue, hloop] at hin
  refine ⟨_, hfire, hin, hfl.trans (s.taken_only pt u _).flights, ?_, ?_⟩
  · have hnone : (s.cu pt u).rotj = none := by
      have hc := h.ready
      simp only [State.cuReady, Bool.and_eq_true, Option.isNone_iff_eq_none] at hc
      obtain ⟨⟨-, hidle⟩, -⟩ := hc
      exact hidle
    rw [hown, hcu]
    cases hw : r.waits <;> simp [hnone]
  · have hnext : (s.taken pt u (noS v)).nextPos pt u (noS v) = s.nextPos pt u v := by
      unfold State.nextPos
      rw [hcu, hlen]
      rfl
    have hpos : ((s.taken pt u (noS v)).cu pt u).pos = (s.cu pt u).pos := by rw [hcu]
    rw [hnext, hpos] at hown
    exact hleft.moved hown hother

/-- A rotation instruction whose request finds no place waits (R79). -/
theorem doRotReq_full (h : Fires s pt u v hs) (ho : s.owner pt = some c) (req : Nat → Bool → Opnds → RotReq)
    (hroom : (s.loopSt c (vLoopNo v)).room = false) : doRotReq v req s = .next s := by
  have hn := h.noS
  unfold doRotReq
  simp only [h.turn, ho, hroom]
  unfold fireElem
  simp [hn.turn, hn.ready, hn.heads, hn.data, hn.gated, stall]

theorem LoopSt.room_iff (x : LoopSt) : x.room = true ↔ x.queue.length + x.inbound.countP (fun r => r.req.queues) < 4 := by
  simp [LoopSt.room, List.countP_eq_length_filter]

end

/-- Settles O13: a rotation instruction runs `doRotReq`, which sends its request when the queue has room
(`sendsRequest_of_doRotReq`) and waits when it has none (`doRotReq_full`); ROTP asks for no place. -/
theorem rotationInstructionResults : Obligations.RotationInstructionResults := by
  unfold Obligations.RotationInstructionResults
  intro i v s pt u hs c hv h ho l o x n busy
  have hrun := exec_elem hv s
  have hroom : busy < 4 → x.room = true := x.room_iff.mpr
  have hlow : natBits n 0 6 = n % 64 := rfl
  unfold elemRun at hrun
  refine ⟨fun hop hb tok ht => ?_, fun hop hb => ?_, fun hop hb => ?_, fun hop hb => ?_, fun hop hb => ?_, fun hop => ?_⟩
  · rw [hop] at hrun
    have hjoin : joinReq pt u (s.opnds pt u v) = .join tok pt u := by
      unfold joinReq
      rw [ht]
    exact sendsRequest_of_doRotReq h ho hrun hjoin (.inl (hroom hb))
  · rw [hop] at hrun
    have hleave : leaveReq pt u (s.opnds pt u v) = .leave (n % 64) (n.testBit 6) := by
      have hbit : decide (natBits n 6 1 = 1) = n.testBit 6 := by
        simp [natBits, Nat.testBit_eq_decide_div_mod_eq, Nat.shiftRight_eq_div_pow]
      unfold leaveReq
      rw [← hlow, ← hbit]
    exact sendsRequest_of_doRotReq h ho hrun hleave (.inl (hroom hb))
  · rw [hop] at hrun
    exact sendsRequest_of_doRotReq h ho hrun (r := .hold (n % 64)) rfl (.inl (hroom hb))
  · rw [hop] at hrun
    exact sendsRequest_of_doRotReq h ho hrun (r := .release (n % 64)) rfl (.inl (hroom hb))
  · have hfull : x.room = false := Bool.eq_false_iff.mpr fun hr => absurd (x.room_iff.mp hr) (Nat.not_lt.mpr hb)
    simp only [List.mem_cons, List.not_mem_nil, or_false] at hop
    rcases hop with hop | hop | hop | hop <;> rw [hop] at hrun <;> exact hrun.trans (doRotReq_full h ho _ hfull)
  · rw [hop] at hrun
    exact sendsRequest_of_doRotReq h ho hrun (r := .probe pt u) rfl (.inr rfl)

end Sys2Proof.Machine

namespace Sys2Proof.Machine

/-! ## Arrivals of a rotating loop (O45) -/

/-! ### Operations that leave every region as it was -/

/-- Every context keeps its place, its state and its loops. -/
def State.SameRegions (s t : State) : Prop := ∀ e, (s.ctx e).SameRegion (t.ctx e)

section
variable {s t u : State}

theorem State.SameRegions.of_ctxs (h : t.ctxs = s.ctxs) : s.SameRegions t := fun e => by
  rw [State.ctx_of_ctxs h]
  exact .refl _

theorem State.SameRegions.after (k : t.SameRegions u) (h : s.SameRegions t) : s.SameRegions u := fun e => (h e).trans (k e)

theorem State.SameRegions.loopOf (h : s.SameRegions t) (c l : Nat) : t.loopOf c l = s.loopOf c l := by
  unfold State.loopOf
  rw [(h c).loops]

theorem State.SameRegions.fold {α : Type} {f : State → α → State} (h : ∀ (s : State) (a : α), s.SameRegions (f s a)) (l : List α) (s : State) :
    s.SameRegions (l.foldl f s) := by
  induction l generalizing s with
  | nil => exact .of_ctxs rfl
  | cons a l ih => exact (ih _).after (h s a)

end

section
variable (s : State) (pt : Nat) (u : Bool)

theorem State.touch_sameRegions (k : Ctr) : s.SameRegions (s.touch pt k) := by
  cases ho : s.owner pt with
  | none =>
    unfold State.touch
    rw [ho]
    exact .of_ctxs rfl
  | some c => exact (State.touch_retouched ho k).ctx

theorem State.setCu_sameRegions (x : Cu) : s.SameRegions (s.setCu pt u x) := .of_ctxs (State.setCu_frame s pt u x).2.1

theorem State.free_sameRegions (b : BufId) : s.SameRegions (s.free b) := (State.touch_sameRegions _ _ _).after (.of_ctxs rfl)

theorem State.emit_sameRegions (code : Nat) (t : Token) : s.SameRegions (s.emit pt code t) :=
  (State.touch_sameRegions _ _ _).after (.of_ctxs (foldl_spend_frame s _).2.2.1)

theorem State.emitCtl_sameRegions (k : Nat) (v : Bool) : s.SameRegions (s.emitCtl pt u k v) :=
  (State.touch_sameRegions _ _ _).after (.of_ctxs (foldl_spend_frame s _).2.2.1)

theorem State.ctlTake_sameRegions (k : Fin 4) : s.SameRegions (s.ctlTake pt u k) :=
  (State.free_sameRegions _ _).after ((State.touch_sameRegions _ pt _).after (s.setCu_sameRegions pt u _))

theorem State.checkedOnce_sameRegions (unit : Nat) (r : Option Nat) : s.SameRegions (s.checkedOnce pt unit r).1 := by
  unfold State.checkedOnce
  split <;> exact .of_ctxs rfl

theorem State.emitExits_sameRegions (ports : List Nat) (p : Nat) (t : Token) (o : Option (Nat × Option Token)) :
    s.SameRegions (s.emitExits pt u ports p t o) := by
  unfold State.emitExits
  refine .fold (fun z k => ?_) _ s
  dsimp only
  split
  · exact z.emit_sameRegions pt _ _
  · exact .of_ctxs rfl

/-- A firing without a request changes at most what a rollback of its region may undo. -/
theorem State.firedRegion_sameRegions (v : EView) {f : Fire} (h : f.req = none) : s.SameRegions (s.firedRegion pt u v f) := by
  have hclaim : ∀ z : State, z.ctxs = s.ctxs → s.SameRegions (match z.owner pt with
      | none => z
      | some c => if f.breaks then z.modCtx c (·.breakReplay (unitKey pt (cuUnit u))) else z) := fun z hz => by
    split
    · exact .of_ctxs hz
    · next c _ =>
      split
      · refine .after (t := z) (State.Retouched.of_setCtx ?_).ctx (.of_ctxs hz)
        exact ⟨rfl, rfl, rfl, rfl, rfl, rfl⟩
      · exact .of_ctxs hz
  unfold State.firedRegion
  rw [h]
  cases f.claim with
  | none => exact hclaim s rfl
  | some k => exact hclaim _ (State.setTile_frame s pt _).2.1

end

/-! ### A bit of a mask (R75) -/

/-- A field of one bit set or cleared. -/
theorem maskAt_setFld (w : Word64) {p : Nat} (hp : p < 64) (b : Bool) : MaskAt w (setFld w p 1 (b2n b)) p b := by
  intro k hk
  have hlo : w.toNat % 2 ^ p < 2 ^ p := Nat.mod_lt _ (Nat.two_pow_pos p)
  have split : ∀ d, (2 ^ p * (2 * (w.toNat / 2 ^ p / 2) + d) + w.toNat % 2 ^ p).testBit k =
      if k < p then (w.toNat % 2 ^ p).testBit k else (2 * (w.toNat / 2 ^ p / 2) + d).testBit (k - p) :=
    fun d => Nat.testBit_two_pow_mul_add _ hlo k
  have hold : w.toNat = 2 ^ p * (2 * (w.toNat / 2 ^ p / 2) + w.toNat / 2 ^ p % 2) + w.toNat % 2 ^ p := by
    rw [Nat.div_add_mod, Nat.div_add_mod]
  have hnew : w.toNat - natBits w.toNat p 1 * 2 ^ p + b2n b % 2 ^ 1 * 2 ^ p =
      2 ^ p * (2 * (w.toNat / 2 ^ p / 2) + b2n b) + w.toNat % 2 ^ p := by
    have hb : b2n b % 2 ^ 1 = b2n b := by cases b <;> rfl
    rw [hb, natBits, Nat.shiftRight_eq_div_pow, Nat.pow_one]
    rw [Nat.mul_add] at hold ⊢
    rw [Nat.mul_comm (b2n b), Nat.mul_comm (w.toNat / 2 ^ p % 2)]
    omega
  have hbits : bit (setFld w p 1 (b2n b)) k = (2 ^ p * (2 * (w.toNat / 2 ^ p / 2) + b2n b) + w.toNat % 2 ^ p).testBit k := by
    unfold bit setFld
    rw [hnew, BitVec.getLsbD_ofNat, decide_eq_true hk, Bool.true_and]
  have hsame : bit w k =
      (2 ^ p * (2 * (w.toNat / 2 ^ p / 2) + w.toNat / 2 ^ p % 2) + w.toNat % 2 ^ p).testBit k := by
    rw [← hold]
    rfl
  rw [hbits, hsame, split, split]
  rcases Nat.lt_trichotomy k p with hlt | rfl | hgt
  · simp [hlt, Nat.ne_of_lt hlt]
  · cases b <;> simp [b2n]
  · obtain ⟨j, rfl⟩ : ∃ j, k = p + (j + 1) := ⟨k - p - 1, by omega⟩
    have hhalf : ∀ h d, d < 2 → (2 * h + d) / 2 = h := fun h d hd => by omega
    have hb : b2n b < 2 := by cases b <;> decide
    have h1 : ¬p + (j + 1) < p := by omega
    have h2 : p + (j + 1) ≠ p := by omega
    rw [if_neg h1, if_neg h1, if_neg h2, Nat.add_sub_cancel_left, Nat.testBit_succ, Nat.testBit_succ, hhalf _ _ hb,
      hhalf _ _ (Nat.mod_lt _ (by decide))]

theorem maskAt_maskSet (w : Word64) {p : Nat} (hp : p < 64) (b : Bool) : MaskAt w (maskSet w p b) p b := maskAt_setFld w hp b

/-- A second change of the same bit counts. -/
theorem MaskAt.trans {v w x : Word64} {p : Nat} {a b : Bool} (h : MaskAt v w p a) (k : MaskAt w x p b) : MaskAt v x p b :=
  fun i hi => by
    rw [k i hi]
    split
    · rfl
    · next hne => rw [h i hi, if_neg hne]

/-- A mask is its bits. -/
theorem MaskAt.unique {v w x : Word64} {p : Nat} {b : Bool} (h : MaskAt v w p b) (k : MaskAt v x p b) : w = x :=
  BitVec.eq_of_getLsbD_eq fun i hi => (h i hi).trans (k i hi).symm

/-- A bit that has its value stays. -/
theorem MaskAt.same {w : Word64} {p : Nat} : MaskAt w w p (bit w p) := fun k _ => by
  split
  · next h => rw [h]
  · rfl

/-! ### The requests of an arrival (R81) -/

theorem isLeave_eq (p : Nat) : isLeave p = RotReq.leaves p := funext fun r => by cases r <;> rfl

theorem isJoin_eq : isJoin = RotReq.joins := funext fun r => by cases r <;> rfl

theorem dropFirst_eq_eraseP {α : Type} (f : α → Bool) (l : List α) : dropFirst f l = l.eraseP f := by
  induction l with
  | nil => rfl
  | cons a l ih => simp only [dropFirst, List.eraseP_cons, ih, Bool.cond_eq_ite]

theorem applyHolds_queue (p : Nat) (h : Word64) (q : List RotReq) : (applyHolds p h q).2 = q.filter fun r => !(r.holds p) :=
  List.filter_congr fun r _ => by cases r <;> simp [RotReq.holds]

/-- HOLD bit `p`, which is `b`, after the ROTH and ROTR of a queue: the last decides (R81). -/
def heldAfter (p : Nat) (q : List RotReq) (b : Bool) : Bool :=
  match (q.filter fun r => r.holds p).getLast? with
  | some (.hold _) => true
  | some _ => false
  | none => b

theorem LoopSt.heldAt_eq (x : LoopSt) (p : Nat) : x.heldAt p = heldAfter p x.queue (bit x.hold p) := rfl

theorem heldAfter_hold (p : Nat) (q : List RotReq) (b : Bool) : heldAfter p (q ++ [.hold p]) b = true := by
  simp [heldAfter, RotReq.holds]

theorem heldAfter_release (p : Nat) (q : List RotReq) (b : Bool) : heldAfter p (q ++ [.release p]) b = false := by
  simp [heldAfter, RotReq.holds]

theorem heldAfter_other {p : Nat} {r : RotReq} (h : r.holds p = false) (q : List RotReq) (b : Bool) :
    heldAfter p (q ++ [r]) b = heldAfter p q b := by
  simp [heldAfter, h]

theorem applyHolds_hold (p : Nat) (h : Word64) (q : List RotReq) :
    (applyHolds p h (q ++ [.hold p])).1 = setFld (applyHolds p h q).1 p 1 (b2n true) := by
  simp [applyHolds, b2n]

theorem applyHolds_release (p : Nat) (h : Word64) (q : List RotReq) :
    (applyHolds p h (q ++ [.release p])).1 = setFld (applyHolds p h q).1 p 1 (b2n false) := by
  simp [applyHolds, b2n]

theorem applyHolds_other {p : Nat} {r : RotReq} (hr : r.holds p = false) (h : Word64) (q : List RotReq) :
    (applyHolds p h (q ++ [r])).1 = (applyHolds p h q).1 := by
  cases r <;> simp_all [applyHolds, RotReq.holds]

/-- The holds and releases of phase `p` leave every other bit, and the last decides its own (R81). -/
theorem maskAt_applyHolds (h : Word64) (q : List RotReq) {p : Nat} (hp : p < 64) :
    MaskAt h (applyHolds p h q).1 p (heldAfter p q (bit h p)) := by
  induction q using List.reverseRecOn with
  | nil => exact .same
  | append_singleton q r ih =>
    by_cases hr : r.holds p = true
    · cases r with
      | hold k =>
        obtain rfl : k = p := of_decide_eq_true hr
        rw [applyHolds_hold, heldAfter_hold]
        exact ih.trans (maskAt_setFld _ hp true)
      | release k =>
        obtain rfl : k = p := of_decide_eq_true hr
        rw [applyHolds_release, heldAfter_release]
        exact ih.trans (maskAt_setFld _ hp false)
      | _ => exact absurd hr Bool.false_ne_true
    · have hr : r.holds p = false := Bool.eq_false_iff.mpr hr
      rw [applyHolds_other hr, heldAfter_other hr]
      exact ih

end Sys2Proof.Machine

namespace Sys2Proof.Machine

/-! ### The loop as an arrival finds it, and what its rows make of it (R81) -/

/-- The loop with the ROTH and ROTR of phase `p` applied and gone from its queue. -/
def LoopSt.settled (x : LoopSt) (p : Nat) : LoopSt := { x with hold := (applyHolds p x.hold x.queue).1, queue := x.others p }

/-- A state that recirculates is all that changes. -/
theorem LoopSt.recirc_leaves (x : LoopSt) (p : Nat) :
    (x.recirc p).valid = x.valid ∧ (x.recirc p).hold = x.hold ∧ (x.recirc p).fault = x.fault ∧
    (x.recirc p).entries = x.entries ∧ (x.recirc p).queue = x.queue ∧ (x.recirc p).count = x.count ∧
    ∀ k, tget (x.recirc p).states k = if k = p then (tget x.states k).map fun t => { t with kind := .hold } else tget x.states k := by
  unfold LoopSt.recirc
  split
  · next t ht =>
    refine ⟨rfl, rfl, rfl, rfl, rfl, rfl, fun k => ?_⟩
    rw [tget_tset]
    split
    · next hk => rw [hk, ht]; rfl
    · rfl
  · next ht =>
    refine ⟨rfl, rfl, rfl, rfl, rfl, rfl, fun k => ?_⟩
    split
    · next hk => rw [hk, ht]; rfl
    · rfl

section
variable {x : LoopSt} {p : Nat} (hp : p < 64)
include hp

theorem LoopSt.maskAt_settled : MaskAt x.hold (x.settled p).hold p (x.heldAt p) := maskAt_applyHolds x.hold x.queue hp

theorem LoopSt.bit_settled_hold : bit (x.settled p).hold p = x.heldAt p :=
  ((LoopSt.maskAt_settled hp) p hp).trans (if_pos rfl)

/-- A slot that is not held has its HOLD bit clear. -/
theorem LoopSt.settled_hold_of_free (h : x.heldAt p = false) : (x.settled p).hold = maskSet x.hold p false := by
  have hs := LoopSt.maskAt_settled (x := x) hp
  rw [h] at hs
  exact hs.unique (maskAt_maskSet x.hold hp false)

theorem LoopSt.recirculates_settled : Recirculates x ((x.settled p).recirc p) p := by
  obtain ⟨hv, hh, hf, he, -, -, hs⟩ := (x.settled p).recirc_leaves p
  refine ⟨hv, hf, ?_, he, hs⟩
  rw [hh]
  exact LoopSt.maskAt_settled hp

theorem LoopSt.vacates_settled (h : Tbl.wf x.states = true) : Vacates x ((x.settled p).vacate p) p :=
  ⟨maskAt_maskSet _ hp false, (LoopSt.maskAt_settled hp).trans (maskAt_maskSet _ hp false), maskAt_maskSet _ hp false,
    fun _ => tget_tdel _ _ _ h⟩

end

section
variable {s : State} {c p : Nat} {l : Fin 8} {e : Nat × Bool}

theorem State.loopSlots_pos (s : State) (c l : Nat) : 0 < s.loopSlots c l := by
  unfold State.loopSlots
  split
  · exact Nat.lt_of_lt_of_le Nat.zero_lt_one (Nat.le_max_left _ _)
  · exact Nat.zero_lt_one

theorem RotTurn.lt (h : RotTurn s c l.val p e) : p < 64 := by
  rw [h.phase]
  exact Nat.lt_of_lt_of_le (Nat.mod_lt _ (s.loopSlots_pos c l.val)) h.limit

/-! ### The turn of a loop (R74) -/

theorem State.loopOf_tickLoop (z : State) (t : Agent) (c l : Nat) : (({ z with cur := t } : State).tickLoop c l).loopOf c l =
    { z.loopOf c l with count := (z.loopOf c l).count + 1 } := State.loopOf_setLoop _ _ _ _

/-- A loop that nothing saves or loads does what R81 and R85 give, and its count advances. -/
theorem exec_rotationArrival_of_loopEntry (hent : s.loopEntry c l.val = some e) (hf : (s.ctx c).st.fires = true)
    (hb : (s.loopOf c l.val).busy = .none) (hr : (s.loopOf c l.val).running = true) (hs : (s.loopOf c l.val).stopped = false)
    (hk : (s.loopOf c l.val).parked = false)
    (hv : (s.loopOf c l.val).savesNow ((s.loopOf c l.val).count % s.loopSlots c l.val) = none)
    (hi : (s.loopOf c l.val).inbound.any (s.loopOf c l.val).arrived = false) :
    exec (.rotationArrival c l) s = .next (State.tickLoop { (
      if (s.loopOf c l.val).count % s.loopSlots c l.val = 0 ∧ s.mayStop c l.val e = true then s.loopStop c l.val e
      else s.arrive c l.val ((s.loopOf c l.val).count % s.loopSlots c l.val) e) with cur := s.cur } c l.val) := by
  show execRotationArrival c l s = _
  unfold execRotationArrival
  simp only [hent, hf, hr, hs, hi, hb, hv, hk, Bool.not_true, Bool.false_eq_true, or_self, if_false]
  unfold State.arrival
  simp only [hb]

theorem exec_rotationArrival (h : RotTurn s c l.val p e) :
    exec (.rotationArrival c l) s = .next (State.tickLoop { s.arrive c l.val p e with cur := s.cur } c l.val) := by
  obtain ⟨hr, hs, hk⟩ := h.runs
  obtain ⟨hb, hv⟩ := h.quiet
  have hgoes := h.goes
  have hphase := h.phase
  rw [hphase] at hv hgoes ⊢
  rw [exec_rotationArrival_of_loopEntry h.entry h.fires hb hr hs hk hv h.come, if_neg hgoes]

/-- An arrival that leaves the loop as `y` before its count advances. -/
theorem RotTurn.gives (h : RotTurn s c l.val p e) {fl : List Flight} {P : LoopSt → Prop} {z : State} {y : LoopSt}
    (hz : s.arrive c l.val p e = z) (hfl : z.flights = s.flights ++ fl) (hy : z.loopOf c l.val = y)
    (hc : y.count = (s.loopOf c l.val).count) (hP : P { y with count := (s.loopOf c l.val).count + 1 }) :
    ArrivalGives s c l fl P := by
  refine ⟨_, exec_rotationArrival h, ?_, ?_, ?_⟩
  · rw [State.loopOf_tickLoop, hz, hy, ← hc]
  · rw [hz]
    exact hfl
  · rw [State.loopOf_tickLoop, hz, hy, hc]
    exact hP

theorem RotTurn.gives_setLoop (h : RotTurn s c l.val p e) {P : LoopSt → Prop} {y : LoopSt}
    (hz : s.arrive c l.val p e = s.setLoop c l.val y) (hc : y.count = (s.loopOf c l.val).count)
    (hP : P { y with count := (s.loopOf c l.val).count + 1 }) : ArrivalGives s c l [] P :=
  h.gives hz (List.append_nil _).symm (State.loopOf_setLoop _ _ _ _) hc hP

/-! ### The rows of R81 -/

/-- The rows of R81 over the settled loop. -/
theorem State.arrive_eq (s : State) (c l p : Nat) (e : Nat × Bool) : s.arrive c l p e =
    let x := s.loopOf c l
    let y := x.settled p
    let leave := (x.others p).any (RotReq.leaves p)
    let eos := (tget x.entries p).any (·.kind == .eos)
    let port := s.leavePort e
    if bit x.fault p then
      s.setLoop c l (if leave then { y.vacate p with queue := (x.others p).eraseP (RotReq.leaves p) } else y.recirc p)
    else if !(bit x.valid p) then
      if (x.others p).any RotReq.joins then s.placeJoin c l p y
      else s.setLoop c l { y with queue := (x.others p).filter fun r => !(r.leaves p) }
    else if leave || eos then
      if s.canEmit port.1 [port.2] then
        (s.setLoop c l { y.vacate p with
          queue := (x.others p).eraseP (RotReq.leaves p), entries := if eos then tdel x.entries p else x.entries }).emit
          port.1 port.2 { (tget x.states p).getD {} with kind := .data, slot := BitVec.ofNat 6 p }
      else s.setLoop c l (y.recirc p)
    else if bit y.hold p then s.setLoop c l (y.recirc p)
    else match tget x.entries p with
      | none => s.setLoop c l (y.recirc p)
      | some t =>
        if s.exitCredits c l = false ∨ s.stageTokens c l = false then s.setLoop c l (y.recirc p)
        else (s.setLoop c l { y with entries := tdel x.entries p }).rotate c l p e 192 e
          { (tget x.states p).getD {} with kind := .data } (some t) := by
  have hq : (applyHolds p (s.loopOf c l).hold (s.loopOf c l).queue).2 = (s.loopOf c l).others p := applyHolds_queue _ _ _
  unfold State.arrive
  simp only [hq, isLeave_eq, isJoin_eq, dropFirst_eq_eraseP, Bool.not_eq_true']
  cases tget (s.loopOf c l).entries p <;> rfl

end

end Sys2Proof.Machine

namespace Sys2Proof.Machine

/-! ### A stage fires (R82, R84) -/

/-- Of the loop, at most the slots that are frozen and the state tokens differ. -/
def LoopSt.SlotsOnly (x y : LoopSt) : Prop := ∃ f ss, y = { x with fault := f, states := ss }

theorem LoopSt.SlotsOnly.refl (x : LoopSt) : x.SlotsOnly x := ⟨_, _, rfl⟩

theorem LoopSt.SlotsOnly.trans {x y z : LoopSt} (h : x.SlotsOnly y) (k : y.SlotsOnly z) : x.SlotsOnly z := by
  obtain ⟨_, _, rfl⟩ := h
  obtain ⟨_, _, rfl⟩ := k
  exact ⟨_, _, rfl⟩

/-- The stage at `m` finds a coordinate that does not rise. -/
def State.fallsAt (s : State) (m : Nat × Bool) (tok : Token) (entry : Option Token) : Bool :=
  (s.cu m.1 m.2).stageFalls (s.cu m.1 m.2).loopView ((s.cu m.1 m.2).stageVal tok entry)

section
variable (s : State) (c l p : Nat) (m : Nat × Bool) (tok : Token)

theorem State.stageTaken_sameRegions (z : State) (k : Option (Fin 4)) : z.SameRegions (match k with
    | some k => z.ctlTake m.1 m.2 k
    | none => z) := by
  split
  · exact z.ctlTake_sameRegions m.1 m.2 _
  · exact .of_ctxs rfl

/-- A stage's outcome `r` freezes the slot as the token stands, or lets a token leave and the loop as it was. -/
def State.FreezesOrSends (r : State × Option Token) : Prop := ∃ z, z.loopOf c l = s.loopOf c l ∧
  (r = (z.setLoop c l ((s.loopOf c l).freeze p tok), none) ∨ ∃ t, r = (z, some t))

/-- What a firing of a stage writes and sends touches no region. -/
theorem State.stageSends_sameRegions (z : State) (y : Cu) (ws : List (Fin 8 × BitVec 32)) (f : FlagWord) (ports : List Nat) (t : Token)
    (o : Option (Nat × Option Token)) : z.SameRegions (((ws.foldl (fun s w => s.setS m.1 m.2 w.1 w.2) (z.setCu m.1 m.2 y)).flag
      m.1 m.2 f).emitExits m.1 m.2 ports p t o) := by
  have hset : ∀ z : State, z.SameRegions (ws.foldl (fun s w => s.setS m.1 m.2 w.1 w.2) z) :=
    fun z => .fold (fun z w => z.setCu_sameRegions _ _ _) ws z
  have hflag : ∀ z : State, z.SameRegions (z.flag m.1 m.2 f) := fun z => .of_ctxs (z.flag_leaves m.1 m.2 f).1
  exact (State.emitExits_sameRegions _ _ _ _ _ _ _).after ((hflag _).after ((hset _).after (z.setCu_sameRegions _ _ _)))

/-- What a stage can do with the DATA token, but for the entry that a fallen coordinate returns (R82, R84). -/
theorem State.stageFire_cases {entry : Option Token} (h : entry = none ∨ s.fallsAt m tok entry = false) :
    s.FreezesOrSends c l p tok (s.stageFire c l p m tok entry) := by
  have frozen : ∀ z : State, z.loopOf c l = s.loopOf c l →
      s.FreezesOrSends c l p tok (z.setLoop c l ((z.loopOf c l).freeze p tok), none) :=
    fun z hz => ⟨z, hz, .inl (by rw [hz])⟩
  have leaves : ∀ (z : State) (t : Token), s.SameRegions z → s.FreezesOrSends c l p tok (z, some t) :=
    fun z t hz => ⟨z, hz.loopOf c l, .inr ⟨t, rfl⟩⟩
  obtain ⟨s', hs'⟩ : ∃ s', s' = ({ s with cur := .cu m.1 m.2 } : State) := ⟨_, rfl⟩
  have hcur : s.SameRegions s' := .of_ctxs (by rw [hs'])
  have hcu : s'.cu m.1 m.2 = s.cu m.1 m.2 := by rw [hs']; rfl
  unfold State.stageFire
  rw [← hs']
  dsimp only
  rw [hcu]
  split
  · exact frozen _ (((State.SameRegions.of_ctxs rfl).after hcur).loopOf c l)
  · split
    · next hfall =>
      rcases h with rfl | h
      · exact frozen _ ((State.loopOf_setLoop _ _ _ _).trans (hcur.loopOf c l))
      · exact absurd (hfall.symm.trans h) (by decide)
    · split
      · exact leaves _ _ ((State.stageTaken_sameRegions m _ _).after hcur)
      · refine iteInduction (motive := s.FreezesOrSends c l p tok) (fun _ => ?_) (fun _ => ?_)
        · exact frozen _ (((State.checkedOnce_sameRegions _ _ _ _).after hcur).loopOf c l)
        · exact leaves _ _ ((State.emitExits_sameRegions _ _ _ _ _ _ _).after ((State.stageTaken_sameRegions m _ _).after hcur))
      · split
        · exact frozen _ (((State.checkedOnce_sameRegions _ _ _ _).after hcur).loopOf c l)
        · split
          · exact frozen _ (((State.SameRegions.of_ctxs rfl).after hcur).loopOf c l)
          · refine leaves _ _ ((State.firedRegion_sameRegions _ _ _ _ rfl).after ?_)
            split
            · exact (State.emitCtl_sameRegions _ _ _ _ _).after
                ((State.stageSends_sameRegions p m _ _ _ _ _ _ _).after ((State.stageTaken_sameRegions m _ _).after hcur))
            · exact (State.stageSends_sameRegions p m _ _ _ _ _ _ _).after ((State.stageTaken_sameRegions m _ _).after hcur)

/-- A coordinate that does not rise freezes its slot, and the entry is back in its place (R84). -/
theorem State.stageFire_falls {t : Token} (hm : stageTok (s.cu m.1 m.2).loopView
      ((s.cu m.1 m.2).stageVal tok (some t)) Token.mismatch = none) (hf : s.fallsAt m tok (some t) = true) :
    let y := { s.loopOf c l with entries := tset (s.loopOf c l).entries p t }
    s.stageFire c l p m tok (some t) =
      ((({ s with cur := .cu m.1 m.2 } : State).setLoop c l y).setLoop c l (y.freeze p tok), none) := by
  intro y
  have hm' : stageTok (({ s with cur := .cu m.1 m.2 } : State).cu m.1 m.2).loopView
      ((({ s with cur := .cu m.1 m.2 } : State).cu m.1 m.2).stageVal tok (some t)) Token.mismatch = none := hm
  have hf' : (({ s with cur := .cu m.1 m.2 } : State).cu m.1 m.2).stageFalls (({ s with cur := .cu m.1 m.2 } : State).cu m.1 m.2).loopView
      ((({ s with cur := .cu m.1 m.2 } : State).cu m.1 m.2).stageVal tok (some t)) = true := hf
  unfold State.stageFire
  simp only [hm', hf', if_true, State.loopOf_setLoop]
  rfl

end

section
variable {s : State} {c l p : Nat} {e m : Nat × Bool} {tok : Token} {entry : Option Token}

/-- The rotation of a position changes at most the slots and the states of its loop. -/
theorem State.rotate_slotsOnly (n : Nat) (h : entry = none ∨ s.fallsAt m tok entry = false) :
    (s.loopOf c l).SlotsOnly ((s.rotate c l p e n m tok entry).loopOf c l) := by
  induction n generalizing s m tok entry with
  | zero => exact .refl _
  | succ n ih =>
    obtain ⟨z, hz, hr | ⟨t, hr⟩⟩ := s.stageFire_cases c l p m tok h
    · unfold State.rotate
      rw [hr, State.loopOf_setLoop]
      exact ⟨_, _, rfl⟩
    · have hlast : ∀ t', (s.loopOf c l).SlotsOnly
          ((z.setLoop c l { z.loopOf c l with states := tset (z.loopOf c l).states p t' }).loopOf c l) := fun t' => by
        rw [State.loopOf_setLoop, hz]
        exact ⟨_, _, rfl⟩
      unfold State.rotate
      rw [hr]
      dsimp only
      split
      · exact hlast _
      · split
        · exact hlast _
        · rw [← hz]
          exact ih (.inl rfl)

/-- A token that its first stage sends straight back to the entry is the slot's new state. -/
theorem State.rotate_single {n h : Nat} {z : State} {r r' : Token} (hf : entry = none ∨ s.fallsAt e tok entry = false)
    (hs : s.stageFire c l p e tok entry = (z, some r)) (hn : z.nextStage l e r = some (e, r', h)) :
    (s.rotate c l p e (n + 1) e tok entry).loopOf c l = { s.loopOf c l with states := tset (s.loopOf c l).states p r' } := by
  have hz : z.loopOf c l = s.loopOf c l := by
    obtain ⟨y, hy, hr | ⟨t, hr⟩⟩ := s.stageFire_cases c l p e tok hf
    · rw [hs] at hr
      cases hr
    · rw [hs] at hr
      cases hr
      exact hy
  unfold State.rotate
  rw [hs]
  dsimp only
  rw [hn]
  dsimp only
  rw [if_pos rfl, State.loopOf_setLoop, hz]

end

/-! ### A join is placed (R80) -/

/-- A token sent on credits that an earlier firing reserved. -/
theorem State.sendReserved_leaves (pt : Nat) (tok : Token) (ks : List Nat) (s : State) :
    ∃ t, ks.foldl (fun s code => State.touch { s with flights := s.flights ++ [Flight.mk pt code tok] } pt .tok) s = t ∧
    s.SameRegions t ∧ t.flights = s.flights ++ ks.map (fun code => Flight.mk pt code tok) ∧ t.tiles = s.tiles := by
  induction ks generalizing s with
  | nil => exact ⟨s, rfl, .of_ctxs rfl, by simp, rfl⟩
  | cons k ks ih =>
    obtain ⟨t, hs, hr, hf, ht⟩ := ih (State.touch { s with flights := s.flights ++ [Flight.mk pt k tok] } pt .tok)
    refine ⟨t, hs, hr.after ((State.touch_sameRegions _ pt .tok).after (.of_ctxs rfl)), ?_, ?_⟩
    · rw [hf]
      simp
    · rw [ht]
      simp

/-- The unit that waited on its loop goes on. -/
theorem State.rotGoesOn_leaves (s : State) (pt : Nat) (u : Bool) (v : EView) :
    let t := (s.setCu pt u { s.cu pt u with rotj := none }).advance pt u v.len
    s.SameRegions t ∧ t.flights = s.flights ∧
      t.cu pt u = { s.cu pt u with rotj := none, pos := s.nextPos pt u v } := by
  intro t
  refine ⟨(State.setCu_sameRegions _ _ _ _).after (s.setCu_sameRegions _ _ _), ?_, ?_⟩
  · simp [t, State.advance, State.goto]
  · refine (State.cu_advance _ pt u u v.len).trans ?_
    rw [if_pos rfl, State.cu_setCu]
    rfl

/-- The loop's answer leaves on the unit's outputs, or is in its register, and the unit goes on (R80, R266). -/
theorem State.rotResult_leaves {s : State} {pt : Nat} {u : Bool} {v : EView} (hv : (s.cu pt u).viewAt (s.cu pt u).pos = some v)
    (r : Payload) (slot : Nat) :
    let t := s.rotResult pt u r slot
    s.SameRegions t ∧ t.flights = s.flights ++ sentOn pt u v.outs (dataToken r (BitVec.ofNat 6 slot) 0 false) ∧
    (∀ k, v.d = .s k → (t.cu pt u).sRegs[k] = BitVec.ofNat 32 (elemAt r 32 0)) ∧ (t.cu pt u).rotj = none ∧
    (t.cu pt u).pos = s.nextPos pt u v := by
  obtain ⟨s1, hs1, hr, hf, ht⟩ := State.sendReserved_leaves pt (dataToken r (BitVec.ofNat 6 slot) 0 false) (v.outs.map (outCode u)) s
  have hcu : s1.cu pt u = s.cu pt u := State.cu_congr ht pt u
  rw [List.map_map] at hf
  have hnext : ∀ y : State, (y.cu pt u).pos = (s.cu pt u).pos → (y.cu pt u).store = (s.cu pt u).store →
      y.nextPos pt u v = s.nextPos pt u v := fun y h1 h2 => by
    unfold State.nextPos Cu.wrap Cu.parcel
    rw [h1, h2]
  unfold State.rotResult
  dsimp only
  rw [hv]
  dsimp only [Option.getD_some]
  rw [hs1]
  split
  · next k hd =>
    obtain ⟨hgr, hgf, hgu⟩ := State.rotGoesOn_leaves (s1.setS pt u k (BitVec.ofNat 32 (elemAt r 32 0))) pt u v
    have hset : (s1.setS pt u k (BitVec.ofNat 32 (elemAt r 32 0))).cu pt u =
        { s.cu pt u with sRegs := (s.cu pt u).sRegs.set k (BitVec.ofNat 32 (elemAt r 32 0)) } := by
      simp [State.setS, State.cu_setCu, hcu]
    refine ⟨hgr.after ((State.setCu_sameRegions _ _ _ _).after hr), hgf.trans (Eq.trans ?_ hf), fun j hj => ?_, by rw [hgu], ?_⟩
    · simp [State.setS]
    · cases hd.symm.trans hj
      rw [hgu, hset]
      simp
    · rw [hgu]
      exact hnext _ (by rw [hset]) (by rw [hset])
  · next hd =>
    obtain ⟨hgr, hgf, hgu⟩ := State.rotGoesOn_leaves s1 pt u v
    refine ⟨hgr.after hr, hgf.trans hf, fun j hj => absurd hj (hd j), by rw [hgu], ?_⟩
    rw [hgu]
    exact hnext _ (by rw [hcu]) (by rw [hcu])

end Sys2Proof.Machine

namespace Sys2Proof.Machine

section
variable {s : State} {c p : Nat} {l : Fin 8} {e : Nat × Bool} (h : RotTurn s c l.val p e)
include h

/-! ### Rows that send nothing -/

theorem RotTurn.recirculates (hz : s.arrive c l.val p e = s.setLoop c l.val (((s.loopOf c l.val).settled p).recirc p)) :
    ArrivalGives s c l [] fun y => Recirculates (s.loopOf c l.val) y p ∧ y.queue = (s.loopOf c l.val).others p := by
  obtain ⟨-, -, -, -, hqueue, hcount, -⟩ := ((s.loopOf c l.val).settled p).recirc_leaves p
  exact h.gives_setLoop hz hcount ⟨LoopSt.recirculates_settled h.lt, hqueue⟩

/-- A frozen slot is given up by a leave. -/
theorem RotTurn.frozen_leaves (hf : bit (s.loopOf c l.val).fault p = true)
    (hl : ((s.loopOf c l.val).others p).any (RotReq.leaves p) = true) :
    ArrivalGives s c l [] fun y => Vacates (s.loopOf c l.val) y p ∧
      y.queue = ((s.loopOf c l.val).others p).eraseP (RotReq.leaves p) ∧ y.entries = (s.loopOf c l.val).entries := by
  refine h.gives_setLoop (y := { ((s.loopOf c l.val).settled p).vacate p with
    queue := ((s.loopOf c l.val).others p).eraseP (RotReq.leaves p) }) ?_ rfl ⟨LoopSt.vacates_settled h.lt h.forms.1, rfl, rfl⟩
  rw [State.arrive_eq]
  simp only [hf, hl, if_true]

theorem RotTurn.frozen_stays (hf : bit (s.loopOf c l.val).fault p = true)
    (hl : ¬((s.loopOf c l.val).others p).any (RotReq.leaves p) = true) :
    ArrivalGives s c l [] fun y => Recirculates (s.loopOf c l.val) y p ∧ y.queue = (s.loopOf c l.val).others p := by
  refine h.recirculates ?_
  rw [State.arrive_eq]
  simp only [hf, hl, if_true, if_false, Bool.false_eq_true]

/-- A bubble takes the leaves of its phase. -/
theorem RotTurn.bubble (hv : bit (s.loopOf c l.val).valid p = false) (hf : bit (s.loopOf c l.val).fault p = false)
    (hj : ((s.loopOf c l.val).others p).any RotReq.joins = false) :
    ArrivalGives s c l [] fun y => y.valid = (s.loopOf c l.val).valid ∧
      y.queue = ((s.loopOf c l.val).others p).filter (fun r => !(r.leaves p)) ∧ y.states = (s.loopOf c l.val).states ∧
      y.entries = (s.loopOf c l.val).entries := by
  refine h.gives_setLoop (y := { (s.loopOf c l.val).settled p with
    queue := ((s.loopOf c l.val).others p).filter fun r => !(r.leaves p) }) ?_ rfl ⟨rfl, rfl, rfl, rfl⟩
  rw [State.arrive_eq]
  simp only [hv, hf, hj, Bool.not_false, if_true, if_false, Bool.false_eq_true]

end

/-! ### A valid slot that leaves, or waits (R81, R83) -/

/-- The entry of a phase is an EOS. -/
theorem any_eos_iff (o : Option Token) : o.any (·.kind == .eos) = true ↔ ∃ t, o = some t ∧ t.kind = .eos := by
  simp only [Option.any_eq_true, beq_iff_eq]

section
variable {s : State} {c p : Nat} {l : Fin 8} {e : Nat × Bool} (h : RotTurn s c l.val p e)
  (hv : bit (s.loopOf c l.val).valid p = true ∧ bit (s.loopOf c l.val).fault p = false)
include h hv

theorem RotTurn.leave_sends (hl : (((s.loopOf c l.val).others p).any (RotReq.leaves p) ||
      (tget (s.loopOf c l.val).entries p).any (·.kind == .eos)) = true)
    (hc : s.canEmit (s.leavePort e).1 [(s.leavePort e).2] = true) {t : Token} (ht : tget (s.loopOf c l.val).states p = some t) :
    ArrivalGives s c l [Flight.mk (s.leavePort e).1 (s.leavePort e).2 { t with kind := .data, slot := BitVec.ofNat 6 p }] fun y =>
      Vacates (s.loopOf c l.val) y p ∧ y.queue = ((s.loopOf c l.val).others p).eraseP (RotReq.leaves p) ∧
      y.entries = if (tget (s.loopOf c l.val).entries p).any (·.kind == .eos) then tdel (s.loopOf c l.val).entries p
        else (s.loopOf c l.val).entries := by
  obtain ⟨hvalid, hfault⟩ := hv
  refine h.gives (z := (s.setLoop c l.val { ((s.loopOf c l.val).settled p).vacate p with
      queue := ((s.loopOf c l.val).others p).eraseP (RotReq.leaves p)
      entries := if (tget (s.loopOf c l.val).entries p).any (·.kind == .eos) then tdel (s.loopOf c l.val).entries p
        else (s.loopOf c l.val).entries }).emit (s.leavePort e).1 (s.leavePort e).2
        { t with kind := .data, slot := BitVec.ofNat 6 p }) ?_ (State.emit_flights _ _ _ _)
    (((State.emit_sameRegions _ _ _ _).loopOf c l.val).trans (State.loopOf_setLoop _ _ _ _)) rfl
    ⟨LoopSt.vacates_settled h.lt h.forms.1, rfl, rfl⟩
  rw [State.arrive_eq]
  simp only [hvalid, hfault, hl, hc, ht, Bool.not_true, if_true, if_false, Bool.false_eq_true, Option.getD_some]

theorem RotTurn.leave_waits (hl : (((s.loopOf c l.val).others p).any (RotReq.leaves p) ||
      (tget (s.loopOf c l.val).entries p).any (·.kind == .eos)) = true)
    (hc : s.canEmit (s.leavePort e).1 [(s.leavePort e).2] = false) :
    ArrivalGives s c l [] fun y => Recirculates (s.loopOf c l.val) y p ∧ y.queue = (s.loopOf c l.val).others p := by
  obtain ⟨hvalid, hfault⟩ := hv
  refine h.recirculates ?_
  rw [State.arrive_eq]
  simp only [hvalid, hfault, hl, hc, Bool.not_true, if_true, if_false, Bool.false_eq_true]

/-- A held slot, and one that lacks its entry, a credit or a control token, recirculates. -/
theorem RotTurn.stalls (hl : (((s.loopOf c l.val).others p).any (RotReq.leaves p) ||
      (tget (s.loopOf c l.val).entries p).any (·.kind == .eos)) = false)
    (hw : (s.loopOf c l.val).heldAt p = true ∨ tget (s.loopOf c l.val).entries p = none ∨
      s.exitCredits c l.val = false ∨ s.stageTokens c l.val = false) :
    ArrivalGives s c l [] fun y => Recirculates (s.loopOf c l.val) y p ∧ y.queue = (s.loopOf c l.val).others p := by
  obtain ⟨hvalid, hfault⟩ := hv
  refine h.recirculates ?_
  rw [State.arrive_eq]
  simp only [hvalid, hfault, hl, LoopSt.bit_settled_hold h.lt, Bool.not_true, if_false, Bool.false_eq_true]
  split
  · rfl
  · next hheld =>
    replace hw := hw.resolve_left hheld
    cases hent : tget (s.loopOf c l.val).entries p with
    | none => rfl
    | some t => exact if_pos (hw.resolve_left (by rw [hent]; exact Option.some_ne_none t))

end

/-! ### A bubble that takes a join (R80) -/

/-- The number of a phase, read back from the loop's answer. -/
theorem elemAt_phase {p : Nat} (hp : p < 64) : elemAt (BitVec.ofNat 512 p) 32 0 = p := by
  have hsix : p < 2 ^ 6 := hp
  have hlt : ∀ n, 6 ≤ n → p % 2 ^ n = p := fun n hn =>
    Nat.mod_eq_of_lt (Nat.lt_of_lt_of_le hsix (Nat.pow_le_pow_right Nat.zero_lt_two hn))
  have hval : ∀ n, 6 ≤ n → (BitVec.ofNat n p).toNat = p := fun n hn => (BitVec.toNat_ofNat p n).trans (hlt n hn)
  unfold elemAt natBits
  rw [hval 512 (by decide), Nat.mul_zero, Nat.shiftRight_zero, hlt 32 (by decide)]

theorem State.placeJoin_eq {s : State} {c l p : Nat} {x : LoopSt} {tok : Token} {pt : Nat} {u : Bool}
    (hq : x.queue.find? RotReq.joins = some (.join tok pt u)) : s.placeJoin c l p x =
      (s.setLoop c l { x with
        queue := x.queue.eraseP RotReq.joins, valid := maskSet x.valid p true
        states := tset x.states p { tok with kind := .hold } }).rotResult pt u (BitVec.ofNat 512 p) p := by
  unfold State.placeJoin
  rw [isJoin_eq, dropFirst_eq_eraseP, hq]

/-- The join is in the slot, and its ROTJ has its phase. -/
theorem RotTurn.places {s : State} {c p : Nat} {l : Fin 8} {e : Nat × Bool} (h : RotTurn s c l.val p e)
    (hv : bit (s.loopOf c l.val).valid p = false) (hf : bit (s.loopOf c l.val).fault p = false) {tok : Token} {pt : Nat} {u : Bool}
    (hq : ((s.loopOf c l.val).others p).find? RotReq.joins = some (.join tok pt u)) {v : EView}
    (hview : (s.cu pt u).viewAt (s.cu pt u).pos = some v) :
    ∃ t, exec (.rotationArrival c l) s = .next t ∧
      t.flights = s.flights ++ sentOn pt u v.outs (dataToken (BitVec.ofNat 512 p) (BitVec.ofNat 6 p) 0 false) ∧
      (∀ k, v.d = .s k → (t.cu pt u).sRegs[k] = BitVec.ofNat 32 p) ∧ (t.cu pt u).rotj = none ∧
      (t.cu pt u).pos = s.nextPos pt u v ∧
      let y := t.loopOf c l.val
      y.count = (s.loopOf c l.val).count + 1 ∧ y.queue = ((s.loopOf c l.val).others p).eraseP RotReq.joins ∧
      MaskAt (s.loopOf c l.val).valid y.valid p true ∧ tget y.states p = some { tok with kind := .hold } ∧
      y.entries = (s.loopOf c l.val).entries := by
  have hany : ((s.loopOf c l.val).others p).any RotReq.joins = true :=
    List.any_of_mem (List.mem_of_find?_eq_some hq) rfl
  have harrive : s.arrive c l.val p e = (s.setLoop c l.val { (s.loopOf c l.val).settled p with
      queue := ((s.loopOf c l.val).others p).eraseP RotReq.joins, valid := maskSet (s.loopOf c l.val).valid p true
      states := tset (s.loopOf c l.val).states p { tok with kind := .hold } }).rotResult pt u (BitVec.ofNat 512 p) p := by
    rw [State.arrive_eq]
    simp only [hv, hf, hany, Bool.not_false, if_true, if_false, Bool.false_eq_true]
    exact State.placeJoin_eq hq
  refine ⟨_, exec_rotationArrival h, ?_⟩
  rw [harrive, State.loopOf_tickLoop]
  obtain ⟨hr, hfl, hreg, hwait, hpos⟩ := State.rotResult_leaves (s := s.setLoop c l.val { (s.loopOf c l.val).settled p with
      queue := ((s.loopOf c l.val).others p).eraseP RotReq.joins, valid := maskSet (s.loopOf c l.val).valid p true
      states := tset (s.loopOf c l.val).states p { tok with kind := .hold } }) (u := u) hview (BitVec.ofNat 512 p) p
  rw [hr.loopOf, State.loopOf_setLoop]
  refine ⟨hfl, fun k hk => ?_, hwait, hpos, rfl, rfl, maskAt_maskSet _ h.lt true, tget_tset_self _ _ _, rfl⟩
  exact (hreg k hk).trans (congrArg _ (elemAt_phase h.lt))

/-! ### A slot that fires (R82, R84) -/

theorem State.rotate_frozen {s z : State} {c l p : Nat} {e m : Nat × Bool} {tok : Token} {entry : Option Token} (n : Nat)
    (hs : s.stageFire c l p m tok entry = (z, none)) : s.rotate c l p e (n + 1) m tok entry = z := by
  unfold State.rotate
  rw [hs]

theorem State.st_setLoop (s : State) (c l : Nat) (x : LoopSt) : ((s.setLoop c l x).ctx c).st = (s.ctx c).st := by
  unfold State.setLoop
  rw [State.ctx_modCtx_self]

theorem State.st_tickLoop (z : State) (t : Agent) (c l : Nat) : ((({ z with cur := t } : State).tickLoop c l).ctx c).st =
    (z.ctx c).st := State.st_setLoop _ _ _ _

/-- The loop from which the DATA token of phase `p` sets out: its entry is consumed. -/
def LoopSt.firing (x : LoopSt) (p : Nat) : LoopSt :=
  { x with hold := maskSet x.hold p false, queue := x.others p, entries := tdel x.entries p }

section
variable {s : State} {c p : Nat} {l : Fin 8} {e : Nat × Bool} (h : RotTurn s c l.val p e)
  (hv : bit (s.loopOf c l.val).valid p = true ∧ bit (s.loopOf c l.val).fault p = false)
  (hl : ¬((s.loopOf c l.val).others p).any (RotReq.leaves p) = true) (hheld : (s.loopOf c l.val).heldAt p = false)
  {tok : Token} (hent : tget (s.loopOf c l.val).entries p = some tok) (hk : tok.kind ≠ .eos)
  (hc : s.exitCredits c l.val = true) (hs : s.stageTokens c l.val = true)
include h hv hl hheld hent hk hc hs

theorem RotTurn.arrive_fires : s.arrive c l.val p e = (s.setLoop c l.val ((s.loopOf c l.val).firing p)).rotate c l.val p e 192 e
    { (tget (s.loopOf c l.val).states p).getD {} with kind := .data } (some tok) := by
  obtain ⟨hvalid, hfault⟩ := hv
  have heos : (tok.kind == Kind.eos) = false := beq_eq_false_iff_ne.mpr hk
  have hfiring : (s.loopOf c l.val).firing p =
      { (s.loopOf c l.val).settled p with entries := tdel (s.loopOf c l.val).entries p } := by
    unfold LoopSt.firing
    rw [← LoopSt.settled_hold_of_free h.lt hheld]
    rfl
  rw [State.arrive_eq, hfiring]
  simp only [hvalid, hfault, hl, LoopSt.bit_settled_hold h.lt, hheld, hent, Option.any_some, heos, hc, hs, Bool.not_true,
    Bool.or_self, Bool.false_eq_true, Bool.true_eq_false, or_self, if_false]

/-- A coordinate that does not rise freezes the slot, and nothing is consumed. -/
theorem RotTurn.fires_falls (hfall : s.fallsAt e { (tget (s.loopOf c l.val).states p).getD {} with kind := .data } (some tok) = true)
    (hm : stageTok (s.cu e.1 e.2).loopView ((s.cu e.1 e.2).stageVal
      { (tget (s.loopOf c l.val).states p).getD {} with kind := .data } (some tok)) Token.mismatch = none) :
    ∃ t, exec (.rotationArrival c l) s = .next t ∧ (t.ctx c).st = (s.ctx c).st ∧ t.flights = s.flights ∧
      let x := s.loopOf c l.val
      let y := t.loopOf c l.val
      y.count = x.count + 1 ∧ y.queue = x.others p ∧ y.valid = x.valid ∧ MaskAt x.fault y.fault p true ∧
      (∀ k, tget y.entries k = tget x.entries k) ∧ ∀ k, tget y.states k =
        if k = p then some { (tget x.states p).getD {} with kind := .hold } else tget x.states k := by
  have hstage := State.stageFire_falls (s := s.setLoop c l.val ((s.loopOf c l.val).firing p)) c l.val p e _ hm hfall
  rw [State.loopOf_setLoop] at hstage
  refine ⟨_, exec_rotationArrival h, ?_⟩
  rw [h.arrive_fires hv hl hheld hent hk hc hs, State.rotate_frozen 191 hstage, State.loopOf_tickLoop, State.loopOf_setLoop,
    State.st_tickLoop, State.st_setLoop, State.st_setLoop]
  refine ⟨State.st_setLoop _ _ _ _, rfl, rfl, rfl, rfl, maskAt_setFld _ h.lt true, fun k => ?_, fun k => tget_tset _ _ _ _⟩
  show tget (tset (tdel (s.loopOf c l.val).entries p) p tok) k = _
  rw [tget_tset, tget_tdel _ _ _ h.forms.2]
  split
  · next hkp => rw [hkp, hent]
  · rfl

/-- The entry is consumed; a token that comes straight back is the slot's state. -/
theorem RotTurn.fires_goes (hfall : s.fallsAt e { (tget (s.loopOf c l.val).states p).getD {} with kind := .data } (some tok) = false) :
    ∃ t, exec (.rotationArrival c l) s = .next t ∧
      let x := s.loopOf c l.val
      let y := t.loopOf c l.val
      y.count = x.count + 1 ∧ y.queue = x.others p ∧ y.valid = x.valid ∧ MaskAt x.hold y.hold p false ∧
      (∀ k, tget y.entries k = if k = p then none else tget x.entries k) ∧
      ∀ z r r' d, (s.setLoop c l.val (x.firing p)).stageFire c l.val p e { (tget x.states p).getD {} with kind := .data }
          (some tok) = (z, some r) →
        z.nextStage l.val e r = some (e, r', d) → tget y.states p = some r' ∧ y.fault = x.fault := by
  have hfall' : some tok = none ∨ (s.setLoop c l.val ((s.loopOf c l.val).firing p)).fallsAt e
      { (tget (s.loopOf c l.val).states p).getD {} with kind := .data } (some tok) = false := .inr hfall
  refine ⟨_, exec_rotationArrival h, ?_⟩
  rw [h.arrive_fires hv hl hheld hent hk hc hs, State.loopOf_tickLoop]
  obtain ⟨f, ss, hy⟩ := State.rotate_slotsOnly (c := c) (l := l.val) (p := p) (e := e) 192 hfall'
  have hback := fun z r r' d hz hn => State.rotate_single (c := c) (l := l.val) (p := p) (n := 191) (z := z) (r := r)
    (r' := r') (h := d) hfall' hz hn
  rw [State.loopOf_setLoop] at hy hback
  refine ⟨by rw [hy]; rfl, by rw [hy]; rfl, by rw [hy]; rfl, ?_, fun k => ?_, fun z r r' d hz hn => ?_⟩
  · rw [hy]
    exact maskAt_maskSet _ h.lt false
  · rw [hy]
    exact tget_tdel _ _ _ h.forms.2
  · rw [hback z r r' d hz hn]
    exact ⟨tget_tset_self _ _ _, rfl⟩

end

/-! ### The stop (R85) -/

/-- A token sent on several ports of several tiles. -/
theorem State.emitPorts_leaves (tok : Token) (ps : List (Nat × Nat)) (s : State) :
    let t := ps.foldl (fun s q => s.emit q.1 q.2 tok) s
    s.SameRegions t ∧ t.flights = s.flights ++ ps.map fun q => Flight.mk q.1 q.2 tok := by
  induction ps generalizing s with
  | nil => exact ⟨.of_ctxs rfl, (List.append_nil _).symm⟩
  | cons q ps ih =>
    obtain ⟨hr, hf⟩ := ih (s.emit q.1 q.2 tok)
    refine ⟨hr.after (State.emit_sameRegions _ _ _ _), ?_⟩
    rw [List.foldl_cons, hf]
    simp

/-- A loop marked as stopped sends nothing itself. -/
theorem State.marksStopped_leaves (z : State) (c l : Nat) :
    let t := (z.setLoop c l { z.loopOf c l with stopped := true }).stepCheck c
    (t.loopOf c l).stopped = true ∧ t.flights = z.flights := by
  refine ⟨?_, (State.stepCheck_only _ c).take.flights⟩
  rw [State.SameRegions.loopOf (State.Retouched.ctx (State.stepCheck_retouched _ c)), State.loopOf_setLoop]

theorem State.loopStop_leaves (s : State) (c l : Nat) (e : Nat × Bool) :
    ((s.loopStop c l e).loopOf c l).stopped = true ∧ (s.loopStop c l e).flights =
      s.flights ++ (s.leavePort e :: s.loopExits c l).dedup.map fun q => Flight.mk q.1 q.2 { kind := .eos } := by
  obtain ⟨-, hsent⟩ := State.emitPorts_leaves eosToken (s.leavePort e :: s.loopExits c l).dedup s
  obtain ⟨hstop, hflights⟩ := State.marksStopped_leaves
    ((s.leavePort e :: s.loopExits c l).dedup.foldl (fun s q => s.emit q.1 q.2 eosToken) s) c l
  exact ⟨hstop, hflights.trans hsent⟩

/-- A closed and empty loop stops at an arrival of phase 0. -/
theorem exec_rotationArrival_stops {z : State} {c : Nat} {l : Fin 8} {e : Nat × Bool} (hent : z.loopEntry c l.val = some e)
    (hf : (z.ctx c).st.fires = true) (hb : (z.loopOf c l.val).busy = .none) (hr : (z.loopOf c l.val).running = true)
    (hs : (z.loopOf c l.val).stopped = false) (hk : (z.loopOf c l.val).parked = false)
    (hv : (z.loopOf c l.val).savesNow 0 = none) (hi : (z.loopOf c l.val).inbound.any (z.loopOf c l.val).arrived = false)
    (h0 : (z.loopOf c l.val).count % z.loopSlots c l.val = 0) (hm : z.mayStop c l.val e = true) :
    ∃ t, exec (.rotationArrival c l) z = .next t ∧ (t.loopOf c l.val).stopped = true ∧
      t.flights = z.flights ++ (z.leavePort e :: z.loopExits c l.val).dedup.map fun r => Flight.mk r.1 r.2 { kind := .eos } := by
  obtain ⟨hstop, hflights⟩ := z.loopStop_leaves c l.val e
  refine ⟨_, exec_rotationArrival_of_loopEntry hent hf hb hr hs hk (by rw [h0]; exact hv) hi, ?_⟩
  rw [if_pos ⟨h0, hm⟩, State.loopOf_tickLoop]
  generalize z.loopStop c l.val e = t at hstop hflights
  exact ⟨hstop, hflights⟩

/-- Settles O45: each row of R81 reads off the arrival over the settled loop; a firing changes at most the slots and the
states of its loop, whatever its stages do. -/
theorem rotationArrivals : Obligations.RotationArrivals := by
  unfold Obligations.RotationArrivals
  intro s c p l e h x n q leave ent eos port valid
  have heos := any_eos_iff ent
  have hout : (q.any (RotReq.leaves p) || ent.any (·.kind == .eos)) = true ↔ leave ∨ eos := by
    rw [Bool.or_eq_true, heos]
  refine ⟨h.frozen_leaves, h.frozen_stays, fun hv hf tok pt u hq v hview => h.places hv hf hq hview, h.bubble,
    fun hv hl hc t ht => ?_, fun hv hl hc => h.leave_waits hv (hout.mpr hl) hc, fun hv hl he hw => ?_,
    fun hv hl hheld tok hent hk hc hs => ⟨?_, ?_⟩, fun z => exec_rotationArrival_stops⟩
  · obtain ⟨t', ht', hcount, hflights, hvac, hqueue, hentries⟩ := h.leave_sends hv (hout.mpr hl) hc ht
    refine ⟨t', ht', hcount, hflights, hvac, hqueue, fun he k => ?_, fun he => ?_⟩
    · rw [hentries, if_pos (heos.mpr he)]
      exact tget_tdel _ _ _ h.forms.2
    · rw [hentries, if_neg (fun hany => he (heos.mp hany))]
  · exact h.stalls hv (Bool.eq_false_iff.mpr fun hany => (hout.mp hany).elim hl he) hw
  · exact h.fires_falls hv hl hheld hent hk hc hs
  · exact h.fires_goes hv hl hheld hent hk hc hs

end Sys2Proof.Machine

namespace Sys2Proof.Machine

/-! ## Random elements, Gumbel scores, literals and state moves (O6) -/

/-- An operation that fires by `fireElem` delivers what its `elemFire` computes. -/
theorem elemFire_delivers {i : Instr} {v : EView} {s : State} {pt : Nat} {u : Bool} {hs : List Token}
    (hv : elemView i = some v) (hF : Fires s pt u v hs) (hrun : elemRun v s = fireElem v (elemFire s v) s)
    {r : Fire} (hr : elemFire s v (s.opnds pt u v) = r) (hreq : r.req = none) (hctl : r.ctl = none) (hjump : r.jump = none)
    (hstay : r.stay = false) (hpass : r.pass = none) (hn : (r.sregs.map (·.1)).Nodup) {p : Payload} (hout : r.out = some p) :
    DeliversToken i s pt u v (resultToken p hs) (r.sreg (fmtWidth v.m.ty)) r.sregs r.flags := by
  have hsent : r.token hs = some (resultToken p hs) := by simp only [Fire.token, hpass, hout, Option.map_some]
  subst hr
  exact fireElem_delivers hF (elemFire s v) ((exec_elem hv s).trans hrun) hreq hctl hjump hstay hn hsent

/-- The flags of an element-wise result are those of its elements together. -/
theorem elemwise_flags (w n : Nat) (f : Nat → Res) : (elemwise w n f).flags = flagsOf n f := by
  simp only [elemwise, flagsOf, List.foldl_map]

/-- Elements that set no flag set none together. -/
theorem flagsOf_zero (n : Nat) {f : Nat → Res} (h : ∀ k, (f k).2 = 0) : flagsOf n f = 0 :=
  List.foldlRecOn (motive := (· = 0)) (List.range n) (fun a k => a ||| (f k).2) rfl fun a ha k _ => by rw [ha, h]; rfl

theorem elemwise_out (w n : Nat) (f : Nat → Res) :
    (elemwise w n f).out = some (payloadOf w ((List.range n).map fun k => (f k).1)) := by
  simp only [elemwise, List.map_map]
  rfl

/-- A 32-bit value in every element, and whole in an S register (R231). -/
theorem wholeFire_eq (v : EView) (x : BitVec 32) : wholeFire v x =
    { out := some (payloadOf (fmtWidth v.m.ty) (List.replicate (elemCount v) x.toNat)), whole := some x } := rfl

/-- The two registers of a counter differ. -/
theorem counterRegs_ne (p : Nat) : (Fin.ofNat 8 (2 * p) : Fin 8) ≠ Fin.ofNat 8 (2 * p + 1) := by
  intro h
  have hval : 2 * p % 8 = (2 * p + 1) % 8 := congrArg Fin.val h
  omega

/-- A pair of registers reads as their bits in one word. -/
theorem pair64_eq_toNat (hi lo : BitVec 32) : pair64 hi lo = (hi ++ lo).toNat := by
  rw [BitVec.toNat_append, pair64, Nat.shiftLeft_eq, Nat.mul_comm, Nat.two_pow_add_eq_or_of_lt lo.isLt]

/-- The halves of a counter that has stepped (R228). -/
theorem counterHalves (x : BitVec 64) :
    BitVec.ofNat 32 ((x.toNat + 1) % 2 ^ 64) = (x + 1).extractLsb' 0 32 ∧
    BitVec.ofNat 32 ((x.toNat + 1) % 2 ^ 64 / 2 ^ 32) = (x + 1).extractLsb' 32 32 := by
  have hstep : (x.toNat + 1) % 2 ^ 64 = (x + 1).toNat := (BitVec.toNat_add x 1).symm
  rw [hstep]
  constructor
  · apply BitVec.eq_of_toNat_eq
    rw [BitVec.toNat_ofNat, BitVec.extractLsb'_toNat, Nat.shiftRight_zero]
  · apply BitVec.eq_of_toNat_eq
    rw [BitVec.toNat_ofNat, BitVec.extractLsb'_toNat, Nat.shiftRight_eq_div_pow]

section
variable {i : Instr} {v : EView} {s : State} {pt : Nat} {u : Bool} {hs : List Token}
  (hv : elemView i = some v) (hF : Fires s pt u v hs)
include hv hF

/-- An operation whose `elemFire` is a 32-bit value delivers it whole (R231). -/
theorem wholeFire_delivers (hrun : elemRun v s = fireElem v (elemFire s v) s) {x : BitVec 32}
    (hr : elemFire s v (s.opnds pt u v) = wholeFire v x) :
    DeliversToken i s pt u v (resultToken (payloadOf (fmtWidth v.m.ty) (List.replicate (elemCount v) x.toNat)) hs) x [] 0 := by
  rw [wholeFire_eq] at hr
  exact elemFire_delivers hv hF hrun hr rfl rfl rfl rfl rfl List.nodup_nil rfl

/-- RAND delivers the elements of R117, and INC steps its counter. -/
theorem rand_delivers (hop : v.op = .rand) :
    let o := s.opnds pt u v
    let imm := v.m.imm.toNat
    let w := fmtWidth v.m.ty
    let sp := natBits imm 0 2
    let lo : Fin 8 := Fin.ofNat 8 (2 * natBits imm 2 2)
    let hi : Fin 8 := Fin.ofNat 8 (2 * natBits imm 2 2 + 1)
    let seed : BitVec 64 := o.cRegs[(Fin.ofNat 8 (2 * sp + 1) : Fin 8)] ++ o.cRegs[(Fin.ofNat 8 (2 * sp) : Fin 8)]
    let counter : BitVec 64 := o.sRegs[hi] ++ o.sRegs[lo]
    let p := payloadOf w ((List.range (elemCount v)).map fun k => randElem v.m.ty seed.toNat counter.toNat k)
    DeliversToken i s pt u v (resultToken p hs) (BitVec.ofNat 32 (elemAt p w 0))
      (if natBits imm 4 1 = 1 then [(lo, (counter + 1).extractLsb' 0 32), (hi, (counter + 1).extractLsb' 32 32)] else []) 0 := by
  intro o imm w sp lo hi seed counter p
  have hrun : elemRun v s = fireElem v (elemFire s v) s := by rw [elemRun, hop]
  have hsregs : (fireRand v o).sregs = if natBits imm 4 1 = 1 then
      [(lo, (counter + 1).extractLsb' 0 32), (hi, (counter + 1).extractLsb' 32 32)] else [] := by
    obtain ⟨hlow, hhigh⟩ := counterHalves counter
    rw [← hlow, ← hhigh, ← pair64_eq_toNat]
    rfl
  have hout : (fireRand v o).out = some p := by
    simp only [p, seed, counter, ← pair64_eq_toNat]
    exact elemwise_out _ _ _
  have hflags : (fireRand v o).flags = 0 := (elemwise_flags w _ _).trans (flagsOf_zero _ fun _ => rfl)
  have hr : elemFire s v o = fireRand v o := by rw [elemFire, hop]
  have hnodup : ((fireRand v o).sregs.map (·.1)).Nodup := by
    rw [hsregs]
    split
    · exact List.nodup_cons.mpr ⟨fun h => counterRegs_ne _ (List.mem_singleton.mp h), List.nodup_singleton _⟩
    · exact List.nodup_nil
  have hd := elemFire_delivers hv hF hrun hr rfl rfl rfl rfl rfl hnodup hout
  rw [hsregs, hflags] at hd
  have hsreg : (fireRand v o).sreg w = BitVec.ofNat 32 (elemAt p w 0) := by
    rw [Fire.sreg, hout]
    rfl
  rwa [hsreg] at hd

/-- GUMB delivers the Gumbel step of each element (R118, R229). -/
theorem gumb_delivers (hop : v.op = .gumb) :
    let o := s.opnds pt u v
    DeliversElems i s pt u v hs (fmtWidth v.m.ty) (elemCount v) fun k =>
      gumbElem v.m.ty v.m.sat v.m.nprop (o.ea v k)
        (if v.m.ty = .bf16 ∧ k ≥ 16 then o.c.elem 32 (k - 16) else o.b.elem 32 k) := by
  intro o
  have hrun : elemRun v s = fireElem v (elemFire s v) s := by rw [elemRun, hop]
  have hr : elemFire s v o = fireGumb v o := by rw [elemFire, hop]
  have hd := elemFire_delivers hv hF hrun hr rfl rfl rfl rfl rfl List.nodup_nil (elemwise_out _ _ _)
  rwa [show (fireGumb v o).flags = _ from elemwise_flags _ _ _, Fire.sreg,
    show (fireGumb v o).out = _ from elemwise_out _ _ _] at hd

end

/-- Settles O6, operation by operation: each fires by `fireElem`, which delivers what the operation computes. -/
theorem randomAndStateResults : Obligations.RandomAndStateResults := by
  intro i v s pt u hs hv hF o imm w whole
  refine ⟨rand_delivers hv hF, gumb_delivers hv hF, fun hop => ?_, fun hop r ha => ?_, fun hop ha => ?_,
    fun hop r ha => ?_, fun hop ha => ?_, fun hop t ha => ?_⟩
  all_goals have hrun : elemRun v s = fireElem v (elemFire s v) s := by rw [elemRun, hop]
  · exact wholeFire_delivers hv hF hrun (by rw [elemFire, hop]; rfl)
  · have hr : elemFire s v o = fireIncs v o := by rw [elemFire, hop]
    refine wholeFire_delivers hv hF hrun (hr.trans ?_)
    simp only [fireIncs, ha, OpVal.scalar, BitVec.ofNat_toNat, BitVec.setWidth_eq]
  · have hr : elemFire s v o = fireIncs v o := by rw [elemFire, hop]
    refine wholeFire_delivers hv hF hrun (hr.trans ?_)
    simp only [fireIncs, ha, OpVal.scalar, BitVec.zero_add]
  · have hr : elemFire s v o = fireMovs v o := by rw [elemFire, hop]
    refine wholeFire_delivers hv hF hrun (hr.trans ?_)
    simp only [fireMovs, ha, OpVal.scalar, BitVec.ofNat_toNat, BitVec.setWidth_eq]
  · have hr : elemFire s v o = fireMovs v o := by rw [elemFire, hop]
    refine wholeFire_delivers hv hF hrun (hr.trans ?_)
    simp only [fireMovs, ha, OpVal.scalar]
    rfl
  · have hr : elemFire s v o = { out := some t.payload } := by
      simp only [elemFire, hop, fireMovs, ha]
    exact elemFire_delivers hv hF hrun hr rfl rfl rfl rfl rfl List.nodup_nil rfl

end Sys2Proof.Machine

namespace Sys2Proof.Machine

/-! ## The matrix unit: multiplies (O17) -/

/-! ### A token at the head -/

/-- A slot that holds data under a claim answers that claim (R135). -/
theorem Mx.claim_ready {x : Mx} {c : BitVec 8} (h : SlotHolds x c) : x.claim c.toNat = .ready := by
  have hk : (Fin.ofNat 16 (c.toNat / 16)).val = c.toNat / 16 := Nat.mod_eq_of_lt (by omega)
  obtain ⟨hgen, hst⟩ := h (Fin.ofNat 16 (c.toNat / 16)) hk
  simp only [Mx.claim, hgen, ne_eq, not_true_eq_false, if_false]
  rcases hst with hst | hst <;> rw [hst]

/-- A clean token at the head whose claims hold fires. -/
theorem onToken_of_head {s : State} {pt op : Nat} {t : MxTok} (h : MxHead s pt op t) {claims : List Nat}
    (hc : ∀ c ∈ claims, (s.mx pt).claim c = .ready) (f : Nat → State → Out) : onToken op t claims s f = f pt s := by
  obtain ⟨w, rest, hq⟩ := h.head
  have habsent : ∀ r, r ≠ .ready → (claims.map (s.mx pt).claim).contains r = false := fun r hr => by
    rw [Bool.eq_false_iff, ne_eq, List.contains_iff_mem, List.mem_map]
    rintro ⟨c, hmem, hcr⟩
    exact hr (hcr.symm.trans (hc c hmem))
  simp only [onToken, h.turn, h.active, hq, h.fields, habsent .wrong (by decide), habsent .wait (by decide), List.isEmpty_nil,
    Bool.not_true, Bool.false_eq_true, if_false]

/-- Without an injected error the node finds none (R399). -/
theorem State.mxUpset_sound {s : State} (h : s.upset = 0) (pt : Nat) (t : MxTok) (claims : List Nat) :
    s.mxUpset pt t claims = s := by
  simp only [State.mxUpset, h]

theorem State.mxUpset_setMx {s : State} (h : s.upset = 0) (pt : Nat) (m : Mx) (t : MxTok) (claims : List Nat) :
    (s.setMx pt m).mxUpset pt t claims = s.setMx pt m :=
  State.mxUpset_sound (s := s.setMx pt m) h pt t claims

theorem State.mxSpoils_sound {s : State} (h : s.upset = 0) : s.mxSpoils = false := by
  simp [State.mxSpoils, h]

/-! ### The entries of the outputs (R252) -/

/-- Entries of a table written one after another, each at its own key. -/
theorem tgetD_foldl_tset {α β : Type} (key : β → Nat) (f : β → α → α) (d : α) (l : List β) (hl : (l.map key).Nodup)
    (a : Tbl α) :
    (∀ p ∈ l, tgetD (l.foldl (fun a p => tset a (key p) (f p (tgetD a (key p) d))) a) (key p) d = f p (tgetD a (key p) d)) ∧
    ∀ k, (∀ p ∈ l, k ≠ key p) →
      tgetD (l.foldl (fun a p => tset a (key p) (f p (tgetD a (key p) d))) a) k d = tgetD a k d := by
  induction l generalizing a with
  | nil => exact ⟨fun _ h => absurd h List.not_mem_nil, fun _ _ => rfl⟩
  | cons q l ih =>
    obtain ⟨hq, hl⟩ := List.nodup_cons.mp hl
    have hne : ∀ p ∈ l, key q ≠ key p := fun p hp h => hq (h ▸ List.mem_map_of_mem hp)
    obtain ⟨hin, hout⟩ := ih hl (tset a (key q) (f q (tgetD a (key q) d)))
    refine ⟨fun p hp => ?_, fun k hk => ?_⟩
    · rcases List.mem_cons.mp hp with rfl | hp
      · rw [List.foldl_cons, hout _ hne, tgetD_tset_self]
      · rw [List.foldl_cons, hin p hp, tgetD_tset_ne _ _ _ (hne p hp).symm]
    · rw [List.foldl_cons, hout k fun p hp => hk p (List.mem_cons_of_mem _ hp),
        tgetD_tset_ne _ _ _ (hk q List.mem_cons_self)]

theorem MxTok.mem_outs {t : MxTok} {p : Nat × Nat} : p ∈ t.outs ↔ p.1 < t.m ∧ p.2 < t.n := by
  obtain ⟨m, n⟩ := p
  simp [MxTok.outs]

/-- R182's rules on the sizes of a token keep its outputs in entries of their own. -/
theorem MxTok.entry_inj {t : MxTok} (h : t.int = true ∨ t.nm1.toNat < 16) {m n m' n' : Nat} (hn : n < t.n) (hn' : n' < t.n)
    (he : t.entry m n = t.entry m' n') : m = m' ∧ n = n' := by
  have hw : t.n = t.nm1.toNat + 1 := rfl
  have h32 : t.nm1.toNat < 32 := t.nm1.isLt
  cases hi : t.int with
  | true =>
    simp only [MxTok.entry, hi, if_true] at he
    omega
  | false =>
    simp only [MxTok.entry, hi, Bool.false_eq_true, if_false] at he
    have h16 : t.nm1.toNat < 16 := h.resolve_left (by simp [hi])
    omega

theorem MxTok.nodup_entries {t : MxTok} (h : t.int = true ∨ t.nm1.toNat < 16) :
    (t.outs.map fun p => t.entry p.1 p.2).Nodup := by
  have hnodup : t.outs.Nodup := List.nodup_range.product List.nodup_range
  refine hnodup.map_on fun p hp q hq he => ?_
  obtain ⟨hm, hn⟩ := MxTok.entry_inj h (MxTok.mem_outs.mp hp).2 (MxTok.mem_outs.mp hq).2 he
  exact Prod.ext hm hn

/-- A node whose accumulators are the updated ones has its touched outputs updated and no other entry. -/
theorem updatesEntries_of_acc {s u : State} {pt : Nat} {t : MxTok} (h : t.int = true ∨ t.nm1.toNat < 16)
    {f : Nat → Nat → AccEntry → AccEntry} (hacc : (u.mx pt).acc = ((s.mx pt).update t f).acc) : UpdatesEntries s u pt t f := by
  obtain ⟨hin, hout⟩ := tgetD_foldl_tset (fun p : Nat × Nat => t.entry p.1 p.2) (fun p => f p.1 p.2) {} t.outs
    (MxTok.nodup_entries h) (s.mx pt).acc
  refine ⟨fun m n hm hn => ?_, fun e he => ?_⟩
  · rw [Mx.at, hacc]
    exact hin (m, n) (MxTok.mem_outs.mpr ⟨hm, hn⟩)
  · rw [Mx.at, hacc]
    refine hout e fun p hp => ?_
    obtain ⟨hm, hn⟩ := MxTok.mem_outs.mp hp
    exact he p.1 p.2 hm hn

/-- A clean token at the head that touches entries keeps to R182's rules on its sizes. -/
theorem MxHead.sizes {s : State} {pt op : Nat} {t : MxTok} (h : MxHead s pt op t)
    (hop : op ∈ [0x00, 0x01, 0x02, 0x03, 0x04, 0x05, 0x08, 0x09, 0x0A]) : t.int = true ∨ t.nm1.toNat < 16 := by
  have hw := h.fields
  simp only [List.mem_cons, List.not_mem_nil, or_false] at hop
  rcases hop with rfl | rfl | rfl | rfl | rfl | rfl | rfl | rfl | rfl <;> simp [wfMxFields, need] at hw <;> tauto

/-! ### What a multiply does when it fires -/

/-- The queue of a node moves on, and nothing else of it changes (R49, R252). -/
theorem State.mxPop_setMx (s : State) (pt : Nat) (m : Mx) (hq : m.queue = (s.mx pt).queue)
    {e : MxEntry} {rest : List MxEntry} (he : (s.mx pt).queue = e :: rest) :
    ∃ q, ((s.setMx pt m).mxPop pt).mx pt = { m with queue := q } ∧ QueueMoved s ((s.setMx pt m).mxPop pt) pt := by
  obtain ⟨-, new, hmx⟩ := (s.setMx pt m).mxPop_leaves pt
  rw [State.mx_setMx, hq, he, List.tail_cons] at hmx
  exact ⟨_, hmx, e, rest, new, he, by rw [hmx]⟩

/-- The slot of a claim that fires is in use, and no other slot changes (R134). -/
theorem Mx.use_slots (m : Mx) (c : BitVec 8) (k : Fin 16) : (m.use c.toNat).slots[k] =
    if k.val = c.toNat / 16 then { m.slots[k] with st := .inUse } else m.slots[k] := by
  have hc : c.toNat / 16 % 16 = c.toNat / 16 := Nat.mod_eq_of_lt (by omega)
  simp only [Mx.use, Fin.getElem_fin, Fin.ofNat, Vector.getElem_set, hc]
  by_cases h : k.val = c.toNat / 16
  · simp [h]
  · simp [h, Ne.symm h]

/-- A node whose multiply fires: its slots are in use, and it runs until it completes. -/
def Mx.mmaFired (m : Mx) (op : Nat) (t : MxTok) : Mx :=
  { (m.use t.aclm.toNat).use t.bclm.toNat with running := m.running ++ [Decode.mxWord op t] }

theorem Mx.mmaFired_slots (m : Mx) (op : Nat) (t : MxTok) (k : Fin 16) : (m.mmaFired op t).slots[k] =
    if k.val = t.aclm.toNat / 16 ∨ k.val = t.bclm.toNat / 16 then { m.slots[k] with st := .inUse } else m.slots[k] := by
  show ((m.use t.aclm.toNat).use t.bclm.toNat).slots[k] = _
  rw [Mx.use_slots, Mx.use_slots]
  by_cases ha : k.val = t.aclm.toNat / 16 <;> simp [ha]

/-- At most the voltage-frequency regions differ. -/
def VfOnly (s z : State) : Prop := ∃ vs, z = { s with vfs := vs }

theorem VfOnly.upset {s z : State} (h : VfOnly s z) : z.upset = s.upset := by
  obtain ⟨vs, rfl⟩ := h
  rfl

theorem VfOnly.mx {s z : State} (h : VfOnly s z) (pt : Nat) : z.mx pt = s.mx pt := by
  obtain ⟨vs, rfl⟩ := h
  rfl

theorem VfOnly.mxReadsMarked {s z : State} (h : VfOnly s z) (pt : Nat) (t : MxTok) :
    z.mxReadsMarked pt t = s.mxReadsMarked pt t := by
  obtain ⟨vs, rfl⟩ := h
  rfl

theorem VfOnly.mxA {s z : State} (h : VfOnly s z) (pt : Nat) (t : MxTok) : z.mxA pt t = s.mxA pt t := by
  obtain ⟨vs, rfl⟩ := h
  rfl

theorem VfOnly.mxB {s z : State} (h : VfOnly s z) (pt : Nat) (t : MxTok) : z.mxB pt t = s.mxB pt t := by
  obtain ⟨vs, rfl⟩ := h
  rfl

theorem State.askGuard_vfOnly (s : State) (pt : Nat) : VfOnly s (s.askGuard pt) := by
  unfold State.askGuard
  dsimp only
  split
  · exact ⟨_, rfl⟩
  · split <;> exact ⟨_, rfl⟩

/-- The state in which a multiply runs: a burst has asked for the guard, and its region notes it (R368). -/
def State.burstNoted (s : State) (pt : Nat) (t : MxTok) : State :=
  if decide (t.m * t.n * t.k > fld (s.reg (ptDie pt) 0x4C 0) 0 19) then
    (s.askGuard pt).setVf (ptDie pt) (vfNo pt) { (s.askGuard pt).vf (ptDie pt) (vfNo pt) with
      lastBurst := ((s.askGuard pt).vf (ptDie pt) (vfNo pt)).clock s.cycle }
  else s

theorem State.burstNoted_vfOnly (s : State) (pt : Nat) (t : MxTok) : VfOnly s (s.burstNoted pt t) := by
  obtain ⟨vs, hvs⟩ := s.askGuard_vfOnly pt
  unfold State.burstNoted
  split
  · exact ⟨_, by rw [hvs]; rfl⟩
  · exact ⟨s.vfs, rfl⟩

/-- A multiply whose slots hold its operands, and which the guard does not hold back, fires. -/
theorem fireMma_of_head {s : State} {pt op : Nat} {t : MxTok} (h : MxHead s pt op t) (ha : SlotHolds (s.mx pt) t.aclm)
    (hb : SlotHolds (s.mx pt) t.bclm) (hburst : s.burstHeld pt t = false) (wa wb : Nat) (scaled : Bool)
    (f : State → Nat → Bool → Mx) :
    let z := s.burstNoted pt t
    let m := f z pt (s.mxReadsMarked pt t wa wb scaled)
    fireMma op t wa wb scaled f s = .next ((z.setMx pt (m.mmaFired op t)).mxPop pt) := by
  intro z m
  have hclaims : ∀ c ∈ [t.aclm.toNat, t.bclm.toNat], (s.mx pt).claim c = .ready := by
    simp [Mx.claim_ready ha, Mx.claim_ready hb]
  have hz : VfOnly s z := s.burstNoted_vfOnly pt t
  have hup : z.upset = 0 := hz.upset.trans h.sound
  have hmark : (z.mxReadsMarked pt t wa wb scaled || z.mxSpoils) = s.mxReadsMarked pt t wa wb scaled := by
    rw [State.mxSpoils_sound hup, Bool.or_false, hz.mxReadsMarked]
  rw [fireMma, onToken_of_head h hclaims]
  simp only [hburst, Bool.false_and, Bool.false_eq_true, if_false]
  show Host.Outcome.next (((z.setMx pt ((f z pt (z.mxReadsMarked pt t wa wb scaled || z.mxSpoils)).mmaFired op t)).mxUpset
    pt t [t.aclm.toNat, t.bclm.toNat]).mxPop pt) = _
  rw [hmark, State.mxUpset_setMx hup]

/-- What a firing multiply leaves, `f` the new entry of an output (R134, R252, R253). -/
def MmaFires (i : Instr) (s : State) (pt : Nat) (t : MxTok) (op wa wb : Nat) (scaled : Bool)
    (f : Nat → Nat → AccEntry → AccEntry) : Prop :=
  ∃ u, exec i s = .next u ∧ QueueMoved s u pt ∧
    UpdatesEntries s u pt t (fun m n a =>
      let r := f m n (if t.acc then a else {})
      { r with poison := r.poison || s.mxReadsMarked pt t wa wb scaled }) ∧
    (u.mx pt).running = (s.mx pt).running ++ [Decode.mxWord op t] ∧
    ∀ k : Fin 16, (u.mx pt).slots[k] =
      if k.val = t.aclm.toNat / 16 ∨ k.val = t.bclm.toNat / 16 then { (s.mx pt).slots[k] with st := .inUse }
      else (s.mx pt).slots[k]

/-- A multiply that writes its outputs' entries fires. -/
theorem mmaFires_of_update {i : Instr} {s : State} {pt op : Nat} {t : MxTok} (h : MxHead s pt op t)
    (hsizes : t.int = true ∨ t.nm1.toNat < 16) (ha : SlotHolds (s.mx pt) t.aclm)
    (hb : SlotHolds (s.mx pt) t.bclm) (hburst : s.burstHeld pt t = false) {wa wb : Nat} {scaled : Bool}
    {g : State → Nat → Bool → Mx} (hi : exec i s = fireMma op t wa wb scaled g s) {f : Nat → Nat → AccEntry → AccEntry}
    (hg : ∀ z bad, VfOnly s z → g z pt bad = (s.mx pt).update t fun m n a =>
      let r := f m n (if t.acc then a else {})
      { r with poison := r.poison || bad }) : MmaFires i s pt t op wa wb scaled f := by
  have hnext := hi.trans (fireMma_of_head h ha hb hburst wa wb scaled g)
  have hz := s.burstNoted_vfOnly pt t
  generalize s.burstNoted pt t = z at hnext hz
  rw [hg z _ hz] at hnext
  generalize hm : (s.mx pt).update t _ = m at hnext
  obtain ⟨e, rest, hq⟩ := h.head
  rw [← hz.mx pt] at hq
  have hqueue : (m.mmaFired op t).queue = (z.mx pt).queue := by
    rw [hz.mx, ← hm]
    rfl
  obtain ⟨q, hmx, hmoved⟩ := z.mxPop_setMx pt (m.mmaFired op t) hqueue hq
  refine ⟨_, hnext, ?_, updatesEntries_of_acc hsizes ?_, ?_, fun k => ?_⟩
  · rwa [QueueMoved, hz.mx] at hmoved
  · rw [hmx, hm]
    rfl
  · rw [hmx, ← hm]
    rfl
  · rw [hmx, ← hm]
    exact Mx.mmaFired_slots _ op t k

/-- The groups of a floating multiply at an output (R114). -/
theorem mmaFloat_update (s : State) (pt : Nat) (t : MxTok) (weight : Nat → Nat → Nat) (bad : Bool) :
    s.mmaFloat pt t weight bad = (s.mx pt).update t fun m n a =>
      let r := (List.range (t.k / 16)).foldl (fun a g => accGroup a ((List.range 16).map fun j =>
        (s.mxA pt t 16 m (t.k0 + 16 * g + j), weight (t.k0 + 16 * g + j) n))) (if t.acc then a else {})
      { r with poison := r.poison || bad } := by
  have hk : t.k / 16 = t.kg.toNat + 1 := Nat.mul_div_cancel_left _ (by decide)
  rw [hk]
  rfl

/-- MZERO at the head zeroes its outputs (R253). -/
theorem exec_mzero {s : State} {pt : Nat} {t : MxTok} (h : MxHead s pt 0x00 t) : ∃ u, exec (.mzero t) s = .next u ∧
    QueueMoved s u pt ∧ UpdatesEntries s u pt t (fun _ _ _ => {}) ∧
    (u.mx pt).running = (s.mx pt).running ++ [Decode.mxWord 0x00 t] ∧ (u.mx pt).slots = (s.mx pt).slots := by
  obtain ⟨e, rest, hq⟩ := h.head
  have hnext : exec (.mzero t) s = .next ((s.setMx pt { (s.mx pt).update t fun _ _ _ => {} with
      running := (s.mx pt).running ++ [Decode.mxWord 0x00 t] }).mxPop pt) := by
    show execMzero t s = _
    rw [execMzero, onToken_of_head h (by simp), State.mxSpoils_sound h.sound]
    dsimp only
    rw [State.mxUpset_setMx h.sound]
    rfl
  obtain ⟨q, hmx, hmoved⟩ := s.mxPop_setMx pt { (s.mx pt).update t fun _ _ _ => {} with
    running := (s.mx pt).running ++ [Decode.mxWord 0x00 t] } rfl hq
  refine ⟨_, hnext, hmoved, updatesEntries_of_acc (h.sizes (by decide)) ?_, ?_, ?_⟩
  all_goals rw [hmx]
  all_goals rfl

section
variable {s : State} {pt op : Nat} {i : Instr} {t : MxTok} (h : MxHead s pt op t)
  (ha : SlotHolds (s.mx pt) t.aclm) (hb : SlotHolds (s.mx pt) t.bclm) (hburst : s.burstHeld pt t = false)
include h ha hb hburst

/-- An integer multiply takes K-steps of residues (R115). -/
theorem exec_mmaInt {w : Nat} {ty : Fmt} (hop : op = 0x04 ∨ op = 0x05) (hw : w = fmtWidth ty)
    (hi : exec i s = fireMma op t w w false (fun s pt bad => s.mmaInt pt t ty bad) s) :
    MmaFires i s pt t op w w false fun m n a => (List.range t.k).foldl
      (fun a k => a.kstep ty (s.mxA pt t w m (t.k0 + k)) (s.mxB pt t w (t.k0 + k) n)) a := by
  subst hw
  refine mmaFires_of_update h (h.sizes (by rcases hop with rfl | rfl <;> decide)) ha hb hburst hi fun z bad hz => ?_
  simp only [State.mmaInt, hz.mx, hz.mxA, hz.mxB]
  rfl

/-- A floating multiply takes groups of products (R114). -/
theorem exec_mmaFloat {wb : Nat} {scaled : Bool} (hop : op = 0x01 ∨ op = 0x02 ∨ op = 0x03)
    (weight : State → Nat → Nat → Nat → Nat) (hw : ∀ z, VfOnly s z → weight z pt = weight s pt)
    (hi : exec i s = fireMma op t 16 wb scaled (fun s pt bad => s.mmaFloat pt t (weight s pt) bad) s) :
    MmaFires i s pt t op 16 wb scaled fun m n a => (List.range (t.k / 16)).foldl
      (fun a g => accGroup a ((List.range 16).map fun j =>
        (s.mxA pt t 16 m (t.k0 + 16 * g + j), weight s pt (t.k0 + 16 * g + j) n))) a := by
  refine mmaFires_of_update h (h.sizes (by rcases hop with rfl | rfl | rfl <;> decide)) ha hb hburst hi
    fun z bad hz => ?_
  simp only [mmaFloat_update, hz.mx, hz.mxA, hw z hz]

end

/-- The weights of a token of MMA.W4I: scaled by their blocks, or plain (R113). -/
def State.weightW4i (t : MxTok) (s : State) (pt : Nat) : Nat → Nat → Nat :=
  if t.blk then s.weightBlock pt t .mxint4 else s.weightPlain pt t

theorem VfOnly.weightBlock {s z : State} (h : VfOnly s z) (pt : Nat) (t : MxTok) : z.weightBlock pt t = s.weightBlock pt t := by
  obtain ⟨vs, rfl⟩ := h
  rfl

theorem VfOnly.weightW4i {s z : State} (h : VfOnly s z) (pt : Nat) (t : MxTok) :
    State.weightW4i t z pt = State.weightW4i t s pt := by
  obtain ⟨vs, rfl⟩ := h
  rfl

/-- The weights of a block, for every format: a rewriting step, so that no proof unfolds a format's own table. -/
theorem State.weightBlock_eq (s : State) (pt : Nat) (t : MxTok) (f : Fmt) :
    s.weightBlock pt t f = fun k n => (dequant f .bf16 (s.mxScale pt t k) (s.mxB pt t 4 k n)).1 := rfl

/-- Settles O17, instruction by instruction: a multiply at the head fires (`fireMma_of_head`), and the outputs it touches have
entries of their own (`MxTok.entry_inj`). -/
theorem matrixMultiplyResults : Obligations.MatrixMultiplyResults := by
  intro t s pt fires float int scaled
  refine ⟨exec_mzero, fun h ha hb hg => ?_, fun h ha hb hg => ?_, fun h ha hb hg => ?_, fun h ha hb hg => ?_,
    fun h ha hb hg => ?_⟩
  · exact exec_mmaFloat (i := .mmaBf16 t) h ha hb hg (.inl rfl) (fun s pt => s.mxB pt t 16)
      (fun z hz => congrFun (hz.mxB pt t) 16) rfl
  · have hd := exec_mmaFloat (i := .mmaW4i t) h ha hb hg (.inr (.inl rfl)) (State.weightW4i t)
      (fun z hz => hz.weightW4i pt t) rfl
    unfold State.weightW4i at hd
    rw [State.weightBlock_eq] at hd
    exact hd
  · have hd := exec_mmaFloat (i := .mmaW4f t) h ha hb hg (.inr (.inr rfl)) (fun s pt => s.weightBlock pt t .mxfp4)
      (fun z hz => congrFun (hz.weightBlock pt t) .mxfp4) rfl
    rw [State.weightBlock_eq] at hd
    exact hd
  · exact exec_mmaInt (i := .mmaI8 t) h ha hb hg (.inl rfl) rfl rfl
  · exact exec_mmaInt (i := .mmaI4 t) h ha hb hg (.inr rfl) rfl rfl

end Sys2Proof.Machine

namespace Sys2Proof.Machine

/-! ## The matrix unit: exact integer sums (O18) -/

/-- The signed value of a pattern's low bits is that of its word. -/
theorem sint_eq_toInt {w : Nat} (hw : 0 < w) (n : Nat) : sint w n = (BitVec.ofNat w n).toInt := by
  have hpow : 2 ^ w = 2 * 2 ^ (w - 1) := by
    rw [← Nat.pow_succ', Nat.succ_eq_add_one, Nat.sub_add_cancel hw]
  have hlt : n % 2 ^ w < 2 ^ (w - 1) ↔ 2 * (n % 2 ^ w) < 2 ^ w := by omega
  simp only [sint, signedOf, if_neg hw.ne', hlt, BitVec.toInt, BitVec.toNat_ofNat]

/-- An 8-bit element, and a 4-bit one, is at most 128 in size. -/
theorem abs_sint_le {ty : Fmt} (hty : ty = .int8 ∨ ty = .int4) (n : Nat) : |sint (fmtWidth ty) n| ≤ 128 := by
  have bound : ∀ w, 0 < w → (2 ^ w : Int) ≤ 256 → |sint w n| ≤ 128 := fun w hw h => by
    have hlow := BitVec.le_two_mul_toInt (x := BitVec.ofNat w n)
    have hhigh := BitVec.two_mul_toInt_lt (x := BitVec.ofNat w n)
    rw [sint_eq_toInt hw, abs_le]
    omega
  rcases hty with rfl | rfl
  · exact bound 8 (by decide) (by decide)
  · exact bound 4 (by decide) (by decide)

/-- An entry that holds no value yet, whose residues are those of `sum`, after `steps` K-steps with `present` products. -/
structure AccEntry.Holds (a : AccEntry) (sum : Int) (steps present : Nat) : Prop where
  value  : a.value = 0
  count  : a.count = present
  r255   : (a.r255 : Int) = sum % 255
  r256   : (a.r256 : Int) = sum % 256
  r257   : (a.r257 : Int) = sum % 257
  ksteps : a.ksteps = steps

theorem AccEntry.holds_zero : AccEntry.Holds {} 0 0 0 := ⟨rfl, rfl, rfl, rfl, rfl, rfl⟩

/-- A product of residues added to a residue (R115). -/
theorem residue_step {r m : Nat} {sum : Int} (hm : 0 < m) (hr : (r : Int) = sum % m) (x y : Int) :
    (((r + (x % (m : Int)).toNat * (y % (m : Int)).toNat) % m : Nat) : Int) = (sum + x * y) % m := by
  have hnn : ∀ z : Int, (((z % (m : Int)).toNat : Nat) : Int) = z % m := fun z =>
    Int.toNat_of_nonneg (Int.emod_nonneg z (by omega))
  push_cast
  rw [hnn, hnn, hr, Int.add_emod, Int.emod_emod, ← Int.mul_emod, ← Int.add_emod]

/-- A K-step takes the product of two present elements (R115, R116). -/
theorem AccEntry.Holds.kstep {a : AccEntry} {sum : Int} {steps present : Nat} (h : a.Holds sum steps present)
    (hsteps : steps + 1 < 512) (hpresent : present ≤ steps) (ty : Fmt) (x y : Nat) :
    (a.kstep ty x y).Holds (if !isAbsent ty x && !isAbsent ty y then sum + sint (fmtWidth ty) x * sint (fmtWidth ty) y else sum)
      (steps + 1) (if !isAbsent ty x && !isAbsent ty y then present + 1 else present) := by
  obtain ⟨hvalue, hcount, h255, h256, h257, hk⟩ := h
  have hlow : ¬ 512 ≤ a.ksteps + 1 := by omega
  have hmin : Nat.min (a.count + 1) 0xFFFFFFFF = present + 1 := by
    rw [hcount]
    exact Nat.min_eq_left (by omega)
  unfold AccEntry.kstep
  cases isAbsent ty x <;> cases isAbsent ty y
  case false.false =>
    simp only [Bool.or_self, Bool.false_eq_true, if_false, ge_iff_le, hlow, hmin]
    exact ⟨hvalue, rfl, residue_step (by decide) h255 _ _, residue_step (by decide) h256 _ _,
      residue_step (by decide) h257 _ _, congrArg (· + 1) hk⟩
  all_goals
    simp only [Bool.or_true, Bool.true_or, if_true, ge_iff_le, hlow, if_false]
    exact ⟨hvalue, hcount, h255, h256, h257, congrArg (· + 1) hk⟩

/-- The K-steps of a list of elements: what its present products add. -/
theorem AccEntry.Holds.foldl_kstep {ty : Fmt} (x y : Nat → Nat) (l : List Nat) {a : AccEntry} {sum : Int} {steps present : Nat}
    (h : a.Holds sum steps present) (hpresent : present ≤ steps) (hsteps : steps + l.length < 512) :
    let ks := l.filter fun k => !isAbsent ty (x k) && !isAbsent ty (y k)
    (l.foldl (fun a k => a.kstep ty (x k) (y k)) a).Holds
      (sum + (ks.map fun k => sint (fmtWidth ty) (x k) * sint (fmtWidth ty) (y k)).sum) (steps + l.length)
      (present + ks.length) := by
  induction l generalizing a sum steps present with
  | nil => simpa using h
  | cons k l ih =>
    rw [List.length_cons] at hsteps
    have hstep := h.kstep (by omega) hpresent ty (x k) (y k)
    intro ks
    cases hp : !isAbsent ty (x k) && !isAbsent ty (y k) with
    | false =>
      have hks : ks = l.filter fun k => !isAbsent ty (x k) && !isAbsent ty (y k) := List.filter_cons_of_neg (by rw [hp]; decide)
      simp only [hp, Bool.false_eq_true, if_false] at hstep
      rw [List.foldl_cons, hks, List.length_cons, Nat.add_comm l.length, ← Nat.add_assoc]
      exact ih hstep (by omega) (by omega)
    | true =>
      have hks : ks = k :: l.filter fun k => !isAbsent ty (x k) && !isAbsent ty (y k) := List.filter_cons_of_pos hp
      simp only [hp, if_true] at hstep
      rw [List.foldl_cons, hks, List.length_cons, List.map_cons, List.sum_cons, List.length_cons, Nat.add_comm l.length,
        ← Nat.add_assoc, Nat.add_comm (List.length _), ← Nat.add_assoc, ← add_assoc]
      exact ih hstep (by omega) (by omega)

/-- The three residues of a number give it back, up to their product 16776960 (R116). -/
theorem residues_combine {sum : Int} {a b c : Nat} (ha : (a : Int) = sum % 255) (hb : (b : Int) = sum % 256)
    (hc : (c : Int) = sum % 257) :
    (((a * 8421376 + b * 16711425 + c * 8421120) % 16776960 : Nat) : Int) = sum % 16776960 := by
  omega

/-- The fold of an entry whose sum lies within the residues' range (R116). -/
theorem AccEntry.Holds.fold_value {a : AccEntry} {sum : Int} {steps present : Nat} (h : a.Holds sum steps present)
    (hsum : |sum| < 8388480) : a.fold.value = BitVec.ofInt 32 sum := by
  obtain ⟨hvalue, -, h255, h256, h257, -⟩ := h
  obtain ⟨hlow, hhigh⟩ := abs_lt.mp hsum
  have hx := residues_combine h255 h256 h257
  have hzero : sint 32 a.value.toNat = 0 := by rw [hvalue]; rfl
  simp only [AccEntry.fold, hzero]
  generalize (a.r255 * 8421376 + a.r256 * 16711425 + a.r257 * 8421120) % 16776960 = x at hx
  have hsigned : (if x ≥ 8388480 then (x : Int) - 16776960 else x) = sum := by
    split <;> omega
  simp only [hsigned, zero_add]
  rw [if_neg (by omega), if_neg (by omega), patternOf_eq_toNat, BitVec.ofNat_toNat, BitVec.setWidth_eq]

/-- A sum of products of elements stays small. -/
theorem abs_sum_products_le {ty : Fmt} (hty : ty = .int8 ∨ ty = .int4) (x y : Nat → Nat) (l : List Nat) :
    |(l.map fun k => sint (fmtWidth ty) (x k) * sint (fmtWidth ty) (y k)).sum| ≤ 16384 * l.length := by
  induction l with
  | nil => simp
  | cons k l ih =>
    have hprod : |sint (fmtWidth ty) (x k) * sint (fmtWidth ty) (y k)| ≤ 16384 := by
      rw [abs_mul]
      exact mul_le_mul (abs_sint_le hty _) (abs_sint_le hty _) (abs_nonneg _) (by decide)
    rw [List.map_cons, List.sum_cons, List.length_cons]
    push_cast
    calc _ ≤ _ := abs_add_le _ _
      _ ≤ 16384 + 16384 * (l.length : Int) := add_le_add hprod ih
      _ = 16384 * ((l.length : Int) + 1) := by ring

/-- From a zeroed entry, at most 256 K-steps leave the exact sum of their present products, and their number. -/
theorem foldl_kstep_exact {ty : Fmt} (hty : ty = .int8 ∨ ty = .int4) (x y : Nat → Nat) {n : Nat} (hn : n ≤ 256) :
    let a := (List.range n).foldl (fun a k => AccEntry.kstep ty (x k) (y k) a) {}
    let ks := (List.range n).filter fun k => !isAbsent ty (x k) && !isAbsent ty (y k)
    let sum := (ks.map fun k => sint (fmtWidth ty) (x k) * sint (fmtWidth ty) (y k)).sum
    a.fold.value = BitVec.ofInt 32 sum ∧ a.count = ks.length := by
  intro a ks sum
  have hholds : a.Holds (0 + sum) (0 + (List.range n).length) (0 + ks.length) :=
    AccEntry.holds_zero.foldl_kstep x y (List.range n) le_rfl (by rw [List.length_range]; omega)
  rw [zero_add, Nat.zero_add, Nat.zero_add] at hholds
  have hlen : ks.length ≤ n := (List.length_filter_le _ _).trans (List.length_range (n := n)).le
  have hsum : |sum| ≤ 16384 * ks.length := abs_sum_products_le hty x y ks
  exact ⟨hholds.fold_value (by omega), hholds.count⟩

/-- An integer multiply with ACC = 0 leaves the exact sum of each output's present products (R115, R116, R252). -/
theorem MmaFires.exact_sums {i : Instr} {s u : State} {pt op m n : Nat} {t : MxTok} {ty : Fmt}
    (hty : ty = .int8 ∨ ty = .int4) (hacc : t.acc = false) (hk : t.k ≤ 256) (hm : m < t.m) (hn : n < t.n)
    (hfires : MmaFires i s pt t op (fmtWidth ty) (fmtWidth ty) false fun m n a => (List.range t.k).foldl
      (fun a k => a.kstep ty (s.mxA pt t (fmtWidth ty) m (t.k0 + k)) (s.mxB pt t (fmtWidth ty) (t.k0 + k) n)) a)
    (hexec : exec i s = .next u) :
    let x := fun k => s.mxA pt t (fmtWidth ty) m (t.k0 + k)
    let y := fun k => s.mxB pt t (fmtWidth ty) (t.k0 + k) n
    let ks := (List.range t.k).filter fun k => !isAbsent ty (x k) && !isAbsent ty (y k)
    ((u.mx pt).at (t.entry m n)).fold.value =
      BitVec.ofInt 32 (ks.map fun k => sint (fmtWidth ty) (x k) * sint (fmtWidth ty) (y k)).sum ∧
    ((u.mx pt).at (t.entry m n)).count = ks.length := by
  intro x y ks
  obtain ⟨u', hnext, -, ⟨hentry, -⟩, -, -⟩ := hfires
  obtain rfl : u' = u := Host.Outcome.next.inj (hnext.symm.trans hexec)
  rw [hentry m n hm hn, hacc]
  exact foldl_kstep_exact hty x y hk

/-- Settles O18: the K-steps from a zeroed entry keep the residues of the sum, which is small enough for its residues to give
it back. -/
theorem integerMatrixSumsAreExact : Obligations.IntegerMatrixSumsAreExact := by
  intro ty t s u pt m n hty hacc hk hm hn w op h ha hb hburst hexec
  have hwpos : 0 < w := by rcases hty with rfl | rfl <;> decide
  simp only [← sint_eq_toInt hwpos]
  rcases hty with rfl | rfl
  · exact (exec_mmaInt (i := .mmaI8 t) h ha hb hburst (.inl rfl) rfl rfl).exact_sums (.inl rfl) hacc hk hm hn hexec
  · exact (exec_mmaInt (i := .mmaI4 t) h ha hb hburst (.inr rfl) rfl rfl).exact_sums (.inr rfl) hacc hk hm hn hexec

end Sys2Proof.Machine

namespace Sys2Proof.Machine

/-! ## Rounding depends on the value alone (R100) -/

theorem scaleUp_cast (x : Nat) (k : Int) : (scaleUp x k : ℚ) = x * 2 ^ k.toNat := by
  simp [scaleUp]

/-- A power of two of an integer, from those of its positive and negative parts. -/
theorem two_zpow_eq_div (k : Int) : (2 : ℚ) ^ k = 2 ^ k.toNat / 2 ^ (-k).toNat := by
  have hk : k = (k.toNat : Int) - ((-k).toNat : Int) := by omega
  conv_lhs => rw [hk]
  rw [zpow_sub₀ two_ne_zero, zpow_natCast, zpow_natCast]

/-- Scaling both parts of a quotient scales the quotient. -/
theorem scaleUp_div_scaleUp (num den : Nat) (k : Int) :
    (scaleUp num k : ℚ) / scaleUp den (-k) = (num : ℚ) / den * 2 ^ k := by
  rw [scaleUp_cast, scaleUp_cast, two_zpow_eq_div, mul_div_mul_comm]

theorem scaleUp_pos {den : Nat} (hd : den ≠ 0) (k : Int) : 0 < scaleUp den k :=
  Nat.mul_pos (Nat.pos_of_ne_zero hd) (Nat.two_pow_pos _)

/-- A logarithm from its bounds. -/
theorem log_mul_zpow_eq {x : ℚ} {l : Int} (hlow : 2 ^ l ≤ x) (hhigh : x < 2 ^ (l + 1)) (e : Int) :
    Int.log 2 (x * 2 ^ e) = e + l := by
  have h2 : (0 : ℚ) < 2 ^ e := by positivity
  have hx : 0 < x * 2 ^ e := mul_pos (lt_of_lt_of_le (by positivity) hlow) h2
  refine le_antisymm (Int.lt_add_one_iff.mp ((Int.lt_zpow_iff_log_lt (by decide) hx).mp ?_))
    ((Int.zpow_le_iff_le_log (by decide) hx).mp ?_)
  · rw [add_assoc, zpow_add₀ (by norm_num), mul_comm]
    exact (mul_lt_mul_iff_right₀ h2).mpr hhigh
  · rw [zpow_add₀ (by norm_num), mul_comm]
    exact (mul_le_mul_iff_left₀ h2).mpr hlow

/-- A number lies between its power of two and the next. -/
theorem log2_bounds {n : Nat} (hn : n ≠ 0) : (2 : ℚ) ^ (Nat.log2 n : Int) ≤ n ∧ (n : ℚ) < 2 ^ ((Nat.log2 n : Int) + 1) := by
  constructor
  · rw [zpow_natCast]
    exact_mod_cast Nat.log2_self_le hn
  · rw [← Nat.cast_succ, zpow_natCast]
    exact_mod_cast Nat.lt_log2_self

/-- A quotient lies within a factor of two of the quotient of its parts' powers of two. -/
theorem div_log2_bounds {num den : Nat} (hn : num ≠ 0) (hd : den ≠ 0) :
    let k := (Nat.log2 num : Int) - (Nat.log2 den : Int)
    (2 : ℚ) ^ (k - 1) ≤ num / den ∧ (num : ℚ) / den < 2 ^ (k + 1) := by
  intro k
  have hden : (0 : ℚ) < den := by positivity
  obtain ⟨hnlow, hnhigh⟩ := log2_bounds hn
  obtain ⟨hdlow, hdhigh⟩ := log2_bounds hd
  constructor
  · rw [le_div_iff₀ hden]
    calc (2 : ℚ) ^ (k - 1) * den ≤ 2 ^ (k - 1) * 2 ^ ((Nat.log2 den : Int) + 1) := by gcongr
      _ = 2 ^ (Nat.log2 num : Int) := by rw [← zpow_add₀ two_ne_zero]; congr 1; omega
      _ ≤ num := hnlow
  · rw [div_lt_iff₀ hden]
    calc (num : ℚ) < 2 ^ ((Nat.log2 num : Int) + 1) := hnhigh
      _ = 2 ^ (k + 1) * 2 ^ (Nat.log2 den : Int) := by rw [← zpow_add₀ two_ne_zero]; congr 1; omega
      _ ≤ 2 ^ (k + 1) * den := by gcongr

/-- `ratLog` is the logarithm of the value. -/
theorem ratLog_eq_log {num den : Nat} (hn : num ≠ 0) (hd : den ≠ 0) (e : Int) :
    ratLog num den e = Int.log 2 ((num : ℚ) / den * 2 ^ e) := by
  obtain ⟨hlow, hhigh⟩ := div_log2_bounds hn hd
  generalize hk : (Nat.log2 num : Int) - (Nat.log2 den : Int) = k at hlow hhigh
  have hcmp : scaleUp num (-k) < scaleUp den k ↔ (num : ℚ) / den < 2 ^ k := by
    have hpos : (0 : ℚ) < scaleUp den k := by exact_mod_cast scaleUp_pos hd k
    have h := scaleUp_div_scaleUp num den (-k)
    rw [neg_neg] at h
    rw [← Nat.cast_lt (α := ℚ), ← div_lt_one hpos, h, zpow_neg, mul_inv_lt_iff₀ (by positivity), one_mul]
  simp only [ratLog, hk, hcmp]
  split
  · next h => rw [log_mul_zpow_eq hlow (by rwa [sub_add_cancel]) e, add_sub_assoc]
  · next h => exact (log_mul_zpow_eq (not_lt.mp h) hhigh e).symm

/-- The integer part of a value, and how the rest stands to one half. -/
def splitQ (y : ℚ) : Nat × Nat :=
  (⌊y⌋₊, if Int.fract y = 0 then 0 else if Int.fract y < 1 / 2 then 1 else if Int.fract y = 1 / 2 then 2 else 3)

/-- `ratSplit` splits the scaled value. -/
theorem ratSplit_eq_splitQ (num : Nat) {den : Nat} (hd : den ≠ 0) (k : Int) :
    ratSplit num den k = splitQ ((num : ℚ) / den * 2 ^ k) := by
  rw [← scaleUp_div_scaleUp]
  have hpos := scaleUp_pos hd (-k)
  simp only [ratSplit, splitQ]
  generalize scaleUp num k = a
  generalize scaleUp den (-k) = b at hpos
  have hb : (0 : ℚ) < b := by exact_mod_cast hpos
  have hzero : ((a % b : Nat) : ℚ) / b = 0 ↔ a % b = 0 := by
    rw [div_eq_zero_iff, or_iff_left hb.ne', Nat.cast_eq_zero]
  have hlt : ((a % b : Nat) : ℚ) / b < 1 / 2 ↔ 2 * (a % b) < b := by
    rw [div_lt_div_iff₀ hb two_pos, one_mul, mul_comm, ← Nat.cast_lt (α := ℚ), Nat.cast_mul, Nat.cast_two]
  have heq : ((a % b : Nat) : ℚ) / b = 1 / 2 ↔ 2 * (a % b) = b := by
    rw [div_eq_div_iff hb.ne' two_ne_zero, one_mul, mul_comm, ← Nat.cast_inj (R := ℚ), Nat.cast_mul, Nat.cast_two]
  rw [Nat.floor_div_eq_div, Int.fract_div_natCast_eq_div_natCast_mod]
  simp only [hzero, hlt, heq]

/-- A rounding depends on the value alone. -/
theorem roundCore_congr {num den num' den' : Nat} {e e' : Int} (hn : num ≠ 0) (hd : den ≠ 0) (hn' : num' ≠ 0) (hd' : den' ≠ 0)
    (h : (num : ℚ) / den * 2 ^ e = (num' : ℚ) / den' * 2 ^ e') (f : Fmt) (r : Rnd) (neg sticky : Bool) :
    roundCore f r neg num den e sticky = roundCore f r neg num' den' e' sticky := by
  have hlog : ratLog num den e = ratLog num' den' e' := by rw [ratLog_eq_log hn hd, ratLog_eq_log hn' hd', h]
  have hsplit : ∀ q : Int, ratSplit num den (e - q) = ratSplit num' den' (e' - q) := fun q => by
    rw [ratSplit_eq_splitQ num hd, ratSplit_eq_splitQ num' hd', zpow_sub₀ two_ne_zero, zpow_sub₀ two_ne_zero,
      ← mul_div_assoc, ← mul_div_assoc, h]
  simp only [roundCore, hlog, hsplit]

/-- The rational number that a sign, a quotient and a power of two give. -/
def signedQ (neg : Bool) (num den : Nat) (e : Int) : ℚ := (if neg then -1 else 1) * ((num : ℚ) / den * 2 ^ e)

/-- A quotient rounded is the rational number rounded. -/
theorem roundRat_eq_roundQ {den : Nat} (hd : den ≠ 0) (f : Fmt) (r : Rnd) (neg : Bool) (num : Nat) (e : Int) :
    roundRat f r neg num den e = roundQ f r neg (signedQ neg num den e) := by
  by_cases hn : num = 0
  · simp [roundRat, roundQ, signedQ, hn]
  have hpos : (0 : ℚ) < (num : ℚ) / den * 2 ^ e := by positivity
  generalize hq : signedQ neg num den e = q
  have hsign : q ≠ 0 ∧ decide (q < 0) = neg ∧ |q| = (num : ℚ) / den * 2 ^ e := by
    rw [← hq, signedQ]
    generalize (num : ℚ) / den * 2 ^ e = y at hpos
    cases neg
    · simp [hpos.ne', hpos.le, abs_of_pos hpos]
    · simp [hpos.ne', hpos, abs_of_pos hpos]
  obtain ⟨hne, hneg, habs⟩ := hsign
  have hnum : q.num.natAbs ≠ 0 := by simpa using hne
  have hvalue : (num : ℚ) / den * 2 ^ e = (q.num.natAbs : ℚ) / q.den * 2 ^ (0 : Int) := by
    rw [zpow_zero, mul_one, ← habs, Nat.cast_natAbs, Int.cast_abs]
    conv_lhs => rw [← Rat.num_div_den q]
    rw [abs_div, Nat.abs_cast]
  rw [roundQ, if_neg hne, hneg]
  simp only [roundRat, if_neg hn, if_neg hnum]
  rw [roundCore_congr hn hd hnum q.den_nz hvalue]

end Sys2Proof.Machine

namespace Sys2Proof.Machine

/-! ## What a drain sends (R116, R254) -/

/-- A rounding overflows, or its pattern lies below infinity's. -/
theorem roundCore_pat (f : Fmt) (r : Rnd) (neg : Bool) (num den : Nat) (e : Int) (sticky : Bool) :
    ∃ p, (roundCore f r neg num den e sticky).pat = if 255 * 2 ^ manBits f ≤ p then overflowed f r neg else fzero f neg + p := by
  unfold roundCore
  dsimp only
  rw [apply_ite Rounded.pat]
  exact ⟨_, rfl⟩

theorem finf_lt {f : Fmt} (hf : isFloat f = true) (neg : Bool) : finf f neg < 2 ^ fmtWidth f := by
  cases f <;> simp [isFloat] at hf <;> cases neg <;> decide

theorem fzero_lt {f : Fmt} (hf : isFloat f = true) (neg : Bool) : fzero f neg < 2 ^ fmtWidth f :=
  (Nat.le_add_right _ _).trans_lt (finf_lt hf neg)

theorem overflowed_lt {f : Fmt} (hf : isFloat f = true) (r : Rnd) (neg : Bool) : overflowed f r neg < 2 ^ fmtWidth f := by
  have hmax : ∀ b, fmax f b < 2 ^ fmtWidth f := fun b => (Nat.sub_le _ _).trans_lt (finf_lt hf b)
  cases r <;> cases neg <;> simp [overflowed, finf_lt hf, hmax]

theorem absentOf_lt (f : Fmt) : absentOf f < 2 ^ fmtWidth f := by
  cases f <;> decide

/-- A floating result fits its format. -/
theorem roundRat_lt {f : Fmt} (hf : isFloat f = true) (r : Rnd) (neg : Bool) (num den : Nat) (e : Int) :
    (roundRat f r neg num den e).1 < 2 ^ fmtWidth f := by
  obtain ⟨p, hp⟩ := roundCore_pat f r neg num den e false
  unfold roundRat
  split
  · exact fzero_lt hf neg
  · show (roundCore f r neg num den e false).pat < _
    rw [hp]
    split
    · exact overflowed_lt hf r neg
    · next h => exact (Nat.add_lt_add_left (not_le.mp h) _).trans (finf_lt hf neg)

theorem roundQ_lt {f : Fmt} (hf : isFloat f = true) (r : Rnd) (z : Bool) (q : ℚ) : (roundQ f r z q).1 < 2 ^ fmtWidth f := by
  unfold roundQ
  split
  · exact fzero_lt hf z
  · exact roundRat_lt hf _ _ _ _ _

/-- Division towards minus infinity, from that of the magnitude. -/
theorem ediv_emod_eq_natAbs (v : Int) {c : Nat} (hc : c ≠ 0) :
    v / (c : Int) = (if v < 0 then if v.natAbs % c = 0 then -((v.natAbs / c : Nat) : Int) else -((v.natAbs / c : Nat) : Int) - 1
      else (v.natAbs / c : Nat)) ∧
    v % (c : Int) = if v < 0 then if v.natAbs % c = 0 then 0 else (c : Int) - (v.natAbs % c : Nat) else (v.natAbs % c : Nat) := by
  have hc' : (0 : Int) < c := by omega
  have hs : v.natAbs % c < c := Nat.mod_lt _ (Nat.pos_of_ne_zero hc)
  have habs : |v| = c * (v.natAbs / c : Nat) + (v.natAbs % c : Nat) := by
    rw [Int.abs_eq_natAbs]
    exact_mod_cast (Nat.div_add_mod v.natAbs c).symm
  generalize v.natAbs / c = q at *
  generalize v.natAbs % c = s at *
  rw [Int.ediv_emod_unique hc']
  split
  · next h =>
    rw [abs_of_neg h] at habs
    split
    · next h0 => exact ⟨by rw [h0] at habs; push_cast at habs; linarith, le_rfl, hc'⟩
    · exact ⟨by linarith, by omega, by omega⟩
  · next h =>
    rw [abs_of_nonneg (not_lt.mp h)] at habs
    exact ⟨by linarith, by omega, by omega⟩

/-- `meanInt` is the quotient, rounded (R254). -/
theorem meanInt_eq_roundInt (v : Int) {c : Nat} (hc : c ≠ 0) : meanInt v c = roundInt .rne ((v : ℚ) / c) := by
  have hcpos : (0 : ℚ) < c := by positivity
  have hfloor : ⌊(v : ℚ) / c⌋ = v / (c : Int) := Rat.floor_intCast_div_natCast v c
  have hrest : (v : ℚ) / c - (v / (c : Int) : Int) = ((v % (c : Int) : Int) : ℚ) / c := by
    have h : (v : ℚ) = c * (v / (c : Int) : Int) + (v % (c : Int) : Int) := by exact_mod_cast (Int.mul_ediv_add_emod v c).symm
    rw [eq_div_iff hcpos.ne', sub_mul, div_mul_cancel₀ _ hcpos.ne']
    linarith
  have hlow : ((v % (c : Int) : Int) : ℚ) / c < 1 / 2 ↔ 2 * (v % (c : Int)) < c := by
    rw [div_lt_div_iff₀ hcpos two_pos, one_mul, mul_comm]
    exact_mod_cast Iff.rfl
  have hhigh : 1 / 2 < ((v % (c : Int) : Int) : ℚ) / c ↔ c < 2 * (v % (c : Int)) := by
    rw [div_lt_div_iff₀ two_pos hcpos, one_mul, mul_comm]
    exact_mod_cast Iff.rfl
  have hs : v.natAbs % c < c := Nat.mod_lt _ (Nat.pos_of_ne_zero hc)
  obtain ⟨hd, hm⟩ := ediv_emod_eq_natAbs v hc
  simp only [roundInt, hfloor, hrest, hlow, hhigh, meanInt]
  rw [hd, hm]
  generalize v.natAbs / c = q
  generalize v.natAbs % c = s at hs
  split_ifs <;> omega

/-- A sign matters to the rounding of zero alone. -/
theorem roundQ_zneg {q : ℚ} (hq : q ≠ 0) (f : Fmt) (r : Rnd) (z z' : Bool) : roundQ f r z q = roundQ f r z' q := by
  simp only [roundQ, if_neg hq]

/-- An integer over a count, rounded to a floating format. -/
theorem roundRat_int_eq_roundQ {c : Nat} (hc : c ≠ 0) (f : Fmt) (r : Rnd) (v : Int) :
    roundRat f r (decide (v < 0)) v.natAbs c 0 = roundQ f r false ((v : ℚ) / c) := by
  have hsigned : signedQ (decide (v < 0)) v.natAbs c 0 = (v : ℚ) / c := by
    rw [signedQ, zpow_zero, mul_one, ← mul_div_assoc]
    congr 1
    rcases lt_or_ge v 0 with h | h
    · simp [h, abs_of_neg]
    · simp [not_lt.mpr h, abs_of_nonneg h]
  rw [roundRat_eq_roundQ hc, hsigned]
  by_cases hv : v = 0
  · simp [hv]
  · exact roundQ_zneg (div_ne_zero (by exact_mod_cast hv) (by exact_mod_cast hc)) f r _ _

theorem ofInt_eq_roundQ (f : Fmt) (v : Int) : ofInt f .rne v = roundQ f .rne false v := by
  by_cases hv : v = 0
  · simp [ofInt, roundQ, hv, fzero, b2n]
  · rw [ofInt, if_neg hv, roundRat_int_eq_roundQ one_ne_zero, Nat.cast_one, div_one]

/-- An integer is its own rounding. -/
theorem roundInt_intCast (v : Int) : roundInt .rne (v : ℚ) = v := by
  simp [roundInt]

/-- The mean of a finite floating value is the quotient, rounded once (R254). -/
theorem meanFloat_num {c v m : Nat} {neg : Bool} {e : Int} (hc : c ≠ 0) (f : Fmt) (h : fclass .fp32 v = .num neg m e) :
    meanFloat f v c = (roundQ f .rne neg (ratOf neg m e / c)).1 := by
  have hq : signedQ neg m c e = ratOf neg m e / c := by
    rw [signedQ, ratOf]
    ring
  simp only [meanFloat, h, roundRat_eq_roundQ hc, hq]

/-- What a drain sends is the table of R254. -/
theorem drainValue_eq_drainRule {op : Nat} (hop : op = 0x08 ∨ op = 0x09 ∨ op = 0x0A) (t : MxTok) (a : AccEntry) :
    drainValue op t a = drainRule op t a := by
  have hint : sint 32 a.value.toNat = a.value.toInt := by
    rw [sint_eq_toInt (by decide), BitVec.ofNat_toNat, BitVec.setWidth_eq]
  unfold drainValue drainRule
  by_cases hc : a.count = 0
  · rcases hop with rfl | rfl | rfl <;> simp [hc]
  rcases hop with rfl | rfl | rfl
  · cases t.int
    · cases t.dfmt <;> cases h : fclass .fp32 a.value.toNat <;> simp [hc, drainFloat, h]
    · simp [hc, hint, ofInt_eq_roundQ, roundInt_intCast]
  · cases t.int
    · cases h : fclass .fp32 a.value.toNat
      case num neg m e => simp [hc, meanFloat_num hc _ h]
      all_goals simp [hc, h, meanFloat]
    · simp [hc, hint, roundRat_int_eq_roundQ hc, meanInt_eq_roundInt _ hc, patternOf_eq_toNat]
  · rfl

/-- The free values that drains send as means fit their formats. -/
def FreeMeansFit : Prop :=
  ∀ c, c ≠ 0 → Config.absentMean true c < 2 ^ fmtWidth .bf16 ∧ Config.absentMean false c < 2 ^ fmtWidth .fp32

/-- A number, an infinity or an absent code narrows to a pattern of BF16. -/
theorem convert_bf16_lt {n : Nat} (hn : ∀ b, fclass .fp32 n ≠ .nan b) :
    (convert .fp32 .bf16 .rne false n).1 < 2 ^ fmtWidth .bf16 := by
  unfold convert
  split
  · exact absentOf_lt .bf16
  · cases h : fclass .fp32 n
    case nan b => exact absurd h (hn b)
    case absent => exact absentOf_lt .bf16
    case inf neg => exact finf_lt rfl neg
    case num neg m e => exact roundRat_lt rfl .rne neg m 1 e

theorem qnan_lt {f : Fmt} (hf : isFloat f = true) : qnan f < 2 ^ fmtWidth f := by
  cases f <;> simp [isFloat] at hf <;> decide

theorem drainFloat_lt {f : Fmt} (hf : isFloat f = true) (x : BitVec 32) : drainFloat f x.toNat < 2 ^ fmtWidth f := by
  unfold drainFloat
  split
  · exact qnan_lt hf
  · next hn =>
    cases f <;> simp only [isFloat, Bool.false_eq_true] at hf
    case bf16 => exact convert_bf16_lt hn
    case fp32 => exact x.isLt

theorem meanFloat_lt (hfree : FreeMeansFit) {f : Fmt} (hf : isFloat f = true) (v : Nat) {c : Nat} (hc : c ≠ 0) :
    meanFloat f v c < 2 ^ fmtWidth f := by
  unfold meanFloat
  split
  · exact finf_lt hf _
  · exact roundRat_lt hf _ _ _ _ _
  · obtain ⟨hbf16, hfp32⟩ := hfree c hc
    cases f <;> simp only [isFloat, Bool.false_eq_true] at hf
    case bf16 => exact hbf16
    case fp32 => exact hfp32
  · exact qnan_lt hf

/-- An integer entry drains as a number of its format. -/
theorem drainValue_int_lt {op : Nat} (hA : op ≠ 0x0A) {t : MxTok} (hi : t.int = true) {a : AccEntry} (hc : a.count ≠ 0) :
    drainValue op t a < 2 ^ fmtWidth (drainFmt op t) := by
  by_cases h8 : op = 0x08
  · cases hd : t.dfmt <;>
      simp only [drainValue, drainFmt, hA, hi, hc, eq_true h8, hd, if_true, if_false, Bool.false_eq_true]
    · exact a.value.isLt
    · rw [ofInt_eq_roundQ]
      exact roundQ_lt rfl _ _ _
  · cases hd : t.dfmt <;> simp only [drainValue, drainFmt, hA, hi, hc, h8, hd, if_true, if_false, Bool.false_eq_true]
    · exact patternOf_lt _
    · exact roundRat_lt rfl _ _ _ _ _

/-- Where the free means fit, a floating entry drains as a pattern of its format. -/
theorem drainValue_float_lt (hfree : FreeMeansFit) {op : Nat} (hA : op ≠ 0x0A) {t : MxTok} (hi : t.int = false) {a : AccEntry}
    (hc : a.count ≠ 0) : drainValue op t a < 2 ^ fmtWidth (drainFmt op t) := by
  have hf : isFloat (if t.dfmt then .bf16 else .fp32) = true := by cases t.dfmt <;> rfl
  have hfmt : drainFmt op t = if t.dfmt then .bf16 else .fp32 := by simp [drainFmt, hA, hi]
  rw [hfmt]
  by_cases h8 : op = 0x08
  · simp only [drainValue, hA, hi, hc, eq_true h8, if_true, if_false, Bool.false_eq_true]
    exact drainFloat_lt hf _
  · simp only [drainValue, hA, hi, hc, h8, if_false, Bool.false_eq_true]
    exact meanFloat_lt hfree hf _ hc

/-- Where the free means fit, so does what a drain sends. -/
theorem drainValue_lt (hfree : FreeMeansFit) (op : Nat) (t : MxTok) (a : AccEntry) :
    drainValue op t a < 2 ^ fmtWidth (drainFmt op t) := by
  by_cases hA : op = 0x0A
  · simp only [drainValue, drainFmt, hA, if_true]
    exact (Nat.min_le_right _ _).trans_lt (by decide)
  by_cases hc : a.count = 0
  · simp only [drainValue, drainFmt, hA, hc, if_false, if_true]
    exact absentOf_lt _
  cases hi : t.int
  · exact drainValue_float_lt hfree hA hi hc
  · exact drainValue_int_lt hA hi hc

end Sys2Proof.Machine

namespace Sys2Proof.Machine

/-! ## The matrix unit: drains and releases (R252, R254) -/

/-- Rows of one length, one after another. -/
theorem getElem?_flatMap_range {α : Type} {f : Nat → List α} {len : Nat} (hlen : ∀ k, (f k).length = len) (n : Nat) :
    ((List.range n).flatMap f).length = n * len ∧
    ∀ m r, m < n → r < len → ((List.range n).flatMap f)[m * len + r]? = (f m)[r]? := by
  induction n with
  | zero => exact ⟨by simp, fun _ _ h => absurd h (Nat.not_lt_zero _)⟩
  | succ n ih =>
    obtain ⟨hlength, hget⟩ := ih
    rw [List.range_succ, List.flatMap_append, List.flatMap_singleton]
    refine ⟨by rw [List.length_append, hlength, hlen, Nat.succ_mul], fun m r hm hr => ?_⟩
    rcases Nat.lt_succ_iff_lt_or_eq.mp hm with hm | rfl
    · have hin : m * len + r < n * len := calc
        m * len + r < (m + 1) * len := by rw [Nat.succ_mul]; omega
        _ ≤ n * len := Nat.mul_le_mul_right _ hm
      rw [List.getElem?_append_left (by rwa [hlength]), hget m r hm hr]
    · rw [List.getElem?_append_right (by rw [hlength]; omega), hlength, Nat.add_sub_cancel_left]

/-- A drain whose head is clean fires when the entries ahead of it are complete (R252, R254). -/
theorem fireDrainMx_of_head {s : State} {pt op : Nat} {t : MxTok} (h : MxHead s pt op t) (hr : (s.mx pt).running = [])
    (ho : (s.mx pt).out = []) :
    let x := if t.int then (s.mx pt).update t fun _ _ a => a.fold else s.mx pt
    fireDrainMx op t s = .next ((s.setMx pt { x with out := (List.range t.m).flatMap (drainRow op t x false) }).mxPop pt) := by
  intro x
  rw [fireDrainMx, onToken_of_head h (by simp)]
  simp only [hr, ho, ne_eq, not_true_eq_false, or_self, if_false, State.mxSpoils_sound h.sound, State.mxUpset_setMx h.sound]
  rfl

/-- A drain's effect on the node: its entries folded where they are integers, and its tokens to send. -/
theorem fireDrainMx_leaves {s : State} {pt op : Nat} {t : MxTok} (h : MxHead s pt op t) (hop : op = 0x08 ∨ op = 0x09 ∨ op = 0x0A)
    (hr : (s.mx pt).running = []) (ho : (s.mx pt).out = []) :
    ∃ u, fireDrainMx op t s = .next u ∧ QueueMoved s u pt ∧
      UpdatesEntries s u pt t (fun _ _ a => if t.int then a.fold else a) ∧
      (u.mx pt).out = (List.range t.m).flatMap (drainRow op t (u.mx pt) false) := by
  have hnext := fireDrainMx_of_head h hr ho
  obtain ⟨w, rest, hq⟩ := h.head
  have hsizes : t.int = true ∨ t.nm1.toNat < 16 := h.sizes (by rcases hop with rfl | rfl | rfl <;> decide)
  generalize hx : (if t.int then (s.mx pt).update t fun _ _ a => a.fold else s.mx pt) = x at hnext
  have hxq : x.queue = (s.mx pt).queue := by
    rw [← hx]
    split <;> rfl
  obtain ⟨q, hmx, hmoved⟩ := s.mxPop_setMx pt { x with out := (List.range t.m).flatMap (drainRow op t x false) } hxq hq
  refine ⟨_, hnext, hmoved, ?_, by rw [hmx]; rfl⟩
  cases hi : t.int
  · simp only [Bool.false_eq_true, if_false]
    have hacc : (((s.setMx pt { x with out := (List.range t.m).flatMap (drainRow op t x false) }).mxPop pt).mx pt).acc =
        (s.mx pt).acc := by rw [hmx, ← hx, hi]; rfl
    exact ⟨fun m n _ _ => by rw [Mx.at, hacc]; rfl, fun e _ => by rw [Mx.at, hacc]; rfl⟩
  · simp only [if_true]
    refine updatesEntries_of_acc hsizes ?_
    rw [hmx, ← hx, hi]
    rfl

theorem drainRow_length (op : Nat) (t : MxTok) (x : Mx) (bad : Bool) (m : Nat) :
    (drainRow op t x bad m).length =
      (t.n + 512 / fmtWidth (drainFmt op t) - 1) / (512 / fmtWidth (drainFmt op t)) := by
  simp [drainRow]

/-- A token of a row: its sideband and its elements (R254). -/
theorem drainRow_getElem? {op : Nat} {t : MxTok} {x : Mx} {m r : Nat} (hm : m < t.m)
    (hr : r < (t.n + 512 / fmtWidth (drainFmt op t) - 1) / (512 / fmtWidth (drainFmt op t))) :
    ∃ tok, (drainRow op t x false m)[r]? = some tok ∧ tok.kind = .data ∧ tok.slot = 0 ∧ tok.coord.toNat = m ∧
      ∀ j, j < 512 / fmtWidth (drainFmt op t) → elemAt tok.payload (fmtWidth (drainFmt op t)) j =
        if r * (512 / fmtWidth (drainFmt op t)) + j < t.n then
          drainValue op t (x.at (t.entry m (r * (512 / fmtWidth (drainFmt op t)) + j))) % 2 ^ fmtWidth (drainFmt op t)
        else absentOf (drainFmt op t) := by
  have hm32 : m < 2 ^ 32 := by
    have : t.m = t.mm1.toNat + 1 := rfl
    have := t.mm1.isLt
    omega
  simp only [drainRow]
  rw [List.getElem?_map, List.getElem?_range hr]
  refine ⟨_, rfl, rfl, rfl, ?_, fun j hj => ?_⟩
  · exact (BitVec.toNat_ofNat _ _).trans (Nat.mod_eq_of_lt hm32)
  · have hfit : fmtWidth (drainFmt op t) * (512 / fmtWidth (drainFmt op t)) ≤ 512 := Nat.mul_div_le _ _
    simp only [dataToken]
    rw [elemAt_payloadOf (by simpa using hfit), List.getD_eq_getElem?_getD, List.getElem?_map, List.getElem?_map,
      List.getElem?_range hj]
    simp only [Option.map_some, Option.getD_some]
    split
    · rfl
    · exact Nat.mod_eq_of_lt (absentOf_lt _)

end Sys2Proof.Machine

namespace Sys2Proof.Machine

/-- A clean release at the head frees the slot of its claim (R134, R136). -/
theorem exec_matrixRelease_of_head {s : State} {pt : Nat} {t : MxTok} (h : MxHead s pt 0x1F t) (hr : (s.mx pt).running = [])
    (ho : (s.mx pt).out = []) (hclaim : ∀ k : Fin 16, k.val = t.aclm.toNat / 16 →
      (s.mx pt).slots[k].gen.toNat = t.aclm.toNat % 16 ∧
      (s.mx pt).slots[k].st ∈ [SlotSt.claimed, .filled, .inUse]) :
    ∃ u, exec (.matrixRelease t) s = .next u ∧ QueueMoved s u pt ∧ (u.mx pt).acc = (s.mx pt).acc ∧
      ∀ k : Fin 16, (u.mx pt).slots[k] =
        if k.val = t.aclm.toNat / 16 then { (s.mx pt).slots[k] with st := .free } else (s.mx pt).slots[k] := by
  obtain ⟨w, rest, hq⟩ := h.head
  let k0 : Fin 16 := Fin.ofNat 16 (t.aclm.toNat / 16)
  have hk0 : k0.val = t.aclm.toNat / 16 := Nat.mod_eq_of_lt (by omega)
  obtain ⟨hgen, hst⟩ := hclaim k0 hk0
  have hnext : exec (.matrixRelease t) s = .next ((s.setMx pt
      { s.mx pt with slots := (s.mx pt).slots.set k0 { (s.mx pt).slots[k0] with st := .free } }).mxPop pt) := by
    have hnfree : (s.mx pt).slots[k0].st ≠ .free := fun e => by rw [e] at hst; exact absurd hst (by decide)
    have hnfilling : (s.mx pt).slots[k0].st ≠ .filling := fun e => by rw [e] at hst; exact absurd hst (by decide)
    show execMatrixRelease t s = _
    simp only [execMatrixRelease, h.turn, h.active, hq, h.fields, hr, ho, List.isEmpty_nil, Bool.not_true, Bool.false_eq_true,
      if_false, ne_eq, not_true_eq_false, or_self]
    rw [if_neg (not_or.mpr ⟨hnfree, not_not.mpr hgen⟩), if_neg hnfilling]
  obtain ⟨q, hmx, hmoved⟩ := s.mxPop_setMx pt
    { s.mx pt with slots := (s.mx pt).slots.set k0 { (s.mx pt).slots[k0] with st := .free } } rfl hq
  refine ⟨_, hnext, hmoved, by rw [hmx], fun k => ?_⟩
  rw [hmx]
  simp only [Fin.getElem_fin, Vector.getElem_set, hk0]
  by_cases hk : k.val = t.aclm.toNat / 16
  · simp [hk]
  · simp [hk, Ne.symm hk]

/-- Where the free means fit their formats, drains and releases leave what O19 says. -/
theorem matrixDrainResults_of_freeMeansFit (hfree : FreeMeansFit) : Obligations.MatrixDrainResults := by
  intro op i t s pt hr ho
  refine ⟨fun hi h => ?_, fun h hclaim => exec_matrixRelease_of_head h hr ho hclaim⟩
  have hexec : (op = 0x08 ∨ op = 0x09 ∨ op = 0x0A) ∧ exec i s = fireDrainMx op t s := by
    simp only [List.mem_cons, Prod.mk.injEq, List.not_mem_nil, or_false] at hi
    rcases hi with ⟨rfl, rfl⟩ | ⟨rfl, rfl⟩ | ⟨rfl, rfl⟩
    · exact ⟨.inl rfl, rfl⟩
    · exact ⟨.inr (.inl rfl), rfl⟩
    · exact ⟨.inr (.inr rfl), rfl⟩
  obtain ⟨hop, hexec⟩ := hexec
  obtain ⟨u, hnext, hmoved, hentries, hout⟩ := fireDrainMx_leaves h hop hr ho
  obtain ⟨hlength, hget⟩ := getElem?_flatMap_range (drainRow_length op t (u.mx pt) false) t.m
  refine ⟨u, hexec.trans hnext, hmoved, hentries, by rw [hout, hlength]; rfl, fun m r hm hrow => ?_⟩
  obtain ⟨tok, htok, hkind, hslot, hcoord, helems⟩ := drainRow_getElem? (x := u.mx pt) hm hrow
  refine ⟨tok, by rw [hout]; exact (hget m r hm hrow).trans htok, hkind, hslot, hcoord, fun j hj => ?_⟩
  refine (helems j hj).trans ?_
  rw [Nat.mod_eq_of_lt (drainValue_lt hfree op t _), drainValue_eq_drainRule hop]
  rfl

/-- The mean of an entry that holds the absent code is the free value (R95; log entry 30). -/
theorem drainRule_absent {t : MxTok} {a : AccEntry} (hi : t.int = false) (hc : a.count ≠ 0)
    (ha : fclass .fp32 a.value.toNat = .absent) : drainRule 0x09 t a = Config.absentMean t.dfmt a.count := by
  cases hd : t.dfmt <;> simp only [drainRule, hi, hd, hc, ha] <;> rfl

/-- A drain of one floating output, into FP32 or BF16. -/
def oneOutput (bf16 : Bool) : MxTok :=
  { mm1 := 0, nm1 := 0, kg := 0, koff := 0, acc := false, tile := false, dfmt := bf16, blk := false, int := false,
    aclm := 0, bclm := 0 }

/-- A region of one tile with a token at its matrix node, whose first entry holds the absent code with a count. -/
def absentEntry (c : Nat) : State :=
  { ctxs := [(0, { st := .running, width := 1, height := 1 })]
    tiles := [(0, { mx := { queue := [.tok 0 false], acc := [(0, { value := 0xFF800001, count := c })] } })]
    cur := .mx 0 }

theorem absentEntry_head (c : Nat) (bf16 : Bool) : MxHead (absentEntry c) 0 0x09 (oneOutput bf16) :=
  ⟨rfl, rfl, ⟨0, [], rfl⟩, by cases bf16 <;> rfl, rfl⟩

/-- A drain sends the free mean of an absent code, and its token holds no more than the width of its format. -/
theorem freeMeansFit_of_matrixDrainResults (h : Obligations.MatrixDrainResults) : FreeMeansFit := by
  have fits : ∀ c bf16, c ≠ 0 → Config.absentMean bf16 c < 2 ^ fmtWidth (if bf16 then .bf16 else .fp32) := fun c bf16 hc => by
    obtain ⟨u, -, -, ⟨hentry, -⟩, -, hrows⟩ := (h 0x09 (.mdrainMean (oneOutput bf16)) (oneOutput bf16) (absentEntry c) 0
      rfl rfl).1 (by simp) (absentEntry_head c bf16)
    have hvalue : (u.mx 0).at ((oneOutput bf16).entry 0 0) = { value := 0xFF800001, count := c } :=
      hentry 0 0 (Nat.succ_pos _) (Nat.succ_pos _)
    have habsent : fclass .fp32 (0xFF800001 : BitVec 32).toNat = .absent := by decide
    have hmean : drainRule 0x09 (oneOutput bf16) ((u.mx 0).at ((oneOutput bf16).entry 0 0)) = Config.absentMean bf16 c := by
      rw [hvalue]
      exact drainRule_absent rfl hc habsent
    obtain ⟨tok, -, -, -, -, helems⟩ := hrows 0 0 (Nat.succ_pos _) (by cases bf16 <;> decide)
    have helem := helems 0 (by cases bf16 <;> decide)
    have hin : 0 < (oneOutput bf16).n := Nat.succ_pos _
    rw [Nat.zero_mul, Nat.add_zero, if_pos hin, hmean] at helem
    rw [← helem]
    cases bf16 <;> exact Nat.mod_lt _ (Nat.two_pow_pos _)
  exact fun c hc => ⟨fits c true hc, fits c false hc⟩

/-- O19 stays open: all that it says of drains and releases is so where the free means of absent codes fit their formats,
and it says that they do, which the model's opaque constant leaves open (log entry 30). -/
theorem matrixDrainResults_iff_freeMeansFit : Obligations.MatrixDrainResults ↔ FreeMeansFit :=
  ⟨freeMeansFit_of_matrixDrainResults, matrixDrainResults_of_freeMeansFit⟩

end Sys2Proof.Machine

namespace Sys2Proof.Machine

/-! ## A unit's fault (R414) -/

section
variable {s : State} {pt c : Nat}

/-- What holds a tile is a region's context. -/
theorem State.isRegionId_of_owner (ho : s.owner pt = some c) : isRegionId c = true := by
  unfold State.owner at ho
  obtain ⟨p, hp, rfl⟩ := Option.map_eq_some_iff.mp ho
  have hfound := List.find?_some hp
  simp only [Bool.and_eq_true] at hfound
  exact hfound.1.1

/-- The region of an active tile fires. -/
theorem State.fires_of_active (ha : s.active pt = true) (ho : s.owner pt = some c) : (s.ctx c).st.fires = true := by
  simpa only [State.active, ho] using ha

/-- A context that fires, and is no supervisor, is FAULTED by a fault. -/
theorem State.ctx_faultCtx_fires (hc : isSupId c = false) (hf : (s.ctx c).st.fires = true) (fcode tile unit pos : Nat) :
    (s.faultCtx c fcode tile unit pos).ctx c = { s.ctx c with st := .faulted, fcode := fcode, preempt := none } := by
  have hset := s.ctx_setCtx c { s.ctx c with st := .faulted, fcode := fcode, preempt := none }
  unfold State.faultCtx
  simp only [hc, Bool.false_eq_true, if_false]
  cases hst : (s.ctx c).st <;> rw [hst] at hf
  case ready | running | waiting | draining => exact hset
  all_goals exact absurd hf (by decide)

/-- A fault of a unit whose region fires: the region's context is FAULTED with its code. -/
theorem State.unitFault_leaves (ho : s.owner pt = some c) (hf : (s.ctx c).st.fires = true) (unit fcode pos : Nat) :
    ((s.unitFault pt unit fcode pos).ctx c).st = .faulted ∧ ((s.unitFault pt unit fcode pos).ctx c).fcode = fcode := by
  have hctx := State.ctx_faultCtx_fires (isSupId_of_isRegionId (State.isRegionId_of_owner ho)) hf fcode (ptTile pt) unit pos
  simp only [State.unitFault, ho, hctx, and_self]

end

/-! ## Checks of a matrix token (O20) -/

section
variable {s : State} {pt c op : Nat} {t : MxTok} {w : Word64} {rest : List MxEntry}
  (hturn : s.cur = .mx pt) (ha : s.active pt = true) (hq : (s.mx pt).queue = .tok w false :: rest)
include hturn ha hq

/-- A token that breaks R182 faults before its claims are looked at. -/
theorem onToken_of_badFields (hw : wfMxFields op t ≠ []) (claims : List Nat) (f : Nat → State → Out) :
    onToken op t claims s f = .next (s.unitFault pt 2 fcEncoding 0) := by
  have hne : (wfMxFields op t).isEmpty = false := List.isEmpty_eq_false_iff.mpr hw
  simp only [onToken, hturn, ha, hq, hne, Bool.not_true, Bool.not_false, Bool.false_eq_true, if_false, if_true]

/-- A token with a claim that is not its slot's faults. -/
theorem onToken_of_wrong (hw : wfMxFields op t = []) {claims : List Nat} {n : Nat} (hn : n ∈ claims)
    (hc : (s.mx pt).claim n = .wrong) (f : Nat → State → Out) :
    onToken op t claims s f = .next (s.unitFault pt 2 fcSlotclm 0) := by
  have hwrong : (claims.map (s.mx pt).claim).contains .wrong = true :=
    List.contains_iff_mem.mpr (List.mem_map.mpr ⟨n, hn, hc⟩)
  simp only [onToken, hturn, ha, hq, hw, hwrong, List.isEmpty_nil, Bool.not_true, Bool.false_eq_true, if_false, if_true]

/-- A token with a claim whose slot is not filled yet, and no wrong one, waits. -/
theorem onToken_of_wait (hw : wfMxFields op t = []) {claims : List Nat} {n : Nat} (hn : n ∈ claims)
    (hc : (s.mx pt).claim n = .wait) (hok : ∀ m ∈ claims, (s.mx pt).claim m ≠ .wrong) (f : Nat → State → Out) :
    onToken op t claims s f = .next s := by
  have hwait : (claims.map (s.mx pt).claim).contains .wait = true :=
    List.contains_iff_mem.mpr (List.mem_map.mpr ⟨n, hn, hc⟩)
  have hwrong : (claims.map (s.mx pt).claim).contains .wrong = false := by
    rw [Bool.eq_false_iff, ne_eq, List.contains_iff_mem, List.mem_map]
    rintro ⟨m, hm, hmw⟩
    exact hok m hm hmw
  simp only [onToken, hturn, ha, hq, hw, hwrong, hwait, List.isEmpty_nil, Bool.not_true, Bool.false_eq_true, if_false,
    if_true]
  rfl

end

/-- Settles O20: a multiply checks its token as `onToken` does, fields first, then claims. -/
theorem matrixTokenChecks : Obligations.MatrixTokenChecks := by
  intro op i t s pt c w rest hi hturn ha ho hq ka x
  have hfire : ∃ wa wb scaled g, exec i s = fireMma op t wa wb scaled g s := by
    simp only [List.mem_cons, Prod.mk.injEq, List.not_mem_nil, or_false] at hi
    rcases hi with ⟨rfl, rfl⟩ | ⟨rfl, rfl⟩ | ⟨rfl, rfl⟩ | ⟨rfl, rfl⟩ | ⟨rfl, rfl⟩
    · exact ⟨_, _, _, _, show execMmaBf16 t s = _ from rfl⟩
    · exact ⟨_, _, _, _, show execMmaW4i t s = _ from rfl⟩
    · exact ⟨_, _, _, _, show execMmaW4f t s = _ from rfl⟩
    · exact ⟨_, _, _, _, show execMmaI8 t s = _ from rfl⟩
    · exact ⟨_, _, _, _, show execMmaI4 t s = _ from rfl⟩
  obtain ⟨wa, wb, scaled, g, hexec⟩ := hfire
  rw [fireMma] at hexec
  have hfaults := State.unitFault_leaves ho (State.fires_of_active ha ho) 2
  refine ⟨fun hw => ?_, fun hw hbad => ?_, fun hw hgen hst hb => ?_⟩
  · exact ⟨_, hexec.trans (onToken_of_badFields hturn ha hq hw _ _), hfaults _ _⟩
  · have hclaim : (s.mx pt).claim t.aclm.toNat = .wrong := by
      rw [Mx.claim]
      by_cases hg : x.gen.toNat ≠ t.aclm.toNat % 16
      · exact if_pos hg
      · rw [if_neg hg, show (s.mx pt).slots[ka].st = .free from hbad.resolve_left hg]
    exact ⟨_, hexec.trans (onToken_of_wrong hturn ha hq hw List.mem_cons_self hclaim _), hfaults _ _⟩
  · have hclaim : (s.mx pt).claim t.aclm.toNat = .wait := by
      rw [Mx.claim, if_neg (not_not.mpr hgen)]
      rcases hst with h | h <;> rw [show (s.mx pt).slots[ka].st = _ from h]
    refine hexec.trans (onToken_of_wait hturn ha hq hw List.mem_cons_self hclaim ?_ _)
    simp [hclaim, Mx.claim_ready hb]

end Sys2Proof.Machine

namespace Sys2Proof.Machine

/-! ## Matrix tokens and operand slots (O12) -/

/-! ### What a firing leaves of its tile's matrix node -/

theorem State.mx_take (s : State) (pt : Nat) (u : Bool) (k : Fin 6) : (s.take pt u k).mx pt = s.mx pt := by
  unfold State.take
  dsimp only
  rw [State.mx_of_tiles (State.takePort_tiles _ _ _ _ _), State.mx_setCu, State.mx_setCu]

theorem State.mx_takeAll (s : State) (pt : Nat) (u : Bool) (ks : List (Fin 6)) : (s.takeAll pt u ks).mx pt = s.mx pt :=
  List.foldlRecOn (motive := fun t : State => t.mx pt = s.mx pt) ks (fun s k => s.take pt u k) rfl
    fun t ht k _ => (t.mx_take pt u k).trans ht

theorem State.mx_takeGate (s : State) (pt : Nat) (u : Bool) (q : Qg) : (s.takeGate pt u q).mx pt = s.mx pt := by
  have htake : ∀ k, (s.ctlTake pt u k).mx pt = s.mx pt := fun k => by
    unfold State.ctlTake
    dsimp only
    have hfree : ∀ y : State, (y.free (.cuQ pt u k)).tiles = y.tiles := fun y => by simp
    rw [State.mx_of_tiles (hfree _), State.mx_of_tiles (State.tiles_touch _ _ _), State.mx_setCu]
  cases q
  case none => rfl
  all_goals exact htake _

/-- A node with a slot claimed (R133). -/
def Mx.claimSlot (m : Mx) (k : Fin 16) : Mx := { m with slots := m.slots.set k m.slots[k].claim }

theorem Mx.claimSlot_slots (m : Mx) (k j : Fin 16) :
    (m.claimSlot k).slots[j] = if j = k then m.slots[k].claim else m.slots[j] := by
  simp only [Mx.claimSlot, Fin.getElem_fin, Vector.getElem_set]
  by_cases h : j = k
  · simp [h]
  · rw [if_neg fun e => h (Fin.ext e).symm, if_neg h]

/-- A firing that claims a slot claims it at its tile's node, and no more of the node differs (R133). -/
theorem State.mx_fired_claim (s : State) (pt : Nat) (u : Bool) (v : EView) {f : Fire} (o : Option Token) {k : Fin 16}
    (hk : f.claim = some k) (hq : f.req = none) (hc : f.ctl = none) (hj : f.jump = none) (hs : f.stay = false) :
    (s.fired pt u v f o).mx pt = (s.mx pt).claimSlot k := by
  have hregs : ∀ (ws : List (Fin 8 × BitVec 32)) (y : State),
      (ws.foldl (fun s w => s.setS pt u w.1 w.2) y).mx pt = y.mx pt :=
    fun ws y => List.foldlRecOn (motive := fun t : State => t.mx pt = y.mx pt) ws (fun s w => s.setS pt u w.1 w.2) rfl
      fun t ht w _ => (t.mx_setCu pt u _).trans ht
  have hflag : ∀ (y : State) (fl : FlagWord), (y.flag pt u fl).mx pt = y.mx pt := fun y fl => by
    unfold State.flag
    dsimp only
    split <;> exact y.mx_setCu pt u _
  have hemit : ∀ y : State, (match o with
      | some tok => y.emitAll pt (v.outs.map (outCode u)) tok
      | none => y).mx pt = y.mx pt := fun y => by
    cases o with
    | none => rfl
    | some tok =>
      exact List.foldlRecOn (motive := fun t : State => t.mx pt = y.mx pt) (v.outs.map (outCode u))
        (fun s c => s.emit pt c tok) rfl
        fun t ht c _ => (State.mx_of_tiles (by simp) pt).trans ht
  have hregion : ∀ y : State, (y.firedRegion pt u v f).mx pt = (y.mx pt).claimSlot k := fun y => by
    unfold State.firedRegion
    simp only [hk, hq]
    split
    · exact y.mx_setMx pt _
    · split <;> exact y.mx_setMx pt _
  unfold State.fired
  simp only [hc, hj, hs, Bool.false_eq_true, if_false]
  rw [show ∀ (y : State) (n : Nat), (y.advance pt u n).mx pt = y.mx pt from fun y n => y.mx_setCu pt u _, hregion]
  exact congrArg (Mx.claimSlot · k) ((hemit _).trans ((hflag _ _).trans (hregs _ _)))

/-! ### The payloads -/

/-- A given operand code reads as a given operand, where an instruction has all its heads. -/
theorem Fires.given_opnd_a {s : State} {pt : Nat} {u : Bool} {v : EView} {hs : List Token} (h : Fires s pt u v hs) :
    (s.opnds pt u v).a.given = decide (v.a ≠ .none) := by
  have hread : ∀ k b, srcInput v.a = some (k, b) → ∃ t, s.head pt u k = some t := fun k b hk => by
    have hh := h.heads
    simp only [State.heads, EView.inputs, List.filterMap_cons, hk, List.foldr_cons] at hh
    cases ht : s.head pt u k with
    | none => rw [ht] at hh; split at hh <;> simp_all
    | some t => exact ⟨t, rfl⟩
  show (s.opVal pt u v.a).given = _
  cases ha : v.a
  case inp k =>
    obtain ⟨t, ht⟩ := hread k true (by rw [ha]; rfl)
    simp [State.opVal, ht, OpVal.given]
  case peek k =>
    obtain ⟨t, ht⟩ := hread k false (by rw [ha]; rfl)
    simp [State.opVal, ht, OpVal.given]
  all_goals simp [State.opVal, OpVal.given]

/-- Fields side by side in a word. -/
theorem toNat_append_eq_add {n m : Nat} (x : BitVec n) (y : BitVec m) : (x ++ y).toNat = x.toNat * 2 ^ m + y.toNat := by
  rw [BitVec.toNat_append, Nat.shiftLeft_eq, Nat.mul_comm, Nat.two_pow_add_eq_or_of_lt y.isLt]

/-- The token of R251 as its fields lie in a word. -/
theorem mtokPayload_eq (lit : BitVec 32) (a b : Nat) :
    BitVec.ofNat 512 (lit.toNat * 2 ^ 32 + a % 256 * 2 ^ 24 + b % 256 * 2 ^ 16) =
      (lit ++ BitVec.ofNat 8 a ++ BitVec.ofNat 8 b ++ (0 : BitVec 16)).zeroExtend 512 := by
  rw [BitVec.zeroExtend, ← BitVec.ofNat_toNat]
  congr 1
  simp only [toNat_append_eq_add, BitVec.ofNat_eq_ofNat, BitVec.toNat_ofNat]
  omega

/-- The release entry of R256 as its fields lie in a word. -/
theorem orelPayload_eq (a : Nat) : BitVec.ofNat 512 (0x1F * 2 ^ 59 + a % 256 * 2 ^ 24) =
    (BitVec.ofNat 5 0x1F ++ (0 : BitVec 27) ++ BitVec.ofNat 8 a ++ (0 : BitVec 24)).zeroExtend 512 := by
  rw [BitVec.zeroExtend, ← BitVec.ofNat_toNat]
  congr 1
  simp only [toNat_append_eq_add, BitVec.ofNat_eq_ofNat, BitVec.toNat_ofNat]
  omega

/-! ### The claim of a slot (R133) -/

/-- The first FREE slot is found. -/
theorem Mx.freeSlot_eq {m : Mx} {k : Fin 16} (hk : m.slots[k].st = .free)
    (hlow : ∀ j : Fin 16, j < k → m.slots[j].st ≠ .free) :
    m.freeSlot = some k := by
  unfold Mx.freeSlot
  rw [List.find?_eq_some_iff_getElem]
  refine ⟨by simpa using hk, k.val, by simp, by simp, fun j hj => ?_⟩
  have hne := hlow ⟨j, hj.trans k.isLt⟩ hj
  simpa using hne

/-- What OCLM does with the FREE slot that it finds (R133, R256). -/
def oclmFire (m : Mx) (k : Fin 16) : Fire :=
  let n := claimNo k.val m.slots[k].claim
  { out := some (BitVec.ofNat 512 n), whole := some (BitVec.ofNat 32 n), claim := some k, breaks := true }

theorem doOclm_of_free {v : EView} {s : State} {pt : Nat} {u : Bool} {k : Fin 16} (hturn : s.cur = .cu pt u)
    (hk : (s.mx pt).freeSlot = some k) : doOclm v s = fireElem v (fun _ => oclmFire (s.mx pt) k) s := by
  simp only [doOclm, hturn, hk]
  rfl

/-- OCLM claims the slot that it finds, and sends its claim number. -/
theorem oclm_claims {i : Instr} {v : EView} {s : State} {pt : Nat} {u : Bool} {hs : List Token} {k : Fin 16}
    (hF : Fires s pt u v hs) (hexec : exec i s = doOclm v s) (hk : (s.mx pt).freeSlot = some k) :
    let n := claimNo k.val (s.mx pt).slots[k].claim
    DeliversToken i s pt u v (resultToken (BitVec.ofNat 512 n) hs) (BitVec.ofNat 32 n) [] 0 ∧
    ∀ t, exec i s = .next t →
      t.mx pt = (s.mx pt).claimSlot k := by
  intro n
  have hfire := hexec.trans (doOclm_of_free hF.turn hk)
  refine ⟨fireElem_delivers hF _ hfire rfl rfl rfl rfl List.nodup_nil rfl, fun t ht => ?_⟩
  have hnext := hfire.symm.trans ht
  rw [fireElem_of_fires hF _ (fun z hz => absurd hz (by simp [oclmFire]))] at hnext
  obtain rfl := Host.Outcome.next.inj hnext
  rw [State.mx_fired_claim _ pt u v _ (k := k) rfl rfl rfl rfl rfl, State.mx_takeGate, State.mx_takeAll]

/-- MTOK delivers the token of R251. -/
theorem mtok_delivers {i : Instr} {v : EView} {s : State} {pt : Nat} {u : Bool} {hs : List Token} (hv : elemView i = some v)
    (hF : Fires s pt u v hs) (hop : v.op = .mtok) : Delivers i s pt u v hs ((v.lit ++ BitVec.ofNat 8 (s.opnds pt u v).a.scalar ++
      BitVec.ofNat 8 (s.opnds pt u v).b.scalar ++ (0 : BitVec 16)).zeroExtend 512) 0 := by
  have hr : elemFire s v (s.opnds pt u v) = fireMtok v (s.opnds pt u v) := by rw [elemFire, hop]
  rw [← mtokPayload_eq]
  exact elemFire_delivers hv hF (by rw [elemRun, hop]) hr rfl rfl rfl rfl rfl List.nodup_nil rfl

/-- OREL delivers a release entry of R256. -/
theorem orel_delivers {i : Instr} {v : EView} {s : State} {pt : Nat} {u : Bool} {hs : List Token} (hv : elemView i = some v)
    (hF : Fires s pt u v hs) (hop : v.op = .orel) : Delivers i s pt u v hs ((BitVec.ofNat 5 0x1F ++ (0 : BitVec 27) ++
      BitVec.ofNat 8 (s.opnds pt u v).a.scalar ++ (0 : BitVec 24)).zeroExtend 512) 0 := by
  have hr : elemFire s v (s.opnds pt u v) = fireOrel v (s.opnds pt u v) := by rw [elemFire, hop]
  rw [← orelPayload_eq]
  exact elemFire_delivers hv hF (by rw [elemRun, hop]) hr rfl rfl rfl rfl rfl List.nodup_nil rfl

/-- OSTA delivers the state and the claim number of the slot that its operand or its literal names (R137). -/
theorem osta_delivers {i : Instr} {v : EView} {s : State} {pt : Nat} {u : Bool} {hs : List Token} (hv : elemView i = some v)
    (hF : Fires s pt u v hs) (hop : v.op = .osta) {k : Fin 16}
    (hk : k.val = if v.a = .none then v.m.imm.toNat % 16 else (s.opnds pt u v).a.scalar % 16) :
    Delivers i s pt u v hs
      (BitVec.ofNat 512 (slotCode (s.mx pt).slots[k].st + claimNo k.val (s.mx pt).slots[k] * 256)) 0 := by
  have hslot : (Fin.ofNat 16 (if (s.opnds pt u v).a.given then (s.opnds pt u v).a.scalar % 16 else natBits v.m.imm.toNat 0 4) :
      Fin 16) = k := by
    apply Fin.ext
    rw [hk, hF.given_opnd_a]
    by_cases ha : v.a = .none <;> simp [ha, natBits]
  have hr : elemFire s v (s.opnds pt u v) =
      { out := some (BitVec.ofNat 512 (slotCode (s.mx pt).slots[k].st + claimNo k.val (s.mx pt).slots[k] * 256)) } := by
    simp only [elemFire, hop, fireOsta, hF.turn, hslot]
  exact elemFire_delivers hv hF (by rw [elemRun, hop]) hr rfl rfl rfl rfl rfl List.nodup_nil rfl

/-- Settles O12: MTOK, OREL and OSTA fire by `fireElem` with the payload of their rule, OCLM with the slot that it finds. -/
theorem matrixTokenAndSlotResults : Obligations.MatrixTokenAndSlotResults := by
  intro i v s pt u hs hv hF o low
  refine ⟨mtok_delivers hv hF, orel_delivers hv hF, fun hop k hk => ?_, fun hop k hk hlow => ?_⟩
  · intro x code
    have hcode : code = slotCode x.st := by cases hx : x.st <;> simp only [code, hx, slotCode]
    rw [hcode]
    exact osta_delivers hv hF hop hk
  · have hexec : exec i s = doOclm v s := (exec_elem hv s).trans (by rw [elemRun, hop])
    obtain ⟨hsends, hclaims⟩ := oclm_claims hF hexec (Mx.freeSlot_eq hk hlow)
    refine ⟨hsends, fun t ht => ?_⟩
    rw [hclaims t ht]
    simp only [Mx.claimSlot_slots, if_true]
    exact ⟨rfl, rfl, fun j hj => if_neg hj⟩

end Sys2Proof.Machine

namespace Sys2Proof.Machine

/-! ## What a memory unit's accesses change (O47, O49) -/

/-- At most what `TakeOnly` names, the walks, the pending translation faults and the TLBs of the memory units differ. -/
def AskOnly (s t : State) : Prop := ∃ xs ds cs ls rs hs ts ns ws wk xl mt,
  t = { s with
    ctxs := xs, dies := ds, clusters := cs, launches := ls, regs := rs, hwSet := hs, tiles := ts, returns := ns, used := ws
    walks := wk, xlPend := xl, muTlb := mt }

theorem SameMemory.refl (s : State) : SameMemory s s := ⟨fun _ => rfl, fun _ => rfl, fun _ => rfl, rfl, rfl, rfl⟩

theorem SameMemory.trans {s t u : State} (h : SameMemory s t) (k : SameMemory t u) : SameMemory s u := by
  obtain ⟨hm, hs, ho, hmp, hsp, hop⟩ := h
  obtain ⟨km, ks, ko, kmp, ksp, kop⟩ := k
  exact ⟨fun a => (km a).trans (hm a), fun a => (ks a).trans (hs a), fun a => (ko a).trans (ho a), kmp.trans hmp,
    ksp.trans hsp, kop.trans hop⟩

theorem ErrOnly.sameMemory {s t : State} (h : ErrOnly s t) : SameMemory s t := by
  obtain ⟨_, _, _, _, _, _, _, rfl⟩ := h
  exact .refl s

theorem ErrOnly.tiles {s t : State} (h : ErrOnly s t) : t.tiles = s.tiles := by
  obtain ⟨_, _, _, _, _, _, _, rfl⟩ := h
  rfl

section
variable {s t u : State}

theorem TakeOnly.ask (h : TakeOnly s t) : AskOnly s t := by
  obtain ⟨_, _, _, _, _, _, _, _, _, rfl⟩ := h
  exact ⟨_, _, _, _, _, _, _, _, _, _, _, _, rfl⟩

theorem AskOnly.refl : AskOnly s s := TakeOnly.refl.ask

theorem AskOnly.trans (h : AskOnly s t) (k : AskOnly t u) : AskOnly s u := by
  obtain ⟨_, _, _, _, _, _, _, _, _, _, _, _, rfl⟩ := h
  obtain ⟨_, _, _, _, _, _, _, _, _, _, _, _, rfl⟩ := k
  exact ⟨_, _, _, _, _, _, _, _, _, _, _, _, rfl⟩

theorem AskOnly.fold {α : Type} {f : State → α → State} (h : ∀ s a, AskOnly s (f s a)) (l : List α) (s : State) :
    AskOnly s (l.foldl f s) :=
  List.foldlRecOn (motive := AskOnly s) l f .refl fun t ht a _ => ht.trans (h t a)

theorem AskOnly.sameMemory (h : AskOnly s t) : SameMemory s t := by
  obtain ⟨_, _, _, _, _, _, _, _, _, _, _, _, rfl⟩ := h
  exact .refl s

theorem AskOnly.flights (h : AskOnly s t) : t.flights = s.flights := by
  obtain ⟨_, _, _, _, _, _, _, _, _, _, _, _, rfl⟩ := h
  rfl

theorem AskOnly.clTlb (h : AskOnly s t) : t.clTlb = s.clTlb := by
  obtain ⟨_, _, _, _, _, _, _, _, _, _, _, _, rfl⟩ := h
  rfl

end

section
variable (s : State)

theorem State.setMu_only (pt : Nat) (u : Bool) (m : Mu) : TakeOnly s (s.setMu pt u m) := by
  cases u <;> exact ⟨_, _, _, _, _, _, _, _, _, rfl⟩

theorem State.setReq_only (pt : Nat) (u : Bool) (r : MuReq) : TakeOnly s (s.setReq pt u r) := s.setMu_only pt u _

theorem State.muTake_only (pt : Nat) (u : Bool) : TakeOnly s (s.muTake pt u) := by
  unfold State.muTake
  split
  · exact (s.setMu_only pt u _).trans (State.takePort_only _ _ _ _ _)
  · exact (((s.setMu_only pt u _).trans (State.touch_only _ _ _).take).trans (State.free_only _ _)).trans
      (State.headCheck_only _ _ _).take

theorem State.muTakes_only (pt : Nat) (u : Bool) (n : Nat) : TakeOnly s (s.muTakes pt u n) :=
  .fold (fun t _ => t.muTake_only pt u) _ s

theorem State.tupleTake_only (pt : Nat) (u : Bool) : TakeOnly s (s.tupleTake pt u) :=
  (s.setMu_only pt u _).trans (State.touch_only _ _ _).take

theorem State.modOwner_only (pt : Nat) (f : Ctx → Ctx) : CtlOnly s (s.modOwner pt f) := by
  unfold State.modOwner
  split
  · exact s.setCtx_only _ _
  · exact .refl

theorem State.muSnap_only (pt : Nat) (u : Bool) (t : Token) : CtlOnly s (s.muSnap pt u t) := by
  unfold State.muSnap
  split
  · split
    · exact .refl
    · dsimp only
      split
      · exact .refl
      · exact s.setCtx_only _ _
  · exact .refl

theorem State.fillFor_eq (pt : Nat) (u : Bool) (c : Nat) (lt : List Word64) (es : List Elem) :
    ∃ mt, s.fillFor pt u c lt es = { s with muTlb := mt } := by
  unfold State.fillFor
  refine List.foldlRecOn (motive := fun t : State => ∃ mt, t = { s with muTlb := mt }) _ _ ⟨_, rfl⟩ ?_
  rintro _ ⟨mt, rfl⟩ va -
  split <;> exact ⟨_, rfl⟩

theorem State.askWalk_eq (w : Walk) : ∃ wk, s.askWalk w = { s with walks := wk } := by
  unfold State.askWalk
  dsimp only
  split <;> exact ⟨_, rfl⟩

theorem State.permFault_eq (w : Walk) : ∃ ds xl, s.permFault w = { s with dies := ds, xlPend := xl } := by
  unfold State.permFault
  split <;> exact ⟨_, _, rfl⟩

/-- A request that looks for its places changes units, walks, faults and TLBs, and no storage. -/
theorem State.tryReq_only (pt : Nat) (u : Bool) (n : Nat) : AskOnly s (s.tryReq pt u n) := by
  have hset : ∀ r, AskOnly s (s.setReq pt u r) := fun r => (s.setReq_only pt u r).ask
  unfold State.tryReq
  split
  · dsimp only
    split
    · obtain ⟨mt, h⟩ := State.fillFor_eq (s.setReq pt u _) pt u _ _ _
      rw [h]
      exact (hset _).trans ⟨_, _, _, _, _, _, _, _, _, _, _, _, rfl⟩
    · obtain ⟨wk, h⟩ := State.askWalk_eq (s.setReq pt u _) _
      rw [h]
      exact (hset _).trans ⟨_, _, _, _, _, _, _, _, _, _, _, _, rfl⟩
    · split
      · exact hset _
      · obtain ⟨ds, xl, h⟩ := State.permFault_eq (s.setReq pt u _) _
        rw [h]
        exact (hset _).trans ⟨_, _, _, _, _, _, _, _, _, _, _, _, rfl⟩
    · split
      · exact hset _
      · exact (hset _).trans (State.unitFault_only _ _ _ _ _).take.ask
  · exact .refl

end

/-! ### The request input (R22, R49) -/

section
variable {s t : State} {pt : Nat} {u : Bool}

theorem State.muTap_congr (h : ∀ v, t.cu pt v = s.cu pt v) (u : Bool) : t.muTap pt u = s.muTap pt u := by
  simp only [State.muTap, h]

theorem State.cu_setMu (s : State) (pt : Nat) (u v : Bool) (m : Mu) : (s.setMu pt u m).cu pt v = s.cu pt v := by
  cases u <;> cases v <;> simp [State.cu, State.setMu]

/-- A unit changed, and then anything that leaves the tiles. -/
theorem State.mu_of_setMu {m : Mu} (h : t.tiles = (s.setMu pt u m).tiles) (x : Bool) :
    t.mu pt x = (if x = u then m else s.mu pt x) ∧ t.muTap pt x = s.muTap pt x := by
  refine ⟨(State.mu_of_tiles h pt x).trans (s.mu_setMu_eq pt u x m), State.muTap_congr (fun v => ?_) x⟩
  rw [State.cu_congr h, State.cu_setMu]

/-- A unit that taps no port takes its tokens from its own buffer. -/
theorem State.muTakes_untapped (h : s.muTap pt u = none) (n : Nat) : (s.muTakes pt u n).muTap pt u = none ∧
    (s.muTakes pt u n).mu pt u =
      { s.mu pt u with buf := (s.mu pt u).buf.drop n, seen := (s.mu pt u).seen.drop n } := by
  induction n with
  | zero => exact ⟨h, rfl⟩
  | succ n ih =>
    obtain ⟨htap, hmu⟩ := ih
    have hstep : s.muTakes pt u (n + 1) = (s.muTakes pt u n).muTake pt u := by
      simp only [State.muTakes, List.range_succ, List.foldl_append, List.foldl_cons, List.foldl_nil]
    rw [hstep]
    generalize s.muTakes pt u n = y at htap hmu
    have htiles : (y.muTake pt u).tiles =
        (y.setMu pt u { y.mu pt u with buf := (y.mu pt u).buf.tail, seen := (y.mu pt u).seen.tail }).tiles := by
      simp only [State.muTake, htap, (State.headCheck_only _ _ _).tiles, State.free_frame, State.touch_frame]
    obtain ⟨hm, ht⟩ := State.mu_of_setMu htiles u
    refine ⟨ht.trans htap, ?_⟩
    rw [hm, if_pos rfl, hmu, List.tail_drop, List.tail_drop]

theorem State.muTake_untapped (h : s.muTap pt u = none) : (s.muTake pt u).muTap pt u = none ∧
    (s.muTake pt u).mu pt u = { s.mu pt u with buf := (s.mu pt u).buf.tail, seen := (s.mu pt u).seen.tail } := by
  obtain ⟨ht, hm⟩ := State.muTakes_untapped h 1
  refine ⟨ht, hm.trans ?_⟩
  rw [List.drop_one, List.drop_one]

theorem State.mu_tupleTake (s : State) (pt : Nat) (u : Bool) :
    (s.tupleTake pt u).mu pt u = { s.mu pt u with tuples := (s.mu pt u).tuples.tail } :=
  (State.mu_of_tiles (State.tiles_touch _ pt .tok) pt u).trans (s.mu_setMu pt u _)

end

/-! ### The requests that a unit holds -/

/-- An item changed, if it is a request. -/
def MuItem.mapReq (f : MuReq → MuReq) : MuItem → MuItem
  | .req r => .req (f r)
  | i => i

theorem Mu.mapReqs_eq (m : Mu) (f : MuReq → MuReq) : m.mapReqs f = { m with items := m.items.map (MuItem.mapReq f) } := by
  have hf : ∀ i : MuItem, (match i with | .req r => .req (f r) | _ => i) = MuItem.mapReq f i := fun i => by cases i <;> rfl
  exact congrArg (fun l : List MuItem => ({ m with items := l } : Mu)) (List.map_congr_left fun i _ => hf i)

theorem Mu.mem_reqs {m : Mu} {r : MuReq} : r ∈ m.reqs ↔ .req r ∈ m.items := by
  simp only [Mu.reqs, List.mem_filterMap]
  refine ⟨?_, fun h => ⟨_, h, rfl⟩⟩
  rintro ⟨i, hi, hr⟩
  cases i with
  | req q => exact Option.some.inj hr ▸ hi
  | mark t => exact absurd hr (by simp)
  | again k t => exact absurd hr (by simp)

theorem Mu.reqs_mapReqs (m : Mu) (f : MuReq → MuReq) : (m.mapReqs f).reqs = m.reqs.map f := by
  simp only [Mu.reqs, Mu.mapReqs, List.filterMap_map, List.map_filterMap]
  refine List.filterMap_congr fun i _ => ?_
  cases i <;> rfl

/-- The request with the greatest number replaced: the items before it stay. -/
theorem Mu.replace_last {m : Mu} {before : List MuItem} {q r : MuReq} (hi : m.items = before ++ [.req q])
    (hlt : ∀ x, MuItem.req x ∈ before → x.num < q.num) (hn : r.num = q.num) :
    m.mapReqs (fun x => if x.num = r.num then r else x) = { m with items := before ++ [.req r] } := by
  have hbefore : before.map (MuItem.mapReq fun x => if x.num = r.num then r else x) = before := by
    refine (List.map_congr_left fun i hm => ?_).trans (List.map_id before)
    cases i with
    | req x => exact congrArg MuItem.req (if_neg (by rw [hn]; exact (hlt x hm).ne))
    | mark t => rfl
    | again k t => rfl
  rw [Mu.mapReqs_eq, hi, List.map_append, hbefore]
  simp only [List.map_cons, List.map_nil, MuItem.mapReq, hn, if_true]

/-- A request as it may stand once it has looked for its places (R131). -/
def MuReq.Sought (r q : MuReq) : Prop := ∃ st es k used missed onTlbi,
  q = { r with st := st, elems := es, qset := k, used := used, missed := missed, onTlbi := onTlbi }

section
variable {s : State} {pt : Nat} {u : Bool} {before : List MuItem} {q : MuReq}
  (hi : (s.mu pt u).items = before ++ [.req q]) (hlt : ∀ x, MuItem.req x ∈ before → x.num < q.num)
include hi hlt

theorem State.muReq_last : s.muReq pt u q.num = some q := by
  have hreqs : (s.mu pt u).reqs = ({ s.mu pt u with items := before } : Mu).reqs ++ [q] := by
    simp only [Mu.reqs, hi, List.filterMap_append, List.filterMap_cons, List.filterMap_nil]
  have hnone : ({ s.mu pt u with items := before } : Mu).reqs.find? (fun r => r.num == q.num) = none := by
    rw [List.find?_eq_none]
    exact fun r hr => by simpa using (hlt r (Mu.mem_reqs.mp hr)).ne
  rw [State.muReq, hreqs, List.find?_append, hnone]
  simp

theorem State.mu_setReq_last {r : MuReq} (hn : r.num = q.num) :
    (s.setReq pt u r).mu pt u = { s.mu pt u with items := before ++ [.req r] } := by
  rw [State.setReq, State.mu_setMu, Mu.replace_last hi hlt hn]

/-- The last request accepted looks for its places: nothing else of its unit changes. -/
theorem State.mu_tryReq_last : ∃ r, q.Sought r ∧
    (s.tryReq pt u q.num).mu pt u = { s.mu pt u with items := before ++ [.req r] } := by
  have main : ∀ (r : MuReq) (t : State), t.tiles = (s.setReq pt u r).tiles → q.Sought r → r.num = q.num → ∃ r, q.Sought r ∧
      t.mu pt u = { s.mu pt u with items := before ++ [.req r] } := fun r t ht hr hn =>
    ⟨r, hr, (State.mu_of_tiles ht pt u).trans (State.mu_setReq_last hi hlt hn)⟩
  unfold State.tryReq
  rw [State.muReq_last hi hlt]
  split
  · next r c hr _ =>
    obtain rfl := Option.some.inj hr
    dsimp only
    split
    · obtain ⟨mt, h⟩ := State.fillFor_eq (s.setReq pt u _) pt u _ _ _
      rw [h]
      exact main _ _ rfl ⟨_, _, _, _, _, _, rfl⟩ rfl
    · obtain ⟨wk, h⟩ := State.askWalk_eq (s.setReq pt u _) _
      rw [h]
      exact main _ _ rfl ⟨_, _, _, _, _, _, rfl⟩ rfl
    · split
      · exact main _ _ rfl ⟨_, _, _, _, _, _, rfl⟩ rfl
      · obtain ⟨ds, xl, h⟩ := State.permFault_eq (s.setReq pt u _) _
        rw [h]
        exact main _ _ rfl ⟨_, _, _, _, _, _, rfl⟩ rfl
    · split
      · exact main _ _ rfl ⟨_, _, _, _, _, _, rfl⟩ rfl
      · exact main _ _ (State.unitFault_only _ _ _ _ _).tiles ⟨_, _, _, _, _, _, rfl⟩ rfl
  · exact ⟨q, ⟨_, _, _, _, _, _, rfl⟩, by rw [← hi]⟩

end

end Sys2Proof.Machine

namespace Sys2Proof.Machine

/-! ## Acceptance by a memory unit (O47) -/

/-! ### The tokens of a request unit (R258) -/

/-- A unit's operands stand at its request input. -/
theorem Mu.unit_data_mem {m : Mu} {f : MuFn} {toks : List Token} {tuple : Option Token} {t : Token}
    (h : t ∈ (m.unit f toks tuple).data) : t ∈ toks := by
  cases ho : f.orders with
  | true => simp only [Mu.unit, ho, if_true, List.not_mem_nil] at h
  | false =>
    simp only [Mu.unit, ho, Bool.false_eq_true, if_false] at h
    split at h
    · exact List.mem_of_mem_drop (List.mem_of_mem_tail h)
    · exact List.mem_of_mem_drop h

/-- What an accepted request consumes with its poison stands at the request input, or is the tuple that it waits for. -/
theorem Mu.unit_strict_mem {m : Mu} {f : MuFn} {toks : List Token} {tuple : Option Token} {t : Token}
    (h : t ∈ (m.unit f toks tuple).strict) : t ∈ toks ∨ (m.byAg f = true ∧ tuple = some t) := by
  have hdata := Mu.unit_data_mem (m := m) (f := f) (toks := toks) (tuple := tuple) (t := t)
  cases ho : f.orders with
  | true =>
    simp only [Mu.unit, ho, if_true, List.mem_append] at h
    exact .inl (h.elim List.mem_of_mem_take List.mem_of_mem_drop)
  | false =>
    simp only [Mu.unit, ho, Bool.false_eq_true, if_false, List.mem_append] at h hdata
    obtain (h | h) | h := h
    · exact .inl (List.mem_of_mem_take h)
    · split at h
      · exact .inl (List.mem_of_mem_drop (List.mem_of_mem_head? (Option.mem_toList.mp h)))
      · next hag => exact .inr ⟨by simp [Mu.byAg, ho, hag], Option.mem_toList.mp h⟩
    · refine .inl (hdata ?_)
      split at h
      · exact h
      · split at h
        · exact List.mem_of_mem_take h
        · exact List.mem_of_mem_take h
        · exact absurd h List.not_mem_nil

/-- Heads that are all EOS, or all BARRIER, stand as their first with the poison of any. -/
theorem commonMark_of_kinds {hs : List Token} {t : Token} (ht : hs.head? = some t)
    (hk : (∀ h ∈ hs, h.kind = .eos) ∨ ∀ h ∈ hs, h.kind = .barrier) :
    commonMark hs = some { t with poison := hs.any (·.poison) } := by
  have hall : ((hs.all fun h => h.kind == .eos) || hs.all fun h => h.kind == .barrier) = true := by
    simpa only [Bool.or_eq_true, List.all_eq_true, beq_iff_eq] using hk
  obtain ⟨rest, rfl⟩ := List.head?_eq_some_iff.mp ht
  rw [commonMark, if_pos hall]

/-- Heads with no mark do not stand as one. -/
theorem commonMark_of_noMark {hs : List Token} (h : ∀ t ∈ hs, t.isMark = false) : commonMark hs = none := by
  cases hs with
  | nil => rfl
  | cons t rest =>
    have ht := h t List.mem_cons_self
    simp only [Token.isMark, Bool.or_eq_false_iff, beq_eq_false_iff_ne] at ht
    simp [commonMark, ht]

/-! ### What stands at a memory unit's inputs -/

/-- The tokens of the next request unit at the request input. -/
def State.unitToks (s : State) (pt : Nat) (u : Bool) (f : MuFn) (imm : Nat) : List Token :=
  (s.mu pt u).buf.take ((s.mu pt u).need f imm)

/-- The tuple that the next request unit takes. -/
def State.unitTuple (s : State) (pt : Nat) (u : Bool) (f : MuFn) : Option Token :=
  if (s.mu pt u).byAg f then (s.mu pt u).tuples.head? else none

/-- The heads of the streams that feed a memory unit. -/
def State.unitHeads (s : State) (pt : Nat) (u : Bool) (f : MuFn) (imm : Nat) : List Token :=
  (s.unitToks pt u f imm).head?.toList ++ (s.unitTuple pt u f).toList

section
variable {s : State} {pt c fn : Nat} {u : Bool} {w : MemMods}

theorem State.unitHeads_eq (f : MuFn) (imm : Nat) : s.unitHeads pt u f imm = (s.unitToks pt u f imm).head?.toList ++
    (if (s.mu pt u).byAg f then (s.mu pt u).tuples.head?.toList else []) := by
  unfold State.unitHeads State.unitTuple
  split <;> rfl

/-- Every head is a token of the unit. -/
theorem State.unitHeads_mem {f : MuFn} {imm : Nat} {t : Token} (h : t ∈ s.unitHeads pt u f imm) :
    t ∈ s.unitToks pt u f imm ++ (s.unitTuple pt u f).toList :=
  List.mem_append.mpr <| (List.mem_append.mp h).imp_left fun h => List.mem_of_mem_head? (Option.mem_toList.mp h)

section
variable (hturn : s.cur = .mu pt u) (ha : s.active pt = true) (hstop : (s.mu pt u).stopAt = none)
  (htap : s.muTap pt u = none)
  (htok : 0 < (s.mu pt u).need (muFn fn) w.imm.toNat → s.unitToks pt u (muFn fn) w.imm.toNat ≠ [])
  (htup : (s.mu pt u).byAg (muFn fn) = true → (s.unitTuple pt u (muFn fn)).isSome = true)

include htap in
theorem State.muToks_take (f : MuFn) (imm : Nat) :
    (s.muToks pt u).take ((s.mu pt u).need f imm) = s.unitToks pt u f imm := by
  rw [State.muToks, htap, State.unitToks]

include htok htup in
/-- No stream of the node is empty. -/
theorem State.streams_present : ¬(((decide (0 < (s.mu pt u).need (muFn fn) w.imm.toNat) &&
    (s.unitToks pt u (muFn fn) w.imm.toNat).isEmpty) ||
    ((s.mu pt u).byAg (muFn fn) && (s.mu pt u).tuples.head?.isNone)) = true) := by
  rw [Bool.or_eq_true, Bool.and_eq_true, Bool.and_eq_true, decide_eq_true_eq, List.isEmpty_iff]
  rintro (⟨hn, he⟩ | ⟨hag, he⟩)
  · exact htok hn he
  · have := htup hag
    rw [State.unitTuple, if_pos hag, Option.isNone_iff_eq_none.mp he] at this
    exact absurd this (by simp)

include hturn ha hstop htap htok htup

/-- A mark that stands on every stream is passed. -/
theorem fireMem_of_mark {t : Token} (hm : commonMark (s.unitHeads pt u (muFn fn) w.imm.toNat) = some t)
    (hok : ∀ h ∈ s.unitHeads pt u (muFn fn) w.imm.toNat, h.mismatch = false) :
    fireMem fn w s =
      .next (s.muMark pt u (decide (0 < (s.mu pt u).need (muFn fn) w.imm.toNat)) ((s.mu pt u).byAg (muFn fn)) t) := by
  have hany : (s.unitHeads pt u (muFn fn) w.imm.toNat).any Token.mismatch = false :=
    List.any_eq_false.mpr fun h hh => by simp [hok h hh]
  have hpresent := State.streams_present htok htup
  rw [State.unitHeads_eq] at hm hany
  simp only [fireMem, hturn, ha, hstop, State.muToks_take htap, hpresent, hm, hany, Bool.not_true, Option.isSome_none,
    Bool.false_eq_true, or_self, if_false]

/-- A whole request unit with no mark is accepted or refused. -/
theorem fireMem_of_whole (hlen : (s.unitToks pt u (muFn fn) w.imm.toNat).length = (s.mu pt u).need (muFn fn) w.imm.toNat)
    (hm : ∀ t ∈ s.unitToks pt u (muFn fn) w.imm.toNat ++ (s.unitTuple pt u (muFn fn)).toList, t.isMark = false) :
    fireMem fn w s = s.muAccept pt u (muFn fn) fn w ((s.mu pt u).need (muFn fn) w.imm.toNat)
      ((s.mu pt u).unit (muFn fn) (s.unitToks pt u (muFn fn) w.imm.toNat) (s.mu pt u).tuples.head?)
      (s.unitToks pt u (muFn fn) w.imm.toNat) (s.mu pt u).tuples.head? := by
  have hpresent := State.streams_present htok htup
  have hno : commonMark (s.unitHeads pt u (muFn fn) w.imm.toNat) = none :=
    commonMark_of_noMark fun t ht => hm t (State.unitHeads_mem ht)
  have htoks : (s.unitToks pt u (muFn fn) w.imm.toNat).any Token.isMark = false :=
    List.any_eq_false.mpr fun t ht => by simp [hm t (List.mem_append_left _ ht)]
  have htuple : ((s.mu pt u).byAg (muFn fn) && (s.mu pt u).tuples.head?.any Token.isMark) = false := by
    rw [Bool.and_eq_false_imp, Option.any_eq_false]
    intro hag t ht
    refine hm t (List.mem_append_right _ ?_)
    rw [State.unitTuple, if_pos hag, ht]
    exact List.mem_singleton_self t
  rw [State.unitHeads_eq] at hno
  simp only [fireMem, hturn, ha, hstop, State.muToks_take htap, hpresent, hno, hlen, htoks, htuple, Bool.not_true,
    Option.isSome_none, Bool.false_eq_true, or_self, if_false, lt_irrefl]

end

/-! ### A mark that takes its turn (R258, R424) -/

section
variable (htap : s.muTap pt u = none) (hskip : (s.mu pt u).skip = 0)
include htap hskip

/-- A mark joins the items, and leaves the inputs that it stood on. -/
theorem State.mu_muMark (useIn useAg : Bool) (t : Token) :
    ((s.muMark pt u useIn useAg t).mu pt u).items =
        (s.mu pt u).items.map (MuItem.mapReq fun r => { r with hold := false }) ++ [.mark t] ∧
      ((s.muMark pt u useIn useAg t).mu pt u).buf = if useIn then (s.mu pt u).buf.tail else (s.mu pt u).buf := by
  have hin : ∃ sn, (if useIn then s.muTake pt u else s).mu pt u =
      { s.mu pt u with buf := if useIn then (s.mu pt u).buf.tail else (s.mu pt u).buf, seen := sn } := by
    cases useIn
    · exact ⟨_, rfl⟩
    · exact ⟨_, (State.muTake_untapped htap).2⟩
  obtain ⟨sn, hin⟩ := hin
  have hag : ∀ y : State, ∃ ts, (if useAg then y.tupleTake pt u else y).mu pt u = { y.mu pt u with tuples := ts } := by
    intro y
    cases useAg
    · exact ⟨_, rfl⟩
    · exact ⟨_, y.mu_tupleTake pt u⟩
  obtain ⟨ts, hag⟩ := hag (if useIn then s.muTake pt u else s)
  have hend : ∀ (y : State) (m : Mu), (((y.setMu pt u m).touch pt .mem).muSnap pt u t).mu pt u = m := fun y m =>
    (State.mu_of_tiles (((State.muSnap_only _ _ _ _).tiles).trans (State.tiles_touch _ pt .mem)) pt u).trans
      (y.mu_setMu pt u m)
  simp only [State.muMark, hend, hag, hin, Mu.mapReqs_eq, hskip, if_true, and_self]

end

/-- A mark that passes changes no storage, and sends nothing. -/
theorem State.muMark_only (useIn useAg : Bool) (t : Token) : TakeOnly s (s.muMark pt u useIn useAg t) := by
  have hin : TakeOnly s (if useIn then s.muTake pt u else s) := by
    split
    · exact s.muTake_only pt u
    · exact .refl
  have hag : ∀ y : State, TakeOnly y (if useAg then y.tupleTake pt u else y) := fun y => by
    split
    · exact y.tupleTake_only pt u
    · exact .refl
  exact (((hin.trans (hag _)).trans (State.setMu_only _ _ _ _)).trans (State.touch_only _ _ _).take).trans
    (State.muSnap_only _ _ _ _).take

end

/-! ### A whole request unit (R120, R132, R258) -/

theorem MuUnit.strict_clean {x : MuUnit} (h : ∀ t ∈ x.strict, t.poison = false ∧ t.mismatch = false) :
    (x.strict.any fun t => t.poison || t.mismatch) = false :=
  List.any_eq_false.mpr fun t ht => by simp [h t ht]

theorem State.sameCycle_only (s : State) (pt : Nat) (u : Bool) (next : Nat) : TakeOnly s (s.sameCycle pt u next) :=
  s.setMu_only pt u _

/-- What the partner counts as accepted before its triggers is no change of this unit (R310). -/
theorem State.mu_sameCycle_partner (s : State) (pt : Nat) (u : Bool) (next : Nat) :
    (s.sameCycle pt (!u) next).mu pt u = s.mu pt u :=
  (s.mu_setMu_eq pt (!u) u _).trans (if_neg (by cases u <;> decide))

/-- The state with the tokens of a request taken, and its tuple. -/
def State.unitTaken (s : State) (pt : Nat) (u : Bool) (n : Nat) (useAg : Bool) : State :=
  if useAg then (s.muTakes pt u n).tupleTake pt u else s.muTakes pt u n

/-- The state with a request accepted, which has yet to look for its places. -/
def State.accepted (s : State) (pt : Nat) (u : Bool) (f : MuFn) (r : MuReq) : State :=
  let m := s.mu pt u
  let y := ((s.setMu pt u { m with items := m.items ++ [.req r], next := m.next + 1 }).sameCycle pt (!u) (m.next + 1)).touch
    pt .mem
  if f.breaks then y.modOwner pt (·.breakReplay (unitKey pt (muUnit u))) else y

section
variable (s : State) (pt : Nat) (u : Bool)

theorem State.unitTaken_only (n : Nat) (useAg : Bool) : TakeOnly s (s.unitTaken pt u n useAg) := by
  unfold State.unitTaken
  split
  · exact (s.muTakes_only pt u n).trans (State.tupleTake_only _ _ _)
  · exact s.muTakes_only pt u n

theorem State.mu_unitTaken (htap : s.muTap pt u = none) (n : Nat) (useAg : Bool) : ∃ sn ts,
    (s.unitTaken pt u n useAg).mu pt u =
      { s.mu pt u with buf := (s.mu pt u).buf.drop n, seen := sn, tuples := ts } := by
  have hm := (State.muTakes_untapped htap n).2
  cases useAg
  · exact ⟨_, _, hm⟩
  · have ht := (s.muTakes pt u n).mu_tupleTake pt u
    rw [hm] at ht
    exact ⟨_, _, ht⟩

theorem State.accepted_only (f : MuFn) (r : MuReq) : TakeOnly s (s.accepted pt u f r) := by
  have h := ((s.setMu_only pt u { s.mu pt u with items := (s.mu pt u).items ++ [.req r], next := (s.mu pt u).next + 1 }).trans
    (State.sameCycle_only _ pt (!u) ((s.mu pt u).next + 1))).trans (State.touch_only _ pt .mem).take
  unfold State.accepted
  split
  · exact h.trans (State.modOwner_only _ _ _).take
  · exact h

theorem State.mu_accepted (f : MuFn) (r : MuReq) : (s.accepted pt u f r).mu pt u =
    { s.mu pt u with items := (s.mu pt u).items ++ [.req r], next := (s.mu pt u).next + 1 } := by
  have hbreaks : ∀ y : State,
      (if f.breaks then y.modOwner pt (·.breakReplay (unitKey pt (muUnit u))) else y).tiles = y.tiles := fun y => by
      split
      · exact (y.modOwner_only _ _).tiles
      · rfl
  refine (State.mu_of_tiles ((hbreaks _).trans (State.tiles_touch _ pt .mem)) pt u).trans ?_
  rw [State.mu_sameCycle_partner, State.mu_setMu]

end

section
variable {s : State} {pt c fn n : Nat} {u : Bool} {w : MemMods} {f : MuFn} {x : MuUnit} {toks : List Token}
  {tuple : Option Token} (ho : s.owner pt = some c) (hroom : (s.mu pt u).room (replOf f w.imm.toNat == 2) = true)
include ho hroom

/-- Poison that the request consumes faults the region's context. -/
theorem State.muAccept_of_poison (hp : ∃ t ∈ x.strict, t.poison = true) :
    s.muAccept pt u f fn w n x toks tuple = .next (s.consumePoison pt (muUnit u) 0) := by
  have hany : (x.strict.any fun t => t.poison || t.mismatch) = true := by
    obtain ⟨t, ht, htp⟩ := hp
    exact List.any_eq_true.mpr ⟨t, ht, by simp [htp]⟩
  simp only [State.muAccept, ho, hroom, hany, Bool.not_true, Bool.false_eq_true, if_false, if_true]

variable (hclean : ∀ t ∈ x.strict, t.poison = false ∧ t.mismatch = false)
include hclean

/-- An address that R120 refuses faults the region's context. -/
theorem State.muAccept_of_bad (hf : f ≠ .pref) (hbad : s.resolve pt u c (s.muRequest pt u c f fn w x toks tuple) = .bad) :
    s.muAccept pt u f fn w n x toks tuple = .next (s.unitFault pt (muUnit u) fcAddress 0) := by
  have hrefused : f ≠ .pref ∧ s.resolve pt u c (s.muRequest pt u c f fn w x toks tuple) = .bad := ⟨hf, hbad⟩
  have hstrict := MuUnit.strict_clean hclean
  simp only [State.muAccept, ho, hroom, hstrict, Bool.not_true, Bool.false_eq_true, if_false]
  rw [if_pos hrefused]


/-- A request unit that is whole, clean and in place is accepted, and looks for its places. -/
theorem State.muAccept_of_fits (hdata : ∀ t ∈ x.data, t.mismatch = false)
    (hfits : ¬(f ≠ .pref ∧ s.resolve pt u c (s.muRequest pt u c f fn w x toks tuple) = .bad))
    (hheld : (s.mu pt u).heldTo ≤ (s.mu pt u).next) :
    s.muAccept pt u f fn w n x toks tuple = .next (((s.unitTaken pt u n ((s.mu pt u).byAg f)).accepted pt u f
      (s.muRequest pt u c f fn w x toks tuple)).tryReq pt u (s.mu pt u).next) := by
  have hstrict := MuUnit.strict_clean hclean
  have hmis : (if f.eats then none else x.data.find? Token.mismatch) = none := by
    split
    · rfl
    · exact List.find?_eq_none.mpr fun t ht => by simp [hdata t ht]
  have hagain : (s.muRequest pt u c f fn w x toks tuple).again = false := decide_eq_false hheld.not_gt
  have hnum : (s.muRequest pt u c f fn w x toks tuple).num = (s.mu pt u).next := rfl
  simp only [State.muAccept, ho, hroom, hstrict, Bool.not_true, Bool.false_eq_true, if_false]
  rw [if_neg hfits, hmis]
  simp only [hagain, hnum, Bool.false_and, Bool.false_eq_true, if_false]
  rfl

end

/-! ### The instructions of a memory unit -/

/-- Each memory instruction fires its function on its unit. -/
theorem exec_memory {s : State} {m : MemMods} {p : Instr × Nat}
    (hp : p ∈ [(Instr.ld m, 0), (.st m, 1), (.gath m, 2), (.scat m, 3), (.atom m, 4), (.ord m, 5), (.fence m, 6), (.qld m, 7),
      (.qst m, 8), (.qstv m, 9), (.bara m, 10), (.barw m, 11), (.pref m, 12)]) : exec p.1 s = fireMem p.2 m s := by
  simp only [List.mem_cons, List.not_mem_nil, or_false] at hp
  rcases hp with rfl | rfl | rfl | rfl | rfl | rfl | rfl | rfl | rfl | rfl | rfl | rfl | rfl <;> rfl

theorem deferData_of_clean {f : MuFn} {ts : List Token} (h : ∀ t ∈ ts, t.mismatch = false) : deferData f ts = ts := by
  unfold deferData
  split
  · rfl
  · exact (List.map_congr_left fun t ht => if_neg (by simp [h t ht])).trans (List.map_id ts)

/-- Settles O47: with every stream present the heads are a mark, or the unit is refused with a fault, or accepted. -/
theorem memoryUnitsAccept : Obligations.MemoryUnitsAccept := by
  intro s pt c u m hturn ha ho hstop htap hskip hheld hlt p hp x f n toks tuple all heads present whole y r clean fits
  have hexec := exec_memory (s := s) hp
  have hfires := State.fires_of_active ha ho
  have hall : ∀ t, t ∈ toks ∨ (x.byAg f = true ∧ x.tuples.head? = some t) → t ∈ all := by
    rintro t (ht | ⟨hag, ht⟩)
    · exact List.mem_append_left _ ht
    · exact List.mem_append_right _ (Option.mem_toList.mpr ((if_pos hag).trans ht))
  have hstrict : clean → ∀ t ∈ y.strict, t.poison = false ∧ t.mismatch = false := fun hc t ht =>
    hc t (hall t (Mu.unit_strict_mem ht))
  have hdata : clean → ∀ t ∈ y.data, t.mismatch = false := fun hc t ht => (hc t (hall t (.inl (Mu.unit_data_mem ht)))).2
  have hreq : clean → s.muRequest pt u c f p.2 m y toks x.tuples.head? = r := fun hc => by
    simp only [State.muRequest, deferData_of_clean (hdata hc), decide_eq_false hheld.not_gt]
    rfl
  have haccept : whole → exec p.1 s = s.muAccept pt u f p.2 m n y toks x.tuples.head? := fun ⟨hlen, htup, hmark⟩ =>
    hexec.trans (fireMem_of_whole hturn ha hstop htap (fun hn => List.ne_nil_of_length_pos (hlen.symm ▸ hn)) htup hlen hmark)
  refine ⟨fun t ⟨htok, htup⟩ ht hk hmis => ?_, fun hw _ hroom hc hf => ?_, fun hw _ hroom hpz => ?_,
    fun hw _ hroom hc hf => ?_⟩
  · let mark : Token := { t with poison := heads.any (·.poison) }
    have hnext : exec p.1 s = .next (s.muMark pt u (decide (0 < n)) (x.byAg f) mark) :=
      hexec.trans (fireMem_of_mark hturn ha hstop htap htok htup (commonMark_of_kinds ht hk) hmis)
    obtain ⟨hitems, hbuf⟩ := State.mu_muMark htap hskip (decide (0 < n)) (x.byAg f) mark
    have honly := s.muMark_only (pt := pt) (u := u) (decide (0 < n)) (x.byAg f) mark
    refine ⟨_, hnext, ?_, ?_, by simpa only [decide_eq_true_eq] using hbuf, honly.flights, honly.ask.sameMemory⟩
    · rw [hitems, List.getLast?_concat]
    · rw [hitems, List.length_append, List.length_map, List.length_singleton]
  · have hfits : ¬(f ≠ .pref ∧ s.resolve pt u c (s.muRequest pt u c f p.2 m y toks x.tuples.head?) = .bad) := by
      rw [hreq hc]
      exact fun h => hf.elim h.1 fun hres => hres h.2
    have hnext := State.muAccept_of_fits (n := n) ho hroom (hstrict hc) (hdata hc) hfits hheld
    rw [hreq hc] at hnext
    obtain ⟨sn, ts, hunit⟩ := State.mu_unitTaken s pt u htap n (x.byAg f)
    have hmu := (State.mu_accepted _ pt u f r).trans (by rw [hunit])
    obtain ⟨_, ⟨st, es, k, used, missed, onTlbi, rfl⟩, hz⟩ := State.mu_tryReq_last (q := r) (congrArg Mu.items hmu)
      fun q hq => hlt q (Mu.mem_reqs.mpr hq)
    have honly := (((State.unitTaken_only s pt u n (x.byAg f)).trans (State.accepted_only _ pt u f r)).ask).trans
      (State.tryReq_only _ pt u r.num)
    refine ⟨_, st, es, k, used, missed, onTlbi, (haccept hw).trans hnext, ?_, ?_, ?_, honly.flights, honly.sameMemory⟩
    · exact congrArg Mu.items hz
    · exact congrArg Mu.next (hz.trans (by rw [hmu]))
    · exact congrArg Mu.buf (hz.trans (by rw [hmu]))
  · obtain ⟨hst, hcode⟩ := State.unitFault_leaves (s := s.tileRecord pt .uc (muUnit u) 0x05 0 0) ho hfires (muUnit u)
      fcPoison 0
    exact ⟨_, (haccept hw).trans (State.muAccept_of_poison ho hroom hpz), hst, hcode,
      State.mu_of_tiles (ErrOnly.tiles (s.consumePoison_only pt (muUnit u) 0)) pt u⟩
  · have hbad := not_or.mp hf
    obtain ⟨hst, hcode⟩ := State.unitFault_leaves ho hfires (muUnit u) fcAddress 0
    refine ⟨_, (haccept hw).trans (State.muAccept_of_bad ho hroom (hstrict hc) hbad.1 ?_), hst, hcode,
      State.mu_of_tiles (s.unitFault_only pt (muUnit u) fcAddress 0).tiles pt u⟩
    rw [hreq hc]
    exact not_not.mp hbad.2

end Sys2Proof.Machine

namespace Sys2Proof.Machine

/-! ## Replies, completions and marks leave in order (O49; R132, R258) -/

/-- The outputs among `codes` that an entry of the tile's switch carries on, with the token that leaves there. -/
def State.carried (s : State) (pt : Nat) (codes : List Nat) (t : Token) : List Flight :=
  (codes.filter fun k => !((s.tile pt).sw.dataOf k).isEmpty).map fun k => Flight.mk pt k t

section
variable {s y : State} {pt : Nat}

theorem State.carried_cons (code : Nat) (codes : List Nat) (t : Token) :
    s.carried pt (code :: codes) t = s.carried pt [code] t ++ s.carried pt codes t := by
  rw [State.carried, State.carried, State.carried, ← List.map_append, ← List.filter_append, List.singleton_append]

theorem State.carried_congr (h : (y.tile pt).sw = (s.tile pt).sw) (codes : List Nat) (t : Token) :
    y.carried pt codes t = s.carried pt codes t := by
  simp only [State.carried, h]

theorem State.sw_of_tiles (h : y.tiles = s.tiles) : (y.tile pt).sw = (s.tile pt).sw := by
  rw [State.tile, State.tile, h]

theorem State.sw_setMu (s : State) (pt : Nat) (u : Bool) (m : Mu) : ((s.setMu pt u m).tile pt).sw = (s.tile pt).sw := by
  cases u <;> simp [State.setMu]

theorem State.tiles_muSend (s : State) (pt code : Nat) (t : Token) : (s.muSend pt code t).tiles = s.tiles := by
  unfold State.muSend
  split
  · rfl
  · exact (s.emit_frame pt code t).2.1

theorem State.tiles_muEmit (s : State) (pt code : Nat) (t : Token) : (s.muEmit pt code t).tiles = s.tiles :=
  (State.tiles_muSend _ pt code t).trans (s.modOwner_only pt _).tiles

theorem State.flights_muEmit (s : State) (pt code : Nat) (t : Token) :
    (s.muEmit pt code t).flights = s.flights ++ s.carried pt [code] t := by
  have honly := s.modOwner_only pt (·.recordIn (muStream pt code) t)
  have hsw := State.sw_of_tiles (pt := pt) honly.tiles
  unfold State.muEmit State.muSend
  rw [hsw]
  cases h : ((s.tile pt).sw.dataOf code).isEmpty with
  | true => simp [State.carried, h, honly.take.flights]
  | false => simp [State.carried, h, honly.take.flights]

/-- What is sent on several outputs leaves on those that the switch carries on, and the tiles stay. -/
theorem State.muEmit_all (codes : List Nat) (t : Token) (s : State) :
    (codes.foldl (fun s o => s.muEmit pt o t) s).tiles = s.tiles ∧
      (codes.foldl (fun s o => s.muEmit pt o t) s).flights = s.flights ++ s.carried pt codes t := by
  induction codes generalizing s with
  | nil => exact ⟨rfl, (List.append_nil _).symm⟩
  | cons code codes ih =>
    obtain ⟨htiles, hflights⟩ := ih (s.muEmit pt code t)
    have hfirst := s.tiles_muEmit pt code t
    refine ⟨htiles.trans hfirst, hflights.trans ?_⟩
    rw [State.flights_muEmit, State.carried_congr (State.sw_of_tiles hfirst), List.append_assoc, ← State.carried_cons]

/-- The oldest item leaves its unit, and nothing leaves the tile. -/
theorem State.muPop_leaves (s : State) (pt : Nat) (u : Bool) (n : Nat) :
    (s.muPop pt u n).mu pt u =
        { s.mu pt u with items := (s.mu pt u).items.tail, completed := (s.mu pt u).completed + n } ∧
      (s.muPop pt u n).flights = s.flights ∧ ((s.muPop pt u n).tile pt).sw = (s.tile pt).sw := by
  have htiles := State.tiles_touch (s.setMu pt u
    { s.mu pt u with items := (s.mu pt u).items.tail, completed := (s.mu pt u).completed + n }) pt .mem
  refine ⟨(State.mu_of_tiles htiles pt u).trans (s.mu_setMu pt u _), ?_,
    (State.sw_of_tiles htiles).trans (s.sw_setMu pt u _)⟩
  exact ((s.setMu_only pt u _).trans (State.touch_only _ pt .mem).take).flights

end

/-! ### The reply of a request that has been performed -/

/-- The value that an element gives its reply: one with no place gives none (R259). -/
def Elem.replied (ty : Fmt) (e : Elem) : Nat :=
  match e.spot with
  | .nowhere => absentOf ty
  | _ => e.value

theorem Elem.replied_mod (ty : Fmt) (e : Elem) :
    e.replied ty % 2 ^ fmtWidth ty = if e.spot = .nowhere then absentOf ty else e.value % 2 ^ fmtWidth ty := by
  have habs : absentOf ty % 2 ^ fmtWidth ty = absentOf ty := Nat.mod_eq_of_lt (absentOf_lt ty)
  unfold Elem.replied
  split
  · next h => rw [if_pos h, habs]
  · next h => rw [if_neg h]

section
variable {r : MuReq} (hk : r.kind ∈ [MuFn.ld, .gath, .atom])
include hk

theorem MuReq.reply_eq : r.reply = payloadOf (fmtWidth r.ty)
    (r.elems.map (Elem.replied r.ty) ++ List.replicate (512 / fmtWidth r.ty - r.elems.length) (absentOf r.ty)) := by
  have hpacked : r.reply = payloadOf (fmtWidth r.ty) (r.elems.map (Elem.replied r.ty) ++
      List.replicate (512 / fmtWidth r.ty - (r.elems.map (Elem.replied r.ty)).length) (absentOf r.ty)) := by
    simp only [List.mem_cons, List.not_mem_nil, or_false] at hk
    unfold MuReq.reply
    rcases hk with hk | hk | hk <;> rw [hk] <;> rfl
  rw [hpacked, List.length_map]

/-- The reply of an element-wise read holds its elements, and absence beyond them. -/
theorem MuReq.elemAt_reply (hlen : r.elems.length ≤ 512 / fmtWidth r.ty) {j : Nat} (hj : j < 512 / fmtWidth r.ty) :
    elemAt r.reply (fmtWidth r.ty) j =
      match r.elems[j]? with
      | some e => if e.spot = .nowhere then absentOf r.ty else e.value % 2 ^ fmtWidth r.ty
      | none => absentOf r.ty := by
  have hsize : fmtWidth r.ty * (r.elems.map (Elem.replied r.ty) ++
      List.replicate (512 / fmtWidth r.ty - r.elems.length) (absentOf r.ty)).length ≤ 512 := by
    rw [List.length_append, List.length_map, List.length_replicate, Nat.add_sub_cancel' hlen]
    exact Nat.mul_div_le 512 _
  rw [MuReq.reply_eq hk, elemAt_payloadOf hsize, List.getD_eq_getElem?_getD]
  cases he : r.elems[j]? with
  | none =>
    have hout := List.getElem?_eq_none_iff.mp he
    rw [List.getElem?_append_right (by simpa using hout), List.length_map, List.getElem?_replicate, if_pos (by omega),
      Option.getD_some]
    exact Nat.mod_eq_of_lt (absentOf_lt r.ty)
  | some e =>
    have hin := (List.getElem?_eq_some_iff.mp he).1
    rw [List.getElem?_append_left (by simpa using hin), List.getElem?_map, he, Option.map_some, Option.getD_some]
    exact e.replied_mod r.ty

end

/-! ### MU_REPLY_DELIVER -/

section
variable {s : State} {pt : Nat} {u : Bool} {rest : List MuItem} (ha : s.active pt = true)
include ha

/-- A mark leaves on the outputs that its unit uses. -/
theorem muReplyDeliver_of_mark {t : Token} (hi : (s.mu pt u).items = .mark t :: rest)
    (hc : s.canEmit pt (muOuts u (s.mu pt u).replies true) = true) : ∃ z, exec (.muReplyDeliver pt u) s = .next z ∧
      (z.mu pt u).items = rest ∧ z.flights = s.flights ++ s.carried pt (muOuts u (s.mu pt u).replies true) t := by
  obtain ⟨hmu, hflights, hsw⟩ := s.muPop_leaves pt u 0
  obtain ⟨htiles, hsent⟩ := State.muEmit_all (pt := pt) (muOuts u (s.mu pt u).replies true) t (s.muPop pt u 0)
  have hnext : exec (.muReplyDeliver pt u) s =
      .next ((muOuts u (s.mu pt u).replies true).foldl (fun s o => s.muEmit pt o t) (s.muPop pt u 0)) := by
    show execMuReplyDeliver pt u s = _
    simp only [execMuReplyDeliver, ha, hi, hc, Bool.not_true, Bool.false_eq_true, if_false, if_true]
  refine ⟨_, hnext, ?_, ?_⟩
  · rw [State.mu_of_tiles htiles, hmu]
    exact congrArg List.tail hi
  · rw [hsent, hflights, State.carried_congr hsw]

/-- The state once a performed request has left, with its reply and its completion. -/
def State.replied (s : State) (pt : Nat) (u : Bool) (r : MuReq) : State :=
  let y := s.muPop pt u 1
  let z := if r.kind.replies then y.muEmit pt (muReply u) (dataToken r.reply 0 0 (r.elems.any (·.poison))) else y
  if r.cmpl then z.muEmit pt (muCompl u) (dataToken (r.completion ((s.mu pt u).completed + 1)) 0 0 false) else z

omit ha in
theorem State.replied_leaves (r : MuReq) : (s.replied pt u r).mu pt u =
      { s.mu pt u with items := (s.mu pt u).items.tail, completed := (s.mu pt u).completed + 1 } ∧
    (s.replied pt u r).flights = s.flights ++
      (if r.kind.replies then s.carried pt [muReply u] (dataToken r.reply 0 0 (r.elems.any (·.poison))) else []) ++
      (if r.cmpl then s.carried pt [muCompl u] (dataToken (r.completion ((s.mu pt u).completed + 1)) 0 0 false) else []) := by
  obtain ⟨hmu, hflights, hsw⟩ := s.muPop_leaves pt u 1
  have hsend : ∀ (y : State) (b : Bool) (code : Nat) (t : Token), (y.tile pt).sw = (s.tile pt).sw →
      (if b then y.muEmit pt code t else y).tiles = y.tiles ∧
        (if b then y.muEmit pt code t else y).flights = y.flights ++ if b then s.carried pt [code] t else [] := by
    intro y b code t hy
    cases b with
    | false => exact ⟨rfl, (List.append_nil _).symm⟩
    | true => exact ⟨y.tiles_muEmit pt code t, (y.flights_muEmit pt code t).trans (by rw [State.carried_congr hy]; rfl)⟩
  obtain ⟨ht1, hf1⟩ := hsend (s.muPop pt u 1) r.kind.replies (muReply u)
    (dataToken r.reply 0 0 (r.elems.any (·.poison))) hsw
  obtain ⟨ht2, hf2⟩ := hsend _ r.cmpl (muCompl u) (dataToken (r.completion ((s.mu pt u).completed + 1)) 0 0 false)
    ((State.sw_of_tiles ht1).trans hsw)
  refine ⟨(State.mu_of_tiles (ht2.trans ht1) pt u).trans hmu, hf2.trans ?_⟩
  rw [hf1, hflights]

/-- A performed request leaves with its reply and its completion. -/
theorem muReplyDeliver_of_req {r : MuReq} (hi : (s.mu pt u).items = .req r :: rest) (hp : r.performed = true)
    (hup : s.upset = 0) (hag : r.again = false) (hc : s.canEmit pt (muOuts u r.kind.replies r.cmpl) = true) :
    exec (.muReplyDeliver pt u) s = .next (s.replied pt u r) := by
  have hcheck : ∀ (b : Prop) [Decidable b] (k : Option Nat),
      (if b then (s, false) else s.checkedOnce pt (muUnit u) k) = (s, false) := by
    intro b _ k
    split
    · rfl
    · simp only [State.checkedOnce, hup]
  show execMuReplyDeliver pt u s = _
  simp only [execMuReplyDeliver, ha, hi, hag, hc, hcheck, MuReq.open, hp, Bool.not_true, Bool.not_false, Bool.and_true,
    Bool.false_eq_true, or_self, if_false, Bool.false_or, Bool.false_and]
  rfl

end

end Sys2Proof.Machine

namespace Sys2Proof.Machine

/-! ## Ordering requests and waiting BARWs complete (O49; R261, R263, R315, R320) -/

section
variable {s : State} {pt : Nat} {u : Bool}

/-- One request replaced by another of its number. -/
theorem State.muReq_setReq {n : Nat} {r q : MuReq} (hr : s.muReq pt u n = some r) (hq : q.num = n) :
    (s.setReq pt u q).muReq pt u n = some q := by
  have hnum : r.num = n := by simpa using List.find?_some hr
  have hsame : ((fun x : MuReq => x.num == n) ∘ fun x => if x.num = q.num then q else x) = fun x => x.num == n := by
    funext x
    by_cases hx : x.num = n
    · simp [hx, hq]
    · simp [hx, hq]
  rw [State.muReq] at hr ⊢
  rw [State.setReq, State.mu_setMu, Mu.reqs_mapReqs, List.find?_map, hsame, hr, Option.map_some, if_pos (hnum.trans hq.symm)]

/-- What replaces a held request is held. -/
theorem State.mem_reqs_setReq {r q : MuReq} (hr : r ∈ (s.mu pt u).reqs) (hq : q.num = r.num) :
    q ∈ ((s.setReq pt u q).mu pt u).reqs := by
  rw [State.setReq, State.mu_setMu, Mu.reqs_mapReqs]
  exact List.mem_map.mpr ⟨r, hr, if_pos hq.symm⟩

theorem State.muReq_of_tiles {t : State} (h : t.tiles = s.tiles) (n : Nat) : t.muReq pt u n = s.muReq pt u n := by
  rw [State.muReq, State.muReq, State.mu_of_tiles h]

/-- The first open request of a kind is held by its unit. -/
theorem State.firstOpen_mem {p : MuFn → Bool} {r : MuReq} (h : s.firstOpen pt u p = some r) :
    r ∈ (s.mu pt u).reqs ∧ p r.kind = true := by
  have hp := List.find?_some h
  exact ⟨List.mem_of_find?_eq_some h, (Bool.and_eq_true_iff.mp hp).1⟩

/-- The state once an ordering request has completed. -/
def State.ordered (s : State) (pt : Nat) (u : Bool) (c : Nat) (r : MuReq) : State :=
  ((if r.kind = .fence then s.dropL1 c (scopeOf (r.imm % 16)) else s).setReq pt u { r with st := .done }).releases c

section
variable {c : Nat} {r : MuReq}

/-- An ordering request whose partner has performed what it covers completes. -/
theorem ordFenceComplete_of_covered (ho : s.owner pt = some c) (hr : s.firstOpen pt u MuFn.orders = some r)
    (hst : r.st = .ready) (hcov : ∀ q ∈ (s.mu pt (!u)).reqs, q.num < r.covers → q.performed = true) :
    exec (.ordFenceComplete pt u) s = .next (s.ordered pt u c r) := by
  have hnone : ((s.mu pt (!u)).reqs.any fun q => decide (q.num < r.covers) && q.open) = false := by
    refine List.any_eq_false.mpr fun q hq h => ?_
    obtain ⟨hlt, hopen⟩ := Bool.and_eq_true_iff.mp h
    rw [MuReq.open, hcov q hq (of_decide_eq_true hlt)] at hopen
    exact absurd hopen (by decide)
  show execOrdFenceComplete pt u s = _
  simp only [execOrdFenceComplete, hr, ho, hst, hnone, ne_eq, not_true_eq_false, Bool.false_eq_true, or_self, if_false]
  rfl

/-- A fence drops lines of an L1; nothing else of storage changes, and of an L1 nothing by an ORD. -/
theorem State.ordered_leaves (hr : r ∈ (s.mu pt u).reqs) : { r with st := .done } ∈ ((s.ordered pt u c r).mu pt u).reqs ∧
    SameMemory s (s.ordered pt u c r) ∧ (r.kind ≠ .fence → (s.ordered pt u c r).l1 = s.l1) := by
  obtain ⟨l, hl, hkeep⟩ : ∃ l, (if r.kind = .fence then s.dropL1 c (scopeOf (r.imm % 16)) else s) = { s with l1 := l } ∧
      (r.kind ≠ .fence → l = s.l1) := by
    split
    · next h => exact ⟨_, rfl, fun hn => absurd h hn⟩
    · exact ⟨_, rfl, fun _ => rfl⟩
  have hset := State.setReq_only { s with l1 := l } pt u { r with st := .done }
  have hrel := State.releases_only (({ s with l1 := l } : State).setReq pt u { r with st := .done }) c
  unfold State.ordered
  rw [hl]
  refine ⟨?_, ?_, fun hn => ?_⟩
  · rw [State.mu_of_tiles hrel.tiles]
    exact State.mem_reqs_setReq (s := { s with l1 := l }) hr rfl
  · exact SameMemory.trans (t := { s with l1 := l }) (.refl s) (hset.trans hrel.take).ask.sameMemory
  · obtain ⟨_, _, _, _, _, _, _, _, _, hz⟩ := hset.trans hrel.take
    rw [hz]
    exact hkeep hn

end

/-! ### BARW_COMPLETE -/

/-- A field of one bit is that bit. -/
theorem natBits_one_eq_iff (n m i j : Nat) : natBits n i 1 = natBits m j 1 ↔ n.testBit i = m.testBit j := by
  have hbit : ∀ n i, natBits n i 1 = (n.testBit i).toNat := fun n i => by
    rw [natBits, pow_one, Nat.shiftRight_eq_div_pow, Nat.toNat_testBit]
  rw [hbit, hbit]
  cases n.testBit i <;> cases m.testBit j <;> decide

theorem State.raceAccess_calm {cl : Nat} (h : s.raceOn cl = false) (a : Nat) (k : Kind2) (lt : List Word64) (p : Spot)
    (w : Nat) : s.raceAccess a cl k lt p w = (s, false) := by
  simp [State.raceAccess, h]

/-- What an acquire keeps. -/
theorem State.acquire_keeps (s : State) (c : Nat) (sc : Scope) (o : Nat × Nat) :
    (s.acquire c sc o).tiles = s.tiles ∧ SameMemory s (s.acquire c sc o) := by
  obtain ⟨z, l, ⟨⟨_, _, _, rfl⟩, -⟩, h⟩ := s.acquire_eq c sc o
  rw [h]
  exact ⟨rfl, .refl s⟩

/-- A request that clears no marks, with every element performed, is done. -/
theorem State.reqCheck_of_done {n : Nat} {q : MuReq} (hq : s.muReq pt u n = some q) (hst : q.kind ≠ .st)
    (hscat : q.kind ≠ .scat) (hall : q.elems.all (·.done) = true) :
    TakeOnly s (s.reqCheck pt u n) ∧ (s.reqCheck pt u n).muReq pt u n = some { q with st := .done } := by
  have hnum : q.num = n := by simpa using List.find?_some hq
  have hset := s.setReq_only pt u { q with st := .done }
  have hreq := State.muReq_setReq (q := { q with st := .done }) hq hnum
  have hplain : ((decide (q.kind = .st) || decide (q.kind = .scat)) && !q.store.poison) = false := by simp [hst, hscat]
  simp only [State.reqCheck, hq, hall, hplain, if_true, Bool.false_eq_true, if_false]
  split
  · next c _ =>
    have hrel := State.releases_only (s.setReq pt u { q with st := .done }) c
    exact ⟨hset.trans hrel.take, (State.muReq_of_tiles hrel.tiles n).trans hreq⟩
  · exact ⟨hset, hreq⟩

section
variable {c : Nat} {r : MuReq} {e : Elem} {a : Nat} {b : Nat} (ho : s.owner pt = some c)
  (hr : s.firstOpen pt u (· == .barw) = some r) (hst : r.st = .ready) (he : r.elems = [e]) (hs : e.spot = .spad a b)
  (hstop : (s.mu pt u).stopAt = none) (hw : s.elemWaits pt u r 0 e = false) (hcalm : s.raceOn (ptCl pt) = false)
include ho hr hst he hs hstop hw hcalm

/-- A BARW that waits compares the PHASE of its word with its operand's. -/
theorem barwComplete_of_ready : exec (.barwComplete pt u) s =
    if (memBits s.spad (spadKey a 0 * 8 + b) 64).testBit 48 = (r.data.headD {}).payload.getLsbD 0 then .next s
    else .next (((s.setReq pt u (r.did 0 (memBits s.spad (spadKey a 0 * 8 + b) 64)
      (s.spadPoison.contains ((spadKey a 0 * 8 + b) / 512)))).acquire c .cluster (objWord (spadKey a 0 * 8 + b))).reqCheck
        pt u r.num) := by
  have hphase : natBits (memBits s.spad (spadKey a 0 * 8 + b) 64) 48 1 = elemAt (r.data.headD {}).payload 1 0 ↔
      (memBits s.spad (spadKey a 0 * 8 + b) 64).testBit 48 = (r.data.headD {}).payload.getLsbD 0 :=
    natBits_one_eq_iff _ _ _ _
  show execBarwComplete pt u s = _
  simp only [execBarwComplete, hr, ho, he, hs, hst, hstop, hw, State.raceAccess_calm hcalm, hphase, ne_eq, not_true_eq_false,
    Bool.false_eq_true, false_or, if_false]
  rfl

omit ho hr hst hs hstop hw hcalm in
/-- The BARW that reads a changed PHASE has been performed, and changes no storage. -/
theorem State.barw_leaves (hq : s.muReq pt u r.num = some r) (hk : r.kind = .barw) (v : Nat) (pz : Bool) (o : Nat × Nat) :
    let z := ((s.setReq pt u (r.did 0 v pz)).acquire c .cluster o).reqCheck pt u r.num
    Performed z pt u r.num 0 v pz ∧ SameMemory s z := by
  intro z
  have hdid : r.did 0 v pz = { r with elems := [{ e with done := true, value := v, poison := pz }] } := by
    simp only [MuReq.did, he]
    rfl
  obtain ⟨htiles, hsame⟩ := State.acquire_keeps (s.setReq pt u (r.did 0 v pz)) c .cluster o
  have hreq : ((s.setReq pt u (r.did 0 v pz)).acquire c .cluster o).muReq pt u r.num = some (r.did 0 v pz) :=
    (State.muReq_of_tiles htiles _).trans (State.muReq_setReq hq (by rw [hdid]))
  have hkind : (r.did 0 v pz).kind = .barw := by rw [hdid]; exact hk
  obtain ⟨honly, hdone⟩ := State.reqCheck_of_done hreq (by rw [hkind]; decide) (by rw [hkind]; decide) (by rw [hdid]; rfl)
  exact ⟨⟨_, { e with done := true, value := v, poison := pz }, hdone, by rw [hdid]; rfl, rfl, rfl, rfl⟩,
    ((s.setReq_only pt u _).ask.sameMemory).trans (hsame.trans honly.ask.sameMemory)⟩

end

end

end Sys2Proof.Machine

namespace Sys2Proof.Machine

/-! ## Walks, cooldowns, the scrub and far memory (O49; R131, R428, R438, R439, R442) -/

/-! ### PAGE_WALK_COMPLETE -/

/-- A TLB that an entry was added to holds it. -/
theorem mem_tlbAdd (cap : Nat) (t : TlbEnt) (l : List TlbEnt) : t ∈ tlbAdd cap t l := by
  unfold tlbAdd
  split
  · next h => exact List.contains_iff_mem.mp h
  · exact List.mem_append_right _ (List.mem_singleton_self t)

theorem State.llcFills_eq (s : State) (pas : List Nat) :
    ∃ lc, pas.foldl (fun (s : State) pa => s.llcFill (pa / 48) false) s = { s with llc := lc } := by
  refine List.foldlRecOn (motive := fun t : State => ∃ lc, t = { s with llc := lc }) pas _ ⟨_, rfl⟩ ?_
  rintro _ ⟨lc, rfl⟩ pa -
  obtain ⟨lc', h⟩ := State.llcFill_eq { s with llc := lc } (pa / 48) false
  exact ⟨lc', h⟩

section
variable (s : State)

theorem State.fillWaiting_only (cl : Nat) (t : TlbEnt) : AskOnly s (s.fillWaiting cl t) :=
  .fold (fun _ _ => ⟨_, _, _, _, _, _, _, _, _, _, _, _, rfl⟩) _ s

theorem State.retryParked_only (cl root : Nat) : AskOnly s (s.retryParked cl root) :=
  (AskOnly.fold (fun (t : State) (p : Nat × Bool × Nat) => t.tryReq_only p.1 p.2.1 p.2.2) _ s).trans
    ⟨_, _, _, _, _, _, _, _, _, _, _, _, rfl⟩

theorem State.dropPrefs_only (cl root va : Nat) : TakeOnly s (s.dropPrefs cl root va) := by
  refine .fold (fun t p => ?_) _ s
  split
  · split
    · exact t.setReq_only _ _ _
    · exact .refl
  · exact .refl

/-- A translation fault is pending once it has been raised. -/
theorem State.xlTrap_pends (w : Walk) (fcode : Nat) :
    (∃ f ∈ (s.xlTrap w fcode).xlPend, f.walk = w) ∧ SameMemory s (s.xlTrap w fcode) := by
  have hlast : ∀ t : State, t.xlPend = s.xlPend ++ [{ walk := w }] → ∃ f ∈ t.xlPend, f.walk = w := fun t ht =>
    ⟨{ walk := w }, ht ▸ List.mem_append_right _ (List.mem_singleton_self _), rfl⟩
  exact ⟨hlast _ rfl, .refl s⟩

end

section
variable {s : State} {k : Nat} {w : Walk} (hk : s.walks[k]? = some w) (hrun : s.walkRuns k w = true)
  (hcut : s.walkCut w = none)
include hk hrun hcut

/-- A walk that finds an entry fills the TLB of its cluster. -/
theorem pageWalkComplete_fills {t : TlbEnt} (ht : s.walkVa w.root w.va = some t) :
    ∃ z, exec (.pageWalkComplete k .ok) s = .next z ∧ t ∈ tgetD z.clTlb (w.die * 6 + w.cluster) [] ∧ SameMemory s z := by
  obtain ⟨lc, hlc⟩ := State.llcFills_eq { s with walks := ldel s.walks k } (s.walkReads w.va 4 w.root)
  let y : State := { s with
    walks := ldel s.walks k, llc := lc
    clTlb := tset s.clTlb (w.die * 6 + w.cluster) (tlbAdd 4096 t (tgetD s.clTlb (w.die * 6 + w.cluster) [])) }
  have hnext : exec (.pageWalkComplete k .ok) s =
      .next ((y.fillWaiting (w.die * 6 + w.cluster) t).retryParked (w.die * 6 + w.cluster) w.root) := by
    show execPageWalkComplete k .ok s = _
    simp only [execPageWalkComplete, hk, hrun, hcut, hlc, ht, State.walkError, Bool.not_true, Bool.false_eq_true, if_false,
      reduceCtorEq]
    rfl
  have hask := (y.fillWaiting_only (w.die * 6 + w.cluster) t).trans (State.retryParked_only _ (w.die * 6 + w.cluster) w.root)
  refine ⟨_, hnext, ?_, SameMemory.trans (t := y) (.refl s) hask.sameMemory⟩
  rw [hask.clTlb, tgetD_tset_self]
  exact mem_tlbAdd _ _ _

/-- A walk that something other than a prefetch asked for, and that finds no entry, raises a translation fault. -/
theorem pageWalkComplete_faults (ht : s.walkVa w.root w.va = none) (hagent : w.agent ≠ 0) :
    ∃ z, exec (.pageWalkComplete k .ok) s = .next z ∧ (∃ f ∈ z.xlPend, f.walk = w) ∧ SameMemory s z := by
  obtain ⟨lc, hlc⟩ := State.llcFills_eq { s with walks := ldel s.walks k } (s.walkReads w.va 4 w.root)
  let y : State := { s with walks := ldel s.walks k, llc := lc }
  let d : State := y.dropPrefs (w.die * 6 + w.cluster) w.root w.va
  have hmatters : d.walkMatters (w.die * 6 + w.cluster) w = true := by
    rw [State.walkMatters, decide_eq_true hagent, Bool.true_or, Bool.true_or]
  have hnext : exec (.pageWalkComplete k .ok) s = .next (d.xlTrap w fcXlate) := by
    show execPageWalkComplete k .ok s = _
    simp only [execPageWalkComplete, hk, hrun, hcut, hlc, ht, State.walkError, Bool.not_true, Bool.false_eq_true, if_false,
      reduceCtorEq]
    exact congrArg Host.Outcome.next (if_pos hmatters)
  obtain ⟨hpend, hsame⟩ := d.xlTrap_pends w fcXlate
  have hdrop : SameMemory s d := SameMemory.trans (t := y) (.refl s)
    (y.dropPrefs_only _ _ _).ask.sameMemory
  exact ⟨_, hnext, hpend, hdrop.trans hsame⟩

end

/-! ### BANK_COOLDOWN_END and PATROL_SCRUB -/

section
variable {s : State} {st bk : Nat}

/-- A cooldown as the end of a bank's cooldowns leaves it. -/
def State.cooled (s : State) (st bk : Nat) (k : Cool) : Cool :=
  if s.coolOver st bk k then { k with ended := true, queue := k.queue.filter s.bankAlive } else k

theorem State.coolOver_cooled (k : Cool) : s.coolOver st bk (s.cooled st bk k) = false := by
  unfold State.cooled
  split
  · simp [State.coolOver]
  · next h => exact Bool.eq_false_iff.mpr h

/-- A cooldown that is over ends. -/
theorem bankCooldownEnd_of_over (h : ∃ k ∈ s.cooldown, s.coolOver st bk k = true) : exec (.bankCooldownEnd st bk) s =
    .next { s with cooldown := (s.cooldown.map (s.cooled st bk)).filter fun k => !(k.ended && k.queue.isEmpty) } :=
  if_pos (List.any_eq_true.mpr h)

/-- With none over, the event does not happen. -/
theorem bankCooldownEnd_of_none (h : ∀ k ∈ s.cooldown, s.coolOver st bk k = false) :
    exec (.bankCooldownEnd st bk) s = .next s :=
  if_neg (by rw [List.any_eq_true]; rintro ⟨k, hk, hover⟩; rw [h k hk] at hover; exact absurd hover (by decide))

end

theorem mem_markAdd (l : List Nat) (k : Nat) : k ∈ markAdd l k := by
  unfold markAdd
  split
  · next h => exact List.contains_iff_mem.mp h
  · exact List.mem_append_right _ (List.mem_singleton_self k)

/-- A record with a free syndrome changes no storage. -/
theorem State.eccRecord_same (s : State) (die : Nat) (loc : ErrLoc) (cls : ErrClass) (src type addr ctx : Nat) :
    SameMemory s (s.eccRecord die loc cls src type addr ctx) :=
  .refl s

/-- A visit of the scrub to a sector of the stacks: what it corrects it records, and it marks what it cannot correct. -/
theorem patrolScrub_visits (s : State) {pa : Nat} (hpa : paHbm pa = true) :
    (∃ z, exec (.patrolScrub pa .corrected) s = .next z ∧ SameMemory s z) ∧
      ∃ z, exec (.patrolScrub pa .uncorrected) s = .next z ∧ pa / 48 ∈ z.memPoison ∧ z.mem = s.mem := by
  have hhbm : ¬((!paHbm pa) = true) := by simp [hpa]
  exact ⟨⟨_, if_neg hhbm, s.eccRecord_same _ _ _ _ _ _ _⟩, ⟨_, if_neg hhbm, mem_markAdd _ _, rfl⟩⟩

/-! ### FAR_MEMORY_TIMEOUT -/

/-- A field set to 0 makes no word greater. -/
theorem toNat_setFld_zero_le {n : Nat} (w : BitVec n) (lo len : Nat) : (setFld w lo len 0).toNat ≤ w.toNat := by
  rw [setFld, BitVec.toNat_ofNat, Nat.zero_mod, Nat.zero_mul, Nat.add_zero]
  exact (Nat.mod_le _ _).trans (Nat.sub_le _ _)

/-- UP of a LINKCTL stays clear when STATE is cleared after it (R445). -/
theorem bit_63_of_linkDown (w : Word64) : bit (setFld (setFld w 63 1 0) 48 5 0) 63 = false := by
  have hup : (setFld w 63 1 0).toNat < 2 ^ 63 := by
    have hw := w.isLt
    rw [setFld, BitVec.toNat_ofNat, natBits, Nat.shiftRight_eq_div_pow]
    omega
  exact Nat.testBit_lt_two_pow ((toNat_setFld_zero_le _ 48 5).trans_lt hup)

/-- A CXL port that leaves service is down. -/
theorem State.linkUp_cxlDown (s : State) (port : Nat) : (s.cxlDown port).linkUp 0 (19 + port) = false := by
  rw [State.linkUp, State.cxlDown, State.reg_setReg]
  exact bit_63_of_linkDown _

section
variable {s : State} {pt c n e : Nat} {u : Bool} {q : MuReq} {v : Elem} {pa : Nat}

/-- A node's access to far memory that has no answer faults the node, and its port leaves service. -/
theorem farMemoryTimeout_of_node (hq : s.muReq pt u n = some q) (ho : s.owner pt = some c) (hv : q.elems[e]? = some v)
    (hst : q.st = .ready) (hd : v.done = false) (hh : q.hold = false) (hk : q.kind ≠ .pref) (hp : v.spot.pa? = some pa)
    (hfar : paFar pa = true) : exec (.farMemoryTimeout (.node pt) u n e) s =
      .next ((s.linkFault pt u q pa fcFarmem c).cxlDown (paPort pa)) := by
  show execFarMemoryTimeout (.node pt) u n e s = _
  simp only [execFarMemoryTimeout, hq, ho, hv, hp, hst, hd, hh, hfar, hk, ne_eq, not_true_eq_false, Bool.not_true,
    Bool.false_eq_true, or_self, if_false]

/-- The fault of an access that far memory did not answer (R414, R442). -/
theorem State.linkFault_leaves (ho : s.owner pt = some c) (hf : (s.ctx c).st.fires = true) (u : Bool) (q : MuReq) (pa : Nat) :
    let z := s.linkFault pt u q pa fcFarmem c
    (z.ctx c).st = .faulted ∧ (z.ctx c).fcode = fcFarmem ∧ SameMemory s z := by
  intro z
  let y := (s.farRecord pa c).setReq pt u { q with st := .failed }
  have hctxs : y.ctxs = s.ctxs := by
    cases u <;> rfl
  have howner : y.owner pt = some c := by rw [State.owner, hctxs]; exact ho
  have hfires : (y.ctx c).st.fires = true := by rw [State.ctx_of_ctxs hctxs]; exact hf
  obtain ⟨hst, hcode⟩ := State.unitFault_leaves howner hfires (muUnit u) fcFarmem 0
  have hrec : SameMemory s (s.farRecord pa c) := (s.errRecord_only _ _ _ _ _ _ _ _).sameMemory
  exact ⟨hst, hcode,
    (hrec.trans (State.setReq_only _ _ _ _).ask.sameMemory).trans (State.unitFault_only _ _ _ _ _).sameMemory⟩

end

end Sys2Proof.Machine

namespace Sys2Proof.Machine

/-! ## The memory side's events (O49) -/

/-- A data token leaves with the residue of its payload. -/
theorem dataToken_mismatch (p : Payload) (slot : BitVec 6) (coord : BitVec 32) (poison : Bool) :
    (dataToken p slot coord poison).mismatch = false :=
  bne_self_eq_false _

/-- Settles O49: for each event, the state that it leads to, and what that state keeps and changes. -/
theorem memoryEvents : Obligations.MemoryEvents := by
  intro s pt c u x outs sent
  refine ⟨fun t rest ha hi hc => muReplyDeliver_of_mark ha hi hc, ?deliver, ?order, ?barrier, ?walk, ?cooldown, ?scrub, ?far⟩
  case deliver =>
    intro r rest ha hi hp hup hag hc
    obtain ⟨hmu, hflights⟩ := State.replied_leaves (s := s) (pt := pt) (u := u) r
    refine ⟨_, dataToken r.reply 0 0 (r.elems.any (·.poison)), muReplyDeliver_of_req ha hi hp hup hag hc, ?_, ?_, hflights, rfl,
      dataToken_mismatch _ _ _ _, List.any_eq_true, fun hk hlen j hj => MuReq.elemAt_reply hk hlen hj⟩
    · rw [hmu]
      exact congrArg List.tail hi
    · rw [hmu]
  case order =>
    intro r ho hr hst hcov
    have hmem := (State.firstOpen_mem hr).1
    obtain ⟨hheld, hsame, hl1⟩ := State.ordered_leaves (c := c) hmem
    exact ⟨_, _, ordFenceComplete_of_covered ho hr hst hcov, hheld, rfl, rfl, hsame, fun hk => hl1 (by rw [hk]; decide)⟩
  case barrier =>
    intro r e a b ho hr hst he hs hstop hw hcalm hq v
    have hk : r.kind = .barw := beq_iff_eq.mp (State.firstOpen_mem hr).2
    have hnext := barwComplete_of_ready ho hr hst he hs hstop hw hcalm
    refine ⟨fun hv => ?_, fun hv => hnext.trans (if_pos hv)⟩
    obtain ⟨hdone, hsame⟩ := State.barw_leaves (c := c) he hq hk v (s.spadPoison.contains ((spadKey a 0 * 8 + b) / 512))
      (objWord (spadKey a 0 * 8 + b))
    exact ⟨_, _, hnext.trans (if_neg hv), hdone, hsame⟩
  case walk =>
    exact fun k w hk hrun hcut => ⟨fun t ht => pageWalkComplete_fills hk hrun hcut ht, pageWalkComplete_faults hk hrun hcut⟩
  case cooldown =>
    refine fun st bk => ⟨fun hover => ⟨_, bankCooldownEnd_of_over hover, fun k hk => ?_, fun k hk hn hopen => ?_, .refl s⟩,
      bankCooldownEnd_of_none⟩
    · obtain ⟨k', -, rfl⟩ := List.mem_map.mp (List.mem_filter.mp hk).1
      exact State.coolOver_cooled k'
    · have hsame : s.cooled st bk k = k := if_neg (by rw [hn]; decide)
      exact List.mem_filter.mpr ⟨List.mem_map.mpr ⟨k, hk, hsame⟩, by simp [hopen]⟩
  case scrub =>
    exact fun pa hpa => patrolScrub_visits s hpa
  case far =>
    intro n e q v hq ho hf hv hst hd hh hk b f sc tr hs hfar
    obtain ⟨hst', hcode, hsame⟩ := State.linkFault_leaves ho hf u q (b / 8)
    exact ⟨_, farMemoryTimeout_of_node hq ho hv hst hd hh hk (by rw [hs]; rfl) hfar, hst', hcode, State.linkUp_cxlDown _ _,
      hsame.trans (.refl _)⟩

end Sys2Proof.Machine

namespace Sys2Proof.Machine

/-! ## Literals, branches, calls, returns and the table jump (O25) -/

/-! ### A branch that issues (R276) -/

/-- What a signal leaves: everything but its own context. -/
theorem State.signal_leaves (s : State) (c : Nat) (g : Signal) : LeavesRest s (s.signal c g) c := by
  obtain ⟨_, _, _, _, _, _, h⟩ := s.signal_only c g
  refine ⟨?_, ?_, ?_, (s.ctx_signal c g).1, s.signal_regs c g⟩
  all_goals rw [h]
  · exact ⟨fun _ => rfl, fun _ => rfl, fun _ => rfl, rfl, rfl, rfl⟩
  · exact ⟨rfl, rfl, rfl⟩

theorem State.branch_leaves (s : State) (c : Nat) (w : CtlP2) (target : Nat) : LeavesRest s (s.branch c w target) c :=
  (s.modCtx_leaves c fun x => { x.past 0 with pc := target }).trans (State.signal_leaves _ c _)

theorem State.branch_ctx (s : State) (c : Nat) (w : CtlP2) (target : Nat) :
    Ctx.SignalOnly { (s.ctx c).past 0 with pc := target } ((s.branch c w target).ctx c) := by
  have h := (s.setCtx c { (s.ctx c).past 0 with pc := target }).signal_ctx c (signalOf (s.ctx c) w)
  rwa [State.ctx_setCtx] at h

/-- A command that ends with `branch` completes at issue at the target, with what its effect `z` has left. -/
theorem completesAt_of_branch {i : Instr} {s z : State} {c target : Nat} {w : CtlP2} {ws : List (XReg × Word64)}
    (he : exec i s = .next (z.branch c w target)) (hz : LeavesRest s z c) (hst : (z.ctx c).st = .running)
    (hx : ∀ k, (z.ctx c).getX k = (s.ctx c).withX ws k) : CompletesAt i s c target ws := by
  obtain ⟨_, _, _, hc⟩ := z.branch_ctx c w target
  refine ⟨_, he, ?_, fun k => ?_, ?_, hz.trans (z.branch_leaves c w target), trivial⟩
  all_goals rw [hc]
  · exact hx k
  · exact hst

/-! ### The words of a table's entry (R276) -/

/-- A number's value as R98 reads it is that of its word. -/
theorem signedOf_toNat (v : Word64) : signedOf 64 v.toNat = v.toInt := by
  rw [show signedOf 64 v.toNat = sint 64 v.toNat from rfl, sint_eq_toInt (by decide), BitVec.ofNat_toNat, BitVec.setWidth_eq]

/-- The first parcel of a landing pad with the label of a table's entry (R196). -/
theorem ctlLpadParcel_label (p : Parcel) : ctlLpadParcel (fld p 0 10) = BitVec.ofNat 32 (0x45400000 + p.toNat % 1024) := by
  have hl : fld p 0 10 = p.toNat % 1024 := rfl
  rw [ctlLpadParcel, hl, Nat.mod_mod]
  rfl

/-- The upper half of a word is empty when it is below 2^32, and no offset is cut off (R276). -/
theorem fld_high_eq_zero_iff (v : Word64) : fld v 32 32 = 0 ↔ v.toNat < 2 ^ 32 := by
  have hf : fld v 32 32 = v.toNat / 2 ^ 32 % 2 ^ 32 := by rw [fld, natBits, Nat.shiftRight_eq_div_pow]
  rw [hf]
  omega

theorem fld_low_of_lt {v : Word64} (h : v.toNat < 2 ^ 32) : fld v 0 32 = v.toNat := Nat.mod_eq_of_lt h

/-! ### The commands -/

section
variable {s : State} {c : Nat} {w : CtlP2} (h : Issues s c w)
include h

theorem Issues.pastWait_running : ((s.pastWait c).ctx c).st = .running := by
  rw [State.ctx_pastWait_self]
  exact h.running

/-- LI with and without HIGH (R275). -/
theorem completesAt_li (d : XReg) (lit : Parcel) :
    CompletesAt (.li d w lit) s c ((s.ctx c).pc + 3) [(d, lit.signExtend 64)] ∧
    CompletesAt (.liHigh d w lit) s c ((s.ctx c).pc + 3)
      [(d, BitVec.ofNat 64 (lit.toNat * 2 ^ 32 + ((s.ctx c).getX d).toNat % 2 ^ 32))] := by
  have hwrite : ∀ {i : Instr} (v : Ctx → Word64), exec i s = runCmd w (atIssue w 3 fun s c => s.modCtx c fun x => x.setX d (v x)) s →
      (∀ x : Ctx, v { x with waitDone := true } = v x) → CompletesAt i s c ((s.ctx c).pc + 3) [(d, v (s.ctx c))] :=
    fun v he hv => completesAt_of_setX h 3 (fun x => x.setX d (v x)) _ he (fun x => by rw [hv x]; rfl) rfl rfl
      fun k => ((s.ctx c).withX_singleton d k _).symm
  exact ⟨hwrite (fun _ => lit.signExtend 64) rfl fun _ => rfl,
    hwrite (fun x => BitVec.ofNat 64 (lit.toNat * 2 ^ 32 + fld (x.getX d) 0 32)) rfl fun _ => rfl⟩

/-- A conditional branch goes where its test says (R276). -/
theorem completesAt_branchIf {i : Instr} {t : Word64 → Word64 → Bool} {a b : XReg} {lit : Parcel} {taken : Bool}
    (he : exec i s = branchIf t a b w lit s) (ht : t ((s.ctx c).getX a) ((s.ctx c).getX b) = taken) :
    CompletesAt i s c (if taken then lit.toNat else (s.ctx c).pc + 3) [] := by
  have hrun : exec i s = if taken then .next ((s.pastWait c).branch c w lit.toNat) else .next ((s.pastWait c).finish c w 3) := by
    rw [he]
    refine (runCmd_issues h _ rfl).trans ?_
    simp only [State.getX_pastWait, ht]
  cases taken with
  | true => exact completesAt_of_branch hrun (s.pastWait_leaves c) h.pastWait_running (s.getX_pastWait c)
  | false =>
    exact completesAt_of_finish hrun (s.pastWait_leaves c) (by rw [State.ctx_pastWait_self]) h.pastWait_running
      (s.getX_pastWait c) trivial

/-- B always goes to its literal (R276). -/
theorem completesAt_b (lit : Parcel) : CompletesAt (.b w lit) s c lit.toNat [] :=
  completesAt_of_branch (runCmd_issues h _ rfl) (s.pastWait_leaves c) h.pastWait_running (s.getX_pastWait c)

/-- CALL leaves the offset of the command behind it (R276). -/
theorem completesAt_call (d : XReg) (lit : Parcel) :
    CompletesAt (.call d w lit) s c lit.toNat [(d, BitVec.ofNat 64 ((s.ctx c).pc + 3))] := by
  have hc : ((s.pastWait c).setCtx c (((s.pastWait c).ctx c).setX d (BitVec.ofNat 64 (((s.pastWait c).ctx c).pc + 3)))).ctx c =
      Ctx.setX { s.ctx c with waitDone := true } d (BitVec.ofNat 64 ((s.ctx c).pc + 3)) := by
    rw [State.ctx_setCtx, State.ctx_pastWait_self]
  refine completesAt_of_branch (runCmd_issues h _ rfl) ((s.pastWait_leaves c).trans (State.modCtx_leaves _ c fun x =>
    x.setX d (BitVec.ofNat 64 (x.pc + 3)))) ?_ fun k => ?_
  all_goals rw [hc]
  · exact h.running
  · rw [Ctx.withX_singleton]
    rfl

/-- RET goes to the offset in its register (R276). -/
theorem completesAt_ret {a : XReg} (hp : ((s.ctx c).getX a).toNat < 2 ^ 32) :
    CompletesAt (.ret a w) s c ((s.ctx c).getX a).toNat [] := by
  refine completesAt_of_branch (w := w) ?_ (s.pastWait_leaves c) h.pastWait_running (s.getX_pastWait c)
  refine (runCmd_issues h _ ?_).trans ?_
  · simp only [State.getX_pastWait, (fld_high_eq_zero_iff _).mpr hp]
    rfl
  · simp only [State.getX_pastWait, fld_low_of_lt hp]

/-- RET of what is no offset traps (R276, R416). -/
theorem trapsWith_ret {a : XReg} (hs : isSupId c = false) (hp : 2 ^ 32 ≤ ((s.ctx c).getX a).toNat) :
    TrapsWith (.ret a w) s c causeUnassigned := by
  have hhigh : fld ((s.ctx c).getX a) 32 32 ≠ 0 := fun e => absurd ((fld_high_eq_zero_iff _).mp e) (Nat.not_lt.mpr hp)
  have hk : trapUnless (decide (fld (((s.pastWait c).ctx c).getX a) 32 32 = 0)) = some causeUnassigned := by
    rw [State.getX_pastWait, decide_eq_false hhigh]
    rfl
  exact trapsWith_of_check h { check := fun s c => trapUnless (decide (fld ((s.ctx c).getX a) 32 32 = 0)), act := _ } rfl hs rfl hk

/-- A landing pad does nothing (R196, R276). -/
theorem completesAt_ctlLpad (label : BitVec 10) : CompletesAt (.ctlLpad label w) s c ((s.ctx c).pc + 2) [] :=
  completesAt_of_finish (runCmd_unchecked h 2 fun s _ => s) (s.pastWait_leaves c) (by rw [State.ctx_pastWait_self])
    h.pastWait_running (s.getX_pastWait c) trivial

end

/-! ### The table jump (R196, R276) -/

/-- The operand check of JTAB: the table's place, the index, and the pad that the entry names. -/
def jtabCheck (x : Ctx) (a b : XReg) (imm : BitVec 8) : Option Nat :=
  let i := (x.getX a).toInt
  let base := (x.getX b).toNat
  if base % 2 ≠ 0 then some causeUnassigned
  else if i < 0 ∨ i ≥ imm.toNat then some causeBound
  else
    let e := base + 2 * i.toNat
    trapUnless (parcelAt x (parcelAt x (e + 1)).toNat = BitVec.ofNat 32 (0x45400000 + (parcelAt x e).toNat % 1024)) causeLpad

/-- JTAB as a command: its check, and its branch to the entry's target. -/
theorem exec_ctlJtab (a b : XReg) (imm : BitVec 8) (w : CtlP2) (s : State) : exec (.ctlJtab a b imm w) s = runCmd w {
    check := fun s c => jtabCheck (s.ctx c) a b imm
    act := fun s c _ => .next (s.branch c w
      (parcelAt (s.ctx c) (((s.ctx c).getX b).toNat + 2 * ((s.ctx c).getX a).toInt.toNat + 1)).toNat) } s := by
  show execCtlJtab a b imm w s = _
  simp only [execCtlJtab, jtabCheck, signedOf_toNat, ctlLpadParcel_label]

/-- A context past its wait field holds the same registers and code. -/
theorem jtabCheck_pastWait (s : State) (c : Nat) (a b : XReg) (imm : BitVec 8) :
    jtabCheck ((s.pastWait c).ctx c) a b imm = jtabCheck (s.ctx c) a b imm := by
  rw [State.ctx_pastWait_self]
  rfl

section
variable {s : State} {c : Nat} {w : CtlP2} {a b : XReg} {imm : BitVec 8} (h : Issues s c w)
include h

/-- JTAB jumps where its check finds nothing. -/
theorem completesAt_ctlJtab (hk : jtabCheck (s.ctx c) a b imm = none) : CompletesAt (.ctlJtab a b imm w) s c
    (parcelAt (s.ctx c) (((s.ctx c).getX b).toNat + 2 * ((s.ctx c).getX a).toInt.toNat + 1)).toNat [] := by
  have hcode : ∀ o, parcelAt ((s.pastWait c).ctx c) o = parcelAt (s.ctx c) o := fun o => by
    rw [State.ctx_pastWait_self]
    rfl
  refine completesAt_of_branch (w := w) ?_ (s.pastWait_leaves c) h.pastWait_running (s.getX_pastWait c)
  rw [exec_ctlJtab, runCmd_issues h _ ((jtabCheck_pastWait s c a b imm).trans hk)]
  simp only [State.getX_pastWait, hcode]

/-- JTAB traps with the cause that its check finds. -/
theorem trapsWith_ctlJtab (hs : isSupId c = false) {cause : Nat} (hk : jtabCheck (s.ctx c) a b imm = some cause) :
    TrapsWith (.ctlJtab a b imm w) s c cause :=
  trapsWith_of_check h _ (exec_ctlJtab a b imm w s) hs rfl ((jtabCheck_pastWait s c a b imm).trans hk)

end

/-- Settles O25: every form either ends with `finish` or `branch` once it is issued, or its operand check finds the cause of its
trap; for JTAB the check is `jtabCheck`. -/
theorem literalsAndBranches : Obligations.LiteralsAndBranches := by
  intro s c w d a b imm lit label h x p q goes
  have hge : (!p.slt q) = decide (q.toInt ≤ p.toInt) := by simp only [BitVec.slt, ← decide_not, not_lt]
  have hgeu : (!p.ult q) = decide (q.toNat ≤ p.toNat) := by simp only [BitVec.ult, ← decide_not, not_lt]
  refine ⟨completesAt_li h d lit, ⟨?_, ?_, ?_, ?_, ?_, ?_, completesAt_b h lit⟩, completesAt_call h d lit, completesAt_ret h,
    fun hp hs => trapsWith_ret h hs hp, ⟨completesAt_ctlLpad h label, completesAt_ctlNop h trivial⟩, fun heven => ?_⟩
  · exact completesAt_branchIf (t := fun a b => a == b) h rfl rfl
  · exact completesAt_branchIf (t := fun a b => a != b) h rfl rfl
  · exact completesAt_branchIf (t := fun a b => a.slt b) h rfl rfl
  · exact completesAt_branchIf (t := fun a b => !a.slt b) h rfl hge
  · exact completesAt_branchIf (t := fun a b => a.ult b) h rfl rfl
  · exact completesAt_branchIf (t := fun a b => !a.ult b) h rfl hgeu
  · intro goal pad
    have hcheck : jtabCheck x a b imm = if p.toInt < 0 ∨ p.toInt ≥ imm.toNat then some causeBound
        else trapUnless (decide pad) causeLpad := if_neg (not_not.mpr heven)
    refine ⟨fun h0 hlt hpad => completesAt_ctlJtab h ?_, fun hs h0 hlt hpad => trapsWith_ctlJtab h hs ?_,
      fun hs hout => trapsWith_ctlJtab h hs ?_⟩
    · rw [hcheck, if_neg (by omega), decide_eq_true hpad]
      rfl
    · rw [hcheck, if_neg (by omega), decide_eq_false hpad]
      rfl
    · rw [hcheck, if_pos (by omega)]

end Sys2Proof.Machine

namespace Sys2Proof.Machine

/-! ## Marks, jumps, loops and the table jump of a compute unit (O11) -/

/-! ### What steps of a sequencer leave -/

/-- What taking the heads of distinct inputs leaves of the tile's units (R48). -/
theorem State.takeAll_leaves (s : State) (pt : Nat) (u : Bool) {ks : List (Fin 6)} (h : ks.Nodup) :
    LeavesUnit s (s.takeAll pt u ks) pt u ks [] (s.cu pt u).pos [] := by
  have hA := fun u' => s.cu_takeAll pt u u' ks h
  have hz : (s.takeAll pt u ks).cu pt u = { s.cu pt u with
      ins := ((s.takeAll pt u ks).cu pt u).ins, lastCoord := ((s.takeAll pt u ks).cu pt u).lastCoord } := by
    have hown := (hA u).1
    generalize (s.takeAll pt u ks).cu pt u = a at *
    rw [← hown]
  refine ⟨by rw [hz], fun u' k => (hA u').2 k, fun q => ?_, fun k _ => by rw [hz], by rw [hz], by rw [hz], by rw [hz]⟩
  rw [hz]
  simp only [List.not_mem_nil, if_false]

/-- Taking heads leaves the sticky flags. -/
theorem State.flags_takeAll (s : State) (pt : Nat) (u : Bool) {ks : List (Fin 6)} (h : ks.Nodup) :
    ((s.takeAll pt u ks).cu pt u).flags = (s.cu pt u).flags := by
  have hown := congrArg Cu.flags (s.cu_takeAll pt u u ks h).1
  exact hown

theorem State.cu_ctlTake (s : State) (pt : Nat) (u u' : Bool) (q : Fin 4) : (s.ctlTake pt u q).cu pt u' =
    if u' = u then { s.cu pt u with qs := (s.cu pt u).qs.set q (s.cu pt u).qs[q].tail } else s.cu pt u' := by
  have htiles : (s.ctlTake pt u q).tiles =
      (s.setCu pt u { s.cu pt u with qs := (s.cu pt u).qs.set q (s.cu pt u).qs[q].tail }).tiles :=
    (State.free_frame _ _).2.1.trans (State.tiles_touch _ _ _)
  rw [State.cu_congr htiles, State.cu_setCu_eq]

theorem LeavesUnit.refl (s : State) (pt : Nat) (u : Bool) : LeavesUnit s s pt u [] [] (s.cu pt u).pos [] :=
  ⟨rfl, fun _ _ => by simp, fun _ => by simp, fun _ _ => rfl, rfl, rfl, rfl⟩

/-- A control token taken (R45). -/
theorem State.ctlTake_leaves (s : State) (pt : Nat) (u : Bool) (q : Fin 4) :
    LeavesUnit s (s.ctlTake pt u q) pt u [] [q] (s.cu pt u).pos [] := by
  have hu : (s.ctlTake pt u q).cu pt u = { s.cu pt u with qs := (s.cu pt u).qs.set q (s.cu pt u).qs[q].tail } := by
    rw [State.cu_ctlTake, if_pos rfl]
  refine ⟨by rw [hu], fun u' k => ?_, fun j => ?_, fun k _ => by rw [hu], by rw [hu], by rw [hu], by rw [hu]⟩
  · rw [State.cu_ctlTake]
    split
    · next h => simp [h]
    · simp
  · rw [hu]
    by_cases h : j = q
    · subst h
      simp
    · have hne : q.val ≠ j.val := fun e => h (Fin.ext e).symm
      simp [h, hne]

/-- A gate's control token taken, where there is a gate (R235). -/
theorem State.takeGate_leaves (s : State) (pt : Nat) (u : Bool) (v : EView) :
    LeavesUnit s (s.takeGate pt u v.m.qg) pt u [] (s.gateCtl pt u v) (s.cu pt u).pos [] := by
  unfold State.gateCtl
  cases v.m.qg with
  | none => exact .refl s pt u
  | _ => exact s.ctlTake_leaves pt u _

section
variable {s z t : State} {pt : Nat} {u : Bool} {ks : List (Fin 6)} {qs : List (Fin 4)} {p : Nat} {rs : List (Fin 8)}
  (h : LeavesUnit s z pt u ks qs p rs)
include h

/-- What follows, and leaves the tile's units as they are. -/
theorem LeavesUnit.of_units (hu : ∀ u', t.cu pt u' = z.cu pt u') : LeavesUnit s t pt u ks qs p rs :=
  h.moved (by rw [hu, ← h.pos]) (hu _)

/-- The unit replaced by one with the same inputs, registers of constants, store and configuration. -/
theorem LeavesUnit.setCu {x : Cu} {rs' : List (Fin 8)} (hi : x.ins = (z.cu pt u).ins) (hq : x.qs = (z.cu pt u).qs)
    (hs : ∀ k : Fin 8, k ∉ rs' → x.sRegs[k] = (s.cu pt u).sRegs[k]) (hc : x.cRegs = (z.cu pt u).cRegs)
    (hst : x.store = (z.cu pt u).store) (hcfg : x.cfg = (z.cu pt u).cfg) :
    LeavesUnit s (z.setCu pt u x) pt u ks qs x.pos rs' := by
  have hu := z.cu_setCu pt u x
  refine ⟨by rw [hu], fun u' k => ?_, fun q => ?_, fun k hk => ?_, ?_, ?_, ?_⟩
  · have hins : ((z.setCu pt u x).cu pt u').ins = (z.cu pt u').ins := by
      rw [State.cu_setCu_eq]
      split
      · next e => rw [e, hi]
      · rfl
    rw [hins]
    exact h.inputs u' k
  all_goals rw [hu]
  · rw [hq]
    exact h.ctls q
  · exact hs k hk
  · exact hc.trans h.cregs
  · exact hst.trans h.store
  · exact hcfg.trans h.cfg

/-- The sequencer moves to a parcel of the store, which is as before (R45, R174). -/
theorem LeavesUnit.goto (n : Nat) : LeavesUnit s (z.goto pt u n) pt u ks qs ((s.cu pt u).wrap n) rs := by
  have hwrap : (z.cu pt u).wrap n = (s.cu pt u).wrap n := by
    unfold Cu.wrap Cu.parcel
    rw [h.store]
  rw [← hwrap]
  exact h.setCu rfl rfl h.sregs rfl rfl rfl

/-- An S register written. -/
theorem LeavesUnit.setS (k : Fin 8) (x : BitVec 32) : LeavesUnit s (z.setS pt u k x) pt u ks qs p (k :: rs) := by
  have hset : ∀ j : Fin 8, j ∉ k :: rs → ((z.cu pt u).sRegs.set k x)[j] = (s.cu pt u).sRegs[j] := fun j hj => by
    obtain ⟨hjk, hjr⟩ := not_or.mp (fun e => hj (List.mem_cons.mpr e))
    have hne : k.val ≠ j.val := fun e => hjk (Fin.ext e).symm
    rw [← h.sregs j hjr]
    exact Vector.getElem_set_ne k.isLt j.isLt hne
  rw [← h.pos]
  exact h.setCu rfl rfl hset rfl rfl rfl

/-- The sequencer moves on past the instruction (R45). -/
theorem LeavesUnit.advance (hp : p = (s.cu pt u).pos) (v : EView) :
    LeavesUnit s (z.advance pt u v.len) pt u ks qs (s.nextPos pt u v) rs := by
  unfold State.advance State.nextPos
  rw [h.pos, hp]
  exact h.goto _

end

section
variable {i : Instr} {s z : State} {pt : Nat} {u : Bool} {ks : List (Fin 6)} {qs : List (Fin 4)} {p : Nat}
  (hz : LeavesUnit s z pt u ks qs p []) (hf : z.flights = s.flights) (hg : (z.cu pt u).flags = (s.cu pt u).flags)
include hz hf hg

/-- An instruction that ends with a jump, after no more than consumption, completes there. -/
theorem completes_of_goto {n : Nat} (he : exec i s = .next (z.goto pt u n)) :
    Completes i s pt u ks qs ((s.cu pt u).wrap n) := by
  refine ⟨_, he, (z.goto_only pt u n).flights.trans hf, ?_, hz.goto n⟩
  rw [State.goto, State.cu_setCu]
  exact hg

/-- An instruction that ends with the next position completes there. -/
theorem completes_of_advance {v : EView} (hp : p = (s.cu pt u).pos) (he : exec i s = .next (z.advance pt u v.len)) :
    Completes i s pt u ks qs (s.nextPos pt u v) := by
  unfold State.advance at he
  rw [hz.pos, hp] at he
  exact completes_of_goto hz hf hg he

end

/-- A jump leaves the registers. -/
theorem State.sRegs_goto (s : State) (pt : Nat) (u : Bool) (n : Nat) : ((s.goto pt u n).cu pt u).sRegs = (s.cu pt u).sRegs := by
  rw [State.goto, State.cu_setCu]

theorem State.sRegs_setS (s : State) (pt : Nat) (u : Bool) (k : Fin 8) (x : BitVec 32) :
    ((s.setS pt u k x).cu pt u).sRegs[k] = x := by
  rw [State.setS, State.cu_setCu]
  exact Vector.getElem_set_self k.isLt

/-! ### A control token leaves (R28, R208) -/

/-- Every tile's switch is as before. -/
def State.SameSwitches (s t : State) : Prop := ∀ pt, (t.tile pt).sw = (s.tile pt).sw

theorem State.SameSwitches.trans {s t y : State} (h : s.SameSwitches t) (k : t.SameSwitches y) : s.SameSwitches y :=
  fun pt => (k pt).trans (h pt)

theorem State.SameSwitches.of_tiles {s t : State} (h : t.tiles = s.tiles) : s.SameSwitches t :=
  fun _ => State.sw_of_tiles h

theorem State.setCu_sameSwitches (s : State) (pt : Nat) (u : Bool) (c : Cu) : s.SameSwitches (s.setCu pt u c) := fun pt' => by
  by_cases h : pt' = pt
  · subst h
    cases u <;> simp [State.setCu]
  · rw [State.tile_setCu_ne _ _ _ h]

theorem State.takeAll_sameSwitches (s : State) (pt : Nat) (u : Bool) (ks : List (Fin 6)) :
    s.SameSwitches (s.takeAll pt u ks) := by
  have htake : ∀ (y : State) (k : Fin 6), y.SameSwitches (y.take pt u k) := fun y k =>
    (y.setCu_sameSwitches pt u _).trans ((State.setCu_sameSwitches _ _ _ _).trans (.of_tiles (State.takePort_tiles _ _ _ _ _)))
  exact List.foldlRecOn (motive := s.SameSwitches) ks (fun s k => s.take pt u k) (fun _ => rfl)
    fun y hy k _ => hy.trans (htake y k)

theorem State.takeGate_sameSwitches (s : State) (pt : Nat) (u : Bool) (q : Qg) : s.SameSwitches (s.takeGate pt u q) := by
  have htake : ∀ k, s.SameSwitches (s.ctlTake pt u k) := fun k =>
    (s.setCu_sameSwitches pt u _).trans (.of_tiles ((State.free_frame _ _).2.1.trans (State.tiles_touch _ _ _)))
  cases q with
  | none => exact fun _ => rfl
  | _ => exact htake _

/-- The buffers that a control token reaches turn on the switches alone (R28). -/
theorem State.ctlBufs_congr {s t : State} (h : s.SameSwitches t) (pt : Nat) (u : Bool) (k : Nat) :
    t.ctlBufs pt u k = s.ctlBufs pt u k := by
  have hreach : ∀ fuel pt code, t.reachCtl fuel pt code = s.reachCtl fuel pt code := by
    intro fuel
    induction fuel with
    | zero => exact fun _ _ => rfl
    | succ n ih => exact fun pt code => by simp only [State.reachCtl, h pt, ih]
  exact hreach _ _ _

theorem State.ctlArriving_emitCtl (s : State) (pt : Nat) (u : Bool) (k : Nat) (b : Bool) :
    (s.emitCtl pt u k b).ctlArriving = s.ctlArriving ++ (s.ctlBufs pt u k).map fun q => CtlFlight.mk q b := by
  simp [State.emitCtl, State.sendCtl]

theorem TakeOnly.ctlArriving {s t : State} (h : TakeOnly s t) : t.ctlArriving = s.ctlArriving := by
  obtain ⟨_, _, _, _, _, _, _, _, _, rfl⟩ := h
  rfl

/-- No flag set leaves the flags. -/
theorem State.flag_zero (s : State) (pt : Nat) (u : Bool) :
    s.flag pt u 0 = s.setCu pt u { s.cu pt u with flags := (s.cu pt u).flags ||| 0 } := by
  unfold State.flag
  exact if_pos rfl

/-- A firing whose one effect is a control token sends it and moves on. -/
theorem State.fired_ctl (s : State) (pt : Nat) (u : Bool) {v : EView} (hd : v.sdest = []) (q : Fin 4) (b : Bool) :
    s.fired pt u v { ctl := some (q, b) } none = ((s.flag pt u 0).emitCtl pt u q.val b).advance pt u v.len := by
  have hw : Fire.writes { ctl := some (q, b) } v = [] := by
    unfold EView.sdest at hd
    unfold Fire.writes
    cases hv : v.d with
    | s k => simp [hv] at hd
    | _ => rfl
  have hr : ∀ y : State, y.firedRegion pt u v { ctl := some (q, b) } = y := fun y => by
    unfold State.firedRegion
    dsimp only
    split <;> rfl
  unfold State.fired
  simp only [hw, hr, List.foldl_nil, Bool.false_eq_true, if_false]

/-! ### The instructions -/

/-- EMITQ writes no register (R249). -/
theorem sdest_of_emitq {i : Instr} {v : EView} (hv : elemView i = some v) (hop : v.op = .emitq) : v.sdest = [] := by
  revert v
  cases i <;> rintro v ⟨⟩ hop <;> cases hop <;> rfl

/-- ONEOS's test of its head (R248). -/
theorem kindTest_iff (n : Nat) (k : Kind) : (if n = 0 then k == .eos else k == .barrier) = true ↔
    if n = 0 then k = .eos else k = .barrier := by
  split <;> exact beq_iff_eq

section
variable {i : Instr} {v : EView} {s : State} {pt : Nat} {u : Bool} (hv : elemView i = some v)
include hv

/-- EOSE and BARE send their mark, and write no register whatever their destination (R204, R248). -/
theorem mark_leaves {hs : List Token} (hF : Fires s pt u v hs) (hrun : elemRun v s = fireElem (noS v) (elemFire s v) s)
    {tok : Token} (hr : elemFire s v (s.opnds pt u v) = { pass := some tok }) (hp : tok.poison = false) :
    ∃ t, exec i s = .next t ∧ t.flights = s.flights ++ sentOn pt u v.outs tok ∧ (t.cu pt u).flags = (s.cu pt u).flags ∧
      LeavesUnit s t pt u v.consumed (s.gateCtl pt u v) (s.nextPos pt u v) [] := by
  obtain ⟨hd, hop, -⟩ := noS_operands s pt u v
  obtain ⟨-, hcons, houts, hmods, hlen⟩ := noS_keeps v
  have hclean : hs.any (·.poison) = false := List.any_eq_false.mpr fun t ht => by simp [hF.clean t ht]
  have htok : Fire.token { pass := some tok } hs = some tok := by
    simp only [Fire.token, hclean, ← hp]
  rw [← hop] at hr
  obtain ⟨t, he, hfl, -, -, hfg, hl⟩ := fireElem_delivers hF.noS (elemFire s v) ((exec_elem hv s).trans hrun)
    (by rw [hr]) (by rw [hr]) (by rw [hr]) (by rw [hr]) (by rw [hr]; exact List.nodup_nil) (by rw [hr]; exact htok)
  rw [hr] at hfg hl
  rw [houts] at hfl
  rw [hcons, hd, State.gateCtl, hmods, State.nextPos, hlen] at hl
  exact ⟨t, he, hfl, hfg.trans (BitVec.or_zero), hl⟩

/-- EMITQ sends its control token (R249). -/
theorem emitq_leaves {hs : List Token} (hF : Fires s pt u v hs) (hop : v.op = .emitq)
    (hctl : s.canCtl pt u (vPort v).val = true) :
    ∃ t, exec i s = .next t ∧ LeavesUnit s t pt u v.consumed (s.gateCtl pt u v) (s.nextPos pt u v) [] ∧
      t.ctlArriving = s.ctlArriving ++ (s.ctlBufs pt u (vPort v).val).map fun q =>
        CtlFlight.mk q (if v.a = .none then v.m.imm.toNat.testBit 8 else decide ((s.opnds pt u v).a.scalar ≠ 0)) := by
  have hr : elemFire s v (s.opnds pt u v) = { ctl := some (vPort v,
      if v.a = .none then v.m.imm.toNat.testBit 8 else decide ((s.opnds pt u v).a.scalar ≠ 0)) } := by
    rw [elemFire, hop]
    simp only [fireEmitq, hF.given_opnd_a, decide_eq_true_eq, ne_eq, ite_not]
    rfl
  generalize (if v.a = .none then v.m.imm.toNat.testBit 8 else decide ((s.opnds pt u v).a.scalar ≠ 0)) = b at hr ⊢
  have hexec : exec i s = .next (((((s.taken pt u v).flag pt u 0).emitCtl pt u (vPort v).val b)).advance pt u v.len) := by
    have hready : ∀ z, (elemFire s v (s.opnds pt u v)).ctl = some z → s.canCtl pt u z.1.val = true := fun z hz => by
      rw [hr] at hz
      cases hz
      exact hctl
    rw [exec_elem hv, elemRun, hop]
    refine (fireElem_of_fires hF (elemFire s v) hready).trans ?_
    rw [hr]
    exact congrArg Host.Outcome.next (State.fired_ctl _ pt u (sdest_of_emitq hv hop) _ _)
  have hleft : LeavesUnit s ((s.taken pt u v).flag pt u 0) pt u v.consumed (s.gateCtl pt u v) (s.cu pt u).pos [] := by
    have hl := s.taken_leaves pt u v
    have hflag := hl.setCu (x := { (s.taken pt u v).cu pt u with flags := ((s.taken pt u v).cu pt u).flags ||| 0 }) rfl rfl
      hl.sregs rfl rfl rfl
    rwa [← State.flag_zero, hl.pos] at hflag
  have hsw : s.SameSwitches ((s.taken pt u v).flag pt u 0) := by
    rw [State.flag_zero]
    exact ((s.takeAll_sameSwitches pt u v.consumed).trans (State.takeGate_sameSwitches _ pt u v.m.qg)).trans
      (State.setCu_sameSwitches _ _ _ _)
  refine ⟨_, hexec, (hleft.of_units fun u' => State.cu_congr (State.sendCtl_frame _ _ _ _).2.1 pt u').advance rfl v, ?_⟩
  rw [State.advance, (State.goto_only _ pt u _).ctlArriving, State.ctlArriving_emitCtl, State.ctlBufs_congr hsw,
    ((s.taken_only pt u v).trans (State.flag_only _ pt u 0)).ctlArriving]

variable (hc : s.cur = .cu pt u) (hready : s.cuReady pt u = true)
include hc hready

/-- HALT stops its unit where it stands (R209). -/
theorem halt_leaves (hop : v.op = .halt) (hg : gate v.m.qg (s.ctlHead pt u (s.cu pt u).qgport) = .fire) :
    ∃ t, exec i s = .next t ∧ (t.cu pt u).halted = true ∧ t.cuReady pt u = false ∧
      LeavesUnit s t pt u [] (s.gateCtl pt u v) (s.cu pt u).pos [] := by
  have hl := s.takeGate_leaves pt u v
  have hhalted : ∀ z : State, ((z.setCu pt u { z.cu pt u with halted := true }).cu pt u).halted = true := fun z => by
    rw [State.cu_setCu]
  refine ⟨(s.takeGate pt u v.m.qg).setCu pt u { (s.takeGate pt u v.m.qg).cu pt u with halted := true }, ?_, hhalted _, ?_, ?_⟩
  · rw [exec_elem hv, elemRun, hop]
    simp [haltUnit, hc, hready, hg]
  · simp only [State.cuReady, hhalted, Bool.not_true, Bool.and_false, Bool.false_and]
  · rw [← hl.pos]
    exact hl.setCu rfl rfl hl.sregs rfl rfl rfl

/-- ONEOS on its mark takes it, sends it and jumps (R248). -/
theorem oneos_hits (hop : v.op = .oneos) {k : Fin 6} {tok : Token} (ha : v.a = .inp k) (ht : s.head pt u k = some tok)
    (ho : s.outsReady pt u v = true)
    (hit : if natBits v.m.imm.toNat 6 1 = 0 then tok.kind = .eos else tok.kind = .barrier) :
    ∃ t, exec i s = .next t ∧ t.flights = s.flights ++ sentOn pt u v.outs tok ∧
      LeavesUnit s t pt u [k] [] ((s.cu pt u).wrap (vTarget v)) [] := by
  have hl := ((s.takeAll_leaves pt u (List.nodup_singleton k)).of_units
    fun u' => State.cu_emitAll _ pt (v.outs.map (outCode u)) tok pt u').goto (vTarget v)
  have hf : (((s.takeAll pt u [k]).emitAll pt (v.outs.map (outCode u)) tok).goto pt u (vTarget v)).flights =
      s.flights ++ sentOn pt u v.outs tok := by
    rw [(State.goto_only _ pt u _).flights, State.emitAll_flights, (s.takeAll_only pt u [k]).flights, List.map_map]
    rfl
  have hexec : exec i s = .next ((((s.takeAll pt u [k]).emitAll pt (v.outs.map (outCode u)) tok).goto pt u
      (vTarget v)).snapMark pt u tok) := by
    have hhit := (kindTest_iff _ _).mpr hit
    rw [exec_elem hv, elemRun, hop]
    simp only [doOneos, onUnit, hc, hready, State.srcHead, State.takeSrc, ha, ht, hhit, ho, if_true]
    rfl
  obtain ⟨xs, hx⟩ := State.snapMark_ctxs (((s.takeAll pt u [k]).emitAll pt (v.outs.map (outCode u)) tok).goto pt u
    (vTarget v)) pt u tok
  rw [hx] at hexec
  exact ⟨_, hexec, hf, hl.of_units fun _ => rfl⟩

/-- ONEOS without its mark falls through (R248). -/
theorem oneos_passes (hop : v.op = .oneos) {k : Fin 6} {tok : Token} (ha : v.a = .inp k) (ht : s.head pt u k = some tok)
    (ho : s.outsReady pt u v = true)
    (hit : ¬if natBits v.m.imm.toNat 6 1 = 0 then tok.kind = .eos else tok.kind = .barrier) :
    Completes i s pt u [] [] (s.nextPos pt u v) := by
  refine completes_of_advance (.refl s pt u) rfl rfl rfl ?_
  have hhit := Bool.eq_false_iff.mpr fun e => hit ((kindTest_iff _ _).mp e)
  rw [exec_elem hv, elemRun, hop]
  simp only [doOneos, onUnit, hc, hready, State.srcHead, ha, ht, hhit, ho, if_true, Bool.false_eq_true, if_false]

/-- A branch on a control token goes where the token says (R249). -/
theorem branch_completes {want b : Bool} (hrun : elemRun v s = doBranch want v s) (hb : s.ctlHead pt u (vPort v) = some b) :
    Completes i s pt u [] [vPort v] (if b = want then (s.cu pt u).wrap (vTarget v) else s.nextPos pt u v) := by
  have hl := s.ctlTake_leaves pt u (vPort v)
  have hf := (s.ctlTake_only pt u (vPort v)).flights
  have hg : ((s.ctlTake pt u (vPort v)).cu pt u).flags = (s.cu pt u).flags := by rw [State.cu_ctlTake, if_pos rfl]
  have he : exec i s = .next (if b = want then (s.ctlTake pt u (vPort v)).goto pt u (vTarget v)
      else (s.ctlTake pt u (vPort v)).advance pt u v.len) := by
    rw [exec_elem hv, hrun]
    simp only [doBranch, onUnit, hc, hready, hb, if_true]
  by_cases h : b = want
  · rw [if_pos h] at he ⊢
    exact completes_of_goto hl hf hg he
  · rw [if_neg h] at he ⊢
    exact completes_of_advance hl hf hg rfl he

/-- WAITQ takes a control token, and its value into the destination (R249). -/
theorem waitq_leaves (hop : v.op = .waitq) (hup : s.upset = 0) {b : Bool} (hb : s.ctlHead pt u (vPort v) = some b) :
    ∃ t, exec i s = .next t ∧ (∀ k, v.d = .s k → (t.cu pt u).sRegs[k] = if b then 1 else 0) ∧
      LeavesUnit s t pt u [] [vPort v] (s.nextPos pt u v) v.sdest := by
  have hl := s.ctlTake_leaves pt u (vPort v)
  rw [exec_elem hv, elemRun, hop]
  simp only [doWaitq, onUnit, hc, hready, hb, State.checked_sound hup, if_true, Bool.false_eq_true, if_false]
  cases hd : v.d with
  | s k =>
    refine ⟨_, rfl, fun j hj => ?_, ?_⟩
    · cases hj
      rw [State.advance, State.sRegs_goto]
      exact State.sRegs_setS _ pt u k _
    · rw [EView.sdest, hd]
      exact (hl.setS k _).advance rfl v
  | _ =>
    refine ⟨_, rfl, fun j hj => (by cases hj), ?_⟩
    rw [EView.sdest, hd]
    exact hl.advance rfl v

/-- LOOP counts down to 0, and jumps until it is there (R249). -/
theorem loop_leaves (hop : v.op = .loop) (hup : s.upset = 0) {k : Fin 8} (hd : v.d = .s k) :
    ((s.cu pt u).sRegs[k] = 0 → Completes i s pt u [] [] (s.nextPos pt u v)) ∧
    ((s.cu pt u).sRegs[k] ≠ 0 → ∃ t, exec i s = .next t ∧ (t.cu pt u).sRegs[k] = (s.cu pt u).sRegs[k] - 1 ∧
      LeavesUnit s t pt u [] [] ((s.cu pt u).wrap (vTarget v)) [k]) := by
  have hrun : exec i s = .next (if (s.cu pt u).sRegs[k] = 0 then s.advance pt u v.len
      else (s.setS pt u k ((s.cu pt u).sRegs[k] - 1)).goto pt u (vTarget v)) := by
    rw [exec_elem hv, elemRun, hop]
    simp only [doLoop, onUnit, hc, hready, hd, State.checked_sound hup, if_true, Bool.false_eq_true, if_false]
    split <;> rfl
  refine ⟨fun h0 => ?_, fun h0 => ?_⟩
  · rw [if_pos h0] at hrun
    exact completes_of_advance (.refl s pt u) rfl rfl rfl hrun
  · rw [if_neg h0] at hrun
    refine ⟨_, hrun, ?_, ((LeavesUnit.refl s pt u).setS k _).goto _⟩
    rw [State.sRegs_goto]
    exact State.sRegs_setS s pt u k _

end

/-! ### The table jump of a compute unit (R196, R250) -/

/-- A landing pad of an element program is the parcel of R196 with its label. -/
theorem isElemLpad_iff (p : Parcel) (e : Nat) :
    isElemLpad p (natBits e 0 10) = true ↔ p = BitVec.ofNat 32 (0x610E7 * 2 ^ 10 + e % 2 ^ 10) := by
  have hlabel : natBits e 0 10 = e % 2 ^ 10 := rfl
  have hlow : fld p 0 10 = p.toNat % 2 ^ 10 := rfl
  have hhigh : fld p 10 22 = p.toNat / 2 ^ 10 % 2 ^ 22 := by rw [fld, natBits, Nat.shiftRight_eq_div_pow]
  have hp := p.isLt
  rw [← BitVec.toNat_inj, BitVec.toNat_ofNat, isElemLpad, Bool.and_eq_true, decide_eq_true_eq, decide_eq_true_eq, hlabel, hlow,
    hhigh]
  omega

/-- The entry names a landing pad with its label, at which an instruction of the store starts. -/
def Cu.Lands (c : Cu) (e : Nat) : Prop := c.startsAt (natBits e 10 6) = true ∧
  c.parcel (natBits e 10 6) = BitVec.ofNat 32 (0x610E7 * 2 ^ 10 + e % 2 ^ 10)

/-- A trapped JTAB holds its unit, consumes nothing, and its trap has entered the die's queue (R250, R418, R419). -/
theorem State.jtabTrap_leaves (s : State) (pt : Nat) (u : Bool) (cause : Nat) (x : Int) :
    let t := s.jtabTrap pt u cause x
    t.flights = s.flights ∧ (t.cu pt u).jtabHeld = true ∧ t.cuReady pt u = false ∧
    LeavesUnit s t pt u [] [] (s.cu pt u).pos [] ∧ ∀ o, s.owner pt = some o → TrapEntered s t (s.ctxDie o)
      { cause := cause, ctx := o, info := boundInfo x (ptTile pt) (cuUnit u) (s.cu pt u).pos
        unit := some ((s.ctx o).tiles.idxOf pt, u) } := by
  intro t
  have hcu : ∀ u', t.cu pt u' = (s.setCu pt u { s.cu pt u with jtabHeld := true }).cu pt u' := fun u' =>
    State.cu_congr (State.raise_only _ _ _).tiles pt u'
  have hheld : (t.cu pt u).jtabHeld = true := by rw [hcu, State.cu_setCu]
  refine ⟨?_, hheld, ?_, ?_, fun o ho => ?_⟩
  · exact ((State.setCu_only s pt u _).trans (State.raise_only _ _ _).take).flights
  · simp only [State.cuReady, hheld, Bool.not_true, Bool.and_false, Bool.false_and]
  · exact ((LeavesUnit.refl s pt u).setCu (x := { s.cu pt u with jtabHeld := true }) rfl rfl (fun _ _ => rfl) rfl rfl
      rfl).of_units hcu
  · have hraise := State.raise_trapEntered (s.setCu pt u { s.cu pt u with jtabHeld := true }) (s.ctxDie o)
      { cause := cause, ctx := o, info := boundInfo x (ptTile pt) (cuUnit u) (s.cu pt u).pos
        unit := some ((s.ctx o).tiles.idxOf pt, u) }
    have ht : t = (s.setCu pt u { s.cu pt u with jtabHeld := true }).raise (s.ctxDie o)
        { cause := cause, ctx := o, info := boundInfo x (ptTile pt) (cuUnit u) (s.cu pt u).pos
          unit := some ((s.ctx o).tiles.idxOf pt, u) } := by
      unfold t State.jtabTrap
      rw [ho]
      rfl
    rw [ht]
    exact .of_ctxs (by simp) (by simp) hraise

section
variable {i : Instr} {v : EView} {s : State} {pt : Nat} {u : Bool} {hs : List Token}

/-- What JTAB does with clean heads and no mark (R250). -/
theorem exec_jtab (hv : elemView i = some v) (hop : v.op = .jtab) (hc : s.cur = .cu pt u) (hready : s.cuReady pt u = true)
    (hup : s.upset = 0) (hh : s.heads pt u v = some hs) (hm : v.markOf hs = none) (hp : ∀ t ∈ hs, t.poison = false) {x : Int}
    (hx : (BitVec.ofNat 32 (s.opVal pt u v.a).scalar).toInt = x) {e : Nat}
    (he : fld (s.cu pt u).cfg (128 + 16 * x.toNat) 16 = e) [Decidable ((s.cu pt u).Lands e)] :
    exec i s = .next (if x < 0 ∨ x ≥ ((v.m.imm.toNat % 16 : Nat) : Int) then s.jtabTrap pt u causeBound x
      else if (s.cu pt u).Lands e then
        (s.takeAll pt u v.consumed).goto pt u (natBits e 10 6)
      else s.jtabTrap pt u causeLpad x) := by
  have hclean : hs.any (·.poison) = false := List.any_eq_false.mpr fun t ht => by simp [hp t ht]
  have hindex : sint 32 (s.opVal pt u v.a).scalar = x := (sint_eq_toInt (by decide) _).trans hx
  have hlimit : natBits v.m.imm.toNat 0 4 = v.m.imm.toNat % 16 := rfl
  have hpad : ((s.cu pt u).startsAt (natBits e 10 6) = false ∨
      isElemLpad ((s.cu pt u).parcel (natBits e 10 6)) (natBits e 0 10) = false) ↔
      ¬(s.cu pt u).Lands e := by
    rw [Cu.Lands, ← isElemLpad_iff, not_and_or, Bool.not_eq_true, Bool.not_eq_true]
  rw [exec_elem hv, elemRun, hop]
  simp only [doJtab, onUnit, hc, hready, hh, hm, State.checked_sound hup, hclean, hindex, hlimit, he, if_true, Bool.or_false,
    Bool.false_eq_true, if_false]
  by_cases hb : x < 0 ∨ x ≥ ((v.m.imm.toNat % 16 : Nat) : Int)
  · rw [if_pos hb, if_pos hb]
  · rw [if_neg hb, if_neg hb]
    by_cases hl : (s.cu pt u).Lands e
    · rw [if_neg (fun hn => hpad.mp hn hl), if_pos hl]
    · rw [if_pos (hpad.mpr hl), if_neg hl]

end

/-- Settles O11, operation by operation: the marks and EMITQ fire by `fireElem`; the others end with a jump or the next position
after no more than consumption and a write of one register; JTAB's traps leave the unit held. -/
theorem sequencerResults : Obligations.SequencerResults := by
  classical
  intro i v s pt u hv hc hready hup c imm target port gated sendsMark
  refine ⟨fun hop hF => ?_, fun hop hs hF => ?_, halt_leaves hv hc hready, fun hop k tok ha ht ho => ?_, fun hop b hb => ?_,
    fun hop b hb => ?_, fun hop => ?_, fun hop b hb => waitq_leaves hv hc hready hop hup hb,
    fun hop hs hF hctl => emitq_leaves hv hF hop hctl, fun hop k hd => loop_leaves hv hc hready hop hup hd,
    fun hop hs hh hm _ hp => ?_⟩
  · exact mark_leaves hv hF (by rw [elemRun, hop]) (by rw [elemFire, hop]; rfl) rfl
  · intro mark
    have hmark : elemFire s v (s.opnds pt u v) = { pass := some (barrierToken
        (if v.a = .none then imm else (s.opnds pt u v).a.scalar)) } := by
      rw [elemFire, hop]
      simp only [fireBare, hF.given_opnd_a, decide_eq_true_eq, ne_eq, ite_not]
      rfl
    exact mark_leaves hv hF (by rw [elemRun, hop]) hmark rfl
  · exact ⟨oneos_hits hv hc hready hop ha ht ho, oneos_passes hv hc hready hop ha ht ho⟩
  · exact branch_completes hv hc hready (by rw [elemRun, hop]) hb
  · have h := branch_completes hv hc hready (want := false) (by rw [elemRun, hop]) hb
    cases b <;> exact h
  · refine completes_of_goto (.refl s pt u) rfl rfl ?_
    rw [exec_elem hv, elemRun, hop]
    simp only [doJmp, onUnit, hc, hready, if_true]
    rfl
  · intro x e lands traps
    have hexec := exec_jtab hv hop hc hready hup hh hm hp (x := x) rfl (e := e) rfl
    refine ⟨fun h0 hlt (hl : c.Lands e) => ?_, fun h0 hlt (hl : ¬c.Lands e) => ?_, fun hout => ?_⟩
    · rw [if_neg (by omega), if_pos hl] at hexec
      exact completes_of_goto (s.takeAll_leaves pt u (List.nodup_dedup _)) (s.takeAll_only pt u v.consumed).flights
        (s.flags_takeAll pt u (List.nodup_dedup _)) hexec
    · rw [if_neg (by omega), if_neg hl] at hexec
      exact ⟨_, hexec, s.jtabTrap_leaves pt u causeLpad x⟩
    · rw [if_pos (by omega)] at hexec
      exact ⟨_, hexec, s.jtabTrap_leaves pt u causeBound x⟩

end Sys2Proof.Machine
